-- ==== Sys2Proof/Word.lean ====
section
/-! DEFINITION. The word types of the part and nothing else: every helper that computes stands in Decode.lean or under Machine/. -/

namespace Sys2Proof

/-- A 32-bit word: an instruction word or a lane word (R12, R36). -/
abbrev Word := BitVec 32

/-- A 64-bit value: a scalar register or a hardware register (R15). -/
abbrev DWord := BitVec 64

/-- A byte (R4). -/
abbrev Byte := BitVec 8

/-- One bit per lane, lane `l` in bit `l` (R15, R18). -/
abbrev Mask := BitVec 32

/-- A virtual address of a span header (R18). -/
abbrev PC := BitVec 57

/-- The 32 lane words of a name or row (R12). -/
abbrev Row := Vector Word 32

end Sys2Proof
end

