-- ==== Sys2Proof/Syntax.lean ====
section
/-! DEFINITION. The syntax of the part: its instructions and events (one constructor of `Instr` for each row of
spec/opcode_table.json), and the plain data that events bring from outside. -/

namespace Sys2Proof

/-- The hardware registers that software reaches by register writes (R7 and the tables of the hardware chapters). The memory
keys of R317 have no name in the spec: `memKey` numbered 8 × KEYID + w is word w of a key, and `ctrTenant` numbered by counter
is the tenant that Ryukel assigns to it (R242; notes/assumptions/7.md). -/
inductive RegName where
  | llcRootbase | llcTasid | llcShoot | llcShootva | llcShootst | llcFscmd | llcFsarg | llcFsdata
  | llcMigctl | llcMigring | llcMigfi | llcMigci | llcWbctl | llcWberr | llcTqos | llcAtomq | llcStalePair
  | schSq | schSqi | schCq | schCqi | schTctl | schTdown | schLtbase | schNetrej | schNakcfg | schNakcnt
  | parInterleave | parNetBoundary | parCmd | parCmdst | parTiming | parSave
  | netMacaddr | netIpv4 | netIpv6h | netIpv6l | netRank | netTxcap | netRxdrop
  | netRwinbase | netTreebase | netPeerbase | netSctcfg | netPtpofs | netPortst
  | cenStat | troySlotst
  | aszEvq | aszEvqi | aszEvlost | aszRkctl | aszRkpet | aszRkbase | aszRklen | aszScanctl | aszFenced
  | ctrTenant
  | aszMeas | aszAttreq | aszKreqa | aszKreq | aszKrst | violLogcnt | violLoge | capBase | memKey
deriving DecidableEq, Repr

/-- A hardware register: its name, and its number where the name stands for several. -/
structure HReg where
  name : RegName
  idx : Nat
deriving DecidableEq, Repr

/-- What an agent is to the registers (the Access columns of the register tables). -/
inductive Role where
  | ryukel | monitor | assize | other
deriving DecidableEq, Repr

/-- Who writes a register: its role, and the octant and the number of the general-purpose core that writes (R375). -/
structure Agent where
  role : Role
  oct : Nat
  core : Nat
deriving DecidableEq, Repr

/-- The types of an SCT packet (R340). -/
inductive SctType where
  | data | ack | nak | launch | abort | state | lineReq | lineRsp
deriving DecidableEq, Repr

/-- An SCT packet: the header of R340 field by field, and the payload bytes. `next` is what the entry names as NEXT; it travels
beside the header, which has no field for it (notes/assumptions/15.md). -/
structure SctPacket where
  ver : Nat
  type : SctType
  first : Bool
  last : Bool
  final : Bool
  err : Bool
  src : Nat
  dst : Nat
  seq : BitVec 32
  qp : BitVec 32
  roff : DWord
  tree : Nat
  kind : Nat
  op : Nat
  etype : Nat
  next : BitVec 64
  payload : List Byte
deriving DecidableEq, Repr

/-- Where the dispatcher takes a record from (R302): the ring of a class, the LAUNCH instructions, the network. -/
inductive RecordSource where
  | ring (cls : Nat) | launchInstr | net
deriving DecidableEq, Repr

/-- An Ethernet frame as the port classifies and filters it (R337, R339): its addresses, what carries it, the bytes of its datagram
with the NEXT that travels beside an SCT header, and all its bytes from the destination address to the FCS. -/
structure EthFrame where
  dstMac : BitVec 48
  srcMac : BitVec 48
  multicastJoined : Bool
  ptp : Bool
  srcIp4 : Option (BitVec 32)
  srcIp6 : Option (BitVec 128)
  dstIp4 : Option (BitVec 32)
  dstIp6 : Option (BitVec 128)
  udpPort : Option Nat
  udp : Bool
  ptpOffset : Int
  datagram : List Byte
  next : BitVec 64
  bytes : List Byte
deriving DecidableEq, Repr

/-- What a driver does to the network device of the operating system (R339, notes/assumptions/69.md): it reads the device's
configuration, takes features, sets how many queue pairs are in use, makes a buffer of some bytes available to a pair's receiver, or
sends a frame on an octant's port, with the place where its checksum starts and that of the checksum where it leaves it to the device. -/
inductive NetDevAccess where
  | config
  | features (bits : List Nat)
  | pairs (n : Nat)
  | buffer (pair n : Nat)
  | send (oct : Nat) (csum : Option (Nat × Nat)) (f : EthFrame)
deriving DecidableEq, Repr

/-- An access of a general-purpose core to partition memory (R417): a load of some bytes, a store, or an atomic by its number among
swap, add, xor, and, or, min, max, minu, maxu (notes/assumptions/64.md), of 8 bytes or of 4. `release` says that it is an R of R417,
as its rl or the fences before it make it; an acquire orders only what its core does later. Or it is an access to the network device
(R339), with the address of a buffer as its own. -/
inductive GpcAccess where
  | load (n : Nat)
  | store (bytes : List Byte) (release : Bool)
  | amo (op : Nat) (wide : Bool) (v : BitVec 64) (release : Bool)
  | netDev (a : NetDevAccess)
deriving DecidableEq, Repr

/-- Who performs a write at a home slice: the store that stands `n` places behind the oldest waiting in a core's queue, or
a general-purpose core of a partition, by its octant and number, that accesses a physical address (R291, R417). -/
inductive WriteSource where
  | core (c n : Nat)
  | gpc (part oct core pa : Nat) (a : GpcAccess)
deriving DecidableEq, Repr

/-- A sender under the queue rule of R312. -/
inductive Sender where
  | feedFill (core op : Nat) | census (core : Nat) | asker (core op : Nat) | sct (dst qp : Nat)
deriving DecidableEq, Repr

/-- Where an error of R368 is found, with what the fate of the last column needs to know: of a tile that an MMA reads, its
launch, first slot, slots and columns. -/
inductive EccSite where
  | row (core row lane : Nat)
  | accumulator (core launch slot row col : Nat)
  | scratch (core launch granule : Nat)
  | l1 (core line : Nat)
  | icache (core block : Nat)
  | llc (part unit : Nat)
  | hbm (part unit : Nat)
  | sideWord (part line : Nat)
  | btile (core tile : Nat) (duringMma : Option (Nat × Nat × Nat × List Nat))
  | scale (core entry : Nat)
  | warpState (core warp : Nat)
  | fabric (part : Nat)
  | ethernet (part : Nat)
  | kernelFrame (part pa : Nat)
deriving DecidableEq, Repr

/-- What the module boots from (R382, R383): the Salken root key, whose digest is in ROM; the images of the stages, each with its
signature; and what the configuration image says. The Assize of each octant has its own firmware image. -/
structure BootImage where
  rootKey : List Byte
  assize : List (List Byte × List Byte)
  config : List Byte × List Byte
  monitor : List Byte × List Byte
  os : List (Nat × List Byte × List Byte)
  seq : BitVec 32
  octmasks : List (Nat × Nat)
  macs : List (Nat × BitVec 48)
  operatorKey : List Byte
  fencedCores : List Nat
deriving DecidableEq, Repr

/-- The sealed payload of a key-release token (R387). -/
structure KeyToken where
  measurement : BitVec 256
  key : BitVec 512
  tbase : DWord
  tlen : DWord
  seq : DWord
deriving DecidableEq, Repr

/-- What a management message asks of an Assize (R390). -/
inductive MctpRequest where
  | readSensors | readReport | readFenced | readCounters | readViolLog | stageFirmware (bytes : List Byte)
deriving DecidableEq, Repr


/-- The operations and events of the part: ONE constructor for each row of spec/opcode_table.json, in the
table's order. The first 213 are instruction words, whose arguments are the fields of their encodings; the
others are the events of the part's other agents, whose arguments say where they happen and what they bring. -/
inductive Instr where
  /-- MAP (R90). Maps a name to a fresh pool row, dropping its old reference. -/
  | map (d : BitVec 7)
  /-- MAPR (R90). Maps a run of n names to n fresh rows, or none if the quota cannot hold them all. -/
  | mapr (d : BitVec 7) (n : BitVec 5)
  /-- UNMAP (R91). Drops the reference held by a name. -/
  | unmap (d : BitVec 7)
  /-- UNMAPM (R91). Drops every name in the 32-name blocks selected by a scalar mask. -/
  | unmapm (a : BitVec 6)
  /-- MOVN (R92). Moves a map entry from one name to another, leaving the source UNMAPPED. -/
  | movn (d : BitVec 7) (a : BitVec 7)
  /-- SWPN (R92). Exchanges the map entries of two names. -/
  | swpn (d : BitVec 7) (a : BitVec 7)
  /-- ROTN (R92). Rotates the map entries of a run of n names by k. -/
  | rotn (d : BitVec 7) (n : BitVec 5) (k : BitVec 5)
  /-- ALIAS (R93). Gives a name a further reference to the row of another name. -/
  | aliasN (d : BitVec 7) (a : BitVec 7)
  /-- COPYN (R93). Gives a name a fresh row holding a copy of the data and poison of another name's row. -/
  | copyn (d : BitVec 7) (a : BitVec 7)
  /-- GIVE (R95). At span start, moves a name's row reference to the tail of a hand-off slot, waiting while the slot is full. -/
  | give (h : BitVec 6) (a : BitVec 7)
  /-- TAKE (R95). At span start, maps a name to the head reference of a hand-off slot, waiting while the slot is empty. -/
  | take (d : BitVec 7) (h : BitVec 6)
  /-- TAKEQ (R95). Takes the head reference of a hand-off slot if there is one, setting a predicate to report success. -/
  | takeq (d : BitVec 7) (h : BitVec 6) (p : BitVec 4)
  /-- ISMAP (R97). Writes per lane whether a name is mapped and unpoisoned. -/
  | ismap (d : BitVec 4) (a : BitVec 7)
  /-- WBASE (R98). Sets the window base. -/
  | wbase (b : BitVec 7)
  /-- MAPQ (R97). Writes a name's map word to a scalar. -/
  | mapq (d : BitVec 6) (a : BitVec 7)
  /-- SADD (R101). Scalar 64-bit add, register form. -/
  | sadd (d : BitVec 6) (a : BitVec 6) (b : BitVec 6)
  /-- SSUB (R101). Scalar subtract, register form. -/
  | ssub (d : BitVec 6) (a : BitVec 6) (b : BitVec 6)
  /-- SMUL (R101). Scalar multiply low 64 bits, register form. -/
  | smul (d : BitVec 6) (a : BitVec 6) (b : BitVec 6)
  /-- SMULH (R101). Scalar signed multiply high, register form. -/
  | smulh (d : BitVec 6) (a : BitVec 6) (b : BitVec 6)
  /-- SAND (R101). Scalar bitwise and, register form. -/
  | sand (d : BitVec 6) (a : BitVec 6) (b : BitVec 6)
  /-- SOR (R101). Scalar bitwise or, register form. -/
  | sor (d : BitVec 6) (a : BitVec 6) (b : BitVec 6)
  /-- SXOR (R101). Scalar exclusive or, register form. -/
  | sxor (d : BitVec 6) (a : BitVec 6) (b : BitVec 6)
  /-- SSHL (R101). Scalar shift left, register form. -/
  | sshl (d : BitVec 6) (a : BitVec 6) (b : BitVec 6)
  /-- SSHR (R101). Scalar logical shift right, register form. -/
  | sshr (d : BitVec 6) (a : BitVec 6) (b : BitVec 6)
  /-- SSRA (R101). Scalar arithmetic shift right, register form. -/
  | ssra (d : BitVec 6) (a : BitVec 6) (b : BitVec 6)
  /-- SMIN (R101). Scalar signed minimum, register form. -/
  | smin (d : BitVec 6) (a : BitVec 6) (b : BitVec 6)
  /-- SMAX (R101). Scalar signed maximum, register form. -/
  | smax (d : BitVec 6) (a : BitVec 6) (b : BitVec 6)
  /-- SADD_IMM (R101). Scalar add with a sign-extended 7-bit immediate. -/
  | saddImm (d : BitVec 6) (a : BitVec 6) (imm : BitVec 7)
  /-- SSUB_IMM (R101). Scalar subtract with an immediate. -/
  | ssubImm (d : BitVec 6) (a : BitVec 6) (imm : BitVec 7)
  /-- SMUL_IMM (R101). Scalar multiply with an immediate. -/
  | smulImm (d : BitVec 6) (a : BitVec 6) (imm : BitVec 7)
  /-- SMULH_IMM (R101). Scalar multiply high with an immediate. -/
  | smulhImm (d : BitVec 6) (a : BitVec 6) (imm : BitVec 7)
  /-- SAND_IMM (R101). Scalar and with a zero-extended immediate. -/
  | sandImm (d : BitVec 6) (a : BitVec 6) (imm : BitVec 7)
  /-- SOR_IMM (R101). Scalar or with an immediate. -/
  | sorImm (d : BitVec 6) (a : BitVec 6) (imm : BitVec 7)
  /-- SXOR_IMM (R101). Scalar exclusive or with an immediate. -/
  | sxorImm (d : BitVec 6) (a : BitVec 6) (imm : BitVec 7)
  /-- SSHL_IMM (R101). Scalar shift left by an immediate. -/
  | sshlImm (d : BitVec 6) (a : BitVec 6) (imm : BitVec 7)
  /-- SSHR_IMM (R101). Scalar logical shift right by an immediate. -/
  | sshrImm (d : BitVec 6) (a : BitVec 6) (imm : BitVec 7)
  /-- SSRA_IMM (R101). Scalar arithmetic shift right by an immediate. -/
  | ssraImm (d : BitVec 6) (a : BitVec 6) (imm : BitVec 7)
  /-- SMIN_IMM (R101). Scalar signed minimum with an immediate. -/
  | sminImm (d : BitVec 6) (a : BitVec 6) (imm : BitVec 7)
  /-- SMAX_IMM (R101). Scalar signed maximum with an immediate. -/
  | smaxImm (d : BitVec 6) (a : BitVec 6) (imm : BitVec 7)
  /-- SCMP (R102). Scalar compare under condition cc, writing 1 or 0, register form. -/
  | scmp (cc : BitVec 3) (d : BitVec 6) (a : BitVec 6) (b : BitVec 6)
  /-- SCMP_IMM (R102). Scalar compare against a sign-extended immediate. -/
  | scmpImm (cc : BitVec 3) (d : BitVec 6) (a : BitVec 6) (imm : BitVec 7)
  /-- SSEL (R103). Selects sA or sB into sD by the old value of sD. -/
  | ssel (d : BitVec 6) (a : BitVec 6) (b : BitVec 6)
  /-- SMOV (R103). Copies one scalar to another, with any future tag. -/
  | smov (d : BitVec 6) (a : BitVec 6)
  /-- SLDI (R103). Loads a sign-extended 14-bit immediate into a scalar. -/
  | sldi (d : BitVec 6) (imm : BitVec 14)
  /-- SLIT (R103). Loads a 32-bit literal into a scalar, sign-extended or into the upper half. -/
  | slit (d : BitVec 6) (h : BitVec 1) (lit : BitVec 32)
  /-- IADD (R105). Lane-wise 32-bit add, optionally saturating, register form. -/
  | iadd (d : BitVec 7) (a : BitVec 7) (b : BitVec 7)
  /-- ISUB (R105). Lane-wise subtract, register form. -/
  | isub (d : BitVec 7) (a : BitVec 7) (b : BitVec 7)
  /-- IMUL (R105). Lane-wise multiply low, register form. -/
  | imul (d : BitVec 7) (a : BitVec 7) (b : BitVec 7)
  /-- IMULH (R105). Lane-wise signed multiply high, register form. -/
  | imulh (d : BitVec 7) (a : BitVec 7) (b : BitVec 7)
  /-- IAND (R105). Lane-wise and, register form. -/
  | iand (d : BitVec 7) (a : BitVec 7) (b : BitVec 7)
  /-- IOR (R105). Lane-wise or, register form. -/
  | ior (d : BitVec 7) (a : BitVec 7) (b : BitVec 7)
  /-- IXOR (R105). Lane-wise exclusive or, register form. -/
  | ixor (d : BitVec 7) (a : BitVec 7) (b : BitVec 7)
  /-- ISHL (R105). Lane-wise shift left, register form. -/
  | ishl (d : BitVec 7) (a : BitVec 7) (b : BitVec 7)
  /-- ISHR (R105). Lane-wise logical shift right, register form. -/
  | ishr (d : BitVec 7) (a : BitVec 7) (b : BitVec 7)
  /-- ISRA (R105). Lane-wise arithmetic shift right, register form. -/
  | isra (d : BitVec 7) (a : BitVec 7) (b : BitVec 7)
  /-- IMIN (R105). Lane-wise signed minimum, register form. -/
  | imin (d : BitVec 7) (a : BitVec 7) (b : BitVec 7)
  /-- IMAX (R105). Lane-wise signed maximum, register form. -/
  | imax (d : BitVec 7) (a : BitVec 7) (b : BitVec 7)
  /-- IADD_IMM (R105). Lane-wise add of a sign-extended immediate. -/
  | iaddImm (d : BitVec 7) (a : BitVec 7) (imm : BitVec 7)
  /-- ISUB_IMM (R105). Lane-wise subtract of an immediate. -/
  | isubImm (d : BitVec 7) (a : BitVec 7) (imm : BitVec 7)
  /-- IMUL_IMM (R105). Lane-wise multiply by an immediate. -/
  | imulImm (d : BitVec 7) (a : BitVec 7) (imm : BitVec 7)
  /-- IMULH_IMM (R105). Lane-wise multiply high by an immediate. -/
  | imulhImm (d : BitVec 7) (a : BitVec 7) (imm : BitVec 7)
  /-- IAND_IMM (R105). Lane-wise and with a zero-extended immediate. -/
  | iandImm (d : BitVec 7) (a : BitVec 7) (imm : BitVec 7)
  /-- IOR_IMM (R105). Lane-wise or with an immediate. -/
  | iorImm (d : BitVec 7) (a : BitVec 7) (imm : BitVec 7)
  /-- IXOR_IMM (R105). Lane-wise exclusive or with an immediate. -/
  | ixorImm (d : BitVec 7) (a : BitVec 7) (imm : BitVec 7)
  /-- ISHL_IMM (R105). Lane-wise shift left by an immediate. -/
  | ishlImm (d : BitVec 7) (a : BitVec 7) (imm : BitVec 7)
  /-- ISHR_IMM (R105). Lane-wise logical shift right by an immediate. -/
  | ishrImm (d : BitVec 7) (a : BitVec 7) (imm : BitVec 7)
  /-- ISRA_IMM (R105). Lane-wise arithmetic shift right by an immediate. -/
  | israImm (d : BitVec 7) (a : BitVec 7) (imm : BitVec 7)
  /-- IMIN_IMM (R105). Lane-wise signed minimum with an immediate. -/
  | iminImm (d : BitVec 7) (a : BitVec 7) (imm : BitVec 7)
  /-- IMAX_IMM (R105). Lane-wise signed maximum with an immediate. -/
  | imaxImm (d : BitVec 7) (a : BitVec 7) (imm : BitVec 7)
  /-- IMAD (R105). Lane-wise multiply-add into the third source. -/
  | imad (d : BitVec 7) (a : BitVec 7) (b : BitVec 7)
  /-- IABS (R105). Lane-wise absolute value. -/
  | iabs (d : BitVec 7) (a : BitVec 7)
  /-- POPC (R105). Lane-wise population count. -/
  | popc (d : BitVec 7) (a : BitVec 7)
  /-- CLZ (R105). Lane-wise count of leading zeros. -/
  | clz (d : BitVec 7) (a : BitVec 7)
  /-- BREV (R105). Lane-wise bit reversal. -/
  | brev (d : BitVec 7) (a : BitVec 7)
  /-- BFE (R107). Lane-wise bit-field extract. -/
  | bfe (d : BitVec 7) (a : BitVec 7) (b : BitVec 7)
  /-- BFI (R107). Lane-wise bit-field insert into the third source. -/
  | bfi (d : BitVec 7) (a : BitVec 7) (b : BitVec 7)
  /-- IADDC (R107). Lane-wise add with carry in and out through p15. -/
  | iaddc (d : BitVec 7) (a : BitVec 7) (b : BitVec 7)
  /-- ICMP (R108). Lane-wise integer compare into a predicate, register form. -/
  | icmp (cc : BitVec 3) (d : BitVec 4) (a : BitVec 7) (b : BitVec 7)
  /-- ICMP_IMM (R108). Lane-wise integer compare against an immediate. -/
  | icmpImm (cc : BitVec 3) (d : BitVec 4) (a : BitVec 7) (imm : BitVec 7)
  /-- LEA (R109). Forms a lane address pair from a scalar base and an extended lane offset. -/
  | lea (d : BitVec 7) (u : BitVec 1) (a : BitVec 6) (b : BitVec 7)
  /-- MOV (R109). Copies lane words from one name to another. -/
  | mov (d : BitVec 7) (a : BitVec 7)
  /-- MOVS (R109). Writes half of a scalar to every active lane. -/
  | movs (d : BitVec 7) (h : BitVec 1) (a : BitVec 6)
  /-- LIT (R109). Writes a 32-bit literal to every active lane. -/
  | lit (d : BitVec 7) (lit : BitVec 32)
  /-- PAND (R110). Lane-wise predicate and. -/
  | pand (d : BitVec 4) (a : BitVec 4) (b : BitVec 4)
  /-- POR (R110). Lane-wise predicate or. -/
  | por (d : BitVec 4) (a : BitVec 4) (b : BitVec 4)
  /-- PXOR (R110). Lane-wise predicate exclusive or. -/
  | pxor (d : BitVec 4) (a : BitVec 4) (b : BitVec 4)
  /-- PNOT (R110). Lane-wise predicate not. -/
  | pnot (d : BitVec 4) (a : BitVec 4)
  /-- PSET (R110). Sets all 32 lanes of a predicate from a scalar. -/
  | pset (d : BitVec 4) (a : BitVec 6)
  /-- PMOV (R110). Copies a predicate's 32 lanes into a scalar. -/
  | pmov (d : BitVec 6) (a : BitVec 4)
  /-- FADD (R126). Lane-wise floating-point add, rounded once. -/
  | fadd (d : BitVec 7) (a : BitVec 7) (b : BitVec 7)
  /-- FSUB (R126). Lane-wise floating-point subtract. -/
  | fsub (d : BitVec 7) (a : BitVec 7) (b : BitVec 7)
  /-- FMUL (R126). Lane-wise floating-point multiply. -/
  | fmul (d : BitVec 7) (a : BitVec 7) (b : BitVec 7)
  /-- FFMA (R126). Lane-wise fused multiply-add. -/
  | ffma (d : BitVec 7) (a : BitVec 7) (b : BitVec 7)
  /-- FMIN (R127). Lane-wise floating-point minimum. -/
  | fmin (d : BitVec 7) (a : BitVec 7) (b : BitVec 7)
  /-- FMAX (R127). Lane-wise floating-point maximum. -/
  | fmax (d : BitVec 7) (a : BitVec 7) (b : BitVec 7)
  /-- FABS (R127). Lane-wise clear of the sign bit. -/
  | fabs (d : BitVec 7) (a : BitVec 7)
  /-- FNEG (R127). Lane-wise inversion of the sign bit. -/
  | fneg (d : BitVec 7) (a : BitVec 7)
  /-- FCMP_EQ (R128). Floating-point compare, ordered equal. -/
  | fcmpEq (d : BitVec 4) (a : BitVec 7) (b : BitVec 7)
  /-- FCMP_LT (R128). Floating-point compare, ordered less. -/
  | fcmpLt (d : BitVec 4) (a : BitVec 7) (b : BitVec 7)
  /-- FCMP_LE (R128). Floating-point compare, ordered less or equal. -/
  | fcmpLe (d : BitVec 4) (a : BitVec 7) (b : BitVec 7)
  /-- FCMP_GT (R128). Floating-point compare, ordered greater. -/
  | fcmpGt (d : BitVec 4) (a : BitVec 7) (b : BitVec 7)
  /-- FCMP_GE (R128). Floating-point compare, ordered greater or equal. -/
  | fcmpGe (d : BitVec 4) (a : BitVec 7) (b : BitVec 7)
  /-- FCMP_NE (R128). Floating-point compare, ordered not equal. -/
  | fcmpNe (d : BitVec 4) (a : BitVec 7) (b : BitVec 7)
  /-- FCMP_ORD (R128). Floating-point compare, ordered. -/
  | fcmpOrd (d : BitVec 4) (a : BitVec 7) (b : BitVec 7)
  /-- FCMP_UNO (R128). Floating-point compare, unordered. -/
  | fcmpUno (d : BitVec 4) (a : BitVec 7) (b : BitVec 7)
  /-- FCMP_EQU (R128). Floating-point compare, unordered or equal. -/
  | fcmpEqu (d : BitVec 4) (a : BitVec 7) (b : BitVec 7)
  /-- FCMP_LTU (R128). Floating-point compare, unordered or less. -/
  | fcmpLtu (d : BitVec 4) (a : BitVec 7) (b : BitVec 7)
  /-- FCMP_LEU (R128). Floating-point compare, unordered or less or equal. -/
  | fcmpLeu (d : BitVec 4) (a : BitVec 7) (b : BitVec 7)
  /-- FCMP_GTU (R128). Floating-point compare, unordered or greater. -/
  | fcmpGtu (d : BitVec 4) (a : BitVec 7) (b : BitVec 7)
  /-- FCMP_GEU (R128). Floating-point compare, unordered or greater or equal. -/
  | fcmpGeu (d : BitVec 4) (a : BitVec 7) (b : BitVec 7)
  /-- FCMP_NEU (R128). Floating-point compare, unordered or not equal. -/
  | fcmpNeu (d : BitVec 4) (a : BitVec 7) (b : BitVec 7)
  /-- HADD2 (R129). Packed two-element 16-bit add. -/
  | hadd2 (d : BitVec 7) (a : BitVec 7) (b : BitVec 7)
  /-- HMUL2 (R129). Packed two-element 16-bit multiply. -/
  | hmul2 (d : BitVec 7) (a : BitVec 7) (b : BitVec 7)
  /-- HFMA2 (R129). Packed two-element 16-bit fused multiply-add. -/
  | hfma2 (d : BitVec 7) (a : BitVec 7) (b : BitVec 7)
  /-- FCVT (R131). Lane-wise conversion between two element types. -/
  | fcvt (dst : BitVec 3) (d : BitVec 7) (a : BitVec 7) (src : BitVec 4)
  /-- FRCP (R133). Lane-wise reciprocal by the fixed algorithm. -/
  | frcp (d : BitVec 7) (a : BitVec 7)
  /-- FRSQ (R134). Lane-wise reciprocal square root by the fixed algorithm. -/
  | frsq (d : BitVec 7) (a : BitVec 7)
  /-- FSQRT (R132). Lane-wise correctly rounded square root. -/
  | fsqrt (d : BitVec 7) (a : BitVec 7)
  /-- FEX2 (R135). Lane-wise base-2 exponential by the fixed algorithm. -/
  | fex2 (d : BitVec 7) (a : BitVec 7)
  /-- FLG2 (R136). Lane-wise base-2 logarithm by the fixed algorithm. -/
  | flg2 (d : BitVec 7) (a : BitVec 7)
  /-- FTANH (R137). Lane-wise hyperbolic tangent by the fixed algorithm. -/
  | ftanh (d : BitVec 7) (a : BitVec 7)
  /-- SHFL_2 (R141). Shuffle within sub-groups of 2 lanes, writing validity to p14. -/
  | shfl2 (d : BitVec 7) (a : BitVec 7) (b : BitVec 7)
  /-- SHFL_4 (R141). Shuffle within sub-groups of 4 lanes. -/
  | shfl4 (d : BitVec 7) (a : BitVec 7) (b : BitVec 7)
  /-- SHFL_8 (R141). Shuffle within sub-groups of 8 lanes. -/
  | shfl8 (d : BitVec 7) (a : BitVec 7) (b : BitVec 7)
  /-- SHFL_16 (R141). Shuffle within sub-groups of 16 lanes. -/
  | shfl16 (d : BitVec 7) (a : BitVec 7) (b : BitVec 7)
  /-- SHFL_32 (R141). Shuffle across all 32 lanes. -/
  | shfl32 (d : BitVec 7) (a : BitVec 7) (b : BitVec 7)
  /-- VOTE_ANY (R143). Writes 1 if the predicate holds in any source lane. -/
  | voteAny (d : BitVec 6) (neg : BitVec 1) (p : BitVec 4)
  /-- VOTE_ALL (R143). Writes 1 if the predicate holds in every source lane. -/
  | voteAll (d : BitVec 6) (neg : BitVec 1) (p : BitVec 4)
  /-- VOTE_BAL (R143). Writes the mask of source lanes where the predicate holds. -/
  | voteBal (d : BitVec 6) (neg : BitVec 1) (p : BitVec 4)
  /-- MATCH_ANY (R144). Writes per lane the mask of source lanes holding the same pattern. -/
  | matchAny (d : BitVec 7) (a : BitVec 7)
  /-- MATCH_ALL (R144). Writes the source mask when all source lanes hold one pattern, else 0. -/
  | matchAll (d : BitVec 7) (a : BitVec 7)
  /-- REDUX (R145). Combines the source lanes' words into a scalar. -/
  | redux (d : BitVec 6) (a : BitVec 7) (op : BitVec 3)
  /-- FREDUX (R146). Floating-point sum, maximum or minimum over the 32-leaf tree into a scalar. -/
  | fredux (d : BitVec 6) (a : BitVec 7) (op : BitVec 2)
  /-- SCAN (R145). Running inclusive or exclusive combination across lanes. -/
  | scan (d : BitVec 7) (a : BitVec 7) (ex : BitVec 1) (op : BitVec 3)
  /-- BCAST (R142). Broadcasts one lane's word to every active lane, writing validity to p14. -/
  | bcast (d : BitVec 7) (a : BitVec 7) (b : BitVec 6)
  /-- ELECT (R147). Sets the predicate in the lowest source lane and writes its number to a scalar. -/
  | elect (d : BitVec 4) (a : BitVec 6)
  /-- BRA (R112). Transfers the path to a target. -/
  | bra (off : BitVec 14)
  /-- BRU (R112). Transfers the path on a uniform scalar condition. -/
  | bru (neg : BitVec 1) (s : BitVec 6) (off : BitVec 14)
  /-- BRP (R114). Divergent branch on a predicate: transfer, fall through, split or nest. -/
  | brp (neg : BitVec 1) (p : BitVec 4) (off : BitVec 14)
  /-- JPOINT (R113). Pushes a join-point entry onto the path's divergence stack. -/
  | jpoint (off : BitVec 14)
  /-- JOIN (R115). Pops an arm or join point, or waits to merge the two paths. -/
  | join
  /-- JMPR (R119). Transfers to a uniform target read from a lane address pair. -/
  | jmpr (a : BitVec 7)
  /-- CALL (R118). Writes the continuation to a scalar and transfers to a target. -/
  | call (d : BitVec 6) (off : BitVec 14)
  /-- CALLR (R119). Indirect call through a uniform lane address pair. -/
  | callr (d : BitVec 6) (a : BitVec 7)
  /-- RET (R118). Transfers the path to the address in a scalar. -/
  | ret (a : BitVec 6)
  /-- EXIT (R117). Adds EXEC to EXITED and unwinds the path. -/
  | exit
  /-- NOP (R120). Has no effect. -/
  | nop
  /-- YIELD (R120). Sends the path to its continuation as the youngest of its class. -/
  | yield
  /-- LDG (R183). Global per-lane load, optionally an acquire. -/
  | ldg (d : BitVec 7) (a : BitVec 7) (scope : BitVec 3) (ord : BitVec 1) (sz : BitVec 3)
  /-- STG (R183). Global per-lane store, optionally a release. -/
  | stg (d : BitVec 7) (a : BitVec 7) (scope : BitVec 3) (ord : BitVec 1) (sz : BitVec 3)
  /-- LDS (R185). Scratchpad per-lane load with full-empty behaviour. -/
  | lds (d : BitVec 7) (a : BitVec 7) (fe : BitVec 2) (sz : BitVec 3)
  /-- STS (R185). Scratchpad per-lane store with full-empty behaviour. -/
  | sts (d : BitVec 7) (a : BitVec 7) (fe : BitVec 2) (sz : BitVec 3)
  /-- LDU (R184). Uniform scalar load from a scalar address. -/
  | ldu (d : BitVec 6) (a : BitVec 6) (scope : BitVec 3) (ord : BitVec 1) (sz : BitVec 3)
  /-- STU (R184). Uniform scalar store to a scalar address. -/
  | stu (d : BitVec 6) (a : BitVec 6) (scope : BitVec 3) (ord : BitVec 1) (sz : BitVec 3)
  /-- ATOM (R189). Per-lane atomic read-modify-write on memory at a scope. -/
  | atom (op : BitVec 3) (d : BitVec 7) (a : BitVec 7) (ar : BitVec 1) (ty : BitVec 3) (scope : BitVec 3)
  /-- ATOMS (R189). Per-lane atomic read-modify-write on scratchpad. -/
  | atoms (op : BitVec 3) (d : BitVec 7) (a : BitVec 7) (ty : BitVec 3)
  /-- ROWLD (R194). Reads a row and its version as one indivisible event. -/
  | rowld (d : BitVec 7) (a : BitVec 6) (h : BitVec 1) (n : BitVec 3)
  /-- ROWST (R195). Writes a row indivisibly at the home slice and raises its version. -/
  | rowst (d : BitVec 7) (a : BitVec 6) (n : BitVec 3)
  /-- ROWADD (R195). Adds BF16 addends to a row indivisibly at the home slice and raises its version. -/
  | rowadd (d : BitVec 7) (a : BitVec 6) (n : BitVec 3)
  /-- PREF (R197). Requests lines into the L1 or home slice. -/
  | pref (a : BitVec 7) (llc : BitVec 1)
  /-- FENCE (R198). Orders the path's accesses at a scope, waiting in place. -/
  | fence (kind : BitVec 2) (scope : BitVec 3)
  /-- GBAR (R201). Arrives at a group barrier phase and waits for it to complete. -/
  | gbar (g : BitVec 2)
  /-- GARV (R200). Arrives at a group barrier phase and writes the phase number. -/
  | garv (d : BitVec 6) (g : BitVec 2)
  /-- GWAIT (R200). Waits until a given group barrier phase has completed. -/
  | gwait (g : BitVec 2) (b : BitVec 6)
  /-- MMA (R155). Arrives at the gang rendezvous latch for a joint matrix operation. -/
  | mma (acc : BitVec 6) (a : BitVec 7) (b : BitVec 7)
  /-- MZERO (R163). Zeroes accumulator slots and resets their tag and checksums. -/
  | mzero (acc : BitVec 6) (n : BitVec 3)
  /-- BFILL (R164). Starts an engine fill of a B tile from memory and returns a future. -/
  | bfill (d : BitVec 6) (a : BitVec 6)
  /-- BFILLS (R267). Starts a sealed fill of a B tile, decrypting Troy pages under a key slot. -/
  | bfills (d : BitVec 6) (a : BitVec 6) (key : BitVec 4)
  /-- SCLD (R166). Copies entries from scratchpad into scale memory. -/
  | scld (a : BitVec 6) (b : BitVec 6)
  /-- MEPI (R167). Writes the warp's epilogue register. -/
  | mepi (a : BitVec 6)
  /-- MDRAIN (R169). Drains accumulator slots through the checksum check and epilogue to a destination. -/
  | mdrain (own : BitVec 1) (acc : BitVec 6) (a : BitVec 6) (rte : BitVec 3) (dest : BitVec 2)
  /-- VPOP (R172). Pops the warp's oldest drain-queue entry into eight names. -/
  | vpop (d : BitVec 7)
  /-- MBURST (R162). Declares a burst of MMAs for ramp timing. -/
  | mburst (n : BitVec 14)
  /-- MSTAT (R175). Reads and clears the warp's matrix status. -/
  | mstat (d : BitVec 6)
  /-- ACCSV (R163). Saves an accumulator slot to scratchpad. -/
  | accsv (acc : BitVec 6) (a : BitVec 6)
  /-- ACCLD (R163). Loads an accumulator slot from scratchpad and tags it FP or INT. -/
  | accld (int : BitVec 1) (acc : BitVec 6) (a : BitVec 6)
  /-- FWAIT (R227). Holds the path's next span until a future completes. -/
  | fwait (a : BitVec 6)
  /-- FTEST (R227). Writes whether a future's operation is complete. -/
  | ftest (d : BitVec 6) (a : BitVec 6)
  /-- FSTAT (R227). Writes a future's status word. -/
  | fstat (d : BitVec 6) (a : BitVec 6)
  /-- FCANCEL (R228). Cancels an operation that has not passed its point of no return. -/
  | fcancel (d : BitVec 6) (a : BitVec 6)
  /-- TLD (R231). Starts a tile copy from memory to scratchpad. -/
  | tld (d : BitVec 6) (a : BitVec 6)
  /-- TST (R231). Starts a tile copy from scratchpad to memory. -/
  | tst (d : BitVec 6) (a : BitVec 6)
  /-- TCPY (R231). Starts a tile copy from memory to memory. -/
  | tcpy (d : BitVec 6) (a : BitVec 6)
  /-- TMCAST (R231). Starts a tile multicast from memory to the scratchpads of a group's cores. -/
  | tmcast (d : BitVec 6) (a : BitVec 6) (g : BitVec 2)
  /-- GATH (R231). Starts an indexed gather of rows from memory into scratchpad. -/
  | gath (d : BitVec 6) (a : BitVec 6) (b : BitVec 6)
  /-- SCAT (R231). Starts an indexed scatter of rows from scratchpad to memory. -/
  | scat (d : BitVec 6) (a : BitVec 6) (b : BitVec 6)
  /-- FEEDGO (R232). Starts the launch's feed program on the core. -/
  | feedgo (d : BitVec 6) (a : BitVec 6)
  /-- QFEED (R235). Starts a fill of the tail entry of an operand queue. -/
  | qfeed (d : BitVec 6) (a : BitVec 6) (q : BitVec 3)
  /-- QPOP (R236). Claims the head entry of an operand queue and returns it once FULL. -/
  | qpop (d : BitVec 6) (q : BitVec 3)
  /-- QREL (R237). Releases a FULL popped operand queue entry to EMPTY. -/
  | qrel (q : BitVec 3) (b : BitVec 6)
  /-- QPOST (R238). Posts a collective work entry to the port. -/
  | qpost (d : BitVec 6) (a : BitVec 6)
  /-- QPOST_AT (R243). Posts a collective work entry timed to fire at a PTP time. -/
  | qpostAt (d : BitVec 6) (a : BitVec 6) (b : BitVec 6)
  /-- CTRADD (R242). Adds to a partition counter as a release at PARTITION. -/
  | ctradd (d : BitVec 6) (cnt : BitVec 8)
  /-- CTRWAIT (R242). Holds the path's next span until a counter reaches a threshold. -/
  | ctrwait (d : BitVec 6) (cnt : BitVec 8)
  /-- RTESET (R245). Checks and writes a routing register. -/
  | rteset (rte : BitVec 3) (a : BitVec 6)
  /-- CABORT (R244). Aborts a collective tree on every rank and gathers a completion bitmap. -/
  | cabort (d : BitVec 6) (a : BitVec 6) (b : BitVec 6)
  /-- LAUNCH (R246). Submits a launch record to the partition's dispatcher. -/
  | launch (d : BitVec 6) (a : BitVec 6)
  /-- TREG (R252). Registers a tile under a key in the core's tile directory. -/
  | treg (d : BitVec 6) (a : BitVec 6) (b : BitVec 7)
  /-- TUNREG (R253). Unregisters a tile, turning its entry SHADOW. -/
  | tunreg (a : BitVec 6)
  /-- TMOVE (R264). Moves an SCR tile to another core's scratchpad by copy and switch. -/
  | tmove (d : BitVec 6) (a : BitVec 6) (b : BitVec 6)
  /-- SOLICIT (R254). Broadcasts a key solicitation over the census network and returns a future. -/
  | solicit (d : BitVec 6) (a : BitVec 6) (b : BitVec 6)
  /-- REPLY (R260). Delivers a responder's scalar contribution. -/
  | reply (a : BitVec 6)
  /-- REPLYV (R260). Delivers a responder's vector or triple contribution from scratchpad. -/
  | replyv (a : BitVec 6)
  /-- CENSUS (R263). Writes the census of a solicitation. -/
  | census (d : BitVec 6) (a : BitVec 6)
  /-- TRAP (R279). Raises SYS_TRAP with an immediate. -/
  | trap (imm : BitVec 14)
  /-- ERET (R280). Leaves trap mode and resumes the trap path at TPC. -/
  | eret
  /-- SRD (R281). Reads a special register into a scalar. -/
  | srd (d : BitVec 6) (spec : BitVec 7)
  /-- SWR (R281). Checks and writes a special register from a scalar. -/
  | swr (spec : BitVec 7) (b : BitVec 6)
  /-- BKPT (R279). Traps with SYS_BREAKPOINT, or stops the warp for Ryukel in debug mode. -/
  | bkpt (imm : BitVec 14)
  /-- GETTIME (R282). Reads PTP time or the cycle count. -/
  | gettime (d : BitVec 6) (cyc : BitVec 1)
  /-- SRD_V (R281). Per-lane special register read. -/
  | srdV (d : BitVec 7) (spec : BitVec 7)
  /-- PFXA (R51). Prefix giving a guard predicate, policy and third source to the next instruction. -/
  | pfxa (pred : BitVec 4) (neg : BitVec 1) (pol : BitVec 2) (c : BitVec 7) (cv : BitVec 1)
  /-- PFXB (R53). Prefix giving rounding, saturation and type to the next instruction. -/
  | pfxb (rm : BitVec 3) (sat : BitVec 1) (ty : BitVec 4)
  /-- SPAN_ISSUE (R310). A free issue slot starts the span of a chosen ready path once its start conditions hold. -/
  | spanIssue (core slot : Nat) (refetch : Bool)
  /-- LONG_LATENCY_COMPLETE (R17). A long-latency instruction's write lands and its completion flag count drops by 1. -/
  | longLatencyComplete (core warp op : Nat)
  /-- PATH_PROMOTION (R310). A path ready for 256 clocks without starting a span is promoted. -/
  | pathPromotion (core warp : Nat) (sec : Bool)
  /-- GANG_RELEASE (R157). The rendezvous latch releases when all gang members have arrived, and the MMA takes effect after
  gang-wide checks. -/
  | gangRelease (core warp : Nat)
  /-- GANG_TRAP_DEFERRED_ENTRY (R273). A gang member whose other path was inside a span enters trap mode when that span ends. -/
  | gangTrapDeferredEntry (core warp : Nat)
  /-- LAUNCH_END (R230). A launch ends once its last warp has retired and its operations have ended. -/
  | launchEnd (launch : Nat)
  /-- ENGINE_LINE_WRITE (R216). An engine writes one destination line or granule, releasing its ownership. -/
  | engineLineWrite (core op line : Nat)
  /-- TILE_TRANSFER_COMPLETE (R231). A tile operation's future completes when every destination line is visible. -/
  | tileTransferComplete (core op : Nat)
  /-- BFILL_COMPLETE (R164). A B tile fill ends, marking the tile VALID or SEALED, or INVALID on failure. -/
  | bfillComplete (core op : Nat)
  /-- QFEED_FILL_COMPLETE (R235). An operand queue entry's granules have landed, the entry turns FULL and the future completes. -/
  | qfeedFillComplete (core op : Nat)
  /-- DRAIN_ROW_DELIVER (R171). One drained row is delivered to its destination, clearing the flag after the last. -/
  | drainRowDeliver (core warp op : Nat)
  /-- SCRATCH_WAIT_PERFORM (R186). A set-aside waiting scratchpad access performs when its condition holds. -/
  | scratchWaitPerform (core launch op : Nat)
  /-- FEED_SPAN_ISSUE (R232). The feed engine issues a span of the feed program. -/
  | feedSpanIssue (core launch : Nat)
  /-- POSTED_ENTRY_FIRE (R239). A posted work entry fires and sends its chunk when its conditions hold. -/
  | postedEntryFire (core op : Nat) (time : DWord) (tree : Nat)
  /-- SCT_DATA (R341). A received DATA packet is accepted in sequence, combined and stored or forwarded. -/
  | sctData (part : Nat) (p : SctPacket)
  /-- SCT_ACK (R241). A received ACK acknowledges packets, completing posted entries and bumping counters. -/
  | sctAck (part : Nat) (p : SctPacket)
  /-- SCT_NAK (R312). A received NAK starts a back-off before replay, or ends the operation when permanent. -/
  | sctNak (part : Nat) (p : SctPacket)
  /-- SCT_LAUNCH (R347). A received launch packet is validated and passed to the dispatcher. -/
  | sctLaunch (part : Nat) (p : SctPacket)
  /-- SCT_ABORT (R244). A received tree abort ends unfired entries and drops in-flight chunks at the rank. -/
  | sctAbort (part : Nat) (p : SctPacket)
  /-- SCT_STATE (R244). A rank's state report reaches the tree root, which writes the abort bitmap when all are in. -/
  | sctState (part : Nat) (p : SctPacket)
  /-- SCT_LINE_REQ (R346). A peer's request for one line is served in this partition's ASID 0. -/
  | sctLineReq (part : Nat) (p : SctPacket)
  /-- SCT_LINE_RSP (R346). A line response arrives from a peer for a pending access. -/
  | sctLineRsp (part : Nat) (p : SctPacket)
  /-- NAK_BACKOFF_EXPIRE (R312). After a back-off, the sender resends the refused entry and every later one. -/
  | nakBackoffExpire (part : Nat) (who : Sender)
  /-- SCT_ACK_TIMEOUT (R345). An unacknowledged packet times out and its stream is replayed. -/
  | sctAckTimeout (part dst qp : Nat)
  /-- ROOT_SEQUENCE (R255). The census root accepts a message, numbers it and sends it down its scope. -/
  | rootSequence (part : Nat)
  /-- SOLICIT_ACCEPT (R256). A core applies a solicitation in sequence order, fixing its match set or refusing it. -/
  | solicitAccept (core : Nat)
  /-- RESPONDER_SPAWN (R259). A core spawns a responder for a matched entry once a slot and rows are free. -/
  | responderSpawn (core : Nat)
  /-- CORE_REPORT (R262). A core reports its combined result and counts when every responder has ended. -/
  | coreReport (core id : Nat)
  /-- TMOVE_SWITCH_SEND (R264). Once the copy is visible, the move's switch message is sent through the root. -/
  | tmoveSwitchSend (core op : Nat)
  /-- TMOVE_SWITCH_APPLY (R264). A core applies a move switch, turning the source SHADOW or the destination VALID. -/
  | tmoveSwitchApply (core : Nat)
  /-- BARRIER_ARRIVE_SEND (R331). A core node sends ARRIVE when its members have arrived and their accesses are visible. -/
  | barrierArriveSend (core launch group : Nat)
  /-- BARRIER_ARRIVE_COUNT (R331). The root counts ARRIVE messages and sends COMPLETE when all cores have reported. -/
  | barrierArriveCount (part : Nat)
  /-- BARRIER_COMPLETE (R331). A core node applies COMPLETE and ends the waits on that phase. -/
  | barrierComplete (core : Nat)
  /-- SUBMISSION_RING_TAIL (R311). Ryukel writes the TAIL of a submission ring, handing records to the dispatcher. -/
  | submissionRingTail (part cls : Nat) (tail : BitVec 32)
  /-- RECORD_CHECK (R303). The dispatcher takes a record from a source and checks it fully. -/
  | recordCheck (part : Nat) (src : RecordSource)
  /-- DISPATCH_PLACE (R304). The dispatcher chooses and places the next record whole, requesting pre-emption if needed. -/
  | dispatchPlace (part : Nat)
  /-- PATH_STOP (R357). A pre-empted path stops at a safe point or waiting boundary and supplies its live mask. -/
  | pathStop (core warp : Nat) (sec : Bool)
  /-- PREEMPT_BUDGET_EXPIRE (R357). After BUDGET, a path that has reached no safe point stops at its next span boundary. -/
  | preemptBudgetExpire (launch : Nat)
  /-- COMPLETION_RING_HEAD (R308). Ryukel frees completion ring entries, letting held records be written. -/
  | completionRingHead (part : Nat) (head : BitVec 32)
  /-- TENANT_TEARDOWN (R311). A write to SCH_TDOWN tears down a tenant's context and terminates its launches. -/
  | tenantTeardown (part tenant : Nat)
  /-- HOME_SLICE_WRITE (R291). A write performs at its home slice, fixing its coherence order and invalidating L1 copies. -/
  | homeSliceWrite (src : WriteSource)
  /-- L1_INVALIDATE (R291). An invalidation reaches an L1 and removes its copy. -/
  | l1Invalidate (core line : Nat)
  /-- LINE_FETCH_COMPLETE (R294). A line fetched on an LLC miss arrives and the held accesses proceed. -/
  | lineFetchComplete (part idx : Nat)
  /-- FILE_BLOCK_READ (R294). A file-backed 4 KiB block is read from storage into its frame and RD is set. -/
  | fileBlockRead (part frame : Nat) (data : List Byte)
  /-- PAGE_WALK (R319). A memory-side walk ends in a translation or a fault, reaching every miss that shares it. -/
  | pageWalk (part asid vpn : Nat) (store : Bool)
  /-- SHOOTDOWN (R320). A write to LLC_SHOOT starts a partition-wide shoot-down of translations and lines. -/
  | shootdown (part : Nat) (v : DWord)
  /-- SHOOTDOWN_COMPLETE (R320). BUSY clears when every slice and core has finished and old-translation accesses have performed. -/
  | shootdownComplete (part : Nat)
  /-- FS_READ (R323). Frame-state command READ returns an entry. -/
  | fsRead (part frame : Nat)
  /-- FS_RELEASE (R323). Frame-state command RELEASE turns an OWNED frame FREE unless refused. -/
  | fsRelease (part frame : Nat)
  /-- FS_SCRUB (R324). Frame-state command SCRUB starts scrubbing a FREE frame. -/
  | fsScrub (part frame : Nat)
  /-- SCRUB_COMPLETE (R324). A scrubbed frame becomes CLEAN. -/
  | scrubComplete (part frame : Nat)
  /-- FS_SETFILE (R323). Frame-state command SETFILE marks a CLEAN frame file-backed. -/
  | fsSetfile (part frame : Nat) (arg : DWord)
  /-- FS_READCNT (R323). Frame-state command READCNT returns and clears a frame's access counters. -/
  | fsReadcnt (part frame : Nat)
  /-- HARDWARE_MIGRATION (R326). A frame whose remote fills pass the threshold is copied to a frame of the busiest octant. -/
  | hardwareMigration (part frame : Nat)
  /-- WRITEBACK_SCAN_VISIT (R328). The write-back scanner visits a dirty file-backed frame and snapshots it. -/
  | writebackScanVisit (part frame : Nat)
  /-- SNAPSHOT_READ (R328). The snapshot has been read, WP clears and held stores perform. -/
  | snapshotRead (part frame : Nat)
  /-- FLASH_WRITE_COMPLETE (R328). A flash write completes, recording the block clean or setting DIRTY on failure. -/
  | flashWriteComplete (part frame : Nat) (ok : Bool)
  /-- PAR_MERGE (R352). PAR_CMD MERGE starts the handshake that joins a yielding empty partition. -/
  | parMerge (part other : Nat)
  /-- PAR_YIELD (R352). PAR_CMD YIELD records consent to a merge. -/
  | parYield (part other : Nat)
  /-- PAR_SPLIT (R352). PAR_CMD SPLIT starts the handshake that cuts off octants as a new partition. -/
  | parSplit (part octs : Nat)
  /-- PAR_MIGRATE (R364). PAR_CMD MIGRATE pre-empts and drains the partition to stream it to a peer. -/
  | parMigrate (part rank : Nat) (accepted : Bool) (octants : Nat)
  /-- PAR_ACCEPT (R364). PAR_CMD ACCEPT readies an empty partition to receive a migration. -/
  | parAccept (part rank : Nat)
  /-- HANDSHAKE_DRAIN_DONE (R353). Queues are empty, so the interleave and boundary are rewritten and a shoot-down runs. -/
  | handshakeDrainDone (part : Nat)
  /-- HANDSHAKE_TIMEOUT (R354). QTIMEOUT passes with queues not empty, ending the command with PAR_BUSY. -/
  | handshakeTimeout (part : Nat)
  /-- MIGRATION_COMMIT_SEND (R366). Once every packet is acknowledged the source sends COMMIT. -/
  | migrationCommitSend (part : Nat) (ok : Bool)
  /-- MIGRATION_COMMIT_RECEIVE (R366). The destination activates on COMMIT, acknowledges it and announces the identity. -/
  | migrationCommitReceive (part : Nat)
  /-- MIGRATION_COMMIT_ACK (R366). The source receives the COMMIT acknowledgment, scrubs and becomes empty. -/
  | migrationCommitAck (part : Nat) (acked : Bool)
  /-- PAR_SAVE_WRITE (R361). A write to PAR_SAVE_t sets a tenant's save area and marks its frames. -/
  | parSaveWrite (part tenant : Nat) (v : DWord)
  /-- RKPET_WRITE (R376). A write to ASZ_RKPET restarts the watchdog count. -/
  | rkpetWrite (part : Nat)
  /-- WATCHDOG_EXPIRE (R376). The watchdog expires and Assize restarts Ryukel. -/
  | watchdogExpire (part : Nat)
  /-- THAW (R377). Ryukel writes THAW, ending the restart and resuming adopted launches. -/
  | thaw (part : Nat)
  /-- KEY_REQUEST (R388). A write of ASZ_KREQ GO starts verification of a key-release token. -/
  | keyRequest (part : Nat) (v : DWord)
  /-- KEY_VERIFY_COMPLETE (R388). Assize finishes verification, loads the slot or reports the failure in ASZ_KRST. -/
  | keyVerifyComplete (part slot : Nat)
  /-- ATTEST_REQUEST (R385). A write to ASZ_ATTREQ makes Assize write a signed attestation report. -/
  | attestRequest (part : Nat) (pa : DWord)
  /-- SCAN_TEST_START (R380). At its period Assize starts the in-field test of a core by asking its launches to stop. -/
  | scanTestStart (core : Nat)
  /-- SCAN_DEFER_EXPIRE (R380). The deferral reaches DEFER, the test is withdrawn and REL_SCAN_OVERDUE raised. -/
  | scanDeferExpire (core : Nat)
  /-- SCAN_TEST_COMPLETE (R380). The scan test ends, fencing the core on failure or returning it to placement. -/
  | scanTestComplete (core : Nat) (pass : Bool)
  /-- ROUTER_FAILURE (R378). A mesh router fails and Assize fences it with new route tables. -/
  | routerFailure (oct col row : Nat) (lostCores lostSlices : List Nat) (lostPort : Bool)
  /-- LINK_FAILURE (R379). A fabric link keeps failing retries and is fenced with new routes. -/
  | linkFailure (a b : Nat)
  /-- ECC_ERROR (R368). A protected structure reports a correctable or uncorrectable error. -/
  | eccError (site : EccSite) (correctable : Bool)
  /-- MODULE_BOOT (R382). At reset Assize verifies and measures each boot stage in turn. -/
  | moduleBoot (image : BootImage)
  /-- ETH_FRAME_RECEIVE (R339). A port classifies a received frame to PTP, SCT or the operating system. -/
  | ethFrameReceive (oct : Nat) (frame : EthFrame)
  /-- ETH_FRAME_TRANSMIT (R337). An egress frame passes the source filter and rate cap or is dropped. -/
  | ethFrameTransmit (oct : Nat) (frame : EthFrame)
  /-- MCTP_MESSAGE (R390). A management MCTP message reaches an Assize over I3C or UDP. -/
  | mctpMessage (oct : Nat) (req : MctpRequest)
  /-- TROY_DEBUG_READ (R270). A debug read of a Troy page returns poison and is logged. -/
  | troyDebugRead (part pa : Nat)
  /-- DEBUG_RESUME (R279). Ryukel resumes a warp stopped by BKPT. -/
  | debugResume (core warp : Nat)
  /-- STALE_PAIR_WRITE (R196). A write to an LLC_STALE_PAIR register sets its tenants and clears its count. -/
  | stalePairWrite (part idx : Nat) (v : DWord)
  /-- NETREJ_WRITE (R307). A write to SCH_NETREJ clears its drop count. -/
  | netrejWrite (part : Nat)
  /-- CEN_STAT_WRITE (R332). A write to CEN_STAT clears its refusal count. -/
  | cenStatWrite (part : Nat)
  /-- EVLOST_WRITE (R373). A write to ASZ_EVLOST clears the lost-event count. -/
  | evlostWrite (part : Nat)
  /-- RXDROP_WRITE (R338). A write to NET_RXDROP clears its drop count. -/
  | rxdropWrite (part : Nat)
  /-- REGISTER_WRITE (R311). A write to any other register takes effect or, breaking a limit, is refused and logged. -/
  | registerWrite (part : Nat) (who : Agent) (reg : HReg) (v : DWord)
  /-- PORT_LINK_CHANGE (R348). An octant's Ethernet link comes up or goes down, changing NET_PORTST LINK and LAG membership and
  possibly the PTP leading port. -/
  | portLinkChange (oct : Nat) (up : Bool)
  /-- TERMINATION_BY_RYUKEL (R283). Ryukel terminates a single launch, which then stops, retires and reports with BYKERNEL set. -/
  | terminationByRyukel (launch : Nat)
  /-- POWER_REACHES_TDP (R391). Module power reaches or falls back from TDP, and hardware holds the matrix arrays below or releases
  them to peak rate. -/
  | powerReachesTdp (held : Bool)
deriving DecidableEq, Repr

end Sys2Proof
end

