-- ==== Sys2Proof/WellFormed.lean ====
section
/-! DEFINITION. Which instruction words are legal beyond their fields' widths: the values that the encoding tables call
illegal or reserved (R33, R37, R59, R89, R130, R159, R178, R179, R187, R226, R251). -/

namespace Sys2Proof

/-- A run of `n` window registers from `d` stays within v127. -/
def runOk (d : BitVec 7) (n : Nat) : Bool := d.toNat + n ≤ 128

/-- A run of `n` scalars from `a` stays within s63. -/
def srunOk (a : BitVec 6) (n : Nat) : Bool := a.toNat + n ≤ 64

/-- The names that a lane access of size SZ takes (R179). -/
def szNames (sz : Nat) : Nat := if sz = 6 then 4 else if sz = 5 then 2 else 1

/-- The names or words that a value of an atomic TYPE takes (R187, R188). -/
def atomWords (ty : Nat) : Nat := if ty = 2 ∨ ty = 3 then 2 else 1

/-- The pairs of op and TYPE that atomics accept (R187). -/
def atomPairOk (op ty : Nat) : Bool := ty ≤ 4 && !(ty == 4 && (op == 3 || op == 4 || op == 5))

/-- The SCOPE values of R179, and the rule that a scope other than WARP needs ORD. -/
def scopeOk (scope : BitVec 3) (ord : BitVec 1) : Bool :=
  decide (scope.toNat ≤ 5) && (scope == 0 || ord == 1)

/-- The special register numbers of R32. -/
def specKnown (n : BitVec 7) : Bool :=
  let k := n.toNat
  decide (k ≤ 0x13) || (decide (0x18 ≤ k) && decide (k ≤ 0x2a)) || (decide (0x30 ≤ k) && decide (k ≤ 0x35))
    || k == 0x40 || k == 0x41

/-- The names of a row of n elements, where the field holds n/32 - 1 (R193). -/
def rowNames (n : BitVec 3) : Nat := (n.toNat + 2) / 2

/-- The checks that the encoding tables make on an instruction's operands. Events carry no word and have none. -/
def Instr.wf : Instr → Bool
  | .mapr d n => runOk d (n.toNat + 1)
  | .rotn d n k => runOk d (n.toNat + 1) && decide (k.toNat < n.toNat + 1)
  | .wbase b => b.toNat ≤ 24
  | .lea d _ _ _ => runOk d 2
  | .jmpr a => runOk a 2
  | .callr _ a => runOk a 2
  | .fcvt dst _ _ src => decide (src.toNat ≤ 7) && decide (dst.toNat ≠ src.toNat)
  | .fredux _ _ op => op.toNat ≤ 2
  | .ldg d a scope ord sz => scopeOk scope ord && decide (sz.toNat ≤ 6) && runOk d (szNames sz.toNat) && runOk a 2
  | .stg d a scope ord sz =>
    scopeOk scope ord && decide (sz.toNat ≤ 6) && sz != 1 && sz != 3 && runOk d (szNames sz.toNat) && runOk a 2
  | .lds d _ fe sz => decide (fe.toNat ≤ 2) && decide (sz.toNat ≤ 6) && runOk d (szNames sz.toNat)
  | .sts d _ fe sz =>
    decide (fe.toNat ≤ 2) && decide (sz.toNat ≤ 6) && sz != 1 && sz != 3 && runOk d (szNames sz.toNat)
  | .ldu _ _ scope ord sz => scopeOk scope ord && decide (sz.toNat ≤ 5)
  | .stu _ _ scope ord sz => scopeOk scope ord && decide (sz.toNat ≤ 5) && sz != 1 && sz != 3
  | .atom op d a _ ty scope =>
    atomPairOk op.toNat ty.toNat && decide (scope.toNat ≤ 5) && runOk d (atomWords ty.toNat)
      && runOk a (2 + atomWords ty.toNat * (if op.toNat = 7 then 2 else 1))
  | .atoms op d a ty =>
    atomPairOk op.toNat ty.toNat && runOk d (atomWords ty.toNat)
      && runOk a (1 + atomWords ty.toNat * (if op.toNat = 7 then 2 else 1))
  | .rowld d a _ n => runOk d (rowNames n) && srunOk a 2
  | .rowst d _ n => runOk d (rowNames n)
  | .rowadd d _ n => runOk d (rowNames n)
  | .pref a _ => runOk a 2
  | .fence kind scope => decide (kind.toNat ≠ 0) && decide (scope.toNat ≤ 5)
  | .mma _ a _ => runOk a 32
  | .bfill _ a => srunOk a 3
  | .bfills _ a _ => srunOk a 3
  | .mdrain _ _ a rte dest => srunOk a 4 && (rte == 0 || dest == 3)
  | .vpop d => runOk d 8
  | .tld _ a => srunOk a 4
  | .tst _ a => srunOk a 4
  | .tcpy _ a => srunOk a 4
  | .tmcast _ a _ => srunOk a 4
  | .gath _ a _ => srunOk a 4
  | .scat _ a _ => srunOk a 4
  | .feedgo _ a => srunOk a 2
  | .qfeed _ a _ => srunOk a 2
  | .treg _ a _ => srunOk a 3
  | .tmove d _ b => srunOk d 2 && srunOk b 2
  | .solicit _ a b => srunOk a 4 && srunOk b 2
  | .srd _ spec => specKnown spec && spec != 0x0b
  | .swr spec _ => specKnown spec
  | .srdV _ spec => specKnown spec
  | .pfxa _ _ pol _ _ => pol != 3
  | .pfxb rm _ ty => decide (rm.toNat ≤ 5) && !(decide (9 ≤ ty.toNat) && decide (ty.toNat ≤ 14))
  | _ => true

end Sys2Proof
end

