-- ==== Sys2Proof/Decode.lean ====
section
/-! DEFINITION. The decoder of instruction words, total on any bits, and the encoder written from the same tables of
the spec (R36, R58 and the encoding tables of the instruction chapters). -/

namespace Sys2Proof

/-- The parts of an instruction word below E and S, and its literal word (R36, R39). -/
structure Fields where
  op : BitVec 9
  d : BitVec 7
  a : BitVec 7
  b : BitVec 7
  lit : Option Word
deriving DecidableEq, Repr


/-- The decoder of opcodes 0x000 to 0x01f (R58), all fields that must be zero checked. -/
def decodeMap (op : BitVec 9) (D A B : BitVec 7) : Option Instr :=
  match op.toNat with
  | 0x000 => if A = 0#7 ∧ B = 0#7 then some (.map D) else none
  | 0x001 => if A = 0#7 ∧ B.extractLsb' 5 2 = 0#2 then some (.mapr D (B.extractLsb' 0 5)) else none
  | 0x002 => if A = 0#7 ∧ B = 0#7 then some (.unmap D) else none
  | 0x003 => if D = 0#7 ∧ A.extractLsb' 6 1 = 0#1 ∧ B = 0#7 then some (.unmapm (A.extractLsb' 0 6)) else none
  | 0x004 => if B = 0#7 then some (.movn D A) else none
  | 0x005 => if B = 0#7 then some (.swpn D A) else none
  | 0x006 => if A.extractLsb' 5 2 = 0#2 ∧ B.extractLsb' 5 2 = 0#2 then some (.rotn D (A.extractLsb' 0 5) (B.extractLsb' 0 5)) else none
  | 0x007 => if B = 0#7 then some (.aliasN D A) else none
  | 0x008 => if B = 0#7 then some (.copyn D A) else none
  | 0x009 => if D.extractLsb' 6 1 = 0#1 ∧ B = 0#7 then some (.give (D.extractLsb' 0 6) A) else none
  | 0x00a => if A.extractLsb' 6 1 = 0#1 ∧ B = 0#7 then some (.take D (A.extractLsb' 0 6)) else none
  | 0x00b => if A.extractLsb' 6 1 = 0#1 ∧ B.extractLsb' 4 3 = 0#3 then some (.takeq D (A.extractLsb' 0 6) (B.extractLsb' 0 4)) else none
  | 0x00c => if D.extractLsb' 4 3 = 0#3 ∧ B = 0#7 then some (.ismap (D.extractLsb' 0 4) A) else none
  | 0x00d => if D = 0#7 ∧ A = 0#7 then some (.wbase B) else none
  | 0x00e => if D.extractLsb' 6 1 = 0#1 ∧ B = 0#7 then some (.mapq (D.extractLsb' 0 6) A) else none
  | _ => none

/-- The decoder of opcodes 0x020 to 0x03f (R58), all fields that must be zero checked. -/
def decodeScalar (op : BitVec 9) (D A B : BitVec 7) : Option Instr :=
  match op.toNat with
  | 0x020 => if D.extractLsb' 6 1 = 0#1 ∧ A.extractLsb' 6 1 = 0#1 ∧ B.extractLsb' 6 1 = 0#1 then some (.sadd (D.extractLsb' 0 6) (A.extractLsb' 0 6) (B.extractLsb' 0 6)) else none
  | 0x021 => if D.extractLsb' 6 1 = 0#1 ∧ A.extractLsb' 6 1 = 0#1 ∧ B.extractLsb' 6 1 = 0#1 then some (.ssub (D.extractLsb' 0 6) (A.extractLsb' 0 6) (B.extractLsb' 0 6)) else none
  | 0x022 => if D.extractLsb' 6 1 = 0#1 ∧ A.extractLsb' 6 1 = 0#1 ∧ B.extractLsb' 6 1 = 0#1 then some (.smul (D.extractLsb' 0 6) (A.extractLsb' 0 6) (B.extractLsb' 0 6)) else none
  | 0x023 => if D.extractLsb' 6 1 = 0#1 ∧ A.extractLsb' 6 1 = 0#1 ∧ B.extractLsb' 6 1 = 0#1 then some (.smulh (D.extractLsb' 0 6) (A.extractLsb' 0 6) (B.extractLsb' 0 6)) else none
  | 0x024 => if D.extractLsb' 6 1 = 0#1 ∧ A.extractLsb' 6 1 = 0#1 ∧ B.extractLsb' 6 1 = 0#1 then some (.sand (D.extractLsb' 0 6) (A.extractLsb' 0 6) (B.extractLsb' 0 6)) else none
  | 0x025 => if D.extractLsb' 6 1 = 0#1 ∧ A.extractLsb' 6 1 = 0#1 ∧ B.extractLsb' 6 1 = 0#1 then some (.sor (D.extractLsb' 0 6) (A.extractLsb' 0 6) (B.extractLsb' 0 6)) else none
  | 0x026 => if D.extractLsb' 6 1 = 0#1 ∧ A.extractLsb' 6 1 = 0#1 ∧ B.extractLsb' 6 1 = 0#1 then some (.sxor (D.extractLsb' 0 6) (A.extractLsb' 0 6) (B.extractLsb' 0 6)) else none
  | 0x027 => if D.extractLsb' 6 1 = 0#1 ∧ A.extractLsb' 6 1 = 0#1 ∧ B.extractLsb' 6 1 = 0#1 then some (.sshl (D.extractLsb' 0 6) (A.extractLsb' 0 6) (B.extractLsb' 0 6)) else none
  | 0x028 => if D.extractLsb' 6 1 = 0#1 ∧ A.extractLsb' 6 1 = 0#1 ∧ B.extractLsb' 6 1 = 0#1 then some (.sshr (D.extractLsb' 0 6) (A.extractLsb' 0 6) (B.extractLsb' 0 6)) else none
  | 0x029 => if D.extractLsb' 6 1 = 0#1 ∧ A.extractLsb' 6 1 = 0#1 ∧ B.extractLsb' 6 1 = 0#1 then some (.ssra (D.extractLsb' 0 6) (A.extractLsb' 0 6) (B.extractLsb' 0 6)) else none
  | 0x02a => if D.extractLsb' 6 1 = 0#1 ∧ A.extractLsb' 6 1 = 0#1 ∧ B.extractLsb' 6 1 = 0#1 then some (.smin (D.extractLsb' 0 6) (A.extractLsb' 0 6) (B.extractLsb' 0 6)) else none
  | 0x02b => if D.extractLsb' 6 1 = 0#1 ∧ A.extractLsb' 6 1 = 0#1 ∧ B.extractLsb' 6 1 = 0#1 then some (.smax (D.extractLsb' 0 6) (A.extractLsb' 0 6) (B.extractLsb' 0 6)) else none
  | 0x030 => if D.extractLsb' 6 1 = 0#1 ∧ A.extractLsb' 6 1 = 0#1 then some (.saddImm (D.extractLsb' 0 6) (A.extractLsb' 0 6) B) else none
  | 0x031 => if D.extractLsb' 6 1 = 0#1 ∧ A.extractLsb' 6 1 = 0#1 then some (.ssubImm (D.extractLsb' 0 6) (A.extractLsb' 0 6) B) else none
  | 0x032 => if D.extractLsb' 6 1 = 0#1 ∧ A.extractLsb' 6 1 = 0#1 then some (.smulImm (D.extractLsb' 0 6) (A.extractLsb' 0 6) B) else none
  | 0x033 => if D.extractLsb' 6 1 = 0#1 ∧ A.extractLsb' 6 1 = 0#1 then some (.smulhImm (D.extractLsb' 0 6) (A.extractLsb' 0 6) B) else none
  | 0x034 => if D.extractLsb' 6 1 = 0#1 ∧ A.extractLsb' 6 1 = 0#1 then some (.sandImm (D.extractLsb' 0 6) (A.extractLsb' 0 6) B) else none
  | 0x035 => if D.extractLsb' 6 1 = 0#1 ∧ A.extractLsb' 6 1 = 0#1 then some (.sorImm (D.extractLsb' 0 6) (A.extractLsb' 0 6) B) else none
  | 0x036 => if D.extractLsb' 6 1 = 0#1 ∧ A.extractLsb' 6 1 = 0#1 then some (.sxorImm (D.extractLsb' 0 6) (A.extractLsb' 0 6) B) else none
  | 0x037 => if D.extractLsb' 6 1 = 0#1 ∧ A.extractLsb' 6 1 = 0#1 then some (.sshlImm (D.extractLsb' 0 6) (A.extractLsb' 0 6) B) else none
  | 0x038 => if D.extractLsb' 6 1 = 0#1 ∧ A.extractLsb' 6 1 = 0#1 then some (.sshrImm (D.extractLsb' 0 6) (A.extractLsb' 0 6) B) else none
  | 0x039 => if D.extractLsb' 6 1 = 0#1 ∧ A.extractLsb' 6 1 = 0#1 then some (.ssraImm (D.extractLsb' 0 6) (A.extractLsb' 0 6) B) else none
  | 0x03a => if D.extractLsb' 6 1 = 0#1 ∧ A.extractLsb' 6 1 = 0#1 then some (.sminImm (D.extractLsb' 0 6) (A.extractLsb' 0 6) B) else none
  | 0x03b => if D.extractLsb' 6 1 = 0#1 ∧ A.extractLsb' 6 1 = 0#1 then some (.smaxImm (D.extractLsb' 0 6) (A.extractLsb' 0 6) B) else none
  | _ => none

/-- The decoder of opcodes 0x040 to 0x05f (R58), all fields that must be zero checked. -/
def decodeScalarTwo (op : BitVec 9) (D A B : BitVec 7) (lit : Word) : Option Instr :=
  match op.toNat with
  | 0x050 => if D.extractLsb' 6 1 = 0#1 ∧ A.extractLsb' 6 1 = 0#1 ∧ B.extractLsb' 6 1 = 0#1 then some (.ssel (D.extractLsb' 0 6) (A.extractLsb' 0 6) (B.extractLsb' 0 6)) else none
  | 0x051 => if D.extractLsb' 6 1 = 0#1 ∧ A.extractLsb' 6 1 = 0#1 ∧ B = 0#7 then some (.smov (D.extractLsb' 0 6) (A.extractLsb' 0 6)) else none
  | 0x052 => if D.extractLsb' 6 1 = 0#1 then some (.sldi (D.extractLsb' 0 6) (A ++ B)) else none
  | 0x053 => if D.extractLsb' 6 1 = 0#1 ∧ A.extractLsb' 1 6 = 0#6 ∧ B = 0#7 then some (.slit (D.extractLsb' 0 6) (A.extractLsb' 0 1) lit) else none
  | _ => none

/-- The decoder of opcodes 0x060 to 0x07f (R58), all fields that must be zero checked. -/
def decodeVector (op : BitVec 9) (D A B : BitVec 7) : Option Instr :=
  match op.toNat with
  | 0x060 => some (.iadd D A B)
  | 0x061 => some (.isub D A B)
  | 0x062 => some (.imul D A B)
  | 0x063 => some (.imulh D A B)
  | 0x064 => some (.iand D A B)
  | 0x065 => some (.ior D A B)
  | 0x066 => some (.ixor D A B)
  | 0x067 => some (.ishl D A B)
  | 0x068 => some (.ishr D A B)
  | 0x069 => some (.isra D A B)
  | 0x06a => some (.imin D A B)
  | 0x06b => some (.imax D A B)
  | 0x070 => some (.iaddImm D A B)
  | 0x071 => some (.isubImm D A B)
  | 0x072 => some (.imulImm D A B)
  | 0x073 => some (.imulhImm D A B)
  | 0x074 => some (.iandImm D A B)
  | 0x075 => some (.iorImm D A B)
  | 0x076 => some (.ixorImm D A B)
  | 0x077 => some (.ishlImm D A B)
  | 0x078 => some (.ishrImm D A B)
  | 0x079 => some (.israImm D A B)
  | 0x07a => some (.iminImm D A B)
  | 0x07b => some (.imaxImm D A B)
  | 0x06c => some (.imad D A B)
  | 0x06d => if B = 0#7 then some (.iabs D A) else none
  | 0x06e => if B = 0#7 then some (.popc D A) else none
  | 0x06f => if B = 0#7 then some (.clz D A) else none
  | 0x07c => if B = 0#7 then some (.brev D A) else none
  | 0x07d => some (.bfe D A B)
  | 0x07e => some (.bfi D A B)
  | 0x07f => some (.iaddc D A B)
  | _ => none

/-- The decoder of opcodes 0x080 to 0x09f (R58), all fields that must be zero checked. -/
def decodeVectorTwo (op : BitVec 9) (D A B : BitVec 7) (lit : Word) : Option Instr :=
  match op.toNat with
  | 0x090 => some (.lea D (A.extractLsb' 6 1) (A.extractLsb' 0 6) B)
  | 0x091 => if B = 0#7 then some (.mov D A) else none
  | 0x092 => if B = 0#7 then some (.movs D (A.extractLsb' 6 1) (A.extractLsb' 0 6)) else none
  | 0x093 => if A = 0#7 ∧ B = 0#7 then some (.lit D lit) else none
  | 0x094 => if D.extractLsb' 4 3 = 0#3 ∧ A.extractLsb' 4 3 = 0#3 ∧ B.extractLsb' 4 3 = 0#3 then some (.pand (D.extractLsb' 0 4) (A.extractLsb' 0 4) (B.extractLsb' 0 4)) else none
  | 0x095 => if D.extractLsb' 4 3 = 0#3 ∧ A.extractLsb' 4 3 = 0#3 ∧ B.extractLsb' 4 3 = 0#3 then some (.por (D.extractLsb' 0 4) (A.extractLsb' 0 4) (B.extractLsb' 0 4)) else none
  | 0x096 => if D.extractLsb' 4 3 = 0#3 ∧ A.extractLsb' 4 3 = 0#3 ∧ B.extractLsb' 4 3 = 0#3 then some (.pxor (D.extractLsb' 0 4) (A.extractLsb' 0 4) (B.extractLsb' 0 4)) else none
  | 0x097 => if D.extractLsb' 4 3 = 0#3 ∧ A.extractLsb' 4 3 = 0#3 ∧ B = 0#7 then some (.pnot (D.extractLsb' 0 4) (A.extractLsb' 0 4)) else none
  | 0x098 => if D.extractLsb' 4 3 = 0#3 ∧ A.extractLsb' 6 1 = 0#1 ∧ B = 0#7 then some (.pset (D.extractLsb' 0 4) (A.extractLsb' 0 6)) else none
  | 0x099 => if D.extractLsb' 6 1 = 0#1 ∧ A.extractLsb' 4 3 = 0#3 ∧ B = 0#7 then some (.pmov (D.extractLsb' 0 6) (A.extractLsb' 0 4)) else none
  | _ => none

/-- The decoder of opcodes 0x0a0 to 0x0bf (R58), all fields that must be zero checked. -/
def decodeFloat (op : BitVec 9) (D A B : BitVec 7) : Option Instr :=
  match op.toNat with
  | 0x0a0 => some (.fadd D A B)
  | 0x0a1 => some (.fsub D A B)
  | 0x0a2 => some (.fmul D A B)
  | 0x0a3 => some (.ffma D A B)
  | 0x0a4 => some (.fmin D A B)
  | 0x0a5 => some (.fmax D A B)
  | 0x0a6 => if B = 0#7 then some (.fabs D A) else none
  | 0x0a7 => if B = 0#7 then some (.fneg D A) else none
  | 0x0a8 => if D.extractLsb' 4 3 = 0#3 then some (.fcmpEq (D.extractLsb' 0 4) A B) else none
  | 0x0a9 => if D.extractLsb' 4 3 = 0#3 then some (.fcmpLt (D.extractLsb' 0 4) A B) else none
  | 0x0aa => if D.extractLsb' 4 3 = 0#3 then some (.fcmpLe (D.extractLsb' 0 4) A B) else none
  | 0x0ab => if D.extractLsb' 4 3 = 0#3 then some (.fcmpGt (D.extractLsb' 0 4) A B) else none
  | 0x0ac => if D.extractLsb' 4 3 = 0#3 then some (.fcmpGe (D.extractLsb' 0 4) A B) else none
  | 0x0ad => if D.extractLsb' 4 3 = 0#3 then some (.fcmpNe (D.extractLsb' 0 4) A B) else none
  | 0x0ae => if D.extractLsb' 4 3 = 0#3 then some (.fcmpOrd (D.extractLsb' 0 4) A B) else none
  | 0x0af => if D.extractLsb' 4 3 = 0#3 then some (.fcmpUno (D.extractLsb' 0 4) A B) else none
  | 0x0b0 => if D.extractLsb' 4 3 = 0#3 then some (.fcmpEqu (D.extractLsb' 0 4) A B) else none
  | 0x0b1 => if D.extractLsb' 4 3 = 0#3 then some (.fcmpLtu (D.extractLsb' 0 4) A B) else none
  | 0x0b2 => if D.extractLsb' 4 3 = 0#3 then some (.fcmpLeu (D.extractLsb' 0 4) A B) else none
  | 0x0b3 => if D.extractLsb' 4 3 = 0#3 then some (.fcmpGtu (D.extractLsb' 0 4) A B) else none
  | 0x0b4 => if D.extractLsb' 4 3 = 0#3 then some (.fcmpGeu (D.extractLsb' 0 4) A B) else none
  | 0x0b5 => if D.extractLsb' 4 3 = 0#3 then some (.fcmpNeu (D.extractLsb' 0 4) A B) else none
  | 0x0b8 => some (.hadd2 D A B)
  | 0x0b9 => some (.hmul2 D A B)
  | 0x0ba => some (.hfma2 D A B)
  | _ => none

/-- The decoder of opcodes 0x0e0 to 0x0ff (R58), all fields that must be zero checked. -/
def decodeSfu (op : BitVec 9) (D A B : BitVec 7) : Option Instr :=
  match op.toNat with
  | 0x0f0 => if B = 0#7 then some (.frcp D A) else none
  | 0x0f1 => if B = 0#7 then some (.frsq D A) else none
  | 0x0f2 => if B = 0#7 then some (.fsqrt D A) else none
  | 0x0f3 => if B = 0#7 then some (.fex2 D A) else none
  | 0x0f4 => if B = 0#7 then some (.flg2 D A) else none
  | 0x0f5 => if B = 0#7 then some (.ftanh D A) else none
  | _ => none

/-- The decoder of opcodes 0x100 to 0x11f (R58), all fields that must be zero checked. -/
def decodeCross (op : BitVec 9) (D A B : BitVec 7) : Option Instr :=
  match op.toNat with
  | 0x100 => some (.shfl2 D A B)
  | 0x101 => some (.shfl4 D A B)
  | 0x102 => some (.shfl8 D A B)
  | 0x103 => some (.shfl16 D A B)
  | 0x104 => some (.shfl32 D A B)
  | 0x105 => if D.extractLsb' 6 1 = 0#1 ∧ A.extractLsb' 5 2 = 0#2 ∧ B = 0#7 then some (.voteAny (D.extractLsb' 0 6) (A.extractLsb' 4 1) (A.extractLsb' 0 4)) else none
  | 0x106 => if D.extractLsb' 6 1 = 0#1 ∧ A.extractLsb' 5 2 = 0#2 ∧ B = 0#7 then some (.voteAll (D.extractLsb' 0 6) (A.extractLsb' 4 1) (A.extractLsb' 0 4)) else none
  | 0x107 => if D.extractLsb' 6 1 = 0#1 ∧ A.extractLsb' 5 2 = 0#2 ∧ B = 0#7 then some (.voteBal (D.extractLsb' 0 6) (A.extractLsb' 4 1) (A.extractLsb' 0 4)) else none
  | 0x108 => if B = 0#7 then some (.matchAny D A) else none
  | 0x109 => if B = 0#7 then some (.matchAll D A) else none
  | 0x10a => if D.extractLsb' 6 1 = 0#1 ∧ B.extractLsb' 3 4 = 0#4 then some (.redux (D.extractLsb' 0 6) A (B.extractLsb' 0 3)) else none
  | 0x10b => if D.extractLsb' 6 1 = 0#1 ∧ B.extractLsb' 2 5 = 0#5 then some (.fredux (D.extractLsb' 0 6) A (B.extractLsb' 0 2)) else none
  | 0x10c => if B.extractLsb' 4 3 = 0#3 then some (.scan D A (B.extractLsb' 3 1) (B.extractLsb' 0 3)) else none
  | 0x10d => if B.extractLsb' 6 1 = 0#1 then some (.bcast D A (B.extractLsb' 0 6)) else none
  | 0x10e => if D.extractLsb' 4 3 = 0#3 ∧ A.extractLsb' 6 1 = 0#1 ∧ B = 0#7 then some (.elect (D.extractLsb' 0 4) (A.extractLsb' 0 6)) else none
  | _ => none

/-- The decoder of opcodes 0x120 to 0x13f (R58), all fields that must be zero checked. -/
def decodeControl (op : BitVec 9) (D A B : BitVec 7) : Option Instr :=
  match op.toNat with
  | 0x120 => if D = 0#7 then some (.bra (A ++ B)) else none
  | 0x121 => some (.bru (D.extractLsb' 6 1) (D.extractLsb' 0 6) (A ++ B))
  | 0x122 => if D.extractLsb' 5 2 = 0#2 then some (.brp (D.extractLsb' 4 1) (D.extractLsb' 0 4) (A ++ B)) else none
  | 0x123 => if D = 0#7 then some (.jpoint (A ++ B)) else none
  | 0x124 => if D = 0#7 ∧ A = 0#7 ∧ B = 0#7 then some .join else none
  | 0x125 => if D = 0#7 ∧ B = 0#7 then some (.jmpr A) else none
  | 0x126 => if D.extractLsb' 6 1 = 0#1 then some (.call (D.extractLsb' 0 6) (A ++ B)) else none
  | 0x127 => if D.extractLsb' 6 1 = 0#1 ∧ B = 0#7 then some (.callr (D.extractLsb' 0 6) A) else none
  | 0x128 => if D = 0#7 ∧ A.extractLsb' 6 1 = 0#1 ∧ B = 0#7 then some (.ret (A.extractLsb' 0 6)) else none
  | 0x129 => if D = 0#7 ∧ A = 0#7 ∧ B = 0#7 then some .exit else none
  | 0x12a => if D = 0#7 ∧ A = 0#7 ∧ B = 0#7 then some .nop else none
  | 0x12b => if D = 0#7 ∧ A = 0#7 ∧ B = 0#7 then some .yield else none
  | _ => none

/-- The decoder of opcodes 0x140 to 0x15f (R58), all fields that must be zero checked. -/
def decodeMemory (op : BitVec 9) (D A B : BitVec 7) : Option Instr :=
  match op.toNat with
  | 0x140 => some (.ldg D A (B.extractLsb' 4 3) (B.extractLsb' 3 1) (B.extractLsb' 0 3))
  | 0x141 => some (.stg D A (B.extractLsb' 4 3) (B.extractLsb' 3 1) (B.extractLsb' 0 3))
  | 0x142 => if B.extractLsb' 5 2 = 0#2 then some (.lds D A (B.extractLsb' 3 2) (B.extractLsb' 0 3)) else none
  | 0x143 => if B.extractLsb' 5 2 = 0#2 then some (.sts D A (B.extractLsb' 3 2) (B.extractLsb' 0 3)) else none
  | 0x144 => if D.extractLsb' 6 1 = 0#1 ∧ A.extractLsb' 6 1 = 0#1 then some (.ldu (D.extractLsb' 0 6) (A.extractLsb' 0 6) (B.extractLsb' 4 3) (B.extractLsb' 3 1) (B.extractLsb' 0 3)) else none
  | 0x145 => if D.extractLsb' 6 1 = 0#1 ∧ A.extractLsb' 6 1 = 0#1 then some (.stu (D.extractLsb' 0 6) (A.extractLsb' 0 6) (B.extractLsb' 4 3) (B.extractLsb' 3 1) (B.extractLsb' 0 3)) else none
  | 0x158 => if A.extractLsb' 6 1 = 0#1 ∧ B.extractLsb' 4 3 = 0#3 then some (.rowld D (A.extractLsb' 0 6) (B.extractLsb' 3 1) (B.extractLsb' 0 3)) else none
  | 0x159 => if A.extractLsb' 6 1 = 0#1 ∧ B.extractLsb' 3 4 = 0#4 then some (.rowst D (A.extractLsb' 0 6) (B.extractLsb' 0 3)) else none
  | 0x15a => if A.extractLsb' 6 1 = 0#1 ∧ B.extractLsb' 3 4 = 0#4 then some (.rowadd D (A.extractLsb' 0 6) (B.extractLsb' 0 3)) else none
  | 0x15b => if D = 0#7 ∧ B.extractLsb' 1 6 = 0#6 then some (.pref A (B.extractLsb' 0 1)) else none
  | 0x15c => if D = 0#7 ∧ A = 0#7 ∧ B.extractLsb' 5 2 = 0#2 then some (.fence (B.extractLsb' 3 2) (B.extractLsb' 0 3)) else none
  | 0x15d => if D = 0#7 ∧ A.extractLsb' 2 5 = 0#5 ∧ B = 0#7 then some (.gbar (A.extractLsb' 0 2)) else none
  | 0x15e => if D.extractLsb' 6 1 = 0#1 ∧ A.extractLsb' 2 5 = 0#5 ∧ B = 0#7 then some (.garv (D.extractLsb' 0 6) (A.extractLsb' 0 2)) else none
  | 0x15f => if D = 0#7 ∧ A.extractLsb' 2 5 = 0#5 ∧ B.extractLsb' 6 1 = 0#1 then some (.gwait (A.extractLsb' 0 2) (B.extractLsb' 0 6)) else none
  | _ => none

/-- The decoder of opcodes 0x180 to 0x19f (R58), all fields that must be zero checked. -/
def decodeMatrix (op : BitVec 9) (D A B : BitVec 7) : Option Instr :=
  match op.toNat with
  | 0x180 => if D.extractLsb' 6 1 = 0#1 then some (.mma (D.extractLsb' 0 6) A B) else none
  | 0x181 => if D.extractLsb' 6 1 = 0#1 ∧ A = 0#7 ∧ B.extractLsb' 3 4 = 0#4 then some (.mzero (D.extractLsb' 0 6) (B.extractLsb' 0 3)) else none
  | 0x182 => if D.extractLsb' 6 1 = 0#1 ∧ A.extractLsb' 6 1 = 0#1 ∧ B = 0#7 then some (.bfill (D.extractLsb' 0 6) (A.extractLsb' 0 6)) else none
  | 0x183 => if D.extractLsb' 6 1 = 0#1 ∧ A.extractLsb' 6 1 = 0#1 ∧ B.extractLsb' 4 3 = 0#3 then some (.bfills (D.extractLsb' 0 6) (A.extractLsb' 0 6) (B.extractLsb' 0 4)) else none
  | 0x184 => if D = 0#7 ∧ A.extractLsb' 6 1 = 0#1 ∧ B.extractLsb' 6 1 = 0#1 then some (.scld (A.extractLsb' 0 6) (B.extractLsb' 0 6)) else none
  | 0x185 => if D = 0#7 ∧ A.extractLsb' 6 1 = 0#1 ∧ B = 0#7 then some (.mepi (A.extractLsb' 0 6)) else none
  | 0x186 => if A.extractLsb' 6 1 = 0#1 ∧ B.extractLsb' 5 2 = 0#2 then some (.mdrain (D.extractLsb' 6 1) (D.extractLsb' 0 6) (A.extractLsb' 0 6) (B.extractLsb' 2 3) (B.extractLsb' 0 2)) else none
  | 0x187 => if A = 0#7 ∧ B = 0#7 then some (.vpop D) else none
  | 0x188 => if D = 0#7 then some (.mburst (A ++ B)) else none
  | 0x189 => if D.extractLsb' 6 1 = 0#1 ∧ A = 0#7 ∧ B = 0#7 then some (.mstat (D.extractLsb' 0 6)) else none
  | 0x18a => if D.extractLsb' 6 1 = 0#1 ∧ A.extractLsb' 6 1 = 0#1 ∧ B = 0#7 then some (.accsv (D.extractLsb' 0 6) (A.extractLsb' 0 6)) else none
  | 0x18b => if A.extractLsb' 6 1 = 0#1 ∧ B = 0#7 then some (.accld (D.extractLsb' 6 1) (D.extractLsb' 0 6) (A.extractLsb' 0 6)) else none
  | _ => none

/-- The decoder of opcodes 0x1a0 to 0x1bf (R58), all fields that must be zero checked. -/
def decodeEngine (op : BitVec 9) (D A B : BitVec 7) : Option Instr :=
  match op.toNat with
  | 0x1a0 => if D = 0#7 ∧ A.extractLsb' 6 1 = 0#1 ∧ B = 0#7 then some (.fwait (A.extractLsb' 0 6)) else none
  | 0x1a1 => if D.extractLsb' 6 1 = 0#1 ∧ A.extractLsb' 6 1 = 0#1 ∧ B = 0#7 then some (.ftest (D.extractLsb' 0 6) (A.extractLsb' 0 6)) else none
  | 0x1a2 => if D.extractLsb' 6 1 = 0#1 ∧ A.extractLsb' 6 1 = 0#1 ∧ B = 0#7 then some (.fstat (D.extractLsb' 0 6) (A.extractLsb' 0 6)) else none
  | 0x1a3 => if D.extractLsb' 6 1 = 0#1 ∧ A.extractLsb' 6 1 = 0#1 ∧ B = 0#7 then some (.fcancel (D.extractLsb' 0 6) (A.extractLsb' 0 6)) else none
  | 0x1a4 => if D.extractLsb' 6 1 = 0#1 ∧ A.extractLsb' 6 1 = 0#1 ∧ B = 0#7 then some (.tld (D.extractLsb' 0 6) (A.extractLsb' 0 6)) else none
  | 0x1a5 => if D.extractLsb' 6 1 = 0#1 ∧ A.extractLsb' 6 1 = 0#1 ∧ B = 0#7 then some (.tst (D.extractLsb' 0 6) (A.extractLsb' 0 6)) else none
  | 0x1a6 => if D.extractLsb' 6 1 = 0#1 ∧ A.extractLsb' 6 1 = 0#1 ∧ B = 0#7 then some (.tcpy (D.extractLsb' 0 6) (A.extractLsb' 0 6)) else none
  | 0x1a7 => if D.extractLsb' 6 1 = 0#1 ∧ A.extractLsb' 6 1 = 0#1 ∧ B.extractLsb' 2 5 = 0#5 then some (.tmcast (D.extractLsb' 0 6) (A.extractLsb' 0 6) (B.extractLsb' 0 2)) else none
  | 0x1a8 => if D.extractLsb' 6 1 = 0#1 ∧ A.extractLsb' 6 1 = 0#1 ∧ B.extractLsb' 6 1 = 0#1 then some (.gath (D.extractLsb' 0 6) (A.extractLsb' 0 6) (B.extractLsb' 0 6)) else none
  | 0x1a9 => if D.extractLsb' 6 1 = 0#1 ∧ A.extractLsb' 6 1 = 0#1 ∧ B.extractLsb' 6 1 = 0#1 then some (.scat (D.extractLsb' 0 6) (A.extractLsb' 0 6) (B.extractLsb' 0 6)) else none
  | 0x1aa => if D.extractLsb' 6 1 = 0#1 ∧ A.extractLsb' 6 1 = 0#1 ∧ B = 0#7 then some (.feedgo (D.extractLsb' 0 6) (A.extractLsb' 0 6)) else none
  | 0x1ab => if D.extractLsb' 6 1 = 0#1 ∧ A.extractLsb' 6 1 = 0#1 ∧ B.extractLsb' 3 4 = 0#4 then some (.qfeed (D.extractLsb' 0 6) (A.extractLsb' 0 6) (B.extractLsb' 0 3)) else none
  | 0x1ac => if D.extractLsb' 6 1 = 0#1 ∧ A.extractLsb' 3 4 = 0#4 ∧ B = 0#7 then some (.qpop (D.extractLsb' 0 6) (A.extractLsb' 0 3)) else none
  | 0x1ad => if D = 0#7 ∧ A.extractLsb' 3 4 = 0#4 ∧ B.extractLsb' 6 1 = 0#1 then some (.qrel (A.extractLsb' 0 3) (B.extractLsb' 0 6)) else none
  | 0x1ae => if D.extractLsb' 6 1 = 0#1 ∧ A.extractLsb' 6 1 = 0#1 ∧ B = 0#7 then some (.qpost (D.extractLsb' 0 6) (A.extractLsb' 0 6)) else none
  | 0x1af => if D.extractLsb' 6 1 = 0#1 ∧ A.extractLsb' 6 1 = 0#1 ∧ B.extractLsb' 6 1 = 0#1 then some (.qpostAt (D.extractLsb' 0 6) (A.extractLsb' 0 6) (B.extractLsb' 0 6)) else none
  | 0x1b0 => if D.extractLsb' 6 1 = 0#1 ∧ A.extractLsb' 1 6 = 0#6 then some (.ctradd (D.extractLsb' 0 6) ((A.extractLsb' 0 1) ++ B)) else none
  | 0x1b1 => if D.extractLsb' 6 1 = 0#1 ∧ A.extractLsb' 1 6 = 0#6 then some (.ctrwait (D.extractLsb' 0 6) ((A.extractLsb' 0 1) ++ B)) else none
  | 0x1b2 => if D.extractLsb' 3 4 = 0#4 ∧ A.extractLsb' 6 1 = 0#1 ∧ B = 0#7 then some (.rteset (D.extractLsb' 0 3) (A.extractLsb' 0 6)) else none
  | 0x1b3 => if D.extractLsb' 6 1 = 0#1 ∧ A.extractLsb' 6 1 = 0#1 ∧ B.extractLsb' 6 1 = 0#1 then some (.cabort (D.extractLsb' 0 6) (A.extractLsb' 0 6) (B.extractLsb' 0 6)) else none
  | 0x1b4 => if D.extractLsb' 6 1 = 0#1 ∧ A.extractLsb' 6 1 = 0#1 ∧ B = 0#7 then some (.launch (D.extractLsb' 0 6) (A.extractLsb' 0 6)) else none
  | _ => none

/-- The decoder of opcodes 0x1c0 to 0x1df (R58), all fields that must be zero checked. -/
def decodeCensus (op : BitVec 9) (D A B : BitVec 7) : Option Instr :=
  match op.toNat with
  | 0x1c0 => if D.extractLsb' 6 1 = 0#1 ∧ A.extractLsb' 6 1 = 0#1 then some (.treg (D.extractLsb' 0 6) (A.extractLsb' 0 6) B) else none
  | 0x1c1 => if D = 0#7 ∧ A.extractLsb' 6 1 = 0#1 ∧ B = 0#7 then some (.tunreg (A.extractLsb' 0 6)) else none
  | 0x1c2 => if D.extractLsb' 6 1 = 0#1 ∧ A.extractLsb' 6 1 = 0#1 ∧ B.extractLsb' 6 1 = 0#1 then some (.tmove (D.extractLsb' 0 6) (A.extractLsb' 0 6) (B.extractLsb' 0 6)) else none
  | 0x1c3 => if D.extractLsb' 6 1 = 0#1 ∧ A.extractLsb' 6 1 = 0#1 ∧ B.extractLsb' 6 1 = 0#1 then some (.solicit (D.extractLsb' 0 6) (A.extractLsb' 0 6) (B.extractLsb' 0 6)) else none
  | 0x1c4 => if D = 0#7 ∧ A.extractLsb' 6 1 = 0#1 ∧ B = 0#7 then some (.reply (A.extractLsb' 0 6)) else none
  | 0x1c5 => if D = 0#7 ∧ A.extractLsb' 6 1 = 0#1 ∧ B = 0#7 then some (.replyv (A.extractLsb' 0 6)) else none
  | 0x1c6 => if D.extractLsb' 6 1 = 0#1 ∧ A.extractLsb' 6 1 = 0#1 ∧ B = 0#7 then some (.census (D.extractLsb' 0 6) (A.extractLsb' 0 6)) else none
  | 0x1d0 => if D = 0#7 then some (.trap (A ++ B)) else none
  | 0x1d1 => if D = 0#7 ∧ A = 0#7 ∧ B = 0#7 then some .eret else none
  | 0x1d2 => if D.extractLsb' 6 1 = 0#1 ∧ B = 0#7 then some (.srd (D.extractLsb' 0 6) A) else none
  | 0x1d3 => if D = 0#7 ∧ B.extractLsb' 6 1 = 0#1 then some (.swr A (B.extractLsb' 0 6)) else none
  | 0x1d4 => if D = 0#7 then some (.bkpt (A ++ B)) else none
  | 0x1d5 => if D.extractLsb' 6 1 = 0#1 ∧ A = 0#7 ∧ B.extractLsb' 1 6 = 0#6 then some (.gettime (D.extractLsb' 0 6) (B.extractLsb' 0 1)) else none
  | 0x1d6 => if B = 0#7 then some (.srdV D A) else none
  | _ => none

/-- The decoder of opcodes 0x1e0 to 0x1ff (R58), all fields that must be zero checked. -/
def decodePrefix (op : BitVec 9) (D A B : BitVec 7) : Option Instr :=
  match op.toNat with
  | 0x1f0 => if B.extractLsb' 0 6 = 0#6 then some (.pfxa (D.extractLsb' 3 4) (D.extractLsb' 2 1) (D.extractLsb' 0 2) A (B.extractLsb' 6 1)) else none
  | 0x1f1 => if A.extractLsb' 0 6 = 0#6 ∧ B = 0#7 then some (.pfxb (D.extractLsb' 4 3) (D.extractLsb' 3 1) ((D.extractLsb' 0 3) ++ (A.extractLsb' 6 1))) else none
  | _ => none

/-- The instruction of an opcode and its three fields, before the checks of `Instr.wf` (R36, R58). -/
def decodeFields (op : BitVec 9) (D A B : BitVec 7) (lit : Word) : Option Instr :=
  if op.extractLsb' 3 6 = 0x8#6 then if D.extractLsb' 6 1 = 0#1 ∧ A.extractLsb' 6 1 = 0#1 ∧ B.extractLsb' 6 1 = 0#1 then some (.scmp (op.extractLsb' 0 3) (D.extractLsb' 0 6) (A.extractLsb' 0 6) (B.extractLsb' 0 6)) else none else
  if op.extractLsb' 3 6 = 0x9#6 then if D.extractLsb' 6 1 = 0#1 ∧ A.extractLsb' 6 1 = 0#1 then some (.scmpImm (op.extractLsb' 0 3) (D.extractLsb' 0 6) (A.extractLsb' 0 6) B) else none else
  if op.extractLsb' 3 6 = 0x10#6 then if D.extractLsb' 4 3 = 0#3 then some (.icmp (op.extractLsb' 0 3) (D.extractLsb' 0 4) A B) else none else
  if op.extractLsb' 3 6 = 0x11#6 then if D.extractLsb' 4 3 = 0#3 then some (.icmpImm (op.extractLsb' 0 3) (D.extractLsb' 0 4) A B) else none else
  if op.extractLsb' 3 6 = 0x1c#6 then if B.extractLsb' 4 3 = 0#3 then some (.fcvt (op.extractLsb' 0 3) D A (B.extractLsb' 0 4)) else none else
  if op.extractLsb' 3 6 = 0x29#6 then some (.atom (op.extractLsb' 0 3) D A (B.extractLsb' 6 1) (B.extractLsb' 3 3) (B.extractLsb' 0 3)) else
  if op.extractLsb' 3 6 = 0x2a#6 then if B.extractLsb' 6 1 = 0#1 ∧ B.extractLsb' 0 3 = 0#3 then some (.atoms (op.extractLsb' 0 3) D A (B.extractLsb' 3 3)) else none else
  match (op.extractLsb' 5 4).toNat with
  | 0 => decodeMap op D A B
  | 1 => decodeScalar op D A B
  | 2 => decodeScalarTwo op D A B lit
  | 3 => decodeVector op D A B
  | 4 => decodeVectorTwo op D A B lit
  | 5 => decodeFloat op D A B
  | 7 => decodeSfu op D A B
  | 8 => decodeCross op D A B
  | 9 => decodeControl op D A B
  | 10 => decodeMemory op D A B
  | 12 => decodeMatrix op D A B
  | 13 => decodeEngine op D A B
  | 14 => decodeCensus op D A B
  | 15 => decodePrefix op D A B
  | _ => none

/-- The fields of an instruction's word and its literal word, if it is one (the encoding tables of the instruction
chapters); events have no word. -/
def encodeFields : Instr → Option Fields
  | .map d => some ⟨0x000#9, d, 0#7, 0#7, none⟩
  | .mapr d n => some ⟨0x001#9, d, 0#7, (0#2 ++ n), none⟩
  | .unmap d => some ⟨0x002#9, d, 0#7, 0#7, none⟩
  | .unmapm a => some ⟨0x003#9, 0#7, (0#1 ++ a), 0#7, none⟩
  | .movn d a => some ⟨0x004#9, d, a, 0#7, none⟩
  | .swpn d a => some ⟨0x005#9, d, a, 0#7, none⟩
  | .rotn d n k => some ⟨0x006#9, d, (0#2 ++ n), (0#2 ++ k), none⟩
  | .aliasN d a => some ⟨0x007#9, d, a, 0#7, none⟩
  | .copyn d a => some ⟨0x008#9, d, a, 0#7, none⟩
  | .give h a => some ⟨0x009#9, (0#1 ++ h), a, 0#7, none⟩
  | .take d h => some ⟨0x00a#9, d, (0#1 ++ h), 0#7, none⟩
  | .takeq d h p => some ⟨0x00b#9, d, (0#1 ++ h), (0#3 ++ p), none⟩
  | .ismap d a => some ⟨0x00c#9, (0#3 ++ d), a, 0#7, none⟩
  | .wbase b => some ⟨0x00d#9, 0#7, 0#7, b, none⟩
  | .mapq d a => some ⟨0x00e#9, (0#1 ++ d), a, 0#7, none⟩
  | .sadd d a b => some ⟨0x020#9, (0#1 ++ d), (0#1 ++ a), (0#1 ++ b), none⟩
  | .ssub d a b => some ⟨0x021#9, (0#1 ++ d), (0#1 ++ a), (0#1 ++ b), none⟩
  | .smul d a b => some ⟨0x022#9, (0#1 ++ d), (0#1 ++ a), (0#1 ++ b), none⟩
  | .smulh d a b => some ⟨0x023#9, (0#1 ++ d), (0#1 ++ a), (0#1 ++ b), none⟩
  | .sand d a b => some ⟨0x024#9, (0#1 ++ d), (0#1 ++ a), (0#1 ++ b), none⟩
  | .sor d a b => some ⟨0x025#9, (0#1 ++ d), (0#1 ++ a), (0#1 ++ b), none⟩
  | .sxor d a b => some ⟨0x026#9, (0#1 ++ d), (0#1 ++ a), (0#1 ++ b), none⟩
  | .sshl d a b => some ⟨0x027#9, (0#1 ++ d), (0#1 ++ a), (0#1 ++ b), none⟩
  | .sshr d a b => some ⟨0x028#9, (0#1 ++ d), (0#1 ++ a), (0#1 ++ b), none⟩
  | .ssra d a b => some ⟨0x029#9, (0#1 ++ d), (0#1 ++ a), (0#1 ++ b), none⟩
  | .smin d a b => some ⟨0x02a#9, (0#1 ++ d), (0#1 ++ a), (0#1 ++ b), none⟩
  | .smax d a b => some ⟨0x02b#9, (0#1 ++ d), (0#1 ++ a), (0#1 ++ b), none⟩
  | .saddImm d a imm => some ⟨0x030#9, (0#1 ++ d), (0#1 ++ a), imm, none⟩
  | .ssubImm d a imm => some ⟨0x031#9, (0#1 ++ d), (0#1 ++ a), imm, none⟩
  | .smulImm d a imm => some ⟨0x032#9, (0#1 ++ d), (0#1 ++ a), imm, none⟩
  | .smulhImm d a imm => some ⟨0x033#9, (0#1 ++ d), (0#1 ++ a), imm, none⟩
  | .sandImm d a imm => some ⟨0x034#9, (0#1 ++ d), (0#1 ++ a), imm, none⟩
  | .sorImm d a imm => some ⟨0x035#9, (0#1 ++ d), (0#1 ++ a), imm, none⟩
  | .sxorImm d a imm => some ⟨0x036#9, (0#1 ++ d), (0#1 ++ a), imm, none⟩
  | .sshlImm d a imm => some ⟨0x037#9, (0#1 ++ d), (0#1 ++ a), imm, none⟩
  | .sshrImm d a imm => some ⟨0x038#9, (0#1 ++ d), (0#1 ++ a), imm, none⟩
  | .ssraImm d a imm => some ⟨0x039#9, (0#1 ++ d), (0#1 ++ a), imm, none⟩
  | .sminImm d a imm => some ⟨0x03a#9, (0#1 ++ d), (0#1 ++ a), imm, none⟩
  | .smaxImm d a imm => some ⟨0x03b#9, (0#1 ++ d), (0#1 ++ a), imm, none⟩
  | .scmp cc d a b => some ⟨(0x8#6 ++ cc), (0#1 ++ d), (0#1 ++ a), (0#1 ++ b), none⟩
  | .scmpImm cc d a imm => some ⟨(0x9#6 ++ cc), (0#1 ++ d), (0#1 ++ a), imm, none⟩
  | .ssel d a b => some ⟨0x050#9, (0#1 ++ d), (0#1 ++ a), (0#1 ++ b), none⟩
  | .smov d a => some ⟨0x051#9, (0#1 ++ d), (0#1 ++ a), 0#7, none⟩
  | .sldi d imm => some ⟨0x052#9, (0#1 ++ d), imm.extractLsb' 7 7, imm.extractLsb' 0 7, none⟩
  | .slit d h lit => some ⟨0x053#9, (0#1 ++ d), (0#6 ++ h), 0#7, some lit⟩
  | .iadd d a b => some ⟨0x060#9, d, a, b, none⟩
  | .isub d a b => some ⟨0x061#9, d, a, b, none⟩
  | .imul d a b => some ⟨0x062#9, d, a, b, none⟩
  | .imulh d a b => some ⟨0x063#9, d, a, b, none⟩
  | .iand d a b => some ⟨0x064#9, d, a, b, none⟩
  | .ior d a b => some ⟨0x065#9, d, a, b, none⟩
  | .ixor d a b => some ⟨0x066#9, d, a, b, none⟩
  | .ishl d a b => some ⟨0x067#9, d, a, b, none⟩
  | .ishr d a b => some ⟨0x068#9, d, a, b, none⟩
  | .isra d a b => some ⟨0x069#9, d, a, b, none⟩
  | .imin d a b => some ⟨0x06a#9, d, a, b, none⟩
  | .imax d a b => some ⟨0x06b#9, d, a, b, none⟩
  | .iaddImm d a imm => some ⟨0x070#9, d, a, imm, none⟩
  | .isubImm d a imm => some ⟨0x071#9, d, a, imm, none⟩
  | .imulImm d a imm => some ⟨0x072#9, d, a, imm, none⟩
  | .imulhImm d a imm => some ⟨0x073#9, d, a, imm, none⟩
  | .iandImm d a imm => some ⟨0x074#9, d, a, imm, none⟩
  | .iorImm d a imm => some ⟨0x075#9, d, a, imm, none⟩
  | .ixorImm d a imm => some ⟨0x076#9, d, a, imm, none⟩
  | .ishlImm d a imm => some ⟨0x077#9, d, a, imm, none⟩
  | .ishrImm d a imm => some ⟨0x078#9, d, a, imm, none⟩
  | .israImm d a imm => some ⟨0x079#9, d, a, imm, none⟩
  | .iminImm d a imm => some ⟨0x07a#9, d, a, imm, none⟩
  | .imaxImm d a imm => some ⟨0x07b#9, d, a, imm, none⟩
  | .imad d a b => some ⟨0x06c#9, d, a, b, none⟩
  | .iabs d a => some ⟨0x06d#9, d, a, 0#7, none⟩
  | .popc d a => some ⟨0x06e#9, d, a, 0#7, none⟩
  | .clz d a => some ⟨0x06f#9, d, a, 0#7, none⟩
  | .brev d a => some ⟨0x07c#9, d, a, 0#7, none⟩
  | .bfe d a b => some ⟨0x07d#9, d, a, b, none⟩
  | .bfi d a b => some ⟨0x07e#9, d, a, b, none⟩
  | .iaddc d a b => some ⟨0x07f#9, d, a, b, none⟩
  | .icmp cc d a b => some ⟨(0x10#6 ++ cc), (0#3 ++ d), a, b, none⟩
  | .icmpImm cc d a imm => some ⟨(0x11#6 ++ cc), (0#3 ++ d), a, imm, none⟩
  | .lea d u a b => some ⟨0x090#9, d, (u ++ a), b, none⟩
  | .mov d a => some ⟨0x091#9, d, a, 0#7, none⟩
  | .movs d h a => some ⟨0x092#9, d, (h ++ a), 0#7, none⟩
  | .lit d lit => some ⟨0x093#9, d, 0#7, 0#7, some lit⟩
  | .pand d a b => some ⟨0x094#9, (0#3 ++ d), (0#3 ++ a), (0#3 ++ b), none⟩
  | .por d a b => some ⟨0x095#9, (0#3 ++ d), (0#3 ++ a), (0#3 ++ b), none⟩
  | .pxor d a b => some ⟨0x096#9, (0#3 ++ d), (0#3 ++ a), (0#3 ++ b), none⟩
  | .pnot d a => some ⟨0x097#9, (0#3 ++ d), (0#3 ++ a), 0#7, none⟩
  | .pset d a => some ⟨0x098#9, (0#3 ++ d), (0#1 ++ a), 0#7, none⟩
  | .pmov d a => some ⟨0x099#9, (0#1 ++ d), (0#3 ++ a), 0#7, none⟩
  | .fadd d a b => some ⟨0x0a0#9, d, a, b, none⟩
  | .fsub d a b => some ⟨0x0a1#9, d, a, b, none⟩
  | .fmul d a b => some ⟨0x0a2#9, d, a, b, none⟩
  | .ffma d a b => some ⟨0x0a3#9, d, a, b, none⟩
  | .fmin d a b => some ⟨0x0a4#9, d, a, b, none⟩
  | .fmax d a b => some ⟨0x0a5#9, d, a, b, none⟩
  | .fabs d a => some ⟨0x0a6#9, d, a, 0#7, none⟩
  | .fneg d a => some ⟨0x0a7#9, d, a, 0#7, none⟩
  | .fcmpEq d a b => some ⟨0x0a8#9, (0#3 ++ d), a, b, none⟩
  | .fcmpLt d a b => some ⟨0x0a9#9, (0#3 ++ d), a, b, none⟩
  | .fcmpLe d a b => some ⟨0x0aa#9, (0#3 ++ d), a, b, none⟩
  | .fcmpGt d a b => some ⟨0x0ab#9, (0#3 ++ d), a, b, none⟩
  | .fcmpGe d a b => some ⟨0x0ac#9, (0#3 ++ d), a, b, none⟩
  | .fcmpNe d a b => some ⟨0x0ad#9, (0#3 ++ d), a, b, none⟩
  | .fcmpOrd d a b => some ⟨0x0ae#9, (0#3 ++ d), a, b, none⟩
  | .fcmpUno d a b => some ⟨0x0af#9, (0#3 ++ d), a, b, none⟩
  | .fcmpEqu d a b => some ⟨0x0b0#9, (0#3 ++ d), a, b, none⟩
  | .fcmpLtu d a b => some ⟨0x0b1#9, (0#3 ++ d), a, b, none⟩
  | .fcmpLeu d a b => some ⟨0x0b2#9, (0#3 ++ d), a, b, none⟩
  | .fcmpGtu d a b => some ⟨0x0b3#9, (0#3 ++ d), a, b, none⟩
  | .fcmpGeu d a b => some ⟨0x0b4#9, (0#3 ++ d), a, b, none⟩
  | .fcmpNeu d a b => some ⟨0x0b5#9, (0#3 ++ d), a, b, none⟩
  | .hadd2 d a b => some ⟨0x0b8#9, d, a, b, none⟩
  | .hmul2 d a b => some ⟨0x0b9#9, d, a, b, none⟩
  | .hfma2 d a b => some ⟨0x0ba#9, d, a, b, none⟩
  | .fcvt dst d a src => some ⟨(0x1c#6 ++ dst), d, a, (0#3 ++ src), none⟩
  | .frcp d a => some ⟨0x0f0#9, d, a, 0#7, none⟩
  | .frsq d a => some ⟨0x0f1#9, d, a, 0#7, none⟩
  | .fsqrt d a => some ⟨0x0f2#9, d, a, 0#7, none⟩
  | .fex2 d a => some ⟨0x0f3#9, d, a, 0#7, none⟩
  | .flg2 d a => some ⟨0x0f4#9, d, a, 0#7, none⟩
  | .ftanh d a => some ⟨0x0f5#9, d, a, 0#7, none⟩
  | .shfl2 d a b => some ⟨0x100#9, d, a, b, none⟩
  | .shfl4 d a b => some ⟨0x101#9, d, a, b, none⟩
  | .shfl8 d a b => some ⟨0x102#9, d, a, b, none⟩
  | .shfl16 d a b => some ⟨0x103#9, d, a, b, none⟩
  | .shfl32 d a b => some ⟨0x104#9, d, a, b, none⟩
  | .voteAny d neg p => some ⟨0x105#9, (0#1 ++ d), (0#2 ++ neg ++ p), 0#7, none⟩
  | .voteAll d neg p => some ⟨0x106#9, (0#1 ++ d), (0#2 ++ neg ++ p), 0#7, none⟩
  | .voteBal d neg p => some ⟨0x107#9, (0#1 ++ d), (0#2 ++ neg ++ p), 0#7, none⟩
  | .matchAny d a => some ⟨0x108#9, d, a, 0#7, none⟩
  | .matchAll d a => some ⟨0x109#9, d, a, 0#7, none⟩
  | .redux d a op => some ⟨0x10a#9, (0#1 ++ d), a, (0#4 ++ op), none⟩
  | .fredux d a op => some ⟨0x10b#9, (0#1 ++ d), a, (0#5 ++ op), none⟩
  | .scan d a ex op => some ⟨0x10c#9, d, a, (0#3 ++ ex ++ op), none⟩
  | .bcast d a b => some ⟨0x10d#9, d, a, (0#1 ++ b), none⟩
  | .elect d a => some ⟨0x10e#9, (0#3 ++ d), (0#1 ++ a), 0#7, none⟩
  | .bra off => some ⟨0x120#9, 0#7, off.extractLsb' 7 7, off.extractLsb' 0 7, none⟩
  | .bru neg s off => some ⟨0x121#9, (neg ++ s), off.extractLsb' 7 7, off.extractLsb' 0 7, none⟩
  | .brp neg p off => some ⟨0x122#9, (0#2 ++ neg ++ p), off.extractLsb' 7 7, off.extractLsb' 0 7, none⟩
  | .jpoint off => some ⟨0x123#9, 0#7, off.extractLsb' 7 7, off.extractLsb' 0 7, none⟩
  | .join => some ⟨0x124#9, 0#7, 0#7, 0#7, none⟩
  | .jmpr a => some ⟨0x125#9, 0#7, a, 0#7, none⟩
  | .call d off => some ⟨0x126#9, (0#1 ++ d), off.extractLsb' 7 7, off.extractLsb' 0 7, none⟩
  | .callr d a => some ⟨0x127#9, (0#1 ++ d), a, 0#7, none⟩
  | .ret a => some ⟨0x128#9, 0#7, (0#1 ++ a), 0#7, none⟩
  | .exit => some ⟨0x129#9, 0#7, 0#7, 0#7, none⟩
  | .nop => some ⟨0x12a#9, 0#7, 0#7, 0#7, none⟩
  | .yield => some ⟨0x12b#9, 0#7, 0#7, 0#7, none⟩
  | .ldg d a scope ord sz => some ⟨0x140#9, d, a, (scope ++ ord ++ sz), none⟩
  | .stg d a scope ord sz => some ⟨0x141#9, d, a, (scope ++ ord ++ sz), none⟩
  | .lds d a fe sz => some ⟨0x142#9, d, a, (0#2 ++ fe ++ sz), none⟩
  | .sts d a fe sz => some ⟨0x143#9, d, a, (0#2 ++ fe ++ sz), none⟩
  | .ldu d a scope ord sz => some ⟨0x144#9, (0#1 ++ d), (0#1 ++ a), (scope ++ ord ++ sz), none⟩
  | .stu d a scope ord sz => some ⟨0x145#9, (0#1 ++ d), (0#1 ++ a), (scope ++ ord ++ sz), none⟩
  | .atom op d a ar ty scope => some ⟨(0x29#6 ++ op), d, a, (ar ++ ty ++ scope), none⟩
  | .atoms op d a ty => some ⟨(0x2a#6 ++ op), d, a, (0#1 ++ ty ++ 0#3), none⟩
  | .rowld d a h n => some ⟨0x158#9, d, (0#1 ++ a), (0#3 ++ h ++ n), none⟩
  | .rowst d a n => some ⟨0x159#9, d, (0#1 ++ a), (0#4 ++ n), none⟩
  | .rowadd d a n => some ⟨0x15a#9, d, (0#1 ++ a), (0#4 ++ n), none⟩
  | .pref a llc => some ⟨0x15b#9, 0#7, a, (0#6 ++ llc), none⟩
  | .fence kind scope => some ⟨0x15c#9, 0#7, 0#7, (0#2 ++ kind ++ scope), none⟩
  | .gbar g => some ⟨0x15d#9, 0#7, (0#5 ++ g), 0#7, none⟩
  | .garv d g => some ⟨0x15e#9, (0#1 ++ d), (0#5 ++ g), 0#7, none⟩
  | .gwait g b => some ⟨0x15f#9, 0#7, (0#5 ++ g), (0#1 ++ b), none⟩
  | .mma acc a b => some ⟨0x180#9, (0#1 ++ acc), a, b, none⟩
  | .mzero acc n => some ⟨0x181#9, (0#1 ++ acc), 0#7, (0#4 ++ n), none⟩
  | .bfill d a => some ⟨0x182#9, (0#1 ++ d), (0#1 ++ a), 0#7, none⟩
  | .bfills d a key => some ⟨0x183#9, (0#1 ++ d), (0#1 ++ a), (0#3 ++ key), none⟩
  | .scld a b => some ⟨0x184#9, 0#7, (0#1 ++ a), (0#1 ++ b), none⟩
  | .mepi a => some ⟨0x185#9, 0#7, (0#1 ++ a), 0#7, none⟩
  | .mdrain own acc a rte dest => some ⟨0x186#9, (own ++ acc), (0#1 ++ a), (0#2 ++ rte ++ dest), none⟩
  | .vpop d => some ⟨0x187#9, d, 0#7, 0#7, none⟩
  | .mburst n => some ⟨0x188#9, 0#7, n.extractLsb' 7 7, n.extractLsb' 0 7, none⟩
  | .mstat d => some ⟨0x189#9, (0#1 ++ d), 0#7, 0#7, none⟩
  | .accsv acc a => some ⟨0x18a#9, (0#1 ++ acc), (0#1 ++ a), 0#7, none⟩
  | .accld int acc a => some ⟨0x18b#9, (int ++ acc), (0#1 ++ a), 0#7, none⟩
  | .fwait a => some ⟨0x1a0#9, 0#7, (0#1 ++ a), 0#7, none⟩
  | .ftest d a => some ⟨0x1a1#9, (0#1 ++ d), (0#1 ++ a), 0#7, none⟩
  | .fstat d a => some ⟨0x1a2#9, (0#1 ++ d), (0#1 ++ a), 0#7, none⟩
  | .fcancel d a => some ⟨0x1a3#9, (0#1 ++ d), (0#1 ++ a), 0#7, none⟩
  | .tld d a => some ⟨0x1a4#9, (0#1 ++ d), (0#1 ++ a), 0#7, none⟩
  | .tst d a => some ⟨0x1a5#9, (0#1 ++ d), (0#1 ++ a), 0#7, none⟩
  | .tcpy d a => some ⟨0x1a6#9, (0#1 ++ d), (0#1 ++ a), 0#7, none⟩
  | .tmcast d a g => some ⟨0x1a7#9, (0#1 ++ d), (0#1 ++ a), (0#5 ++ g), none⟩
  | .gath d a b => some ⟨0x1a8#9, (0#1 ++ d), (0#1 ++ a), (0#1 ++ b), none⟩
  | .scat d a b => some ⟨0x1a9#9, (0#1 ++ d), (0#1 ++ a), (0#1 ++ b), none⟩
  | .feedgo d a => some ⟨0x1aa#9, (0#1 ++ d), (0#1 ++ a), 0#7, none⟩
  | .qfeed d a q => some ⟨0x1ab#9, (0#1 ++ d), (0#1 ++ a), (0#4 ++ q), none⟩
  | .qpop d q => some ⟨0x1ac#9, (0#1 ++ d), (0#4 ++ q), 0#7, none⟩
  | .qrel q b => some ⟨0x1ad#9, 0#7, (0#4 ++ q), (0#1 ++ b), none⟩
  | .qpost d a => some ⟨0x1ae#9, (0#1 ++ d), (0#1 ++ a), 0#7, none⟩
  | .qpostAt d a b => some ⟨0x1af#9, (0#1 ++ d), (0#1 ++ a), (0#1 ++ b), none⟩
  | .ctradd d cnt => some ⟨0x1b0#9, (0#1 ++ d), (0#6 ++ (cnt.extractLsb' 7 1)), cnt.extractLsb' 0 7, none⟩
  | .ctrwait d cnt => some ⟨0x1b1#9, (0#1 ++ d), (0#6 ++ (cnt.extractLsb' 7 1)), cnt.extractLsb' 0 7, none⟩
  | .rteset rte a => some ⟨0x1b2#9, (0#4 ++ rte), (0#1 ++ a), 0#7, none⟩
  | .cabort d a b => some ⟨0x1b3#9, (0#1 ++ d), (0#1 ++ a), (0#1 ++ b), none⟩
  | .launch d a => some ⟨0x1b4#9, (0#1 ++ d), (0#1 ++ a), 0#7, none⟩
  | .treg d a b => some ⟨0x1c0#9, (0#1 ++ d), (0#1 ++ a), b, none⟩
  | .tunreg a => some ⟨0x1c1#9, 0#7, (0#1 ++ a), 0#7, none⟩
  | .tmove d a b => some ⟨0x1c2#9, (0#1 ++ d), (0#1 ++ a), (0#1 ++ b), none⟩
  | .solicit d a b => some ⟨0x1c3#9, (0#1 ++ d), (0#1 ++ a), (0#1 ++ b), none⟩
  | .reply a => some ⟨0x1c4#9, 0#7, (0#1 ++ a), 0#7, none⟩
  | .replyv a => some ⟨0x1c5#9, 0#7, (0#1 ++ a), 0#7, none⟩
  | .census d a => some ⟨0x1c6#9, (0#1 ++ d), (0#1 ++ a), 0#7, none⟩
  | .trap imm => some ⟨0x1d0#9, 0#7, imm.extractLsb' 7 7, imm.extractLsb' 0 7, none⟩
  | .eret => some ⟨0x1d1#9, 0#7, 0#7, 0#7, none⟩
  | .srd d spec => some ⟨0x1d2#9, (0#1 ++ d), spec, 0#7, none⟩
  | .swr spec b => some ⟨0x1d3#9, 0#7, spec, (0#1 ++ b), none⟩
  | .bkpt imm => some ⟨0x1d4#9, 0#7, imm.extractLsb' 7 7, imm.extractLsb' 0 7, none⟩
  | .gettime d cyc => some ⟨0x1d5#9, (0#1 ++ d), 0#7, (0#6 ++ cyc), none⟩
  | .srdV d spec => some ⟨0x1d6#9, d, spec, 0#7, none⟩
  | .pfxa pred neg pol c cv => some ⟨0x1f0#9, (pred ++ neg ++ pol), c, (cv ++ 0#6), none⟩
  | .pfxb rm sat ty => some ⟨0x1f1#9, (rm ++ sat ++ (ty.extractLsb' 1 3)), ((ty.extractLsb' 0 1) ++ 0#6), 0#7, none⟩
  | _ => none

/-- Bit 31, the end bit (R36). -/
def wordE (w : Word) : Bool := w.getLsbD 31

/-- Bit 30, the safe-point bit (R36). -/
def wordS (w : Word) : Bool := w.getLsbD 30

/-- The opcode field (R36). -/
def wordOp (w : Word) : BitVec 9 := w.extractLsb' 21 9

/-- The D field (R36). -/
def wordD (w : Word) : BitVec 7 := w.extractLsb' 14 7

/-- The A field (R36). -/
def wordA (w : Word) : BitVec 7 := w.extractLsb' 7 7

/-- The B field (R36). -/
def wordB (w : Word) : BitVec 7 := w.extractLsb' 0 7

/-- A word from its end bit, safe-point bit and fields (R36). -/
def mkWord (e s : Bool) (op : BitVec 9) (d a b : BitVec 7) : Word :=
  BitVec.ofBool e ++ BitVec.ofBool s ++ op ++ d ++ a ++ b

/-- Whether the opcode takes the word after it as a literal: SLIT and LIT (R39). -/
def takesLiteral (op : BitVec 9) : Bool := op == 0x053#9 || op == 0x093#9

/-- Whether the opcode is a prefix (R51, R53). -/
def isPrefixOp (op : BitVec 9) : Bool := op == 0x1f0#9 || op == 0x1f1#9

/-- A prefix may carry neither E nor S (R54). -/
def prefixBitsOk (w : Word) : Bool :=
  !isPrefixOp (wordOp w) || (!wordE w && !wordS w)

/-- The instruction that an instruction word and the literal word after it stand for; none where the word is
illegal (R37, R47, R58). -/
def decodeWord (w lit : Word) : Option Instr :=
  if prefixBitsOk w then
    (decodeFields (wordOp w) (wordD w) (wordA w) (wordB w) lit).filter Instr.wf
  else none

/-- The words of an instruction with its end and safe-point bits: the word, and its literal word if it has one. The
live-mask word of R49 is data of the span and no part of the instruction. -/
def encode (e s : Bool) (i : Instr) : List Word :=
  match encodeFields i with
  | some f => mkWord e s f.op f.d f.a f.b :: f.lit.toList
  | none => []

/-- Byte `k` of a word, bytes little-endian (R4). -/
def wordByte (w : Word) (k : Nat) : Byte := w.extractLsb' (8 * k) 8

/-- A word from its four bytes, the lowest address first (R4). -/
def wordOfBytes (b0 b1 b2 b3 : Byte) : Word := b3 ++ b2 ++ b1 ++ b0

/-- The bytes of a word in memory order (R4). -/
def wordBytes (w : Word) : List Byte := [wordByte w 0, wordByte w 1, wordByte w 2, wordByte w 3]

/-- The instruction at the head of a list of code bytes, with the bytes after it. -/
def decodeBytes : List Byte → Option (Instr × List Byte)
  | b0 :: b1 :: b2 :: b3 :: rest =>
    let w := wordOfBytes b0 b1 b2 b3
    if takesLiteral (wordOp w) then
      match rest with
      | c0 :: c1 :: c2 :: c3 :: rest' => (decodeWord w (wordOfBytes c0 c1 c2 c3)).map (·, rest')
      | _ => none
    else (decodeWord w 0).map (·, rest)
  | _ => none

/-- The first word of an instruction whose bits the opcode table numbers from 0 up. -/
def tableWord (nbits w : Nat) : Word := BitVec.ofNat 32 (w % 2 ^ min nbits 32)

/-- The second word of an instruction whose bits the opcode table numbers from 0 up; zero where the table gives none. -/
def tableLit (nbits w : Nat) : Word := BitVec.ofNat 32 (w % 2 ^ nbits / 2 ^ 32)

/-- The instruction of a row of the opcode table: its words laid out as the hardware stores them, then decoded. -/
def decodeTableWord (nbits w : Nat) : Option Instr :=
  (decodeBytes (wordBytes (tableWord nbits w) ++ wordBytes (tableLit nbits w))).map (·.1)

end Sys2Proof
end

