-- ==== Sys2Proof/Config.lean ====
section
/-! DEFINITION. The values that the spec leaves open, as opaque constants: nothing in Lean can evaluate them, so a
statement about a run holds whatever they are (notes/assumptions/2.md, 6.md, 9.md). A free value is one of these
functions applied to the counter that State holds, so every use takes a new one. -/

namespace Sys2Proof.Config

/-- A free number: a row that AllocRow takes (R83), a victim of a replacement (R290, R319), a time step (R282). -/
opaque freeNat : Nat → Nat

/-- The set of an LLC slice that a line of an address space falls in, a number to be taken modulo 16,384 (R292). -/
opaque llcSet : Nat → Nat → Nat

/-- A free word of 64 bits: a value that the spec does not state. -/
opaque freeDWord : Nat → BitVec 64

/-- A free entry of the divergence stack, read through a translation that fails (notes/assumptions/12.md). -/
opaque freeEntry : Nat → BitVec 128

/-- TVAL of MAP_TENANT for a spilt row, which has no row number (R275, notes/assumptions/32.md), by its spill slot. -/
opaque spiltRowVal : Nat → BitVec 64

/-- What the physically unclonable function of an octant's die gives (R384). -/
opaque puf : Nat → List (BitVec 8)

/-- The public halves of the ML-DSA-44 and ML-KEM-768 key pairs that a seed generates (FIPS 204 and 203, R384), byte by byte. -/
opaque mlDsaPublic : BitVec 256 → Nat → BitVec 8
opaque mlKemPublic : BitVec 256 → Nat → BitVec 8

/-- Whether a string of bytes is an ML-DSA-44 signature of a digest under a public key (FIPS 204, R382, R383). -/
opaque mlDsaVerify : List (BitVec 8) → BitVec 256 → List (BitVec 8) → Bool

/-- The digest of the Salken root key that stands in the ROM of the Assizes (R382). -/
opaque romDigest : BitVec 256

/-- The ML-DSA-44 signature of a string of bytes under a seed's private key (FIPS 204, R384, R385), byte by byte. -/
opaque mlDsaSign : BitVec 256 → List (BitVec 8) → Nat → BitVec 8

/-- The shared secret of 32 bytes that an ML-KEM-768 ciphertext gives to the holder of a seed's private key (FIPS 203, R387). -/
opaque mlKemSecret : BitVec 256 → List (BitVec 8) → Nat → BitVec 8

/-- The certificate that a signer's key gives for two public keys, and the certificate that Salken gave for the device's
identity key (R384): their form stands outside the spec. -/
opaque certificate : BitVec 256 → List (BitVec 8) → List (BitVec 8)
opaque deviceCertificate : List (BitVec 8)

/-- The member port to which LACP gives a stream, by the stream's number, a number to be taken modulo the members (R340). -/
opaque streamPort : Nat → Nat

/-- The version of a capability, by its identifier (R389). -/
opaque capVersion : Nat → Nat

/-- The largest physical window that the model names: eight octants of 39,062,500 frames of 4 KiB (R316). -/
def framesPerOctant : Nat := 39062500

/-- Cores of an octant (R6). -/
def coresPerOctant : Nat := 18

/-- Octants of the module (R6). -/
def octants : Nat := 8

/-- Cores of the module (R6). -/
def cores : Nat := 144

end Sys2Proof.Config
end

