-- ==== Sys2Proof/Machine/State.lean ====
section
/-! DEFINITION. The state of the module as plain data, the reasons a step can stop, and the state right after reset.
A finite map is a list of numbers and values in rising order of number; a number that is not listed has the value that
the field's docstring gives. Reset values stand in INVENTORY.md with the rule that gives each. -/

namespace Sys2Proof.Machine

open Sys2Proof

/-- A finite map from numbers. -/
abbrev FMap (α : Type) := List (Nat × α)

/-! ## Warps (R10 to R23, R34, R113 to R117) -/

/-- A map entry (R11). -/
inductive MapEntry where
  | unmapped
  | resident (row : Nat)
  | spilt (slot : Nat)
deriving DecidableEq, Repr

/-- The state of a path (R18). -/
inductive PathState where
  | vacant | ready | waiting | joining
deriving DecidableEq, Repr

/-- What a path waits for before its next span, beyond its header's WAIT mask (R201, R227, R242). -/
inductive Wait where
  | none
  | phase (group : Nat) (phase : BitVec 32)
  | future (handle : DWord)
  | counter (cnt : Nat) (threshold : BitVec 32)
deriving DecidableEq, Repr

/-- A path record (R18, R113): its PC, EXEC and state; its half of the divergence stack as a depth and the entries held
on chip, the top first; where inside the span at PC it resumes (0 for the header, R48); what it waits for; whether the MMA
at PC has been released (R155); whether the landing check
of PC is still to be made (R56), and whether it is the check of an ERET, which may land inside a span (R280), or of a trap
handler's address (R272); the last reading of GETTIME (R282); the live mask it supplied when pre-emption stopped it
(R357) and the halted flag; and its place in the arbitration of R310. -/
structure Path where
  pc : PC
  exec : Mask
  state : PathState
  depth : Nat
  top : List (BitVec 128)
  resume : Nat
  wait : Wait
  mmaDone : Bool
  unchecked : Bool
  eret : Bool
  handler : Bool
  time : DWord
  stopped : Option Word
  atSafePoint : Option Word
  promoted : Bool
  readySince : Nat
  endedAt : Nat
deriving DecidableEq, Repr

/-- The split record (R114). -/
structure Split where
  valid : Bool
  addr : PC
  mask : Mask
deriving DecidableEq, Repr

/-- A prefix word pair's first kind, PFXA (R51). -/
structure PfxA where
  pred : BitVec 4
  neg : Bool
  pol : BitVec 2
  c : BitVec 7
  cv : Bool
deriving DecidableEq, Repr

/-- PFXB (R53). -/
structure PfxB where
  rm : BitVec 3
  sat : Bool
  ty : BitVec 4
deriving DecidableEq, Repr

/-- The span that a warp has in issue (R16, R41): its path, its header's address and word, the words after the header as
fetched (R57), the index of the word to run next counted from the header (R43), how many long-latency instructions the
span has issued (R45), the prefixes waiting for their instruction with the index of the first (R55), and whether its next word
waits without holding the issue slot (R309, notes/assumptions/58.md). -/
structure Span where
  sec : Bool
  header : PC
  hword : Word
  words : List Word
  idx : Nat
  pfxa : Option PfxA
  pfxb : Option PfxB
  pfxAt : Option Nat
  parked : Bool
deriving DecidableEq, Repr

/-- What a long-latency write changes when it lands, fixed at issue: a name's lane words with the poison each brings. -/
structure NameWrite where
  name : Nat
  mask : Mask
  words : Row
  poison : Mask
deriving DecidableEq, Repr

/-- What a long-latency instruction still has to do before its write lands (R45): nothing more, a set-aside scratchpad
access (R186), a drain-queue entry to pop into eight names (R172), a queue entry to turn FULL (R236), or rows of a drain
to deliver (R170). -/
inductive LongKind where
  | value
  | armed
  | vpop (names : List Nat) (act : Mask)
  | qpop (d : BitVec 6) (queue entry : Nat)
  | drain
deriving DecidableEq, Repr

/-- A long-latency operation in flight (R17, R45, R46): its number, the path that issued it, the flag it binds, whose
counts it decrements, the writes it lands, the lines whose fetch it waits for (R294), the address of its instruction, and
the address where it kills the warp when it lands (R184). -/
structure LongOp where
  id : Nat
  sec : Bool
  flag : Option Nat
  onP : Bool
  onS : Bool
  kind : LongKind
  names : List NameWrite
  scalars : List (Nat × DWord)
  lines : List (Nat × Nat)
  addr : PC
  kill : Option PC
deriving DecidableEq, Repr

/-- A destination that is pending (R46). -/
inductive PendItem where
  | name (n : Nat)
  | scalar (k : Nat)
  | pred (k : Nat)
deriving DecidableEq, Repr

/-- A pending mark, with the flag and the paths whose wait on it clears the mark; an unbound one clears at the next span
of its path (R46). -/
structure Pend where
  item : PendItem
  sec : Bool
  flag : Option Nat
  onP : Bool
  onS : Bool
deriving DecidableEq, Repr

/-- An MMA arrival (R155): when it came, in the order of issue (R148); the path, its ACTIVE, the slot and the names its operands
selected, the address of the MMA, and, where the MMA ends its span, the header that follows with the live mask of the safe point if it
is one (R50). -/
structure Arrival where
  since : Nat
  sec : Bool
  active : Mask
  acc : Nat
  aNames : List Nat
  fName : Nat
  addr : PC
  after : Option (PC × Option Word)
deriving DecidableEq, Repr

/-- A trap as it is recorded: cause and value (R272). -/
structure Cause where
  code : Nat
  tval : DWord
deriving DecidableEq, Repr

/-- A reply of a responder (R257, R260): words of a scalar, a vector or a triple; none is the identity. -/
structure Reply where
  words : Option (List Word)
  counted : Bool
deriving DecidableEq, Repr

/-- What makes a warp a responder (R259): its solicitation, the asker's core, the matched entry, the operator and width
of the reply, and its reply once given. -/
structure Responder where
  seq : Nat
  entry : Nat
  op : Nat
  vw : Nat
  reply : Option Reply
deriving DecidableEq, Repr

/-- A warp (R15). Unlisted names are UNMAPPED and unlisted scalars carry no future tag. -/
structure Warp where
  launch : Nat
  lwarp : Nat
  names : FMap MapEntry
  s : Vector DWord 64
  p : Vector Mask 16
  prim : Path
  seco : Path
  split : Split
  exited : Mask
  dead : Mask
  dstk : DWord
  tvec : PC
  wb : BitVec 9
  fpsr : DWord
  gang : DWord
  g : Vector DWord 4
  rte : Vector DWord 8
  tpc : DWord
  tcause : BitVec 16
  tval : DWord
  trapMode : Bool
  trapSec : Bool
  firstCause : Cause
  deferred : Option (Cause × Bool)
  arrival : Option Arrival
  epi : DWord
  mstat : DWord
  tags : FMap DWord
  resp : Option Responder
  ops : List LongOp
  pend : List Pend
  span : Option Span
  bkptStop : Bool
  halted : Bool
deriving DecidableEq, Repr

/-! ## The stores of a core (R12, R24 to R31, R163, R173) -/

/-- A pool row (R12). A free row has count 0 and tag 0 and reads as zeros. -/
structure PoolRow where
  words : Row
  count : Nat
  tag : Nat
  poison : Mask
deriving DecidableEq, Repr

/-- The type tag of an accumulator slot (R154). -/
inductive AccTag where
  | none | fp | int
deriving DecidableEq, Repr

/-- An accumulator slot (R26, R154, R173): its words by 256 × row + column, unlisted words +0.0; its tag; the check
column and row (unlisted 0) with the valid bit; and the words that carry poison (R370). -/
structure AccSlot where
  words : FMap Word
  tag : AccTag
  checkCol : FMap Word
  checkRow : FMap Word
  checkValid : Bool
  poison : List Nat
deriving DecidableEq, Repr

/-- The state of an operand queue entry (R234). -/
inductive QState where
  | empty | filling | full
deriving DecidableEq, Repr

/-- An operand queue entry: its state and popped bit (R234). -/
structure QEntry where
  state : QState
  popped : Bool
deriving DecidableEq, Repr

/-- A scratchpad access that is set aside (R185, R186), in issue order: the warp slot and path, when its warp retired if it has, its
long-latency operation if it returns a value, the offsets of its lanes, the bytes of an access, SZ and FE, whether it is a
store, the op and TYPE of an atomic, and by lane the bytes of a store or the operands of an atomic (none where the data word
was poisoned). -/
structure Armed where
  id : Nat
  warp : Nat
  sec : Bool
  retired : Option Nat
  longOp : Option Nat
  offsets : List (Nat × Nat)
  size : Nat
  sz : Nat
  fe : Nat
  store : Bool
  atomic : Option (Nat × Nat)
  data : List (Nat × List (Option Byte))
deriving DecidableEq, Repr

/-- The feed program of a launch on a core (R232): its future, where it stands, its own scalars and tags, the header of
the span it runs, what it waits for, and the span whose words it has run in part, where one of them waits. -/
structure Feed where
  op : Nat
  pc : PC
  entry : PC
  s : Vector DWord 64
  tags : FMap DWord
  wait : Option DWord
  started : Bool
  span : Option Span
deriving DecidableEq, Repr

/-- The barrier of a group as a core node holds it (R200, R331): the completed count, the members on the core that have
arrived at that phase, when the node has sent ARRIVE for it, and the set-aside accesses that came before those arrivals. -/
structure NodeBarrier where
  completed : BitVec 32
  arrived : List Nat
  sent : Option Nat
  behind : List Nat
deriving DecidableEq, Repr

/-- What a launch holds on one core (R24 to R29, R234, R259). Unlisted scratchpad bytes are 0; the lists give the FULL
granules and the poisoned granules; unlisted accumulator slots are as R26 gives them at launch; unlisted queue entries are
EMPTY; unlisted hand-off slots hold nothing; landing slots in use name the solicitation that holds them; `lost` lists the
warp slots whose warps retired with LANES_LOST (R158); of the pool units that it holds, `reguHeld` are register units (R285). -/
structure CoreLaunch where
  blocks : Nat
  scratch : FMap Byte
  full : List Nat
  spoison : List Nat
  accs : FMap AccSlot
  hslots : FMap (List Nat)
  qd : Vector DWord 8
  qent : FMap QEntry
  mburst : Nat
  feed : Option Feed
  armed : List Armed
  landing : FMap Nat
  barriers : FMap NodeBarrier
  lost : List Nat
  unitsHeld : Nat
  reguHeld : Nat
  fifosHeld : Nat
  savedWarps : FMap Warp
  slots : List Nat
deriving DecidableEq, Repr

/-- The state of a B tile (R30). -/
inductive TileState where
  | invalid | filling | valid | sealed
deriving DecidableEq, Repr

/-- A B tile with its side store (R30, R151, R267): its bytes by address in the tile and entries by index, unlisted 0, and the fills
of it that run, in issue order (R164). A tile without scales has no image in its side store, which then reads as free values counted
from `seed` (notes/assumptions/56.md). Its checksum column is a function of its contents (notes/assumptions/21.md). -/
structure BTile where
  state : TileState
  tenant : Nat
  launch : Nat
  fmt : Nat
  scales : Bool
  bytes : FMap Byte
  side : FMap (BitVec 16)
  fills : List Nat
  seed : Nat
deriving DecidableEq, Repr

/-- A drain-queue entry (R28): the warp it is for, by slot and launch, 256 words, and the columns that carry poison. -/
structure DrainEntry where
  warp : Nat
  launch : Nat
  words : List Word
  poison : List Nat
deriving DecidableEq, Repr

/-- The status of a future (R225). -/
inductive FutState where
  | running | done | failed | cancelled | aborted
deriving DecidableEq, Repr

/-- An entry of the future table (R223): unlisted entries are free with generation 0. `census` is what CENSUS reads of a
solicitation (R263). -/
structure Future where
  gen : BitVec 40
  kind : Nat
  launch : Nat
  free : Bool
  freedAt : Nat
  state : FutState
  cause : Nat
  late : Bool
  skew : Bool
  detail : BitVec 32
  census : Nat × Nat × Nat
deriving DecidableEq, Repr

/-- The state of a tile-directory entry (R249). -/
inductive TileDirState where
  | free | valid | moving | shadow
deriving DecidableEq, Repr

/-- A tile-directory entry (R249): unlisted entries are free with generation 0. `moveOp` is the move that holds it, and
`dying` says that its handle has expired and it waits for its responders (R253). -/
structure TileEntry where
  state : TileDirState
  gen : BitVec 40
  key : DWord
  space : Nat
  base : Nat
  len : Nat
  hslot : Nat
  rows : List Nat
  launch : Nat
  expired : Bool
  moveOp : Option Nat
deriving DecidableEq, Repr

/-- A store that waits to perform at its home slice (R208, R290, R291): the address space and virtual line, its bytes by
place in the line (none writes a poison mark), and the writer. One that has not reached the L1 yet is `early`: only its own
warp sees it (R208, R210, R211). -/
structure StoreReq where
  asid : Nat
  line : Nat
  bytes : List (Nat × Option Byte)
  tenant : Nat
  warp : Nat
  sec : Bool
  launch : Nat
  early : Bool
deriving DecidableEq, Repr

/-- A line that an L1 holds (R290): its tag, the frame that it came from as the home's directory has it (R291), its bytes, its
poisoned units, and the side word when it was taken whole with its row (R194). -/
structure L1Line where
  asid : Nat
  line : Nat
  frame : Nat
  bytes : List Byte
  poison : List Nat
  row : Option (Nat × Word)
deriving DecidableEq, Repr

/-- A block that the instruction cache holds (R57, R286). -/
structure ICBlock where
  asid : Nat
  block : Nat
  words : List Word
deriving DecidableEq, Repr

/-! ## Engine operations (R216, R228 to R246, R264) -/

/-- A tile operation's descriptor (R231). -/
structure TileDesc where
  src : Nat
  dst : Nat
  rows : Nat
  rowBytes : Nat
  sstride : Nat
  dstride : Nat
  idx : List Nat
  idxDst : Bool
deriving DecidableEq, Repr

/-- Where an engine operation reads or writes. -/
inductive Place where
  | memory
  | scratch (cores : List Nat)
deriving DecidableEq, Repr

/-- A posted work entry (R238, R243): its 64 bytes as words, the routing register's value, the time of QPOST.AT with
whether it was late at issue, the order of posting, whether it has fired, and how many of its packets await their
acknowledgment. -/
structure Posted where
  w : List DWord
  route : DWord
  time : Option DWord
  lateAtIssue : Bool
  order : Nat
  fired : Bool
  unacked : Nat
deriving DecidableEq, Repr

/-- A solicitation (R254): key, mask, handler, argument, operator, width, payload with its poison and its granule count,
result offset, scope cores, and the asker. -/
structure Solicit where
  seq : Nat
  key : DWord
  mask : DWord
  handler : DWord
  arg : DWord
  op : Nat
  vw : Nat
  payload : List (Byte × Bool)
  plen : Nat
  result : Nat
  cores : List Nat
  launch : Nat
  askCore : Nat
  askOp : Nat
deriving DecidableEq, Repr

/-- One row of a drain that waits to be delivered (R171): its number, its bytes and the element numbers that carry
poison. -/
structure DrainRow where
  m : Nat
  bytes : List Byte
  poison : List Nat
deriving DecidableEq, Repr

/-- What an engine operation does. Of a move, `sent` says that its switch has gone to the root and `applied` that the
destination has applied it. -/
inductive EngineKind where
  | tile (d : TileDesc) (src dst : Place)
  | queueFill (queue entry : Nat) (d : TileDesc) (reached : Bool)
  | fill (tile : Nat) (col side : Nat) (stride fmt : Nat) (key : Option Nat) (claim : Bool)
  | feedgo
  | post (p : Posted)
  | cabort (tree : Nat) (bitmapAt : Nat)
  | launch (child : Option Nat)
  | solicit (q : Solicit) (accepted : Bool)
  | move (d : TileDesc) (srcEntry dstCore dstEntry : Nat) (sent applied : Bool)
  | drain (warp longOp : Nat) (sec : Bool) (dest : Nat) (base stride : Nat) (route : DWord) (rows : List DrainRow)
deriving DecidableEq, Repr

/-- An engine operation in flight (R216, R229): the launch and its tenant, the future entry with its kind, whether the
point of no return has passed (R228), the destination lines or granules already written, the source lines already read
(R217), with poison marks, the frames and leaves that its lines were checked under at issue (R170), and the failure met so far:
its place in the order of R229, its cause and its byte number. -/
structure EngineOp where
  kind : EngineKind
  launch : Nat
  tenant : Nat
  asid : Nat
  future : Option Nat
  order : Nat
  passed : Bool
  done : List Nat
  read : List (Nat × List (Byte × Bool))
  maps : FMap (Nat × DWord)
  failed : Option (Nat × Nat × Nat)
deriving DecidableEq, Repr

/-! ## The census network (R255 to R262, R329 to R331) -/

/-- A message of the census network on its way from the root to a core, in sequence order (R255, R331). -/
inductive CensusMsg where
  | solicit (q : Solicit)
  | switch (srcCore srcEntry dstCore dstEntry : Nat) (op : Nat)
  | complete (launch group : Nat) (count : BitVec 32)
deriving DecidableEq, Repr

/-- A message on its way up to the root. -/
inductive RootMsg where
  | solicit (core op : Nat)
  | switch (core op : Nat)
  | arrive (core launch group : Nat) (phase : BitVec 32)
deriving DecidableEq, Repr

/-- A solicitation that a core has accepted (R256): its match set in rising order, the entries whose responder is not yet
spawned, the landing slot, and the contributions so far by entry. -/
structure Accepted where
  q : Solicit
  matchSet : List Nat
  unspawned : List Nat
  landing : Option Nat
  replies : List (Nat × Reply)
deriving DecidableEq, Repr

/-- A root slot (R330): the solicitation, with the reports of the cores so far: core, combined result, matches,
replies. -/
structure RootSlot where
  q : Solicit
  reports : List (Nat × Option (List Word) × Nat × Nat)
deriving DecidableEq, Repr

/-- The root's record of a group barrier phase (R331). -/
structure RootBarrier where
  completed : BitVec 32
  reported : List Nat
deriving DecidableEq, Repr

/-! ## Cores -/

/-- A core (R24 to R33, R223, R249, R256, R286, R290). Unlisted rows are free, tiles INVALID, scale entries 0, scale units
untagged. `inbox` holds the census messages that the root has sent and the core has not applied; `refusing` says that the
core refuses until a replay (R312). -/
structure Core where
  rows : FMap PoolRow
  warps : FMap Warp
  launches : FMap CoreLaunch
  scale : FMap (BitVec 16)
  scaleTag : FMap Nat
  tiles : FMap BTile
  drainQ : List DrainEntry
  futures : FMap Future
  dir : FMap TileEntry
  engines : FMap EngineOp
  inbox : List CensusMsg
  refusing : Bool
  accepted : List Accepted
  storeQ : List StoreReq
  l1 : List L1Line
  icache : List ICBlock
  invals : List (Nat × Nat)
  xcnt : Vector (BitVec 48) 6
  cycles : DWord
  credits : FMap Int
  served : FMap Nat
  fenced : Bool
  testing : Bool
deriving DecidableEq, Repr

/-! ## Launches (R299 to R308) -/

/-- A launch record, word by word (R299). -/
abbrev LaunchRec := Vector DWord 16

/-- The source of a record (R302). -/
inductive LaunchSource where
  | ring | child (core op : Nat) | net
deriving DecidableEq, Repr

/-- Where a launch stands (R304, R356, R359). -/
inductive LaunchStatus where
  | queued | running | halting | halted | ended
deriving DecidableEq, Repr

/-- Who asks a launch to stop: the dispatcher for a record (R356), a partition command (R353, R364), a restart of Ryukel (R377), or a
scan test (R380). -/
inductive StopKind where
  | victim | shake | freeze | scan
deriving DecidableEq, Repr

/-- The request that stops a launch (R356, R357): whether its budget has passed, and who asks. -/
structure StopReq where
  overdue : Bool
  victim : Bool
  shake : Bool
  freeze : Bool
  scan : Bool
deriving DecidableEq, Repr

/-- A request with an asker more or less. -/
def StopReq.put (r : StopReq) (k : StopKind) (b : Bool) : StopReq :=
  match k with
  | .victim => { r with victim := b }
  | .shake => { r with shake := b }
  | .freeze => { r with freeze := b }
  | .scan => { r with scan := b }

/-- Whether anyone but a scan test asks: a scan test's request counts no budget and stops paths at safe points only (R380). -/
def StopReq.firm (r : StopReq) : Bool := r.victim || r.shake || r.freeze

/-- A request that nobody has made yet. -/
def stopNone : StopReq := ⟨false, false, false, false, false⟩

/-- What a termination record says (R284). -/
structure TermRecord where
  cause : Nat
  user : Bool
  byKernel : Bool
  tpc : DWord
  ncause : Nat
  tval : DWord
  core : Nat
  wslot : Nat
  path : Bool
  lwarp : Nat
deriving DecidableEq, Repr

/-- A launch: its identifier, partition, tenant, ASID, record, source, the members of its groups (R300), where its blocks
stand, which launch warps have retired, its stop request and its termination. -/
structure Launch where
  id : BitVec 32
  part : Nat
  tenant : Nat
  asid : Nat
  record : LaunchRec
  source : LaunchSource
  groups : List (List Nat)
  status : LaunchStatus
  arrival : Nat
  placedAt : Nat
  haltedAt : Nat
  placedOn : List Nat
  slots : List (Nat × Nat × Nat)
  retired : List Nat
  stop : Option StopReq
  term : Option TermRecord
  measure : BitVec 256
  reported : Bool
deriving DecidableEq, Repr

/-! ## Partitions -/

/-- A frame-state entry with the tag, block and counters it keeps (R321, R325), the fills by octant (R326), and whether a
flash write is in flight (R328), and whether a migration has passed the frame over since its last fill (R327). -/
structure FrameEntry where
  state : Nat
  tenant : Nat
  keyid : Nat
  troy : Bool
  wr : Bool
  multi : Bool
  fb : Bool
  rd : Bool
  dirty : Bool
  wp : Bool
  tlbref : Nat
  save : Bool
  tag : Nat × Nat
  block : Nat
  accl : Nat
  accr : Nat
  fills : FMap Nat
  flashing : Bool
  passedOver : Bool
deriving DecidableEq, Repr

/-- A translation that a slice's TLB holds (R319): slice, ASID, first page, pages, leaf. -/
structure TlbEntry where
  slice : Nat
  asid : Nat
  vpn : Nat
  pages : Nat
  leaf : DWord
  leafAt : Nat
deriving DecidableEq, Repr

/-- An entry of a walker's walk cache (R319): slice, ASID, level, the page address above the level, the next table. -/
structure WalkEntry where
  slice : Nat
  asid : Nat
  level : Nat
  idx : Nat
  table : Nat
deriving DecidableEq, Repr

/-- A line that an LLC slice holds or fetches (R292, R294): the slice, the tag, the frame with the leaf under which it was fetched,
whether it has been written since, and the memory keys that have changed since, as they were (R317). A page-table line that a walker
has read is tagged with its physical line under the number 4,096, which no ASID has (R319). -/
structure LlcLine where
  slice : Nat
  asid : Nat
  line : Nat
  frame : Nat
  leaf : DWord
  dirty : Bool
  oldKeys : FMap (BitVec 512)
deriving DecidableEq, Repr

/-- The sending half of an SCT stream (R312, R340, R345): the next sequence number, the packets not acknowledged with the
operation that each belongs to, how many of those have been sent, the replays without an acknowledgment, the back-off in ns
that runs, and the entry refused last with its back-off. -/
structure StreamOut where
  next : BitVec 32
  unacked : List (SctPacket × Option (Nat × Nat))
  sent : Nat
  retries : Nat
  backoff : Option Nat
  nak : Option (BitVec 32 × Nat)
deriving DecidableEq, Repr

/-- A packet of a FINAL chunk that waits for the chunk's last (R243), with the lines that it owns from its acceptance on, under
the ASID of its window (R216, R342). -/
structure HeldPacket where
  pkt : SctPacket
  asid : Nat
  lines : List Nat
deriving DecidableEq, Repr

/-- The receiving half of an SCT stream (R341): the number expected, whether the refused packet is still awaited, the
packets of a FINAL chunk that wait for the last (R243), and whether a packet of the chunk that arrives has been refused for good,
so that the chunk is not whole. -/
structure StreamIn where
  expect : BitVec 32
  refusing : Bool
  held : List HeldPacket
  broken : Bool
deriving DecidableEq, Repr

/-- A line asked of a peer and not yet answered, or answered and not yet used: the asker, none once it has gone, and
the ASID of its access; `rsp` is the line or none for a failed one (R346). -/
structure PeerLine where
  who : Option Nat
  asid : Nat
  rank : Nat
  line : Nat
  rsp : Option (Option (List Byte))
deriving DecidableEq, Repr

/-- A forwarded packet: the stream and number that it came in on, and those it went out on (R342). -/
structure Forward where
  inKey : Nat
  inPkt : SctPacket
  outKey : Nat
  outSeq : BitVec 32
deriving DecidableEq, Repr

/-- The abort of a tree at this rank and, where this rank is the root or the issuer, its progress (R244). -/
structure TreeAbort where
  aborted : Bool
  complete : Bool
  issuers : List (Nat × Nat)
  remote : List Nat
  reports : List (Nat × Bool)
  bitmap : Option (List Bool)
deriving DecidableEq, Repr

/-- The step of a partition command (R351). -/
inductive CmdStep where
  | drain | rewrite | shootdown | stream | commit
deriving DecidableEq, Repr

/-- A partition command in progress (R351, R353, R364): `dest` is the partition of this module that a migration streams to, and
`fold` what the monitor has written to PAR_INTERLEAVE during the handshake, which step 2 takes over (R293). -/
structure Cmd where
  op : Nat
  step : CmdStep
  other : Nat
  octs : Nat
  rank : Nat
  dest : Option Nat
  fold : Option DWord
deriving DecidableEq, Repr

/-- A key slot (R266). -/
structure KeySlot where
  loaded : Bool
  key : BitVec 512
  tbase : Nat
  tlen : Nat
  launch : Nat
deriving DecidableEq, Repr

/-- An event record before its time is stamped (R373). -/
structure Event where
  code : Nat
  oct : Nat
  core : Nat
  launch : BitVec 32
  addr : DWord
  detail : DWord
deriving DecidableEq, Repr

/-- A violation log entry (R375). -/
structure Violation where
  kind : Nat
  oct : Nat
  agent : Nat
  reg : Nat
  addr : DWord
deriving DecidableEq, Repr

/-- An item in a tenant's save area (R361): a row with the launch that owns it, or another item that is kept with its
launch and only counts its slot size here. -/
inductive SaveItem where
  | row (core launch : Nat) (r : PoolRow)
  | unit (core launch : Nat)
  | fifo (core launch : Nat)
  | warp (core launch slot : Nat)
  | tile (core tile : Nat) (t : BTile)
deriving DecidableEq, Repr

/-- The progress of a restart of Ryukel (R377): whether step 2 has run since the last trigger. -/
structure Restart where
  ran : Bool
deriving DecidableEq, Repr

/-- A scan test of a core under way (R380). -/
structure ScanTest where
  core : Nat
  launches : List Nat
deriving DecidableEq, Repr

/-- A record waiting to be checked by the dispatcher (R302). -/
structure PendingRecord where
  addr : Nat
  tenant : Nat
  id : BitVec 32
  source : LaunchSource
  bytes : Option (List Byte)
deriving DecidableEq, Repr

/-- The network device of a partition's operating system (R339, notes/assumptions/69.md): the features that its driver has taken, how
many queue pairs are in use, and by pair the buffers that a receiver may fill, by address and bytes, and those it has used, by address
and bytes written. -/
structure NetDev where
  features : List Nat
  pairs : Nat
  ready : FMap (List (Nat × Nat))
  used : FMap (List (Nat × Nat))
deriving DecidableEq, Repr

/-- A partition (R349): its registers at the values that differ from their reset values; the dispatcher's sources, credits and
counters; translation; the census root; the port; commands; logs; Assize. `bkptStops` lists the stops by BKPT as they were reported
to Ryukel: core, warp slot and the address of the BKPT (R279); `peerOut` the stores to peers that may still be unacknowledged, by
ASID, rank and line (R320); `peerSides` the versions and last writers that the home slices keep for rows on peers, by 2^64 times the
rank plus the line (notes/assumptions/61.md); `gpcSeen` what the last load or atomic of a general-purpose core returned (R417), and
`debugSeen` what the last debug read did, with poison marks (R270), and `gpcErr` says that the last access or command of one got an
error response (R375); `netDev` is the network device of the operating system and `osFrames` the frames on its queue pairs that no
buffer has taken yet (R339); `kernelImage` the measured copy of the operating system's image, `kernelA0` what register a0 held when
Ryukel started and `kernelDown` that a third restart has stopped the general-purpose cores for good, and `monitorMail` what the
monitor has been told (R377); `snapshots` what the storage port holds of frames whose flash write runs, the bytes and the block
(R328). -/
structure Partition where
  exists_ : Bool
  regs : List (HReg × DWord)
  memKeys : FMap (BitVec 512)
  meas3 : BitVec 256
  ringLeft : FMap Nat
  pending : List PendingRecord
  credits : FMap Int
  served : FMap Nat
  childCount : Nat
  netCount : Nat
  netWindow : FMap Nat
  choice : Option Nat
  heldCompletions : List (List DWord)
  heldEvents : List (List DWord)
  tlb : List TlbEntry
  walkCache : List WalkEntry
  llc : List LlcLine
  fetches : List LlcLine
  shooting : Option DWord
  counters : FMap (BitVec 32 × Nat)
  rootSeq : Nat
  rootInbox : List RootMsg
  rootSlots : List RootSlot
  rootBarriers : List ((Nat × Nat) × RootBarrier)
  out : FMap StreamOut
  inn : FMap StreamIn
  peerLines : List PeerLine
  peerOut : List (Nat × Nat × Nat)
  peerSides : FMap (Word × Nat)
  forwards : List Forward
  trees : FMap TreeAbort
  wire : List SctPacket
  netDev : NetDev
  osFrames : List (Nat × EthFrame)
  skewCount : Nat
  cmd : Option Cmd
  yieldTo : Option Nat
  acceptFrom : Option Nat
  osStopped : Bool
  stoppedForGood : Bool
  log : FMap Violation
  logCount : BitVec 48
  keys : FMap KeySlot
  tokenSeq : DWord
  keyBusy : Option (DWord × Option Nat)
  saves : List (Nat × FMap SaveItem)
  restart : Option Restart
  restarts : List Nat
  kernelDown : Bool
  monitorMail : List DWord
  kernelImage : List Byte
  kernelA0 : DWord
  snapshots : FMap (List Byte × Nat)
  bkptStops : List (Nat × Nat × PC)
  gpcSeen : List Byte
  gpcErr : Bool
  debugSeen : List (Byte × Bool)
deriving DecidableEq, Repr

/-- A migration image (R365): the source's octants, its partition, cores and launches, its OWNED frames with their
frame-state entries and contents, all in the source's own numbering. -/
structure Image where
  octs : List Nat
  part : Partition
  cores : FMap Core
  launches : FMap Launch
  frames : FMap FrameEntry
  mem : List Host.Cell
  sides : FMap (Word × Nat)
  sidePoison : List Nat
  poison : List Nat
  unitKey : FMap Nat
  zeroLines : List Nat
deriving DecidableEq, Repr

/-- What a port has sent that is no SCT packet: a frame of the operating system, or the announcements of R367, an ARP reply
or a neighbor advertisement for an address. -/
inductive SentItem where
  | frame (f : EthFrame)
  | arpReply (mac : BitVec 48) (ip : BitVec 32)
  | neighborAdvert (mac : BitVec 48) (ip : BitVec 128)
deriving DecidableEq, Repr

/-! ## The module -/

/-- Whose turn a step takes: a word of the span in issue in a core's warp slot, or an event. -/
inductive Turn where
  | word (core slot : Nat)
  | event (e : Instr)
deriving DecidableEq, Repr

/-- The module. `mem` is physical memory: bytes by address, an unlisted byte reading as 0; `sides` the side words and last writers
by line (R192); `sidePoison` the lines whose side word is uncorrectable; `poison` the poisoned 16-byte units; `unitKey` the key of a
unit's last write (R317, unlisted 0); `zeroLines` the lines marked zero (R324); `frames` the frame-state entries (unlisted all
zero); `inbound` by destination partition the migration images that have come in whole (R365, R366), and `arrivals` those that other
modules bring, which the outside world holds ready (notes/assumptions/65.md); `sent` what has left each octant's port; `seeds` the
seed that each octant's Assize derived at boot, from which its key pairs come, and `certs` the certificates of the octants' keys
(R384); `routes` the routes between octants, by 8 times the source plus the destination, that have taken the place of those of the
table (R334, R379). The fields from `agenda` on are the model's own: what the outside world and the open arbitration do next, the
general-purpose core whose access or register write a step runs (R375), the warp whose word a step runs, how many free values have
been taken, an order stamp, and the number of the step, which says what happens at one moment (R223). -/
structure State where
  booted : Bool
  configSeq : BitVec 32
  operatorKey : List Byte
  octHeld : List Nat
  cores : FMap Core
  parts : FMap Partition
  launches : FMap Launch
  nextLaunch : Nat
  mem : List Host.Cell
  sides : FMap (Word × Nat)
  sidePoison : List Nat
  poison : List Nat
  unitKey : FMap Nat
  zeroLines : List Nat
  frames : FMap FrameEntry
  routersDown : List (Nat × Nat × Nat)
  slicesDown : List (Nat × Nat)
  portsDown : List Nat
  linksDown : List (Nat × Nat)
  linkUp : List Nat
  ptpOffset : FMap DWord
  ptpLock : List Nat
  fencedMask : FMap DWord
  scans : List ScanTest
  meas : FMap (BitVec 256)
  staged : FMap (List Byte)
  mgmtOut : List (Nat × List Byte)
  seeds : FMap (BitVec 256)
  certs : FMap (List Byte)
  routes : FMap (List Nat)
  inbound : FMap Image
  arrivals : FMap Image
  sent : List (Nat × SentItem)
  tdpHeld : Bool
  agenda : List Turn
  writer : Option (Nat × Nat)
  cur : Nat × Nat
  freeCtr : Nat
  stamp : Nat
  moment : Nat
deriving DecidableEq, Repr

/-- Why the machine stops with a fault. -/
inductive Fault where
  /-- Raised by the meaning of an instruction word when the current warp has no span in issue, so that no word of it
  stands at a place where it could run. No step of the machine comes to this: it runs only words of spans in issue.
  Safe. -/
  | noSpan
deriving DecidableEq, Repr

/-- Why an instruction is refused. -/
inductive Refusal where
  /-- Answered only by an arm of `exec` whose instruction has no meaning yet. Safe. -/
  | notModelled (mnemonic : String)
deriving DecidableEq, Repr

/-- The module right after reset (R34, R382): nothing has booted, no partition, launch or core holds anything, no byte of
memory is listed. -/
def State.reset : State where
  booted := false
  configSeq := 0
  operatorKey := []
  octHeld := []
  cores := []
  parts := []
  launches := []
  nextLaunch := 0
  mem := []
  sides := []
  sidePoison := []
  poison := []
  unitKey := []
  zeroLines := []
  frames := []
  routersDown := []
  slicesDown := []
  portsDown := []
  linksDown := []
  linkUp := []
  ptpOffset := []
  ptpLock := []
  fencedMask := []
  scans := []
  meas := []
  staged := []
  mgmtOut := []
  seeds := []
  certs := []
  routes := []
  inbound := []
  arrivals := []
  sent := []
  tdpHeld := false
  agenda := []
  writer := none
  cur := (0, 0)
  freeCtr := 0
  stamp := 0
  moment := 0

end Sys2Proof.Machine
end

