-- ==== Sys2Proof/Machine/Finite.lean ====
section
/-! DEFINITION. Operations on finite maps, sorted sets of numbers and the canonical memory of cells. -/

namespace Sys2Proof.Machine

open Sys2Proof

/-! ## Finite maps -/

/-- The value listed for a number, if any. -/
def fget? {α : Type} : FMap α → Nat → Option α
  | [], _ => none
  | (k, v) :: m, n => if n = k then some v else fget? m n

/-- The value of a number, `d` where it is not listed. -/
def fget {α : Type} (m : FMap α) (n : Nat) (d : α) : α := (fget? m n).getD d

/-- Lists a value for a number, keeping the numbers in rising order. -/
def fput {α : Type} : FMap α → Nat → α → FMap α
  | [], n, v => [(n, v)]
  | (k, u) :: m, n, v =>
    if n < k then (n, v) :: (k, u) :: m
    else if n = k then (n, v) :: m
    else (k, u) :: fput m n v

/-- Takes a number off the list. -/
def fdel {α : Type} : FMap α → Nat → FMap α
  | [], _ => []
  | (k, u) :: m, n => if n = k then m else (k, u) :: fdel m n

/-- Lists a value, or takes the number off the list where the value is the one of an unlisted number. -/
def fset {α : Type} [DecidableEq α] (m : FMap α) (n : Nat) (v d : α) : FMap α :=
  if v = d then fdel m n else fput m n v

/-- The numbers listed. -/
def fkeys {α : Type} (m : FMap α) : List Nat := m.map (·.1)

/-- Puts an element into a sorted list, before what it may stand before. -/
def insertOrd {α : Type} (le : α → α → Bool) (a : α) : List α → List α
  | [] => [a]
  | b :: l => if le a b then a :: b :: l else b :: insertOrd le a l

/-- A list in order; equals keep theirs. -/
def sortOrd {α : Type} (le : α → α → Bool) (l : List α) : List α := l.foldr (insertOrd le) []

/-- The listed pairs whose value and number pass a test. -/
def ffilter {α : Type} (m : FMap α) (f : Nat → α → Bool) : FMap α := m.filter (fun e => f e.1 e.2)

/-- The lowest number below a bound that is not listed. -/
def ffree {α : Type} (m : FMap α) (bound : Nat) : Option Nat :=
  (List.range bound).find? (fun n => (fget? m n).isNone)

/-! ## Sets of numbers in rising order -/

/-- Adds a number to a rising list. -/
def setAdd : List Nat → Nat → List Nat
  | [], n => [n]
  | k :: m, n => if n < k then n :: k :: m else if n = k then k :: m else k :: setAdd m n

/-- Takes a number out of a list. -/
def setDel (l : List Nat) (n : Nat) : List Nat := l.filter (fun k => k != n)

/-- Whether a number is in a list. -/
def setMem (l : List Nat) (n : Nat) : Bool := l.any (fun k => k == n)

/-! ## Memory as cells in canonical form -/

/-- The byte at an address; an address that is not listed reads as 0 (notes/assumptions/3.md). -/
def cellRead : List Host.Cell → Nat → Byte
  | [], _ => 0
  | (k, b) :: m, a => if a = k then b else cellRead m a

/-- Lists a byte at an address, the addresses rising. -/
def cellPut : List Host.Cell → Nat → Byte → List Host.Cell
  | [], a, b => [(a, b)]
  | (k, c) :: m, a, b =>
    if a < k then (a, b) :: (k, c) :: m
    else if a = k then (a, b) :: m
    else (k, c) :: cellPut m a b

/-- Takes an address off the list. -/
def cellDel : List Host.Cell → Nat → List Host.Cell
  | [], _ => []
  | (k, c) :: m, a => if a = k then m else (k, c) :: cellDel m a

/-- Writes a byte, keeping the canonical form: a zero byte is not listed. -/
def cellWrite (m : List Host.Cell) (a : Nat) (b : Byte) : List Host.Cell :=
  if b = 0 then cellDel m a else cellPut m a b

/-- Whether every address is above a bound, the addresses rise and no byte is 0. -/
def cellsAbove (lo : Nat) : List Host.Cell → Bool
  | [] => true
  | (k, b) :: m => decide (lo ≤ k) && decide (b ≠ 0) && cellsAbove (k + 1) m

/-- The canonical form of memory. -/
def Memory.wf (m : List Host.Cell) : Bool := cellsAbove 0 m

/-- Writes a run of bytes from an address on. -/
def cellsWrite (m : List Host.Cell) (a : Nat) : List Byte → List Host.Cell
  | [] => m
  | b :: bs => cellsWrite (cellWrite m a b) (a + 1) bs

/-- Reads a run of bytes from an address on. -/
def cellsRead (m : List Host.Cell) (a : Nat) : Nat → List Byte
  | 0 => []
  | n + 1 => cellRead m a :: cellsRead m (a + 1) n

/-! ## Bytes, words and numbers -/

/-- The number of a run of bytes, little-endian (R4). -/
def leNat : List Byte → Nat
  | [] => 0
  | b :: bs => b.toNat + 256 * leNat bs

/-- The `n` low bytes of a number, little-endian (R4). -/
def leBytes : Nat → Nat → List Byte
  | 0, _ => []
  | n + 1, v => BitVec.ofNat 8 v :: leBytes n (v / 256)

/-- The bytes of a 32-bit word (R4). -/
def bytesOf32 (w : Word) : List Byte := leBytes 4 w.toNat

/-- The bytes of a 64-bit value (R4). -/
def bytesOf64 (d : DWord) : List Byte := leBytes 8 d.toNat

/-- A list cut into pieces of four bytes, as words (R4). -/
def wordsOf : List Byte → List Word
  | a :: b :: c :: d :: r => BitVec.ofNat 32 (leNat [a, b, c, d]) :: wordsOf r
  | _ => []

/-- A list of 64-bit values from bytes (R4). -/
def dwordsOf (bs : List Byte) (n : Nat) : List DWord :=
  (List.range n).map (fun i => BitVec.ofNat 64 (leNat ((bs.drop (8 * i)).take 8)))

/-- Bits [hi:lo] of a 64-bit value as a number (R4). -/
def field (d : DWord) (hi lo : Nat) : Nat := (d.toNat / 2 ^ lo) % 2 ^ (hi - lo + 1)

/-- A 64-bit value with bits [hi:lo] replaced. -/
def setField (d : DWord) (hi lo v : Nat) : DWord :=
  BitVec.ofNat 64 (d.toNat - field d hi lo * 2 ^ lo + (v % 2 ^ (hi - lo + 1)) * 2 ^ lo)

/-- A number cut to a maximum, for saturating counters. -/
def satAdd (a n max : Nat) : Nat := min (a + n) max

/-- The number of set bits among the low `n` of a number. -/
def bitCount : Nat → Nat → Nat
  | 0, _ => 0
  | n + 1, v => v % 2 + bitCount n (v / 2)

/-- The numbers of the bits set among the low `n`, rising. -/
def bitsSet (n v : Nat) : List Nat := (List.range n).filter (fun i => v.testBit i)

/-- Every lane number. -/
def lanes : List Nat := List.range 32

/-- A row whose word of lane `l` is `f l`. -/
def mkRow (f : Nat → Word) : Row := Vector.ofFn (fun l : Fin 32 => f l.val)

/-- The word of lane `l` of a row. -/
def lane (r : Row) (l : Nat) : Word := r[l % 32]'(Nat.mod_lt _ (by decide))

/-- A mask whose bit `l` is `f l`. -/
def mkMask (f : Nat → Bool) : Mask :=
  lanes.foldl (fun m l => if f l then m ||| (1#32 <<< l) else m) 0#32

/-- The row of zeros. -/
def zeroRow : Row := mkRow (fun _ => 0)

/-- Rounds a number up to a multiple. -/
def ceilDiv (a b : Nat) : Nat := (a + b - 1) / b

/-- Sign extension of the low `n` bits of a number, as an integer. -/
def sextNat (n v : Nat) : Int :=
  let u := v % 2 ^ n
  if u < 2 ^ (n - 1) then (u : Int) else (u : Int) - (2 ^ n : Nat)

end Sys2Proof.Machine
end

