-- ==== Sys2Proof/Machine/Access.lean ====
section
/-! DEFINITION. The one home of every piece of state: reset contents of cores, warps and launches, the accessors, and
the hardware registers with their reset values. -/

namespace Sys2Proof.Machine

open Sys2Proof

/-! ## Contents at reset (R12, R25, R26, R31, R34, R223, R249) -/

/-- A free row (R12). -/
def freeRow : PoolRow := ⟨zeroRow, 0, 0, 0⟩

/-- An accumulator slot at launch (R26, R154, R173). -/
def accReset : AccSlot := ⟨[], .none, [], [], true, []⟩

/-- A B tile at reset (R30); its contents are the model's choice (notes/assumptions/8.md). -/
def tileReset : BTile := ⟨.invalid, 0, 0, 0, false, [], [], [], 0⟩

/-- A future entry at core reset (R223); its generation is the model's choice (notes/assumptions/8.md). -/
def futureReset : Future := ⟨0, 0, 0, true, 0, .done, 0, false, false, 0, (0, 0, 0)⟩

/-- A directory entry at core reset (R249); its generation is the model's choice (notes/assumptions/8.md). -/
def dirReset : TileEntry := ⟨.free, 0, 0, 0, 0, 0, 0, [], 0, false, none⟩

/-- A frame-state entry at reset (R321). -/
def frameReset : FrameEntry :=
  ⟨0, 0, 0, false, false, false, false, false, false, false, 0, false, (0, 0), 0, 0, 0, [], false, false⟩

/-- A core at reset (R31, R33). -/
def coreReset : Core where
  rows := []
  warps := []
  launches := []
  scale := []
  scaleTag := []
  tiles := []
  drainQ := []
  futures := []
  dir := []
  engines := []
  inbox := []
  refusing := false
  accepted := []
  storeQ := []
  l1 := []
  icache := []
  invals := []
  xcnt := Vector.replicate 6 0
  cycles := 0
  credits := []
  served := []
  fenced := false
  testing := false

/-- A path at the start of a warp (R34). -/
def pathReset (pc : PC) (exec : Mask) (st : PathState) : Path where
  pc := pc
  exec := exec
  state := st
  depth := 0
  top := []
  resume := 0
  wait := .none
  mmaDone := false
  unchecked := true
  eret := false
  handler := false
  time := 0
  stopped := none
  atSafePoint := none
  promoted := false
  readySince := 0
  endedAt := 0

/-- A warp at its start (R34), at a PC, with what the launch record gives. -/
def warpReset (launch lwarp : Nat) (pc : PC) (dstk : DWord) (tvec : PC) (g : Vector DWord 4) : Warp where
  launch := launch
  lwarp := lwarp
  names := []
  s := Vector.replicate 64 0
  p := Vector.replicate 16 0
  prim := pathReset pc 0xFFFFFFFF#32 .ready
  seco := pathReset 0 0 .vacant
  split := ⟨false, 0, 0⟩
  exited := 0
  dead := 0
  dstk := dstk
  tvec := tvec
  wb := 0
  fpsr := 0
  gang := 0
  g := g
  rte := Vector.replicate 8 0
  tpc := 0
  tcause := 0
  tval := 0
  trapMode := false
  trapSec := false
  firstCause := ⟨0, 0⟩
  deferred := none
  arrival := none
  epi := 0
  mstat := 0
  tags := []
  resp := none
  ops := []
  pend := []
  span := none
  bkptStop := false
  halted := false

/-- What a launch holds on a core at its start (R25 to R29, R234). -/
def coreLaunchReset (units regu fifos : Nat) : CoreLaunch where
  blocks := 0
  scratch := []
  full := []
  spoison := []
  accs := []
  hslots := []
  qd := Vector.replicate 8 0
  qent := []
  mburst := 0
  feed := none
  armed := []
  landing := []
  barriers := []
  lost := []
  unitsHeld := units
  reguHeld := regu
  fifosHeld := fifos
  savedWarps := []
  slots := []

/-- A partition when it boots (R302, R350, R375). -/
def partReset : Partition where
  exists_ := false
  regs := []
  memKeys := []
  meas3 := 0
  ringLeft := []
  pending := []
  credits := []
  served := []
  childCount := 0
  netCount := 0
  netWindow := []
  choice := none
  heldCompletions := []
  heldEvents := []
  tlb := []
  walkCache := []
  llc := []
  fetches := []
  shooting := none
  counters := []
  rootSeq := 0
  rootInbox := []
  rootSlots := []
  rootBarriers := []
  out := []
  inn := []
  peerLines := []
  peerOut := []
  peerSides := []
  forwards := []
  trees := []
  wire := []
  netDev := ⟨[], 1, [], []⟩
  osFrames := []
  skewCount := 0
  cmd := none
  yieldTo := none
  acceptFrom := none
  osStopped := false
  stoppedForGood := false
  log := []
  logCount := 0
  keys := []
  tokenSeq := 0
  keyBusy := none
  saves := []
  restart := none
  restarts := []
  kernelDown := false
  monitorMail := []
  kernelImage := []
  kernelA0 := 0
  snapshots := []
  bkptStops := []
  gpcSeen := []
  gpcErr := false
  debugSeen := []

/-! ## Accessors -/

/-- A core; one that is not listed is as at reset. -/
def coreOf (s : State) (c : Nat) : Core := fget s.cores c coreReset

/-- Replaces a core. -/
def setCore (s : State) (c : Nat) (k : Core) : State := { s with cores := fput s.cores c k }

/-- Changes a core. -/
def modCore (s : State) (c : Nat) (f : Core → Core) : State := setCore s c (f (coreOf s c))

/-- The warp in a slot of a core, if there is one. -/
def warpOf? (s : State) (c w : Nat) : Option Warp := fget? (coreOf s c).warps w

/-- Replaces a warp. -/
def setWarp (s : State) (c w : Nat) (v : Warp) : State :=
  modCore s c (fun k => { k with warps := fput k.warps w v })

/-- Changes a warp where there is one. -/
def modWarp (s : State) (c w : Nat) (f : Warp → Warp) : State :=
  match warpOf? s c w with
  | some v => setWarp s c w (f v)
  | none => s

/-- What a launch holds on a core; where it holds nothing, an empty holding without units. -/
def clOf (s : State) (c l : Nat) : CoreLaunch := fget (coreOf s c).launches l (coreLaunchReset 0 0 0)

/-- Replaces what a launch holds on a core. -/
def setCl (s : State) (c l : Nat) (v : CoreLaunch) : State :=
  modCore s c (fun k => { k with launches := fput k.launches l v })

/-- Changes what a launch holds on a core. -/
def modCl (s : State) (c l : Nat) (f : CoreLaunch → CoreLaunch) : State := setCl s c l (f (clOf s c l))

/-- The warp of a launch that belongs to a slot: it stands there, or its slot has been claimed and it is saved (R360). -/
def launchWarp? (s : State) (c l slot : Nat) : Option Warp :=
  match warpOf? s c slot with
  | some w => if w.launch = l then some w else fget? (clOf s c l).savedWarps slot
  | none => fget? (clOf s c l).savedWarps slot

/-- Applies a change to the warp of a launch that belongs to a slot: where it is saved, in its saved state (R362). -/
def withWarp (s : State) (c l slot : Nat) (f : State → State) : State :=
  match (if (warpOf? s c slot).any (fun w => w.launch == l) then none else fget? (clOf s c l).savedWarps slot) with
  | none => f s
  | some v =>
    let t := f (setWarp (modCl s c l (fun h => { h with savedWarps := fdel h.savedWarps slot })) c slot v)
    let back : FMap Warp → FMap Warp := fun m => match warpOf? s c slot with
      | some w => fput m slot w
      | none => fdel m slot
    let saved := (warpOf? t c slot).filter (fun w => w.launch == l)
    let t := modCore t c (fun k => { k with warps := back k.warps })
    match saved with
    | some w => modCl t c l (fun h => { h with savedWarps := fput h.savedWarps slot w })
    | none => t

/-- A launch that never was: ended, of no tenant. -/
def launchNone : Launch where
  id := 0
  part := 0
  tenant := 0
  asid := 0
  record := Vector.replicate 16 0
  source := .ring
  groups := []
  status := .ended
  arrival := 0
  placedAt := 0
  haltedAt := 0
  placedOn := []
  slots := []
  retired := []
  stop := none
  term := none
  measure := 0
  reported := true

/-- A launch. -/
def launchOf (s : State) (l : Nat) : Launch := fget s.launches l launchNone

/-- Changes a launch where it is listed. -/
def modLaunch (s : State) (l : Nat) (f : Launch → Launch) : State :=
  match fget? s.launches l with
  | some v => { s with launches := fput s.launches l (f v) }
  | none => s

/-- A partition. -/
def partOf (s : State) (p : Nat) : Partition := fget s.parts p partReset

/-- Replaces a partition. -/
def setPart (s : State) (p : Nat) (v : Partition) : State := { s with parts := fput s.parts p v }

/-- Changes a partition. -/
def modPart (s : State) (p : Nat) (f : Partition → Partition) : State := setPart s p (f (partOf s p))

/-- A frame-state entry (R321). -/
def frameOf (s : State) (f : Nat) : FrameEntry := fget s.frames f frameReset

/-- Changes a frame-state entry. -/
def modFrame (s : State) (f : Nat) (g : FrameEntry → FrameEntry) : State :=
  { s with frames := fset s.frames f (g (frameOf s f)) frameReset }

/-- A pool row of a core (R12). -/
def rowOf (k : Core) (r : Nat) : PoolRow := fget k.rows r freeRow

/-- Replaces a pool row, a free one being unlisted (R12). -/
def setRow (k : Core) (r : Nat) (v : PoolRow) : Core := { k with rows := fset k.rows r v freeRow }

/-- A B tile of a core. -/
def tileOf (k : Core) (t : Nat) : BTile := fget k.tiles t tileReset

/-- Replaces a B tile. -/
def setTile (k : Core) (t : Nat) (v : BTile) : Core := { k with tiles := fput k.tiles t v }

/-- A future entry of a core (R223). -/
def futOf (k : Core) (i : Nat) : Future := fget k.futures i futureReset

/-- A directory entry of a core (R249). -/
def dirOf (k : Core) (i : Nat) : TileEntry := fget k.dir i dirReset

/-- A free value's number, and the state that has taken it. -/
def takeFree (s : State) : Nat × State := (s.freeCtr, { s with freeCtr := s.freeCtr + 1 })

/-- The next order stamp. -/
def takeStamp (s : State) : Nat × State := (s.stamp, { s with stamp := s.stamp + 1 })

/-- The path of a warp: the secondary if `sec`. -/
def pathOf (w : Warp) (sec : Bool) : Path := if sec then w.seco else w.prim

/-- Replaces a path of a warp. -/
def setPath (w : Warp) (sec : Bool) (p : Path) : Warp := if sec then { w with seco := p } else { w with prim := p }

/-- Changes a path of a warp. -/
def modPath (w : Warp) (sec : Bool) (f : Path → Path) : Warp := setPath w sec (f (pathOf w sec))

/-- The octant of a core (R6). -/
def octOf (c : Nat) : Nat := c / Config.coresPerOctant

/-! ## Hardware registers -/

/-- The reset value of a hardware register, from the Reset columns of its table; PAR_INTERLEAVE, PAR_NET_BOUNDARY and
NET_MACADDR take theirs from the configuration image when the partition boots (R293, R338, R350). -/
def regReset (r : HReg) : DWord :=
  match r.name with
  | .llcMigctl => 0xFFFF
  | .llcWbctl => 1000
  | .llcTqos => 0x10000
  | .llcAtomq => 16
  | .schTctl => 0x10300
  | .schNakcfg => 0x1000_0000_0040_0010
  | .parTiming => 0x03E8_0000_07D0_0014
  | .netTxcap => 160
  | .netSctcfg => 0x4C38_0008_0000_0032
  | .aszRkctl => 0x0000_0064_0000_0000
  | .aszScanctl => 0x0000_0E10_0000_0032
  | .capBase => 0x12A_05F2_0000
  | _ => 0

/-- The stored value of a register of a partition. -/
def regOf (p : Partition) (r : HReg) : DWord := ((p.regs.find? (fun e => e.1 == r)).map (·.2)).getD (regReset r)

/-- The stored value of a register, by name and number. -/
def reg (p : Partition) (n : RegName) (i : Nat := 0) : DWord := regOf p ⟨n, i⟩

/-- Stores a register value. -/
def setReg (p : Partition) (n : RegName) (i : Nat) (v : DWord) : Partition :=
  { p with regs := (⟨n, i⟩, v) :: p.regs.filter (fun e => e.1 != ⟨n, i⟩) }

/-- The octants of a partition (R350). -/
def octMask (p : Partition) : Nat := field (reg p .parNetBoundary) 7 0

/-- The octants of a partition in rising order. -/
def octsOf (p : Partition) : List Nat := bitsSet 8 (octMask p)

/-- The partition of an octant (R349): the one whose boundary names it; where none does, the octant's own number. -/
def partOfOct (s : State) (o : Nat) : Nat :=
  ((s.parts.find? (fun e => e.2.exists_ && (octMask e.2).testBit o)).map (·.1)).getD o

/-- The partition of a core. -/
def partOfCore (s : State) (c : Nat) : Nat := partOfOct s (octOf c)

/-- The cores of a partition in rising order. -/
def coresOf (p : Partition) : List Nat :=
  (octsOf p).flatMap (fun o => (List.range Config.coresPerOctant).map (fun c => Config.coresPerOctant * o + c))

/-- Whether a core belongs to a partition. -/
def coreIn (p : Partition) (c : Nat) : Bool := decide (c < Config.cores) && (octMask p).testBit (octOf c)

/-- Whether a frame lies in the HBM of a partition (R316). -/
def frameIn (p : Partition) (f : Nat) : Bool :=
  decide (f < Config.framesPerOctant * Config.octants) && (octMask p).testBit (f / Config.framesPerOctant)

/-! ## The fields of a launch record (R24, R299) -/

def recEntry (r : LaunchRec) : PC := r[0].extractLsb' 0 57
def recTvec (r : LaunchRec) : PC := r[1].extractLsb' 0 57
def recNwarps (r : LaunchRec) : Nat := field r[2] 63 32
def recClass (r : LaunchRec) : Nat := field r[2] 25 24
def recMaxblk (r : LaunchRec) : Nat := field r[2] 23 16
def recGrainl (r : LaunchRec) : Nat := field r[2] 10 8
def recGrain (r : LaunchRec) : Nat := 2 ^ recGrainl r
def recOctmask (r : LaunchRec) : Nat := field r[2] 7 0
def recPartw (r : LaunchRec) : Word := r[3].extractLsb' 0 32
def recRegu (r : LaunchRec) : Nat := field r[3] 6 0
def recSpu (r : LaunchRec) : Nat := field r[3] 13 7
def recAccs (r : LaunchRec) : Nat := field r[3] 20 14
def recHos (r : LaunchRec) : Nat := field r[3] 30 24
def recDsbase (r : LaunchRec) : Nat := field r[4] 56 0
def recDstkn (r : LaunchRec) : Nat := field r[5] 52 42
def recRslots (r : LaunchRec) : Nat := field r[5] 41 35
def recRbase (r : LaunchRec) : Nat := field r[5] 31 0
def recGtab (r : LaunchRec) : Nat := field r[6] 56 0
def recDebug (r : LaunchRec) : Bool := r[7].getLsbD 11
def recAbft (r : LaunchRec) : Nat := field r[7] 10 9
def recNgroups (r : LaunchRec) : Nat := field r[7] 8 0
def recAbfttol (r : LaunchRec) : DWord := r[8]
def recCbase (r : LaunchRec) : Nat := r[9].toNat
def recAlen (r : LaunchRec) : Nat := field r[10] 63 32
def recClen (r : LaunchRec) : Nat := field r[10] 31 0

/-- The pool units that a launch claims on a core (R24, R285). -/
def recUnits (r : LaunchRec) : Nat := recRegu r + recSpu r + recAccs r

/-- The bytes of scratchpad that a launch has on each core (R25). -/
def scratchBytes (l : Launch) : Nat := 32768 * recSpu l.record

/-- The stride of one warp's divergence stack region, T of R19 and R301. -/
def stackStride (r : LaunchRec) : Nat := 64 * ceilDiv (recDstkn r) 2

/-- The cores that hold members of a group, retired ones included (R331; for TMCAST notes/assumptions/62.md). -/
def groupCores (l : Launch) (g : Nat) : List Nat :=
  (l.slots.filter (fun e => setMem (l.groups.getD g []) e.1)).foldl (fun r e => setAdd r e.2.1) []

/-- The priority class of a launch (R299). -/
def classOf (l : Launch) : Nat := recClass l.record

end Sys2Proof.Machine
end

