-- ==== Sys2Proof/Machine/Crypto.lean ====
section
/-! DEFINITION. The functions that the spec names by their standards: AES-256 (FIPS 197), XTS (IEEE 1619, R266, R267, R317), GCM
(R365, R387) and SHA3-256 (FIPS 202, R382, R386). They are written out from those standards (notes/assumptions/6.md). -/

namespace Sys2Proof.Machine

open Sys2Proof

/-! ## AES-256 (FIPS 197) -/

/-- The S-box of AES and its inverse, byte `i` at bits [8i+7:8i]. -/
def aesBox : Nat := 0x16BB54B00F2D99416842E6BF0D89A18CDF2855CEE9871E9B948ED9691198F8E19E1DC186B95735610EF6034866B53E708A8BBD4B1F74DDE8C6B4A61C2E2578BA08AE7A65EAF4566CA94ED58D6D37C8E779E4959162ACD3C25C2406490A3A32E0DB0B5EDE14B8EE4688902A22DC4F816073195D643D7EA7C41744975FEC130CCDD2F3FF1021DAB6BCF5389D928F40A351A89F3C507F02F94585334D43FBAAEFD0CF584C4A39BECB6A5BB1FC20ED00D153842FE329B3D63B52A05A6E1B1A2C830975B227EBE28012079A059618C323C7041531D871F1E5A534CCF73F362693FDB7C072A49CAFA2D4ADF04759FA7DC982CA76ABD7FE2B670130C56F6BF27B777C63
def aesUnbox : Nat := 0x7D0C2155631469E126D677BA7E042B17619953833CBBEBC8B0F52AAE4D3BE0A0EF9CC9939F7AE52D0D4AB519A97F51605FEC8027591012B131C7078833A8DD1FF45ACD78FEC0DB9A2079D2C64B3E56FC1BBE18AA0E62B76F89C5291D711AF1476EDF751CE837F9E28535ADE72274AC9673E6B4F0CECFF297EADC674F4111913A6B8A130103BDAFC1020F3FCA8F1E2CD00645B3B80558E4F70AD3BC8C00ABD890849D8DA75746155EDAB9EDFD5048706C92B6655DCC5CA4D41698688664F6F87225D18B6D49A25B76B224D92866A12E084EC3FA420B954CEE3D23C2A632947B54CBE9DEC444438E3487FF2F9B8239E37CFBD7F3819EA340BF38A53630D56A0952

/-- A byte of such a table. -/
def boxByte (t i : Nat) : Nat := t / 2 ^ (8 * i) % 256

/-- Doubling in the field of AES. -/
def aesTwice (b : Nat) : Nat := if b < 128 then 2 * b else (2 * b) ^^^ 0x11B

/-- A byte times a constant below 16 in the field of AES. -/
def aesTimes (c b : Nat) : Nat :=
  (if c.testBit 0 then b else 0) ^^^ (if c.testBit 1 then aesTwice b else 0)
    ^^^ (if c.testBit 2 then aesTwice (aesTwice b) else 0) ^^^ (if c.testBit 3 then aesTwice (aesTwice (aesTwice b)) else 0)

/-- Bytes joined by exclusive or. -/
def xorBytes (a b : List Nat) : List Nat := List.zipWith (fun x y => x ^^^ y) a b

/-- The rows of a block, stored column by column, turned by their numbers, to the left or back. -/
def aesShift (back : Bool) (s : List Nat) : List Nat :=
  (List.range 16).map (fun i => s.getD (i % 4 + 4 * ((i / 4 + (if back then 4 - i % 4 else i % 4)) % 4)) 0)

/-- Each column times the circulant matrix whose first row is given. -/
def aesMix (row : List Nat) (s : List Nat) : List Nat :=
  (List.range 16).map (fun i => (List.range 4).foldl (fun v j =>
    v ^^^ aesTimes (row.getD ((j + 4 - i % 4) % 4) 0) (s.getD (i / 4 * 4 + j) 0)) 0)

/-- The words of the key schedule, the last first, from word `i` on. -/
def aesExpand : Nat → Nat → List (List Nat) → List (List Nat)
  | 0, _, ws => ws
  | n + 1, i, ws =>
    let prev := ws.getD 0 []
    let sub (w : List Nat) : List Nat := w.map (boxByte aesBox)
    let t := if i % 8 = 0 then xorBytes (sub (prev.rotateLeft 1)) [2 ^ (i / 8 - 1), 0, 0, 0]
      else if i % 8 = 4 then sub prev
      else prev
    aesExpand n (i + 1) (xorBytes (ws.getD 7 []) t :: ws)

/-- The 15 round keys of a key of 32 bytes. -/
def aesKeys (key : List Nat) : List (List Nat) :=
  let ws := (aesExpand 52 8 ((List.range 8).map (fun i => (key.drop (4 * i)).take 4)).reverse).reverse
  (List.range 15).map (fun r => ((ws.drop (4 * r)).take 4).flatten)

/-- Encrypts a block. -/
def aesEncrypt (key block : List Nat) : List Nat :=
  let ks := aesKeys key
  let sub (s : List Nat) : List Nat := aesShift false (s.map (boxByte aesBox))
  let s := (List.range 13).foldl (fun s r => xorBytes (aesMix [2, 3, 1, 1] (sub s)) (ks.getD (r + 1) []))
    (xorBytes block (ks.getD 0 []))
  xorBytes (sub s) (ks.getD 14 [])

/-- Decrypts a block. -/
def aesDecrypt (key block : List Nat) : List Nat :=
  let ks := aesKeys key
  let sub (s : List Nat) : List Nat := (aesShift true s).map (boxByte aesUnbox)
  let s := (List.range 13).foldl (fun s r => aesMix [14, 11, 13, 9] (xorBytes (sub s) (ks.getD (13 - r) [])))
    (xorBytes block (ks.getD 14 []))
  xorBytes (sub s) (ks.getD 0 [])

/-- A number as bytes, the low one first, and back. -/
def natBytes (n v : Nat) : List Nat := (List.range n).map (fun i => v / 2 ^ (8 * i) % 256)
def bytesNat (l : List Nat) : Nat := l.foldr (fun b v => b + 256 * v) 0

/-! ## XTS (IEEE 1619) -/

/-- The tweak of a block of a data unit: the unit's number under the second key, doubled for each block before. -/
def xtsTweak (key : BitVec 512) (unit block : Nat) : Nat :=
  (List.range block).foldl (fun t _ => if 2 * t < 2 ^ 128 then 2 * t else (2 * t - 2 ^ 128) ^^^ 0x87)
    (bytesNat (aesEncrypt (natBytes 32 (key.toNat / 2 ^ 256)) (natBytes 16 unit)))

/-- AES-256 XTS of one block: key pair, the first key in the low half; number of the data unit; number of the block in it. -/
def xtsEncrypt (key : BitVec 512) (unit block : Nat) (b : BitVec 128) : BitVec 128 :=
  let t := xtsTweak key unit block
  BitVec.ofNat 128 (bytesNat (aesEncrypt (natBytes 32 (key.toNat % 2 ^ 256)) (natBytes 16 (b.toNat ^^^ t))) ^^^ t)

/-- Its inverse. -/
def xtsDecrypt (key : BitVec 512) (unit block : Nat) (b : BitVec 128) : BitVec 128 :=
  let t := xtsTweak key unit block
  BitVec.ofNat 128 (bytesNat (aesDecrypt (natBytes 32 (key.toNat % 2 ^ 256)) (natBytes 16 (b.toNat ^^^ t))) ^^^ t)

/-! ## GCM -/

/-- A block as a number, its first byte the highest. -/
def bigNat (l : List Nat) : Nat := l.foldl (fun v b => 256 * v + b) 0

/-- The product of two blocks in the field of GCM. -/
def gcmTimes (x y : Nat) : Nat :=
  ((List.range 128).foldl (fun (zv : Nat × Nat) i =>
    (if x.testBit (127 - i) then zv.1 ^^^ zv.2 else zv.1, if zv.2 % 2 = 0 then zv.2 / 2 else (zv.2 / 2) ^^^ (0xE1 * 2 ^ 120))) (0, y)).1

/-- Opens what was sealed with AES-256-GCM under a nonce of 12 bytes, with no further data: none where the tag is wrong. -/
def gcmOpen (key nonce sealed_ tag : List Byte) : Option (List Byte) :=
  let nums (l : List Byte) : List Nat := l.map (·.toNat)
  let enc (b : List Nat) : List Nat := aesEncrypt (nums key) b
  let ctr (n : Nat) : List Nat := enc (nums nonce ++ (natBytes 4 n).reverse)
  let c := nums sealed_
  let n := ceilDiv c.length 16
  let piece (i : Nat) : List Nat := (c.drop (16 * i)).take 16
  let h := bigNat (enc (natBytes 16 0))
  let hash := (List.range n).foldl (fun y i => gcmTimes (y ^^^ bigNat (piece i ++ natBytes (16 - (piece i).length) 0)) h) 0
  let hash := gcmTimes (hash ^^^ (8 * c.length)) h
  if hash ^^^ bigNat (ctr 1) = bigNat (nums tag) then
    some ((List.range n).flatMap (fun i => (xorBytes (piece i) (ctr (i + 2))).map (BitVec.ofNat 8)))
  else none

/-! ## SHA3-256 (FIPS 202) -/

/-- The round constants of Keccak, and its rotations, that of lane `i` at bits [8i+7:8i]. -/
def keccakRc : List Nat :=
  [0x1, 0x8082, 0x800000000000808A, 0x8000000080008000, 0x808B, 0x80000001]
  ++ [0x8000000080008081, 0x8000000000008009, 0x8A, 0x88, 0x80008009, 0x8000000A]
  ++ [0x8000808B, 0x800000000000008B, 0x8000000000008089, 0x8000000000008003, 0x8000000000008002, 0x8000000000000080]
  ++ [0x800A, 0x800000008000000A, 0x8000000080008081, 0x8000000000008080, 0x80000001, 0x8000000080008008]
def keccakRot : Nat := 0x0E383D021208150F2D2927192B0A031437062C241B1C3E0100

/-- A lane of 64 bits turned left. -/
def rotLane (v n : Nat) : Nat := v * 2 ^ n % 2 ^ 64 + v * 2 ^ n / 2 ^ 64

/-- A round of Keccak on 25 lanes, lane x + 5 y. -/
def keccakRound (a : List Nat) (rc : Nat) : List Nat :=
  let l (x y : Nat) : Nat := a.getD (x + 5 * y) 0
  let c := (List.range 5).map (fun x => l x 0 ^^^ l x 1 ^^^ l x 2 ^^^ l x 3 ^^^ l x 4)
  let d := (List.range 5).map (fun x => c.getD ((x + 4) % 5) 0 ^^^ rotLane (c.getD ((x + 1) % 5) 0) 1)
  let e := (List.range 25).map (fun i => a.getD i 0 ^^^ d.getD (i % 5) 0)
  let b := (List.range 25).map (fun i =>
    let j := (i % 5 + 3 * (i / 5)) % 5 + 5 * (i % 5)
    rotLane (e.getD j 0) (boxByte keccakRot j))
  (List.range 25).map (fun i =>
    let at_ (k : Nat) : Nat := b.getD ((i + k) % 5 + 5 * (i / 5)) 0
    let v := b.getD i 0 ^^^ ((2 ^ 64 - 1 - at_ 1) &&& at_ 2)
    if i = 0 then v ^^^ rc else v)

/-- Keccak-f of 1,600 bits. -/
def keccak (a : List Nat) : List Nat := keccakRc.foldl keccakRound a

/-- SHA3-256 of a string of bytes, its first byte at bits [7:0]. -/
def sha3 (bs : List Byte) : BitVec 256 :=
  let n := bs.length / 136 + 1
  let padded := bs.map (·.toNat) ++ (if bs.length % 136 = 135 then [0x86] else 6 :: List.replicate (134 - bs.length % 136) 0 ++ [0x80])
  let out := (List.range n).foldl (fun a i =>
    keccak ((List.range 25).map (fun j => a.getD j 0 ^^^
      (if j < 17 then bytesNat ((padded.drop (136 * i + 8 * j)).take 8) else 0)))) (List.replicate 25 0)
  BitVec.ofNat 256 ((List.range 4).map (fun j => out.getD j 0 * 2 ^ (64 * j))).sum

end Sys2Proof.Machine
end

