-- ==== Sys2Proof/Machine/Physical.lean ====
section
/-! DEFINITION. Physical memory under the memory-controller keys, with its poison marks, zero marks and side words
(R192, R317, R324, R368, R369), and the violation log (R375). -/

namespace Sys2Proof.Machine

open Sys2Proof

/-- The 16 bytes of a unit as memory holds them. -/
def unitBytes (s : State) (u : Nat) : List Byte := cellsRead s.mem (16 * u) 16

/-- Encryption of a unit at the memory controller (R317); key 0 stores plaintext. -/
def ctlEncrypt (p : Partition) (key u : Nat) (b : BitVec 128) : BitVec 128 :=
  if key = 0 then b else xtsEncrypt (fget p.memKeys key 0) u 0 b

/-- Decryption of a unit at the memory controller (R317). -/
def ctlDecrypt (p : Partition) (key u : Nat) (b : BitVec 128) : BitVec 128 :=
  if key = 0 then b else xtsDecrypt (fget p.memKeys key 0) u 0 b

/-- A unit as read under a key: zeros where its line is marked zero (R324), its bytes where the key is the one it was
written under, else what the controller decrypts (R317). -/
def unitRead (s : State) (p : Partition) (key u : Nat) : List Byte :=
  if setMem s.zeroLines (u / 8) then leBytes 16 0
  else if fget s.unitKey u 0 = key then unitBytes s u
  else leBytes 16 (ctlDecrypt p key u (ctlEncrypt p (fget s.unitKey u 0) u
    (BitVec.ofNat 128 (leNat (unitBytes s u))))).toNat

/-- A byte as read under a key. -/
def physByte (s : State) (p : Partition) (key pa : Nat) : Byte :=
  if setMem s.zeroLines (pa / 128) then 0
  else if fget s.unitKey (pa / 16) 0 = key then cellRead s.mem pa
  else (unitRead s p key (pa / 16)).getD (pa % 16) 0

/-- A run of bytes as read under a key. -/
def physRead (s : State) (p : Partition) (key pa n : Nat) : List Byte :=
  (List.range n).map (fun i => physByte s p key (pa + i))

/-- Whether any unit of a run of bytes is poisoned. -/
def physPoisoned (s : State) (pa n : Nat) : Bool :=
  (List.range n).any (fun i => setMem s.poison ((pa + i) / 16))

/-- The first write to a line marked zero takes the mark away and leaves its units under the writer's key (R324). -/
def unmarkZero (s : State) (key line : Nat) : State :=
  if setMem s.zeroLines line then
    { s with
      zeroLines := setDel s.zeroLines line
      unitKey := (List.range 8).foldl (fun m i => fset m (8 * line + i) key 0) s.unitKey
      mem := cellsWrite s.mem (128 * line) (leBytes 128 0) }
  else s

/-- Brings a unit under a key before part of it is written: what it reads as under that key (R317). -/
def rekeyUnit (s : State) (p : Partition) (key u : Nat) : State :=
  if fget s.unitKey u 0 = key then s
  else { s with
    mem := cellsWrite s.mem (16 * u) (unitRead s p key u)
    unitKey := fset s.unitKey u key 0 }

/-- Writes a byte under a key. -/
def physWriteByte (s : State) (p : Partition) (key pa : Nat) (b : Byte) : State :=
  let s := rekeyUnit (unmarkZero s key (pa / 128)) p key (pa / 16)
  { s with mem := cellWrite s.mem pa b }

/-- Marks a unit as poisoned (R368). -/
def poisonUnit (s : State) (u : Nat) : State := { s with poison := setAdd s.poison u }

/-- Clears the mark of a unit (R369). -/
def unpoisonUnit (s : State) (u : Nat) : State := { s with poison := setDel s.poison u }

/-- Writes a run of bytes and poison marks under a key: a byte that is none is a poison mark with no data written (R182,
R371); a write that covers a whole unit clears its mark, a partial one keeps it (R369). -/
def physWrite (s : State) (p : Partition) (key pa : Nat) (bs : List (Nat × Option Byte)) : State :=
  let s1 := bs.foldl (fun s e => match e.2 with
    | some b => physWriteByte s p key (pa + e.1) b
    | none => s) s
  let units := bs.foldl (fun l e => setAdd l ((pa + e.1) / 16)) []
  units.foldl (fun s u =>
    if bs.any (fun e => decide ((pa + e.1) / 16 = u) && e.2.isNone) then poisonUnit s u
    else if (List.range 16).all (fun i => bs.any (fun e => decide (pa + e.1 = 16 * u + i))) then unpoisonUnit s u
    else s) s1

/-- Bytes at rising places from 0, as `physWrite` takes them. -/
def placed (bs : List Byte) : List (Nat × Option Byte) :=
  (List.range bs.length).zip (bs.map some)

/-- The side word and last writer of a line (R192). -/
def sideOf (s : State) (line : Nat) : Word × Nat := fget s.sides line (0, 0)

/-- Clears a frame as a scrub does (R324): its lines marked zero, side words 0, nothing poisoned. -/
def scrubFrame (s : State) (f : Nat) : State :=
  { s with
    mem := s.mem.filter (fun e => e.1 / 4096 != f)
    sides := s.sides.filter (fun e => e.1 / 32 != f)
    sidePoison := s.sidePoison.filter (fun l => l / 32 != f)
    poison := s.poison.filter (fun u => u / 256 != f)
    unitKey := s.unitKey.filter (fun e => e.1 / 256 != f)
    zeroLines := (List.range 32).foldl (fun l i => setAdd l (32 * f + i)) s.zeroLines }

/-- Logs a violation in a partition (R375). -/
def logViolation (s : State) (p kind oct agent regNo : Nat) (addr : DWord) : State :=
  modPart s p (fun q => { q with
    log := fput q.log (q.logCount.toNat % 64) ⟨kind, oct, agent, regNo, addr⟩
    logCount := q.logCount + 1 })

/-- The octant and the number of the general-purpose core that a step acts for; where the event does not name it, by a free number
(R375, notes/assumptions/49.md). -/
def gpcAgent (s : State) (pn n : Nat) : Nat × Nat :=
  let os := octsOf (partOf s pn)
  s.writer.getD (os.getD (n % max 1 os.length) 0, n / 8 % 256)

/-- Logs what a general-purpose core did wrong, and gives it an error response (R375). -/
def gpcViolation (s : State) (pn kind reg : Nat) (addr : DWord) : State :=
  let (k, s) := takeFree s
  let a := gpcAgent s pn (Config.freeDWord k).toNat
  modPart (logViolation s pn kind a.1 a.2 reg addr) pn (fun p => { p with gpcErr := true })

/-- A step that acts for a general-purpose core (R375). -/
def asWriter (oct core : Nat) (s : State) (f : State → Host.Outcome State Fault Refusal) : Host.Outcome State Fault Refusal :=
  match f { s with writer := some (oct, core) } with
  | .next t => .next { t with writer := none }
  | o => o

end Sys2Proof.Machine
end

