-- ==== Sys2Proof/Machine/Llc.lean ====
section
/-! DEFINITION. The LLC slices (R292, R294): which lines they hold and fetch, their sets, and the counts of fills from HBM
(R325, R326). A line's data is the memory behind it (notes/assumptions/5.md). -/

namespace Sys2Proof.Machine

open Sys2Proof

/-- Counts a line fill from HBM in the frame's counters (R325) and by octant (R326); the frame may be considered for migration again
(R327). -/
def countFill (e : FrameEntry) (home frameOct : Nat) : FrameEntry :=
  { e with
    accl := if home = frameOct then satAdd e.accl 1 0xFFFF else e.accl
    accr := if home = frameOct then e.accr else satAdd e.accr 1 0xFFFF
    fills := fput e.fills home (fget e.fills home 0 + 1)
    passedOver := false }

/-- The record of a line that a partition's slices hold or fetch (R292, R294). -/
def lineKept (p : Partition) (asid line : Nat) : Option LlcLine :=
  match p.llc.find? (fun e => e.asid == asid && e.line == line) with
  | some e => some e
  | none => p.fetches.find? (fun e => e.asid == asid && e.line == line)

/-- Whether an LLC slice holds a line. -/
def llcHas (p : Partition) (asid line : Nat) : Bool := p.llc.any (fun e => e.asid == asid && e.line == line)

/-- The physical line behind a line of a slice. -/
def LlcLine.phys (e : LlcLine) : Nat := 32 * e.frame + e.line % 32

/-- Marks the lines of the slices that stand for a physical line as written. -/
def markDirty (s : State) (pn pline : Nat) : State :=
  modPart s pn (fun p => { p with llc := p.llc.map (fun e => if e.phys = pline then { e with dirty := true } else e) })

/-- A line has left its slice. One that was written goes back under the keys as they are now; one that was not leaves what memory
held, which a key that has changed since decrypts to other bytes (R317). -/
def settleLine (s : State) (pn : Nat) (e : LlcLine) : State :=
  if e.dirty then s
  else e.oldKeys.foldl (fun s k => (List.range 8).foldl (fun s i =>
    let u := 8 * e.phys + i
    if fget s.unitKey u 0 = k.1 then
      let b := xtsEncrypt k.2 u 0 (BitVec.ofNat 128 (leNat (unitBytes s u)))
      { s with mem := cellsWrite s.mem (16 * u) (leBytes 16 (ctlDecrypt (partOf s pn) k.1 u b).toNat) }
    else s) s) s

/-- Takes the lines that pass a test out of the slices (R292, R320, R324). -/
def dropLlc (s : State) (pn : Nat) (f : LlcLine → Bool) : State :=
  let gone := (partOf s pn).llc.filter f
  gone.foldl (fun s e => settleLine s pn e) (modPart s pn (fun p => { p with llc := p.llc.filter (fun e => !f e) }))

/-- Takes every L1's copy of a line in a partition away. -/
def l1Forget (s : State) (pn asid line : Nat) : State :=
  { s with cores := s.cores.map (fun e => if partOfCore s e.1 = pn ∧ e.2.l1.any (fun l => l.asid == asid && l.line == line)
    then (e.1, { e.2 with l1 := e.2.l1.filter (fun l => !(l.asid == asid && l.line == line)) }) else e) }

/-- Makes room for a line in its set of 24 ways (R292): which line leaves is not defined, nor how an address selects its set, so
free values say. A slice with fewer than 24 lines has room in every set. The L1s give up the line that leaves, so that what an L1
holds its slice holds too (notes/assumptions/5.md). -/
def llcRoom (s : State) (pn : Nat) (e : LlcLine) : State :=
  let here := (partOf s pn).llc.filter (fun l => l.slice == e.slice)
  if here.length < 24 then s
  else
    let set (l : LlcLine) : Nat := Config.llcSet l.asid l.line % 16384
    let ways := here.filter (fun l => set l == set e)
    if ways.length < 24 then s
    else
      let (k, s) := takeFree s
      match ways[Config.freeNat k % ways.length]? with
      | some v => dropLlc (l1Forget s pn v.asid v.line) pn (fun l => l == v)
      | none => s

/-- A line has come to its slice from HBM: the fill is counted, and the line takes its place in its set (R292, R294, R325). -/
def lineCame (s : State) (pn : Nat) (e : LlcLine) : State :=
  let s := modFrame s e.frame (fun f => countFill f (e.slice / 16) (e.frame / Config.framesPerOctant))
  modPart (llcRoom s pn e) pn (fun p => { p with
    llc := p.llc ++ ([e] : List LlcLine), fetches := p.fetches.filter (fun f => !(f.asid == e.asid && f.line == e.line)) })

/-- A walker reads a page-table line through the LLC (R319). -/
def walkLine (s : State) (pn slice pline : Nat) : State :=
  if (partOf s pn).llc.any (fun e => e.slice == slice && e.asid == 4096 && e.line == pline) then s
  else lineCame s pn ⟨slice, 4096, pline, pline / 32, 0, false, []⟩

/-- Drops every copy of a frame's lines, in L1s and the LLC (R324). -/
def dropFrameLines (s : State) (pn frame : Nat) : State :=
  let s := { s with cores := s.cores.map (fun e => if partOfCore s e.1 = pn then
    (e.1, { e.2 with l1 := e.2.l1.filter (fun l => l.frame != frame) }) else e) }
  dropLlc s pn (fun e => e.frame == frame)

end Sys2Proof.Machine
end

