-- ==== Sys2Proof/Machine/Translate.lean ====
section
/-! DEFINITION. Address translation (R313 to R322): the home slice, the page-table walk, the frame-state checks of a fill,
and the TLBs. `resolve` says what a translation gives without changing anything; `fillTlb` makes the fill. -/

namespace Sys2Proof.Machine

open Sys2Proof

/-- The home of a virtual address (R293): 16 × octant + slice. -/
def homeOf (p : Partition) (va : Nat) : Nat :=
  let v := reg p .parInterleave
  let octs := bitsSet 8 (field v 7 0)
  let g := (va / 4096) % 2 ^ 45
  let h := if v.getLsbD 16
    then (g % 4096) ^^^ (g / 2 ^ 12 % 4096) ^^^ (g / 2 ^ 24 % 4096) ^^^ (g / 2 ^ 36 % 512)
    else g
  let n := h % (16 * octs.length)
  16 * octs.getD (n / 16) 0 + n % 16

/-- The ASID in which a tenant's access is translated (R313); none where the tenant has no private space. -/
def asidFor (p : Partition) (tenant va : Nat) : Option Nat :=
  if va.testBit 56 then some 0
  else
    let a := field (reg p .llcTasid tenant) 11 0
    if a = 0 then none else some a

/-- The tenant whose private space an ASID is (R313); 0 for ASID 0 or one that no tenant has. -/
def tenantOfAsid (p : Partition) (asid : Nat) : Nat :=
  if asid = 0 then 0
  else ((List.range 256).find? (fun t => field (reg p .llcTasid t) 11 0 == asid)).getD 0

/-- The fields of a leaf (R316). -/
def leafKey (e : DWord) : Nat := field e 62 55
def leafMt (e : DWord) : Nat := field e 54 53
def leafPeer (e : DWord) : Bool := e.getLsbD 52
def leafFb (e : DWord) : Bool := e.getLsbD 51
def leafFrame (e : DWord) : Nat := field e 45 12
def leafX (e : DWord) : Bool := e.getLsbD 2
def leafW (e : DWord) : Bool := e.getLsbD 1
def leafR (e : DWord) : Bool := e.getLsbD 0
def leafTroy (e : DWord) : Bool := leafMt e == 3

/-- How a walk ends (R315, R316): at a leaf with the page it maps, or at a fault, with the frame outside the partition or
the poisoned entry that made it one. -/
inductive WalkEnd where
  | leaf (e : DWord) (vpn pages at_ : Nat) (cache : List WalkEntry)
  | fault (outside : Option Nat) (poisoned : Option Nat)
deriving DecidableEq, Repr

/-- A page-table entry in memory, none where it is poisoned (R319, R369). -/
def readEntry (s : State) (p : Partition) (pa : Nat) : Option DWord :=
  if physPoisoned s pa 8 then none else some (BitVec.ofNat 64 (leNat (physRead s p 0 pa 8)))

/-- The first frame of a page that does not lie in the HBM of the partition's octants (R316). The octants of a page's first and
last frame are those of all its frames, since no page is larger than an octant's HBM. -/
def frameOutside (p : Partition) (e : DWord) (pages : Nat) : Option Nat :=
  if leafPeer e then none
  else if !frameIn p (leafFrame e) then some (leafFrame e)
  else if frameIn p (leafFrame e + pages - 1) then none
  else some ((leafFrame e / Config.framesPerOctant + 1) * Config.framesPerOctant)

/-- Whether a leaf is legal for its page size, beside the place of its frames (R316); the low bits of the frame field are judged
for a peer's leaf too. -/
def leafLegal (e : DWord) (pages : Nat) : Bool :=
  e.getLsbD 63 && field e 49 46 == 0 && field e 9 3 == 0 && (leafMt e == 0 || leafMt e == 3)
    && !(leafPeer e && (leafFb e || leafTroy e)) && !(leafTroy e && leafW e) && leafFrame e % pages == 0

/-- The end of a walk at a leaf entry, checked (R316). -/
def leafEnd (p : Partition) (e : DWord) (vpn pages pa : Nat) (cache : List WalkEntry) : WalkEnd :=
  match (if e.getLsbD 63 then frameOutside p e pages else none) with
  | some f => .fault (some f) none
  | none => if leafLegal e pages then .leaf e vpn pages pa cache else .fault none none

/-- A walk from a table of level `n` on (R315), with the addresses of the entries read, the last first. -/
def walkFrom (s : State) (p : Partition) (slice asid vpn : Nat) :
    Nat → Nat → List WalkEntry → List Nat → WalkEnd × List Nat
  | 0, table, cache, seen =>
    let idx := vpn % 512
    let head := idx / 16 * 16
    let first := readEntry s p (4096 * table + 8 * head)
    let own := readEntry s p (4096 * table + 8 * idx)
    let joined (e : Option DWord) : Bool := (e.map (fun v => v.getLsbD 11)).getD false
    if joined first || joined own then
      (match first with
        | some e => leafEnd p e (vpn / 16 * 16) 16 (4096 * table + 8 * head) cache
        | none => .fault none (some (4096 * table + 8 * head)), (4096 * table + 8 * head) :: seen)
    else (match own with
      | some e => leafEnd p e vpn 1 (4096 * table + 8 * idx) cache
      | none => .fault none (some (4096 * table + 8 * idx)), (4096 * table + 8 * idx) :: seen)
  | n + 1, table, cache, seen =>
    let up := vpn / 512 ^ (n + 1)
    match p.walkCache.find? (fun w => w.slice == slice && w.asid == asid && w.level == n && w.idx == up) with
    | some w => walkFrom s p slice asid vpn n w.table cache seen
    | none =>
      let pa := 4096 * table + 8 * (up % 512)
      match readEntry s p pa with
      | none => (.fault none (some pa), pa :: seen)
      | some e =>
        if !e.getLsbD 63 then (.fault none none, pa :: seen)
        else if e.getLsbD 10 then
          (if n + 1 = 1 ∨ n + 1 = 2 then leafEnd p e (up * 512 ^ (n + 1)) (512 ^ (n + 1)) pa cache
            else .fault none none, pa :: seen)
        else if field e 62 46 != 0 || field e 11 0 != 0 then (.fault none none, pa :: seen)
        else walkFrom s p slice asid vpn n (leafFrame e) (⟨slice, asid, n, up, leafFrame e⟩ :: cache) (pa :: seen)

/-- A walk with the addresses of the entries that it reads (R314, R315). -/
def walkReads (s : State) (p : Partition) (slice asid vpn : Nat) : WalkEnd × List Nat :=
  match p.walkCache.find? (fun w => w.slice == slice && w.asid == asid && w.level == 4 && w.idx == 0) with
  | some w => walkFrom s p slice asid vpn 4 w.table [] []
  | none =>
    let pa := (reg p .llcRootbase).toNat + 8 * asid
    match readEntry s p pa with
    | none => (.fault none (some pa), [pa])
    | some e =>
      if !e.getLsbD 63 || field e 62 46 != 0 || field e 11 0 != 0 then (.fault none none, [pa])
      else walkFrom s p slice asid vpn 4 (leafFrame e) [⟨slice, asid, 4, 0, leafFrame e⟩] [pa]

/-- How a walk ends. -/
def walk (s : State) (p : Partition) (slice asid vpn : Nat) : WalkEnd := (walkReads s p slice asid vpn).1

/-! ## Causes of a failing translation (R275, R276) -/

def cMisaligned : Nat := 0x0301
def cNoncanon : Nat := 0x0302
def cPage : Nat := 0x0303
def cPerm : Nat := 0x0304
def cSynonymWrite : Nat := 0x0305
def cKeySynonym : Nat := 0x0306
def cScratchRange : Nat := 0x0307
def cTroyLoad : Nat := 0x0701
def cTroyStore : Nat := 0x0702
def cTroyEngine : Nat := 0x0703
def cTroySynonym : Nat := 0x0707

/-- The cause that one frame gives a fill (R322), with whether it is logged. -/
def frameCause (f : FrameEntry) (tenant asid vpn : Nat) (e : DWord) : Option (Nat × Bool) :=
  if f.state < 2 || f.save || (f.state == 3 && f.tenant != tenant) then some (cPage, true)
  else if f.tlbref > 0 && (f.keyid != leafKey e || f.troy != leafTroy e) then
    some (if f.troy || leafTroy e then cTroySynonym else cKeySynonym, false)
  else if f.tlbref > 0 && f.tag != (asid, vpn) && (f.wr || leafW e) then some (cSynonymWrite, false)
  else none

/-- The place of a fill's cause in the list of R322. -/
def fillRank (c : Nat) : Nat :=
  if c = cPage then 50 else if c = cTroySynonym ∨ c = cKeySynonym then 51 else 52

/-- The first failing cause of a fill over all the frames that the page covers (R322). -/
def fillCause (s : State) (asid vpn pages : Nat) (e : DWord) (tenant : Nat) : Option (Nat × Bool) :=
  if leafPeer e then none
  else
    ((List.range pages).filterMap (fun i => frameCause (frameOf s (leafFrame e + i)) tenant asid (vpn + i) e)).foldl
      (fun best c => match best with
        | none => some c
        | some b => if fillRank c.1 < fillRank b.1 then some c else some b) none

/-- What an access does with a page. -/
inductive Acc where
  | fetch | read | write
deriving DecidableEq, Repr

/-- The permission cause of a leaf (R180 step 4, R316). No code is fetched from a Troy page, whose lines go to fills alone (R268,
notes/assumptions/63.md). -/
def permCause (e : DWord) : Acc → Option Nat
  | .fetch => if leafX e && !leafTroy e then none else some cPerm
  | .read => if leafR e then none else some cPerm
  | .write => if leafTroy e then some cTroyStore else if leafW e then none else some cPerm

/-- The TLB entry of a slice that translates a page, if there is one. -/
def tlbFind (p : Partition) (slice asid vpn : Nat) : Option TlbEntry :=
  p.tlb.find? (fun t => t.slice == slice && t.asid == asid && decide (t.vpn ≤ vpn) && decide (vpn < t.vpn + t.pages))

/-- The tenant whose frames an ASID reaches: 0 for ASID 0 (R322). -/
def ownerOf (tenant asid : Nat) : Nat := if asid = 0 then 0 else tenant

/-- The failing cause of an access to a line with its place in the order of R180; none where the access is good. A fill's
causes stand at step 5, after the permission of the leaf that the walk ends in. A line that its slice holds or fetches is judged
by the leaf recorded with it, since only a miss is translated (R292). -/
def lineCause (s : State) (p : Partition) (tenant asid line : Nat) (k : Acc) : Option (Nat × Nat) :=
  let slice := homeOf p (128 * line)
  let perm (e : DWord) (rest : Option (Nat × Nat)) : Option (Nat × Nat) :=
    match permCause e k with
    | some c => some (40, c)
    | none => match rest with
      | some r => some r
      | none => if leafTroy e && k == .read then some (60, cTroyLoad) else none
  match lineKept p asid line with
  | some l => perm l.leaf none
  | none => match tlbFind p slice asid (line / 32) with
    | some t => perm t.leaf none
    | none =>
      match walk s p slice asid (line / 32) with
      | .fault _ _ => some (30, cPage)
      | .leaf e v n _ _ => perm e ((fillCause s asid v n e (ownerOf tenant asid)).map (fun c => (fillRank c.1, c.1)))

/-- The frame and leaf that serve a line: those recorded with it in its slice (R292), else those of the slice's TLB entry, else
those that a walk would fill. -/
def resolve (s : State) (p : Partition) (asid line : Nat) : Option (Nat × DWord) :=
  let slice := homeOf p (128 * line)
  match lineKept p asid line with
  | some l => some (l.frame, l.leaf)
  | none => match tlbFind p slice asid (line / 32) with
    | some t => some (leafFrame t.leaf + (line / 32 - t.vpn), t.leaf)
    | none =>
      match walk s p slice asid (line / 32) with
      | .fault _ _ => none
      | .leaf e v n _ _ =>
        if (fillCause s asid v n e (tenantOfAsid p asid)).isSome then none else some (leafFrame e + (line / 32 - v), e)

/-- One frame's entry after a fill (R322). -/
def frameFilled (f : FrameEntry) (tenant asid vpn : Nat) (e : DWord) : FrameEntry :=
  let g := if f.state = 2 then { f with state := 3, tenant := tenant } else f
  if f.tlbref = 0 then
    { g with keyid := leafKey e, troy := leafTroy e, tag := (asid, vpn), multi := false, wr := leafW e, tlbref := 1 }
  else
    { g with multi := g.multi || g.tag != (asid, vpn), wr := g.wr || leafW e, tlbref := g.tlbref + 1 }

/-- One frame's entry after a TLB entry that maps it is dropped (R322). -/
def frameDropped (f : FrameEntry) : FrameEntry :=
  if f.tlbref ≤ 1 then { f with tlbref := 0, keyid := 0, troy := false, tag := (0, 0), wr := false, multi := false }
  else { f with tlbref := f.tlbref - 1 }

/-- Applies a change to every frame that a TLB entry maps. -/
def overFrames (s : State) (t : TlbEntry) (f : Nat → FrameEntry → FrameEntry) : State :=
  if leafPeer t.leaf then s
  else (List.range t.pages).foldl (fun s i => modFrame s (leafFrame t.leaf + i) (f i)) s

/-- Drops TLB entries that pass a test (R320, R322). -/
def dropTlb (s : State) (pn : Nat) (f : TlbEntry → Bool) : State :=
  let gone := (partOf s pn).tlb.filter f
  let s := modPart s pn (fun p => { p with tlb := p.tlb.filter (fun t => !f t) })
  gone.foldl (fun s t => overFrames s t (fun _ e => frameDropped e)) s

/-- Makes room in a slice's TLB of 4,096 entries (R319): which entry leaves is not defined, so a free value says. -/
def tlbRoom (s : State) (pn slice : Nat) : State :=
  let here := (partOf s pn).tlb.filter (fun t => t.slice == slice)
  if here.length < 4096 then s
  else
    let (k, s) := takeFree s
    match here[Config.freeNat k % here.length]? with
    | some v => dropTlb s pn (fun t => t == v)
    | none => s

/-- Keeps the walk cache of a slice at 256 entries (R319), the oldest leaving. -/
def trimWalkCache (l : List WalkEntry) (slice : Nat) : List WalkEntry :=
  l.filter (fun w => w.slice != slice) ++ (l.filter (fun w => w.slice == slice)).take 256

/-- The tags under which the L1s of a partition hold a physical line, as the directory has them (R291). -/
def tagsOfLine (s : State) (pn pline : Nat) : List (Nat × Nat) :=
  s.cores.flatMap (fun e => if partOfCore s e.1 = pn then
    (e.2.l1.filter (fun l => 32 * l.frame + l.line % 32 == pline)).map (fun l => (l.asid, l.line)) else [])

/-- After a write at the home, every other core's copy is to be invalidated (R291). -/
def invalidateOthers (s : State) (pn : Nat) (writer : Option Nat) (asid line : Nat) : State :=
  { s with cores := s.cores.map (fun e =>
    if some e.1 != writer && partOfCore s e.1 == pn
        && e.2.l1.any (fun l => l.asid == asid && l.line == line) && !e.2.invals.any (fun i => i == (asid, line))
    then (e.1, { e.2 with invals := e.2.invals ++ [(asid, line)] })
    else e) }

/-- Bytes written at a physical address of a partition: file-backed frames turn DIRTY, and L1 copies are to be invalidated
(R291, R328, R417). -/
def physStore (s : State) (pn pa : Nat) (bs : List (Nat × Option Byte)) : State :=
  let s := physWrite s (partOf s pn) 0 pa bs
  let touched (n : Nat) : List Nat := bs.foldl (fun l e => setAdd l ((pa + e.1) / n)) []
  let s := (touched 4096).foldl (fun s f =>
    if (frameOf s f).fb then modFrame s f (fun e => { e with dirty := true }) else s) s
  (touched 128).foldl (fun s l => (tagsOfLine s pn l).foldl (fun s t => invalidateOthers s pn none t.1 t.2) (markDirty s pn l)) s

/-- The octant and agent numbers of a violation by a core, or by a port or another agent of an octant (R375). -/
def agentOf (who : Option Nat) (oct : Nat) : Nat × Nat :=
  match who with
  | some c => (octOf c, c % Config.coresPerOctant)
  | none => (oct, 0xFF)

/-- A fill for an access of a core, or of another agent (R319, R322): walks, checks and updates the frames and adds the TLB
entry, sets D at a fill for a store, or logs what the walk found. A page that the TLB translates is left as it is, and so is one
whose leaf lacks the permission, since that cause comes before the fill's (R180). -/
def fillTlb (s : State) (pn : Nat) (who : Option Nat) (tenant asid vpn : Nat) (k : Acc) : State :=
  let p := partOf s pn
  let slice := homeOf p (4096 * vpn)
  match tlbFind p slice asid vpn with
  | some _ => s
  | none =>
    let (oct, agent) := agentOf who (slice / 16)
    let r := walkReads s p slice asid vpn
    let s := r.2.reverse.foldl (fun s pa => walkLine s pn slice (pa / 128)) s
    match r.1 with
    | .fault (some f) _ => logViolation s pn 2 oct agent 0 (BitVec.ofNat 64 f)
    | .fault none _ => s
    | .leaf e v n at_ cache =>
      let owner := ownerOf tenant asid
      if (permCause e k).isSome then s
      else match fillCause s asid v n e owner with
      | some (_, true) =>
        let i := ((List.range n).find? (fun i =>
          (frameCause (frameOf s (leafFrame e + i)) owner asid (v + i) e).any (·.2))).getD 0
        logViolation s pn 3 oct agent 0 (BitVec.ofNat 64 (leafFrame e + i))
      | some (_, false) => s
      | none =>
        let t : TlbEntry := ⟨slice, asid, v, n, e, at_⟩
        let s := tlbRoom s pn slice
        let s := overFrames s t (fun i f => frameFilled f owner asid (v + i) e)
        let s := modPart s pn (fun p => { p with
          tlb := p.tlb ++ [t]
          walkCache := trimWalkCache (cache ++ p.walkCache) slice })
        if k == .write && !e.getLsbD 50 then
          physStore s pn at_ (placed (bytesOf64 (e ||| (1#64 <<< 50))))
        else s

/-- The poisoned page-table entry that a walk would meet, if any (R369). -/
def walkPoison (s : State) (p : Partition) (asid vpn : Nat) : Option Nat :=
  let slice := homeOf p (4096 * vpn)
  match tlbFind p slice asid vpn with
  | some _ => none
  | none => match walk s p slice asid vpn with
    | .fault _ q => q
    | .leaf _ _ _ _ _ => none

end Sys2Proof.Machine
end

