-- ==== Sys2Proof/Machine/EngineData.lean ====
section
/-! DEFINITION. Where an engine operation writes: the rows of a tile operation (R231), the destination lines that it owns
until it has written them (R216), and the units in which its writes become visible (R218). -/

namespace Sys2Proof.Machine

open Sys2Proof

/-- The destination address or offset of row `i` (R231). -/
def tileDst (d : TileDesc) (i : Nat) : Nat :=
  (d.dst + (if d.idxDst then d.idx.getD i 0 else i) * d.dstride) % 2 ^ 64

/-- The source address or offset of row `i` (R231). -/
def tileSrc (d : TileDesc) (i : Nat) : Nat :=
  (d.src + (if d.idxDst || d.idx.isEmpty then i else d.idx.getD i 0) * d.sstride) % 2 ^ 64

/-- The last row of a tile operation that writes a destination byte, with the byte's place in the row (R231). -/
def tileCover (d : TileDesc) (a : Nat) : Option (Nat × Nat) :=
  ((List.range d.rows).reverse.find? (fun i => decide (tileDst d i ≤ a) && decide (a < tileDst d i + d.rowBytes))).map
    (fun i => (i, a - tileDst d i))

/-- The pieces of `size` bytes that a run of bytes touches, by number. -/
def pieces (size a n : Nat) : List Nat :=
  (List.range (ceilDiv (a % size + n) size)).map (fun i => a / size + i)

/-- The destination pieces of a tile operation. -/
def tilePieces (d : TileDesc) (size : Nat) : List Nat :=
  (List.range d.rows).foldl (fun l i => (pieces size (tileDst d i) d.rowBytes).foldl setAdd l) []

/-- The ASID under which an operation's address is tagged (R313). -/
def opAsid (op : EngineOp) (va : Nat) : Nat := if va.testBit 56 then 0 else op.asid

/-- The rows of an operation on a core that copies them, and where it reads and writes them (R231, R235, R264). -/
def opPlaces (core : Nat) (op : EngineOp) : Option (TileDesc × Place × Place) :=
  match op.kind with
  | .tile d src dst => some (d, src, dst)
  | .queueFill _ _ d _ => some (d, .memory, .scratch [core])
  | .move d _ dc _ _ _ => some (d, .scratch [core], .scratch [dc])
  | _ => none

/-- The elements of K of a type code's family (R149). -/
def kOf (fmt : Nat) : Nat := if fmt = 8 then 256 else if fmt = 1 ∨ fmt = 2 then 64 else 128

/-- The units that an operation writes one by one: lines of memory; granules of scratchpad, times 256 plus the core; the
columns of a tile and then its side store in pieces of 128 bytes (R164, R216, R218, R231). -/
def opUnits (core : Nat) (op : EngineOp) : List Nat :=
  match opPlaces core op with
  | some (d, _, .memory) => tilePieces d 128
  | some (d, _, .scratch cs) => cs.flatMap (fun c => (tilePieces d 16).map (fun g => 256 * g + c))
  | none => match op.kind with
    | .fill _ _ side _ fmt _ _ => List.range (256 + (if side = 0 then 0 else 4 * (kOf fmt / 32)))
    | _ => []

/-- Whether an operation owns a line of memory: it will write it and has not yet (R216). -/
def opOwns (op : EngineOp) (asid line : Nat) : Bool :=
  match op.kind with
  | .tile d _ .memory =>
    opAsid op (128 * line) == asid && op.failed.isNone && !setMem op.done line
      && (List.range d.rows).any (fun i =>
        decide (tileDst d i / 128 ≤ line) && decide (line ≤ (tileDst d i + d.rowBytes - 1) / 128))
  | .drain _ _ _ 1 base stride _ rows =>
    opAsid op (128 * line) == asid
      && rows.any (fun r => decide ((base + r.m * stride) / 128 ≤ line)
        && decide (line ≤ (base + r.m * stride + r.bytes.length - 1) / 128))
  | _ => false

/-- The lines of memory that an operation writes in all (R216). -/
def opDstLines (op : EngineOp) : List Nat :=
  match op.kind with
  | .tile d _ .memory => tilePieces d 128
  | .drain _ _ _ 1 base stride _ rows =>
    rows.foldl (fun l r => (pieces 128 ((base + r.m * stride) % 2 ^ 64) r.bytes.length).foldl setAdd l) []
  | _ => []

/-- Whether any engine operation of a partition owns a line, beside those that a test leaves out: it is still to write it, or
its store to a peer has not left (R216, R318). -/
def lineOwned (s : State) (pn asid line : Nat) (skip : Nat → Nat → Bool) : Bool :=
  s.cores.any (fun e => partOfCore s e.1 == pn
    && (e.2.engines.any (fun o => !skip e.1 o.1 && opOwns o.2 asid line)
      || e.2.storeQ.any (fun r => r.warp == 64 && r.asid == asid && r.line == line)))

/-- Whether an accepted packet of a FINAL chunk owns a line, beside those of one stream (R342). -/
def streamOwns (p : Partition) (but : Option Nat) (asid line : Nat) : Bool :=
  p.inn.any (fun e => some e.1 != but && e.2.held.any (fun h => h.asid == asid && h.lines.any (· == line)))

/-- Whether some operation or packet owns a line, so that an access to it is held (R216, R342). -/
def lineHeldByOthers (s : State) (pn asid line : Nat) : Bool :=
  lineOwned s pn asid line (fun _ _ => false) || streamOwns (partOf s pn) none asid line

/-- Whether an operation issued before `order`, or an accepted packet, owns a line, or a store of an operation to a peer's line has not
left (R216, R318, R342). -/
def ownedBefore (s : State) (pn asid line order : Nat) : Bool :=
  s.cores.any (fun e => partOfCore s e.1 == pn
    && (e.2.engines.any (fun o => decide (o.2.order < order) && opOwns o.2 asid line)
      || e.2.storeQ.any (fun r => r.warp == 64 && r.asid == asid && r.line == line)))
    || streamOwns (partOf s pn) none asid line

/-- The side of the recall at issue: no L1 of the partition keeps a copy of a line that an engine takes (R216). -/
def recallLines (s : State) (pn : Nat) (lines : List (Nat × Nat)) : State :=
  { s with cores := s.cores.map (fun e =>
    if partOfCore s e.1 = pn then
      (e.1, { e.2 with l1 := e.2.l1.filter (fun l => !lines.any (fun r => r.1 == l.asid && r.2 == l.line)) })
    else e) }

end Sys2Proof.Machine
end

