-- ==== Sys2Proof/Machine/Home.lean ====
section
/-! DEFINITION. Memory as the parties see it: the events of R373, the core's view through its L1 and its waiting stores
(R205, R208, R290), the home slice (R291, R292), line fetches and peer lines (R294, R346), and counters (R242). -/

namespace Sys2Proof.Machine

open Sys2Proof

/-! ## Lines at their slices (R292, R294) -/

/-- The physical byte and leaf of a virtual address under an ASID. -/
def physOf (s : State) (p : Partition) (asid va : Nat) : Option (Nat × DWord) :=
  (resolve s p asid (va / 128)).map (fun t => (4096 * t.1 + va % 4096, t.2))

/-- Whether the home slice of an address has been lost with a router (R378). -/
def homeLost (s : State) (p : Partition) (va : Nat) : Bool :=
  !s.slicesDown.isEmpty && s.slicesDown.any (fun e => 16 * e.1 + e.2 == homeOf p va)

/-- Whether a line's leaf names a peer's frame, and its rank (R318). -/
def peerOf (s : State) (p : Partition) (asid va : Nat) : Option Nat :=
  match resolve s p asid (va / 128) with
  | some t => if leafPeer t.2 then some (leafFrame t.2 % 2 ^ 16) else none
  | none => none

/-- What a miss at the home slice fetches (R294): nothing for a line that the slice holds or fetches, that lies on a peer, or
whose home is lost. -/
def lineMiss (s : State) (p : Partition) (asid line : Nat) : Option LlcLine :=
  if homeLost s p (128 * line) || (lineKept p asid line).isSome then none
  else match resolve s p asid line with
    | none => none
    | some t => if leafPeer t.2 then none else some ⟨homeOf p (128 * line), asid, line, t.1, t.2, false, []⟩

/-- A miss at the home slice starts a fetch, or shares the one under way (R294). -/
def llcTouch (s : State) (pn asid line : Nat) : State :=
  match lineMiss s (partOf s pn) asid line with
  | none => s
  | some e => modPart s pn (fun p => { p with fetches := p.fetches ++ ([e] : List LlcLine) })

/-- A line as an agent whose waiting the model does not show finds it: fetched at once where it was missing (R294, R325). -/
def llcNow (s : State) (pn asid line : Nat) : State :=
  let p := partOf s pn
  match (if llcHas p asid line then none else p.fetches.find? (fun f => f.asid == asid && f.line == line)) with
  | some e => lineCame s pn e
  | none => match lineMiss s p asid line with
    | none => s
    | some e => lineCame s pn e

/-- Whether a line's fetch is still under way (R294). -/
def lineFetching (p : Partition) (asid line : Nat) : Bool := p.fetches.any (fun f => f.asid == asid && f.line == line)

/-- Whether a line has still to come to its home slice before an access can perform there (R294). -/
def lineAway (s : State) (p : Partition) (asid line : Nat) : Bool :=
  lineFetching p asid line || (lineMiss s p asid line).isSome

/-- Whether stores to a line's frame are held by the write-back scanner (R328). -/
def lineHeldByScan (s : State) (p : Partition) (asid line : Nat) : Bool :=
  match resolve s p asid line with
  | some t => !leafPeer t.2 && (frameOf s t.1).wp
  | none => false

/-- Whether a file-backed block must still be read before the line can be used (R294, R328). -/
def lineUnread (s : State) (p : Partition) (asid line : Nat) : Bool :=
  match resolve s p asid line with
  | some t => !leafPeer t.2 && (frameOf s t.1).fb && !(frameOf s t.1).rd
  | none => false

/-- A write at the home slice of a line with its frame and leaf (R291): fixes the bytes, sets DIRTY of a file-backed frame (R328),
and invalidates the other L1 copies. -/
def homeWriteAt (s : State) (pn : Nat) (writer : Option Nat) (asid line : Nat) (t : Nat × DWord)
    (bs : List (Nat × Option Byte)) : State :=
  let s := markDirty (physWrite s (partOf s pn) (leafKey t.2) (4096 * t.1 + 128 * (line % 32)) bs) pn (32 * t.1 + line % 32)
  let s := if (frameOf s t.1).fb then modFrame s t.1 (fun e => { e with dirty := true }) else s
  invalidateOthers s pn writer asid line

/-- A write at the home slice of a line (R291). A write to a lost home leaves its uncorrectable line as it is (R378), and a peer's
leaf names no frame here (R318). -/
def homeWrite (s : State) (pn : Nat) (writer : Option Nat) (asid line : Nat) (bs : List (Nat × Option Byte)) : State :=
  let p := partOf s pn
  match (if homeLost s p (128 * line) then none else resolve s p asid line) with
  | none => s
  | some t => if leafPeer t.2 then s else homeWriteAt s pn writer asid line t bs

/-! ## System accesses and events -/

/-- The lines of a run of bytes that no slice holds or fetches, and the pages that they miss on (R292, R319). -/
def missedPages (p : Partition) (asid va n : Nat) : List Nat :=
  (((pieces 128 va n).filter (fun l => (lineKept p asid l).isNone)).map (· / 32)).dedup

/-- A port, the dispatcher or Assize touches lines of an ASID (notes/assumptions/16.md): its pages are walked and filled and its
lines fetched (R292, R294, R319, R322). It cannot go on, as the Bool says, where an access to a line fails (R180, R268, R270), where a
line lies on a peer or still waits for its block, or, for a write, where the write-back scanner holds it (R328). -/
def sysTouch (s : State) (pn asid va n : Nat) (k : Acc) : State × Bool :=
  let tenant := tenantOfAsid (partOf s pn) asid
  let s := (missedPages (partOf s pn) asid va n).foldl (fun s v => fillTlb s pn none tenant asid v k) s
  let p := partOf s pn
  let lines := pieces 128 va n
  let bad (l : Nat) : Bool := (lineCause s p tenant asid l k).isSome || (peerOf s p asid (128 * l)).isSome
    || lineUnread s p asid l || (k == .write && lineHeldByScan s p asid l)
  if lines.any bad then (s, false) else (lines.foldl (fun s l => llcNow s pn asid l) s, true)

/-- Writes bytes at a virtual address of an ASID for a system agent, at the home slices of its lines, and says whether it could. -/
def sysWrite (s : State) (pn asid va : Nat) (bs : List Byte) : State × Bool :=
  let r := sysTouch s pn asid va bs.length .write
  if r.2 then
    ((pieces 128 va bs.length).foldl (fun s l => homeWrite s pn none asid l
      (((placed bs).filter (fun e => (va + e.1) / 128 == l)).map (fun e => ((va + e.1) % 128, e.2)))) r.1, true)
  else r

/-- The entries of a ring register (R311, R373): 0 while it is off. -/
def ringSize (v : DWord) : Nat := if field v 63 60 = 0 then 0 else 2 ^ field v 63 60

/-- Entries waiting between the indices of a ring (R311). -/
def ringUsed (idx : DWord) : Nat := (field idx 63 32 + 2 ^ 32 - field idx 31 0) % 2 ^ 32

/-- The place of the record at TAIL of a ring (R311, R373). -/
def ringTail (p : Partition) (ring idx : RegName) (bytes : Nat) : Nat :=
  4096 * field (reg p ring) 56 12 + bytes * (field (reg p idx) 63 32 % ringSize (reg p ring))

/-- Writes a record at TAIL of a ring and advances TAIL, and says whether it could: not where the ring is full, off or not mapped. -/
def ringPush (s : State) (pn : Nat) (ring idx : RegName) (recd : List DWord) : State × Bool :=
  let i := reg (partOf s pn) idx
  if ringUsed i ≥ ringSize (reg (partOf s pn) ring) then (s, false)
  else
    let r := sysWrite s pn 0 (ringTail (partOf s pn) ring idx (8 * recd.length)) (recd.flatMap bytesOf64)
    if r.2 then (modPart r.1 pn (fun p => setReg p idx 0 (setField i 63 32 (field i 63 32 + 1))), true) else r

/-- Writes held records while their ring takes them, in order. -/
def flushHeld (s : State) (pn : Nat) (ring idx : RegName) : List (List DWord) → State × List (List DWord)
  | [] => (s, [])
  | r :: rs =>
    let t := ringPush s pn ring idx r
    if t.2 then flushHeld t.1 pn ring idx rs else (t.1, r :: rs)

/-- Writes the event records that Assize holds, while the event ring takes them (R373). Its own accesses to that ring raise no
events (notes/assumptions/16.md). -/
def flushEvents (s : State) (pn : Nat) : State :=
  if (partOf s pn).restart.isSome then s
  else
    let (s, rest) := flushHeld s pn .aszEvq .aszEvqi (partOf s pn).heldEvents
    modPart s pn (fun p => { p with heldEvents := rest })

/-- Raises an event to Ryukel (R373, R374): the record goes behind those that Assize holds; beyond 256 held it is dropped
and counted. Its time is the PTP time, a free value. -/
def postEvent (s : State) (pn code oct core : Nat) (launch : BitVec 32) (addr detail : DWord) : State :=
  let (k, s) := takeFree s
  let w0 := BitVec.ofNat 64 (code * 2 ^ 48 + oct * 2 ^ 40 + core * 2 ^ 32 + launch.toNat)
  let recd := [w0, addr, detail, Config.freeDWord k]
  let p := partOf s pn
  if p.heldEvents.length ≥ 256 then
    modPart s pn (fun p => setReg p .aszEvlost 0 (BitVec.ofNat 64 (((reg p .aszEvlost).toNat + 1) % 2 ^ 48)))
  else
    flushEvents (modPart s pn (fun p => { p with heldEvents := p.heldEvents ++ [recd] })) pn

/-- Raises an event about a core. -/
def coreEvent (s : State) (code c : Nat) (launch : BitVec 32) (addr detail : DWord) : State :=
  postEvent s (partOfCore s c) code (octOf c) (c % Config.coresPerOctant) launch addr detail

/-- REL_UE for a structure of an octant, 0xFF for none (R373, R374). -/
def raiseUe (s : State) (pn oct addr structure_ : Nat) : State :=
  postEvent s pn 0x0904 oct 0xFF 0 (BitVec.ofNat 64 addr) (BitVec.ofNat 64 structure_)

/-- REL_UE for a structure, found by a core (R373, R374). -/
def coreUe (s : State) (c : Nat) (launch : BitVec 32) (addr structure_ : Nat) : State :=
  coreEvent s 0x0904 c launch (BitVec.ofNat 64 addr) (BitVec.ofNat 64 structure_)

/-- REL_UE for HBM at a physical address (R368, R369). -/
def hbmUe (s : State) (pn pa : Nat) : State := raiseUe s pn (pa / 4096 / Config.framesPerOctant) pa 5

/-- Who makes an access: a core with the launch identifier, or none for another agent. -/
abbrev Who := Option (Nat × BitVec 32)

/-- An access whose home is lost raises REL_HOME_LOST (R374, R378): the octant is the lost slice's, and a core of another octant has
no number there (notes/assumptions/25.md). -/
def reportLost (s : State) (pn : Nat) (who : Who) (va : Nat) : State :=
  let h := homeOf (partOf s pn) va
  let core := match who with
    | some (c, _) => if octOf c = h / 16 then c % Config.coresPerOctant else 0xFF
    | none => 0xFF
  if homeLost s (partOf s pn) va then
    postEvent s pn 0x090E (h / 16) core ((who.map (·.2)).getD 0) (BitVec.ofNat 64 va) (BitVec.ofNat 64 (h % 16))
  else s

/-- A walk that a poisoned page-table entry ends raises REL_UE (R369). -/
def reportWalk (s : State) (pn asid vpn : Nat) : State :=
  match walkPoison s (partOf s pn) asid vpn with
  | some pa => hbmUe s pn pa
  | none => s

/-- A miss on a page is walked and filled (R319, R322); a poisoned page-table entry raises REL_UE (R369). -/
def prepPage (s : State) (pn : Nat) (who : Who) (tenant asid : Nat) (k : Acc) (vpn : Nat) : State :=
  fillTlb (reportWalk s pn asid vpn) pn (who.map (·.1)) tenant asid vpn k

/-- Each lost home among the pages of a run of bytes is reported at the run's first address in the page (R374, R378). -/
def reportRun (s : State) (pn : Nat) (who : Who) (va n : Nat) : State :=
  if s.slicesDown.isEmpty then s else (pieces 4096 va n).foldl (fun s v => reportLost s pn who (max va (4096 * v))) s

/-- What a system agent's access to a run of bytes raises before it is made: for poisoned page-table entries and lost homes (R369,
R378). -/
def sysReport (s : State) (pn asid va n : Nat) : State :=
  reportRun ((missedPages (partOf s pn) asid va n).foldl (fun s v => reportWalk s pn asid v) s) pn none va n

/-- Before an access of a core or another agent, the lines that no slice holds or fetches are translated; misses on one page share
a walk (R292, R319). Each lost home is reported at its page's first address (R374, R378). -/
def prepRuns (s : State) (pn : Nat) (who : Who) (tenant : Nat) (k : Acc) (runs : List (Nat × Nat)) : State :=
  let runs := runs.filter (fun r => decide (r.1 < 2 ^ 57))
  let s := if s.slicesDown.isEmpty then s else
    ((runs.flatMap (fun r => (pieces 4096 r.1 r.2).map (fun v => (v, max r.1 (4096 * v))))).foldl
      (fun (m : FMap Nat) e => if (fget? m e.1).isSome then m else fput m e.1 e.2) []).foldl (fun s e => reportLost s pn who e.2) s
  let p := partOf s pn
  let pages := (runs.flatMap (fun r => pieces 128 r.1 r.2)).filterMap (fun l => match asidFor p tenant (128 * l) with
    | none => none
    | some a => if decide (l ≥ 2 ^ 50) || (lineKept p a l).isSome then none else some (a, l / 32))
  pages.dedup.foldl (fun s e => prepPage s pn who tenant e.1 k e.2) s

/-- The same for one run of bytes. -/
def prepRange (s : State) (pn : Nat) (who : Who) (tenant : Nat) (k : Acc) (va n : Nat) : State :=
  prepRuns s pn who tenant k [(va, n)]

/-- The failing cause of an access to a run of bytes, with its place in the order of R180: an address whose bits [63:57]
are not zero, then every line that the run touches (R180). -/
def rangeCause (s : State) (p : Partition) (tenant va n : Nat) (k : Acc) : Option (Nat × Nat) :=
  if va ≥ 2 ^ 57 then some (20, cNoncanon)
  else
    (pieces 128 va n).foldl (fun best l =>
      let c := if l ≥ 2 ^ 50 then some (20, cNoncanon) else
        match asidFor p tenant (128 * l) with
        | none => some (30, cPage)
        | some asid => lineCause s p tenant asid l k
      match best, c with
      | none, c => c
      | some b, some c => if c.1 < b.1 then some c else some b
      | some b, none => some b) none

/-! ## The home slice -/

/-- A byte at its home, none where it is held as uncorrectable (R182). Peer lines are read from their answers; a lost home
gives uncorrectable bytes (R378). -/
def homeByte (s : State) (p : Partition) (asid va : Nat) : Option Byte × Bool :=
  match resolve s p asid (va / 128) with
  | none => (some 0, false)
  | some t =>
    if homeLost s p va then (some 0, true)
    else if leafPeer t.2 then
      match p.peerLines.find? (fun l => l.rank == leafFrame t.2 % 2 ^ 16 && l.line == va / 128 && l.rsp.isSome) with
      | some l => match l.rsp with
        | some (some bs) => (some (bs.getD (va % 128) 0), false)
        | _ => (some 0, true)
      | none => (some 0, true)
    else
      let pa := 4096 * t.1 + va % 4096
      (some (physByte s p (leafKey t.2) pa), setMem s.poison (pa / 16))

/-- A byte at its home with its poison mark. -/
def homeRead (s : State) (p : Partition) (asid va : Nat) : Byte × Bool :=
  let r := homeByte s p asid va
  (r.1.getD 0, r.2)

/-- The byte that the latest of a core's waiting stores wrote at a place (R208); none where none of them did. -/
def queuedByte (q : List StoreReq) (asid va : Nat) : Option Byte :=
  q.foldl (fun acc r =>
    if r.asid = asid ∧ r.line = va / 128 then
      match r.bytes.find? (fun e => e.1 == va % 128 && e.2.isSome) with
      | some e => e.2
      | none => acc
    else acc) none

/-- The poison mark of a byte's unit after the waiting stores of a core: a store's mark sets it, a store that covers the whole
unit clears it, and a partial one leaves it (R369). -/
def queuedMark (q : List StoreReq) (asid va : Nat) (mark : Bool) : Bool :=
  let u := va % 128 / 16
  q.foldl (fun m r =>
    if r.asid = asid ∧ r.line = va / 128 then
      if r.bytes.any (fun e => e.1 / 16 == u && e.2.isNone) then true
      else if (List.range 16).all (fun i => r.bytes.any (fun e => e.1 == 16 * u + i)) then false
      else m
    else m) mark

/-- The waiting stores of a core that the warp in a slot sees: those that have reached the L1, then its own that have not (R208,
R210). Without a slot, those of the first kind. -/
def seenStores (k : Core) (slot : Option Nat) : List StoreReq :=
  k.storeQ.filter (fun r => !r.early) ++ k.storeQ.filter (fun r => r.early && some r.warp == slot)

/-- A byte as a warp of a core sees it, with its poison mark: the latest store that it sees, then the L1's copy, then the home
(R205, R208, R290). -/
def coreRead (s : State) (p : Partition) (c : Nat) (slot : Option Nat) (asid va : Nat) : Byte × Bool :=
  let k := coreOf s c
  let base := match k.l1.find? (fun l => l.asid == asid && l.line == va / 128) with
    | some l => (l.bytes.getD (va % 128) 0, setMem l.poison (va % 128 / 16))
    | none => homeRead s p asid va
  let q := seenStores k slot
  ((queuedByte q asid va).getD base.1, queuedMark q asid va base.2)

/-- A run of bytes as the L1 of a core has it. -/
def coreReadN (s : State) (p : Partition) (c asid va n : Nat) : List (Byte × Bool) :=
  (List.range n).map (fun i => coreRead s p c none asid (va + i))

/-- A run of bytes at its home. -/
def homeReadN (s : State) (p : Partition) (asid va n : Nat) : List (Byte × Bool) :=
  (List.range n).map (fun i => homeRead s p asid (va + i))

/-- The bytes that a system agent reads (notes/assumptions/16.md), none where it cannot or one is uncorrectable, and the state after
it has touched their lines. -/
def sysRead (s : State) (pn asid va n : Nat) : Option (List Byte) × State :=
  let r := sysTouch (sysReport s pn asid va n) pn asid va n .read
  let bs := homeReadN r.1 (partOf r.1 pn) asid va n
  (if r.2 && !bs.any (·.2) then some (bs.map (·.1)) else none, r.1)

/-- Whether a line holds divergence stack entries (R19, R301): of a launch's area, or where a warp's DSTK has been set to. Of those,
only the ones beyond the four on chip are in memory. -/
def stackLine (s : State) (asid line : Nat) : Bool :=
  let within (l : Launch) (va n : Nat) : Bool :=
    l.status != .ended && (if va.testBit 56 then 0 else l.asid) == asid && decide (va / 128 ≤ line) && decide (128 * line < va + n)
  let of_ (w : Warp) : Bool := (fget? s.launches w.launch).any (fun l => within l (w.dstk.toNat % 2 ^ 57) (stackStride l.record))
  s.launches.any (fun e => within e.2 (recDsbase e.2.record) ((recNwarps e.2.record + 9216) * stackStride e.2.record))
    || s.cores.any (fun e => e.2.warps.any (fun w => of_ w.2) || e.2.launches.any (fun h => h.2.savedWarps.any (fun w => of_ w.2)))

/-- Whether an L1 may hold a line: not a Troy line, not a peer's, not one of a divergence stack (R291). -/
def l1May (s : State) (p : Partition) (asid line : Nat) : Bool :=
  match resolve s p asid line with
  | some t => !leafTroy t.2 && !leafPeer t.2 && !stackLine s asid line
  | none => false

/-- Makes room in the L1's set of 16 ways (R290): which line leaves is not defined, so a free value says. -/
def l1Room (s : State) (c line : Nat) : State :=
  let here := (coreOf s c).l1.filter (fun l => l.line % 128 == line % 128)
  if here.length < 16 then s
  else
    let (k, s) := takeFree s
    match here[Config.freeNat k % here.length]? with
    | some v => modCore s c (fun k => { k with l1 := k.l1.filter (fun l => l != v) })
    | none => s

/-- A load brings its line into the L1 as the core sees it (R290). -/
def l1Fill (s : State) (pn c asid line : Nat) (row : Option (Nat × Word)) : State :=
  if (coreOf s c).l1.any (fun l => l.asid == asid && l.line == line) || !l1May s (partOf s pn) asid line then s
  else
    let s := l1Room s c line
    let bs := coreReadN s (partOf s pn) c asid (128 * line) 128
    let bad := (List.range 8).filter (fun u => ((bs.drop (16 * u)).take 16).any (·.2))
    let frame := ((resolve s (partOf s pn) asid line).map (·.1)).getD 0
    modCore s c (fun k => { k with l1 := k.l1 ++ [⟨asid, line, frame, bs.map (·.1), bad, row⟩] })

/-- Takes a core's copies of a line away. -/
def l1Drop (s : State) (c asid line : Nat) : State :=
  modCore s c (fun k => { k with l1 := k.l1.filter (fun l => !(l.asid == asid && l.line == line)) })

/-- A store updates the L1's copy where there is one; a copy so changed is no longer a whole row from the home (R194,
R290). -/
def l1Store (s : State) (c asid line : Nat) (bs : List (Nat × Option Byte)) : State :=
  modCore s c (fun k => { k with l1 := k.l1.map (fun l =>
    if l.asid = asid ∧ l.line = line then
      { l with
        bytes := bs.foldl (fun b e => match e.2 with
          | some v => b.set e.1 v
          | none => b) l.bytes
        poison := bs.foldl (fun q e => if e.2.isNone then setAdd q (e.1 / 16) else q)
          (l.poison.filter (fun u => !(List.range 16).all (fun i => bs.any (fun e => e.1 == 16 * u + i))))
        row := none }
    else l) })

/-- Stores of a core that have not reached its L1 do so in their order: they update its copies, every warp of the core sees them
from then on, and they stand behind those that reached it before (R205, R208, R290). -/
def reachL1 (s : State) (c : Nat) (f : StoreReq → Bool) : State :=
  let now := (coreOf s c).storeQ.filter (fun r => r.early && f r)
  let s := now.foldl (fun s r => l1Store s c r.asid r.line r.bytes) s
  if now.isEmpty then s else
  modCore s c (fun k => { k with storeQ := k.storeQ.filter (fun r => !(r.early && f r)) ++ now.map (fun r => { r with early := false }) })

/-- Every store of a warp reaches the L1: an access that the warp's earlier stores keep back at CORE waits for no more (R211). -/
def settleStores (s : State) (c slot : Nat) : State := reachL1 s c (fun r => r.warp == slot)

/-- Whether no invalidation is on its way to a set of cores, so that every write performed is visible there (R208, R291). -/
def invalsDoneOn (s : State) (cs : Nat → Bool) : Bool := s.cores.all (fun e => e.2.invals.isEmpty || !cs e.1)

/-- Whether no invalidation is on its way in a partition. -/
def invalsDone (s : State) (pn : Nat) : Bool := invalsDoneOn s (fun c => partOfCore s c == pn)

/-- Whether a core's earlier stores, of every warp, have performed and are visible in the partition (R206, R208). -/
def storesDone (s : State) (pn c : Nat) : Bool := (coreOf s c).storeQ.isEmpty && invalsDone s pn

/-- Whether a core has a store waiting to a line (R205, R216). -/
def storeWaits (s : State) (c asid line : Nat) : Bool :=
  (coreOf s c).storeQ.any (fun r => r.asid == asid && r.line == line)

/-- Whether every store to a peer has been acknowledged (R215, R346). -/
def peerStoresDone (p : Partition) : Bool :=
  p.out.all (fun e => e.2.unacked.all (fun u => decide (u.1.qp.toNat % 4096 ≠ 0xFFF)))

/-! ## Lines of peers (R294, R346) -/

/-- The number of an asker of peer lines: a path of a warp, an operation, or the waiting stores of a core. -/
def askPath (c slot : Nat) (sec : Bool) : Nat := 4 * (128 * c + 2 * slot + (if sec then 1 else 0))
def askOp (o : Nat) : Nat := 4 * o + 1
def askStore (c : Nat) : Nat := 4 * c + 2
/-- The dispatcher's number as an asker. -/
def askDisp : Nat := 3

/-- Uses up an asker's answers: every access goes to the peer anew (R294). -/
def dropAnswers (s : State) (pn who : Nat) : State :=
  if (partOf s pn).peerLines.isEmpty then s
  else modPart s pn (fun p => { p with peerLines := p.peerLines.filter (fun l => !(l.who == some who && l.rsp.isSome)) })

/-- Lines asked of peers by askers that have gone are asked by no one any more: those answered are dropped, the others when their
answers come (R346). -/
def forgetAsks (s : State) (pn : Nat) (gone : Nat → Bool) : State :=
  if (partOf s pn).peerLines.isEmpty then s
  else
    let mine (l : PeerLine) : Bool := l.who.any gone
    let left (l : PeerLine) : PeerLine := if mine l then { l with who := none } else l
    modPart s pn (fun p => { p with peerLines := (p.peerLines.filter (fun l => !(mine l && l.rsp.isSome))).map left })

/-! ## Partition counters (R242) -/

/-- A counter's value and the tenant it is assigned to. -/
def counterOf (p : Partition) (n : Nat) : BitVec 32 × Nat := fget p.counters n (0, 0)

/-- Adds to a counter modulo 2^32. -/
def counterAdd (s : State) (pn n : Nat) (v : BitVec 32) : State :=
  modPart s pn (fun p => { p with counters := fput p.counters n ((counterOf p n).1 + v, (counterOf p n).2) })

end Sys2Proof.Machine
end

