-- ==== Sys2Proof/Machine/Net.lean ====
section
/-! DEFINITION. The tables that a port reads by physical address: receive windows, trees and peers (R338, R341, R343,
R344), and routing registers (R23, R245). -/

namespace Sys2Proof.Machine

open Sys2Proof

/-- Words of a table entry at the table named by a base register (R338). -/
def tableEntry (s : State) (p : Partition) (base : RegName) (size i : Nat) : List DWord :=
  dwordsOf (physRead s p 0 (4096 * field (reg p base) 45 12 + size * i) size) (size / 8)

/-- The peer table entry of a rank (R344). -/
def peerEntry (s : State) (p : Partition) (rank : Nat) : List DWord := tableEntry s p .netPeerbase 32 rank

/-- Whether a rank is a peer (R344). -/
def isPeer (s : State) (p : Partition) (rank : Nat) : Bool :=
  decide (rank < 65535) && ((peerEntry s p rank).getD 0 0).getLsbD 63

/-- Whether a peer is fenced (R345), and whether its launch packets are accepted (R347). -/
def peerFenced (s : State) (p : Partition) (rank : Nat) : Bool := ((peerEntry s p rank).getD 0 0).getLsbD 62
def peerLok (s : State) (p : Partition) (rank : Nat) : Bool := ((peerEntry s p rank).getD 0 0).getLsbD 61

/-- The receive window table entry of a window number (R341). -/
def windowEntry (s : State) (p : Partition) (qp : Nat) : List DWord := tableEntry s p .netRwinbase 32 qp

/-- The tree table entry of a tree (R343), with its window W and its members. -/
def treeEntry (s : State) (p : Partition) (t : Nat) : List DWord := tableEntry s p .netTreebase 16 t
def treeOk (s : State) (p : Partition) (t tenant : Nat) : Bool :=
  ((treeEntry s p t).getD 0 0).getLsbD 63 && field ((treeEntry s p t).getD 0 0) 7 0 == tenant
def treeWindow (s : State) (p : Partition) (t : Nat) : Nat := field ((treeEntry s p t).getD 0 0) 62 57 + 1
def treeSize (s : State) (p : Partition) (t : Nat) : Nat := field ((treeEntry s p t).getD 0 0) 56 44 + 1

/-- Member `i` of a tree, read at the list's virtual address under its tenant's ASID (R343). -/
def treeRank (s : State) (p : Partition) (t i : Nat) : Nat :=
  let e := treeEntry s p t
  let va := (e.getD 1 0).toNat + 2 * i
  match asidFor p (field (e.getD 0 0) 7 0) va with
  | some a => leNat ((homeReadN s p a va 2).map (·.1))
  | none => 0

/-- The members of a tree. -/
def treeRanks (s : State) (p : Partition) (t : Nat) : List Nat := (List.range (treeSize s p t)).map (treeRank s p t)

/-! ## Packets on their way out (R340, R345, R346) -/

/-- The number of the stream to a rank with a window number (R340). -/
def streamKey (rank qp : Nat) : Nat := 8 * rank + qp % 8

/-- The sending half of a stream. -/
def streamOf (p : Partition) (k : Nat) : StreamOut := fget p.out k ⟨0, [], 0, 0, none, none⟩

/-- A packet with nothing in it, from this partition to a rank. -/
def packetTo (p : Partition) (type : SctType) (dst : Nat) (qp : BitVec 32) : SctPacket where
  ver := 1
  type := type
  first := false
  last := false
  final := false
  err := false
  src := field (reg p .netRank) 15 0
  dst := dst
  seq := 0
  qp := qp
  roff := 0
  tree := 0
  kind := 0
  op := 0
  etype := 0
  next := 0
  payload := []

/-! ## The header (R340) -/

/-- The code of a packet type (R340). -/
def typeCode : SctType → Nat
  | .data => 1
  | .ack => 2
  | .nak => 3
  | .launch => 4
  | .abort => 5
  | .state => 6
  | .lineReq => 7
  | .lineRsp => 8

/-- The packet type of a code, none for any other (R340). -/
def typeOfCode (n : Nat) : Option SctType :=
  [SctType.data, .ack, .nak, .launch, .abort, .state, .lineReq, .lineRsp].find? (fun t => typeCode t == n)

/-- The bytes of a packet as its datagram carries them (R340). -/
def encodeSct (k : SctPacket) : List Byte :=
  let bit (b : Bool) (n : Nat) : Nat := if b then 2 ^ n else 0
  leBytes 8 (k.ver * 2 ^ 60 + typeCode k.type * 2 ^ 56 + bit k.first 55 + bit k.last 54 + bit k.final 53 + bit k.err 52
      + k.src * 2 ^ 36 + k.dst * 2 ^ 20)
    ++ leBytes 8 (k.seq.toNat * 2 ^ 32 + k.qp.toNat) ++ bytesOf64 k.roff
    ++ leBytes 8 (k.tree * 2 ^ 40 + k.kind * 2 ^ 36 + k.op * 2 ^ 34 + k.etype * 2 ^ 32 + k.payload.length) ++ k.payload

/-- The packet of a datagram (R340); one of another version or type, or whose LEN is not the payload's, is none. Its zero fields are
not looked at (R9). -/
def decodeSct (bs : List Byte) (next : DWord) : Option SctPacket :=
  let w (i : Nat) : DWord := (dwordsOf bs 4).getD i 0
  match typeOfCode (field (w 0) 59 56) with
  | none => none
  | some t =>
    if decide (bs.length < 32) || field (w 0) 63 60 != 1 || field (w 3) 13 0 != bs.length - 32 then none
    else some {
      ver := 1
      type := t
      first := (w 0).getLsbD 55
      last := (w 0).getLsbD 54
      final := (w 0).getLsbD 53
      err := (w 0).getLsbD 52
      src := field (w 0) 51 36
      dst := field (w 0) 35 20
      seq := (w 1).extractLsb' 32 32
      qp := (w 1).extractLsb' 0 32
      roff := w 2
      tree := field (w 3) 47 40
      kind := field (w 3) 39 36
      op := field (w 3) 35 34
      etype := field (w 3) 33 32
      next := next
      payload := bs.drop 32 }

/-- The packets of a stream that may go out now (R312): none while it backs off; else those that follow the ones sent, up
to WIN on their way, where a packet of a FINAL chunk does not count, since it is acknowledged only with its chunk
(notes/assumptions/15.md). -/
def sendable (win : Nat) (o : StreamOut) : List (SctPacket × Option (Nat × Nat)) :=
  if o.backoff.isSome then []
  else
    let gone := ((o.unacked.take o.sent).filter (fun u => !u.1.final)).length
    (((o.unacked.drop o.sent).foldl (fun (acc : Nat × List (SctPacket × Option (Nat × Nat)) × Bool) u =>
      if acc.2.2 || (!u.1.final && decide (acc.1 ≥ win)) then (acc.1, acc.2.1, true)
      else (if u.1.final then acc.1 else acc.1 + 1, acc.2.1 ++ [u], false)) (gone, [], false)).2).1

/-- Sends what a stream may send (R312). -/
def pumpStream (s : State) (pn k : Nat) : State :=
  modPart s pn (fun p =>
    let o := streamOf p k
    let l := sendable (field (reg p .schNakcfg) 7 0) o
    { p with out := fput p.out k { o with sent := o.sent + l.length }, wire := p.wire ++ l.map (·.1) })

/-- Puts a packet on its stream under the next sequence number (R340). `owner` names the operation that its acknowledgment
is for. -/
def sendPacket (s : State) (pn : Nat) (k : SctPacket) (owner : Option (Nat × Nat)) : State :=
  let key := streamKey k.dst k.qp.toNat
  pumpStream (modPart s pn (fun p =>
    let o := streamOf p key
    { p with out := fput p.out key { o with
        next := o.next + 1
        unacked := o.unacked ++ ([({ k with seq := o.next }, owner)] : List (SctPacket × Option (Nat × Nat))) } })) pn key

/-- Sends a packet that belongs to no stream of this rank: an answer, or a line request (notes/assumptions/15.md). -/
def sendLoose (s : State) (pn : Nat) (k : SctPacket) : State :=
  modPart s pn (fun p => { p with wire := p.wire ++ ([k] : List SctPacket) })

/-- Whether a store to a line of a peer still awaits its acknowledgment (R205, R346). -/
def peerStoreOut (p : Partition) (rank line : Nat) : Bool :=
  p.out.any (fun e => e.2.unacked.any (fun u =>
    u.1.qp.toNat % 4096 == 0xFFF && u.1.dst == rank && u.1.roff.toNat == 128 * line))

/-- Whether a core's store to a line has still to be performed: it waits, or its peer has not acknowledged it (R205, R318). -/
def storePending (s : State) (p : Partition) (c asid line : Nat) : Bool :=
  storeWaits s c asid line || (match peerOf s p asid (128 * line) with
    | some r => peerStoreOut p r line
    | none => false)

/-- Whether a core may ask for a line of a peer now: its own stores to it have been acknowledged and nothing else asked of it is under
way (R346). A peer that is not valid or is fenced is not asked: its lines read as uncorrectable (R345). -/
def askDue (s : State) (p : Partition) (c asid line : Nat) : Bool :=
  match peerOf s p asid (128 * line) with
  | none => false
  | some r => !p.peerLines.any (fun l => l.rank == r && l.line == line) && !storePending s p c asid line
      && isPeer s p r && !peerFenced s p r

/-- Asks a peer for a line on behalf of an asker, where its core may (R346). -/
def askLine (s : State) (pn c who asid line : Nat) : State :=
  let p := partOf s pn
  match peerOf s p asid (128 * line) with
  | none => s
  | some r =>
    if !askDue s p c asid line then s
    else
      sendLoose (modPart s pn (fun p => { p with
        peerLines := p.peerLines ++ ([⟨some who, asid, r, line, none⟩] : List PeerLine) })) pn
        { packetTo p .lineReq r 0xFFF with roff := BitVec.ofNat 64 (128 * line) }

/-- Whether a line on a peer is still to be answered to an asker (R294, R346). -/
def lineUnanswered (s : State) (p : Partition) (c who asid line : Nat) : Bool :=
  match peerOf s p asid (128 * line) with
  | none => false
  | some r =>
    isPeer s p r && !peerFenced s p r
      && (storePending s p c asid line
        || !p.peerLines.any (fun l => l.rank == r && l.line == line && l.who == some who && l.rsp.isSome))

/-- A store of a whole line goes to a peer; the answers of the line that were not used yet are old from now on (R205, R346). -/
def sendPeerLine (s : State) (pn asid rank line : Nat) (bs : List Byte) : State :=
  let s := modPart s pn (fun p => { p with
    peerLines := p.peerLines.filter (fun l => !(l.rank == rank && l.line == line && l.rsp.isSome))
    peerOut := (p.peerOut.filter (fun e => peerStoreOut p e.2.1 e.2.2)) ++ ([(asid, rank, line)] : List (Nat × Nat × Nat)) })
  sendPacket s pn { packetTo (partOf s pn) .data rank 0xFFF with
    first := true, last := true, roff := BitVec.ofNat 64 (128 * line), payload := bs } none

/-- The answer of a peer's line that stands ready, none for a failed one. -/
def peerAnswer (p : Partition) (rank line : Nat) : Option (List Byte) :=
  ((p.peerLines.find? (fun l => l.rank == rank && l.line == line && l.rsp.isSome)).bind (·.rsp)).join

/-- Changes the answer of a peer's line: what an atomic or a row write has made of it at the home slice, before it goes back
(R189, R195). -/
def setAnswer (s : State) (pn rank line : Nat) (bs : List (Nat × Option Byte)) : State :=
  modPart s pn (fun p => { p with peerLines := p.peerLines.map (fun l =>
    if l.rank = rank ∧ l.line = line then
      { l with rsp := l.rsp.map (fun r => r.map (fun b => bs.foldl (fun b e => match e.2 with
        | some v => b.set e.1 v
        | none => b) b)) }
    else l) })

/-! ## Routing registers (R23, R245) -/

def rteValid (v : DWord) : Bool := v.getLsbD 63
def rteRank (v : DWord) : Nat := field v 55 40
def rteCore (v : DWord) : Nat := field v 39 32
def rteQp (v : DWord) : Nat := field v 31 0

/-- Whether RTESET refuses a value (R245). -/
def rteBad (s : State) (p : Partition) (v : DWord) : Bool :=
  rteValid v && (field v 62 56 != 0 || (rteRank v != 0xFFFF && !isPeer s p (rteRank v))
    || (rteRank v == 0xFFFF && !coreIn p (rteCore v)))

/-- Writes a routing register; its reserved bits keep no value (R9). -/
def setRte (w : Warp) (n : Nat) (v : DWord) : Warp :=
  { w with rte := w.rte.set (n % 8) (setField v 62 56 0) (Nat.mod_lt _ (by decide)) }

/-- A routing register. -/
def rteOf (w : Warp) (n : Nat) : DWord := w.rte[n % 8]'(Nat.mod_lt _ (by decide))

/-- ENG_ROUTE_BAD and ENG_ROUTE_NONE (R276). -/
def cRouteNone : Nat := 0x0508
def cRouteBad : Nat := 0x0509

end Sys2Proof.Machine
end

