-- ==== Sys2Proof/Machine/Rows.lean ====
section
/-! DEFINITION. Pool rows and their references (R12 to R14, R82 to R85), and the save area (R360 to R363). A reference held
in a hand-off slot or a directory entry is a number: a pool row below 24,576, a spill slot from there on. -/

namespace Sys2Proof.Machine

open Sys2Proof

/-- Rows of a core's pool (R24). -/
def poolRows : Nat := 24576

/-- The map entry that a reference number stands for. -/
def entryOfRef (r : Nat) : MapEntry := if r < poolRows then .resident r else .spilt (r - poolRows)

/-- The reference number of a map entry; none where it is UNMAPPED. -/
def refOfEntry : MapEntry → Option Nat
  | .unmapped => none
  | .resident r => some r
  | .spilt k => some (poolRows + k)

/-- A name's map entry (R11). -/
def nameOf (w : Warp) (n : Nat) : MapEntry := fget w.names n .unmapped

/-- Replaces a name's map entry, UNMAPPED ones being unlisted (R11). -/
def setName (w : Warp) (n : Nat) (e : MapEntry) : Warp := { w with names := fset w.names n e .unmapped }

/-! ## The save area (R361) -/

/-- The items in a tenant's save area. -/
def saveOf (p : Partition) (t : Nat) : FMap SaveItem := ((p.saves.find? (fun e => e.1 == t)).map (·.2)).getD []

/-- Replaces a tenant's save area's items. -/
def setSave (p : Partition) (t : Nat) (m : FMap SaveItem) : Partition := { p with saves := fput p.saves t m }

/-- The slot size of an item (R361). -/
def itemBytes : SaveItem → Nat
  | .row _ _ _ => 256
  | .unit _ _ => 36864
  | .fifo _ _ => 128
  | .warp _ _ _ => 8192
  | .tile _ _ _ => 36864

/-- The number of the slot that an item takes: of a row the lowest free one that a map word can name in its 15 bits (R11); other
items are numbered behind them. -/
def saveSlot (m : FMap SaveItem) (i : SaveItem) : Option Nat :=
  match i with
  | .row _ _ _ => ffree (m.filter (fun e => decide (e.1 < 32768))) 32768
  | _ => some (max 32768 ((m.getLast?.map (·.1 + 1)).getD 0))

/-- Whether a tenant's area has room for an item more (R361). -/
def saveRoom (p : Partition) (t : Nat) (i : SaveItem) : Bool :=
  decide (((saveOf p t).map (fun e => itemBytes e.2)).sum + itemBytes i ≤ 4096 * field (reg p .parSave t) 63 44)
    && (saveSlot (saveOf p t) i).isSome

/-- Puts an item into a slot of a tenant's area. -/
def saveItem (s : State) (pn t : Nat) (i : SaveItem) : Option (Nat × State) :=
  let p := partOf s pn
  match saveRoom p t i, saveSlot (saveOf p t) i with
  | true, some k => some (k, setPart s pn (setSave p t (fput (saveOf p t) k i)))
  | _, _ => none

/-- Takes an item out of a tenant's area. -/
def unsaveItem (s : State) (pn t k : Nat) : State :=
  modPart s pn (fun p => setSave p t (fdel (saveOf p t) k))

/-- Whether an item is a launch's own state that returns whole when the launch resumes: a unit, a FIFO, a warp. -/
def wholeItem (l : Nat) : SaveItem → Bool
  | .unit _ k => k == l
  | .fifo _ k => k == l
  | .warp _ k _ => k == l
  | _ => false

/-- Takes a launch's units, FIFOs and warps out of the save areas of a partition. -/
def dropWhole (s : State) (pn l : Nat) : State :=
  modPart s pn (fun p => { p with saves := p.saves.map (fun e => (e.1, e.2.filter (fun i => !wholeItem l i.2))) })

/-- The row in a spill slot. -/
def spilledRow (s : State) (pn t k : Nat) : PoolRow :=
  match fget? (saveOf (partOf s pn) t) k with
  | some (.row _ _ r) => r
  | _ => freeRow

/-! ## References -/

/-- The row that a reference number names, with its count, in the pool or in a spill slot. -/
def refRow (s : State) (c tenant ref : Nat) : PoolRow :=
  if ref < poolRows then rowOf (coreOf s c) ref else spilledRow s (partOfCore s c) tenant (ref - poolRows)

/-- Replaces the row that a reference number names. -/
def setRefRow (s : State) (c tenant ref : Nat) (r : PoolRow) : State :=
  if ref < poolRows then modCore s c (fun k => setRow k ref r)
  else modPart s (partOfCore s c) (fun p =>
    let k := ref - poolRows
    match fget? (saveOf p tenant) k with
    | some (.row c' l _) => setSave p tenant (if r.count = 0 then fdel (saveOf p tenant) k
        else fput (saveOf p tenant) k (.row c' l r))
    | _ => p)

/-- Takes one reference more to a row (R12). -/
def addRef (s : State) (c tenant ref : Nat) : State :=
  let r := refRow s c tenant ref
  setRefRow s c tenant ref { r with count := r.count + 1 }

/-- Drops one reference to a row; the last one frees it (R12, R82). -/
def dropRef (s : State) (c tenant ref : Nat) : State :=
  let r := refRow s c tenant ref
  setRefRow s c tenant ref (if r.count ≤ 1 then freeRow else { r with count := r.count - 1 })

/-- Drops the reference of a map entry (R82). -/
def dropEntry (s : State) (c tenant : Nat) (e : MapEntry) : State :=
  match refOfEntry e with
  | some r => dropRef s c tenant r
  | none => s

/-- Drop(n) of R82 for a warp's name. -/
def dropName (s : State) (c slot n : Nat) : State :=
  match warpOf? s c slot with
  | none => s
  | some w =>
    let s := dropEntry s c (launchOf s w.launch).tenant (nameOf w n)
    setWarp s c slot (setName w n .unmapped)

/-- The references that a launch is charged for on a core (R83): of the names of its warps, halted ones included, and of
its ROWS directory entries. -/
def chargedRefs (k : Core) (l : Nat) : List Nat :=
  let warps := (k.warps.filter (fun e => e.2.launch == l)).map (·.2) ++ ((fget? k.launches l).map (fun h => h.savedWarps.map (·.2))).getD []
  let fromNames := warps.foldl (fun acc w => w.names.foldl (fun acc e => match refOfEntry e.2 with
    | some r => setAdd acc r
    | none => acc) acc) []
  k.dir.foldl (fun acc e => if e.2.launch = l ∧ e.2.state ≠ .free then e.2.rows.foldl setAdd acc else acc) fromNames

/-- The row quota of a launch on a core (R14, R24). -/
def quotaOf (s : State) (l : Nat) : Nat := 256 * recRegu (launchOf s l).record

/-- How many rows beyond its quota a launch would be charged if `n` more were (R14, R83). -/
def overQuota (s : State) (c l n : Nat) : Nat := (chargedRefs (coreOf s c) l).length + n - quotaOf s l

/-- Whether a row of the pool is free (R12). -/
def rowFree (k : Core) (r : Nat) : Bool := (rowOf k r).count == 0

/-- Whether the pool has a free row: a scratchpad or accumulator unit takes 256 of its rows (R24, R285). -/
def anyRowFree (k : Core) : Bool :=
  decide (k.rows.length + 256 * (k.launches.map (fun e => e.2.unitsHeld - e.2.reguHeld)).sum < poolRows)

/-- Whether a long-latency write to a row is in flight (R360). -/
def rowInFlight (k : Core) (r : Nat) : Bool :=
  let hit (w : Warp) : Bool := w.ops.any (fun o => o.names.any (fun n => nameOf w n.name == .resident r))
  k.warps.any (fun e => hit e.2) || k.launches.any (fun e => e.2.savedWarps.any (fun w => hit w.2))

/-- The launches halted on a core, the one halted longest first. -/
def haltedOn (s : State) (c : Nat) : List Nat :=
  let ls := (coreOf s c).launches.filter (fun e => (launchOf s e.1).status == .halted)
  sortOrd (fun a b => decide ((launchOf s a).haltedAt ≤ (launchOf s b).haltedAt)) (ls.map (·.1))

/-- The rows that a halted launch holds on a core, in any way (R359). -/
def heldRows (k : Core) (l : Nat) : List Nat :=
  let inSlots := ((fget? k.launches l).map (fun h => h.hslots.flatMap (·.2))).getD []
  (inSlots.foldl setAdd (chargedRefs k l)).filter (fun r => decide (r < poolRows))

/-- The row that AllocRow claims from a halted launch (R360): of the launch halted longest, the lowest-numbered that has
no write in flight and whose owner's area has room. -/
def claimableRow (s : State) (c : Nat) : Option (Nat × Nat) :=
  (haltedOn s c).findSome? (fun l =>
    ((heldRows (coreOf s c) l).find? (fun r => !rowInFlight (coreOf s c) r
      && saveRoom (partOf s (partOfCore s c)) (launchOf s l).tenant (.row c l freeRow))).map (fun r => (r, l)))

/-- Every reference to a row of a launch becomes a reference to its spill slot, or back (R360, R363). -/
def redirectRefs (s : State) (c l old new : Nat) : State :=
  let fixW (w : Warp) : Warp := if w.launch = l then
    { w with names := w.names.map (fun e => if refOfEntry e.2 = some old then (e.1, entryOfRef new) else e) } else w
  let fixL (r : List Nat) : List Nat := r.map (fun x => if x = old then new else x)
  modCore s c (fun k => { k with
    warps := k.warps.map (fun e => (e.1, fixW e.2))
    dir := k.dir.map (fun e => if e.2.launch = l then (e.1, { e.2 with rows := fixL e.2.rows }) else e)
    launches := k.launches.map (fun e => if e.1 = l then
      (e.1, { e.2 with
        hslots := e.2.hslots.map (fun h => (h.1, fixL h.2))
        savedWarps := e.2.savedWarps.map (fun w => (w.1, fixW w.2)) }) else e) })

/-- Spills a halted launch's row into its tenant's area and frees it (R360, R361). -/
def spillRow (s : State) (c l r : Nat) : State :=
  match saveItem s (partOfCore s c) (launchOf s l).tenant (.row c l (rowOf (coreOf s c) r)) with
  | some (k, s) => modCore (redirectRefs s c l r (poolRows + k)) c (fun k => setRow k r freeRow)
  | none => s

/-- The row that AllocRow takes where the pool has a free one: any; a free value says which (R83). -/
def pickRow (k : Core) (n : Nat) : Nat :=
  let r := Config.freeNat n % poolRows
  if rowFree k r then r else (ffree k.rows poolRows).getD 0

/-- AllocRow of R83 beyond its quota check: the row taken and the state in which it is taken, with its contents; none
where no row is free and none is claimable. -/
def takeRow (s : State) (c l : Nat) (words : Row) (poison : Mask) : Option (Nat × State) :=
  let fresh : PoolRow := ⟨words, 1, (launchOf s l).tenant, poison⟩
  if anyRowFree (coreOf s c) then
    let (n, s) := takeFree s
    let r := pickRow (coreOf s c) n
    some (r, modCore s c (fun k => setRow k r fresh))
  else match claimableRow s c with
    | some (r, owner) =>
      let s := spillRow s c owner r
      some (r, modCore s c (fun k => setRow k r fresh))
    | none => none

/-- Brings a SPILT name's row back into the pool (R84, R363): the row takes back every reference to its slot. -/
def reloadRef (s : State) (c l k : Nat) : Option State :=
  let pn := partOfCore s c
  let t := (launchOf s l).tenant
  let r := spilledRow s pn t k
  (takeRow s c l r.words r.poison).map (fun x =>
    let s := modCore x.2 c (fun q => setRow q x.1 r)
    unsaveItem (redirectRefs s c l (poolRows + k) x.1) pn t k)

/-- Reloads a name that is SPILT (R84); none where no row can be had. -/
def reloadName (s : State) (c slot n : Nat) : Option State :=
  match warpOf? s c slot with
  | none => some s
  | some w => match nameOf w n with
    | .spilt k => reloadRef s c w.launch k
    | _ => some s

end Sys2Proof.Machine
end

