-- ==== Sys2Proof/Machine/Ops.lean ====
section
/-! DEFINITION. What every instruction shares: how a meaning ends, the landing check of a transfer (R56), the end of a
warp and of a launch (R35, R283), taking a trap (R272 to R274) and returning from one (R280), and the end of a span. -/

namespace Sys2Proof.Machine

open Sys2Proof

/-- How an instruction ends without its effect: a trap, or a wait after which it runs again: in place, holding the issue slot (R309),
or letting the slot go, in the state given where there is one (notes/assumptions/58.md). -/
inductive Stop where
  | trap (code : Nat) (tval : DWord)
  | wait
  | park (s : Option State)
deriving DecidableEq, Repr

/-- Where a warp goes after an instruction's effect: to the next word, to a new PC whose landing has been checked or could
not be (R56), or nowhere, its paths set already. -/
inductive After where
  | seq
  | jump (pc : PC) (unchecked : Bool)
  | placed
deriving DecidableEq, Repr

/-- The place of the word that a step runs: its core, warp slot, warp, span, launch and partition. -/
structure Ctx where
  c : Nat
  slot : Nat
  w : Warp
  sp : Span
  l : Launch
  pn : Nat
deriving DecidableEq, Repr

/-- The context of the current warp (R16); none where it has no span in issue. -/
def ctxOf (s : State) : Option Ctx :=
  match warpOf? s s.cur.1 s.cur.2 with
  | none => none
  | some w => match w.span with
    | none => none
    | some sp => some ⟨s.cur.1, s.cur.2, w, sp, launchOf s w.launch, partOfCore s s.cur.1⟩

/-- ACTIVE of R3: the lanes of EXEC that are not dead. -/
def activeOf (w : Warp) (sec : Bool) : Mask := (pathOf w sec).exec &&& ~~~w.dead

/-- The address of word `i` of a span, counted from the header (R42). -/
def wordAddr (sp : Span) (i : Nat) : PC := sp.header + BitVec.ofNat 57 (4 * i)

/-- Word `i` of a span, counted from the header. -/
def spanWord (sp : Span) (i : Nat) : Word := sp.words.getD (sp.header.toNat % 128 / 4 + i) 0

/-- The words after the header of a span: LEN_M1 + 1 (R41). -/
def spanLen (hword : Word) : Nat := hword.toNat / 128 % 32 + 1

/-- The header that follows a span (R42). -/
def continuation (sp : Span) : PC := wordAddr sp (spanLen sp.hword + 1)

/-- The WAIT mask of a header (R41). -/
def headerWait (h : Word) : Nat := h.toNat / 2 ^ 20
/-- SETA of a header (R41). -/
def headerSetA (h : Word) : Nat := h.toNat / 2 ^ 16 % 16
/-- SETB of a header (R41). -/
def headerSetB (h : Word) : Nat := h.toNat / 2 ^ 12 % 16

/-- Whether a header word is faulty (R41). -/
def headerBad (h : Word) : Bool :=
  let a := headerSetA h
  let b := headerSetB h
  (decide (12 ≤ a) && decide (a ≤ 14)) || (decide (12 ≤ b) && decide (b ≤ 14))
    || (a == b && a != 15) || decide (spanLen h > 24) || h.toNat % 128 != 0

/-- Whether a header word at index `i` of its block is faulty or its span reaches past the block (R41, R42). -/
def headerFaulty (h : Word) (i : Nat) : Bool := headerBad h || decide (i + 1 + spanLen h > 32)

/-- The data words that belong to an instruction word: a live-mask word and a literal (R39). -/
def dataWords (w : Word) : Nat := (if wordS w then 1 else 0) + (if takesLiteral (wordOp w) then 1 else 0)

/-- The opcode of the next word of a span, from word `i` on, that is no prefix; none where the span ends first (R42, R54). -/
def prefixTarget (sp : Span) : Nat → Nat → Option Nat
  | 0, _ => none
  | n + 1, i =>
    if i > spanLen sp.hword then none
    else if isPrefixOp (wordOp (spanWord sp i)) then prefixTarget sp n (i + 1)
    else some (wordOp (spanWord sp i)).toNat

/-- Whether the walk of R56 from word `i` on reaches the header at word `t` of a block. -/
def walkReaches (ws : List Word) (t : Nat) : Nat → Nat → Bool
  | 0, _ => false
  | n + 1, i =>
    if i = t then true
    else if decide (i > t) || headerFaulty (ws.getD i 0) i then false
    else walkReaches ws t n (i + 1 + spanLen (ws.getD i 0))

/-- Whether word `t` is an instruction or prefix word, walking the words of a span from `i` on (R280). -/
def insideWalk (ws : List Word) (t stop : Nat) : Nat → Nat → Bool
  | 0, _ => false
  | n + 1, i =>
    if decide (i > t) || decide (i ≥ stop) then false
    else if i = t then true
    else insideWalk ws t stop n (i + 1 + dataWords (ws.getD i 0))

/-- The header of the span that the walk of R56 reaches and in which word `t` is an instruction or prefix word (R280). -/
def headerOfWord (ws : List Word) (t : Nat) : Nat → Nat → Option Nat
  | 0, _ => none
  | n + 1, i =>
    if decide (i > t) || headerFaulty (ws.getD i 0) i then none
    else if insideWalk ws t (i + 1 + spanLen (ws.getD i 0)) 32 (i + 1) then some i
    else headerOfWord ws t n (i + 1 + spanLen (ws.getD i 0))

/-! ## Fetch (R56, R57, R316) -/

/-- The block that holds a code address, as memory holds it now. -/
def memBlock (s : State) (p : Partition) (asid pc : Nat) : List Word :=
  wordsOf ((List.range 128).map (fun i => (homeRead s p asid (pc / 128 * 128 + i)).1))

/-- The block that holds a code address: the instruction cache's copy, else memory's (R57, R286). -/
def codeBlock (s : State) (p : Partition) (c asid pc : Nat) : List Word :=
  match (coreOf s c).icache.find? (fun b => b.asid == asid && b.block == pc / 128) with
  | some b => b.words
  | none => memBlock s p asid pc

/-- Whether the instruction cache of a core holds the block of a code address (R286). Such a block is read without a fetch, and so
without a translation (R292). -/
def blockHeld (s : State) (p : Partition) (c tenant pc : Nat) : Bool :=
  match asidFor p tenant pc with
  | some asid => (coreOf s c).icache.any (fun b => b.asid == asid && b.block == pc / 128)
  | none => false

/-- The cause that keeps a block from being fetched (R56, R316). -/
def fetchCause (s : State) (p : Partition) (c tenant pc : Nat) : Option Nat :=
  if blockHeld s p c tenant pc then none else (rangeCause s p tenant (pc / 128 * 128) 4 .fetch).map (·.2)

/-- Whether a block has still to come before it can be fetched for an asker: its file-backed frame is not read, or its peer has not
answered (R294, R318, R328). -/
def blockAway (s : State) (p : Partition) (c who tenant pc : Nat) : Bool :=
  !blockHeld s p c tenant pc && match asidFor p tenant pc with
    | some asid => lineUnread s p asid (pc / 128) || lineUnanswered s p c who asid (pc / 128)
    | none => false

/-- Before a block is fetched for a core: its page is walked, and a peer is asked for it (R294, R319, R346). -/
def prepBlock (s : State) (pn : Nat) (c : Nat) (id : BitVec 32) (who tenant pc : Nat) : State :=
  if blockHeld s (partOf s pn) c tenant pc then s
  else
    let s := prepRange s pn (some (c, id)) tenant .fetch (pc / 128 * 128) 4
    match asidFor (partOf s pn) tenant pc with
    | some asid => if (fetchCause s (partOf s pn) c tenant pc).isSome then s else askLine s pn c who asid (pc / 128)
    | none => s

/-- The outcome of the landing check (R56); `away` where the block can be fetched but has still to come. -/
inductive Landing where
  | good | bad | unfetched | away
deriving DecidableEq, Repr

/-- The landing check of a transfer to a code address (R56), for an asker of its block. -/
def landing (s : State) (p : Partition) (c who tenant : Nat) (pc : PC) : Landing :=
  if pc.toNat % 4 ≠ 0 then .bad
  else if (fetchCause s p c tenant pc.toNat).isSome then .unfetched
  else if blockAway s p c who tenant pc.toNat then .away
  else
    match asidFor p tenant pc.toNat with
    | none => .unfetched
    | some asid =>
      if walkReaches (codeBlock s p c asid pc.toNat) (pc.toNat % 128 / 4) 33 0 then .good else .bad

/-! ## The end of a warp (R35) -/

/-- Completes a future entry with a status (R223, R225). Entries that one step completes became free at the same moment. -/
def completeFuture (s : State) (c i : Nat) (st : FutState) (cause : Nat) (detail : BitVec 32) : State :=
  modCore s c (fun q => { q with futures := fput q.futures i { futOf q i with
    state := st, cause := cause, detail := detail, free := true, freedAt := s.moment + 1 } })

/-- What an operation that ends without success leaves behind (R164, R228): a fill leaves its tile, INVALID where no other
fill of it runs; a queue fill leaves its entry EMPTY, with the mark of a QPOP that waits for it
(notes/assumptions/62.md); a move gives its source entry back and takes the destination's away
(R264); a record on its way to the dispatcher is withdrawn. -/
def undoOp (s : State) (c o : Nat) (e : EngineOp) : State :=
  match e.kind with
  | .fill n _ _ _ _ _ _ =>
    let t := tileOf (coreOf s c) n
    if setMem t.fills o then
      let rest := setDel t.fills o
      modCore s c (fun k => setTile k n { t with
        fills := rest, state := if rest.isEmpty then .invalid else t.state })
    else s
  | .queueFill q i _ true => modCl s c e.launch (fun h => { h with
      qent := fset h.qent (256 * q + i) { fget h.qent (256 * q + i) ⟨.empty, false⟩ with state := .empty } ⟨.empty, false⟩ })
  | .move _ se dc de _ _ =>
    let s := modCore s dc (fun k => { k with dir := fput k.dir de { dirReset with gen := (dirOf k de).gen } })
    modCore s c (fun k => { k with dir := fput k.dir se { dirOf k se with state := .valid, moveOp := none } })
  | .launch none => modPart s (partOfCore s c) (fun p => { p with pending := p.pending.filter (fun q => q.source != .child c o) })
  | _ => s

/-- Ends an engine operation: it leaves the core and its future completes (R223, R225); a feed program is gone with its
operation (R232). -/
def endOp (s : State) (c o : Nat) (st : FutState) (cause : Nat) (detail : BitVec 32) : State :=
  match fget? (coreOf s c).engines o with
  | none => s
  | some e =>
    let s := if st = .done then s else undoOp s c o e
    let s := if e.kind = .feedgo then modCl s c e.launch (fun h => { h with feed := none }) else s
    let s := modCore s c (fun k => { k with engines := fdel k.engines o })
    let s := forgetAsks s (partOfCore s c) (fun a => a == askOp o)
    match e.future with
    | some i => completeFuture s c i st cause detail
    | none => s

/-- The warps of a core: those in its slots, and those saved when their slots were claimed (R360). -/
def coreWarps (k : Core) : List Warp :=
  k.warps.map (·.2) ++ k.launches.flatMap (fun e => e.2.savedWarps.map (·.2))

/-- Frees the directory entry of an expired handle once no match of it is unspawned and no responder of it runs, dropping
its references (R253); the source of a move that the destination has applied completes it (R264). -/
def freeTileEntry (s : State) (c i : Nat) : State :=
  let k := coreOf s c
  let e := dirOf k i
  let busy := k.accepted.any (fun a => setMem a.unspawned i && a.q.launch == e.launch)
    || (coreWarps k).any (fun w => w.launch == e.launch && match w.resp with
      | some r => r.entry == i
      | none => false)
  if e.state ≠ .shadow ∨ e.expired = false ∨ busy then s
  else
    let s := e.rows.foldl (fun s r => dropRef s c (launchOf s e.launch).tenant r) s
    let s := modCore s c (fun k => { k with dir := fput k.dir i { dirReset with gen := e.gen } })
    match e.moveOp with
    | none => s
    | some o => match fget? (coreOf s c).engines o with
      | none => s
      | some v => match v.kind with
        | .move _ _ _ _ _ true => endOp s c o .done 0 0
        | _ => s

/-- A responder that ends gives its contribution, the identity if it has not replied (R260, R262), frees the landing slot
with the last responder of its solicitation (R259), and lets the entry it served be freed (R253). -/
def endResponder (s : State) (c l : Nat) (r : Responder) : State :=
  let s := modCore s c (fun k => { k with accepted := k.accepted.map (fun a =>
    if a.q.seq = r.seq then { a with replies := a.replies ++ [(r.entry, r.reply.getD ⟨none, false⟩)] } else a) })
  let allDone := (coreOf s c).accepted.any
    (fun a => a.q.seq == r.seq && decide (a.replies.length ≥ a.matchSet.length))
  let s := modCl s c l (fun h =>
    { h with landing := if allDone then h.landing.filter (fun e => e.2 != r.seq) else h.landing })
  freeTileEntry s c r.entry

/-- ENG_CANCELLED (R276). -/
def cCancelled : Nat := 0x050B

/-- Whether no warp of a launch is left, in its slots or saved. -/
def warpsGone (s : State) (l : Nat) : Bool :=
  s.cores.all (fun e => !e.2.warps.any (fun w => w.2.launch == l) && (clOf s e.1 l).savedWarps.isEmpty)

/-- Posted entries of a launch that have not fired end with its last warp (R230). -/
def cancelPosts (s : State) (l : Nat) : State :=
  if !warpsGone s l then s
  else s.cores.foldl (fun s e => (coreOf s e.1).engines.foldl (fun s o => match o.2.kind with
    | .post q => if o.2.launch = l ∧ q.fired = false then endOp s e.1 o.1 .cancelled cCancelled 0 else s
    | _ => s) s) s

/-- Retires a warp (R35), with LANES_LOST or not: its references drop, its writes in flight are discarded, its armed
scratchpad accesses stay armed, its drain-queue entries go (R172), and its slot is free. -/
def retireCore (s : State) (c slot : Nat) (lost : Bool) : State :=
  match warpOf? s c slot with
  | none => s
  | some w =>
    let t := (launchOf s w.launch).tenant
    let s := forgetAsks (settleStores s c slot) (partOfCore s c) (fun a => a == askPath c slot false || a == askPath c slot true)
    let s := w.names.foldl (fun s e => dropEntry s c t e.2) s
    let s := modCore s c (fun k => { k with
      warps := fdel k.warps slot
      drainQ := k.drainQ.filter (fun d => d.warp != slot || d.launch != w.launch) })
    let (k, s) := takeStamp s
    let s := modCl s c w.launch (fun h => { h with
      armed := h.armed.map (fun a => if a.warp = slot ∧ a.retired = none then { a with retired := some k, longOp := none } else a)
      lost := if lost then setAdd h.lost slot else h.lost })
    let s := match w.resp with
      | some r => endResponder s c w.launch r
      | none => modLaunch s w.launch (fun l => { l with retired := setAdd l.retired w.lwarp })
    cancelPosts s w.launch

/-! ## Termination (R283, R284) -/

/-- SYS_TERMINATED, SYS_DOUBLE_TRAP and SYS_NO_HANDLER (R275). -/
def cTerminated : Nat := 0x080A
def cDoubleTrap : Nat := 0x0808
def cNoHandler : Nat := 0x0809

/-- Engine operations of a launch that have not passed their point of no return end as terminated; a LAUNCH is past it
once its record is accepted, and its child runs on (R228, R246, R283). -/
def terminateOps (s : State) (l : Nat) : State :=
  s.cores.foldl (fun s e => (coreOf s e.1).engines.foldl (fun s o =>
    if o.2.launch = l ∧ o.2.passed = false then endOp s e.1 o.1 .cancelled cTerminated 0 else s) s) s

/-- Retires every warp of a launch that stands at a span boundary, or that BKPT has stopped (R279, R283). -/
def retireStanding (s : State) (l : Nat) : State :=
  s.cores.foldl (fun s e => (coreOf s e.1).warps.foldl (fun s w =>
    if w.2.launch = l ∧ (w.2.span = none ∨ w.2.bkptStop = true) then retireCore s e.1 w.1 false else s) s) s

/-- Retires the warps of a launch whose slots have been claimed (R283, R360). -/
def retireSaved (s : State) (l : Nat) : State :=
  let s := s.cores.foldl (fun s e => (fkeys (clOf s e.1 l).savedWarps).foldl (fun s w =>
    withWarp s e.1 l w (fun s => retireCore s e.1 w false)) s) s
  dropWhole s (launchOf s l).part l

/-- Terminates a launch (R283): its warps retire at once where they wait or stand, at the end of their span otherwise. -/
def terminate (s : State) (l : Nat) (r : TermRecord) : State :=
  let v := launchOf s l
  if v.term.isSome || v.status == .ended then s
  else
    let s := retireStanding (terminateOps (modLaunch s l (fun v => { v with term := some r })) l) l
    if v.status = .halted then retireSaved s l else s

/-- The termination record of a trap that is not taken (R274, R284). -/
def trapTerm (w : Warp) (c slot : Nat) (cause : Nat) (first : Cause) (tpc : DWord) (n : Cause) (sec : Bool) : TermRecord where
  cause := cause
  user := first.code == 0x0805 || first.code == 0x0806
  byKernel := false
  tpc := tpc
  ncause := n.code
  tval := BitVec.ofNat 64 (n.tval.toNat % 2 ^ 48)
  core := c
  wslot := slot
  path := sec
  lwarp := if w.resp.isSome then 0xFFFFFFFF else w.lwarp

/-! ## Traps (R272 to R274) -/

/-- A trap of a warp that has no handler terminates its launch (R274, R283); the warp holds the trap already. -/
def noHandler (s : State) (c slot : Nat) (sec : Bool) (w : Warp) : State :=
  terminate (setWarp s c slot w) w.launch (trapTerm w c slot cNoHandler w.firstCause w.tpc w.firstCause sec)

/-- After a warp has left its span: a warp of a terminated launch retires, and with it go the operations that its span has
started since (R283). -/
def afterSpan (s : State) (c slot : Nat) : State :=
  match warpOf? s c slot with
  | none => s
  | some w =>
    if (launchOf s w.launch).term.isSome ∧ w.span = none then retireCore (terminateOps s w.launch) c slot false else s

/-- A path whose trap goes to the handler (R272); where the handler's block has still to come, its landing check is made when the
path starts there. -/
def toHandler (w : Warp) (sec unchecked : Bool) : Warp :=
  modPath w sec (fun p => { p with
    pc := w.tvec, unchecked := unchecked, eret := false, handler := unchecked, resume := 0, wait := .none, state := .ready
    mmaDone := false, atSafePoint := none })

/-- Trap entry (R272): TPC, TCAUSE and TVAL are written, the warp is in trap mode on the issuing path, whose PC goes to
TVEC; the span is left, and an MMA arrival of the warp is withdrawn (R273). The handler's page is walked for it (R316, R319). A
trap in trap mode, or one without a handler that can be reached, terminates the launch (R274, R283); a warp of a launch that was
terminated before retires, as at every end of a span. -/
def trapEnter (s : State) (c slot : Nat) (sec : Bool) (tpc : PC) (code : Nat) (tval : DWord) : State :=
  match warpOf? s c slot with
  | none => s
  | some w =>
    let pc64 := tpc.setWidth 64
    afterSpan (
      if w.trapMode then
        terminate (setWarp s c slot { w with span := none }) w.launch
          (trapTerm w c slot cDoubleTrap w.firstCause w.tpc ⟨code, tval⟩ sec)
      else
        let w' := { w with
          tpc := pc64, tcause := BitVec.ofNat 16 code, tval := tval, trapMode := true, trapSec := sec
          firstCause := ⟨code, tval⟩, span := none, arrival := none, deferred := none }
        let l := launchOf s w.launch
        let who := askPath c slot sec
        let s := if w.tvec = 0 then s else prepBlock s (partOfCore s c) c l.id who l.tenant w.tvec.toNat
        let go := landing s (partOf s (partOfCore s c)) c who l.tenant w.tvec
        if w.tvec = 0 then noHandler s c slot sec w'
        else if go = .good ∨ go = .away then setWarp s c slot (toHandler w' sec (go == .away))
        else noHandler s c slot sec w') c slot

/-- A gang-wide trap (R157, R273): taken at once where no path of the member is inside a span, deferred otherwise. The
arrival is void in both cases. -/
def gangTrap (s : State) (c slot : Nat) (code : Nat) (tval : DWord) : State :=
  match warpOf? s c slot with
  | none => s
  | some w => match w.arrival with
    | none => s
    | some a =>
      let w := { w with arrival := none }
      if w.span.isSome then setWarp s c slot { w with deferred := some (⟨code, tval⟩, a.sec) }
      else trapEnter (setWarp s c slot w) c slot a.sec a.addr code tval

/-- The gang of a warp in a slot: the slots that GANG names, or its own alone (R21, R155). -/
def gangSlots (w : Warp) (slot : Nat) : List Nat :=
  let n := field w.gang 38 36
  if n = 0 then [slot] else (List.range n).map (fun j => field w.gang (6 * j + 5) (6 * j))

/-- When a warp that waiting gang members name has gone, every arrived member traps with MTX_GANG_LOST (R158). -/
def gangLost (s : State) (c slot : Nat) : State :=
  (coreOf s c).warps.foldl (fun s e =>
    if e.2.arrival.isSome && setMem (gangSlots e.2 e.1) slot then gangTrap s c e.1 0x0402 (BitVec.ofNat 64 slot) else s) s

/-- Retires a warp, and the gang members that wait for it trap unless it retired with LANES_LOST (R35, R158). -/
def retireWarp (s : State) (c slot : Nat) (lost : Bool) : State :=
  let s := retireCore s c slot lost
  if lost then s else gangLost s c slot

/-! ## The end of a span -/

/-- Where a span that has run to its end leaves its path: at a new PC, with the live mask of its safe point if its last
word carried S (R42, R50). -/
def leaveSpan (w : Warp) (sp : Span) (pc : PC) (unchecked : Bool) (live : Option Word) (stamp : Nat) : Warp :=
  modPath { w with span := none } sp.sec (fun p => { p with
    pc := pc, unchecked := unchecked, eret := false, resume := 0, mmaDone := false, atSafePoint := live, endedAt := stamp
    state := if p.wait = .none then (if p.state = .joining then .joining else .ready) else .waiting })

/-- The live-mask word of a word that carries S (R49). -/
def liveWord (sp : Span) : Option Word :=
  if wordS (spanWord sp sp.idx) then some (spanWord sp (sp.idx + 1)) else none

/-- A word that waits in place: nothing changes, but a warp of a terminated launch stops where it waits (R283). -/
def waitHere (s : State) (c slot : Nat) : State :=
  match warpOf? s c slot with
  | none => s
  | some w => if (launchOf s w.launch).term.isSome then afterSpan (setWarp s c slot { w with span := none }) c slot else s

/-- A word that waits without holding its issue slot (notes/assumptions/58.md): as `waitHere`, and its span is parked. -/
def parkHere (s : State) (c slot : Nat) : State :=
  waitHere (modWarp s c slot (fun w => { w with span := w.span.map (fun sp => { sp with parked := true }) })) c slot

/-- Moves past a word that has taken its effect: to the next word of the span, or out of the span at its last (R42, R43). Where
its path has merged into the primary, the safe point is the primary's (R50, R116). -/
def advance (s : State) (x : Ctx) (after : After) : State :=
  let (k, s) := takeStamp s
  match warpOf? s x.c x.slot with
  | none => s
  | some w =>
    match after with
    | .placed => afterSpan (setWarp s x.c x.slot (modPath { w with span := none }
        (x.sp.sec && w.seco.state != .vacant) (fun p => { p with atSafePoint := liveWord x.sp, endedAt := k }))) x.c x.slot
    | .jump pc u => afterSpan (setWarp s x.c x.slot (leaveSpan w x.sp pc u (liveWord x.sp) k)) x.c x.slot
    | .seq =>
      if wordE (spanWord x.sp x.sp.idx) then
        afterSpan (setWarp s x.c x.slot (leaveSpan w x.sp (continuation x.sp) false (liveWord x.sp) k)) x.c x.slot
      else
        setWarp s x.c x.slot { w with span := some { x.sp with
          idx := x.sp.idx + 1 + dataWords (spanWord x.sp x.sp.idx), pfxa := none, pfxb := none, pfxAt := none, parked := false } }

/-- The address that a trap of the current word saves: the first prefix of its pair, or the word (R55, R272). -/
def trapAddr (sp : Span) : PC := wordAddr sp (sp.pfxAt.getD sp.idx)

/-- Ends a word: its effect and the move past it, its trap, or a wait in place. -/
def finish (s : State) (x : Ctx) : Except Stop (State × After) → Host.Outcome State Fault Refusal
  | .ok (t, a) => .next (advance t x a)
  | .error (.trap code tval) => .next (trapEnter s x.c x.slot x.sp.sec (trapAddr x.sp) code tval)
  | .error .wait => .next (waitHere s x.c x.slot)
  | .error (.park t) => .next (parkHere (t.getD s) x.c x.slot)

/-- Runs the meaning of a word in the current warp's context. -/
def runWord (s : State) (f : Ctx → Except Stop (State × After)) : Host.Outcome State Fault Refusal :=
  match ctxOf s with
  | none => .fault .noSpan
  | some x => finish s x (f x)

/-- Runs the meaning of a word that accesses memory: its pages are walked first, and what the walks fill stays filled
whatever the word then does (R180, R319). -/
def runMem (s : State) (prep : Ctx → State) (f : Ctx → State → Except Stop (State × After)) :
    Host.Outcome State Fault Refusal :=
  match ctxOf s with
  | none => .fault .noSpan
  | some x => let s := prep x; finish s x (f x s)

/-- A trap, as a meaning raises it. -/
def raise {α : Type} (code : Nat) (tval : DWord) : Except Stop α := .error (.trap code tval)

/-- Raises a trap where a condition holds. -/
def raiseIf (b : Bool) (code : Nat) (tval : DWord) : Except Stop Unit :=
  if b then .error (.trap code tval) else .ok ()

/-- Waits in place where a condition holds. -/
def waitIf (b : Bool) : Except Stop Unit := if b then .error .wait else .ok ()

/-- Waits without holding the issue slot where a condition holds. -/
def parkIf (b : Bool) : Except Stop Unit := if b then .error (.park none) else .ok ()

/-- A number as a trap value. -/
def tv (n : Nat) : DWord := BitVec.ofNat 64 n

/-- Refusals that a core counts, saturating at 2^48 - 1 (R312). -/
def countNaks (s : State) (pn c n : Nat) : State :=
  modPart s pn (fun p => setReg p .schNakcnt c (tv (satAdd (reg p .schNakcnt c).toNat n (2 ^ 48 - 1))))

/-- One refusal more. -/
def countNak (s : State) (pn c : Nat) : State := countNaks s pn c 1

/-! ## Cause codes of the ENC, MAP, CTL and SYS classes (R275) -/

def cIllegal : Nat := 0x0001
def cSpan : Nat := 0x0002
def cPrefix : Nat := 0x0003
def cUnmapped : Nat := 0x0101
def cRefOverflow : Nat := 0x0102
def cNoRow : Nat := 0x0103
def cTenant : Nat := 0x0104
def cSlotRange : Nat := 0x0105
def cPending : Nat := 0x0201
def cBadTarget : Nat := 0x0202
def cDiverge : Nat := 0x0203
def cNoJoin : Nat := 0x0204
def cJoinMismatch : Nat := 0x0205
def cStackOverflow : Nat := 0x0206
def cStackCorrupt : Nat := 0x0207
def cSpecialRo : Nat := 0x0801
def cSpecialValue : Nat := 0x0802
def cSpecialBusy : Nat := 0x0803
def cGroupNone : Nat := 0x0804
def cSysTrap : Nat := 0x0805
def cBreakpoint : Nat := 0x0806
def cNotTrap : Nat := 0x0807
def cLaunchShape : Nat := 0x080B
def cCtxGone : Nat := 0x080C

/-- The word that a step runs, as a trap value (R275). -/
def wordVal (sp : Span) : DWord := (spanWord sp sp.idx).setWidth 64

/-- Placement as the first word after the header, or a trap (R94, R155). -/
def needFirst (x : Ctx) : Except Stop Unit := raiseIf (x.sp.idx != 1) cSpan (wordVal x.sp)

/-- Placement as the last instruction word, or a trap (R44, R201, R227, R242, R280). -/
def needLast (x : Ctx) : Except Stop Unit := raiseIf (!wordE (spanWord x.sp x.sp.idx)) cSpan (wordVal x.sp)

/-- Return from a trap (R280): trap mode ends, and the trap path goes to TPC: to a header, or into a span, where the first
word after the header counts as the start of the span; none where TPC is no place to resume. Where its block cannot be fetched, or
has still to come, the path goes to TPC, and the place is found when it has (`settled`). -/
def trapReturn (s : State) (x : Ctx) : Option Warp :=
  let pc : PC := x.w.tpc.setWidth 57
  let p := partOf s x.pn
  let back (h : PC) (i : Nat) (u : Bool) : Warp :=
    modPath { x.w with trapMode := false } x.w.trapSec (fun q => { q with
      pc := h, unchecked := u, eret := u, resume := if i ≤ 1 then 0 else i, mmaDone := false, state := .ready, wait := .none })
  if pc.toNat % 4 ≠ 0 then none
  else if (fetchCause s p x.c x.l.tenant pc.toNat).isSome || blockAway s p x.c (askPath x.c x.slot x.w.trapSec) x.l.tenant pc.toNat
  then some (back pc 0 true)
  else match asidFor p x.l.tenant pc.toNat with
    | none => some (back pc 0 true)
    | some asid =>
      let ws := codeBlock s p x.c asid pc.toNat
      let t := pc.toNat % 128 / 4
      if walkReaches ws t 33 0 then some (back pc 0 false)
      else match headerOfWord ws t 33 0 with
        | some h => some (back (pc - BitVec.ofNat 57 (4 * (t - h))) (t - h) false)
        | none => none

end Sys2Proof.Machine
end

