-- ==== Sys2Proof/Machine/Operands.lean ====
section
/-! DEFINITION. Operands: window registers (R10), scalars and predicates (R15, R16), the guard (R52), the pending check
(R46), the map check with its reload (R84, R86), the split and the write of names (R13, R87), and the kill of lanes that
consume poison (R88, R277, R371). -/

namespace Sys2Proof.Machine

open Sys2Proof

/-! ## Registers -/

/-- The name that a window register selects (R10). -/
def winName (w : Warp) (v : BitVec 7) : Nat := if v.toNat < 16 then v.toNat else w.wb.toNat + v.toNat

/-- The names of a run of window registers (R10). -/
def winRun (w : Warp) (v : BitVec 7) (n : Nat) : List Nat :=
  (List.range n).map (fun i => winName w (v + BitVec.ofNat 7 i))

/-- A scalar register (R15). -/
def sReg (w : Warp) (k : BitVec 6) : DWord := w.s[k.toNat]'k.isLt

/-- A scalar register of a run (R37). -/
def sRun (w : Warp) (k : BitVec 6) (i : Nat) : DWord := sReg w (k + BitVec.ofNat 6 i)

/-- Writes a scalar register; the write clears its future tag (R224). -/
def setS (w : Warp) (k : BitVec 6) (v : DWord) : Warp :=
  { w with s := w.s.set k.toNat v k.isLt, tags := fdel w.tags k.toNat }

/-- A predicate (R15). -/
def pReg (w : Warp) (k : BitVec 4) : Mask := w.p[k.toNat]'k.isLt

/-- Writes a predicate in all 32 lanes. -/
def setP (w : Warp) (k : BitVec 4) (v : Mask) : Warp := { w with p := w.p.set k.toNat v k.isLt }

/-- Writes a predicate in the lanes of a mask (R16). -/
def setPLanes (w : Warp) (k : BitVec 4) (m v : Mask) : Warp := setP w k ((pReg w k &&& ~~~m) ||| (v &&& m))

/-- The issuing path of the word. -/
def curPath (x : Ctx) : Path := pathOf x.w x.sp.sec

/-- ACTIVE of the word (R3). -/
def ctxActive (x : Ctx) : Mask := activeOf x.w x.sp.sec

/-! ## Guard (R52) -/

/-- The lanes that the guard of a word's PFXA selects; all of ACTIVE without one (R52). -/
def narrowed (x : Ctx) : Mask :=
  match x.sp.pfxa with
  | none => ctxActive x
  | some a =>
    if a.pol = 0#2 then ctxActive x
    else ctxActive x &&& (pReg x.w a.pred ^^^ (if a.neg then 0xFFFFFFFF#32 else 0#32))

/-- The lanes that a zero-policy guard writes with zero (R52). -/
def zeroLanes (x : Ctx) : Mask :=
  match x.sp.pfxa with
  | none => 0
  | some a => if a.pol = 2#2 then ctxActive x &&& ~~~narrowed x else 0

/-- The guard predicate that a word reads, as an item of the pending check. -/
def guardItems (x : Ctx) : List PendItem :=
  match x.sp.pfxa with
  | none => []
  | some a => if a.pol = 0#2 then [] else [.pred a.pred.toNat]

/-- The window register of the third source: C of PFXA where CV is set, else D (R40). -/
def thirdSource (x : Ctx) (d : BitVec 7) : BitVec 7 :=
  match x.sp.pfxa with
  | some a => if a.cv then a.c else d
  | none => d

/-! ## Pending items (R46) -/

/-- The trap value of a pending item (R46). -/
def pendVal : PendItem → DWord
  | .name n => tv n
  | .scalar k => tv (0x200 + k)
  | .pred k => tv (0x240 + k)

/-- Whether an item is pending (R46). -/
def isPending (w : Warp) (i : PendItem) : Bool := w.pend.any (fun q => q.item == i)

/-- CTL_RESULT_PENDING for the first pending item of a list in the order of R46. -/
def checkPending (w : Warp) (l : List PendItem) : Except Stop Unit :=
  match l.find? (isPending w) with
  | some i => raise cPending (pendVal i)
  | none => .ok ()

/-- A scalar register as an item. -/
def iS (k : BitVec 6) : PendItem := .scalar k.toNat

/-- A run of scalar registers as items. -/
def iSRun (k : BitVec 6) (n : Nat) : List PendItem := (List.range n).map (fun i => .scalar (k + BitVec.ofNat 6 i).toNat)

/-- Names as items. -/
def iNames (l : List Nat) : List PendItem := l.map .name

/-! ## Names -/

/-- MAP_UNMAPPED for the first name of a list that has no row (R86). -/
def checkMapped (w : Warp) (l : List Nat) : Except Stop Unit :=
  match l.find? (fun n => nameOf w n == .unmapped) with
  | some n => raise cUnmapped (tv n)
  | none => .ok ()

/-- TVAL of MAP_TENANT (R275): the row's number; a spilt row has none, so a free value stands there (notes/assumptions/32.md). -/
def tenantVal (ref : Nat) : DWord := if ref < poolRows then tv ref else Config.spiltRowVal (ref - poolRows)

/-- The reference of a name whose row is spilt with another tenant's tag (R85). -/
def spiltForeign (s : State) (x : Ctx) (n : Nat) : Option Nat :=
  match (warpOf? s x.c x.slot).map (fun w => nameOf w n) with
  | some (.spilt k) => if (spilledRow s x.pn x.l.tenant k).tag = x.l.tenant then none else some (poolRows + k)
  | _ => none

/-- Reloads the SPILT names of a list (R84, R86); the word waits while one cannot be. A reload of a row with another tenant's tag
is MAP_TENANT (R85). -/
def reloadNames (s : State) (x : Ctx) : List Nat → Except Stop State
  | [] => .ok s
  | n :: ns =>
    match spiltForeign s x n with
    | some r => raise cTenant (tenantVal r)
    | none => match reloadName s x.c x.slot n with
      | some s => reloadNames s x ns
      | none => .error (.park none)

/-- The row behind a name (R11). -/
def rowOfName (s : State) (x : Ctx) (n : Nat) : PoolRow :=
  match warpOf? s x.c x.slot with
  | none => freeRow
  | some w => match refOfEntry (nameOf w n) with
    | some r => refRow s x.c x.l.tenant r
    | none => freeRow

/-- Splits a name whose row has other references (R13, R87): it moves to a fresh row that keeps the old row's words and
poison in the lanes that the write does not touch. Where no row can be had, the name goes without one and is counted. -/
def splitName (s : State) (x : Ctx) (touch : Mask) (n : Nat) : State × Nat :=
  match warpOf? s x.c x.slot with
  | none => (s, 0)
  | some w => match nameOf w n with
    | .resident r =>
      let old := rowOf (coreOf s x.c) r
      if old.count ≤ 1 then (s, 0)
      else
        let keep := mkRow (fun l => if touch.getLsbD l then 0 else lane old.words l)
        match takeRow s x.c w.launch keep (old.poison &&& ~~~touch) with
        | none => (modWarp (dropRef s x.c x.l.tenant r) x.c x.slot (fun w => setName w n .unmapped), 1)
        | some (r', s) =>
          (modWarp (dropRef s x.c x.l.tenant r) x.c x.slot (fun w => setName w n (.resident r')), 0)
    | _ => (s, 0)

/-- MAP_NO_ROW (R14, R83): TVAL is the number of rows beyond the launch's quota once `missing` more are charged, or else
the number of rows that could not be had. -/
def checkRows (before s : State) (x : Ctx) (missing : Nat) : Except Stop State :=
  let beyond := overQuota s x.c x.w.launch missing
  if beyond > overQuota before x.c x.w.launch 0 then raise cNoRow (tv beyond)
  else if missing > 0 then raise cNoRow (tv missing)
  else .ok s

/-- Splits the destinations of a word as a whole: MAP_NO_ROW where the launch's quota or the pool cannot hold the fresh
rows (R14, R87). -/
def splitNames (s : State) (x : Ctx) (touch : Mask) (ns : List Nat) : Except Stop State :=
  let r := ns.foldl (fun r n => let q := splitName r.1 x touch n; (q.1, r.2 + q.2)) (s, 0)
  checkRows s r.1 x r.2

/-- Writes lanes of the row behind a name of a warp, in place; a write clears the lane's poison bit, but for the lanes of
`bad`, which it sets (R13, R371). -/
def putLanesAt (s : State) (c slot n : Nat) (m : Mask) (v : Row) (bad : Mask) : State :=
  match warpOf? s c slot with
  | none => s
  | some w => match refOfEntry (nameOf w n) with
    | none => s
    | some r =>
      let t := (launchOf s w.launch).tenant
      let old := refRow s c t r
      setRefRow s c t r { old with
        words := mkRow (fun l => if m.getLsbD l then lane v l else lane old.words l)
        poison := (old.poison &&& ~~~m) ||| (bad &&& m) }

/-- Writes lanes of the row behind a name of the word's warp. -/
def putLanes (s : State) (x : Ctx) (n : Nat) (m : Mask) (v : Row) (bad : Mask) : State :=
  putLanesAt s x.c x.slot n m v bad

/-- What a lane-wise word works on once its checks have passed: the lanes it acts on, the lanes a zero guard writes, its
source rows, and the lanes that consume poison. -/
structure LaneIn where
  nar : Mask
  zero : Mask
  srcs : List PoolRow
  kills : Mask
deriving DecidableEq, Repr

/-- The words of source `i` in a lane. -/
def LaneIn.src (i : LaneIn) (k l : Nat) : Word := lane (i.srcs.getD k freeRow).words l

/-- The checks of a lane-wise word: pending items (R46), then the map (R86), with the reload of SPILT names. `scalars` are
the items it checks whatever its lanes; `srcs` and `dsts` its names in the order of R86, `preds` the predicates it
accesses lane by lane in the order after the sources. Where no lane is active only the destinations that a zero guard
writes are checked (R52, R121). The guard predicate comes before field A, a place that R46 does not give it
(notes/assumptions/52.md). -/
def laneCheck (s : State) (x : Ctx) (scalars : List PendItem) (srcs dsts : List Nat) (preds dpreds : List PendItem) :
    Except Stop (State × LaneIn) := do
  let nar := narrowed x
  let zero := zeroLanes x
  let guard := if ctxActive x = 0 then [] else guardItems x
  if nar = 0 then
    let ds := if zero = 0 then [] else dsts
    checkPending x.w (guard ++ scalars ++ iNames ds ++ (if zero = 0 then [] else dpreds))
    checkMapped x.w ds
    let s ← reloadNames s x ds
    .ok (s, ⟨0, zero, [], 0⟩)
  else
    checkPending x.w (guard ++ scalars ++ iNames srcs ++ preds ++ iNames dsts ++ dpreds)
    checkMapped x.w (srcs ++ dsts)
    let s ← reloadNames s x (srcs ++ dsts)
    let rows := srcs.map (rowOfName s x)
    let kills := rows.foldl (fun m r => m ||| (r.poison &&& nar)) 0#32
    .ok (s, ⟨nar, zero, rows, kills⟩)

/-- Writes the results of a lane-wise word to its destination names: results in the lanes it acts on, zero and poison in
the killed ones (R371), zero in the lanes of a zero guard (R52). -/
def writeNames (s : State) (x : Ctx) (i : LaneIn) (outs : List (Nat × Row)) : Except Stop State := do
  let m := i.nar ||| i.zero
  if m = 0 then .ok s
  else
    let s ← splitNames s x m (outs.map (·.1))
    .ok (outs.foldl (fun s o => putLanes s x o.1 m
      (mkRow (fun l => if i.kills.getLsbD l || i.zero.getLsbD l then 0 else lane o.2 l)) i.kills) s)

/-- Lanes that consumed poison die (R277, R371): their bits enter DEAD, REL_LANE_KILLED goes to Ryukel, and a warp without
live lanes retires with REL_LANES_LOST. -/
def killAt (s : State) (c slot : Nat) (pc : PC) (kills : Mask) : State :=
  match warpOf? s c slot with
  | none => s
  | some w =>
    let fresh := kills &&& ~~~w.dead
    if fresh = 0 then s
    else
      let addr : DWord := pc.setWidth 64
      let id := (launchOf s w.launch).id
      let s := setWarp s c slot { w with dead := w.dead ||| fresh }
      let s := coreEvent s 0x0902 c id addr (BitVec.ofNat 64 (slot * 2 ^ 32 + fresh.toNat))
      if w.dead ||| fresh = 0xFFFFFFFF#32 then retireWarp (coreEvent s 0x0901 c id addr (tv slot)) c slot true
      else s

/-- The kills of a word, and where its warp goes after them. -/
def killLanes (s : State) (x : Ctx) (kills : Mask) (after : After) : State × After :=
  let t := killAt s x.c x.slot (trapAddr x.sp) kills
  (t, if (warpOf? t x.c x.slot).isNone then .placed else after)

/-- Changes the warp of a word. -/
def modW (s : State) (x : Ctx) (f : Warp → Warp) : State := modWarp s x.c x.slot f

/-- Writes a predicate in the lanes of a mask; nothing where there are none (R121). -/
def putPLanes (s : State) (x : Ctx) (d : BitVec 4) (m v : Mask) : State :=
  if m = 0 then s else modW s x (fun w => setPLanes w d m v)

/-- The accesses of the word's path that are set aside (R186). -/
def pathArmed (s : State) (x : Ctx) : List Armed :=
  (clOf s x.c x.w.launch).armed.filter (fun a => a.warp == x.slot && a.sec == x.sp.sec && a.retired.isNone)

/-- Whether a set-aside access of the path keeps a later access back (R203, R209 to R211; notes/assumptions/58.md): a load or an
acquire waits for those that read, every other access and every release for all of them. -/
def keptBack (s : State) (x : Ctx) (load : Bool) : Bool := (pathArmed s x).any (fun a => !load || !a.store)

/-- A lane-wise word with one destination name: its checks, its result in each lane, and its kills. -/
def laneWord (x : Ctx) (s : State) (scalars : List PendItem) (srcs : List Nat) (preds : List PendItem) (dst : Nat)
    (f : LaneIn → Nat → Word) : Except Stop (State × After) := do
  let (s, i) ← laneCheck s x scalars srcs [dst] preds []
  let s ← writeNames s x i [(dst, mkRow (f i))]
  .ok (killLanes s x i.kills .seq)

/-- A lane-wise word with a predicate destination: its result bits in the lanes it acts on, 0 in killed lanes (R371) and in
the lanes of a zero guard (R52). -/
def predWord (x : Ctx) (s : State) (srcs : List Nat) (d : BitVec 4) (f : LaneIn → Nat → Bool) :
    Except Stop (State × After) := do
  let (s, i) ← laneCheck s x [] srcs [] [] [.pred d.toNat]
  let v := mkMask (f i) &&& i.nar &&& ~~~i.kills
  .ok (killLanes (putPLanes s x d (i.nar ||| i.zero) v) x i.kills .seq)

/-- A scalar word: its pending items, then the change of the warp (R99). -/
def scalarWord (x : Ctx) (s : State) (items : List PendItem) (f : Warp → Warp) : Except Stop (State × After) := do
  checkPending x.w items
  .ok (modW s x f, .seq)

end Sys2Proof.Machine
end

