-- ==== Sys2Proof/Machine/Barrier.lean ====
section
/-! DEFINITION. Group barriers (R199 to R201, R331). -/

namespace Sys2Proof.Machine

open Sys2Proof

/-- The barrier of a group as a core's node holds it. -/
def nodeOf (s : State) (c l g : Nat) : NodeBarrier := fget (clOf s c l).barriers g ⟨0, [], none, []⟩

/-- Changes it. -/
def modNode (s : State) (c l g : Nat) (f : NodeBarrier → NodeBarrier) : State :=
  modCl s c l (fun h => { h with barriers := fput h.barriers g (f (nodeOf s c l g)) })

/-- The group that a slot names (R22); SYS_GROUP_NONE where it names none (R200). -/
def groupOf (x : Ctx) (g : BitVec 2) : Except Stop Nat :=
  let v := x.w.g[g.toNat]'g.isLt
  if v.getLsbD 8 then .ok (field v 7 0) else raise cGroupNone (tv g.toNat)

/-- An arrival at the phase that the core's node holds; a warp counts once per phase (R199, R200). Its path's set-aside accesses come
before it (R201, R331). -/
def arrive (s : State) (x : Ctx) (g : Nat) : State :=
  modNode s x.c x.w.launch g (fun n => { n with
    arrived := setAdd n.arrived x.w.lwarp, behind := (pathArmed s x).foldl (fun l a => setAdd l a.id) n.behind })

/-- GBAR (R200, R201): arrives, and the path's next span waits for that phase. -/
def execGbar (g : BitVec 2) (s : State) : Host.Outcome State Fault Refusal :=
  runWord s (fun x => do
    needLast x
    let i ← groupOf x g
    let ph := (nodeOf s x.c x.w.launch i).completed
    .ok (modW (arrive s x i) x (fun w => modPath w x.sp.sec (fun p => { p with wait := .phase i ph })), .seq))

/-- GARV (R200, R201): arrives as GBAR does, and writes the phase to sD. -/
def execGarv (d : BitVec 6) (g : BitVec 2) (s : State) : Host.Outcome State Fault Refusal :=
  runWord s (fun x => do
    checkPending x.w [iS d]
    let i ← groupOf x g
    let ph := (nodeOf s x.c x.w.launch i).completed
    .ok (modW (arrive s x i) x (fun w => setS w d (ph.setWidth 64)), .seq))

/-- GWAIT (R200, R201): the path's next span waits for phase sB. -/
def execGwait (g : BitVec 2) (b : BitVec 6) (s : State) : Host.Outcome State Fault Refusal :=
  runWord s (fun x => do
    needLast x
    checkPending x.w [iS b]
    let i ← groupOf x g
    let ph := (sReg x.w b).setWidth 32
    .ok (modW s x (fun w => modPath w x.sp.sec (fun p => { p with wait := .phase i ph })), .seq))

/-- The members of a group of a launch that stand on a core (R331). -/
def membersOn (l : Launch) (c g : Nat) : List Nat :=
  (l.groups.getD g []).filter (fun m => l.slots.any (fun e => e.1 == m && e.2.1 == c))

/-- Whether a core's node can report its members' arrival at its phase: all have arrived or retired, the set-aside accesses before
their arrivals have performed, and every store of the core before is visible in the partition (R201, R331). -/
def arriveReady (s : State) (c l g : Nat) : Bool :=
  let v := launchOf s l
  let n := nodeOf s c l g
  let ms := membersOn v c g
  v.status != .ended && !ms.isEmpty && n.sent.isNone && ms.all (fun m => setMem n.arrived m || setMem v.retired m)
    && !(clOf s c l).armed.any (fun a => setMem n.behind a.id && a.retired.isNone)
    && storesDone s (partOfCore s c) c

/-- BARRIER_ARRIVE_SEND (R331): the node sends ARRIVE up the tree, once a phase. -/
def execBarrierArriveSend (core launch group : Nat) (s : State) : Host.Outcome State Fault Refusal :=
  if arriveReady s core launch group then
    let ph := (nodeOf s core launch group).completed
    let (k, s) := takeStamp s
    let s := modNode s core launch group (fun n => { n with sent := some k })
    .next (modPart s (partOfCore s core) (fun p => { p with rootInbox := p.rootInbox ++
      ([.arrive core launch group ph] : List RootMsg) }))
  else .next s

/-- The root's record of a group's phase. -/
def rootBarrierOf (p : Partition) (l g : Nat) : RootBarrier :=
  ((p.rootBarriers.find? (fun e => e.1 == (l, g))).map (·.2)).getD ⟨0, []⟩

/-- Replaces it. -/
def setRootBarrier (p : Partition) (l g : Nat) (b : RootBarrier) : Partition :=
  { p with rootBarriers := ((l, g), b) :: p.rootBarriers.filter (fun e => e.1 != (l, g)) }

/-- The root numbers a message and sends it down to the cores of its scope (R255, R329). A core that is refusing refuses it too, and
counts it (R312). -/
def sendDown (s : State) (pn : Nat) (cores : List Nat) (m : CensusMsg) : State :=
  let s := modPart s pn (fun p => { p with rootSeq := p.rootSeq + 1 })
  cores.foldl (fun s c =>
    let s := if (coreOf s c).refusing then countNak s pn c else s
    modCore s c (fun k => { k with inbox := k.inbox ++ ([m] : List CensusMsg) })) s

/-- Whether a message for the root is an ARRIVE (R331); the others are numbered (R330). -/
def isArrive : RootMsg → Bool
  | .arrive _ _ _ _ => true
  | .solicit _ _ => false
  | .switch _ _ => false

/-- The core that sent a message to the root. -/
def rootSender : RootMsg → Nat
  | .arrive c _ _ _ => c
  | .solicit c _ => c
  | .switch c _ => c

/-- The messages that stand first of their core's: a channel keeps each core's order (R335). -/
def rootHeads (l : List RootMsg) : List RootMsg :=
  l.foldl (fun h m => if h.any (fun e => rootSender e == rootSender m) then h else h ++ [m]) []

/-- Whether a core's inbox takes a message more: the root keeps up to WIN entries that a core has not accepted (R312). -/
def inboxOpen (s : State) (pn : Nat) (cores : List Nat) : Bool :=
  cores.all (fun c => decide ((coreOf s c).inbox.length < field (reg (partOf s pn) .schNakcfg) 7 0))

/-- Whether the root refuses a message that a core sent at a place in its order, since it refused an earlier one of that core that has
not come again (R312, R330). -/
def rootRefuses (s : State) (pn c order : Nat) : Bool :=
  (coreOf s c).engines.any (fun e => decide (e.1 < order)
    && !(partOf s pn).rootInbox.any (fun m => m == .solicit c e.1 || m == .switch c e.1)
    && (match e.2.kind with
      | .solicit _ acc => !acc
      | .move _ _ _ _ sent _ => sent && !e.2.passed
      | _ => false))

/-- BARRIER_ARRIVE_COUNT (R331): the root counts an ARRIVE; once every core with members has reported, C rises and COMPLETE
goes to each of them. While the replay window of one of them is full, the root waits, and an ARRIVE behind a refused message of its
core is refused as well (R312). -/
def execBarrierArriveCount (part : Nat) (s : State) : Host.Outcome State Fault Refusal :=
  let p := partOf s part
  match (rootHeads p.rootInbox).find? isArrive with
  | some (.arrive c l g ph) =>
    let s := modPart s part (fun p => { p with rootInbox := p.rootInbox.erase (.arrive c l g ph) })
    let b := rootBarrierOf p l g
    if b.completed ≠ ph ∨ (launchOf s l).status = .ended ∨ rootRefuses s part c ((nodeOf s c l g).sent.getD 0) = true then .next s
    else
      let rep := setAdd b.reported c
      let cs := groupCores (launchOf s l) g
      if cs.all (setMem rep) && !inboxOpen s part cs then .next (modPart s part (fun _ => p))
      else if cs.all (setMem rep) then
        let s := modPart s part (fun p => setRootBarrier p l g ⟨b.completed + 1, []⟩)
        .next (sendDown s part cs (.complete l g (b.completed + 1)))
      else .next (modPart s part (fun p => setRootBarrier p l g ⟨b.completed, rep⟩))
  | _ => .next s

/-- BARRIER_COMPLETE (R331): a core's node applies COMPLETE, which ends the waits on the phase. -/
def execBarrierComplete (core : Nat) (s : State) : Host.Outcome State Fault Refusal :=
  match (coreOf s core).inbox with
  | .complete l g n :: rest =>
    if (coreOf s core).refusing then .next s
    else
      let s := modCore s core (fun k => { k with inbox := rest })
      if (fget? (coreOf s core).launches l).isNone then .next s
      else .next (modNode s core l g (fun _ => ⟨n, [], none, []⟩))
  | _ => .next s

end Sys2Proof.Machine
end

