-- ==== Sys2Proof/Machine/Numbers.lean ====
section
/-! DEFINITION. The number formats and their exact arithmetic: values, rounding with its conditions, saturation (R61 to
R68), the Q4X block (R69, R70), the 32-leaf tree (R73, R74), conversions (R131) and the special functions (R132 to
R138). -/

namespace Sys2Proof.Machine

open Sys2Proof

/-! ## Formats (R61, R63) -/

/-- The floating-point formats. -/
inductive Fmt where
  | f32 | f16 | bf16 | e4m3 | e5m2
deriving DecidableEq, Repr

/-- Bits of M, of the format, and the bias. -/
def Fmt.mBits : Fmt → Nat
  | .f32 => 23 | .f16 => 10 | .bf16 => 7 | .e4m3 => 3 | .e5m2 => 2
def Fmt.width : Fmt → Nat
  | .f32 => 32 | .f16 => 16 | .bf16 => 16 | .e4m3 => 8 | .e5m2 => 8
def Fmt.bias : Fmt → Nat
  | .f32 => 127 | .f16 => 15 | .bf16 => 127 | .e4m3 => 7 | .e5m2 => 15

/-- The canonical NaN, and the code of +∞ where the format has one, else of the canonical NaN (R63, R66). -/
def Fmt.nanBits : Fmt → Nat
  | .f32 => 0x7FC00000 | .f16 => 0x7E00 | .bf16 => 0x7FC0 | .e4m3 => 0x7F | .e5m2 => 0x7E
def Fmt.infBits : Fmt → Nat
  | .f32 => 0x7F800000 | .f16 => 0x7C00 | .bf16 => 0x7F80 | .e4m3 => 0x7F | .e5m2 => 0x7C

/-- The code of the largest finite value, and its significand and exponent as an integer times a power of two. -/
def Fmt.maxBits : Fmt → Nat
  | .f32 => 0x7F7FFFFF | .f16 => 0x7BFF | .bf16 => 0x7F7F | .e4m3 => 0x7E | .e5m2 => 0x7B
def Fmt.maxSig : Fmt → Nat
  | .f32 => 16777215 | .f16 => 2047 | .bf16 => 255 | .e4m3 => 14 | .e5m2 => 7
def Fmt.maxExp : Fmt → Int
  | .f32 => 104 | .f16 => 5 | .bf16 => 120 | .e4m3 => 5 | .e5m2 => 13

/-- The exponent of the smallest normal value. -/
def Fmt.minExp (f : Fmt) : Int := 1 - (f.bias : Int)

/-- A value: a NaN, an infinity, or a sign with an integer times a power of two. -/
inductive FVal where
  | nan
  | inf (neg : Bool)
  | fin (neg : Bool) (m : Nat) (e : Int)
deriving DecidableEq, Repr

/-- The value that a code stands for (R61). -/
def unpack (f : Fmt) (v : Nat) : FVal :=
  let m := v % 2 ^ f.mBits
  let eb := f.width - 1 - f.mBits
  let e := v / 2 ^ f.mBits % 2 ^ eb
  let neg := v.testBit (f.width - 1)
  if e = 2 ^ eb - 1 ∧ (f ≠ .e4m3 ∨ m = 7) then
    (if m = 0 then .inf neg else .nan)
  else if e = 0 then .fin neg m (f.minExp - f.mBits)
  else .fin neg (2 ^ f.mBits + m) ((e : Int) - f.bias - f.mBits)

/-- Whether a code is a signalling NaN (R63). -/
def isSignalling (f : Fmt) (v : Nat) : Bool :=
  (f == .f32 || f == .f16 || f == .bf16) && unpack f v == .nan && !v.testBit (f.mBits - 1)

/-- The sign bit of a format. -/
def signBits (f : Fmt) (neg : Bool) : Nat := if neg then 2 ^ (f.width - 1) else 0

/-! ## Conditions (R77) -/

/-- The conditions that a computation raises: the sticky flags of FPSR. -/
structure Flags where
  nv : Bool := false
  dz : Bool := false
  of_ : Bool := false
  uf : Bool := false
  nx : Bool := false
  ol : Bool := false
deriving DecidableEq, Repr

/-- No condition. -/
def Flags.none : Flags := {}

/-- The conditions of two computations together. -/
def Flags.join (a b : Flags) : Flags :=
  ⟨a.nv || b.nv, a.dz || b.dz, a.of_ || b.of_, a.uf || b.uf, a.nx || b.nx, a.ol || b.ol⟩

/-! ## Rounding (R65 to R68) -/

/-- The rounding modes. -/
inductive Rm where
  | rne | rtz | rup | rdn | rna
deriving DecidableEq, Repr

/-- The mode of a code of FPSR.RM (R20). -/
def rmOfFpsr : Nat → Rm
  | 1 => .rtz | 2 => .rup | 3 => .rdn | 4 => .rna | _ => .rne

/-- A magnitude m × 2^e rounded under a mode to a whole number of 2^q. -/
def roundAt (rm : Rm) (neg : Bool) (m : Nat) (e q : Int) : Nat :=
  if q ≤ e then m * 2 ^ (e - q).toNat
  else
    let sh := (q - e).toNat
    let fl := m / 2 ^ sh
    let rem := m % 2 ^ sh
    let half := 2 ^ (sh - 1)
    let up := match rm with
      | .rne => decide (rem > half) || (rem == half && fl % 2 == 1)
      | .rna => decide (rem ≥ half)
      | .rtz => false
      | .rup => !neg && decide (rem > 0)
      | .rdn => neg && decide (rem > 0)
    if up then fl + 1 else fl

/-- Whether a mode takes an overflowing value of a sign to infinity (R66). -/
def overflowsToInf (rm : Rm) (neg : Bool) : Bool :=
  match rm with
  | .rne | .rna => true
  | .rtz => false
  | .rup => !neg
  | .rdn => neg

/-- A finite exact value rounded once to a format, with its conditions (R65 to R68). -/
def roundFin (f : Fmt) (rm : Rm) (sat neg : Bool) (m : Nat) (e : Int) : Nat × Flags :=
  if m = 0 then (signBits f neg, .none)
  else
    let q0 := e + Nat.log2 m - f.mBits
    let k0 := roundAt rm neg m e q0
    if q0 > f.maxExp || (q0 == f.maxExp && decide (k0 > f.maxSig)) then
      let v := if sat || !overflowsToInf rm neg then signBits f neg + f.maxBits
        else if f = .e4m3 then f.nanBits else signBits f neg + f.infBits
      (v, { of_ := true, nx := true })
    else
      let lo := f.minExp - f.mBits
      let q := max q0 lo
      let k := roundAt rm neg m e q
      let exact := q ≤ e || m % 2 ^ (q - e).toNat == 0
      let tiny := q0 < lo && !(q0 + 1 == lo && k0 == 2 ^ (f.mBits + 1))
      (signBits f neg + (q - lo).toNat * 2 ^ f.mBits + k, { uf := tiny && !exact, nx := !exact })

/-- A value rounded to a format: a NaN gives the canonical one, an infinity passes through, saturated with SAT (R63, R66,
R68). -/
def roundVal (f : Fmt) (rm : Rm) (sat : Bool) : FVal → Nat × Flags
  | .nan => (f.nanBits, .none)
  | .inf neg =>
    if f = .e4m3 then (if sat then signBits f neg + f.maxBits else f.nanBits, { nv := true })
    else (signBits f neg + (if sat then f.maxBits else f.infBits), .none)
  | .fin neg m e => roundFin f rm sat neg m e

/-! ## Exact operations -/

/-- The value with its sign inverted. -/
def FVal.negate : FVal → FVal
  | .nan => .nan
  | .inf n => .inf (!n)
  | .fin n m e => .fin (!n) m e

/-- A signed integer times a power of two; a zero takes the given sign. -/
def finOf (v : Int) (e : Int) (zneg : Bool) : FVal :=
  if v = 0 then .fin zneg 0 e else .fin (decide (v < 0)) v.natAbs e

/-- The exact sum, with whether it is invalid; a zero sum of opposite signs is +0, or −0 under RDN (R65, R74). -/
def addVal (rm : Rm) : FVal → FVal → FVal × Bool
  | .nan, _ => (.nan, false)
  | _, .nan => (.nan, false)
  | .inf a, .inf b => if a = b then (.inf a, false) else (.nan, true)
  | .inf a, _ => (.inf a, false)
  | _, .inf b => (.inf b, false)
  | .fin a m e, .fin b n g =>
    let q := min e g
    let x : Int := (m * 2 ^ (e - q).toNat : Nat)
    let y : Int := (n * 2 ^ (g - q).toNat : Nat)
    let sgn (neg : Bool) (v : Int) : Int := if neg then -v else v
    (finOf (sgn a x + sgn b y) q (if a = b then a else rm == .rdn), false)

/-- The exact product, with whether it is invalid. -/
def mulVal : FVal → FVal → FVal × Bool
  | .nan, _ => (.nan, false)
  | _, .nan => (.nan, false)
  | .inf a, .inf b => (.inf (a != b), false)
  | .inf a, .fin b m _ => if m = 0 then (.nan, true) else (.inf (a != b), false)
  | .fin b m _, .inf a => if m = 0 then (.nan, true) else (.inf (a != b), false)
  | .fin a m e, .fin b n g => (.fin (a != b) (m * n) (e + g), false)

/-- The comparison of two values that are no NaNs: their order as integers over a common power, +0 equal to −0. -/
def cmpVal : FVal → FVal → Ordering
  | .inf a, .inf b => if a = b then .eq else if a then .lt else .gt
  | .inf a, _ => if a then .lt else .gt
  | _, .inf b => if b then .gt else .lt
  | .fin a m e, .fin b n g =>
    let q := min e g
    let x : Int := (m * 2 ^ (e - q).toNat : Nat)
    let y : Int := (n * 2 ^ (g - q).toNat : Nat)
    let sgn (neg : Bool) (v : Int) : Int := if neg then -v else v
    compare (sgn a x) (sgn b y)
  | _, _ => .eq

/-- The order of two codes with −0 below +0 (R74, R127). -/
def totalKey (f : Fmt) (v : Nat) : Int :=
  let m : Int := (v % 2 ^ (f.width - 1) : Nat)
  if v.testBit (f.width - 1) then -m - 1 else m

/-! ## The arithmetic of R126 to R128 -/

/-- The invalid condition of signalling operands. -/
def sigFlags (f : Fmt) (l : List Nat) : Flags := { nv := l.any (isSignalling f) }

/-- A sum rounded once (R126). -/
def fAdd (f : Fmt) (rm : Rm) (sat : Bool) (a b : Nat) : Nat × Flags :=
  let r := addVal rm (unpack f a) (unpack f b)
  let v := roundVal f rm sat r.1
  (v.1, (v.2.join { nv := r.2 }).join (sigFlags f [a, b]))

/-- The code with its sign bit inverted. -/
def flipSign (f : Fmt) (v : Nat) : Nat :=
  if v.testBit (f.width - 1) then v - 2 ^ (f.width - 1) else v + 2 ^ (f.width - 1)

/-- A difference rounded once (R126). -/
def fSub (f : Fmt) (rm : Rm) (sat : Bool) (a b : Nat) : Nat × Flags := fAdd f rm sat a (flipSign f b)

/-- A product rounded once (R126). -/
def fMul (f : Fmt) (rm : Rm) (sat : Bool) (a b : Nat) : Nat × Flags :=
  let r := mulVal (unpack f a) (unpack f b)
  let v := roundVal f rm sat r.1
  (v.1, (v.2.join { nv := r.2 }).join (sigFlags f [a, b]))

/-- x × y + c rounded once (R126). -/
def fFma (f : Fmt) (rm : Rm) (sat : Bool) (a b c : Nat) : Nat × Flags :=
  let p := mulVal (unpack f a) (unpack f b)
  let r := addVal rm p.1 (unpack f c)
  let v := roundVal f rm sat r.1
  (v.1, (v.2.join { nv := p.2 || r.2 }).join (sigFlags f [a, b, c]))

/-- Whether a code is a NaN. -/
def isNan (f : Fmt) (v : Nat) : Bool := unpack f v == .nan

/-- The smaller or larger operand (R127). -/
def fMinMax (f : Fmt) (larger : Bool) (a b : Nat) : Nat × Flags :=
  let fl := sigFlags f [a, b]
  if isNan f a || isNan f b then (f.nanBits, fl)
  else if decide (totalKey f a ≤ totalKey f b) = larger then (b, fl) else (a, fl)

/-- FABS and FNEG on a code (R127). -/
def fAbs (f : Fmt) (a : Nat) : Nat × Flags :=
  (if isNan f a then f.nanBits else a % 2 ^ (f.width - 1), .none)
def fNeg (f : Fmt) (a : Nat) : Nat × Flags := (if isNan f a then f.nanBits else flipSign f a, .none)

/-- The relation of FCMP number cc, with its condition (R128). -/
def fCmp (f : Fmt) (cc a b : Nat) : Bool × Flags :=
  let uno := isNan f a || isNan f b
  let o := cmpVal (unpack f a) (unpack f b)
  let rel : Bool := match cc with
    | 0 => !uno && o == .eq
    | 1 => !uno && o == .lt
    | 2 => !uno && o != .gt
    | 3 => !uno && o == .gt
    | 4 => !uno && o != .lt
    | 5 => !uno && o != .eq
    | 6 => !uno
    | 7 => uno
    | 8 => uno || o == .eq
    | 9 => uno || o == .lt
    | 10 => uno || o != .gt
    | 11 => uno || o == .gt
    | 12 => uno || o != .lt
    | _ => uno || o != .eq
  let quietToo := decide (1 ≤ cc) && decide (cc ≤ 4)
  (rel, { nv := (sigFlags f [a, b]).nv || (quietToo && uno) })

/-! ## Conversions (R68, R130, R131) -/

/-- The floating-point format of a type code (R60). -/
def fmtOfType : Nat → Option Fmt
  | 0 => some .f32 | 1 => some .f16 | 2 => some .bf16 | 3 => some .e4m3 | 4 => some .e5m2
  | _ => none

/-- The bounds of an integer type code: INT8, UINT8, INT32 (R64). -/
def intBounds : Nat → Int × Int
  | 5 => (-128, 127)
  | 6 => (0, 255)
  | _ => (-2147483648, 2147483647)

/-- The integer that a lane word holds under a type code (R130). -/
def intOfType (ty : Nat) (w : Word) : Int :=
  if ty = 5 then (w.extractLsb' 0 8).toInt else if ty = 6 then ((w.toNat % 256 : Nat) : Int) else w.toInt

/-- An integer placed as the type code says (R130). -/
def placeInt (ty : Nat) (v : Int) : Word :=
  if ty = 5 then (BitVec.ofInt 8 v).signExtend 32 else if ty = 6 then (BitVec.ofInt 8 v).setWidth 32 else BitVec.ofInt 32 v

/-- A number clamped to bounds. -/
def clampInt (b : Int × Int) (v : Int) : Int := max b.1 (min b.2 v)

/-- A value converted to an integer type (R68). -/
def toIntType (ty : Nat) (rm : Rm) : FVal → Int × Flags
  | .nan => (0, { nv := true })
  | .inf neg => (if neg then (intBounds ty).1 else (intBounds ty).2, { nv := true })
  | .fin neg m e =>
    let k := roundAt rm neg m e 0
    let v : Int := if neg then -(k : Int) else k
    let c := clampInt (intBounds ty) v
    if c ≠ v then (c, { nv := true })
    else (v, { nx := e < 0 && m % 2 ^ (-e).toNat != 0 })

/-- FCVT on a lane word (R130, R131). -/
def fCvt (dst src : Nat) (rm : Rm) (sat : Bool) (w : Word) : Word × Flags :=
  match fmtOfType src, fmtOfType dst with
  | some fs, some fd =>
    let a := w.toNat % 2 ^ fs.width
    let v := roundVal fd rm sat (unpack fs a)
    (BitVec.ofNat 32 v.1, v.2.join (sigFlags fs [a]))
  | some fs, none =>
    let v := toIntType dst rm (unpack fs (w.toNat % 2 ^ fs.width))
    (placeInt dst v.1, v.2)
  | none, some fd =>
    let v := roundVal fd rm sat (finOf (intOfType src w) 0 false)
    (BitVec.ofNat 32 v.1, v.2)
  | none, none =>
    let v := intOfType src w
    (placeInt dst (if sat then clampInt (intBounds dst) v else v), .none)

/-! ## The reduction tree (R73, R74) -/

/-- One level of the tree; an absent child passes its sibling up. -/
def treeLevel {α : Type} (f : α → α → α) : List (Option α) → List (Option α)
  | a :: b :: r => (match a, b with
    | none, b => b
    | a, none => a
    | some x, some y => some (f x y)) :: treeLevel f r
  | l => l

/-- The tree of 32 leaves (R73). -/
def tree32 {α : Type} (f : α → α → α) (l : List (Option α)) : Option α :=
  (treeLevel f (treeLevel f (treeLevel f (treeLevel f (treeLevel f l))))).headD none

/-- The floating-point sum F of R74 on values, with the conditions met so far. -/
def sumRne (a b : FVal × Flags) : FVal × Flags :=
  let r := addVal .rne a.1 b.1
  let v := roundVal .f32 .rne false r.1
  (unpack .f32 v.1, ((a.2.join b.2).join v.2).join { nv := r.2 })

/-- F of R74 on FP32 codes: SUMF, MAXF and MINF by number 0, 1 and 2. -/
def combineF (op : Nat) (a b : Nat × Flags) : Nat × Flags :=
  let r := if op = 0 then
      (let q := addVal .rne (unpack .f32 a.1) (unpack .f32 b.1)
       let v := roundVal .f32 .rne false q.1
       (v.1, v.2.join { nv := q.2 }))
    else ((fMinMax .f32 (op == 1) a.1 b.1).1, Flags.none)
  (r.1, (a.2.join b.2).join r.2)

/-! ## Q4X blocks (R69, R70) -/

/-- A decoded element: an integer code or an outlier's E4M3 code. -/
inductive Q4Elem where
  | int (v : Int)
  | outlier (code : Nat)
deriving DecidableEq, Repr

/-- The integer of a 4-bit code (R69). -/
def q4Int (c : Nat) : Int := if c < 8 then (c : Int) else (c : Int) - 16

/-- The element that a marker decodes as, by its count from 1 (R70). -/
def q4Marker (side count low : Nat) : Q4Elem :=
  if count = 1 then .outlier (side % 16 * 16 + low)
  else if count = 2 then .outlier (side / 16 % 16 * 16 + low)
  else .int 0

/-- Decodes the pairs of a block in order (R70): the elements, and whether a third marker was met. -/
def q4Pairs (side : Nat) : Nat → List Byte → List Q4Elem × Bool
  | _, [] => ([], false)
  | n, b :: bs =>
    let lo := b.toNat % 16
    let hi := b.toNat / 16
    if lo = 8 then
      let r := q4Pairs side (n + 1) bs
      (q4Marker side (n + 1) hi :: .int 0 :: r.1, r.2 || decide (n + 1 > 2))
    else if hi = 8 then
      let r := q4Pairs side (n + 1) bs
      (.int 0 :: q4Marker side (n + 1) lo :: r.1, r.2 || decide (n + 1 > 2))
    else
      let r := q4Pairs side n bs
      (.int (q4Int lo) :: .int (q4Int hi) :: r.1, r.2)

/-- An element as a value (R69, R70). -/
def Q4Elem.val : Q4Elem → FVal
  | .int v => finOf v 0 false
  | .outlier c => unpack .e4m3 c

/-- An element as the integer path takes it, with its condition (R72). -/
def Q4Elem.int32 : Q4Elem → Int × Flags
  | .int v => (v, .none)
  | .outlier c => match unpack .e4m3 c with
    | .fin neg m e => (let k := roundAt .rne neg m e 0
                       if neg then -(k : Int) else k, .none)
    | _ => (0, { nv := true })

/-! ## Special functions (R132 to R138) -/

/-- The integer square root, digit by digit from bit `b` down. -/
def isqrtFrom (n : Nat) : Nat → Nat → Nat
  | 0, r => r
  | b + 1, r => if (r + 2 ^ b) * (r + 2 ^ b) ≤ n then isqrtFrom n b (r + 2 ^ b) else isqrtFrom n b r
def isqrt (n : Nat) : Nat := isqrtFrom n (Nat.log2 n / 2 + 1) 0

/-- An irrational or inexact value given by its floor of 2^-k: one more bit says that something lies beyond. -/
def stickyVal (fl : Nat) (exact : Bool) (k : Nat) : FVal :=
  .fin false (2 * fl + (if exact then 0 else 1)) (-(k : Int) - 1)

/-- RoundRNE to FP32, as a value. -/
def rne32 (v : FVal) : FVal := unpack .f32 (roundVal .f32 .rne false v).1

/-- A constant given by its FP32 code. -/
def c32 (v : Nat) : FVal := unpack .f32 v

/-- The exact product and the fused step Fma of R132. -/
def times (a b : FVal) : FVal := (mulVal a b).1
def plus (a b : FVal) : FVal := (addVal .rne a b).1
def fma32 (a b c : FVal) : FVal := rne32 (plus (times a b) c)

/-- 2^n times a value. -/
def scale2 (v : FVal) (n : Int) : FVal :=
  match v with
  | .fin s m e => .fin s m (e + n)
  | w => w

/-- RT of R133: 1 / (1 + i/64) rounded. -/
def tabRT (i : Nat) : FVal :=
  rne32 (stickyVal (64 * 2 ^ 40 / (64 + i)) (64 * 2 ^ 40 % (64 + i) == 0) 40)

/-- RS of R134: (2^a (1 + j/32))^(-1/2) rounded, i = 32a + j. -/
def tabRS (i : Nat) : FVal :=
  let d := 2 ^ (i / 32) * (32 + i % 32)
  let q := 32 * 2 ^ 80 / d
  let r := isqrt q
  rne32 (stickyVal r (r * r == q && 32 * 2 ^ 80 % d == 0) 40)

/-- ET of R135: 2^(j/64) rounded, the 64th root of 2^j taken as six square roots. -/
def tabET (j : Nat) : FVal :=
  rne32 (stickyVal (isqrt (isqrt (isqrt (isqrt (isqrt (isqrt (2 ^ (j + 64 * 30)))))))) (j == 0) 30)

/-- LL of R136: -log2(RT[i]) rounded, worked out to 120 digits outside and written here (notes/assumptions/17.md). -/
def tabLL (i : Nat) : FVal :=
  c32 (([0x00000000, 0x3CB73CB3, 0x3D35D690, 0x3D8759C9, 0x3DB31FB7, 0x3DDE420E, 0x3E0462C4, 0x3E195751] ++
    [0x3E2E00D1, 0x3E42615F, 0x3E567AEF, 0x3E6A4F70, 0x3E7DE0B5, 0x3E88983F, 0x3E92203D, 0x3E9B8925] ++
    [0x3EA4D3C2, 0x3EAE00D1, 0x3EB71110, 0x3EC0052D, 0x3EC8DDD3, 0x3ED19BAF, 0x3EDA3F60, 0x3EE2C97E] ++
    [0x3EEB3A9E, 0x3EF39355, 0x3EFBD42A, 0x3F01FED4, 0x3F060828, 0x3F0A0650, 0x3F0DF98A, 0x3F11E20E] ++
    [0x3F15C01A, 0x3F1993E4, 0x3F1D5DA0, 0x3F211D84, 0x3F24D3C3, 0x3F28808D, 0x3F2C2410, 0x3F2FBE7F] ++
    [0x3F335004, 0x3F36D8CA, 0x3F3A58FE, 0x3F3DD0C9, 0x3F41404E, 0x3F44A7BB, 0x3F480731, 0x3F4B5ED6] ++
    [0x3F4EAECF, 0x3F51F740, 0x3F553847, 0x3F58720A, 0x3F5BA4A5, 0x3F5ED038, 0x3F61F4E5, 0x3F6512C6] ++
    [0x3F6829FA, 0x3F6B3AA0, 0x3F6E44CF, 0x3F7148A2, 0x3F744636, 0x3F773DA2, 0x3F7A2F03, 0x3F7D1A71]).getD i 0)

/-- Decompose of R132: the significand as a 24-bit integer of 2^-23, and the exponent. -/
def decompose (m : Nat) (e : Int) : Nat × Int :=
  let l := Nat.log2 m
  (m * 2 ^ (23 - l), e + l)

/-- Lines 01 to 07 of R133 and the exact product of line 08 for a positive finite value. -/
def rcpExact (m : Nat) (e : Int) : FVal :=
  let d := decompose m e
  let i := d.1 / 2 ^ 17 % 64
  let mv : FVal := .fin false d.1 (-23)
  let u := rne32 (plus (times mv (tabRT i)) (c32 0xBF800000))
  let h := fma32 u (c32 0x3F800000) (c32 0xBF800000)
  let h := fma32 u h (c32 0x3F800000)
  let h := fma32 u h (c32 0xBF800000)
  let h := fma32 u h (c32 0x3F800000)
  scale2 (times (tabRT i) h) (-d.2)

/-- R134 up to its last rounding. -/
def rsqExact (m : Nat) (e : Int) : FVal :=
  let d := decompose m e
  let a := (d.2 % 2).toNat
  let k := (d.2 - a) / 2
  let i := 32 * a + d.1 / 2 ^ 18 % 32
  let mv : FVal := .fin false d.1 (-23 + a)
  let u := rne32 (plus (times (times mv (tabRS i)) (tabRS i)) (c32 0xBF800000))
  let h := fma32 u (c32 0x3E8C0000) (c32 0xBEA00000)
  let h := fma32 u h (c32 0x3EC00000)
  let h := fma32 u h (c32 0xBF000000)
  let h := fma32 u h (c32 0x3F800000)
  scale2 (times (tabRS i) h) (-k)

/-- Lines 03 to 07 of R135 before the last rounding, for x = ±m × 2^e. -/
def ex2Exact (neg : Bool) (m : Nat) (e : Int) : FVal :=
  -- x × 64 as an integer times 2^q with q ≤ 0
  let q := min (e + 6) 0
  let t : Int := (m * 2 ^ (e + 6 - q).toNat : Nat)
  let t := if neg then -t else t
  let one : Int := (2 ^ (-q).toNat : Nat)
  let kk := t / one
  let j := (kk % 64).toNat
  let n := (kk - j) / 64
  let r := finOf (t - kk * one) (q - 6) false
  let h := fma32 r (c32 0x3D635847) (c32 0x3E75FDF0)
  let h := fma32 r h (c32 0x3F317218)
  let h := fma32 r h (c32 0x3F800000)
  scale2 (times (tabET j) h) n

/-- R136 up to its last rounding. -/
def lg2Exact (m : Nat) (e : Int) : FVal :=
  let d := decompose m e
  let i := d.1 / 2 ^ 17 % 64
  let mv : FVal := .fin false d.1 (-23)
  let u := rne32 (plus (times mv (tabRT i)) (c32 0xBF800000))
  let h := fma32 u (c32 0xBEB8AA3B) (c32 0x3EF6384F)
  let h := fma32 u h (c32 0xBF38AA3B)
  let h := fma32 u h (c32 0x3FB8AA3B)
  let q := rne32 (times u h)
  plus (plus (finOf d.2 0 false) (tabLL i)) q

/-- The square root before its rounding (R132). -/
def sqrtExact (m : Nat) (e : Int) : FVal :=
  let o := (e % 2).toNat
  let v := m * 2 ^ (60 + o)
  let r := isqrt v
  .fin false (2 * r + (if r * r = v then 0 else 1)) ((e - o - 60) / 2 - 1)

/-- The result of a special function whose operand is NaN. -/
def nanResult (a : Nat) : Nat × Flags := (Fmt.f32.nanBits, sigFlags .f32 [a])

/-- An infinite result, the largest finite value with SAT, with conditions (R132). -/
def infResult (sat neg : Bool) (fl : Flags) : Nat × Flags := ((roundVal .f32 .rne sat (.inf neg)).1, fl)

/-- An invalid operand (R138). -/
def invalidResult : Nat × Flags := (Fmt.f32.nanBits, { nv := true })

/-- FRCP (R133, R138). -/
def sfRcp (sat : Bool) (a : Nat) : Nat × Flags :=
  match unpack .f32 a with
  | .nan => nanResult a
  | .inf neg => (signBits .f32 neg, .none)
  | .fin neg m e =>
    if m = 0 then infResult sat neg { dz := true }
    else
      let v := rcpExact m e
      roundVal .f32 .rne sat (if neg then v.negate else v)

/-- FRSQ (R134, R138). -/
def sfRsq (sat : Bool) (a : Nat) : Nat × Flags :=
  match unpack .f32 a with
  | .nan => nanResult a
  | .inf neg => if neg then invalidResult else (0, .none)
  | .fin neg m e =>
    if m = 0 then infResult sat neg { dz := true }
    else if neg then invalidResult
    else roundVal .f32 .rne sat (rsqExact m e)

/-- FSQRT, correctly rounded under the mode (R132, R138). -/
def sfSqrt (rm : Rm) (sat : Bool) (a : Nat) : Nat × Flags :=
  match unpack .f32 a with
  | .nan => nanResult a
  | .inf neg => if neg then invalidResult else infResult sat false .none
  | .fin neg m e =>
    if m = 0 then (signBits .f32 neg, .none)
    else if neg then invalidResult
    else roundVal .f32 rm sat (sqrtExact m e)

/-- FEX2 (R135, R138). -/
def sfEx2 (sat : Bool) (a : Nat) : Nat × Flags :=
  match unpack .f32 a with
  | .nan => nanResult a
  | .inf neg => if neg then (0, .none) else infResult sat false .none
  | .fin neg m e =>
    if m = 0 then (0x3F800000, .none)
    else if cmpVal (.fin neg m e) (.fin false 128 0) ≠ .lt then infResult sat false { of_ := true, nx := true }
    else if cmpVal (.fin neg m e) (.fin true 150 0) = .lt then (0, { uf := true, nx := true })
    else roundVal .f32 .rne sat (ex2Exact neg m e)

/-- FLG2 (R136, R138). -/
def sfLg2 (sat : Bool) (a : Nat) : Nat × Flags :=
  match unpack .f32 a with
  | .nan => nanResult a
  | .inf neg => if neg then invalidResult else infResult sat false .none
  | .fin neg m e =>
    if m = 0 then infResult sat true { dz := true }
    else if neg then invalidResult
    else roundVal .f32 .rne sat (lg2Exact m e)

/-- The last step of FTANH for a positive finite value below 10 (R137). -/
def tanhExact (m : Nat) (e : Int) : FVal :=
  let a : FVal := .fin false m e
  if cmpVal a (.fin false 1 (-2)) = .lt then
    let w := rne32 (times a a)
    let h := fma32 w (c32 0x3CB327A3) (c32 0xBD5D0DB2)
    let h := fma32 w h (c32 0x3E088889)
    let h := fma32 w h (c32 0xBEAAAAAB)
    let h := rne32 (times w h)
    plus a (times a h)
  else
    match rne32 (times a (c32 0x4038AA3B)) with
    | .fin neg zm ze => match rne32 (plus (rne32 (ex2Exact neg zm ze)) (c32 0x3F800000)) with
      | .fin _ gm ge => plus (c32 0x3F800000) (times (c32 0xC0000000) (rne32 (rcpExact gm ge)))
      | _ => .nan
    | _ => .nan

/-- FTANH (R137, R138). -/
def sfTanh (sat : Bool) (a : Nat) : Nat × Flags :=
  match unpack .f32 a with
  | .nan => nanResult a
  | .inf neg => (signBits .f32 neg + 0x3F800000, .none)
  | .fin neg m e =>
    if m = 0 then (signBits .f32 neg, .none)
    else if cmpVal (.fin false m e) (.fin false 10 0) ≠ .lt then (signBits .f32 neg + 0x3F800000, { nx := true })
    else
      let v := roundVal .f32 .rne sat (tanhExact m e)
      (v.1 + signBits .f32 neg, v.2)

end Sys2Proof.Machine
end

