-- ==== Sys2Proof/Machine/Flags.lean ====
section
/-! DEFINITION. The sticky flags of FPSR and the exception counters of a core (R20, R77 to R79), and the fields of PFXB
that arithmetic reads (R53, R65, R125). -/

namespace Sys2Proof.Machine

open Sys2Proof

/-- The conditions as bits of FPSR (R20). -/
def fpsrBits (f : Flags) : DWord :=
  BitVec.ofNat 64 ((if f.nv then 2 ^ 8 else 0) + (if f.dz then 2 ^ 9 else 0) + (if f.of_ then 2 ^ 10 else 0)
    + (if f.uf then 2 ^ 11 else 0) + (if f.nx then 2 ^ 12 else 0) + (if f.ol then 2 ^ 13 else 0))

/-- Sets sticky flags of a warp (R20). -/
def stickFlags (w : Warp) (f : Flags) : Warp := { w with fpsr := w.fpsr ||| fpsrBits f }

/-- Adds to the exception counters, in the order NV, DZ, OF, UF, NX, OL (R32, R77). -/
def countFlags (k : Core) (l : List Flags) : Core :=
  let n (f : Flags → Bool) : BitVec 48 := BitVec.ofNat 48 (l.filter f).length
  { k with xcnt := #v[k.xcnt[0] + n (·.nv), k.xcnt[1] + n (·.dz), k.xcnt[2] + n (·.of_), k.xcnt[3] + n (·.uf),
      k.xcnt[4] + n (·.nx), k.xcnt[5] + n (·.ol)] }

/-- Raises the conditions of a word: one entry for each lane that computes an element, or one for the whole word where
the rules count it once (R78, R79). -/
def raiseFlags (s : State) (c slot : Nat) (l : List Flags) : State :=
  let all := l.foldl Flags.join .none
  if all = .none then s
  else modCore (modWarp s c slot (fun w => stickFlags w all)) c (fun k => countFlags k l)

/-- The rounding mode of a word: RM of its PFXB, or FPSR.RM (R53, R65). -/
def rmOf (x : Ctx) : Rm :=
  match (x.sp.pfxb.map (·.rm.toNat)).getD 0 with
  | 1 => .rne | 2 => .rtz | 3 => .rup | 4 => .rdn | 5 => .rna
  | _ => rmOfFpsr (field x.w.fpsr 2 0)

/-- The format of a word: FP16 or BF16 by TYPE of its PFXB, else its own (R123, R125). -/
def fmtOf (x : Ctx) (own : Fmt) : Fmt :=
  match (x.sp.pfxb.map (·.ty.toNat)).getD 15 with
  | 0 => .f32 | 1 => .f16 | 2 => .bf16
  | _ => own

/-- The code that a lane word holds in a format: its low bits (R123). -/
def codeOf (f : Fmt) (w : Word) : Nat := w.toNat % 2 ^ f.width

end Sys2Proof.Machine
end

