-- ==== Sys2Proof/Machine/Scalar.lean ====
section
/-! DEFINITION. The scalar instructions (R99 to R103). -/

namespace Sys2Proof.Machine

open Sys2Proof

/-- Bits [127:64] of the signed product of two scalars (R101). -/
def mulHigh64 (x y : DWord) : DWord := BitVec.ofInt 64 (x.toInt * y.toInt / 2 ^ 64)

/-- A shift left, 0 from 64 on (R101). -/
def shl64 (x y : DWord) : DWord := if y.toNat ≥ 64 then 0 else x <<< y.toNat

/-- A logical shift right, 0 from 64 on (R101). -/
def shr64 (x y : DWord) : DWord := if y.toNat ≥ 64 then 0 else x >>> y.toNat

/-- An arithmetic shift right, all sign bits from 64 on (R101). -/
def sra64 (x y : DWord) : DWord := x.sshiftRight (min y.toNat 64)

/-- Signed minimum and maximum (R101). -/
def min64 (x y : DWord) : DWord := if x.toInt ≤ y.toInt then x else y
def max64 (x y : DWord) : DWord := if x.toInt ≤ y.toInt then y else x

/-- The condition `cc` of R102 on values of any one width. -/
def ccHolds {n : Nat} (cc : BitVec 3) (x y : BitVec n) : Bool :=
  match cc.toNat with
  | 0 => x == y
  | 1 => x != y
  | 2 => decide (x.toInt < y.toInt)
  | 3 => decide (x.toInt ≤ y.toInt)
  | 4 => decide (x.toInt > y.toInt)
  | 5 => decide (x.toInt ≥ y.toInt)
  | 6 => decide (x.toNat < y.toNat)
  | _ => decide (x.toNat ≥ y.toNat)

/-- A 7-bit immediate sign-extended, and zero-extended, to 64 bits (R38). -/
def imm7s (b : BitVec 7) : DWord := b.signExtend 64
def imm7z (b : BitVec 7) : DWord := b.setWidth 64

/-- A scalar operation on two registers (R101): pending operands trap in the order A, B, D (R46). -/
def scalarRR (s : State) (d a b : BitVec 6) (f : DWord → DWord → DWord) : Host.Outcome State Fault Refusal :=
  runWord s (fun x => scalarWord x s [iS a, iS b, iS d] (fun w => setS w d (f (sReg w a) (sReg w b))))

/-- A scalar operation on a register and a value (R101). -/
def scalarRI (s : State) (d a : BitVec 6) (v : DWord) (f : DWord → DWord → DWord) : Host.Outcome State Fault Refusal :=
  runWord s (fun x => scalarWord x s [iS a, iS d] (fun w => setS w d (f (sReg w a) v)))

/-- SADD (R101). -/
def execSadd (d a b : BitVec 6) (s : State) : Host.Outcome State Fault Refusal := scalarRR s d a b (· + ·)

/-- SSUB (R101). -/
def execSsub (d a b : BitVec 6) (s : State) : Host.Outcome State Fault Refusal := scalarRR s d a b (· - ·)

/-- SMUL (R101). -/
def execSmul (d a b : BitVec 6) (s : State) : Host.Outcome State Fault Refusal := scalarRR s d a b (· * ·)

/-- SMULH (R101). -/
def execSmulh (d a b : BitVec 6) (s : State) : Host.Outcome State Fault Refusal := scalarRR s d a b mulHigh64

/-- SAND (R101). -/
def execSand (d a b : BitVec 6) (s : State) : Host.Outcome State Fault Refusal := scalarRR s d a b (· &&& ·)

/-- SOR (R101). -/
def execSor (d a b : BitVec 6) (s : State) : Host.Outcome State Fault Refusal := scalarRR s d a b (· ||| ·)

/-- SXOR (R101). -/
def execSxor (d a b : BitVec 6) (s : State) : Host.Outcome State Fault Refusal := scalarRR s d a b (· ^^^ ·)

/-- SSHL (R101). -/
def execSshl (d a b : BitVec 6) (s : State) : Host.Outcome State Fault Refusal := scalarRR s d a b shl64

/-- SSHR (R101). -/
def execSshr (d a b : BitVec 6) (s : State) : Host.Outcome State Fault Refusal := scalarRR s d a b shr64

/-- SSRA (R101). -/
def execSsra (d a b : BitVec 6) (s : State) : Host.Outcome State Fault Refusal := scalarRR s d a b sra64

/-- SMIN (R101). -/
def execSmin (d a b : BitVec 6) (s : State) : Host.Outcome State Fault Refusal := scalarRR s d a b min64

/-- SMAX (R101). -/
def execSmax (d a b : BitVec 6) (s : State) : Host.Outcome State Fault Refusal := scalarRR s d a b max64

/-- SADD with an immediate, sign-extended (R38, R101). -/
def execSaddImm (d a : BitVec 6) (imm : BitVec 7) (s : State) : Host.Outcome State Fault Refusal :=
  scalarRI s d a (imm7s imm) (· + ·)

/-- SSUB with an immediate, sign-extended (R38, R101). -/
def execSsubImm (d a : BitVec 6) (imm : BitVec 7) (s : State) : Host.Outcome State Fault Refusal :=
  scalarRI s d a (imm7s imm) (· - ·)

/-- SMUL with an immediate, sign-extended (R38, R101). -/
def execSmulImm (d a : BitVec 6) (imm : BitVec 7) (s : State) : Host.Outcome State Fault Refusal :=
  scalarRI s d a (imm7s imm) (· * ·)

/-- SMULH with an immediate, sign-extended (R38, R101). -/
def execSmulhImm (d a : BitVec 6) (imm : BitVec 7) (s : State) : Host.Outcome State Fault Refusal :=
  scalarRI s d a (imm7s imm) mulHigh64

/-- SAND with an immediate, zero-extended (R38, R101). -/
def execSandImm (d a : BitVec 6) (imm : BitVec 7) (s : State) : Host.Outcome State Fault Refusal :=
  scalarRI s d a (imm7z imm) (· &&& ·)

/-- SOR with an immediate, zero-extended (R38, R101). -/
def execSorImm (d a : BitVec 6) (imm : BitVec 7) (s : State) : Host.Outcome State Fault Refusal :=
  scalarRI s d a (imm7z imm) (· ||| ·)

/-- SXOR with an immediate, zero-extended (R38, R101). -/
def execSxorImm (d a : BitVec 6) (imm : BitVec 7) (s : State) : Host.Outcome State Fault Refusal :=
  scalarRI s d a (imm7z imm) (· ^^^ ·)

/-- SSHL with an immediate, zero-extended (R38, R101). -/
def execSshlImm (d a : BitVec 6) (imm : BitVec 7) (s : State) : Host.Outcome State Fault Refusal :=
  scalarRI s d a (imm7z imm) shl64

/-- SSHR with an immediate, zero-extended (R38, R101). -/
def execSshrImm (d a : BitVec 6) (imm : BitVec 7) (s : State) : Host.Outcome State Fault Refusal :=
  scalarRI s d a (imm7z imm) shr64

/-- SSRA with an immediate, zero-extended (R38, R101). -/
def execSsraImm (d a : BitVec 6) (imm : BitVec 7) (s : State) : Host.Outcome State Fault Refusal :=
  scalarRI s d a (imm7z imm) sra64

/-- SMIN with an immediate, sign-extended (R38, R101). -/
def execSminImm (d a : BitVec 6) (imm : BitVec 7) (s : State) : Host.Outcome State Fault Refusal :=
  scalarRI s d a (imm7s imm) min64

/-- SMAX with an immediate, sign-extended (R38, R101). -/
def execSmaxImm (d a : BitVec 6) (imm : BitVec 7) (s : State) : Host.Outcome State Fault Refusal :=
  scalarRI s d a (imm7s imm) max64

/-- SCMP (R102): 1 where the condition holds, else 0. -/
def execScmp (cc : BitVec 3) (d a b : BitVec 6) (s : State) : Host.Outcome State Fault Refusal :=
  scalarRR s d a b (fun x y => if ccHolds cc x y then 1 else 0)

/-- SCMP with a sign-extended immediate (R102). -/
def execScmpImm (cc : BitVec 3) (d a : BitVec 6) (imm : BitVec 7) (s : State) : Host.Outcome State Fault Refusal :=
  scalarRI s d a (imm7s imm) (fun x y => if ccHolds cc x y then 1 else 0)

/-- SSEL (R103). -/
def execSsel (d a b : BitVec 6) (s : State) : Host.Outcome State Fault Refusal :=
  runWord s (fun x => scalarWord x s [iS a, iS b, iS d]
    (fun w => setS w d (if sReg w d ≠ 0 then sReg w a else sReg w b)))

/-- SMOV (R103): the value with its future tag (R224). -/
def execSmov (d a : BitVec 6) (s : State) : Host.Outcome State Fault Refusal :=
  runWord s (fun x => scalarWord x s [iS a, iS d] (fun w =>
    let v := setS w d (sReg w a)
    match fget? w.tags a.toNat with
    | some h => { v with tags := fput v.tags d.toNat h }
    | none => v))

/-- SLDI (R103). -/
def execSldi (d : BitVec 6) (imm : BitVec 14) (s : State) : Host.Outcome State Fault Refusal :=
  runWord s (fun x => scalarWord x s [iS d] (fun w => setS w d (imm.signExtend 64)))

/-- SLIT and SLIT.H (R103). -/
def execSlit (d : BitVec 6) (h : BitVec 1) (lit : BitVec 32) (s : State) : Host.Outcome State Fault Refusal :=
  runWord s (fun x => scalarWord x s [iS d] (fun w =>
    setS w d (if h = 1#1 then lit ++ (sReg w d).extractLsb' 0 32 else lit.signExtend 64)))

end Sys2Proof.Machine
end

