-- ==== Sys2Proof/Machine/Integer.lean ====
section
/-! DEFINITION. The vector integer instructions (R104 to R109) and the predicate instructions (R110). -/

namespace Sys2Proof.Machine

open Sys2Proof

/-- Whether PFXB selects saturation (R53, R106). -/
def satOf (x : Ctx) : Bool := (x.sp.pfxb.map (·.sat)).getD false

/-- A value clamped to 32 bits signed (R64, R106). -/
def clamp32 (v : Int) : Word :=
  BitVec.ofInt 32 (if v > 2147483647 then 2147483647 else if v < -2147483648 then -2147483648 else v)

/-- Addition and subtraction, clamped with saturation (R105, R106). -/
def add32 (sat : Bool) (x y : Word) : Word := if sat then clamp32 (x.toInt + y.toInt) else x + y
def sub32 (sat : Bool) (x y : Word) : Word := if sat then clamp32 (x.toInt - y.toInt) else x - y

/-- Bits [63:32] of the signed product (R105). -/
def mulHigh32 (x y : Word) : Word := BitVec.ofInt 32 (x.toInt * y.toInt / 2 ^ 32)

/-- Shifts of R105. -/
def shl32 (x y : Word) : Word := if y.toNat ≥ 32 then 0 else x <<< y.toNat
def shr32 (x y : Word) : Word := if y.toNat ≥ 32 then 0 else x >>> y.toNat
def sra32 (x y : Word) : Word := x.sshiftRight (min y.toNat 32)

/-- Signed minimum and maximum (R105). -/
def min32 (x y : Word) : Word := if x.toInt ≤ y.toInt then x else y
def max32 (x y : Word) : Word := if x.toInt ≤ y.toInt then y else x

/-- The absolute value modulo 2^32 (R105). -/
def abs32 (x : Word) : Word := if x.getLsbD 31 then 0 - x else x

/-- The number of set bits, of leading zeros, and the bits reversed (R105). -/
def popc32 (x : Word) : Word := BitVec.ofNat 32 (bitCount 32 x.toNat)
def clz32 (x : Word) : Word :=
  BitVec.ofNat 32 (((List.range 32).find? (fun i => x.getLsbD (31 - i))).getD 32)
def brev32 (x : Word) : Word := mkMask (fun i => x.getLsbD (31 - i))

/-- The field mask of BFE and BFI (R107). -/
def fieldMask (y : Word) : Word :=
  let pos := y.toNat % 256
  let len := y.toNat / 256 % 256
  if pos ≥ 32 then 0
  else BitVec.ofNat 32 ((if len ≥ 32 then 2 ^ 32 - 1 else 2 ^ len - 1) * 2 ^ pos)

/-- BFE and BFI on a lane (R107). -/
def bfe32 (x y : Word) : Word := if y.toNat % 256 ≥ 32 then 0 else (x &&& fieldMask y) >>> (y.toNat % 256)
def bfi32 (x y c : Word) : Word :=
  (c &&& ~~~fieldMask y) ||| ((if y.toNat % 256 ≥ 32 then 0 else x <<< (y.toNat % 256)) &&& fieldMask y)

/-- A 7-bit immediate extended to 32 bits (R38). -/
def imm32s (b : BitVec 7) : Word := b.signExtend 32
def imm32z (b : BitVec 7) : Word := b.setWidth 32

/-- A lane operation on two names (R104, R105). -/
def laneRR (s : State) (d a b : BitVec 7) (f : Ctx → Word → Word → Word) : Host.Outcome State Fault Refusal :=
  runWord s (fun x => laneWord x s [] [winName x.w a, winName x.w b] [] (winName x.w d)
    (fun i l => f x (i.src 0 l) (i.src 1 l)))

/-- A lane operation on a name and a value (R104, R105). -/
def laneRI (s : State) (d a : BitVec 7) (v : Word) (f : Ctx → Word → Word → Word) : Host.Outcome State Fault Refusal :=
  runWord s (fun x => laneWord x s [] [winName x.w a] [] (winName x.w d) (fun i l => f x (i.src 0 l) v))

/-- A lane operation on one name (R104, R105). -/
def laneR (s : State) (d a : BitVec 7) (f : Ctx → Word → Word) : Host.Outcome State Fault Refusal :=
  runWord s (fun x => laneWord x s [] [winName x.w a] [] (winName x.w d) (fun i l => f x (i.src 0 l)))

/-- A lane operation with a third source (R40, R104). -/
def laneRRC (s : State) (d a b : BitVec 7) (f : Ctx → Word → Word → Word → Word) : Host.Outcome State Fault Refusal :=
  runWord s (fun x => laneWord x s [] [winName x.w a, winName x.w b, winName x.w (thirdSource x d)] [] (winName x.w d)
    (fun i l => f x (i.src 0 l) (i.src 1 l) (i.src 2 l)))

/-- IADD (R105). -/
def execIadd (d a b : BitVec 7) (s : State) : Host.Outcome State Fault Refusal := laneRR s d a b (fun x => add32 (satOf x))

/-- ISUB (R105). -/
def execIsub (d a b : BitVec 7) (s : State) : Host.Outcome State Fault Refusal := laneRR s d a b (fun x => sub32 (satOf x))

/-- IMUL (R105). -/
def execImul (d a b : BitVec 7) (s : State) : Host.Outcome State Fault Refusal := laneRR s d a b (fun _ => (· * ·))

/-- IMULH (R105). -/
def execImulh (d a b : BitVec 7) (s : State) : Host.Outcome State Fault Refusal := laneRR s d a b (fun _ => mulHigh32)

/-- IAND (R105). -/
def execIand (d a b : BitVec 7) (s : State) : Host.Outcome State Fault Refusal := laneRR s d a b (fun _ => (· &&& ·))

/-- IOR (R105). -/
def execIor (d a b : BitVec 7) (s : State) : Host.Outcome State Fault Refusal := laneRR s d a b (fun _ => (· ||| ·))

/-- IXOR (R105). -/
def execIxor (d a b : BitVec 7) (s : State) : Host.Outcome State Fault Refusal := laneRR s d a b (fun _ => (· ^^^ ·))

/-- ISHL (R105). -/
def execIshl (d a b : BitVec 7) (s : State) : Host.Outcome State Fault Refusal := laneRR s d a b (fun _ => shl32)

/-- ISHR (R105). -/
def execIshr (d a b : BitVec 7) (s : State) : Host.Outcome State Fault Refusal := laneRR s d a b (fun _ => shr32)

/-- ISRA (R105). -/
def execIsra (d a b : BitVec 7) (s : State) : Host.Outcome State Fault Refusal := laneRR s d a b (fun _ => sra32)

/-- IMIN (R105). -/
def execImin (d a b : BitVec 7) (s : State) : Host.Outcome State Fault Refusal := laneRR s d a b (fun _ => min32)

/-- IMAX (R105). -/
def execImax (d a b : BitVec 7) (s : State) : Host.Outcome State Fault Refusal := laneRR s d a b (fun _ => max32)

/-- IADD with an immediate, sign-extended (R38, R105). -/
def execIaddImm (d a imm : BitVec 7) (s : State) : Host.Outcome State Fault Refusal :=
  laneRI s d a (imm32s imm) (fun x => add32 (satOf x))

/-- ISUB with an immediate, sign-extended (R38, R105). -/
def execIsubImm (d a imm : BitVec 7) (s : State) : Host.Outcome State Fault Refusal :=
  laneRI s d a (imm32s imm) (fun x => sub32 (satOf x))

/-- IMUL with an immediate, sign-extended (R38, R105). -/
def execImulImm (d a imm : BitVec 7) (s : State) : Host.Outcome State Fault Refusal :=
  laneRI s d a (imm32s imm) (fun _ => (· * ·))

/-- IMULH with an immediate, sign-extended (R38, R105). -/
def execImulhImm (d a imm : BitVec 7) (s : State) : Host.Outcome State Fault Refusal :=
  laneRI s d a (imm32s imm) (fun _ => mulHigh32)

/-- IAND with an immediate, zero-extended (R38, R105). -/
def execIandImm (d a imm : BitVec 7) (s : State) : Host.Outcome State Fault Refusal :=
  laneRI s d a (imm32z imm) (fun _ => (· &&& ·))

/-- IOR with an immediate, zero-extended (R38, R105). -/
def execIorImm (d a imm : BitVec 7) (s : State) : Host.Outcome State Fault Refusal :=
  laneRI s d a (imm32z imm) (fun _ => (· ||| ·))

/-- IXOR with an immediate, zero-extended (R38, R105). -/
def execIxorImm (d a imm : BitVec 7) (s : State) : Host.Outcome State Fault Refusal :=
  laneRI s d a (imm32z imm) (fun _ => (· ^^^ ·))

/-- ISHL with an immediate, zero-extended (R38, R105). -/
def execIshlImm (d a imm : BitVec 7) (s : State) : Host.Outcome State Fault Refusal :=
  laneRI s d a (imm32z imm) (fun _ => shl32)

/-- ISHR with an immediate, zero-extended (R38, R105). -/
def execIshrImm (d a imm : BitVec 7) (s : State) : Host.Outcome State Fault Refusal :=
  laneRI s d a (imm32z imm) (fun _ => shr32)

/-- ISRA with an immediate, zero-extended (R38, R105). -/
def execIsraImm (d a imm : BitVec 7) (s : State) : Host.Outcome State Fault Refusal :=
  laneRI s d a (imm32z imm) (fun _ => sra32)

/-- IMIN with an immediate, sign-extended (R38, R105). -/
def execIminImm (d a imm : BitVec 7) (s : State) : Host.Outcome State Fault Refusal :=
  laneRI s d a (imm32s imm) (fun _ => min32)

/-- IMAX with an immediate, sign-extended (R38, R105). -/
def execImaxImm (d a imm : BitVec 7) (s : State) : Host.Outcome State Fault Refusal :=
  laneRI s d a (imm32s imm) (fun _ => max32)

/-- IMAD (R105): the low 32 bits of x × y + C. -/
def execImad (d a b : BitVec 7) (s : State) : Host.Outcome State Fault Refusal :=
  laneRRC s d a b (fun _ x y c => x * y + c)

/-- IABS (R105). -/
def execIabs (d a : BitVec 7) (s : State) : Host.Outcome State Fault Refusal := laneR s d a (fun _ => abs32)

/-- POPC (R105). -/
def execPopc (d a : BitVec 7) (s : State) : Host.Outcome State Fault Refusal := laneR s d a (fun _ => popc32)

/-- CLZ (R105). -/
def execClz (d a : BitVec 7) (s : State) : Host.Outcome State Fault Refusal := laneR s d a (fun _ => clz32)

/-- BREV (R105). -/
def execBrev (d a : BitVec 7) (s : State) : Host.Outcome State Fault Refusal := laneR s d a (fun _ => brev32)

/-- BFE (R107). -/
def execBfe (d a b : BitVec 7) (s : State) : Host.Outcome State Fault Refusal := laneRR s d a b (fun _ => bfe32)

/-- BFI (R107). -/
def execBfi (d a b : BitVec 7) (s : State) : Host.Outcome State Fault Refusal := laneRRC s d a b (fun _ => bfi32)

/-- IADDC (R107): the sum with the carry of p15, and its carry to p15; a killed lane's carry is 0 (R371). -/
def execIaddc (d a b : BitVec 7) (s : State) : Host.Outcome State Fault Refusal :=
  runWord s (fun x => do
    let (s, i) ← laneCheck s x [] [winName x.w a, winName x.w b] [winName x.w d] [.pred 15] [.pred 15]
    let cin := pReg x.w 15
    let sum (l : Nat) : Nat := (i.src 0 l).toNat + (i.src 1 l).toNat + (if cin.getLsbD l then 1 else 0)
    let s ← writeNames s x i [(winName x.w d, mkRow (fun l => BitVec.ofNat 32 (sum l)))]
    let cout := mkMask (fun l => decide (sum l ≥ 2 ^ 32)) &&& i.nar &&& ~~~i.kills
    .ok (killLanes (putPLanes s x 15 (i.nar ||| i.zero) cout) x i.kills .seq))

/-- ICMP (R108). -/
def execIcmp (cc : BitVec 3) (d : BitVec 4) (a b : BitVec 7) (s : State) : Host.Outcome State Fault Refusal :=
  runWord s (fun x => predWord x s [winName x.w a, winName x.w b] d (fun i l => ccHolds cc (i.src 0 l) (i.src 1 l)))

/-- ICMP with a sign-extended immediate (R102, R108). -/
def execIcmpImm (cc : BitVec 3) (d : BitVec 4) (a imm : BitVec 7) (s : State) : Host.Outcome State Fault Refusal :=
  runWord s (fun x => predWord x s [winName x.w a] d (fun i l => ccHolds cc (i.src 0 l) (imm32s imm)))

/-- The address that LEA forms in a lane (R109). -/
def leaValue (u : BitVec 1) (base : DWord) (off : Word) : DWord :=
  base + (if u = 1#1 then off.setWidth 64 else off.signExtend 64)

/-- LEA (R109): a lane address pair, the low half in the first name. -/
def execLea (d : BitVec 7) (u : BitVec 1) (a : BitVec 6) (b : BitVec 7) (s : State) : Host.Outcome State Fault Refusal :=
  runWord s (fun x => do
    let d0 := winName x.w d
    let d1 := winName x.w (d + 1)
    let (s, i) ← laneCheck s x [iS a] [winName x.w b] [d0, d1] [] []
    let v (l : Nat) : DWord := leaValue u (sReg x.w a) (i.src 0 l)
    let s ← writeNames s x i [(d0, mkRow (fun l => (v l).extractLsb' 0 32)), (d1, mkRow (fun l => (v l).extractLsb' 32 32))]
    .ok (killLanes s x i.kills .seq))

/-- MOV (R109). -/
def execMov (d a : BitVec 7) (s : State) : Host.Outcome State Fault Refusal := laneR s d a (fun _ v => v)

/-- MOVS (R109). -/
def execMovs (d : BitVec 7) (h : BitVec 1) (a : BitVec 6) (s : State) : Host.Outcome State Fault Refusal :=
  runWord s (fun x => laneWord x s [iS a] [] [] (winName x.w d)
    (fun _ _ => if h = 1#1 then (sReg x.w a).extractLsb' 32 32 else (sReg x.w a).extractLsb' 0 32))

/-- LIT (R109). -/
def execLit (d : BitVec 7) (lit : BitVec 32) (s : State) : Host.Outcome State Fault Refusal :=
  runWord s (fun x => laneWord x s [] [] [] (winName x.w d) (fun _ _ => lit))

/-! ## Predicates (R110) -/

/-- A lane-wise predicate operation: nothing where ACTIVE is empty (R110, R121). -/
def predLane (s : State) (d : BitVec 4) (reads : List PendItem) (f : Warp → Mask) : Host.Outcome State Fault Refusal :=
  runWord s (fun x =>
    if ctxActive x = 0 then .ok (s, .seq)
    else do
      checkPending x.w (reads ++ [.pred d.toNat])
      .ok (modW s x (fun w => setPLanes w d (ctxActive x) (f w)), .seq))

/-- PAND (R110). -/
def execPand (d a b : BitVec 4) (s : State) : Host.Outcome State Fault Refusal :=
  predLane s d [.pred a.toNat, .pred b.toNat] (fun w => pReg w a &&& pReg w b)

/-- POR (R110). -/
def execPor (d a b : BitVec 4) (s : State) : Host.Outcome State Fault Refusal :=
  predLane s d [.pred a.toNat, .pred b.toNat] (fun w => pReg w a ||| pReg w b)

/-- PXOR (R110). -/
def execPxor (d a b : BitVec 4) (s : State) : Host.Outcome State Fault Refusal :=
  predLane s d [.pred a.toNat, .pred b.toNat] (fun w => pReg w a ^^^ pReg w b)

/-- PNOT (R110). -/
def execPnot (d a : BitVec 4) (s : State) : Host.Outcome State Fault Refusal :=
  predLane s d [.pred a.toNat] (fun w => ~~~pReg w a)

/-- PSET (R110): all 32 lanes. -/
def execPset (d : BitVec 4) (a : BitVec 6) (s : State) : Host.Outcome State Fault Refusal :=
  runWord s (fun x => scalarWord x s [iS a, .pred d.toNat] (fun w => setP w d ((sReg w a).extractLsb' 0 32)))

/-- PMOV (R110). -/
def execPmov (d : BitVec 6) (a : BitVec 4) (s : State) : Host.Outcome State Fault Refusal :=
  runWord s (fun x => scalarWord x s [.pred a.toNat, iS d] (fun w => setS w d ((pReg w a).setWidth 64)))

end Sys2Proof.Machine
end

