-- ==== Sys2Proof/Machine/Float.lean ====
section
/-! DEFINITION. The floating-point lane instructions, conversions and special functions (R123 to R138). -/

namespace Sys2Proof.Machine

open Sys2Proof

/-- A lane-wise word that computes codes with conditions: its checks, its results, its flags and its kills (R78, R123). -/
def floatWord (x : Ctx) (s : State) (srcs : List Nat) (dst : Nat) (f : LaneIn → Nat → Nat × Flags) :
    Except Stop (State × After) := do
  let (s, i) ← laneCheck s x [] srcs [dst] [] []
  let act := i.nar &&& ~~~i.kills
  let res := lanes.map (fun l => if act.getLsbD l then f i l else (0, Flags.none))
  let s ← writeNames s x i [(dst, mkRow (fun l => BitVec.ofNat 32 (res.getD l (0, Flags.none)).1))]
  let s := raiseFlags s x.c x.slot (res.map (·.2))
  .ok (killLanes s x i.kills .seq)

/-- An operation on one code. -/
def floatR (s : State) (d a : BitVec 7) (f : Ctx → Nat → Nat × Flags) : Host.Outcome State Fault Refusal :=
  runWord s (fun x => floatWord x s [winName x.w a] (winName x.w d) (fun i l => f x (i.src 0 l).toNat))

/-- An operation on two codes of the word's format. -/
def floatRR (s : State) (d a b : BitVec 7) (f : Ctx → Fmt → Nat → Nat → Nat × Flags) : Host.Outcome State Fault Refusal :=
  runWord s (fun x =>
    let fm := fmtOf x .f32
    floatWord x s [winName x.w a, winName x.w b] (winName x.w d)
      (fun i l => f x fm (codeOf fm (i.src 0 l)) (codeOf fm (i.src 1 l))))

/-- Both halves of a packed word (R129): element 0 in the low half. -/
def packed (f : Nat → Nat × Flags) : Nat × Flags :=
  let r0 := f 0
  let r1 := f 1
  (r0.1 + 2 ^ 16 * r1.1, r0.2.join r1.2)

/-- Element `e` of a packed word. -/
def half (w : Word) (e : Nat) : Nat := w.toNat / 2 ^ (16 * e) % 2 ^ 16

/-- A packed operation on two words (R129). -/
def packedRR (s : State) (d a b : BitVec 7) (f : Ctx → Fmt → Nat → Nat → Nat × Flags) : Host.Outcome State Fault Refusal :=
  runWord s (fun x =>
    let fm := fmtOf x .f16
    floatWord x s [winName x.w a, winName x.w b] (winName x.w d)
      (fun i l => packed (fun e => f x fm (half (i.src 0 l) e) (half (i.src 1 l) e))))

/-- FADD (R126). -/
def execFadd (d a b : BitVec 7) (s : State) : Host.Outcome State Fault Refusal :=
  floatRR s d a b (fun x fm => fAdd fm (rmOf x) (satOf x))

/-- FSUB (R126). -/
def execFsub (d a b : BitVec 7) (s : State) : Host.Outcome State Fault Refusal :=
  floatRR s d a b (fun x fm => fSub fm (rmOf x) (satOf x))

/-- FMUL (R126). -/
def execFmul (d a b : BitVec 7) (s : State) : Host.Outcome State Fault Refusal :=
  floatRR s d a b (fun x fm => fMul fm (rmOf x) (satOf x))

/-- FFMA (R40, R126). -/
def execFfma (d a b : BitVec 7) (s : State) : Host.Outcome State Fault Refusal :=
  runWord s (fun x =>
    let fm := fmtOf x .f32
    floatWord x s [winName x.w a, winName x.w b, winName x.w (thirdSource x d)] (winName x.w d)
      (fun i l => fFma fm (rmOf x) (satOf x) (codeOf fm (i.src 0 l)) (codeOf fm (i.src 1 l)) (codeOf fm (i.src 2 l))))

/-- FMIN (R127). -/
def execFmin (d a b : BitVec 7) (s : State) : Host.Outcome State Fault Refusal :=
  floatRR s d a b (fun _ fm => fMinMax fm false)

/-- FMAX (R127). -/
def execFmax (d a b : BitVec 7) (s : State) : Host.Outcome State Fault Refusal :=
  floatRR s d a b (fun _ fm => fMinMax fm true)

/-- FABS (R127). -/
def execFabs (d a : BitVec 7) (s : State) : Host.Outcome State Fault Refusal :=
  floatR s d a (fun x v => fAbs (fmtOf x .f32) (v % 2 ^ (fmtOf x .f32).width))

/-- FNEG (R127). -/
def execFneg (d a : BitVec 7) (s : State) : Host.Outcome State Fault Refusal :=
  floatR s d a (fun x v => fNeg (fmtOf x .f32) (v % 2 ^ (fmtOf x .f32).width))

/-- FCMP under relation `cc` (R128): the relation in the lanes it acts on, with its condition. -/
def floatCmp (s : State) (cc : Nat) (d : BitVec 4) (a b : BitVec 7) : Host.Outcome State Fault Refusal :=
  runWord s (fun x => do
    let fm := fmtOf x .f32
    let (s, i) ← laneCheck s x [] [winName x.w a, winName x.w b] [] [] [.pred d.toNat]
    let act := i.nar &&& ~~~i.kills
    let res := lanes.map (fun l => if act.getLsbD l then fCmp fm cc (codeOf fm (i.src 0 l)) (codeOf fm (i.src 1 l))
      else (false, Flags.none))
    let s := putPLanes s x d (i.nar ||| i.zero) (mkMask (fun l => (res.getD l (false, Flags.none)).1))
    let s := raiseFlags s x.c x.slot (res.map (·.2))
    .ok (killLanes s x i.kills .seq))

/-- FCMP.EQ (R128). -/
def execFcmpEq (d : BitVec 4) (a b : BitVec 7) (s : State) : Host.Outcome State Fault Refusal := floatCmp s 0 d a b

/-- FCMP.LT (R128). -/
def execFcmpLt (d : BitVec 4) (a b : BitVec 7) (s : State) : Host.Outcome State Fault Refusal := floatCmp s 1 d a b

/-- FCMP.LE (R128). -/
def execFcmpLe (d : BitVec 4) (a b : BitVec 7) (s : State) : Host.Outcome State Fault Refusal := floatCmp s 2 d a b

/-- FCMP.GT (R128). -/
def execFcmpGt (d : BitVec 4) (a b : BitVec 7) (s : State) : Host.Outcome State Fault Refusal := floatCmp s 3 d a b

/-- FCMP.GE (R128). -/
def execFcmpGe (d : BitVec 4) (a b : BitVec 7) (s : State) : Host.Outcome State Fault Refusal := floatCmp s 4 d a b

/-- FCMP.NE (R128). -/
def execFcmpNe (d : BitVec 4) (a b : BitVec 7) (s : State) : Host.Outcome State Fault Refusal := floatCmp s 5 d a b

/-- FCMP.ORD (R128). -/
def execFcmpOrd (d : BitVec 4) (a b : BitVec 7) (s : State) : Host.Outcome State Fault Refusal := floatCmp s 6 d a b

/-- FCMP.UNO (R128). -/
def execFcmpUno (d : BitVec 4) (a b : BitVec 7) (s : State) : Host.Outcome State Fault Refusal := floatCmp s 7 d a b

/-- FCMP.EQU (R128). -/
def execFcmpEqu (d : BitVec 4) (a b : BitVec 7) (s : State) : Host.Outcome State Fault Refusal := floatCmp s 8 d a b

/-- FCMP.LTU (R128). -/
def execFcmpLtu (d : BitVec 4) (a b : BitVec 7) (s : State) : Host.Outcome State Fault Refusal := floatCmp s 9 d a b

/-- FCMP.LEU (R128). -/
def execFcmpLeu (d : BitVec 4) (a b : BitVec 7) (s : State) : Host.Outcome State Fault Refusal := floatCmp s 10 d a b

/-- FCMP.GTU (R128). -/
def execFcmpGtu (d : BitVec 4) (a b : BitVec 7) (s : State) : Host.Outcome State Fault Refusal := floatCmp s 11 d a b

/-- FCMP.GEU (R128). -/
def execFcmpGeu (d : BitVec 4) (a b : BitVec 7) (s : State) : Host.Outcome State Fault Refusal := floatCmp s 12 d a b

/-- FCMP.NEU (R128). -/
def execFcmpNeu (d : BitVec 4) (a b : BitVec 7) (s : State) : Host.Outcome State Fault Refusal := floatCmp s 13 d a b

/-- HADD2 (R129). -/
def execHadd2 (d a b : BitVec 7) (s : State) : Host.Outcome State Fault Refusal :=
  packedRR s d a b (fun x fm => fAdd fm (rmOf x) (satOf x))

/-- HMUL2 (R129). -/
def execHmul2 (d a b : BitVec 7) (s : State) : Host.Outcome State Fault Refusal :=
  packedRR s d a b (fun x fm => fMul fm (rmOf x) (satOf x))

/-- HFMA2 (R40, R129). -/
def execHfma2 (d a b : BitVec 7) (s : State) : Host.Outcome State Fault Refusal :=
  runWord s (fun x =>
    let fm := fmtOf x .f16
    floatWord x s [winName x.w a, winName x.w b, winName x.w (thirdSource x d)] (winName x.w d)
      (fun i l => packed (fun e =>
        fFma fm (rmOf x) (satOf x) (half (i.src 0 l) e) (half (i.src 1 l) e) (half (i.src 2 l) e))))

/-- FCVT (R130, R131). -/
def execFcvt (dst : BitVec 3) (d a : BitVec 7) (src : BitVec 4) (s : State) : Host.Outcome State Fault Refusal :=
  floatR s d a (fun x v =>
    let r := fCvt dst.toNat src.toNat (rmOf x) (satOf x) (BitVec.ofNat 32 v)
    (r.1.toNat, r.2))

/-- FRCP (R133). -/
def execFrcp (d a : BitVec 7) (s : State) : Host.Outcome State Fault Refusal := floatR s d a (fun x => sfRcp (satOf x))

/-- FRSQ (R134). -/
def execFrsq (d a : BitVec 7) (s : State) : Host.Outcome State Fault Refusal := floatR s d a (fun x => sfRsq (satOf x))

/-- FSQRT (R132, R138). -/
def execFsqrt (d a : BitVec 7) (s : State) : Host.Outcome State Fault Refusal :=
  floatR s d a (fun x => sfSqrt (rmOf x) (satOf x))

/-- FEX2 (R135). -/
def execFex2 (d a : BitVec 7) (s : State) : Host.Outcome State Fault Refusal := floatR s d a (fun x => sfEx2 (satOf x))

/-- FLG2 (R136). -/
def execFlg2 (d a : BitVec 7) (s : State) : Host.Outcome State Fault Refusal := floatR s d a (fun x => sfLg2 (satOf x))

/-- FTANH (R137). -/
def execFtanh (d a : BitVec 7) (s : State) : Host.Outcome State Fault Refusal := floatR s d a (fun x => sfTanh (satOf x))

end Sys2Proof.Machine
end

