-- ==== Sys2Proof/Machine/Long.lean ====
section
/-! DEFINITION. Long-latency instructions (R45, R46): the flag that each binds, its pending marks, and the landing of its
writes. -/

namespace Sys2Proof.Machine

open Sys2Proof

/-- Whether an opcode is long-latency (R45). -/
def isLong (op : BitVec 9) : Bool :=
  let n := op.toNat
  n == 0x140 || n == 0x142 || n == 0x144 || (decide (0x148 ≤ n) && decide (n ≤ 0x157)) || n == 0x158 || n == 0x186
    || n == 0x187 || n == 0x1AC

/-- Whether a long-latency instruction stands among the words of a span from word `i` on. -/
def longAfter (sp : Span) : Nat → Nat → Bool
  | 0, _ => false
  | n + 1, i =>
    if i > spanLen sp.hword then false
    else if isLong (wordOp (spanWord sp i)) then true
    else longAfter sp n (i + 1 + dataWords (spanWord sp i))

/-- The flag that the current word binds (R45). -/
def boundFlag (sp : Span) : Option Nat :=
  let more := longAfter sp 32 (sp.idx + 1 + dataWords (spanWord sp sp.idx))
  let f := if headerSetB sp.hword ≠ 15 ∧ more = false then headerSetB sp.hword else headerSetA sp.hword
  if f = 15 then none else some f

/-- Marks destinations pending for the current word (R46). -/
def markPending (s : State) (x : Ctx) (items : List PendItem) : State :=
  modW s x (fun w => { w with
    pend := w.pend ++ items.map (fun i => ⟨i, x.sp.sec, boundFlag x.sp, !x.sp.sec, x.sp.sec⟩) })

/-- Issues a long-latency operation: its flag counts it, its destinations are pending (R17, R45, R46). -/
def issueLong (s : State) (x : Ctx) (items : List PendItem) (kind : LongKind) (names : List NameWrite)
    (scalars : List (Nat × DWord)) (lines : List (Nat × Nat)) (kill : Option PC) : Nat × State :=
  let (k, s) := takeStamp s
  let op : LongOp := ⟨k, x.sp.sec, boundFlag x.sp, !x.sp.sec, x.sp.sec, kind, names, scalars, lines, trapAddr x.sp, kill⟩
  (k, markPending (modW s x (fun w => { w with ops := w.ops ++ [op] })) x items)

/-- Lands the writes of an operation: names lane by lane, then scalars. -/
def landWrites (s : State) (c slot : Nat) (op : LongOp) : State :=
  let s := op.names.foldl (fun s n => putLanesAt s c slot n.name n.mask n.words n.poison) s
  modWarp s c slot (fun w => op.scalars.foldl (fun w v => setS w (BitVec.ofNat 6 v.1) v.2) w)

/-- Takes an operation off its warp: its flag counts it no more (R17). -/
def dropLong (s : State) (c slot id : Nat) : State :=
  modWarp s c slot (fun w => { w with ops := w.ops.filter (fun o => o.id != id) })

/-- Completes a long-latency operation: its writes land, it leaves its flag, and it kills the warp if its value was
uncorrectable (R184). -/
def completeLong (s : State) (c slot : Nat) (op : LongOp) : State :=
  let s := dropLong (landWrites s c slot op) c slot op.id
  match op.kill with
  | some pc => killAt s c slot pc 0xFFFFFFFF#32
  | none => s

/-- An operation of a warp by number. -/
def longOf (w : Warp) (id : Nat) : Option LongOp := w.ops.find? (fun o => o.id == id)

/-- The writes of a VPOP: name j takes words 32j to 32j + 31 of the entry, lane by lane, with poison by column (R172). -/
def popWrites (names : List Nat) (act : Mask) (e : DrainEntry) : List NameWrite :=
  names.mapIdx (fun j n => ⟨n, act, mkRow (fun l => e.words.getD (32 * j + l) 0),
    mkMask (fun l => setMem e.poison (32 * j + l))⟩)

/-- Whether an earlier VPOP of the warp still waits for its entry (R172). -/
def popsBefore (w : Warp) (o : LongOp) : Bool :=
  w.ops.any (fun q => decide (q.id < o.id) && match q.kind with
    | .vpop _ _ => true
    | _ => false)

/-- Completes an operation of a warp of a launch as its kind says, where it can. -/
def completeOp (s : State) (core warp : Nat) (w : Warp) (o : LongOp) : State :=
  let p := partOf s (partOfCore s core)
  match o.kind with
  | .value => if o.lines.any (fun l => lineFetching p l.1 l.2) then s else completeLong s core warp o
  | .vpop names act =>
    match (if popsBefore w o then none else
        (coreOf s core).drainQ.find? (fun e => e.warp == warp && e.launch == w.launch)) with
    | none => s
    | some e =>
      completeLong (modCore s core (fun k => { k with drainQ := k.drainQ.erase e })) core warp
        { o with names := popWrites names act e }
  | .qpop d q e =>
    let h := clOf s core w.launch
    let qd := h.qd[q % 8]'(Nat.mod_lt _ (by decide))
    if (fget h.qent (256 * q + e) ⟨.empty, false⟩).state = .full then
      completeLong s core warp { o with scalars := ([(d.toNat, tv (e * 2 ^ 32
        + 16 * (field qd 19 0 + e * field qd 31 20)))] : List (Nat × DWord)) }
    else s
  | .armed => s
  | .drain => s

/-- The warps that belong to a slot: the one that stands there, and those saved when it was claimed (R360). -/
def slotWarps (s : State) (core slot : Nat) : List Warp :=
  (warpOf? s core slot).toList ++ (coreOf s core).launches.filterMap (fun e => fget? e.2.savedWarps slot)

/-- LONG_LATENCY_COMPLETE (R17, R45): the write of an operation lands once the lines it waits for have come (R294), a
drain-queue entry for its warp has (R172), or its queue entry is FULL (R236). Other operations complete by events of their
own. A write to a warp whose slot has been claimed lands in its saved state (R362). -/
def execLongLatencyComplete (core warp op : Nat) (s : State) : Host.Outcome State Fault Refusal :=
  match (slotWarps s core warp).find? (fun w => (longOf w op).isSome) with
  | none => .next s
  | some w => match longOf w op with
    | none => .next s
    | some o => .next (withWarp s core w.launch warp (fun s => completeOp s core warp w o))

end Sys2Proof.Machine
end

