-- ==== Sys2Proof/Machine/Memory.lean ====
section
/-! DEFINITION. Global loads, stores and atomics, prefetch and fences (R177 to R184, R187 to R191, R197, R198). -/

namespace Sys2Proof.Machine

open Sys2Proof

/-! ## Lanes, addresses and checks -/

/-- Bytes of an access of size SZ (R179). -/
def szBytes (sz : Nat) : Nat :=
  match sz with
  | 0 | 1 => 1
  | 2 | 3 => 2
  | 4 => 4
  | 5 => 8
  | _ => 16

/-- Whether a word names GROUP scope while its warp has no valid slot (R22, R179). -/
def groupMissing (w : Warp) (scope : Nat) : Bool :=
  scope == 2 && !(w.g.toList.any (fun v => v.getLsbD 8))

/-- SYS_GROUP_NONE for GROUP scope without a group (R179). -/
def checkScope (x : Ctx) (scope : Nat) : Except Stop Unit := raiseIf (groupMissing x.w scope) cGroupNone 4

/-- The lanes of a memory word: the lane-wise state, the accesses of the lanes whose address is good in lane order, and
the lanes whose address or data word is poisoned (R182). -/
structure LaneAccs where
  i : LaneIn
  accs : List (Nat × Nat)
  addrBad : Mask
  dataBad : Mask
deriving DecidableEq, Repr

/-- The poison of source names `a` to `a + n - 1` in the lanes of a word. -/
def badLanes (i : LaneIn) (a n : Nat) : Mask :=
  (List.range n).foldl (fun m k => m ||| ((i.srcs.getD (a + k) freeRow).poison &&& i.nar)) 0#32

/-- Splits the lanes of a word whose first `na` sources form the address (R180, R182). -/
def lanesOf (i : LaneIn) (na : Nat) (addr : Nat → Nat) : LaneAccs :=
  let bad := badLanes i 0 na
  { i := i
    accs := (lanes.filter (fun l => (i.nar &&& ~~~bad).getLsbD l)).map (fun l => (l, addr l))
    addrBad := bad
    dataBad := badLanes i na (i.srcs.length - na) &&& ~~~bad }

/-- A lane address pair (R109, R180). -/
def pairAddr (i : LaneIn) (l : Nat) : Nat := (i.src 0 l).toNat + 2 ^ 32 * (i.src 1 l).toNat

/-- The failing cause of one access, with its place in the order of R180. -/
def accCause (s : State) (x : Ctx) (va n : Nat) (aligned : Bool) (k : Acc) : Option (Nat × Nat) :=
  if aligned && va % n != 0 then some (10, cMisaligned)
  else rangeCause s (partOf s x.pn) x.l.tenant va n k

/-- The first cause in the order of R180 that any access raises, with the address of the lowest lane that raises it. -/
def firstCause (l : List (Nat × Option (Nat × Nat))) : Option (Nat × Nat) :=
  (l.foldl (fun best e => match best, e.2 with
    | none, some c => some (c, e.1)
    | some b, some c => if c.1 < b.1.1 then some (c, e.1) else some b
    | b, none => b) (none : Option ((Nat × Nat) × Nat))).map (fun b => (b.1.2, b.2))

/-- Raises what `firstCause` finds. -/
def raiseCause (l : List (Nat × Option (Nat × Nat))) : Except Stop Unit :=
  match firstCause l with
  | some (code, va) => raise code (tv va)
  | none => .ok ()

/-- The checks of R180 on the accesses of a word. -/
def checkAccs (s : State) (x : Ctx) (accs : List (Nat × Nat)) (n : Nat) (aligned : Bool) (k : Acc) : Except Stop Unit :=
  raiseCause (accs.map (fun e => (e.2, accCause s x e.2 n aligned k)))

/-- The lines that accesses touch, with their ASIDs, each once. -/
def accLines (s : State) (x : Ctx) (accs : List (Nat × Nat)) (n : Nat) : List (Nat × Nat) :=
  (accs.flatMap (fun e => (pieces 128 e.2 n).map (fun l =>
    ((asidFor (partOf s x.pn) x.l.tenant (128 * l)).getD 0, l)))).dedup

/-- Before a word that accesses memory, its pages are walked (R180, R319); where its accesses are good, peers are asked for its
lines, and, for an access that performs at the home slices, the lines that miss there are fetched (R294). A word that a misaligned or
non-canonical access fails walks nothing. -/
def prepAccs (s : State) (x : Ctx) (accs : List (Nat × Nat)) (n : Nat) (aligned : Bool) (k : Acc) (ask home : Bool) : State :=
  if accs.any (fun e => (aligned && e.2 % n != 0) || decide (e.2 + n > 2 ^ 57)) then s
  else
    let s := prepRuns s x.pn (some (x.c, x.l.id)) x.l.tenant k (accs.map (fun e => (e.2, n)))
    if (ask || home) && accs.all (fun e => (accCause s x e.2 n aligned k).isNone) then
      (accLines s x accs n).foldl (fun s l =>
        let s := if ask then askLine s x.pn x.c (askPath x.c x.slot x.sp.sec) l.1 l.2 else s
        if home then llcTouch s x.pn l.1 l.2 else s) s
    else s

/-- Whether a line cannot be read yet: an engine owns it (R216), its block is not read (R294), or a peer has not answered
(R346). -/
def lineHeld (s : State) (x : Ctx) (asid line : Nat) : Bool :=
  let p := partOf s x.pn
  lineHeldByOthers s x.pn asid line || lineUnread s p asid line
    || lineUnanswered s p x.c (askPath x.c x.slot x.sp.sec) asid line

/-- Waits until every line can be read. -/
def waitLines (s : State) (x : Ctx) (lines : List (Nat × Nat)) : Except Stop Unit :=
  parkIf (lines.any (fun l => lineHeld s x l.1 l.2))

/-- After a word has read lines: those outside the core's L1 are fetched or found at home, loads fill the L1 (R290, R294),
and a peer's answers are used up. -/
def touchLines (s : State) (x : Ctx) (lines : List (Nat × Nat)) (fill : Bool) : State :=
  let s := lines.foldl (fun s l =>
    if (coreOf s x.c).l1.any (fun e => e.asid == l.1 && e.line == l.2) then s
    else
      let s := llcTouch s x.pn l.1 l.2
      if fill then l1Fill s x.pn x.c l.1 l.2 none else s) s
  dropAnswers s x.pn (askPath x.c x.slot x.sp.sec)

/-- The lines of a word whose fetch is still under way (R294). -/
def fetchingOf (s : State) (x : Ctx) (lines : List (Nat × Nat)) : List (Nat × Nat) :=
  lines.filter (fun l => lineFetching (partOf s x.pn) l.1 l.2)

/-- The bytes at an address as the word's warp sees them (R181, R208). -/
def viewBytes (s : State) (x : Ctx) (va n : Nat) : List (Byte × Bool) :=
  (List.range n).map (fun i =>
    coreRead s (partOf s x.pn) x.c (some x.slot) ((asidFor (partOf s x.pn) x.l.tenant (va + i)).getD 0) (va + i))

/-- The bytes at an address at their home. -/
def homeBytes (s : State) (x : Ctx) (va n : Nat) : List (Byte × Bool) :=
  (List.range n).map (fun i =>
    homeRead s (partOf s x.pn) ((asidFor (partOf s x.pn) x.l.tenant (va + i)).getD 0) (va + i))

/-! ## The words of a value -/

/-- The number of a list of bytes with marks, and whether any of them is marked. -/
def markedNat (l : List (Byte × Bool)) : Nat := leNat (l.map (·.1))
def anyMarked (l : List (Byte × Bool)) : Bool := l.any (·.2)

/-- The destination words of a load of size SZ, each with its poison (R179, R182). -/
def loadWords (sz : Nat) (l : List (Byte × Bool)) : List (Word × Bool) :=
  let v := markedNat l
  match sz with
  | 0 | 2 => [(BitVec.ofNat 32 v, anyMarked l)]
  | 1 => [((BitVec.ofNat 8 v).signExtend 32, anyMarked l)]
  | 3 => [((BitVec.ofNat 16 v).signExtend 32, anyMarked l)]
  | _ => (List.range (l.length / 4)).map (fun i =>
    let q := (l.drop (4 * i)).take 4
    (BitVec.ofNat 32 (markedNat q), anyMarked q))

/-- The writes of a long-latency word to its destination names (R45, R182, R371): `v l` the words of lane `l`; lanes of a
zero guard get zero, lanes killed get zero and poison. -/
def laneWrites (names : List Nat) (i : LaneIn) (killed : Mask) (v : Nat → List (Word × Bool)) : List NameWrite :=
  let table : List (List (Word × Bool)) := lanes.map (fun l => if i.nar.getLsbD l && !killed.getLsbD l then v l else [])
  names.mapIdx (fun j n =>
    { name := n
      mask := i.nar ||| i.zero
      words := mkRow (fun l => (((table.getD l []).getD j (0, false)).1))
      poison := killed ||| (mkMask (fun l => ((table.getD l []).getD j (0, false)).2) &&& i.nar) })

/-- The data bytes of a store of size SZ in a lane, source `k` being its first data name (R179). -/
def storeBytes (i : LaneIn) (k sz l : Nat) : List Byte :=
  ((List.range (szNames sz)).flatMap (fun j => bytesOf32 (i.src (k + j) l))).take (szBytes sz)

/-- The checks of a lane-wise long-latency word (R46, R86, R121): where no lane is active, only its guard, the destinations
that it marks pending, and the map of those that a zero guard writes. -/
def longCheck (s : State) (x : Ctx) (srcs dsts : List Nat) : Except Stop (State × LaneIn) := do
  if narrowed x = 0 then checkPending x.w ((if ctxActive x = 0 then [] else guardItems x) ++ iNames dsts)
  laneCheck s x [] srcs dsts [] []

/-- A long-latency word without an active lane: its destinations are pending, a zero guard's lanes are written, and it has
completed (R121). -/
def emptyLong (s : State) (x : Ctx) (i : LaneIn) (names : List Nat) (items : List PendItem) :
    Except Stop (State × After) := do
  let s ← writeNames s x i (names.map (fun n => (n, zeroRow)))
  .ok (markPending s x (iNames names ++ items), .seq)

/-! ## Stores -/

/-- One lane's bytes at an address, after those of earlier lanes: a byte takes the place of an earlier one (R181); a byte that
is none is a poison mark, which stays unless one access covers its whole unit or granule with data (R182, R369). -/
def orderWrite (l : List (Nat × Option Byte)) (a : Nat) (bs : List (Option Byte)) : List (Nat × Option Byte) :=
  let new := (List.range bs.length).map (fun i => (a + i, bs.getD i none))
  let data (n : Nat) : Bool := new.any (fun e => e.1 == n && e.2.isSome)
  l.filter (fun e => match e.2 with
    | some _ => !data e.1
    | none => !(List.range 16).all (fun i => data (e.1 / 16 * 16 + i))) ++ new

/-- The byte writes of a word's lanes in lane order (R181). -/
def orderWrites (l : List (Nat × List (Option Byte))) : List (Nat × Option Byte) :=
  l.foldl (fun m e => orderWrite m e.1 e.2) []

/-- The byte writes of a word gathered by line. -/
def gatherStores (l : List (Nat × List (Option Byte))) : FMap (List (Nat × Option Byte)) :=
  (orderWrites l).foldl (fun m e => fput m (e.1 / 128) (fget m (e.1 / 128) [] ++ [(e.1 % 128, e.2)])) []

/-- Stores leave through the core's L1: each line's bytes wait to reach it and then to perform at home (R208, R290). -/
def queueStores (s : State) (x : Ctx) (l : List (Nat × List (Option Byte))) : State :=
  modCore s x.c (fun k => { k with storeQ := k.storeQ ++ (gatherStores l).map (fun e =>
    ⟨(asidFor (partOf s x.pn) x.l.tenant (128 * e.1)).getD 0, e.1, e.2, x.l.tenant, x.slot, x.sp.sec, x.w.launch, true⟩) })

/-- The cores whose warps a scope of a word covers beyond its own core (R202): those of its groups' members, those of its
octant, or those of its partition. -/
def covers (s : State) (x : Ctx) (scope c : Nat) : Bool :=
  match scope with
  | 0 | 1 => false
  | 2 => x.w.g.toList.any (fun v => v.getLsbD 8 && setMem (groupCores x.l (field v 7 0)) c)
  | 3 => octOf c == octOf x.c
  | _ => partOfCore s c == x.pn

/-- A release waits until the set-aside accesses of its path have performed (R186, R204), and until every earlier store of the
core has performed and is visible to every observer that its scope covers (R202, R206, R215): within the core it has been since
it reached the L1. -/
def releaseWaits (s : State) (x : Ctx) (scope : Nat) : Bool :=
  keptBack s x false || (decide (scope ≥ 2) && (!(coreOf s x.c).storeQ.isEmpty || !invalsDoneOn s (covers s x scope)
    || (scope == 5 && !peerStoresDone (partOf s x.pn))))

/-! ## LDG, STG, LDU, STU -/

/-- The lanes and addresses of LDG. -/
def ldgLanes (s : State) (x : Ctx) (d a : BitVec 7) (scope : BitVec 3) (sz : Nat) : Except Stop (State × LaneAccs) := do
  if narrowed x ≠ 0 then checkScope x scope.toNat
  let (s, i) ← longCheck s x (winRun x.w a 2) (winRun x.w d (szNames sz))
  .ok (s, lanesOf i 2 (pairAddr i))

/-- LDG (R183): the value of each lane is fixed at issue from the core's view, so an acquire's later accesses follow it
(R207). -/
def execLdg (d a : BitVec 7) (scope : BitVec 3) (_ord : BitVec 1) (sz : BitVec 3) (s : State) :
    Host.Outcome State Fault Refusal :=
  let n := szBytes sz.toNat
  runMem s (fun x => match ldgLanes s x d a scope sz.toNat with
    | .ok (_, q) => prepAccs s x q.accs n false .read true false
    | .error _ => s) (fun x s => do
    let (s, q) ← ldgLanes s x d a scope sz.toNat
    let names := winRun x.w d (szNames sz.toNat)
    if q.i.nar = 0 then emptyLong s x q.i names []
    else
      checkAccs s x q.accs n false .read
      parkIf (keptBack s x true)
      let ls := accLines s x q.accs n
      waitLines s x ls
      let writes := laneWrites names q.i q.addrBad (fun l => loadWords sz.toNat (viewBytes s x (pairAddr q.i l) n))
      let s ← splitNames s x (q.i.nar ||| q.i.zero) names
      let s := touchLines s x ls true
      let (_, s) := issueLong s x (iNames names) .value writes [] (fetchingOf s x ls) none
      .ok (killLanes s x q.addrBad .seq))

/-- The lanes and addresses of STG. -/
def stgLanes (s : State) (x : Ctx) (d a : BitVec 7) (scope : BitVec 3) (sz : Nat) : Except Stop (State × LaneAccs) := do
  if narrowed x ≠ 0 then checkScope x scope.toNat
  let (s, i) ← laneCheck s x [] (winRun x.w a 2 ++ winRun x.w d (szNames sz)) [] [] []
  .ok (s, lanesOf i 2 (pairAddr i))

/-- STG (R183): a poisoned data word is written as poison (R182); a release first waits for the earlier stores. -/
def execStg (d a : BitVec 7) (scope : BitVec 3) (ord : BitVec 1) (sz : BitVec 3) (s : State) :
    Host.Outcome State Fault Refusal :=
  let n := szBytes sz.toNat
  runMem s (fun x => match stgLanes s x d a scope sz.toNat with
    | .ok (_, q) => prepAccs s x q.accs n false .write false false
    | .error _ => s) (fun x s => do
    let (s, q) ← stgLanes s x d a scope sz.toNat
    if q.i.nar = 0 then .ok (s, .seq)
    else
      checkAccs s x q.accs n false .write
      parkIf (keptBack s x false || (ord == 1 && releaseWaits s x scope.toNat))
      let s := queueStores s x (q.accs.map (fun e =>
        (e.2, if q.dataBad.getLsbD e.1 then List.replicate n none else (storeBytes q.i 2 sz.toNat e.1).map some)))
      .ok (killLanes s x (q.addrBad ||| q.dataBad) .seq))

/-- The value of LDU in a 64-bit register (R179). -/
def lduValue (sz v : Nat) : DWord :=
  match sz with
  | 1 => (BitVec.ofNat 8 v).signExtend 64
  | 3 => (BitVec.ofNat 16 v).signExtend 64
  | _ => BitVec.ofNat 64 v

/-- The checks of LDU before its access (R46, R179). -/
def lduCheck (x : Ctx) (d a : BitVec 6) (scope : BitVec 3) : Except Stop Unit := do
  if ctxActive x ≠ 0 then checkScope x scope.toNat
  checkPending x.w [iS a, iS d]

/-- LDU (R184): with an empty ACTIVE no access; an uncorrectable byte gives zero and the end of the warp when it lands. -/
def execLdu (d a : BitVec 6) (scope : BitVec 3) (_ord : BitVec 1) (sz : BitVec 3) (s : State) :
    Host.Outcome State Fault Refusal :=
  let n := szBytes sz.toNat
  let accs (x : Ctx) : List (Nat × Nat) := [(0, (sReg x.w a).toNat)]
  runMem s (fun x => match lduCheck x d a scope with
    | .ok _ => if ctxActive x = 0 then s else prepAccs s x (accs x) n false .read true false
    | .error _ => s) (fun x s => do
    lduCheck x d a scope
    if ctxActive x = 0 then .ok (markPending s x [iS d], .seq)
    else
      checkAccs s x (accs x) n false .read
      parkIf (keptBack s x true)
      let ls := accLines s x (accs x) n
      waitLines s x ls
      let b := viewBytes s x (sReg x.w a).toNat n
      let v := if anyMarked b then 0 else lduValue sz.toNat (markedNat b)
      let s := touchLines s x ls true
      let (_, s) := issueLong s x [iS d] .value [] [(d.toNat, v)] (fetchingOf s x ls)
        (if anyMarked b then some (trapAddr x.sp) else none)
      .ok (s, .seq))

/-- The checks of STU before its access (R46, R179). -/
def stuCheck (x : Ctx) (d a : BitVec 6) (scope : BitVec 3) : Except Stop Unit := do
  checkScope x scope.toNat
  checkPending x.w [iS a, iS d]

/-- STU (R184): whatever ACTIVE holds. -/
def execStu (d a : BitVec 6) (scope : BitVec 3) (ord : BitVec 1) (sz : BitVec 3) (s : State) :
    Host.Outcome State Fault Refusal :=
  let n := szBytes sz.toNat
  let accs (x : Ctx) : List (Nat × Nat) := [(0, (sReg x.w a).toNat)]
  runMem s (fun x => match stuCheck x d a scope with
    | .ok _ => prepAccs s x (accs x) n false .write false false
    | .error _ => s) (fun x s => do
    stuCheck x d a scope
    checkAccs s x (accs x) n false .write
    parkIf (keptBack s x false || (ord == 1 && releaseWaits s x scope.toNat))
    .ok (queueStores s x [((sReg x.w a).toNat, ((bytesOf64 (sReg x.w d)).take n).map some)], .seq))

/-! ## ATOM (R187 to R191) -/

/-- The number of bits of an atomic TYPE (R187). -/
def atomBits (ty : Nat) : Nat := 32 * atomWords ty

/-- The new value of an atomic; none where nothing is written (R187, R190). -/
def atomNew (op ty old d n : Nat) : Option Nat :=
  let b := atomBits ty
  let signed := ty == 0 || ty == 2
  let le (u v : Nat) : Bool := if signed then decide (sextNat b u ≤ sextNat b v) else decide (u ≤ v)
  match op with
  | 0 => some (if ty = 4 then (combineF 0 (old, .none) (d, .none)).1 else (old + d) % 2 ^ b)
  | 1 => some (if ty = 4 then (fMinMax .f32 false old d).1 else if le old d then old else d)
  | 2 => some (if ty = 4 then (fMinMax .f32 true old d).1 else if le old d then d else old)
  | 3 => some (old &&& d)
  | 4 => some (old ||| d)
  | 5 => some (old ^^^ d)
  | 6 => some d
  | _ => if old = d then some n else none

/-- An operand of an atomic in a lane, from source `k` on (R188). -/
def atomOperand (i : LaneIn) (k ty l : Nat) : Nat :=
  leNat ((List.range (atomWords ty)).flatMap (fun j => bytesOf32 (i.src (k + j) l)))

/-- One lane of an atomic on the bytes it found (R182, R189), with operands `d` and `n`: what it writes, if anything, and the
words it returns. -/
def atomLane (op ty d n : Nat) (dataBad : Bool) (old : List (Byte × Bool)) :
    Option (List (Option Byte)) × List (Word × Bool) :=
  let b := 4 * atomWords ty
  if dataBad then (some (List.replicate b none), [])
  else
    let w := loadWords 6 old
    if anyMarked old && op != 6 then (none, w)
    else ((atomNew op ty (markedNat old) d n).map (fun v => (leBytes b v).map some), w)

/-- The lanes and addresses of ATOM. -/
def atomLanes (s : State) (x : Ctx) (op ty : Nat) (d a : BitVec 7) (scope : BitVec 3) : Except Stop (State × LaneAccs) := do
  if narrowed x ≠ 0 then checkScope x scope.toNat
  let (s, i) ← longCheck s x (winRun x.w a (2 + atomWords ty * (if op = 7 then 2 else 1))) (winRun x.w d (atomWords ty))
  .ok (s, lanesOf i 2 (pairAddr i))

/-- A write at the home slice of a line, where the core's own copy goes and the others' are to go (R191, R195, R290, R291). A line
of a peer is changed as the peer gave it, and goes back whole (`peerBack`). -/
def atHome (s : State) (x : Ctx) (asid line : Nat) (bs : List (Nat × Option Byte)) : State :=
  match peerOf s (partOf s x.pn) asid (128 * line) with
  | some r => setAnswer s x.pn r line bs
  | none => homeWrite (l1Drop s x.c asid line) x.pn (some x.c) asid line bs

/-- The lines of peers that an atomic or a row write has changed go back to them: performed there, one indivisible change of the line
for every party of the partition, since the line is read again only after the acknowledgment (R191, R215, R346). Where the line
could not be had, or a poison mark cannot be carried, nothing goes and REL_UE is raised (notes/assumptions/15.md). -/
def peerBack (s : State) (x : Ctx) (writes : List ((Nat × Nat) × Bool)) : State :=
  (writes.map (·.1)).dedup.foldl (fun s l => match peerOf s (partOf s x.pn) l.1 (128 * l.2) with
    | none => s
    | some r => match (if writes.any (fun w => w.1 == l && w.2) then none else peerAnswer (partOf s x.pn) r l.2) with
      | some bs => sendPeerLine s x.pn l.1 r l.2 bs
      | none => if isPeer s (partOf s x.pn) r && !peerFenced s (partOf s x.pn) r then coreUe s x.c x.l.id (128 * l.2) 9 else s) s

/-- A write of an atomic at a scope: through the L1 up to CORE, else at the line's home (R191, R290, R291). -/
def atomWrite (s : State) (x : Ctx) (scope va : Nat) (bs : List (Option Byte)) : State :=
  if scope ≤ 1 then settleStores (queueStores s x [(va, bs)]) x.c x.slot
  else atHome s x ((asidFor (partOf s x.pn) x.l.tenant va).getD 0) (va / 128)
    ((List.range bs.length).map (fun i => (va % 128 + i, bs.getD i none)))

/-- Whether an atomic at a scope must still wait for a line: for what a load waits for, and at home for the core's own
stores to the line, for the write-back scanner and for the line to come (R205, R294, R328). -/
def atomHeld (s : State) (x : Ctx) (scope : Nat) (l : Nat × Nat) : Bool :=
  lineHeld s x l.1 l.2
    || (decide (scope ≥ 2) && (storeWaits s x.c l.1 l.2 || lineHeldByScan s (partOf s x.pn) l.1 l.2
      || lineAway s (partOf s x.pn) l.1 l.2))

/-- ATOM.op (R189): lane after lane, each indivisible at its scope. -/
def execAtom (op : BitVec 3) (d a : BitVec 7) (ar : BitVec 1) (ty scope : BitVec 3) (s : State) :
    Host.Outcome State Fault Refusal :=
  let n := 4 * atomWords ty.toNat
  runMem s (fun x => match atomLanes s x op.toNat ty.toNat d a scope with
    | .ok (_, q) => prepAccs s x q.accs n true .write true (decide (scope.toNat ≥ 2))
    | .error _ => s) (fun x s => do
    let (s, q) ← atomLanes s x op.toNat ty.toNat d a scope
    let names := winRun x.w d (atomWords ty.toNat)
    if q.i.nar = 0 then emptyLong s x q.i names []
    else
      checkAccs s x q.accs n true .write
      let ls := accLines s x q.accs n
      parkIf (keptBack s x false || ls.any (atomHeld s x scope.toNat) || (ar == 1 && releaseWaits s x scope.toNat))
      let s ← splitNames s x (q.i.nar ||| q.i.zero) names
      let s := settleStores s x.c x.slot
      let lineOf (va : Nat) : Nat × Nat := ((asidFor (partOf s x.pn) x.l.tenant va).getD 0, va / 128)
      let (s, outs, writes) := q.accs.foldl (fun (r : State × FMap (List (Word × Bool)) × List ((Nat × Nat) × Bool)) e =>
        let old := if scope.toNat ≤ 1 then viewBytes r.1 x e.2 n else homeBytes r.1 x e.2 n
        let o := atomLane op.toNat ty.toNat (atomOperand q.i 2 ty.toNat e.1)
          (atomOperand q.i (2 + atomWords ty.toNat) ty.toNat e.1) (q.dataBad.getLsbD e.1) old
        match o.1 with
        | some bs => (atomWrite r.1 x scope.toNat e.2 bs, fput r.2.1 e.1 o.2,
            r.2.2 ++ ([(lineOf e.2, bs.any (·.isNone))] : List ((Nat × Nat) × Bool)))
        | none => (r.1, fput r.2.1 e.1 o.2, r.2.2)) (s, [], [])
      let s := if scope.toNat ≤ 1 then s else peerBack s x writes
      let s := touchLines s x ls (decide (scope.toNat ≤ 1))
      let s := if scope.toNat ≤ 1 then s else ls.foldl (fun s l => l1Drop s x.c l.1 l.2) s
      let (_, s) := issueLong s x (iNames names) .value
        (laneWrites names q.i (q.addrBad ||| q.dataBad) (fun l => fget outs l [])) [] (fetchingOf s x ls) none
      .ok (killLanes s x (q.addrBad ||| q.dataBad) .seq))

/-! ## PREF and FENCE (R197, R198) -/

/-- PREF (R197): for each active lane whose address is good the line is fetched; nothing else happens. -/
def execPref (a : BitVec 7) (llc : BitVec 1) (s : State) : Host.Outcome State Fault Refusal :=
  let lanesAt (s : State) (x : Ctx) : Except Stop (State × LaneAccs) := do
    let (s, i) ← laneCheck s x [] (winRun x.w a 2) [] [] []
    .ok (s, lanesOf i 2 (pairAddr i))
  runMem s (fun x => match lanesAt s x with
    | .ok (_, q) => prepRuns s x.pn (some (x.c, x.l.id)) x.l.tenant .read (q.accs.map (fun e => (e.2, 1)))
    | .error _ => s) (fun x s => do
    let (s, q) ← lanesAt s x
    let good := q.accs.filter (fun e => (accCause s x e.2 1 false .read).isNone)
    let s := (accLines s x good 1).foldl (fun s l =>
      if lineHeld s x l.1 l.2 then s
      else
        let s := llcTouch s x.pn l.1 l.2
        if llc == 1 then s else l1Fill s x.pn x.c l.1 l.2 none) s
    .ok (s, .seq))

/-- FENCE (R198, R204, R208): the values of earlier loads are fixed when they perform, so an acquire waits for those that are
set aside; .REL and .AR wait until every access of the path has performed and every store of the core is visible where the
scope reaches. After .AR the warp's stores have reached the L1, so that no later load passes them (R211). -/
def execFence (kind : BitVec 2) (scope : BitVec 3) (s : State) : Host.Outcome State Fault Refusal :=
  runWord s (fun x => do
    checkScope x scope.toNat
    waitIf (keptBack s x true || (decide (kind.toNat ≥ 2) && releaseWaits s x scope.toNat))
    .ok (if kind = 3 then settleStores s x.c x.slot else s, .seq))

end Sys2Proof.Machine
end

