-- ==== Sys2Proof/Machine/Scratch.lean ====
section
/-! DEFINITION. Scratchpad accesses with their full-empty bits (R25, R185, R186) and scratchpad atomics (R187 to R191). -/

namespace Sys2Proof.Machine

open Sys2Proof

/-! ## Scratchpad bytes, marks and bits -/

/-- Bytes of a launch's scratchpad on a core, with their poison (R25, R369). -/
def scratchRead (h : CoreLaunch) (off n : Nat) : List (Byte × Bool) :=
  (List.range n).map (fun i => (fget h.scratch (off + i) 0, setMem h.spoison ((off + i) / 16)))

/-- Writes bytes, each at its offset: one that is none marks its granule (R371); a granule that the write covers whole loses
its mark (R369). -/
def scratchWrite (h : CoreLaunch) (bs : List (Nat × Option Byte)) : CoreLaunch :=
  let granules := bs.foldl (fun l e => setAdd l (e.1 / 16)) []
  { h with
    scratch := bs.foldl (fun m e => match e.2 with
      | some b => fset m e.1 b 0
      | none => m) h.scratch
    spoison := granules.foldl (fun l g =>
      if bs.any (fun e => e.1 / 16 == g && e.2.isNone) then setAdd l g
      else if (List.range 16).all (fun i => bs.any (fun e => e.1 == 16 * g + i)) then setDel l g
      else l) h.spoison }

/-- Sets granules FULL or EMPTY (R25). -/
def setFull (h : CoreLaunch) (gs : List Nat) (full : Bool) : CoreLaunch :=
  { h with full := gs.foldl (fun l g => if full then setAdd l g else setDel l g) h.full }

/-- The granules that an access touches. -/
def armedGranules (a : Armed) : List Nat :=
  a.offsets.foldl (fun l e => (pieces 16 e.2 a.size).foldl setAdd l) []

/-- The condition of an access (R185). -/
def armedCondition (h : CoreLaunch) (a : Armed) : Bool :=
  let gs := armedGranules a
  if a.atomic.isSome || a.fe = 0 then true
  else if a.store then a.fe == 1 || gs.all (fun g => !setMem h.full g)
  else gs.all (fun g => setMem h.full g)

/-- Whether an access waits behind an earlier set-aside access of the same warp: one that touches a granule of it (R186), or
one of its path that it is kept after: a load or an acquire after those that read, a store, a release or an atomic after all of
them (R203, R210, R211; notes/assumptions/58.md). -/
def armedBehind (before : List Armed) (a : Armed) : Bool :=
  let gs := armedGranules a
  before.any (fun b => b.warp == a.warp && b.retired == a.retired
    && ((b.sec == a.sec && (!b.store || a.store || a.atomic.isSome)) || (armedGranules b).any (setMem gs)))

/-- The first set-aside access that can perform (R186). -/
def armedAble (h : CoreLaunch) : List Armed → List Armed → Option Armed
  | _, [] => none
  | before, a :: rest =>
    if armedCondition h a && !armedBehind before a then some a else armedAble h (before ++ [a]) rest

/-- The value of an operand of an atomic that was read at issue. -/
def operandNat (l : List (Option Byte)) : Nat := leNat (l.map (·.getD 0))

/-- What one lane of an access does to the scratchpad, and the words it returns (R181, R182, R189). -/
def armedLane (a : Armed) (h : CoreLaunch) (lane off : Nat) : List (Nat × Option Byte) × List (Word × Bool) :=
  let data := ((a.data.find? (fun e => e.1 == lane)).map (·.2)).getD []
  let place (bs : List (Option Byte)) : List (Nat × Option Byte) :=
    (List.range bs.length).map (fun i => (off + i, bs.getD i none))
  match a.atomic with
  | some (op, ty) =>
    let b := 4 * atomWords ty
    let o := atomLane op ty (operandNat (data.take b)) (operandNat (data.drop b)) (data.any (·.isNone))
      (scratchRead h off a.size)
    ((o.1.map place).getD [], o.2)
  | none => if a.store then (place data, []) else ([], loadWords a.sz (scratchRead h off a.size))

/-- Performs an access as a whole (R186): every lane's access in lane order, then every bit change; it returns the words by
lane. An atomic keeps the bits (R189). -/
def armedPerform (h : CoreLaunch) (a : Armed) : CoreLaunch × FMap (List (Word × Bool)) :=
  let gs := armedGranules a
  if a.atomic.isSome then
    a.offsets.foldl (fun r e =>
      let o := armedLane a r.1 e.1 e.2
      (if o.1.isEmpty then r.1 else scratchWrite r.1 o.1, fput r.2 e.1 o.2)) (h, [])
  else
    let h' := if a.store then scratchWrite h (orderWrites (a.offsets.map (fun e => (e.2, ((a.data.find?
      (fun d => d.1 == e.1)).map (·.2)).getD [])))) else h
    (if a.store && a.fe != 0 then setFull h' gs true
      else if !a.store && a.fe == 2 then setFull h' gs false
      else h', a.offsets.foldl (fun m e => fput m e.1 (armedLane a h e.1 e.2).2) [])

/-- Puts the words that lanes have read into the writes of a long-latency operation. -/
def fillWrites (names : List NameWrite) (outs : FMap (List (Word × Bool))) : List NameWrite :=
  names.mapIdx (fun j n =>
    let at_ (l : Nat) : Option (Word × Bool) := if n.poison.getLsbD l then none else (fget outs l [])[j]?
    { n with
      words := mkRow (fun l => match at_ l with
        | some v => v.1
        | none => lane n.words l)
      poison := n.poison ||| mkMask (fun l => match at_ l with
        | some v => v.2
        | none => false) })

/-- Performs an access of a launch on a core; the operation that takes its value can then land (R45). -/
def performAccess (s : State) (c l : Nat) (a : Armed) : State :=
  let r := armedPerform (clOf s c l) a
  let s := setCl s c l r.1
  match a.longOp with
  | none => s
  | some o => withWarp s c l a.warp (fun s => modWarp s c a.warp (fun w => { w with ops := w.ops.map (fun q =>
      if q.id = o then { q with kind := .value, names := fillWrites q.names r.2 } else q) }))

/-- Issues an access: it performs now, or is set aside behind what holds it (R186). A write of scratchpad shows the warp's earlier
stores to the other warps of the core (R203, R211). -/
def submitAccess (s : State) (c l : Nat) (a : Armed) : State :=
  let s := if a.store || a.atomic.isSome then settleStores s c a.warp else s
  let h := clOf s c l
  if armedCondition h a && !armedBehind h.armed a then performAccess s c l a
  else modCl s c l (fun h => { h with armed := h.armed ++ ([a] : List Armed) })

/-- SCRATCH_WAIT_PERFORM (R186): a set-aside access performs once it can, the first issued first. -/
def execScratchWaitPerform (core launch op : Nat) (s : State) : Host.Outcome State Fault Refusal :=
  match armedAble (clOf s core launch) [] (clOf s core launch).armed with
  | none => .next s
  | some a =>
    if a.id ≠ op then .next s
    else .next (performAccess (modCl s core launch (fun h =>
      { h with armed := h.armed.filter (fun b => b.id != op) })) core launch a)

/-! ## LDS, STS, ATOMS -/

/-- A scratchpad access waits while one that was set aside can perform, which comes first (R186). -/
def waitAble (s : State) (x : Ctx) : Except Stop Unit :=
  let h := clOf s x.c x.w.launch
  waitIf (armedAble h [] h.armed).isSome

/-- The checks of scratchpad accesses (R180, R185, R189). -/
def checkOffsets (x : Ctx) (accs : List (Nat × Nat)) (n : Nat) (aligned : Bool) : Except Stop Unit :=
  raiseCause (accs.map (fun e => (e.2,
    if aligned && e.2 % n != 0 then some (10, cMisaligned)
    else if e.2 + n > scratchBytes x.l then some (20, cScratchRange)
    else none)))

/-- An access of the word's lanes. -/
def newAccess (x : Ctx) (id : Nat) (longOp : Option Nat) (accs : List (Nat × Nat)) (n sz fe : Nat) (store : Bool)
    (atomic : Option (Nat × Nat)) (data : List (Nat × List (Option Byte))) : Armed where
  id := id
  warp := x.slot
  sec := x.sp.sec
  retired := none
  longOp := longOp
  offsets := accs
  size := n
  sz := sz
  fe := fe
  store := store
  atomic := atomic
  data := data

/-- LDS (R185): plain, .W or .W.C. -/
def execLds (d a : BitVec 7) (fe : BitVec 2) (sz : BitVec 3) (s : State) : Host.Outcome State Fault Refusal :=
  runWord s (fun x => do
    let n := szBytes sz.toNat
    let names := winRun x.w d (szNames sz.toNat)
    let (s, i) ← longCheck s x [winName x.w a] names
    let q := lanesOf i 1 (fun l => (i.src 0 l).toNat)
    if i.nar = 0 then emptyLong s x i names []
    else
      checkOffsets x q.accs n false
      waitAble s x
      let s ← splitNames s x (i.nar ||| i.zero) names
      let (id, s) := issueLong s x (iNames names) .armed (laneWrites names i q.addrBad (fun _ => [])) [] [] none
      .ok (killLanes (submitAccess s x.c x.w.launch
        (newAccess x id (some id) q.accs n sz.toNat fe.toNat false none [])) x q.addrBad .seq))

/-- STS (R185): plain, .F or .E. -/
def execSts (d a : BitVec 7) (fe : BitVec 2) (sz : BitVec 3) (s : State) : Host.Outcome State Fault Refusal :=
  runWord s (fun x => do
    let n := szBytes sz.toNat
    let (s, i) ← laneCheck s x [] (winName x.w a :: winRun x.w d (szNames sz.toNat)) [] [] []
    let q := lanesOf i 1 (fun l => (i.src 0 l).toNat)
    if i.nar = 0 then .ok (s, .seq)
    else
      checkOffsets x q.accs n false
      waitAble s x
      let (id, s) := takeStamp s
      let data := q.accs.map (fun e => (e.1,
        if q.dataBad.getLsbD e.1 then List.replicate n none else (storeBytes i 1 sz.toNat e.1).map some))
      .ok (killLanes (submitAccess s x.c x.w.launch
        (newAccess x id none q.accs n sz.toNat fe.toNat true none data)) x (q.addrBad ||| q.dataBad) .seq))

/-- ATOMS.op (R187 to R191). -/
def execAtoms (op : BitVec 3) (d a : BitVec 7) (ty : BitVec 3) (s : State) : Host.Outcome State Fault Refusal :=
  runWord s (fun x => do
    let k := atomWords ty.toNat
    let n := 4 * k
    let names := winRun x.w d k
    let (s, i) ← longCheck s x (winRun x.w a (1 + k * (if op.toNat = 7 then 2 else 1))) names
    let q := lanesOf i 1 (fun l => (i.src 0 l).toNat)
    if i.nar = 0 then emptyLong s x i names []
    else
      checkOffsets x q.accs n true
      waitAble s x
      let s ← splitNames s x (i.nar ||| i.zero) names
      let data := q.accs.map (fun e => (e.1,
        if q.dataBad.getLsbD e.1 then List.replicate n none
        else ((List.range (i.srcs.length - 1)).flatMap (fun j => bytesOf32 (i.src (1 + j) e.1))).map some))
      let (id, s) := issueLong s x (iNames names) .armed
        (laneWrites names i (q.addrBad ||| q.dataBad) (fun _ => [])) [] [] none
      .ok (killLanes (submitAccess s x.c x.w.launch
        (newAccess x id (some id) q.accs n 6 0 false (some (op.toNat, ty.toNat)) data)) x (q.addrBad ||| q.dataBad) .seq))

end Sys2Proof.Machine
end

