-- ==== Sys2Proof/Machine/EngineOps.lean ====
section
/-! DEFINITION. What engine operations share: future entries and handles (R222, R223), the causes that end an operation and
their order (R229), reading source lines once (R217), and writing memory and scratchpad (R216, R218). -/

namespace Sys2Proof.Machine

open Sys2Proof

/-! ## Causes of the MTX, ENG, CEN and TROY classes and REL_UE (R276, R374) -/

def cFmtBad : Nat := 0x0405
def cAccRange : Nat := 0x0406
def cHandleBad : Nat := 0x0501
def cDescBad : Nat := 0x0502
def cQueueOff : Nat := 0x0503
def cQueueState : Nat := 0x0504
def cQueueBusy : Nat := 0x0505
def cFeedBusy : Nat := 0x0506
def cCtrForeign : Nat := 0x0507
def cFeedIllegal : Nat := 0x050A
def cAborted : Nat := 0x050C
def cTroyKey : Nat := 0x0705
def cTroySlotEmpty : Nat := 0x0706
def cTroyNotSealed : Nat := 0x0708
def cTroyRange : Nat := 0x0709
def cRelUe : Nat := 0x0904

/-! ## Futures -/

/-- The free entry that became free earliest, the lowest INDEX first (R223). -/
def freeFuture (k : Core) : Option Nat :=
  (List.range 1024).foldl (fun best i =>
    let f := futOf k i
    if !f.free then best
    else match best with
      | none => some i
      | some b => if f.freedAt < (futOf k b).freedAt then some i else best) none

/-- The handle of an entry (R222). -/
def handleOf (c i kind : Nat) (gen : BitVec 40) : DWord :=
  BitVec.ofNat 64 (2 ^ 63 + c * 2 ^ 55 + i * 2 ^ 45 + kind * 2 ^ 40 + gen.toNat)

/-- Takes a free entry for an operation; the instruction waits in place while there is none (R223). -/
def takeFuture (s : State) (c l kind : Nat) : Except Stop (Nat × DWord × State) :=
  match freeFuture (coreOf s c) with
  | none => .error .wait
  | some i =>
    let g := (futOf (coreOf s c) i).gen + 1
    let f : Future := ⟨g, kind, l, false, 0, .running, 0, false, false, 0, (0, 0, 0)⟩
    .ok (i, handleOf c i kind g, modCore s c (fun k => { k with futures := fput k.futures i f }))

/-- Starts an operation of a launch on a core, with a future or without; its number is its place in the order of issue. -/
def startOp (s : State) (pn c l : Nat) (future : Option Nat) (kind : EngineKind) : Nat × State :=
  let (k, s) := takeStamp s
  let t := (launchOf s l).tenant
  let op : EngineOp := ⟨kind, l, t, field (reg (partOf s pn) .llcTasid t) 11 0, future, k, false, [], [], [], none⟩
  (k, modCore s c (fun q => { q with engines := fput q.engines k op }))

/-- Changes an operation. -/
def modOp (s : State) (c o : Nat) (f : EngineOp → EngineOp) : State :=
  match fget? (coreOf s c).engines o with
  | some e => modCore s c (fun k => { k with engines := fput k.engines o (f e) })
  | none => s

/-- Waits until no set-aside access of the path touches runs of scratchpad bytes that an operation reads or writes (R211,
R217). -/
def waitRuns (s : State) (x : Ctx) (runs : List (Nat × Nat)) : Except Stop Unit :=
  parkIf ((pathArmed s x).any (fun a => (armedGranules a).any (fun g => runs.any (fun r =>
    decide (r.1 / 16 ≤ g) && decide (16 * g < r.1 + r.2)))))

/-- An instruction of a warp that starts an operation (R224, R229): its pending scalars, then the start, which is kept after
the path's set-aside reads (R211), then the handle with its tag in sD. -/
def engineWord (s : State) (items : List PendItem) (d : BitVec 6) (f : Ctx → Except Stop (DWord × State)) :
    Host.Outcome State Fault Refusal :=
  runWord s (fun x => do
    checkPending x.w (items ++ [iS d])
    let (h, t) ← f x
    parkIf (keptBack s x true)
    .ok (modW t x (fun w => { setS w d h with tags := fput w.tags d.toNat h }), .seq))

/-! ## Causes that end an operation (R229) -/

/-- A failure: its place in the order of R229, its cause and the number of the first byte that failed so. -/
abbrev OpFault := Nat × Nat × Nat

/-- The failure that an operation reports of two: the first in order, then the lower byte. -/
def mergeFault (a b : Option OpFault) : Option OpFault :=
  match a, b with
  | none, b => b
  | a, none => a
  | some x, some y => if decide (y.1 < x.1) || (y.1 == x.1 && decide (y.2.2 < x.2.2)) then some y else some x

/-- A cause of R180 as an engine operation reports it: TROY_ENGINE stands at the place of its Troy step. -/
def engineCause (c : Nat × Nat) : Nat × Nat := if c.2 = cTroyLoad ∨ c.2 = cTroyStore then (c.1, cTroyEngine) else c

/-- The failure of an operation's access to a run of bytes numbered from `base` on. -/
def runFault (s : State) (pn tenant va n base : Nat) (k : Acc) : Option OpFault :=
  if va ≥ 2 ^ 57 then some (20, cNoncanon, base)
  else (pieces 4096 va n).foldl (fun f v =>
    let start := max va (4096 * v)
    mergeFault f ((rangeCause s (partOf s pn) tenant start 1 k).map (fun c =>
      let q := engineCause c
      (q.1, q.2, base + (start - va))))) none

/-- The failure of a whole operation that copies rows (R225, R229, R231). -/
def tileFault (s : State) (pn tenant : Nat) (d : TileDesc) (src dst : Place) : Option OpFault :=
  (List.range d.rows).foldl (fun f i =>
    let g := match src with
      | .memory => runFault s pn tenant (tileSrc d i) d.rowBytes (i * d.rowBytes) .read
      | .scratch _ => none
    let h := match dst with
      | .memory => runFault s pn tenant (tileDst d i) d.rowBytes (i * d.rowBytes) .write
      | .scratch _ => none
    mergeFault f (mergeFault g h)) none

/-! ## Lines -/

/-- The source lines of rows in memory. -/
def tileLines (d : TileDesc) : List Nat :=
  (List.range d.rows).foldl (fun l i => (pieces 128 (tileSrc d i) d.rowBytes).foldl setAdd l) []

/-- The ASID of a line for an operation's tenant. -/
def opLineAsid (s : State) (pn : Nat) (op : EngineOp) (line : Nat) : Nat :=
  (asidFor (partOf s pn) op.tenant (128 * line)).getD 0

/-- Whether an operation must wait before it reads or writes a line: an earlier operation owns it (R216), its block is
still to be read or its line on its way (R294), or the write-back scanner holds stores to it (R328). -/
def opLineHeld (s : State) (pn c : Nat) (op : EngineOp) (line : Nat) (write : Bool) : Bool :=
  let p := partOf s pn
  let a := opLineAsid s pn op line
  ownedBefore s pn a line op.order || lineUnread s p a line || lineFetching p a line
    || (if write then lineHeldByScan s p a line else lineUnanswered s p c (askOp op.order) a line)

/-- An operation asks for lines that it is to read and write: those that miss are fetched, and peers are asked for those that it
reads there (R294, R346). -/
def opTouch (s : State) (pn c : Nat) (op : EngineOp) (reads writes : List Nat) : State :=
  let s := reads.foldl (fun s l => askLine s pn c (askOp op.order) (opLineAsid s pn op l) l) s
  (reads ++ writes).foldl (fun s l => llcTouch s pn (opLineAsid s pn op l) l) s

/-- The pieces of an operation's source that it has read, 16 bytes of scratchpad each, or reads now (R217). -/
def keepGranules (s : State) (c : Nat) (op : EngineOp) (gs : List Nat) : EngineOp :=
  { op with read := op.read ++ ((gs.filter (fun g => !op.read.any (fun e => e.1 == g))).map
    (fun g => (g, scratchRead (clOf s c op.launch) (16 * g) 16)) : List (Nat × List (Byte × Bool))) }

/-- A line that an operation has read, or reads now (R217). -/
def opLine (s : State) (pn : Nat) (op : EngineOp) (line : Nat) : List (Byte × Bool) :=
  match op.read.find? (fun e => e.1 == line) with
  | some e => e.2
  | none => homeReadN s (partOf s pn) (opLineAsid s pn op line) (128 * line) 128

/-- Records lines as read (R217). -/
def keepLines (s : State) (pn : Nat) (op : EngineOp) (lines : List Nat) : EngineOp :=
  { op with read := op.read ++ ((lines.filter (fun l => !op.read.any (fun e => e.1 == l))).map
    (fun l => (l, opLine s pn op l)) : List (Nat × List (Byte × Bool))) }

/-- Bytes with poison marks as a write takes them: the data, then the marks (R369). -/
def markedBytes (l : List (Nat × (Byte × Bool))) : List (Nat × Option Byte) :=
  l.map (fun e => (e.1, some e.2.1)) ++ (l.filter (fun e => e.2.2)).map (fun e => (e.1, none))

/-- An engine's write of a line of memory (R216, R218): at its home, under the translation of its issue where it keeps one (R170);
on a peer by a store that its completion waits for. -/
def engineStore (s : State) (pn c : Nat) (op : EngineOp) (line : Nat) (bs : List (Nat × Option Byte)) : State :=
  let a := opLineAsid s pn op line
  if (peerOf s (partOf s pn) a (128 * line)).isSome then
    modCore s c (fun k => { k with storeQ := k.storeQ ++
      ([⟨a, line, bs, op.tenant, 64, false, op.launch, false⟩] : List StoreReq) })
  else match fget? op.maps line with
    | none => homeWrite s pn none a line bs
    | some t =>
      if homeLost s (partOf s pn) (128 * line) then s
      else
        let s := if (lineKept (partOf s pn) a line).isSome then s
          else lineCame s pn ⟨homeOf (partOf s pn) (128 * line), a, line, t.1, t.2, false, []⟩
        homeWriteAt s pn none a line t bs

/-- Whether an operation's writes to a line are visible in the partition (R218). -/
def opLineVisible (s : State) (pn c : Nat) (op : EngineOp) (line : Nat) : Bool :=
  let a := opLineAsid s pn op line
  (peerOf s (partOf s pn) a (128 * line)).isNone || !storePending s (partOf s pn) c a line

/-- Before an operation is issued, the path's earlier stores to lines that it reads or writes have performed (R216, R217);
where it writes lines, no L1 keeps a copy. -/
def ownLines (s : State) (pn c t : Nat) (reads writes : List Nat) : Except Stop State := do
  let tag (l : Nat) : Nat × Nat := ((asidFor (partOf s pn) t (128 * l)).getD 0, l)
  parkIf ((reads ++ writes).any (fun l => storePending s (partOf s pn) c (tag l).1 l))
  .ok (recallLines s pn (writes.map tag))

/-! ## Writing one unit of a copy (R216, R218, R231) -/

/-- The bytes of a destination run that an operation writes: place in the run, row, and byte in the row. -/
def coveredBytes (d : TileDesc) (a n : Nat) : List (Nat × Nat × Nat) :=
  (List.range n).filterMap (fun i => (tileCover d (a + i)).map (fun r => (i, r.1, r.2)))

/-- Writes one unit of an operation that copies rows: a line, or a granule, which becomes FULL (R25). The source lines it or
granules it needs are read, each once (R217), and a peer is asked for those that lie there. A failing line ends the operation
(R229). The first unit is the point of no return, but for a move, whose switch is (R228, R264). -/
def copyUnit (s : State) (pn c o u : Nat) (op : EngineOp) (d : TileDesc) (src dst : Place) : State :=
  let (a, n) := match dst with
    | .memory => (128 * u, 128)
    | .scratch _ => (16 * (u / 256), 16)
  let parts := coveredBytes d a n
  let from_ (e : Nat × Nat × Nat) : Nat := tileSrc d e.2.1 + e.2.2
  let lines := match src with
    | .memory => parts.foldl (fun l e => setAdd l (from_ e / 128)) []
    | .scratch _ => []
  let fresh := lines.filter (fun l => !op.read.any (fun e => e.1 == l))
  let s := prepRuns s pn (some (c, (launchOf s op.launch).id)) op.tenant .read (fresh.map (fun l => (128 * l, 1)))
  let s := match dst with
    | .memory => prepRange s pn (some (c, (launchOf s op.launch).id)) op.tenant .write a 1
    | .scratch _ => s
  let bad := fresh.any (fun l => (runFault s pn op.tenant (128 * l) 1 0 .read).isSome)
    || (match dst with
      | .memory => (runFault s pn op.tenant a 1 0 .write).isSome
      | .scratch _ => false)
  if bad then modOp s c o (fun op => { op with failed := mergeFault op.failed (tileFault s pn op.tenant d src dst) })
  else
    let s := opTouch s pn c op fresh (match dst with
      | .memory => [u]
      | .scratch _ => [])
    let held := fresh.any (fun l => opLineHeld s pn c op l false)
      || (match dst with
        | .memory => opLineHeld s pn c op u true
        | .scratch _ => false)
    if held then s
    else
      let op := match src with
        | .memory => keepLines s pn op lines
        | .scratch cs => keepGranules s (cs.headD c) op (parts.foldl (fun l e => setAdd l (from_ e / 16)) [])
      let s := dropAnswers s pn (askOp op.order)
      let byte (e : Nat × Nat × Nat) : Byte × Bool := match src with
        | .memory => (opLine s pn op (from_ e / 128)).getD (from_ e % 128) (0, false)
        | .scratch _ => (((op.read.find? (fun r => r.1 == from_ e / 16)).map (·.2)).getD []).getD (from_ e % 16) (0, false)
      let bs := markedBytes (parts.map (fun e => (e.1, byte e)))
      let stays := match op.kind with
        | .move _ _ _ _ _ _ => true
        | _ => false
      let s := modOp s c o (fun _ => { op with done := setAdd op.done u, passed := op.passed || !stays })
      match dst with
      | .memory => engineStore s pn c op u bs
      | .scratch _ => modCl s (u % 256) op.launch (fun h =>
          setFull (scratchWrite h (bs.map (fun e => (a + e.1, e.2)))) [u / 256] true)

/-- The failure of source lines that no unit has read (R217, R229). -/
def unreadFault (s : State) (pn : Nat) (op : EngineOp) (d : TileDesc) (src : Place) : Option OpFault :=
  match src with
  | .scratch _ => none
  | .memory => (List.range d.rows).foldl (fun f i =>
      (pieces 128 (tileSrc d i) d.rowBytes).foldl (fun f l =>
        if op.read.any (fun e => e.1 == l) then f
        else
          let start := max (tileSrc d i) (128 * l)
          mergeFault f (runFault s pn op.tenant start 1 (i * d.rowBytes + (start - tileSrc d i)) .read)) f) none

/-- Whether every unit of an operation has been written. -/
def allWritten (core : Nat) (op : EngineOp) : Bool := (opUnits core op).all (setMem op.done)

/-- Ends an operation that has failed, with the failure's cause and byte (R225, R229). -/
def failOp (s : State) (c o : Nat) (f : OpFault) : State := endOp s c o .failed f.2.1 (BitVec.ofNat 32 f.2.2)

end Sys2Proof.Machine
end

