-- ==== Sys2Proof/Machine/Fill.lean ====
section
/-! DEFINITION. B tiles: claims (R30, R164, R269), BFILL and BFILLS (R164, R165, R267), and the units and end of a fill. -/

namespace Sys2Proof.Machine

open Sys2Proof

/-! ## Claims (R30, R269, R360, R361) -/

/-- Whether a tile counts as tagged with another tenant for a launch (R30, R269). -/
def tileForeign (t : BTile) (tenant l : Nat) : Bool :=
  t.tenant != tenant || (t.state == .sealed && t.launch != l)

/-- The save slot that holds a tenant's tile of a core (R30, R361). -/
def savedTile (p : Partition) (tenant c n : Nat) : Option (Nat × BTile) :=
  (saveOf p tenant).findSome? (fun e => match e.2 with
    | .tile c' n' t => if c' = c ∧ n' = n then some (e.1, t) else none
    | _ => none)

/-- Whether a tile may be claimed: a VALID one only with room in its owner's save area (R360, R361). -/
def tileClaimable (s : State) (c n : Nat) : Bool :=
  let t := tileOf (coreOf s c) n
  t.state != .valid || saveRoom (partOf s (partOfCore s c)) t.tenant (.tile c n t)

/-- Takes a tile from its owner: a VALID tile is spilt, a SEALED one discarded (R30, R269). -/
def spillTile (s : State) (c n : Nat) : State :=
  let t := tileOf (coreOf s c) n
  let s := if t.state = .valid then
      match saveItem s (partOfCore s c) t.tenant (.tile c n t) with
      | some (_, s) => s
      | none => s
    else s
  modCore s c (fun k => setTile k n { t with state := .invalid })

/-- Brings a tenant's tile back on first use (R30, R363), taking it from whoever holds it. -/
def restoreTile (s : State) (c n tenant l : Nat) : State :=
  let pn := partOfCore s c
  let t := tileOf (coreOf s c) n
  if t.state ≠ .filling ∧ (t.state = .invalid ∨ tileForeign t tenant l) ∧ tileClaimable s c n then
    match savedTile (partOf s pn) tenant c n with
    | some (k, saved) => modCore (unsaveItem (spillTile s c n) pn tenant k) c (fun q => setTile q n saved)
    | none => s
  else s

/-- Gives a tile to a fill: a foreign tile is claimed, a tile image that the tenant has spilt is replaced, and the tile is
FILLING, with free values set aside for the entries of a side store that it has no image of (R164). -/
def giveTile (s : State) (c n o tenant l fmt : Nat) (scales : Bool) : State :=
  let pn := partOfCore s c
  let s := if tileForeign (tileOf (coreOf s c) n) tenant l then spillTile s c n else s
  let s := match savedTile (partOf s pn) tenant c n with
    | some (k, _) => unsaveItem s pn tenant k
    | none => s
  let t := tileOf (coreOf s c) n
  modCore { s with freeCtr := s.freeCtr + 2048 } c (fun k => setTile k n { t with
    state := .filling, tenant := tenant, launch := l, fmt := fmt, scales := scales, seed := s.freeCtr
    fills := t.fills ++ ([o] : List Nat) })

/-- Whether an MMA of a tile's owner that had arrived in full before a place in the order of issue still holds a claim of the tile
back (R148, R164). -/
def ownerWaits (s : State) (c tenant order : Nat) : Bool :=
  (coreOf s c).warps.any (fun e => e.2.arrival.isSome && (launchOf s e.2.launch).tenant == tenant
    && (gangSlots e.2 e.1).all (fun k => match warpOf? s c k with
      | some w => w.arrival.any (fun a => decide (a.since ≤ order))
      | none => true))

/-- Whether a fill that was issued before a place in the order of issue has still to claim a tile (R148, R164). -/
def claimsBefore (s : State) (c n order : Nat) : Bool :=
  (coreOf s c).engines.any (fun e => decide (e.2.order < order) && match e.2.kind with
    | .fill k _ _ _ _ _ true => k == n
    | _ => false)

/-! ## Issue -/

/-- The source lines of a fill (R164). -/
def fillLines (col side stride fmt : Nat) : List Nat :=
  let cols := (List.range 256).map (fun n => (col + n * stride) % 2 ^ 64 / 128)
  cols ++ (if side = 0 then [] else pieces 128 side (512 * (kOf fmt / 32)))

/-- The lines of memory that an operation reads (R164, R231, R235). -/
def opSrcLines (core : Nat) (op : EngineOp) : List Nat :=
  match opPlaces core op with
  | some (d, .memory, _) => (List.range d.rows).foldl (fun l i => (pieces 128 (tileSrc d i) d.rowBytes).foldl setAdd l) []
  | some _ => []
  | none => match op.kind with
    | .fill _ col side stride fmt _ _ => fillLines col side stride fmt
    | _ => []

/-- Starts a fill for a launch from its three scalars (R164, R267). -/
def startFill (s : State) (pn c l : Nat) (col side desc : DWord) (key : Option Nat) : Except Stop (DWord × State) := do
  let t := (launchOf s l).tenant
  let stride := field desc 63 32
  let fmt := field desc 11 8
  let n := field desc 6 0
  raiseIf (field desc 31 12 != 0 || desc.getLsbD 7 || !([1, 2, 3, 4, 5, 6, 8].contains fmt)) cFmtBad desc
  raiseIf (col.toNat % 128 != 0) cMisaligned col
  raiseIf (stride % 128 != 0) cMisaligned (tv stride)
  raiseIf (side.toNat % 2 != 0) cMisaligned side
  match key with
  | some k =>
    let slot := fget (partOf s pn).keys k ⟨false, 0, 0, 0, 0⟩
    raiseIf (!slot.loaded) cTroySlotEmpty (tv k)
    raiseIf (slot.launch != l) cTroyKey (tv k)
  | none => pure ()
  let tile := tileOf (coreOf s c) n
  let later := claimsBefore s c n s.stamp
    || (tileForeign tile t l && (tile.state == .filling || ownerWaits s c tile.tenant s.stamp))
  parkIf (!later && tileForeign tile t l && !tileClaimable s c n)
  let (i, h, s) ← takeFuture s c l (if key.isSome then 25 else 24)
  let s ← ownLines s pn c t (fillLines col.toNat side.toNat stride fmt) []
  let (o, s) := startOp s pn c l (some i) (.fill n col.toNat side.toNat stride fmt key later)
  .ok (h, if later then s else giveTile s c n o t l fmt (side != 0))

/-- BFILL (R164). -/
def execBfill (d a : BitVec 6) (s : State) : Host.Outcome State Fault Refusal :=
  engineWord s (iSRun a 3) d (fun x =>
    startFill s x.pn x.c x.w.launch (sRun x.w a 0) (sRun x.w a 1) (sRun x.w a 2) none)

/-- BFILLS (R165, R267). -/
def execBfills (d a : BitVec 6) (key : BitVec 4) (s : State) : Host.Outcome State Fault Refusal :=
  engineWord s (iSRun a 3) d (fun x =>
    startFill s x.pn x.c x.w.launch (sRun x.w a 0) (sRun x.w a 1) (sRun x.w a 2) (some key.toNat))

/-! ## Units -/

/-- The run of bytes that a unit of a fill reads, and the number of its first byte (R164, R225). -/
def fillRun (col side stride u : Nat) : Nat × Nat :=
  if u < 256 then ((col + u * stride) % 2 ^ 64, 128 * u) else ((side + 128 * (u - 256)) % 2 ^ 64, 32768 + 128 * (u - 256))

/-- The failure of a run of bytes of a fill: a plain fill reads plain pages, a sealed fill Troy pages in the key's region
(R164, R229, R267). -/
def fillFault (s : State) (pn : Nat) (op : EngineOp) (key : Option KeySlot) (va base : Nat) : Option OpFault :=
  if va ≥ 2 ^ 57 then some (20, cNoncanon, base)
  else (pieces 128 va 128).foldl (fun f l =>
    let start := max va (128 * l)
    let c := rangeCause s (partOf s pn) op.tenant start 1 .read
    let c : Option (Nat × Nat) := match key with
      | none => c.map engineCause
      | some k =>
        if c.map (·.2) = some cTroyLoad then
          if 128 * l < k.tbase ∨ 128 * l + 128 > k.tbase + k.tlen then some (72, cTroyRange) else none
        else if c.isNone then some (71, cTroyNotSealed) else c
    mergeFault f (c.map (fun q => (q.1, q.2, base + (start - va))))) none

/-- A line as a fill takes it: decrypted under the key where it is a sealed fill (R267). -/
def fillLine (key : Option KeySlot) (line : Nat) (bs : List (Byte × Bool)) : List (Byte × Bool) :=
  match key with
  | none => bs
  | some k =>
    let tweak := (128 * line - k.tbase) / 128
    let plain := (List.range 8).flatMap (fun j =>
      leBytes 16 (xtsDecrypt k.key tweak j (BitVec.ofNat 128 (leNat (((bs.drop (16 * j)).take 16).map (·.1))))).toNat)
    plain.zip (bs.map (·.2))

/-- Writes bytes of a tile from an address on. -/
def tileWrite (t : BTile) (a : Nat) (bs : List Byte) : BTile :=
  { t with bytes := ((List.range bs.length).zip bs).foldl (fun m e => fset m (a + e.1) e.2 0) t.bytes }

/-- Writes side-store entries from an index on. -/
def sideWrite (t : BTile) (e : Nat) (bs : List Byte) : BTile :=
  { t with side := (List.range (bs.length / 2)).foldl (fun m i =>
      fset m (e + i) (BitVec.ofNat 16 (leNat ((bs.drop (2 * i)).take 2))) 0) t.side }

/-- The first unit of a fill that waits to claim its tile claims it, in the order of issue: after every fill that was to claim it before,
and, where the tile is another's, once its fills have ended and the owner's MMAs that were issued before have gone (R148, R164). -/
def claimTile (s : State) (c o : Nat) (op : EngineOp) : State :=
  match op.kind with
  | .fill n col side stride fmt key true =>
    let t := tileOf (coreOf s c) n
    let free := t.fills.isEmpty && !ownerWaits s c t.tenant op.order && tileClaimable s c n
    if !claimsBefore s c n op.order && (free || !tileForeign t op.tenant op.launch) then
      modOp (giveTile s c n o op.tenant op.launch fmt (side != 0)) c o
        (fun e => { e with kind := .fill n col side stride fmt key false })
    else s
  | _ => s

/-- A line as a fill has it, all clean where its peer's answer or its block has still to come: such a line has not failed (R225). -/
def knownLine (s : State) (pn c : Nat) (op : EngineOp) (line : Nat) : List (Byte × Bool) :=
  let a := opLineAsid s pn op line
  if !op.read.any (fun e => e.1 == line)
      && (lineUnanswered s (partOf s pn) c (askOp op.order) a line || lineUnread s (partOf s pn) a line)
  then List.replicate 128 (0, false) else opLine s pn op line

/-- The first uncorrectable byte of a run that a fill reads (R225, R229). -/
def fillPoison (s : State) (pn c : Nat) (op : EngineOp) (va base : Nat) : Option OpFault :=
  let bs := (((pieces 128 va 128).flatMap (knownLine s pn c op)).drop (va % 128)).take 128
  (bs.findIdx? (fun b => b.2)).map (fun i => (73, cRelUe, base + i))

/-- What a fill reports that fails: over all that it reads, the first cause in order, with the lowest byte that has it (R225,
R229). -/
def fillFails (s : State) (pn c : Nat) (op : EngineOp) (slot : Option KeySlot) (col side stride : Nat) : Option OpFault :=
  (opUnits c op).foldl (fun f u =>
    let r := fillRun col side stride u
    mergeFault f (match fillFault s pn op slot r.1 r.2 with
      | some e => some e
      | none => fillPoison s pn c op r.1 r.2)) none

/-- Writes one unit of a fill: a column, or a piece of the side store (R151, R164). Fills of one tile run in issue order. -/
def fillUnit (s : State) (pn c o u : Nat) (op : EngineOp) (n col side stride : Nat) (key : Option Nat) : State :=
  if (tileOf (coreOf s c) n).fills.head? ≠ some o then s
  else
    let slot := key.map (fun k => fget (partOf s pn).keys k ⟨false, 0, 0, 0, 0⟩)
    let (va, base) := fillRun col side stride u
    let s := prepRange s pn (some (c, (launchOf s op.launch).id)) op.tenant .read va 128
    match fillFault s pn op slot va base with
    | some _ => modOp s c o (fun e => { e with failed := fillFails s pn c op slot col side stride })
    | none =>
      let lines := pieces 128 va 128
      let fresh := lines.filter (fun l => !op.read.any (fun e => e.1 == l))
      let s := opTouch s pn c op fresh []
      if fresh.any (fun l => opLineHeld s pn c op l false) then s
      else
        let op := keepLines s pn op lines
        let s := dropAnswers s pn (askOp op.order)
        let all := lines.flatMap (fun l => fillLine slot l (opLine s pn op l))
        let bs := (all.drop (va % 128)).take 128
        if bs.any (fun b => b.2) then modOp s c o (fun _ => { op with failed := fillFails s pn c op slot col side stride })
        else
          let s := modOp s c o (fun _ => { op with done := setAdd op.done u, passed := true })
          modCore s c (fun k => setTile k n
            (if u < 256 then tileWrite (tileOf k n) (128 * u) (bs.map (·.1))
             else sideWrite (tileOf k n) (64 * (u - 256)) (bs.map (·.1))))

/-- BFILL_COMPLETE (R164, R267): once its last byte has landed the fill leaves its tile VALID or SEALED under its own tenant and launch,
INVALID where it failed; the tile stays FILLING while a later fill runs. -/
def execBfillComplete (core op : Nat) (s : State) : Host.Outcome State Fault Refusal :=
  match fget? (coreOf s core).engines op with
  | none => .next s
  | some e => match e.kind with
    | .fill n _ side _ fmt key claim =>
      match e.failed with
      | some f => .next (failOp s core op f)
      | none =>
        if claim || !allWritten core e then .next s
        else
          let t := tileOf (coreOf s core) n
          let rest := setDel t.fills op
          let st : TileState := if rest.isEmpty then (if key.isSome then .sealed else .valid) else .filling
          let s := modCore s core (fun k => setTile k n { t with
            fills := rest, state := st, tenant := e.tenant, launch := e.launch, fmt := fmt, scales := side != 0 })
          .next (endOp s core op .done 0 0)
    | _ => .next s

end Sys2Proof.Machine
end

