-- ==== Sys2Proof/Machine/Issue.lean ====
section
/-! DEFINITION. Reading the next word of a span in issue (R36, R43, R47, R49): prefix rules, then legality, then span
structure; and starting a span (R41, R42, R46, R48, R94, R155, R224, R309). -/

namespace Sys2Proof.Machine

open Sys2Proof

/-- What becomes of the next word of the current warp's span. -/
inductive Fate where
  | run (i : Instr)
  | done (s : State)
deriving Repr

/-- A trap of the current word that is raised before its meaning (R47). -/
def wordTrap (s : State) (x : Ctx) (pc : PC) (code : Nat) : Fate :=
  .done (trapEnter s x.c x.slot x.sp.sec pc code (wordVal x.sp))

/-- Whether a live-mask word holds a bit that must be zero (R49). -/
def liveBad (w : Word) : Bool := w.extractLsb' 28 4 != 0 || w.getLsbD 19

/-- Whether a word breaks the structure of its span (R43, R49): its data words reach past the span, it carries E without
closing the span, it is the last instruction word without E, be it that prefixes follow it, or it carries S without E. -/
def structureBad (sp : Span) : Bool :=
  let w := spanWord sp sp.idx
  let last := sp.idx + dataWords w
  let n := spanLen sp.hword
  decide (last > n) || (wordE w && last != n) || (!wordE w && (prefixTarget sp 32 (last + 1)).isNone)
    || (wordS w && !wordE w)

/-- The literal of the current word, after its live-mask word if it has one (R39). -/
def literalOf (sp : Span) : Word :=
  let w := spanWord sp sp.idx
  spanWord sp (sp.idx + (if wordS w then 2 else 1))

/-- Whether an issue slot has a span in issue (R309), beside those that BKPT has stopped (R279) and those that wait without it
(notes/assumptions/58.md). -/
def slotBusy (s : State) (c islot : Nat) : Bool :=
  (coreOf s c).warps.any (fun e => e.1 % 4 == islot && !e.2.bkptStop && match e.2.span with
    | some sp => !sp.parked
    | none => false)

/-- Reads the current word in the order of R47. A malformed prefix traps at itself (R54); a word whose live-mask word holds
a bit that must be zero is illegal (R49). A warp that BKPT has stopped runs no word (R279), and a parked span goes on when its issue
slot is free (R309). -/
def readWord (s : State) (x : Ctx) : Fate :=
  let w := spanWord x.sp x.sp.idx
  if x.w.bkptStop || (x.sp.parked && slotBusy s x.c (x.slot % 4)) then .done s
  else if isPrefixOp (wordOp w) then
    match decodeWord w 0 with
    | some i => .run i
    | none => wordTrap s x (wordAddr x.sp x.sp.idx) cPrefix
  else
    match decodeWord w (literalOf x.sp) with
    | none => wordTrap s x (trapAddr x.sp) cIllegal
    | some i =>
      if wordS w && decide (x.sp.idx + 1 ≤ spanLen x.sp.hword) && liveBad (spanWord x.sp (x.sp.idx + 1)) then
        wordTrap s x (trapAddr x.sp) cIllegal
      else if structureBad x.sp then wordTrap s x (trapAddr x.sp) cSpan
      else .run i

/-! ## Span start -/

/-- The outstanding count of a flag on a path (R17). -/
def flagCount (w : Warp) (sec : Bool) (f : Nat) : Nat :=
  (w.ops.filter (fun o => o.flag == some f && (if sec then o.onS else o.onP))).length

/-- Whether a flag of a set is outstanding on a path (R17, R41). -/
def waitsOnFlags (w : Warp) (sec : Bool) (mask : Nat) : Bool :=
  (List.range 12).any (fun f => mask.testBit f && decide (flagCount w sec f > 0))

/-- Whether an unbound long-latency instruction of a path is outstanding (R45). -/
def unboundOut (w : Warp) (sec : Bool) : Bool := w.ops.any (fun o => o.flag.isNone && o.sec == sec)

/-- Whether a future is complete: its generation has passed or its operation has ended (R223). -/
def handleComplete (s : State) (h : DWord) : Bool :=
  let f := futOf (coreOf s (field h 62 55)) (field h 54 45)
  f.gen != h.extractLsb' 0 40 || f.state != .running || f.free

/-- Whether a phase of a group has completed as a core's node sees it (R200). -/
def phaseDone (s : State) (c l g : Nat) (ph : BitVec 32) : Bool :=
  let n := fget (clOf s c l).barriers g ⟨0, [], none, []⟩
  let d := (n.completed - ph).toNat
  decide (1 ≤ d) && decide (d ≤ 2 ^ 31)

/-- Whether what a path waits for has come (R201, R227, R242). -/
def waitOver (s : State) (c pn l : Nat) : Wait → Bool
  | .none => true
  | .phase g ph => phaseDone s c l g ph
  | .future h => handleComplete s h
  | .counter n t => decide (((counterOf (partOf s pn) n).1 - t).toNat < 2 ^ 31)

/-- The scalars that an instruction reads as values, and those it writes, for the tag rule (R224): the handle operands of
FWAIT, FTEST, FSTAT and FCANCEL, the data of STU and the source of SMOV are no such reads. -/
def tagReads : Instr → List (BitVec 6) × List (BitVec 6)
  | .unmapm a => ([a], [])
  | .mapq d _ => ([], [d])
  | .sadd d a b | .ssub d a b | .smul d a b | .smulh d a b | .sand d a b | .sor d a b | .sxor d a b | .sshl d a b
  | .sshr d a b | .ssra d a b | .smin d a b | .smax d a b | .scmp _ d a b => ([a, b], [d])
  | .saddImm d a _ | .ssubImm d a _ | .smulImm d a _ | .smulhImm d a _ | .sandImm d a _ | .sorImm d a _
  | .sxorImm d a _ | .sshlImm d a _ | .sshrImm d a _ | .ssraImm d a _ | .sminImm d a _ | .smaxImm d a _
  | .scmpImm _ d a _ => ([a], [d])
  | .ssel d a b => ([d, a, b], [d])
  | .smov d _ => ([], [d])
  | .sldi d _ | .slit d _ _ => ([], [d])
  | .lea _ _ a _ => ([a], [])
  | .movs _ _ a => ([a], [])
  | .pset _ a => ([a], [])
  | .pmov d _ => ([], [d])
  | .voteAny d _ _ | .voteAll d _ _ | .voteBal d _ _ => ([], [d])
  | .redux d _ _ | .fredux d _ _ => ([], [d])
  | .bcast _ _ b => ([b], [])
  | .elect _ a => ([], [a])
  | .bru _ k _ => ([k], [])
  | .call d _ | .callr d _ => ([], [d])
  | .ret a => ([a], [])
  | .ldu d a _ _ _ => ([a], [d])
  | .stu _ a _ _ _ => ([a], [])
  | .rowld _ a _ _ => ([a], [a + 1])
  | .rowst _ a _ | .rowadd _ a _ => ([a], [])
  | .garv d _ => ([], [d])
  | .gwait _ b => ([b], [])
  | .bfill d a | .bfills d a _ => ([a, a + 1, a + 2], [d])
  | .scld a b => ([a, b], [])
  | .mepi a => ([a], [])
  | .mdrain _ _ a _ _ => ([a, a + 1, a + 2, a + 3], [])
  | .mstat d => ([], [d])
  | .accsv _ a | .accld _ _ a => ([a], [])
  | .ftest d _ | .fstat d _ | .fcancel d _ => ([], [d])
  | .tld d a | .tst d a | .tcpy d a | .tmcast d a _ => ([a, a + 1, a + 2, a + 3], [d])
  | .gath d a b | .scat d a b => ([a, a + 1, a + 2, a + 3, b], [d])
  | .feedgo d a | .qfeed d a _ => ([a, a + 1], [d])
  | .qpop d _ => ([], [d])
  | .qrel _ b => ([b], [])
  | .qpost d a => ([a], [d])
  | .qpostAt d a b => ([a, b], [d])
  | .ctradd d _ | .ctrwait d _ => ([d], [])
  | .rteset _ a => ([a], [])
  | .cabort d a b => ([a, b], [d])
  | .launch d a => ([a], [d])
  | .treg d a _ => ([a, a + 1, a + 2], [d])
  | .tunreg a => ([a], [])
  | .tmove d a b => ([a, b, b + 1], [d, d + 1])
  | .solicit d a b => ([a, a + 1, a + 2, a + 3, b, b + 1], [d])
  | .reply a | .replyv a => ([a], [])
  | .census d a => ([a], [d])
  | .srd d _ | .gettime d _ => ([], [d])
  | .swr _ b => ([b], [])
  | _ => ([], [])

/-- The scalars that the words of a span read before writing them, from word `i` on (R224). -/
def spanReads (sp : Span) : Nat → Nat → List Nat → List Nat
  | 0, _, _ => []
  | n + 1, i, written =>
    if i > spanLen sp.hword then []
    else
      let w := spanWord sp i
      match decodeWord w 0 with
      | none => spanReads sp n (i + 1 + dataWords w) written
      | some ins =>
        let r := tagReads ins
        ((r.1.map (·.toNat)).filter (fun k => !setMem written k))
          ++ spanReads sp n (i + 1 + dataWords w) (written ++ r.2.map (·.toNat))

/-- Whether the tag rule holds a span back (R224). -/
def tagsHold (s : State) (w : Warp) (sp : Span) (i : Nat) : Bool :=
  (spanReads sp 32 i []).any (fun k => match fget? w.tags k with
    | some h => !handleComplete s h
    | none => false)

/-- The slot of a span that begins with GIVE or TAKE. -/
def spanSlot (sp : Span) : Option Nat :=
  match decodeWord (spanWord sp 1) 0 with
  | some (.give h _) => some h.toNat
  | some (.take _ h) => some h.toNat
  | _ => none

/-- Whether a warp of a launch on a core has started a span whose GIVE or TAKE is still to take its effect on a slot: it does
so as its span starts, so that no other comes between (R94). One that waits for the reload of its row is no hindrance (R84). -/
def slotTaken (s : State) (c l h : Nat) : Bool :=
  (coreOf s c).warps.any (fun e => e.2.launch == l && match e.2.span with
    | some sp => sp.idx == 1 && !sp.parked && spanSlot sp == some h
    | none => false)

/-- Whether a span's first word is a GIVE or TAKE whose slot holds it back (R94). -/
def slotHolds (s : State) (c : Nat) (w : Warp) (sp : Span) : Bool :=
  match decodeWord (spanWord sp 1) 0 with
  | some (.give h _) =>
    decide (h.toNat < recHos (launchOf s w.launch).record)
      && (decide ((fget (clOf s c w.launch).hslots h.toNat []).length ≥ 8) || slotTaken s c w.launch h.toNat)
  | some (.take _ h) =>
    decide (h.toNat < recHos (launchOf s w.launch).record)
      && ((fget (clOf s c w.launch).hslots h.toNat []).isEmpty || slotTaken s c w.launch h.toNat)
  | _ => false

/-- Whether a span's first word is an MMA (R155). -/
def beginsWithMma (sp : Span) : Bool :=
  match decodeWord (spanWord sp 1) 0 with
  | some (.mma _ _ _) => true
  | _ => false

/-- Whether a path has come to where a stop request of its launch stops it (R357, R380): at a safe point, or at any boundary once
the budget has passed. -/
def stopDue (l : Launch) (p : Path) : Bool :=
  match l.stop with
  | none => false
  | some r => p.atSafePoint.isSome || (r.overdue && r.firm)

/-- Whether a path may start a span at all (R16, R18, R116, R273, R279, R283, R357): its warp has no span in issue, is not
halted, stopped or of a launch that ends, neither trap mode nor a deferred trap holds it, and no stop request is due. -/
def pathRuns (s : State) (w : Warp) (sec : Bool) : Bool :=
  let p := pathOf w sec
  w.span.isNone && !w.halted && !w.bkptStop && w.deferred.isNone && p.stopped.isNone
    && (p.state == .ready || p.state == .waiting) && !(w.trapMode && w.trapSec != sec)
    && (launchOf s w.launch).term.isNone && (launchOf s w.launch).status != .halted && !stopDue (launchOf s w.launch) p

/-- A path whose ERET went to a block that could not be fetched then, or had still to come, once it can be: at the header, or inside
the span, that TPC names (R48, R280). One that TPC sends to no such place is left as it is. -/
def settled (s : State) (c pn tenant : Nat) (q : Path) : Path :=
  let p := partOf s pn
  if q.unchecked && q.eret && q.pc.toNat % 4 == 0 && (fetchCause s p c tenant q.pc.toNat).isNone then
    match asidFor p tenant q.pc.toNat with
    | none => q
    | some asid =>
      let ws := codeBlock s p c asid q.pc.toNat
      let t := q.pc.toNat % 128 / 4
      if walkReaches ws t 33 0 then { q with unchecked := false, eret := false }
      else match headerOfWord ws t 33 0 with
        | some h => { q with
            pc := q.pc - BitVec.ofNat 57 (4 * (t - h)), resume := if t - h ≤ 1 then 0 else t - h
            unchecked := false, eret := false }
        | none => q
  else q

/-- The span that a path would start, as its block stands now or in the instruction cache. -/
def nextSpan (s : State) (c pn tenant : Nat) (w : Warp) (sec : Bool) : Span :=
  let w := modPath w sec (settled s c pn tenant)
  let pc := (pathOf w sec).pc
  let p := partOf s pn
  let ws := match asidFor p tenant pc.toNat with
    | some asid => codeBlock s p c asid pc.toNat
    | none => []
  { sec := sec, header := pc, hword := ws.getD (pc.toNat % 128 / 4) 0, words := ws
    idx := if (pathOf w sec).resume = 0 then (if (pathOf w sec).mmaDone then 2 else 1) else (pathOf w sec).resume
    pfxa := none, pfxb := none, pfxAt := none, parked := false }

/-- Whether the start conditions of a path's next span hold (R309): what it waits for, whose observation is kept after the
reads of the path that are set aside (R211), its flags and their room (R17,
R41), unbound operations (R45), future tags (R224), a hand-off slot (R94), and an MMA arrival of the other path (R155). -/
def startHolds (s : State) (c pn : Nat) (w : Warp) (sec : Bool) (sp : Span) : Bool :=
  let p := pathOf w sec
  waitOver s c pn w.launch p.wait
    && (p.wait == .none || !w.ops.any (fun o => o.sec == sec && o.kind == .armed))
    && !waitsOnFlags w sec (headerWait sp.hword)
    && !(decide (headerSetA sp.hword < 12) && decide (flagCount w sec (headerSetA sp.hword) > 231))
    && !(decide (headerSetB sp.hword < 12) && decide (flagCount w sec (headerSetB sp.hword) > 231))
    && !unboundOut w sec
    && !tagsHold s w sp sp.idx
    && !(p.resume == 0 && slotHolds s c w sp)
    && !(p.resume == 0 && !p.mmaDone && beginsWithMma sp && w.arrival.isSome)
    && (match w.arrival with
      | some a => a.sec != sec
      | none => true)

/-- Whether a block has still to come and asking for it changes nothing (R294, R346). -/
def blockPending (s : State) (p : Partition) (c who tenant pc : Nat) : Bool :=
  pc % 4 == 0 && (fetchCause s p c tenant pc).isNone && blockAway s p c who tenant pc && match asidFor p tenant pc with
    | some asid => lineUnread s p asid (pc / 128) || !askDue s p c asid (pc / 128)
    | none => false

/-- Whether the next span of a path could start, judged on its span as `nextSpan` reads it. A path whose span cannot be
fetched or whose header is faulty waits for no more than what it waits for itself: the attempt to start then raises the
fault (R47). One whose block has still to come can only ask its peer for it (R294, R318, R328). -/
def spanCanStart (s : State) (c slot : Nat) (w : Warp) (sec : Bool) : Bool :=
  let pn := partOfCore s c
  let t := (launchOf s w.launch).tenant
  let pc := (pathOf w sec).pc.toNat
  let sp := nextSpan s c pn t w sec
  if (fetchCause s (partOf s pn) c t pc).isSome || headerFaulty sp.hword (sp.header.toNat % 128 / 4)
      || blockAway s (partOf s pn) c (askPath c slot sec) t pc
  then waitOver s c pn w.launch (pathOf w sec).wait && !unboundOut w sec && !blockPending s (partOf s pn) c (askPath c slot sec) t pc
  else startHolds s c pn w sec sp

/-- Whether a path is ready (R309). -/
def pathReady (s : State) (c slot : Nat) (sec : Bool) : Bool :=
  match warpOf? s c slot with
  | none => false
  | some w => pathRuns s w sec && spanCanStart s c slot w sec

/-- A pending mark that the start of a span clears (R46): its flag is in the span's WAIT mask and it counts on the path, or
it is unbound and of the path. -/
def clearsPend (sec : Bool) (wait : Nat) (q : Pend) : Bool :=
  match q.flag with
  | some f => wait.testBit f && (if sec then q.onS else q.onP)
  | none => q.sec == sec

/-- A warp whose path has a span in issue now (R16, R46, R310): its marks are cleared, and neither path is ready while it
runs. -/
def issueSpan (w : Warp) (sec : Bool) (sp : Span) : Warp :=
  modPath (modPath { w with
    span := some sp
    pend := w.pend.filter (fun q => !clearsPend sec (headerWait sp.hword) q) } sec (fun p =>
      { p with wait := .none, state := .ready, promoted := false, readySince := 0, unchecked := false, eret := false, handler := false }))
    (!sec) (fun p => { p with readySince := 0 })

/-- The place where a path goes on: a header, or a word inside the span at it (R48). -/
def resumePc (p : Path) : PC := p.pc + BitVec.ofNat 57 (4 * (if p.resume = 0 ∧ p.mmaDone then 2 else p.resume))

/-- Starts the next span of a path (R41, R46, R309, R316): raises the fault of an address that is no multiple of 4, fetches its
block, raises the fetch fault, the landing fault of
a place that was not checked when the path was sent there (R56; that of an ERET's place counts as raised in trap mode, R280; that
of a handler's leaves the trap unhandled, R272), or the header fault, or puts the
span in issue with its pending marks cleared. A copy of the block stays in the instruction cache. A path whose block has still to come
asks for it and stands where it is (R294). TPC holds the place in the span where the path was to go on (R280, R316). -/
def startSpan (s : State) (c slot : Nat) (sec : Bool) : State :=
  match warpOf? s c slot with
  | none => s
  | some w =>
    let pn := partOfCore s c
    let t := (launchOf s w.launch).tenant
    let pc := (pathOf w sec).pc
    let who := askPath c slot sec
    let fault (s : State) (code : Nat) (tval : DWord) : State :=
      if (pathOf w sec).handler then noHandler s c slot sec w
      else trapEnter s c slot sec (resumePc (pathOf w sec)) code tval
    let bad (s : State) : State := fault s cBadTarget (pc.setWidth 64)
    if (pathOf w sec).unchecked ∧ pc.toNat % 4 ≠ 0 then bad s
    else
    let s := prepBlock s pn c (launchOf s w.launch).id who t pc.toNat
    match fetchCause s (partOf s pn) c t pc.toNat with
    | some code => fault s code (tv (pc.toNat / 128 * 128))
    | none =>
      if blockAway s (partOf s pn) c who t pc.toNat then s
      else
      let w := modPath w sec (settled s c pn t)
      let sp := nextSpan s c pn t w sec
      let i := sp.header.toNat % 128 / 4
      if (pathOf w sec).unchecked ∧ (pathOf w sec).eret then
        bad (setWarp s c slot { w with trapMode := true, trapSec := sec })
      else if (pathOf w sec).unchecked ∧ walkReaches sp.words i 33 0 = false then bad s
      else if headerFaulty sp.hword i then
        trapEnter s c slot sec (resumePc (pathOf w sec)) cSpan (sp.hword.setWidth 64)
      else
        let asid := (asidFor (partOf s pn) t pc.toNat).getD 0
        let keep (l : List ICBlock) : List ICBlock :=
          (l ++ ([⟨asid, pc.toNat / 128, sp.words⟩] : List ICBlock)).drop (l.length + 1 - 1024)
        let s := if (coreOf s c).icache.any (fun b => b.asid == asid && b.block == pc.toNat / 128) then s
          else llcNow s pn asid (pc.toNat / 128)
        let s := modCore s c (fun k =>
          if k.icache.any (fun b => b.asid == asid && b.block == pc.toNat / 128) then k
          else { k with icache := keep k.icache })
        dropAnswers (setWarp s c slot (issueSpan w sec sp)) pn who

end Sys2Proof.Machine
end

