-- ==== Sys2Proof/Machine/Engines.lean ====
section
/-! DEFINITION. Waiting on futures (R227, R228), the tile operations (R231), and the writes of engines (R216, R218). -/

namespace Sys2Proof.Machine

open Sys2Proof

/-! ## FWAIT, FTEST, FSTAT, FCANCEL -/

/-- Whether an instruction of a launch may not name a handle (R227). -/
def handleBad (s : State) (pn l : Nat) (h : DWord) : Bool :=
  let c := field h 62 55
  let f := futOf (coreOf s c) (field h 54 45)
  !h.getLsbD 63 || !coreIn (partOf s pn) c || (f.gen == h.extractLsb' 0 40 && f.launch != l)

/-- ENG_HANDLE_BAD (R227). -/
def checkHandle (s : State) (x : Ctx) (h : DWord) : Except Stop Unit :=
  raiseIf (handleBad s x.pn x.w.launch h) cHandleBad h

/-- FWAIT (R227): the path's next span waits for the operation. -/
def execFwait (a : BitVec 6) (s : State) : Host.Outcome State Fault Refusal :=
  runWord s (fun x => do
    needLast x
    checkPending x.w [iS a]
    checkHandle s x (sReg x.w a)
    .ok (modW s x (fun w => modPath w x.sp.sec (fun p => { p with wait := .future (sReg x.w a) })), .seq))

/-- FTEST (R227). -/
def execFtest (d a : BitVec 6) (s : State) : Host.Outcome State Fault Refusal :=
  runWord s (fun x => do
    checkPending x.w [iS a, iS d]
    checkHandle s x (sReg x.w a)
    .ok (modW s x (fun w => setS w d (if handleComplete s (sReg x.w a) then 1 else 0)), .seq))

/-- The number of a state in the status word (R225). -/
def futCode : FutState → Nat
  | .running => 0 | .done => 1 | .failed => 2 | .cancelled => 3 | .aborted => 4

/-- The status word of a handle (R225); an expired one reads as STATE 5. -/
def statusOf (s : State) (h : DWord) : DWord :=
  let f := futOf (coreOf s (field h 62 55)) (field h 54 45)
  if f.gen ≠ h.extractLsb' 0 40 then tv (5 * 2 ^ 32)
  else
    let bit (b : Bool) (n : Nat) : Nat := if b then 2 ^ n else 0
    let cause := if f.state = .running ∨ f.state = .done then 0 else f.cause
    tv (cause * 2 ^ 48 + bit f.skew 41 + bit f.late 40 + futCode f.state * 2 ^ 32 + f.detail.toNat)

/-- FSTAT (R225, R227). -/
def execFstat (d a : BitVec 6) (s : State) : Host.Outcome State Fault Refusal :=
  runWord s (fun x => do
    checkPending x.w [iS a, iS d]
    checkHandle s x (sReg x.w a)
    .ok (modW s x (fun w => setS w d (statusOf s (sReg x.w a))), .seq))

/-- The operation that a handle's entry stands for, if it runs. -/
def opOfHandle (s : State) (h : DWord) : Option (Nat × EngineOp) :=
  (coreOf s (field h 62 55)).engines.find? (fun e => e.2.future == some (field h 54 45))

/-- FCANCEL (R227, R228). -/
def execFcancel (d a : BitVec 6) (s : State) : Host.Outcome State Fault Refusal :=
  runWord s (fun x => do
    checkPending x.w [iS a, iS d]
    let h := sReg x.w a
    checkHandle s x h
    match (if handleComplete s h then none else opOfHandle s h) with
    | some (o, e) =>
      if e.passed then .ok (modW s x (fun w => setS w d 0), .seq)
      else
        let s := endOp s (field h 62 55) o .cancelled cCancelled 0
        .ok (modW s x (fun w => setS w d 1), .seq)
    | none => .ok (modW s x (fun w => setS w d 0), .seq))

/-! ## Tile operations (R231) -/

/-- MEM_SCRATCH_RANGE for a range that an instruction names (R25): TVAL is the first offset beyond the scratchpad. -/
def checkScratch (l : Launch) (start len : Nat) : Except Stop Unit :=
  raiseIf (decide (start + len > scratchBytes l)) cScratchRange (tv (max start (scratchBytes l)))

/-- The bytes from the first to the end of the last row, which a check of the scratchpad takes as one range
(notes/assumptions/62.md). -/
def rowsSpan (rows rowBytes stride : Nat) : Nat := (rows - 1) * stride + rowBytes

/-- The descriptor of four scalars, its fields checked (R229, R231): ENG_DESC_BAD, then MEM_MISALIGNED. -/
def tileDesc (a b c d : DWord) (idx : List Nat) (idxDst : Bool) : Except Stop TileDesc := do
  let rows := field c 47 32
  let rb := field c 31 0
  raiseIf (field c 63 48 != 0 || rows == 0 || rb % 16 != 0 || decide (rb < 16) || decide (rb > 65536)) cDescBad c
  match [a.toNat, b.toNat, field d 63 32, field d 31 0].find? (fun v => v % 16 != 0) with
  | some v => raise cMisaligned (tv v)
  | none => .ok ⟨a.toNat, b.toNat, rows, rb, field d 31 0, field d 63 32, idx, idxDst⟩

/-- The destination lines of rows in memory. -/
def tileDstLines (d : TileDesc) : List Nat := tilePieces d 128

/-- Starts a tile operation of a launch: its future, its lines, its operation (R216, R217, R223). -/
def startTile (s : State) (pn c l kind : Nat) (d : TileDesc) (src dst : Place) : Except Stop (DWord × State) := do
  let (i, h, s) ← takeFuture s c l kind
  let reads := if src = .memory then tileLines d else []
  let writes := if dst = .memory then tileDstLines d else []
  let s ← ownLines s pn c (launchOf s l).tenant reads writes
  .ok (h, (startOp s pn c l (some i) (.tile d src dst)).2)

/-- TLD for a launch on a core (R231); the feed engine issues it too (R233). -/
def startTld (s : State) (pn c l : Nat) (r : List DWord) : Except Stop (DWord × State) := do
  let d ← tileDesc (r.getD 0 0) (r.getD 1 0) (r.getD 2 0) (r.getD 3 0) [] false
  checkScratch (launchOf s l) d.dst (rowsSpan d.rows d.rowBytes d.dstride)
  startTile s pn c l 4 d .memory (.scratch [c])

/-- The runs of bytes that a tile operation reads and writes. -/
def srcRuns (d : TileDesc) : List (Nat × Nat) := (List.range d.rows).map (fun i => (tileSrc d i, d.rowBytes))
def dstRuns (d : TileDesc) : List (Nat × Nat) := (List.range d.rows).map (fun i => (tileDst d i, d.rowBytes))

/-- The four scalars of a descriptor. -/
def descRun (x : Ctx) (a : BitVec 6) (n : Nat) : List DWord := (List.range n).map (sRun x.w a)

/-- TLD (R231). -/
def execTld (d a : BitVec 6) (s : State) : Host.Outcome State Fault Refusal :=
  engineWord s (iSRun a 4) d (fun x => do
    let r ← startTld s x.pn x.c x.w.launch (descRun x a 4)
    let q ← tileDesc (sRun x.w a 0) (sRun x.w a 1) (sRun x.w a 2) (sRun x.w a 3) [] false
    waitRuns s x (dstRuns q)
    .ok r)

/-- TST (R231). -/
def execTst (d a : BitVec 6) (s : State) : Host.Outcome State Fault Refusal :=
  engineWord s (iSRun a 4) d (fun x => do
    let q ← tileDesc (sRun x.w a 0) (sRun x.w a 1) (sRun x.w a 2) (sRun x.w a 3) [] false
    checkScratch x.l q.src (rowsSpan q.rows q.rowBytes q.sstride)
    waitRuns s x (srcRuns q)
    startTile s x.pn x.c x.w.launch 5 q (.scratch [x.c]) .memory)

/-- TCPY (R231). -/
def execTcpy (d a : BitVec 6) (s : State) : Host.Outcome State Fault Refusal :=
  engineWord s (iSRun a 4) d (fun x => do
    let q ← tileDesc (sRun x.w a 0) (sRun x.w a 1) (sRun x.w a 2) (sRun x.w a 3) [] false
    startTile s x.pn x.c x.w.launch 6 q .memory .memory)

/-- TMCAST (R231): to every core that runs a member of the group. The group is looked for before the descriptor
(notes/assumptions/62.md). -/
def execTmcast (d a : BitVec 6) (g : BitVec 2) (s : State) : Host.Outcome State Fault Refusal :=
  engineWord s (iSRun a 4) d (fun x => do
    let i ← groupOf x g
    let q ← tileDesc (sRun x.w a 0) (sRun x.w a 1) (sRun x.w a 2) (sRun x.w a 3) [] false
    checkScratch x.l q.dst (rowsSpan q.rows q.rowBytes q.dstride)
    waitRuns s x (dstRuns q)
    startTile s x.pn x.c x.w.launch 7 q .memory (.scratch (groupCores x.l i)))

/-- The index list of GATH and SCAT, read at issue (R217, R231). -/
def indexList (s : State) (x : Ctx) (at_ rows : Nat) : List Nat :=
  (List.range rows).map (fun i => markedNat (scratchRead (clOf s x.c x.w.launch) (at_ + 4 * i) 4))

/-- The checks of an index list: its alignment, then, after the rows' own, its range (R229, R231). -/
def checkIndexAlign (b : DWord) : Except Stop Unit := raiseIf (b.toNat % 4 != 0) cMisaligned b

/-- GATH (R231): source rows by index. -/
def execGath (d a b : BitVec 6) (s : State) : Host.Outcome State Fault Refusal :=
  engineWord s (iSRun a 4 ++ [iS b]) d (fun x => do
    let q ← tileDesc (sRun x.w a 0) (sRun x.w a 1) (sRun x.w a 2) (sRun x.w a 3) [] false
    checkIndexAlign (sReg x.w b)
    checkScratch x.l q.dst (rowsSpan q.rows q.rowBytes q.dstride)
    checkScratch x.l (sReg x.w b).toNat (4 * q.rows)
    waitRuns s x (((sReg x.w b).toNat, 4 * q.rows) :: dstRuns q)
    startTile s x.pn x.c x.w.launch 8 { q with idx := indexList s x (sReg x.w b).toNat q.rows } .memory (.scratch [x.c]))

/-- SCAT (R231): destination rows by index. -/
def execScat (d a b : BitVec 6) (s : State) : Host.Outcome State Fault Refusal :=
  engineWord s (iSRun a 4 ++ [iS b]) d (fun x => do
    let q ← tileDesc (sRun x.w a 0) (sRun x.w a 1) (sRun x.w a 2) (sRun x.w a 3) [] false
    checkIndexAlign (sReg x.w b)
    checkScratch x.l q.src (rowsSpan q.rows q.rowBytes q.sstride)
    checkScratch x.l (sReg x.w b).toNat (4 * q.rows)
    waitRuns s x (((sReg x.w b).toNat, 4 * q.rows) :: srcRuns q)
    startTile s x.pn x.c x.w.launch 9 { q with idx := indexList s x (sReg x.w b).toNat q.rows, idxDst := true }
      (.scratch [x.c]) .memory)

/-! ## Events -/

/-- ENGINE_LINE_WRITE (R216, R218): an operation writes one of its units: a line, a granule, or a part of a B tile. -/
def execEngineLineWrite (core op line : Nat) (s : State) : Host.Outcome State Fault Refusal :=
  match fget? (coreOf s core).engines op with
  | none => .next s
  | some e =>
    let pn := partOfCore s core
    let s := claimTile s core op e
    if !setMem (opUnits core e) line || setMem e.done line || e.failed.isSome then .next s
    else match e.kind with
      | .fill n col side stride _ key _ => .next (fillUnit s pn core op line e n col side stride key)
      | .queueFill _ _ _ false => .next s
      | _ => match opPlaces core e with
        | some (d, src, dst) => .next (copyUnit s pn core op line e d src dst)
        | none => .next s

/-- Whether an operation's writes to memory are visible in the partition (R218). -/
def opVisible (s : State) (pn c : Nat) (op : EngineOp) (d : TileDesc) (dst : Place) : Bool :=
  match dst with
  | .scratch _ => true
  | .memory => (tileDstLines d).all (fun l => opLineVisible s pn c op l)

/-- TILE_TRANSFER_COMPLETE (R218, R229, R231): the future completes once every unit is written and visible, or with the
cause of a failure. -/
def execTileTransferComplete (core op : Nat) (s : State) : Host.Outcome State Fault Refusal :=
  match fget? (coreOf s core).engines op with
  | none => .next s
  | some e => match e.kind with
    | .tile d src dst =>
      let pn := partOfCore s core
      match e.failed with
      | some f => .next (failOp s core op f)
      | none =>
        if !allWritten core e || !opVisible s pn core e d dst then .next s
        else match unreadFault s pn e d src with
          | some f => .next (failOp s core op f)
          | none => .next (endOp s core op .done 0 0)
    | _ => .next s

end Sys2Proof.Machine
end

