-- ==== Sys2Proof/Machine/Census.lean ====
section
/-! DEFINITION. The tile directory (R249 to R253), solicitations (R254 to R263, R330), and moves (R264, R265). -/

namespace Sys2Proof.Machine

open Sys2Proof

/-! ## Cause codes of the CEN class (R275) -/

def cCenDesc : Nat := 0x0601
def cDirFull : Nat := 0x0602
def cTileBad : Nat := 0x0603
def cTileMoving : Nat := 0x0604
def cMoveSpace : Nat := 0x0605
def cMoveTarget : Nat := 0x0606
def cReplyTwice : Nat := 0x0607
def cNotResponder : Nat := 0x0608
def cReplyKind : Nat := 0x0609

/-! ## The directory -/

/-- The lowest free entry of a core's directory (R252). -/
def freeDir (k : Core) : Option Nat := (List.range 512).find? (fun i => (dirOf k i).state == .free)

/-- A tile handle (R249). -/
def tileHandle (c i : Nat) (gen : BitVec 40) : DWord := BitVec.ofNat 64 (2 ^ 63 + c * 2 ^ 55 + i * 2 ^ 46 + gen.toNat)

/-- The index of a tile handle. -/
def tileIndex (h : DWord) : Nat := field h 54 46

/-- Replaces a directory entry. -/
def putDir (s : State) (c i : Nat) (e : TileEntry) : State := modCore s c (fun k => { k with dir := fput k.dir i e })

/-- Whether a tile handle is refused with CEN_TILE_BAD (R253). -/
def tileBad (s : State) (c l : Nat) (h : DWord) : Bool :=
  let e := dirOf (coreOf s c) (tileIndex h)
  !h.getLsbD 63 || field h 62 55 != c || field h 45 40 != 0 || e.gen != h.extractLsb' 0 40 || e.state == .free
    || e.expired || e.launch != l

/-- The first faulty descriptor scalar of a TREG, if any (R248, R252). -/
def tregFaulty (s : State) (x : Ctx) (desc base : DWord) (b : BitVec 7) : Option DWord :=
  let space := field desc 63 62
  let len := field desc 31 0
  let descBad := space == 3 || field desc 55 32 != 0
    || (space == 0 && (len == 0 || len % 16 != 0))
    || (space == 1 && (len == 0 || decide (len > 8) || decide (b.toNat + len > 128)))
    || (space == 2 && len != 1)
    || (space != 1 && (b != 0 || field desc 61 56 != 0))
  let tile := tileOf (coreOf s x.c) base.toNat
  let usable := ((tile.state == .valid || tile.state == .sealed) && !tileForeign tile x.l.tenant x.w.launch)
    || (savedTile (partOf s x.pn) x.l.tenant x.c base.toNat).isSome
  let baseBad := (space == 1 && base != 0) || (space == 2 && (decide (base.toNat > 127) || !usable))
  if descBad then some desc else if baseBad then some base else none

/-- Takes one more reference to each row of a run (R12, R252): MAP_REF_OVERFLOW where a count would pass 4,095. -/
def takeRefs (s : State) (x : Ctx) : List Nat → Except Stop (State × List Nat)
  | [] => .ok (s, [])
  | n :: ns =>
    match (warpOf? s x.c x.slot).bind (fun w => refOfEntry (nameOf w n)) with
    | none => takeRefs s x ns
    | some r => do
      raiseIf ((refRow s x.c x.l.tenant r).count == 4095) cRefOverflow (tv r)
      let (t, rs) ← takeRefs (addRef s x.c x.l.tenant r) x ns
      .ok (t, r :: rs)

/-- TREG (R252). -/
def execTreg (d a : BitVec 6) (b : BitVec 7) (s : State) : Host.Outcome State Fault Refusal :=
  runWord s (fun x => do
    checkPending x.w (iSRun a 3)
    let desc := sRun x.w a 1
    let base := sRun x.w a 2
    let space := field desc 63 62
    let len := field desc 31 0
    match tregFaulty s x desc base b with
    | some v => do
      checkPending x.w [iS d]
      raise cCenDesc v
    | none =>
      let names := if space = 1 then winRun x.w b len else []
      checkPending x.w (iNames names ++ [iS d])
      checkMapped x.w names
      let s ← reloadNames s x names
      let (s, rows) ← takeRefs s x names
      raiseIf (space == 1 && decide (field desc 61 56 ≥ recHos x.l.record)) cSlotRange (tv (field desc 61 56))
      raiseIf (space == 0 && base.toNat % 16 != 0) cMisaligned base
      if space = 0 then checkScratch x.l base.toNat len
      match freeDir (coreOf s x.c) with
      | none => raise cDirFull (tv x.c)
      | some i =>
        let gen := (dirOf (coreOf s x.c) i).gen + 1
        let s := putDir s x.c i
          ⟨.valid, gen, sRun x.w a 0, space, base.toNat, len, field desc 61 56, rows, x.w.launch, false, none⟩
        .ok (modW s x (fun w => setS w d (tileHandle x.c i gen)), .seq))

/-- Whether an entry moves, or is the destination of a move in progress (R253, R264). -/
def isMoving (e : TileEntry) : Bool := e.state == .moving || (e.state == .shadow && !e.expired)

/-- TUNREG (R253). -/
def execTunreg (a : BitVec 6) (s : State) : Host.Outcome State Fault Refusal :=
  runWord s (fun x => do
    checkPending x.w [iS a]
    let h := sReg x.w a
    raiseIf (tileBad s x.c x.w.launch h) cTileBad h
    let e := dirOf (coreOf s x.c) (tileIndex h)
    raiseIf (isMoving e) cTileMoving h
    .ok (freeTileEntry (putDir s x.c (tileIndex h) { e with state := .shadow, expired := true }) x.c (tileIndex h), .seq))

/-! ## Moves (R264) -/

/-- TMOVE (R264), after the path's set-aside accesses to the granules that it copies (R217). -/
def execTmove (d a b : BitVec 6) (s : State) : Host.Outcome State Fault Refusal :=
  runWord s (fun x => do
    checkPending x.w (iS a :: iSRun b 2 ++ iSRun d 2)
    let h := sReg x.w a
    raiseIf (tileBad s x.c x.w.launch h) cTileBad h
    let e := dirOf (coreOf s x.c) (tileIndex h)
    raiseIf (isMoving e || e.state == .shadow) cTileMoving h
    raiseIf (e.space != 0) cMoveSpace h
    let t := sRun x.w b 0
    let off := (sRun x.w b 1).toNat
    let dc := field t 7 0
    raiseIf (field t 63 8 != 0 || !coreIn (partOf s x.pn) dc || (fget? (coreOf s dc).launches x.w.launch).isNone
      || scratchBytes x.l == 0 || off % 16 != 0 || decide (off + e.len > scratchBytes x.l)) cMoveTarget t
    match freeDir (coreOf s dc) with
    | none => raise cDirFull (tv dc)
    | some i =>
      waitRuns s x ((e.base, e.len) :: (if dc = x.c then [(off, e.len)] else []))
      let (f, fh, s) ← takeFuture s x.c x.w.launch 27
      let q : TileDesc := ⟨e.base, off, 1, e.len, 0, 0, [], false⟩
      let (o, s) := startOp s x.pn x.c x.w.launch (some f) (.move q (tileIndex h) dc i false false)
      let s := putDir s x.c (tileIndex h) { e with state := .moving, moveOp := some o }
      let gen := (dirOf (coreOf s dc) i).gen + 1
      let s := putDir s dc i { e with
        state := .shadow, gen := gen, base := off, expired := false, moveOp := none, rows := [] }
      .ok (modW s x (fun w =>
        let w := setS w d fh
        setS { w with tags := fput w.tags d.toNat fh } (d + 1) (tileHandle dc i gen)), .seq))

/-- A message for the root joins those on their way to it. -/
def toRoot (s : State) (pn : Nat) (m : RootMsg) : State :=
  modPart s pn (fun p => { p with rootInbox := p.rootInbox ++ ([m] : List RootMsg) })

/-- TMOVE_SWITCH_SEND (R264): once every copied granule is visible the switch goes to the root. -/
def execTmoveSwitchSend (core op : Nat) (s : State) : Host.Outcome State Fault Refusal :=
  match fget? (coreOf s core).engines op with
  | some e => match e.kind with
    | .move d se dc de false a =>
      if allWritten core e then
        .next (toRoot (modOp s core op (fun e => { e with kind := .move d se dc de true a })) (partOfCore s core)
          (.switch core op))
      else .next s
    | _ => .next s
  | none => .next s

/-- The destination of a move turns VALID (R264). -/
def applyDest (s : State) (sc se dc de o : Nat) : State :=
  let s := putDir s dc de { dirOf (coreOf s dc) de with state := .valid }
  match fget? (coreOf s sc).engines o with
  | none => s
  | some e => match e.kind with
    | .move d a b c q _ =>
      let s := modOp s sc o (fun e => { e with kind := .move d a b c q true })
      if (dirOf (coreOf s sc) se).moveOp = some o then s else endOp s sc o .done 0 0
    | _ => s

/-- TMOVE_SWITCH_APPLY (R264): a core applies a switch in sequence order; the source's handle expires. -/
def execTmoveSwitchApply (core : Nat) (s : State) : Host.Outcome State Fault Refusal :=
  match (coreOf s core).inbox with
  | .switch sc se dc de o :: rest =>
    if (coreOf s core).refusing then .next s
    else
      let s := modCore s core (fun k => { k with inbox := rest })
      let s := if core = dc then applyDest s sc se dc de o else s
      if core = sc then
        .next (freeTileEntry (putDir s sc se { dirOf (coreOf s sc) se with state := .shadow, expired := true }) sc se)
      else .next s
  | _ => .next s

/-! ## SOLICIT (R254) -/

/-- Whether the control word of a solicitation is faulty (R254, R257). -/
def solicitBad (v : DWord) : Bool :=
  let op := field v 3 0
  let vw := field v 16 8
  field v 63 24 != 0 || decide (field v 23 17 > 64) || decide (vw > 256) || field v 5 4 == 3 || decide (op > 6)
    || ((op == 0 || op == 4 || op == 5) && vw != 0) || (op == 6 && vw == 0)

/-- The bytes of a combined value (R262). -/
def valueLen (op vw : Nat) : Nat := if op = 6 then 8 + 4 * vw else if vw = 0 then 8 else 4 * vw

/-- The cores of a solicitation's scope that take part (R254, notes/assumptions/23.md). -/
def scopeCores (s : State) (x : Ctx) (scope g : Nat) : List Nat :=
  let l := match scope with
    | 0 => groupCores x.l g
    | 1 => (coresOf (partOf s x.pn)).filter (fun c => octOf c == octOf x.c)
    | _ => coresOf (partOf s x.pn)
  l.filter (fun c => !(coreOf s c).fenced)

/-- SOLICIT (R254): a release toward its responders, so it waits for the core's earlier stores (R221). -/
def execSolicit (d a b : BitVec 6) (s : State) : Host.Outcome State Fault Refusal :=
  engineWord s (iSRun a 4 ++ iSRun b 2) d (fun x => do
    let v := sRun x.w b 0
    let offs := sRun x.w b 1
    raiseIf (solicitBad v) cCenDesc v
    let scope := field v 5 4
    let g ← if scope = 0 then groupOf x (BitVec.ofNat 2 (field v 7 6)) else .ok 0
    let plen := field v 23 17
    let po := field offs 31 0
    let ro := field offs 63 32
    raiseIf (po % 16 != 0) cMisaligned (tv po)
    raiseIf (ro % 16 != 0) cMisaligned (tv ro)
    checkScratch x.l po (16 * plen)
    checkScratch x.l ro (16 + valueLen (field v 3 0) (field v 16 8))
    parkIf (keptBack s x false || !storesDone s x.pn x.c)
    waitRuns s x [(po, 16 * plen), (ro, 16 + valueLen (field v 3 0) (field v 16 8))]
    let (f, h, s) ← takeFuture s x.c x.w.launch 26
    let q : Solicit := ⟨0, sRun x.w a 0, sRun x.w a 1, sRun x.w a 2, sRun x.w a 3, field v 3 0, field v 16 8,
      scratchRead (clOf s x.c x.w.launch) po (16 * plen), plen, ro, scopeCores s x scope g, x.w.launch, x.c, 0⟩
    let (o, s) := startOp s x.pn x.c x.w.launch (some f) (.solicit q false)
    let s := modOp s x.c o (fun e => { e with kind := .solicit { q with askOp := o } false })
    .ok (h, toRoot s x.pn (.solicit x.c o)))

/-- CENSUS (R263). -/
def execCensus (d a : BitVec 6) (s : State) : Host.Outcome State Fault Refusal :=
  runWord s (fun x => do
    checkPending x.w [iS a, iS d]
    let h := sReg x.w a
    raiseIf (handleBad s x.pn x.w.launch h || field h 44 40 != 26) cHandleBad h
    let f := futOf (coreOf s (field h 62 55)) (field h 54 45)
    let v : DWord :=
      if f.gen ≠ h.extractLsb' 0 40 ∨ f.state = .running then 0
      else tv (2 ^ 63 + f.census.1 % 2 ^ 8 * 2 ^ 48 + f.census.2.1 % 2 ^ 24 * 2 ^ 24 + f.census.2.2 % 2 ^ 24)
    .ok (modW s x (fun w => setS w d v), .seq))

/-! ## Replies (R257, R258, R260) -/

/-- The solicitation that a responder serves, as its core holds it. -/
def solicitOf (s : State) (c seq : Nat) : Option Solicit := ((coreOf s c).accepted.find? (fun a => a.q.seq == seq)).map (·.q)

/-- The checks that REPLY and REPLYV share (R260). -/
def checkReply (x : Ctx) (vector : Bool) : Except Stop Responder :=
  match x.w.resp with
  | none => raise cNotResponder 0
  | some r => do
    raiseIf r.reply.isSome cReplyTwice (tv (r.seq % 2 ^ 32))
    raiseIf ((r.vw != 0) != vector) cReplyKind (tv r.op)
    .ok r

/-- Captures a reply. -/
def captureReply (s : State) (x : Ctx) (r : Responder) (v : Reply) : State :=
  modW s x (fun w => { w with resp := some { r with reply := some v } })

/-- REPLY (R257, R260): COUNT takes 1 for a value that is not zero. -/
def execReply (a : BitVec 6) (s : State) : Host.Outcome State Fault Refusal :=
  runWord s (fun x => do
    checkPending x.w [iS a]
    let r ← checkReply x false
    parkIf (keptBack s x false)
    let v := sReg x.w a
    let words : List Word :=
      if r.op = 1 ∨ r.op = 2 ∨ r.op = 3 then [v.extractLsb' 0 32]
      else if r.op = 5 then [if v = 0 then 0 else 1, 0]
      else [v.extractLsb' 0 32, v.extractLsb' 32 32]
    .ok (captureReply s x r ⟨some words, true⟩, .seq))

/-- REPLYV (R260): a poisoned granule gives the identity, which is not counted, and REL_UE (R369). -/
def execReplyv (a : BitVec 6) (s : State) : Host.Outcome State Fault Refusal :=
  runWord s (fun x => do
    checkPending x.w [iS a]
    let r ← checkReply x true
    let off := sReg x.w a
    let n := valueLen r.op r.vw
    raiseIf (off.toNat % 4 != 0) cMisaligned off
    checkScratch x.l off.toNat n
    parkIf (keptBack s x false)
    let bs := scratchRead (clOf s x.c x.w.launch) off.toNat n
    match bs.findIdx? (·.2) with
    | some i => .ok (captureReply (coreUe s x.c x.l.id (off.toNat + i) 2) x r ⟨none, false⟩, .seq)
    | none => .ok (captureReply s x r ⟨some (wordsOf (bs.map (·.1))), true⟩, .seq))

/-! ## Combining (R257, R258, R261) -/

/-- SMTRIPLE (R258). -/
def smCombine (a b : List Word) : List Word :=
  let val (w : Word) : FVal := unpack .f32 w.toNat
  let code (v : FVal) : Word := BitVec.ofNat 32 (roundVal .f32 .rne false v).1
  let m1 := (a.getD 0 0).toNat
  let m2 := (b.getD 0 0).toNat
  let m := (combineF 1 (m1, .none) (m2, .none)).1
  let negInf : Nat := 0xFF800000
  let f (mi : Nat) : FVal :=
    if mi = negInf ∧ m = negInf then .fin false 0 0
    else unpack .f32 (sfEx2 false (roundVal .f32 .rne false (plus (unpack .f32 mi) (unpack .f32 m).negate)).1).1
  let f1 := f m1
  let f2 := f m2
  BitVec.ofNat 32 m :: ((a.drop 1).zip (b.drop 1)).map (fun e =>
    code (plus (rne32 (times (val e.1) f1)) (rne32 (times (val e.2) f2))))

/-- F of R257 on the words of two contributions. -/
def combineReply (op : Nat) (a b : List Word) : List Word :=
  let sum64 (f : Nat → Nat → Nat) : List Word :=
    let n := f (leNat (a.flatMap bytesOf32)) (leNat (b.flatMap bytesOf32))
    [BitVec.ofNat 32 n, BitVec.ofNat 32 (n / 2 ^ 32)]
  match op with
  | 0 => sum64 (· + ·)
  | 5 => sum64 (· + ·)
  | 4 => sum64 (fun x y => x ||| y)
  | 6 => smCombine a b
  | n => (a.zip b).map (fun e => BitVec.ofNat 32 (combineF (n - 1) (e.1.toNat, .none) (e.2.toNat, .none)).1)

/-- The tree of R73 extended to `n` levels (R261). -/
def treeN {α : Type} (f : α → α → α) : Nat → List (Option α) → Option α
  | 0, l => l.headD none
  | n + 1, l => treeN f n (treeLevel f l)

/-- The identity of an operator as words (R257). -/
def identityWords (op vw : Nat) : List Word :=
  let n := if vw = 0 then 1 else vw
  match op with
  | 1 => List.replicate n 0
  | 2 => List.replicate n 0xFF800000
  | 3 => List.replicate n 0x7F800000
  | 6 => 0xFF800000 :: List.replicate (1 + vw) 0
  | _ => [0, 0]

/-- A core's combined result (R261). -/
def coreResult (a : Accepted) : Option (List Word) :=
  treeN (combineReply a.q.op) 9 ((List.range 512).map (fun i =>
    ((a.replies.find? (fun e => e.1 == i)).map (·.2.words)).getD none))

/-- The result of a solicitation over the octants and the partition (R261). -/
def rootResult (q : Solicit) (reps : List (Nat × Option (List Word) × Nat × Nat)) : List Word :=
  let at_ (c : Nat) : Option (List Word) := ((reps.find? (fun e => e.1 == c)).map (·.2.1)).getD none
  let oct (o : Nat) : Option (List Word) := tree32 (combineReply q.op) ((List.range 32).map (fun i =>
    if i < Config.coresPerOctant then at_ (Config.coresPerOctant * o + i) else none))
  (tree32 (combineReply q.op) ((List.range 32).map (fun o => if o < 8 then oct o else none))).getD (identityWords q.op q.vw)

/-- The bytes of the result block (R262). -/
def resultBlock (q : Solicit) (reps : List (Nat × Option (List Word) × Nat × Nat)) : List Byte :=
  let sum (f : Nat × Option (List Word) × Nat × Nat → Nat) : Nat := (reps.map f).sum
  let v := rootResult q reps
  let v := if q.vw = 0 ∧ v.length < 2 then v ++ [0] else v
  ([BitVec.ofNat 32 reps.length, BitVec.ofNat 32 (sum (·.2.2.1)), BitVec.ofNat 32 (sum (·.2.2.2)), 0#32] ++ v).flatMap bytesOf32

/-- Ends a solicitation: the asker's core writes the result block, the root slot is free, the future completes (R262,
R330). -/
def finishSolicit (s : State) (pn : Nat) (r : RootSlot) : State :=
  let q := r.q
  let s := modPart s pn (fun p => { p with rootSlots := p.rootSlots.filter (fun e => e.q.seq != q.seq) })
  let bs := resultBlock q r.reports
  let s := modCl s q.askCore q.launch (fun h => setFull
    (scratchWrite h ((List.range bs.length).map (fun i => (q.result + i, some (bs.getD i 0))))) (pieces 16 q.result bs.length) true)
  let s := match (fget? (coreOf s q.askCore).engines q.askOp).bind (·.future) with
    | some i => modCore s q.askCore (fun k => { k with futures := fput k.futures i { futOf k i with
        census := (r.reports.length, (r.reports.map (·.2.2.1)).sum, (r.reports.map (·.2.2.2)).sum) } })
    | none => s
  endOp s q.askCore q.askOp .done 0 0

/-- A core's report reaches the root (R262). -/
def reportCore (s : State) (pn c seq : Nat) (res : Option (List Word)) (m r : Nat) : State :=
  let s := modPart s pn (fun p => { p with rootSlots := p.rootSlots.map (fun e =>
    if e.q.seq = seq then { e with reports := e.reports ++ [(c, res, m, r)] } else e) })
  match (partOf s pn).rootSlots.find? (fun e => e.q.seq == seq) with
  | some e => if e.q.cores.all (fun k => e.reports.any (fun q => q.1 == k)) then finishSolicit s pn e else s
  | none => s

/-! ## The root (R255, R330) -/

/-- Counts a refusal at the root (R332). -/
def countSref (s : State) (pn : Nat) : State :=
  modPart s pn (fun p => setReg p .cenStat 0 (setField (reg p .cenStat) 31 0 (satAdd (field (reg p .cenStat) 31 0) 1 (2 ^ 32 - 1))))

/-- The root numbers a solicitation and sends it to the cores of its scope (R255, R329, R330). -/
def acceptAtRoot (s : State) (pn c op : Nat) (q : Solicit) : State :=
  let q := { q with seq := (partOf s pn).rootSeq }
  let s := modOp s c op (fun e => { e with kind := .solicit q true, passed := true })
  let s := sendDown s pn q.cores (.solicit q)
  let s := modPart s pn (fun p => { p with rootSlots := p.rootSlots ++ ([⟨q, []⟩] : List RootSlot) })
  if q.cores.isEmpty then finishSolicit s pn ⟨q, []⟩ else s

/-- The cores that a message will go down to (R255, R264, R329). -/
def rootScope (s : State) : RootMsg → List Nat
  | .arrive _ _ _ _ => []
  | .solicit c o => match fget? (coreOf s c).engines o with
    | some e => match e.kind with
      | .solicit q _ => q.cores
      | _ => []
    | none => []
  | .switch c o => match fget? (coreOf s c).engines o with
    | some e => match e.kind with
      | .move _ _ dc _ _ _ => [c, dc]
      | _ => []
    | none => []

/-- ROOT_SEQUENCE (R255, R330): the root takes the first solicitation or switch on its way, numbers it and sends it down,
or refuses it: a solicitation without a free slot, and whatever comes from its core after it. While the replay window of a core in
its scope is full, it waits (R312). -/
def execRootSequence (part : Nat) (s : State) : Host.Outcome State Fault Refusal :=
  match (rootHeads (partOf s part).rootInbox).find? (fun m => !isArrive m) with
  | none => .next s
  | some m => if !inboxOpen s part (rootScope s m) then .next s else
    let s := modPart s part (fun p => { p with rootInbox := p.rootInbox.erase m })
    match m with
    | .solicit c op => match fget? (coreOf s c).engines op with
      | some e => match e.kind with
        | .solicit q false =>
          if (partOf s part).rootSlots.length ≥ 256 ∨ rootRefuses s part c op then .next (countSref s part)
          else .next (acceptAtRoot s part c op q)
        | _ => .next s
      | none => .next s
    | .switch c op => match fget? (coreOf s c).engines op with
      | some e => match e.kind with
        | .move _ se dc de _ _ =>
          if rootRefuses s part c op then .next s
          else
            let s := modOp s c op (fun e => { e with passed := true })
            .next (sendDown s part (if c = dc then [c] else [c, dc]) (.switch c se dc de op))
        | _ => .next s
      | none => .next s
    | .arrive _ _ _ _ => .next s

/-- The messages of a core that the root has not taken, with their places in the core's order: solicitations and switches of its
operations, and the ARRIVEs of its nodes (R312, R330, R331). -/
def untaken (s : State) (pn c : Nat) : List (Nat × RootMsg) :=
  let p := partOf s pn
  let ops : List (Nat × RootMsg) := (coreOf s c).engines.filterMap (fun e => match e.2.kind with
    | .solicit _ false => some (e.1, .solicit c e.1)
    | .move _ _ _ _ true _ => if e.2.passed then none else some (e.1, .switch c e.1)
    | _ => none)
  let arrives : List (Nat × RootMsg) := (coreOf s c).launches.flatMap (fun l => l.2.barriers.filterMap (fun b =>
    let r := rootBarrierOf p l.1 b.1
    match b.2.sent with
    | some k => if r.completed = b.2.completed ∧ setMem r.reported c = false then some (k, .arrive c l.1 b.1 b.2.completed) else none
    | none => none))
  sortOrd (fun a b => decide (a.1 ≤ b.1)) (ops ++ arrives)

/-- A refused message and every later one of its core go to the root again after the back-off, in their order (R312, R330). -/
def resendToRoot (s : State) (pn c op : Nat) : State :=
  ((untaken s pn c).filter (fun m => decide (op ≤ m.1) && !(partOf s pn).rootInbox.contains m.2)).foldl (fun s m => toRoot s pn m.2) s

/-! ## Acceptance and responders (R256, R259) -/

/-- The match set of a solicitation at a core (R256). -/
def matchSet (k : Core) (q : Solicit) : List Nat :=
  (k.dir.filter (fun e => (e.2.state == .valid || e.2.state == .moving) && e.2.launch == q.launch
    && (e.2.key ^^^ q.key) &&& q.mask == 0)).map (·.1)

/-- The lowest free landing slot of a launch on a core (R256). -/
def freeLanding (s : State) (c l : Nat) : Option Nat :=
  (List.range (recRslots (launchOf s l).record)).find? (fun i => (fget? (clOf s c l).landing i).isNone)

/-- The scratchpad offset of a landing slot (R299). -/
def landingAt (l : Launch) (i : Nat) : Nat := recRbase l.record + 1024 * i

/-- The payload goes to the landing slot, its granules FULL, its poison marks with it (R259). -/
def landPayload (s : State) (c i : Nat) (q : Solicit) : State :=
  let at_ := landingAt (launchOf s q.launch) i
  let bs := markedBytes (q.payload.mapIdx (fun j b => (at_ + j, b)))
  modCl s c q.launch (fun h => setFull (scratchWrite { h with landing := fput h.landing i q.seq } bs)
    (pieces 16 at_ q.payload.length) true)

/-- SOLICIT_ACCEPT (R256): a core applies a solicitation in sequence order, or refuses it and every later message that the root has
sent, counting each, until they are replayed (R255, R312). -/
def execSolicitAccept (core : Nat) (s : State) : Host.Outcome State Fault Refusal :=
  match (coreOf s core).inbox with
  | .solicit q :: rest =>
    if (coreOf s core).refusing then .next s
    else
      let pn := partOfCore s core
      let ms := matchSet (coreOf s core) q
      let took := modCore s core (fun k => { k with inbox := rest })
      if ms.isEmpty then .next (reportCore took pn core q.seq none 0 0)
      else if (coreOf s core).accepted.length ≥ 64 ∨ (q.plen ≠ 0 ∧ (freeLanding s core q.launch).isNone) then
        .next (countNaks (modCore s core (fun k => { k with refusing := true })) pn core (rest.length + 1))
      else
        let slot := if q.plen = 0 then none else freeLanding s core q.launch
        let s := modCore took core (fun k => { k with accepted := k.accepted ++ ([⟨q, ms, ms, slot, []⟩] : List Accepted) })
        .next (match slot with
          | some i => landPayload s core i q
          | none => s)
  | _ => .next s

/-- Whether a slot may take a new warp: it has none, and no live warp's GANG names it (R158). -/
def slotFree (k : Core) (w : Nat) : Bool :=
  (fget? k.warps w).isNone && !k.warps.any (fun e => field e.2.gang 38 36 != 0 && setMem (gangSlots e.2 e.1) w)

/-- The lowest free warp slot of a core. -/
def freeSlot (k : Core) : Option Nat := (List.range 64).find? (slotFree k)

/-- How many responders of a solicitation run on a core, halted ones included (R259). -/
def running (k : Core) (seq : Nat) : Nat := ((coreWarps k).filter (fun w => (w.resp.map (·.seq)) == some seq)).length

/-- Whether the hand-off slot of a ROWS entry and the rows themselves can take the references of a spawn (R259). -/
def rowsReady (s : State) (c : Nat) (e : TileEntry) : Bool :=
  e.space != 1
    || (decide ((fget (clOf s c e.launch).hslots e.hslot []).length + e.rows.length ≤ 8)
      && e.rows.all (fun r => decide ((refRow s c (launchOf s e.launch).tenant r).count + e.rows.count r ≤ 4095)))

/-- Whether the next responder of a solicitation can start (R259). -/
def spawnReady (s : State) (c : Nat) (a : Accepted) : Bool :=
  let l := launchOf s a.q.launch
  match a.unspawned with
  | [] => false
  | i :: _ => l.status == .running && l.term.isNone && l.stop.isNone && decide (running (coreOf s c) a.q.seq < 32)
      && (freeSlot (coreOf s c)).isSome && rowsReady s c (dirOf (coreOf s c) i)

/-- The first registers of a responder (R259). -/
def responderRegs (l : Launch) (q : Solicit) (e : TileEntry) (landing : Option Nat) : Vector DWord 64 :=
  let lo := match landing with
    | some i => landingAt l i
    | none => 0xFFFFFFFF
  (((((Vector.replicate 64 0).set 0 e.key).set 1 (tv (if e.space = 1 then e.hslot else e.base))).set 2
    (tv (if e.space = 2 then 32768 else e.len))).set 3 q.arg).set 4 (tv (lo * 2 ^ 32 + q.seq % 2 ^ 32))

/-- RESPONDER_SPAWN (R259): the first accepted solicitation whose next match can start spawns its responder. A handler PC
that is no code address is a bad target, raised in the new warp (R56). -/
def execResponderSpawn (core : Nat) (s : State) : Host.Outcome State Fault Refusal :=
  match (coreOf s core).accepted.find? (spawnReady s core) with
  | none => .next s
  | some a => match a.unspawned, freeSlot (coreOf s core) with
    | i :: rest, some w =>
      let l := launchOf s a.q.launch
      let e := dirOf (coreOf s core) i
      let s := if e.space = 1 then
          let s := e.rows.foldl (fun s r => addRef s core l.tenant r) s
          modCl s core a.q.launch (fun h => { h with
            hslots := fput h.hslots e.hslot (fget h.hslots e.hslot [] ++ e.rows) })
        else s
      let dstk := tv (recDsbase l.record + (recNwarps l.record + 64 * core + w) * stackStride l.record)
      let v : Warp := { warpReset a.q.launch 0xFFFFFFFF (a.q.handler.setWidth 57) dstk (recTvec l.record) (Vector.replicate 4 0) with
        s := responderRegs l a.q e a.landing, resp := some ⟨a.q.seq, i, a.q.op, a.q.vw, none⟩ }
      let s := modCl s core a.q.launch (fun h => { h with lost := setDel h.lost w })
      let s := setWarp (modCore s core (fun k => { k with accepted := k.accepted.map (fun b =>
        if b.q.seq = a.q.seq then { b with unspawned := rest } else b) })) core w v
      .next (if a.q.handler.toNat < 2 ^ 57 then s
        else trapEnter s core w false v.prim.pc cBadTarget a.q.handler)
    | _, _ => .next s

/-- CORE_REPORT (R262): once the match set has been spawned, every responder has ended, and what they stored is visible,
since a reply is a release toward the asker (R221); a match that its launch's end left unspawned counts as the identity
(R260). -/
def execCoreReport (core id : Nat) (s : State) : Host.Outcome State Fault Refusal :=
  match (coreOf s core).accepted.find? (fun a => a.q.seq == id) with
  | none => .next s
  | some a =>
    let l := launchOf s a.q.launch
    let over_ := l.term.isSome || l.status == .ended
    if running (coreOf s core) a.q.seq > 0 ∨ (a.unspawned ≠ [] ∧ over_ = false)
        ∨ storesDone s (partOfCore s core) core = false then .next s
    else
      let s := modCore s core (fun k => { k with accepted := k.accepted.filter (fun b => b.q.seq != id) })
      let s := modCl s core a.q.launch (fun h => { h with landing := h.landing.filter (fun e => e.2 != id) })
      let s := a.unspawned.foldl (fun s i => freeTileEntry s core i) s
      .next (reportCore s (partOfCore s core) core id (coreResult a) a.matchSet.length
        (a.replies.filter (fun r => r.2.counted)).length)

end Sys2Proof.Machine
end

