-- ==== Sys2Proof/Machine/Collective.lean ====
section
/-! DEFINITION. Partition counters (R242), collective work entries (R238, R239, R243), tree aborts (R244), and LAUNCH
(R246). -/

namespace Sys2Proof.Machine

open Sys2Proof

/-- ENG_CTR_FOREIGN (R242). -/
def checkCounter (s : State) (pn tenant n : Nat) : Except Stop Unit :=
  raiseIf ((counterOf (partOf s pn) n).2 != tenant) cCtrForeign (tv n)

/-- CTRADD (R242): an indivisible add, after the path's earlier accesses are visible in the partition. -/
def execCtradd (d : BitVec 6) (cnt : BitVec 8) (s : State) : Host.Outcome State Fault Refusal :=
  runWord s (fun x => do
    checkPending x.w [iS d]
    checkCounter s x.pn x.l.tenant cnt.toNat
    parkIf (keptBack s x false || !storesDone s x.pn x.c)
    .ok (counterAdd s x.pn cnt.toNat ((sReg x.w d).setWidth 32), .seq))

/-- CTRWAIT (R242): the path's next span waits for the counter. -/
def execCtrwait (d : BitVec 6) (cnt : BitVec 8) (s : State) : Host.Outcome State Fault Refusal :=
  runWord s (fun x => do
    needLast x
    checkPending x.w [iS d]
    checkCounter s x.pn x.l.tenant cnt.toNat
    .ok (modW s x (fun w => modPath w x.sp.sec (fun p =>
      { p with wait := .counter cnt.toNat ((sReg x.w d).setWidth 32) })), .seq))

/-! ## Posted entries (R238) -/

/-- Word `i` of a posted entry. -/
def postW (w : List DWord) (i : Nat) : DWord := w.getD i 0
def postArmv (w : List DWord) : Bool := (postW w 0).getLsbD 49
def postDonev (w : List DWord) : Bool := (postW w 0).getLsbD 48
def postDonecnt (w : List DWord) : Nat := field (postW w 0) 47 40
def postArmcnt (w : List DWord) : Nat := field (postW w 0) 39 32
def postTree (w : List DWord) : Nat := field (postW w 0) 19 12
def postFinal (w : List DWord) : Bool := (postW w 0).getLsbD 11
def postRte (w : List DWord) : Nat := field (postW w 0) 10 8
def postType (w : List DWord) : Nat := field (postW w 0) 7 6
def postOp (w : List DWord) : Nat := field (postW w 0) 5 4
def postKind (w : List DWord) : Nat := field (postW w 0) 3 0
def postSrc (w : List DWord) : DWord := postW w 1
def postLen (w : List DWord) : Nat := field (postW w 2) 31 0
def postRoff (w : List DWord) : DWord := postW w 3
def postSlot (w : List DWord) : Nat := field (postW w 4) 63 32
def postNext (w : List DWord) : DWord := postW w 5
def postThresh (w : List DWord) : BitVec 32 := (postW w 4).extractLsb' 0 32

/-- Whether a field of a work entry is outside its range (R238). -/
def postBad (w : List DWord) : Bool :=
  field (postW w 0) 63 50 != 0 || field (postW w 0) 31 20 != 0 || postType w == 3 || postOp w == 3
    || postKind w == 0 || decide (postKind w > 3) || field (postW w 2) 63 32 != 0
    || postLen w % 4096 != 0 || decide (postLen w < 4096) || decide (postLen w > 262144)
    || (postKind w == 3 && (!rteValid (postW w 5) || field (postW w 5) 62 56 != 0))
    || postW w 6 != 0 || postW w 7 != 0

/-- QPOST and QPOST.AT (R229, R238, R243): the checks, and the entry posted, which the path's set-aside accesses to its bytes come before
(R205, R217). A counter's tenant is checked where its valid bit is set, ARMCNT before DONECNT (notes/assumptions/62.md). -/
def startPost (s : State) (x : Ctx) (off : DWord) (time : Option DWord) : Except Stop (DWord × State) := do
  let inside := decide (off.toNat + 64 ≤ scratchBytes x.l)
  waitRuns s x [(off.toNat, 64)]
  let w := dwordsOf ((scratchRead (clOf s x.c x.w.launch) off.toNat 64).map (·.1)) 8
  raiseIf (inside && postBad w) cDescBad off
  raiseIf (inside && !treeOk s (partOf s x.pn) (postTree w) x.l.tenant) cDescBad (tv (postTree w))
  raiseIf (off.toNat % 16 != 0) cMisaligned off
  raiseIf (inside && (postSrc w).toNat % 16 != 0) cMisaligned (postSrc w)
  raiseIf (inside && (postRoff w).toNat % 16 != 0) cMisaligned (postRoff w)
  checkScratch x.l off.toNat 64
  let r := rteOf x.w (postRte w)
  raiseIf (!rteValid r) cRouteNone (tv (postRte w))
  if postArmv w then checkCounter s x.pn x.l.tenant (postArmcnt w)
  if postDonev w then checkCounter s x.pn x.l.tenant (postDonecnt w)
  let (i, h, s) ← takeFuture s x.c x.w.launch (if time.isSome then 15 else 14)
  let s ← ownLines s x.pn x.c x.l.tenant (pieces 128 (postSrc w).toNat (postLen w)) []
  let (k, s) := takeFree s
  let late := (time.map (fun t => decide ((Config.freeDWord k).toNat > t.toNat))).getD false
  let (_, s) := startOp s x.pn x.c x.w.launch (some i) (.post ⟨w, r, time, late, s.stamp, false, 0⟩)
  .ok (h, s)

/-- QPOST (R238). -/
def execQpost (d a : BitVec 6) (s : State) : Host.Outcome State Fault Refusal :=
  engineWord s [iS a] d (fun x => startPost s x (sReg x.w a) none)

/-- QPOST.AT (R238, R243). -/
def execQpostAt (d a b : BitVec 6) (s : State) : Host.Outcome State Fault Refusal :=
  engineWord s [iS a, iS b] d (fun x => startPost s x (sReg x.w a) (some (sReg x.w b)))

/-! ## Firing (R239, R243) -/

/-- The posted entries of a partition. -/
def postsOf (s : State) (pn : Nat) : List (Nat × Nat × Posted) :=
  s.cores.flatMap (fun e => if partOfCore s e.1 = pn then
    e.2.engines.filterMap (fun o => match o.2.kind with
      | .post p => some (e.1, o.1, p)
      | _ => none) else [])

/-- Whether an entry may fire (R239). -/
def mayFire (s : State) (pn : Nat) (q : Posted) (time : DWord) : Bool :=
  let p := partOf s pn
  let same := (postsOf s pn).filter (fun e => postTree e.2.2.w == postTree q.w)
  (!postArmv q.w || decide (((counterOf p (postArmcnt q.w)).1 - postThresh q.w).toNat < 2 ^ 31))
    && decide ((same.filter (fun e => e.2.2.fired)).length < treeWindow s p (postTree q.w))
    && same.all (fun e => e.2.2.fired || decide (e.2.2.order ≥ q.order))
    && (q.time.map (fun t => decide (t.toNat ≤ time.toNat))).getD true

/-- Marks a future late and skewed (R225, R243). -/
def markFuture (s : State) (c : Nat) (i : Option Nat) (late skew : Bool) : State :=
  match i with
  | none => s
  | some i => modCore s c (fun k => { k with futures := fput k.futures i { futOf k i with late := late, skew := skew } })

/-- The packets of a chunk (R340). -/
def chunkPackets (s : State) (pn c o : Nat) (q : Posted) (bs : List Byte) : State :=
  let p := partOf s pn
  let n := ceilDiv bs.length 8192
  (List.range n).foldl (fun s i =>
    sendPacket s pn { packetTo p .data (if rteRank q.route = 0xFFFF then field (reg p .netRank) 15 0 else rteRank q.route)
        (BitVec.ofNat 32 (rteQp q.route)) with
      first := i == 0, last := i + 1 == n, final := postFinal q.w
      roff := postRoff q.w + BitVec.ofNat 64 (8192 * i), tree := postTree q.w, kind := postKind q.w
      op := postOp q.w, etype := postType q.w, next := postNext q.w, payload := (bs.drop (8192 * i)).take 8192 } (some (c, o))) s

/-- Fires an entry: its source is read once and its chunk sent; a source that fails ends it (R217, R229, R239, R369). -/
def firePost (s : State) (pn c o : Nat) (e : EngineOp) (q : Posted) (time : DWord) : State :=
  let p := partOf s pn
  let src := (postSrc q.w).toNat
  let n := postLen q.w
  let dst := if rteRank q.route = 0xFFFF then field (reg p .netRank) 15 0 else rteRank q.route
  if (fget p.trees (postTree q.w) ⟨false, false, [], [], [], none⟩).aborted then endOp s c o .aborted cAborted 0
  else if peerFenced s p dst then endOp s c o .failed cAborted 0
  else
    let s := prepRange s pn (some (c, (launchOf s e.launch).id)) e.tenant .read src n
    match runFault s pn e.tenant src n 0 .read with
    | some f => endOp s c o .failed f.2.1 0
    | none =>
      let lines := pieces 128 src n
      let s := opTouch s pn c e lines []
      if lines.any (fun l => opLineHeld s pn c e l false) then s
      else
        let bs := ((lines.flatMap (fun l => opLine s pn e l)).drop (src % 128)).take n
        let s := dropAnswers s pn (askOp e.order)
        if bs.any (·.2) then endOp s c o .failed cRelUe 0
        else
          let slot := postSlot q.w
          let late := q.lateAtIssue || (q.time.map (fun t => decide (time.toNat > t.toNat + slot))).getD false
          let skew := q.time.isSome && decide (2 * (fget s.ptpOffset (octOf c) 0).toInt.natAbs > slot)
          let s := markFuture s c e.future late skew
          let s := if skew then modPart s pn (fun p => { p with skewCount := p.skewCount + 1 }) else s
          let s := modOp s c o (fun e => { e with
            passed := true, kind := .post { q with fired := true, unacked := ceilDiv n 8192 } })
          chunkPackets s pn c o q (bs.map (·.1))

/-- POSTED_ENTRY_FIRE (R239, R243) of an entry of a tree: `time` is the local PTP time; the port's offset is that of its octant's
clock (R348). -/
def execPostedEntryFire (core op : Nat) (time : DWord) (tree : Nat) (s : State) : Host.Outcome State Fault Refusal :=
  match fget? (coreOf s core).engines op with
  | none => .next s
  | some e => match e.kind with
    | .post q =>
      if q.fired || postTree q.w != tree || !mayFire s (partOfCore s core) q time then .next s
      else .next (firePost s (partOfCore s core) core op e q time)
    | _ => .next s

/-! ## Tree aborts (R244) -/

/-- What a partition knows of the abort of a tree. -/
def treeOf (p : Partition) (t : Nat) : TreeAbort := fget p.trees t ⟨false, false, [], [], [], none⟩

/-- Changes it. -/
def modTree (s : State) (pn t : Nat) (f : TreeAbort → TreeAbort) : State :=
  modPart s pn (fun p => { p with trees := fput p.trees t (f (treeOf p t)) })

/-- The partition's own rank (R340). -/
def ownRank (p : Partition) : Nat := field (reg p .netRank) 15 0

/-- The abort at this rank (R244): entries that have not fired end, and FINAL chunks that have not committed are
discarded. -/
def abortHere (s : State) (pn t : Nat) : State :=
  let s := (postsOf s pn).foldl (fun s e =>
    if postTree e.2.2.w = t ∧ e.2.2.fired = false then endOp s e.1 e.2.1 .aborted cAborted 0 else s) s
  let s := modPart s pn (fun p => { p with inn := p.inn.map (fun e =>
    (e.1, { e.2 with held := e.2.held.filter (fun k => k.pkt.tree != t) })) })
  modTree s pn t (fun a => { a with aborted := true })

/-- Writes the bitmap of an abort to an issuer's scratchpad, which completes its CABORT (R244). -/
def writeBitmap (s : State) (c o : Nat) (bits : List Bool) : State :=
  match fget? (coreOf s c).engines o with
  | none => s
  | some e => match e.kind with
    | .cabort _ at_ =>
      let n := ceilDiv bits.length 8
      let byte (i : Nat) : Byte :=
        BitVec.ofNat 8 ((List.range 8).map (fun j => if bits.getD (8 * i + j) false then 2 ^ j else 0)).sum
      let s := modCl s c e.launch (fun h => setFull
        (scratchWrite h ((List.range n).map (fun i => (at_ + i, some (byte i))))) (pieces 16 at_ n) true)
      endOp s c o .done 0 0
    | _ => s

/-- The bytes of a bitmap as a packet carries it (notes/assumptions/15.md). -/
def bitmapBytes (bits : List Bool) : List Byte :=
  (List.range (16 * ceilDiv (ceilDiv bits.length 8) 16)).map (fun i =>
    BitVec.ofNat 8 ((List.range 8).map (fun j => if bits.getD (8 * i + j) false then 2 ^ j else 0)).sum)

/-- At the root, once every member has reported: the bitmap goes to every issuer (R244). -/
def rootBitmap (s : State) (pn t : Nat) : State :=
  let p := partOf s pn
  let ranks := treeRanks s p t
  let a := treeOf p t
  if ranks.head? ≠ some (ownRank p) ∨ ¬ ranks.all (fun r => a.reports.any (fun e => e.1 == r)) then s
  else
    let bits := ranks.map (fun r => ((a.reports.find? (fun e => e.1 == r)).map (·.2)).getD false)
    let s := modTree s pn t (fun a => { a with bitmap := some bits, issuers := [], remote := [] })
    let s := a.issuers.foldl (fun s e => writeBitmap s e.1 e.2 bits) s
    a.remote.foldl (fun s r => sendPacket s pn { packetTo p .state r 0 with
      tree := t, payload := bitmapBytes bits } none) s

/-- A member's report reaches the root's record. What is said of a member that has been fenced stands over its own report
(R345). -/
def reportState (s : State) (pn t rank : Nat) (complete fenced : Bool) : State :=
  rootBitmap (modTree s pn t (fun a =>
    let rest := if fenced then a.reports.filter (fun e => e.1 != rank) else a.reports
    { a with reports := if rest.any (fun e => e.1 == rank) then rest else rest ++ ([(rank, complete)] : List (Nat × Bool)) }))
    pn t

/-- Sends the root of a tree a report, about this rank or about a peer that this rank has fenced (R244, R345): byte 0 says whether
the rank is COMPLETE and whether the report is about the rank of bytes 2 and 3 (notes/assumptions/15.md). -/
def sendState (s : State) (pn t root : Nat) (complete : Bool) (about : Option Nat) : State :=
  let head := (if complete then 1 else 0) + (if about.isSome then 2 else 0)
  sendPacket s pn { packetTo (partOf s pn) .state root 0 with
    tree := t, payload := leBytes 16 (head + about.getD 0 * 2 ^ 16) } none

/-- Reads the list of a tree's ranks into the slices before it is used (R343). -/
def touchTree (s : State) (pn t : Nat) : State :=
  let p := partOf s pn
  let e := treeEntry s p t
  let tenant := field (e.getD 0 0) 7 0
  let va := (e.getD 1 0).toNat
  let n := 2 * treeSize s p t
  let s := prepRange s pn none tenant .read va n
  (pieces 128 va n).foldl (fun s l => match asidFor p tenant (128 * l) with
    | some a => llcNow s pn a l
    | none => s) s

/-- This rank's own report: to its record where it is the root, else to the root in a packet (R244). -/
def sendReport (s : State) (pn t : Nat) : State :=
  let p := partOf s pn
  let ranks := treeRanks s p t
  let mine := ownRank p
  let done := (treeOf p t).complete
  match ranks.head? with
  | none => s
  | some r =>
    if r = mine then reportState s pn t mine done false
    else if ranks.any (· == mine) then sendState s pn t r done none
    else s

/-- Starts an abort at this rank: it aborts here, tells every other member, and reports (R244). -/
def startAbort (s : State) (pn t : Nat) : State :=
  let s := abortHere (touchTree s pn t) pn t
  let p := partOf s pn
  let others := (treeRanks s p t).filter (fun r => r != ownRank p && !peerFenced s p r)
  let s := others.foldl (fun s r => sendPacket s pn { packetTo p .abort r 0 with
    tree := t, payload := List.replicate 16 0#8 } none) s
  sendReport s pn t

/-- CABORT (R244). -/
def execCabort (d a b : BitVec 6) (s : State) : Host.Outcome State Fault Refusal :=
  engineWord s [iS a, iS b] d (fun x => do
    let t := field (sReg x.w a) 7 0
    let at_ := (sReg x.w b).toNat
    let p := partOf s x.pn
    raiseIf (!treeOk s p t x.l.tenant) cDescBad (tv t)
    raiseIf (at_ % 16 != 0) cMisaligned (sReg x.w b)
    checkScratch x.l at_ (ceilDiv (treeSize s p t) 8)
    let (i, h, s) ← takeFuture s x.c x.w.launch 19
    let (o, s) := startOp s x.pn x.c x.w.launch (some i) (.cabort t at_)
    let s := modOp s x.c o (fun e => { e with passed := true })
    match (treeOf (partOf s x.pn) t).bitmap with
    | some bits => .ok (h, writeBitmap s x.c o bits)
    | none =>
      let s := modTree s x.pn t (fun q => { q with issuers := q.issuers ++ ([(x.c, o)] : List (Nat × Nat)) })
      .ok (h, startAbort s x.pn t))

/-! ## LAUNCH (R246) -/

/-- LAUNCH (R246): the record goes to the partition's dispatcher; the future completes with the child. -/
def execLaunch (d a : BitVec 6) (s : State) : Host.Outcome State Fault Refusal :=
  engineWord s [iS a] d (fun x => do
    let va := sReg x.w a
    raiseIf (va.toNat % 128 != 0) cMisaligned va
    let (i, h, s) ← takeFuture s x.c x.w.launch 20
    let s ← ownLines s x.pn x.c x.l.tenant [va.toNat / 128] []
    let (o, s) := startOp s x.pn x.c x.w.launch (some i) (.launch none)
    let rec_ : PendingRecord := ⟨va.toNat, x.l.tenant, 0, .child x.c o, none⟩
    .ok (h, modPart s x.pn (fun p => { p with pending := p.pending ++ ([rec_] : List PendingRecord) })))

end Sys2Proof.Machine
end

