-- ==== Sys2Proof/Machine/Sched.lean ====
section
/-! DEFINITION. The arbitration of issue slots (R309, R310): ages, promotion, classes, and weighted deficit round robin,
which the dispatcher shares (R304). -/

namespace Sys2Proof.Machine

open Sys2Proof

/-- The tenants of a rising list, from the one after the last served on (R304, R310). -/
def rotation (ts : List Nat) (last : Nat) : List Nat :=
  ts.filter (fun t => decide (t > last)) ++ ts.filter (fun t => decide (t ≤ last))

/-- Weighted deficit round robin: each visit adds a tenant's quantum to its credit, and the first whose credit covers its
cost is served and pays. -/
def wdrr (order : List Nat) (quantum cost : Nat → Int) : Nat → List Nat → FMap Int → Option (Nat × FMap Int)
  | 0, _, _ => none
  | n + 1, [], cr => if order.isEmpty then none else wdrr order quantum cost n order cr
  | n + 1, t :: ts, cr =>
    let c := fget cr t 0 + quantum t
    if c ≥ cost t then some (t, fput cr t (c - cost t))
    else wdrr order quantum cost n ts (fput cr t c)

/-- The paths of an issue slot's warps: warp slot w belongs to issue slot w mod 4 (R309). -/
def slotPaths (k : Core) (islot : Nat) : List (Nat × Bool) :=
  (k.warps.filter (fun e => e.1 % 4 == islot)).flatMap (fun e => [(e.1, false), (e.1, true)])

/-- Gives every path of a core that is ready and has no age yet one stamp, since none is known to be the earlier, and takes
the age of those that are not ready (R309). A promoted path stays promoted (R310). -/
def refreshAges (s : State) (c : Nat) : State :=
  let age (e : Nat × Warp) (sec : Bool) : (Nat × Bool) × Bool × Nat :=
    ((e.1, sec), pathReady s c e.1 sec, (pathOf e.2 sec).readySince)
  let paths := (coreOf s c).warps.flatMap (fun e => [age e false, age e true])
  let stale := paths.filter (fun e => e.2.1 != decide (e.2.2 ≠ 0))
  let t := if stale.any (fun e => e.2.1) then takeStamp s else (s.stamp, s)
  stale.foldl (fun s e => modWarp s c e.1.1 (fun w =>
    modPath w e.1.2 (fun p => { p with readySince := if e.2.1 then t.1 + 1 else 0 }))) t.2

/-- What a step leaves once the ages of the paths of every core are brought up to date, so that a path's age counts from the
step that made it ready (R309), and its moment has passed (R223). -/
def tick : Host.Outcome State Fault Refusal → Host.Outcome State Fault Refusal
  | .next t => .next { t.cores.foldl (fun s e => refreshAges s e.1) t with moment := t.moment + 1 }
  | o => o

/-- Whether a path is the younger of its warp's two, both in a list (R310): the one that ended a span more recently; where
neither did, the secondary. -/
def youngerOfTwo (s : State) (c : Nat) (l : List (Nat × Bool)) (e : Nat × Bool) : Bool :=
  match warpOf? s c e.1 with
  | none => false
  | some w =>
    let mine := (pathOf w e.2).endedAt
    let other := (pathOf w (!e.2)).endedAt
    l.contains (e.1, !e.2) && (decide (other < mine) || (other == mine && e.2))

/-- The oldest of a list of paths: of a warp's two only the older, then the one that has been ready longest; ties go to the
first, the list running by warp slot and then primary first (R310). -/
def oldest (s : State) (c : Nat) (l : List (Nat × Bool)) : Option (Nat × Bool) :=
  let since (e : Nat × Bool) : Nat := ((warpOf? s c e.1).map (fun w => (pathOf w e.2).readySince)).getD 0
  (l.filter (fun e => !youngerOfTwo s c l e)).foldl (fun best e => match best with
    | none => some e
    | some b => if since e < since b then some e else some b) none

/-- The class and tenant of the warp in a slot; a responder has its launch's (R310). -/
def slotClass (s : State) (c w : Nat) : Nat :=
  ((warpOf? s c w).map (fun v => classOf (launchOf s v.launch))).getD 0

def slotTenant (s : State) (c w : Nat) : Nat :=
  ((warpOf? s c w).map (fun v => (launchOf s v.launch).tenant)).getD 0

/-- A tenant's WEIGHT (R311). -/
def weightOf (p : Partition) (t : Nat) : Nat := field (reg p .schTctl t) 23 16

/-- The words of the span that a path would start, its header counted (R309). -/
def spanCost (s : State) (c w : Nat) (sec : Bool) : Nat :=
  match warpOf? s c w with
  | none => 1
  | some v => spanLen (nextSpan s c (partOfCore s c) (launchOf s v.launch).tenant v sec).hword + 1

/-- The path whose span a free issue slot starts (R310), and the credits left. -/
def choosePath (s : State) (c islot : Nat) : Option ((Nat × Bool) × FMap Int × FMap Nat) :=
  let k := coreOf s c
  let ready := (slotPaths k islot).filter (fun e => pathReady s c e.1 e.2)
  let isProm (e : Nat × Bool) : Bool := ((warpOf? s c e.1).map (fun w => (pathOf w e.2).promoted)).getD false
  match oldest s c (ready.filter isProm) with
  | some e => some (e, k.credits, k.served)
  | none =>
    match (List.range 4).find? (fun cl => ready.any (fun e => slotClass s c e.1 == cl)) with
    | none => none
    | some cl =>
      let inClass := ready.filter (fun e => slotClass s c e.1 == cl)
      let ts := inClass.foldl (fun l e => setAdd l (slotTenant s c e.1)) []
      let base := 1024 * islot + 256 * cl
      let first (t : Nat) : Option (Nat × Bool) := oldest s c (inClass.filter (fun e => slotTenant s c e.1 == t))
      let order := rotation ts (fget k.served (4 * islot + cl) 0)
      let mine := (k.credits.filter (fun e => decide (base ≤ e.1) && decide (e.1 < base + 256) && setMem ts (e.1 - base))).map
        (fun e => (e.1 - base, e.2))
      let rest := k.credits.filter (fun e => !(decide (base ≤ e.1) && decide (e.1 < base + 256)))
      let quantum (t : Nat) : Int := max 1 (weightOf (partOf s (partOfCore s c)) t)
      let cost (t : Nat) : Int := ((first t).map (fun e => spanCost s c e.1 e.2)).getD 0
      match wdrr order quantum cost 8192 order mine with
      | none => none
      | some (t, cr) => (first t).map (fun e =>
          (e, cr.foldl (fun m v => fput m (base + v.1) v.2) rest, fput k.served (4 * islot + cl) t))

/-- SPAN_ISSUE (R309, R310): a free issue slot starts the span of the path it chooses. `refetch` says that the block is
fetched anew, as the core may (R57). -/
def execSpanIssue (core slot : Nat) (refetch : Bool) (s : State) : Host.Outcome State Fault Refusal :=
  let s := if refetch then modCore s core (fun k => { k with icache := [] }) else s
  let islot := slot % 4
  if slotBusy s core islot || (coreOf s core).fenced then .next s
  else
    let s := refreshAges s core
    match choosePath s core islot with
    | none => .next s
    | some (e, cr, sv) =>
      .next (startSpan (modCore s core (fun k => { k with credits := cr, served := sv })) core e.1 e.2)

/-- PATH_PROMOTION (R310): a path that has been ready for 256 clocks without starting a span is promoted. When those clocks
have passed is the agenda's to say. -/
def execPathPromotion (core warp : Nat) (sec : Bool) (s : State) : Host.Outcome State Fault Refusal :=
  if pathReady s core warp sec then
    .next (modWarp (refreshAges s core) core warp (fun w => modPath w sec (fun p => { p with promoted := true })))
  else .next s

end Sys2Proof.Machine
end

