-- ==== Sys2Proof/Machine/Control.lean ====
section
/-! DEFINITION. The control instructions: transfers, divergence, joins and the stack (R19, R111 to R122). -/

namespace Sys2Proof.Machine

open Sys2Proof

/-! ## Transfers -/

/-- The target of an offset (R38). -/
def offTarget (x : Ctx) (off : BitVec 14) : PC := wordAddr x.sp x.sp.idx + off.signExtend 57 * 4

/-- The landing check of a transfer to a code address (R56), which waits until the target's block has come (R294). -/
def checkLanding (s : State) (x : Ctx) (pc : PC) : Except Stop Bool :=
  let who := askPath x.c x.slot x.sp.sec
  match landing s (partOf s x.pn) x.c who x.l.tenant pc with
  | .good => .ok false
  | .unfetched => .ok true
  | .away => .error (.park (some (prepBlock s x.pn x.c x.l.id who x.l.tenant pc.toNat)))
  | .bad => raise cBadTarget (pc.setWidth 64)

/-- A transfer of the path (R56, R111). -/
def transferTo (s : State) (x : Ctx) (pc : PC) : Except Stop After := do
  let u ← checkLanding s x pc
  .ok (.jump pc u)

/-- A 64-bit target as a code address: bits [63:57] must be zero (R118, R119). -/
def targetOf (v : DWord) : Except Stop PC := do
  raiseIf (decide (v.toNat ≥ 2 ^ 57)) cBadTarget v
  .ok (v.setWidth 57)

/-- The continuation as a scalar value (R118). -/
def contVal (x : Ctx) : DWord := (continuation x.sp).setWidth 64

/-- BRA (R112). -/
def execBra (off : BitVec 14) (s : State) : Host.Outcome State Fault Refusal :=
  runWord s (fun x => do
    needLast x
    let a ← transferTo s x (offTarget x off)
    .ok (s, a))

/-- BRU (R112). -/
def execBru (neg : BitVec 1) (k : BitVec 6) (off : BitVec 14) (s : State) : Host.Outcome State Fault Refusal :=
  runWord s (fun x => do
    needLast x
    checkPending x.w [iS k]
    if (sReg x.w k ≠ 0) ↔ neg = 0#1 then
      let a ← transferTo s x (offTarget x off)
      .ok (s, a)
    else .ok (s, .seq))

/-- NOP (R120). -/
def execNop (s : State) : Host.Outcome State Fault Refusal := runWord s (fun _ => .ok (s, .seq))

/-- YIELD (R120): the path goes behind every ready path, and its promotion count starts again. -/
def execYield (s : State) : Host.Outcome State Fault Refusal :=
  runWord s (fun x => do
    needLast x
    let (k, t) := takeStamp (refreshAges s x.c)
    .ok (modW t x (fun w => modPath w x.sp.sec (fun p => { p with readySince := k + 1, promoted := false })), .seq))

/-- CALL (R118). -/
def execCall (d : BitVec 6) (off : BitVec 14) (s : State) : Host.Outcome State Fault Refusal :=
  runWord s (fun x => do
    needLast x
    checkPending x.w [iS d]
    let a ← transferTo s x (offTarget x off)
    .ok (modW s x (fun w => setS w d (contVal x)), a))

/-- RET (R118). -/
def execRet (a : BitVec 6) (s : State) : Host.Outcome State Fault Refusal :=
  runWord s (fun x => do
    needLast x
    checkPending x.w [iS a]
    let pc ← targetOf (sReg x.w a)
    let t ← transferTo s x pc
    .ok (s, t))

/-- The target that a lane address pair holds (R119). -/
def laneTarget (i : LaneIn) (l : Nat) : DWord := i.src 1 l ++ i.src 0 l

/-- JMPR and CALLR (R119): the checks in order, then the transfer, with the continuation to the link register if there is
one. -/
def indirect (s : State) (a : BitVec 7) (d : Option (BitVec 6)) : Host.Outcome State Fault Refusal :=
  runWord s (fun x => do
    needLast x
    let names := [winName x.w a, winName x.w (a + 1)]
    checkPending x.w ((if ctxActive x = 0 then [] else iNames names) ++ (d.toList.map iS))
    let (s, i) ← laneCheck s x [] names [] [] []
    match lanes.find? (fun l => i.nar.getLsbD l) with
    | none => .ok (s, .seq)
    | some low => do
      let diff := mkMask (fun l => i.nar.getLsbD l && laneTarget i l != laneTarget i low)
      raiseIf (diff != 0) cDiverge (diff.setWidth 64)
      let pc ← targetOf (laneTarget i low)
      let t ← transferTo s x pc
      let s := modW s x (fun w => match d with
        | some k => setS w k (contVal x)
        | none => w)
      .ok (killLanes s x i.kills t))

/-- JMPR (R119). -/
def execJmpr (a : BitVec 7) (s : State) : Host.Outcome State Fault Refusal := indirect s a none

/-- CALLR (R119). -/
def execCallr (d : BitVec 6) (a : BitVec 7) (s : State) : Host.Outcome State Fault Refusal := indirect s a (some d)

/-! ## The divergence stack (R19, R113) -/

/-- The fields of a stack entry (R113). -/
def entKind (e : BitVec 128) : Nat := (e.extractLsb' 62 2).toNat
def entPc (e : BitVec 128) : PC := e.extractLsb' 0 57
def entMask (e : BitVec 128) : Mask := e.extractLsb' 64 32

/-- A stack entry (R113). -/
def mkEntry (kind : Nat) (pc : PC) (m : Mask) : BitVec 128 :=
  (0#32 ++ m) ++ (BitVec.ofNat 2 kind ++ 0#5 ++ pc)

/-- Whether an entry is corrupt (R113). -/
def entBad (e : BitVec 128) : Bool :=
  entKind e == 0 || entKind e == 3 || e.extractLsb' 57 5 != 0 || e.extractLsb' 96 32 != 0

/-- The address of entry `i` of a path's half (R19). -/
def entryAddr (x : Ctx) (w : Warp) (sec : Bool) (i : Nat) : Nat :=
  (w.dstk.toNat + (if sec then stackStride x.l.record / 2 else 0) + 16 * i) % 2 ^ 57

/-- An entry as memory holds it, behind the core's own stack writes that wait; a free value where the access fails its checks. The
word waits while the line has still to come (R294). Marks of the entry's bytes are not looked at (notes/assumptions/12.md). -/
def readEntryMem (s : State) (x : Ctx) (va : Nat) : Except Stop (BitVec 128 × State) :=
  let who := askPath x.c x.slot x.sp.sec
  let s := prepRange s x.pn (some (x.c, x.l.id)) x.l.tenant .read va 16
  let asid := (asidFor (partOf s x.pn) x.l.tenant va).getD 0
  if (rangeCause s (partOf s x.pn) x.l.tenant va 16 .read).isNone then
    let s := askLine s x.pn x.c who asid (va / 128)
    let p := partOf s x.pn
    if lineUnread s p asid (va / 128) || lineUnanswered s p x.c who asid (va / 128) then .error (.park (some s))
    else
      let s := llcNow s x.pn asid (va / 128)
      let bs := (List.range 16).map (fun i => (queuedByte (seenStores (coreOf s x.c) none) asid (va + i)).getD
        (homeRead s (partOf s x.pn) asid (va + i)).1)
      .ok (BitVec.ofNat 128 (leNat bs), dropAnswers s x.pn who)
  else
    let (k, s) := takeFree s
    .ok (Config.freeEntry k, s)

/-- Writes an entry to memory; nothing where the access fails its checks (notes/assumptions/12.md). It performs at once where it can,
else it waits among the core's stores: at a peer (R318), for its block (R294), for the write-back scanner (R328), or behind an earlier
store to the line (R205). The core's own copy of the line goes (R291). -/
def writeEntryMem (s : State) (x : Ctx) (va : Nat) (e : BitVec 128) : State :=
  let s := prepRange s x.pn (some (x.c, x.l.id)) x.l.tenant .write va 16
  let asid := (asidFor (partOf s x.pn) x.l.tenant va).getD 0
  let line := va / 128
  let bs := ((List.range 16).zip (leBytes 16 e.toNat)).map (fun b => (va % 128 + b.1, some b.2))
  if (rangeCause s (partOf s x.pn) x.l.tenant va 16 .write).isNone then
    let s := l1Drop s x.c asid line
    let p := partOf s x.pn
    if (peerOf s p asid va).isSome || lineUnread s p asid line || lineHeldByScan s p asid line || storeWaits s x.c asid line then
      modCore s x.c (fun k => { k with storeQ := k.storeQ ++
        ([⟨asid, line, bs, x.l.tenant, x.slot, x.sp.sec, x.w.launch, false⟩] : List StoreReq) })
    else homeWrite (llcNow s x.pn asid line) x.pn none asid line bs
  else s

/-- Pushes an entry (R19, R113): the core holds the top four on chip, and the fifth goes to memory. -/
def pushEntry (s : State) (x : Ctx) (w : Warp) (sec : Bool) (e : BitVec 128) : Except Stop (State × Warp) := do
  let p := pathOf w sec
  raiseIf (decide (p.depth ≥ recDstkn x.l.record)) cStackOverflow (tv p.depth)
  let w' := setPath w sec { p with depth := p.depth + 1, top := (e :: p.top).take 4 }
  match (e :: p.top)[4]? with
  | some low => .ok (writeEntryMem s x (entryAddr x w sec (p.depth - 4)) low, w')
  | none => .ok (s, w')

/-- Pops the top entry (R113); the next entry below the on-chip ones comes onto the chip. -/
def popEntry (s : State) (x : Ctx) (w : Warp) (sec : Bool) : Except Stop (State × Warp) := do
  let p := pathOf w sec
  let q := { p with depth := p.depth - 1, top := p.top.drop 1 }
  if q.top.length < 4 ∧ q.top.length < q.depth then
    let (e, s) ← readEntryMem s x (entryAddr x w sec (q.depth - q.top.length - 1))
    .ok (s, setPath w sec { q with top := q.top ++ ([e] : List (BitVec 128)) })
  else .ok (s, setPath w sec q)

/-- The top entry of a path's half, if it has one. -/
def topEntry (w : Warp) (sec : Bool) : Option (BitVec 128) := (pathOf w sec).top.head?

/-- CTL_DSTK_CORRUPT for the top entry of a half (R113). -/
def checkEntry (x : Ctx) (w : Warp) (sec : Bool) (e : BitVec 128) : Except Stop Unit :=
  raiseIf (entBad e) cStackCorrupt (tv (entryAddr x w sec ((pathOf w sec).depth - 1)))

/-! ## Divergence and reconvergence (R114 to R117) -/

/-- Sends a path to a header with an EXEC. -/
def sendPath (w : Warp) (sec : Bool) (pc : PC) (exec : Mask) (unchecked : Bool) : Warp :=
  modPath w sec (fun p => { p with
    pc := pc, exec := exec, unchecked := unchecked, eret := false, resume := 0, mmaDone := false, wait := .none, state := .ready
    atSafePoint := none })

/-- The continuation of the join span at an address (R115), after its landing check, which fails past a faulty header (R41, R56);
the span itself where its block cannot be fetched, so that the fetch raises its fault there (notes/assumptions/19.md). -/
def joinContinuation (s : State) (x : Ctx) (h : PC) : Except Stop (PC × Bool) :=
  let p := partOf s x.pn
  let who := askPath x.c x.slot x.sp.sec
  if (fetchCause s p x.c x.l.tenant h.toNat).isSome then .ok (h, true)
  else if blockAway s p x.c who x.l.tenant h.toNat then
    .error (.park (some (prepBlock s x.pn x.c x.l.id who x.l.tenant h.toNat)))
  else match asidFor p x.l.tenant h.toNat with
    | none => .ok (h, true)
    | some asid => do
      let hw := (codeBlock s p x.c asid h.toNat).getD (h.toNat % 128 / 4) 0
      let k := h + BitVec.ofNat 57 (4 * (spanLen hw + 1))
      let u ← checkLanding s x k
      .ok (k, u)

/-- Merges the paths where both are JOINING (R17, R116): the counts of the merged path count each outstanding operation
once. None where no live lane is left, and the warp retires. -/
def tryMerge (s : State) (x : Ctx) (w : Warp) : Except Stop (Option Warp) :=
  if w.prim.state = .joining ∧ w.seco.state = .joining then
    let live := w.split.mask &&& ~~~w.exited
    if live &&& ~~~w.dead = 0 then .ok none
    else do
      let k ← joinContinuation s x w.split.addr
      .ok (some (sendPath { w with
        seco := { w.seco with state := .vacant, exec := 0, atSafePoint := none }
        split := ⟨false, 0, 0⟩
        ops := w.ops.map (fun o => { o with sec := false, onP := o.onP || o.onS, onS := false })
        pend := w.pend.map (fun q => { q with sec := false, onP := q.onP || q.onS, onS := false }) }
        false k.1 live k.2))
  else .ok (some w)

/-- A path becomes JOINING (R115 case 3, R117 line 12). -/
def joinPath (s : State) (x : Ctx) (w : Warp) (sec : Bool) (exec : Mask) : Except Stop (Option Warp) :=
  tryMerge s x (modPath w sec (fun p => { p with state := .joining, exec := exec }))

/-- The landing check of the place that a popped entry sends its path to (R56, R122), made before the check of the entry itself;
an entry of no kind, or one whose lanes are all gone, sends it nowhere. -/
def popLanding (s : State) (x : Ctx) (w : Warp) (e : BitVec 128) : Except Stop Bool :=
  if entKind e = 0 ∨ entKind e = 3 ∨ entMask e &&& ~~~w.exited &&& ~~~w.dead = 0 then .ok true
  else checkLanding s x (entPc e)

/-- Where a popped entry sends an unwinding path, after the landing checks of R56: to an arm's header, or past a join span
(R117). -/
def unwindTarget (s : State) (x : Ctx) (w : Warp) (e : BitVec 128) : Except Stop (PC × Bool) := do
  let u ← popLanding s x w e
  if entKind e ≠ 1 ∨ u = true then .ok (entPc e, u) else joinContinuation s x (entPc e)

/-- Unwind of R117; none where the warp retires. The number bounds the loop: a half has no more entries. -/
def unwind (s : State) (x : Ctx) (sec : Bool) : Nat → Warp → Except Stop (State × Option Warp)
  | 0, w => .ok (s, some w)
  | n + 1, w =>
    match topEntry w sec with
    | some e => do
      let m := entMask e &&& ~~~w.exited
      let k ← unwindTarget s x w e
      checkEntry x w sec e
      let (s, w) ← popEntry s x w sec
      if m &&& ~~~w.dead = 0 then unwind s x sec n w else .ok (s, some (sendPath w sec k.1 m k.2))
    | none =>
      if w.split.valid then do
        let r ← joinPath s x w sec 0
        .ok (s, r)
      else .ok (s, none)

/-- Puts a warp back after a change of its paths, or retires it (R117 line 15). -/
def settle (s : State) (x : Ctx) : Option Warp → State × After
  | some w => (setWarp s x.c x.slot w, .placed)
  | none => (retireWarp s x.c x.slot false, .placed)

/-- Unwinds a path and puts the warp back. -/
def unwindNow (s : State) (x : Ctx) (w : Warp) (sec : Bool) : Except Stop (State × After) := do
  let (s, r) ← unwind s x sec ((pathOf w sec).depth + 2) w
  .ok (settle s x r)

/-- JPOINT (R113). -/
def execJpoint (off : BitVec 14) (s : State) : Host.Outcome State Fault Refusal :=
  runWord s (fun x => do
    let _ ← checkLanding s x (offTarget x off)
    let (s, w) ← pushEntry s x x.w x.sp.sec (mkEntry 1 (offTarget x off) (curPath x).exec)
    .ok (setWarp s x.c x.slot w, .seq))

/-- The secondary path of a split (R114): READY at the target with a copy of the flag counts and of the marks that wait on
them (R17, R46); the boundary at which it begins is a safe point if the BRP carried S (R50). -/
def splitPaths (w : Warp) (join : BitVec 128) (t : Mask) (pc : PC) (unchecked : Bool) (live : Option Word) : Warp :=
  { w with
    split := ⟨true, entPc join, entMask join⟩
    prim := { w.prim with exec := w.prim.exec &&& ~~~t }
    seco := { pathReset pc t .ready with unchecked := unchecked, time := w.prim.time, atSafePoint := live }
    ops := w.ops.map (fun o => { o with onS := o.onP })
    pend := w.pend.map (fun q => { q with onS := q.onP }) }

/-- BRP (R114). -/
def execBrp (neg : BitVec 1) (p : BitVec 4) (off : BitVec 14) (s : State) : Host.Outcome State Fault Refusal :=
  runWord s (fun x => do
    needLast x
    let act := ctxActive x
    checkPending x.w (if act = 0 then [] else [.pred p.toNat])
    let t := act &&& (pReg x.w p ^^^ (if neg = 1#1 then 0xFFFFFFFF#32 else 0#32))
    if t = 0 then .ok (s, .seq)
    else do
      let u ← checkLanding s x (offTarget x off)
      if t = act then .ok (s, .jump (offTarget x off) u)
      else if (pathOf x.w (!x.sp.sec)).state = .vacant then
        match topEntry x.w x.sp.sec with
        | some e =>
          if entKind e = 1 then do
            checkEntry x x.w x.sp.sec e
            let (s, w) ← popEntry s x x.w x.sp.sec
            .ok (setWarp s x.c x.slot (splitPaths w e t (offTarget x off) u (liveWord x.sp)), .seq)
          else raise cNoJoin 0
        | none => raise cNoJoin 0
      else do
        let (s, w) ← pushEntry s x x.w x.sp.sec (mkEntry 2 (offTarget x off) t)
        .ok (setWarp s x.c x.slot (modPath w x.sp.sec (fun q => { q with exec := q.exec &&& ~~~t })), .seq))

/-- JOIN (R115, R116). -/
def execJoin (s : State) : Host.Outcome State Fault Refusal :=
  runWord s (fun x => do
    needLast x
    let sec := x.sp.sec
    let mismatch := raise cJoinMismatch (x.sp.header.setWidth 64)
    match topEntry x.w sec with
    | some e =>
      if entKind e = 2 ∨ (entKind e = 1 ∧ entPc e = x.sp.header) then do
        let u ← popLanding s x x.w e
        checkEntry x x.w sec e
        let (s, w) ← popEntry s x x.w sec
        let live := entMask e &&& ~~~w.exited
        if live &&& ~~~w.dead = 0 then unwindNow s x w sec
        else if entKind e = 2 then .ok (settle s x (some (sendPath w sec (entPc e) live u)))
        else .ok (settle s x (some (sendPath w sec (continuation x.sp) live false)))
      else mismatch
    | none =>
      if x.w.split.valid ∧ x.w.split.addr = x.sp.header then do
        let r ← joinPath s x x.w sec (curPath x).exec
        .ok (settle s x r)
      else mismatch)

/-- EXIT (R117). -/
def execExit (s : State) : Host.Outcome State Fault Refusal :=
  runWord s (fun x => do
    needLast x
    unwindNow s x { x.w with exited := x.w.exited ||| (curPath x).exec } x.sp.sec)

end Sys2Proof.Machine
end

