-- ==== Sys2Proof/Machine/CrossLane.lean ====
section
/-! DEFINITION. The cross-lane instructions (R139 to R147). -/

namespace Sys2Proof.Machine

open Sys2Proof

/-- SHFL and BCAST (R139, R141, R142): each lane reads the vA word of the lane that `from_` gives, its own where that is no
source lane, and p14 says which. `idx` is the name whose own word each lane consumes first. -/
def transfer (x : Ctx) (s : State) (a : Nat) (idx : Option Nat) (dst : Nat) (from_ : LaneIn → Nat → Nat) :
    Except Stop (State × After) := do
  let (s, i) ← laneCheck s x [] (a :: idx.toList) [dst] [] [.pred 14]
  let bad (k l : Nat) : Bool := (i.srcs.getD k freeRow).poison.getLsbD l
  let ok (l : Nat) : Bool := i.nar.getLsbD (from_ i l)
  let src (l : Nat) : Nat := if ok l then from_ i l else l
  let kills := mkMask (fun l => i.nar.getLsbD l && ((idx.isSome && bad 1 l) || bad 0 (src l)))
  let i' := { i with kills := kills }
  let s ← writeNames s x i' [(dst, mkRow (fun l => i.src 0 (src l)))]
  let v := mkMask ok &&& i.nar &&& ~~~kills
  .ok (killLanes (putPLanes s x 14 (i.nar ||| i.zero) v) x kills .seq)

/-- SHFL of width `w` (R141). -/
def shuffle (s : State) (w : Nat) (d a b : BitVec 7) : Host.Outcome State Fault Refusal :=
  runWord s (fun x => transfer x s (winName x.w a) (some (winName x.w b)) (winName x.w d)
    (fun i l => l - l % w + (i.src 1 l).toNat % w))

/-- SHFL.2 (R141). -/
def execShfl2 (d a b : BitVec 7) (s : State) : Host.Outcome State Fault Refusal := shuffle s 2 d a b

/-- SHFL.4 (R141). -/
def execShfl4 (d a b : BitVec 7) (s : State) : Host.Outcome State Fault Refusal := shuffle s 4 d a b

/-- SHFL.8 (R141). -/
def execShfl8 (d a b : BitVec 7) (s : State) : Host.Outcome State Fault Refusal := shuffle s 8 d a b

/-- SHFL.16 (R141). -/
def execShfl16 (d a b : BitVec 7) (s : State) : Host.Outcome State Fault Refusal := shuffle s 16 d a b

/-- SHFL.32 (R141). -/
def execShfl32 (d a b : BitVec 7) (s : State) : Host.Outcome State Fault Refusal := shuffle s 32 d a b

/-- BCAST (R142): vA is checked before sB, in the order of the fields (R46). -/
def execBcast (d a : BitVec 7) (b : BitVec 6) (s : State) : Host.Outcome State Fault Refusal :=
  runWord s (fun x => do
    checkPending x.w ((if ctxActive x = 0 then [] else guardItems x)
      ++ (if narrowed x = 0 then [] else [.name (winName x.w a)]) ++ [iS b])
    transfer x s (winName x.w a) none (winName x.w d) (fun _ _ => (sReg x.w b).toNat % 32))

/-- The items that a cross-lane word with a scalar destination checks (R46, R121): lane by lane ones only where a lane is
active, then its scalar. -/
def crossItems (x : Ctx) (read : List PendItem) (d : BitVec 6) : List PendItem :=
  (if ctxActive x = 0 then [] else guardItems x) ++ (if narrowed x = 0 then [] else read) ++ [iS d]

/-- A vote (R143): from the source lanes and those of them in which the predicate, inverted with NEG, is 1. -/
def vote (s : State) (d : BitVec 6) (neg : BitVec 1) (p : BitVec 4) (f : Mask → Mask → DWord) :
    Host.Outcome State Fault Refusal :=
  runWord s (fun x => do
    checkPending x.w (crossItems x [.pred p.toNat] d)
    let v := narrowed x &&& (pReg x.w p ^^^ (if neg = 1#1 then 0xFFFFFFFF#32 else 0#32))
    .ok (modW s x (fun w => setS w d (f (narrowed x) v)), .seq))

/-- VOTE.ANY (R143). -/
def execVoteAny (d : BitVec 6) (neg : BitVec 1) (p : BitVec 4) (s : State) : Host.Outcome State Fault Refusal :=
  vote s d neg p (fun _ v => if v ≠ 0 then 1 else 0)

/-- VOTE.ALL (R143): 0 with no source lane. -/
def execVoteAll (d : BitVec 6) (neg : BitVec 1) (p : BitVec 4) (s : State) : Host.Outcome State Fault Refusal :=
  vote s d neg p (fun n v => if n ≠ 0 ∧ v = n then 1 else 0)

/-- VOTE.BAL (R143). -/
def execVoteBal (d : BitVec 6) (neg : BitVec 1) (p : BitVec 4) (s : State) : Host.Outcome State Fault Refusal :=
  vote s d neg p (fun _ v => v.setWidth 64)

/-- MATCH.ANY (R144): a killed lane's word matches no other lane (R371). -/
def execMatchAny (d a : BitVec 7) (s : State) : Host.Outcome State Fault Refusal :=
  runWord s (fun x => laneWord x s [] [winName x.w a] [] (winName x.w d) (fun i l =>
    mkMask (fun j => (i.nar &&& ~~~i.kills).getLsbD j && i.src 0 j == i.src 0 l)))

/-- MATCH.ALL (R144): a killed lane's word matches no other lane (R371). -/
def execMatchAll (d a : BitVec 7) (s : State) : Host.Outcome State Fault Refusal :=
  runWord s (fun x => laneWord x s [] [winName x.w a] [] (winName x.w d) (fun i l =>
    if lanes.all (fun j => !i.nar.getLsbD j || j == l || (!i.kills.getLsbD j && i.src 0 j == i.src 0 l))
    then i.nar else 0))

/-- The combine of REDUX and SCAN, its identity, and whether sD is sign-extended, by op (R145). -/
def reduxOp (op : Nat) (a b : Word) : Word :=
  match op with
  | 0 => a + b
  | 1 => min32 a b
  | 2 => max32 a b
  | 3 => if a.toNat ≤ b.toNat then a else b
  | 4 => if a.toNat ≤ b.toNat then b else a
  | 5 => a &&& b
  | 6 => a ||| b
  | _ => a ^^^ b
def reduxId (op : Nat) : Word :=
  match op with
  | 1 => 0x7FFFFFFF#32
  | 2 => 0x80000000#32
  | 3 => 0xFFFFFFFF#32
  | 5 => 0xFFFFFFFF#32
  | _ => 0#32
def reduxSigned (op : Nat) : Bool := decide (op ≤ 2)

/-- The combination of the lanes of a mask in lane order (R145). -/
def reduce (op : Nat) (i : LaneIn) (m : Mask) : Word :=
  lanes.foldl (fun acc l => if m.getLsbD l then reduxOp op acc (i.src 0 l) else acc) (reduxId op)

/-- REDUX (R145): a killed lane contributes the identity (R371); with no source lane nothing is written. -/
def execRedux (d : BitVec 6) (a : BitVec 7) (op : BitVec 3) (s : State) : Host.Outcome State Fault Refusal :=
  runWord s (fun x => do
    checkPending x.w (crossItems x [.name (winName x.w a)] d)
    let (s, i) ← laneCheck s x [] [winName x.w a] [] [] []
    if i.nar = 0 then .ok (s, .seq)
    else
      let v := reduce op.toNat i (i.nar &&& ~~~i.kills)
      let s := modW s x (fun w => setS w d (if reduxSigned op.toNat then v.signExtend 64 else v.setWidth 64))
      .ok (killLanes s x i.kills .seq))

/-- FREDUX (R73, R74, R146). A root that no other leaf joins passes unchanged (notes/assumptions/18.md). -/
def execFredux (d : BitVec 6) (a : BitVec 7) (op : BitVec 2) (s : State) : Host.Outcome State Fault Refusal :=
  runWord s (fun x => do
    checkPending x.w (crossItems x [.name (winName x.w a)] d)
    let (s, i) ← laneCheck s x [] [winName x.w a] [] [] []
    if i.nar = 0 then .ok (s, .seq)
    else
      let fm := fmtOf x .f32
      let leaf (w : Word) : Nat × Flags :=
        let v := codeOf fm w
        ((if fm = .f32 then v else (roundVal .f32 .rne false (unpack fm v)).1), sigFlags fm [v])
      let leaves := lanes.map (fun l => if (i.nar &&& ~~~i.kills).getLsbD l then some (leaf (i.src 0 l)) else none)
      let ident := if op.toNat = 0 then 0 else if op.toNat = 1 then 0xFF800000 else 0x7F800000
      let root := (tree32 (combineF op.toNat) leaves).getD (ident, Flags.none)
      let s := modW s x (fun w => setS w d (BitVec.ofNat 64 root.1))
      let s := raiseFlags s x.c x.slot [root.2]
      .ok (killLanes s x i.kills .seq))

/-- SCAN and SCAN.X (R145). -/
def execScan (d a : BitVec 7) (ex : BitVec 1) (op : BitVec 3) (s : State) : Host.Outcome State Fault Refusal :=
  runWord s (fun x => laneWord x s [] [winName x.w a] [] (winName x.w d) (fun i l =>
    reduce op.toNat i (mkMask (fun j => (i.nar &&& ~~~i.kills).getLsbD j && (decide (j < l) || (j == l && ex == 0#1))))))

/-- ELECT (R147): with no source lane only the lanes of a zero guard are written. -/
def execElect (d : BitVec 4) (a : BitVec 6) (s : State) : Host.Outcome State Fault Refusal :=
  runWord s (fun x => do
    let nar := narrowed x
    let zero := zeroLanes x
    checkPending x.w ((if ctxActive x = 0 then [] else guardItems x) ++ [iS a]
      ++ (if nar ||| zero = 0 then [] else [.pred d.toNat]))
    match lanes.find? (fun l => nar.getLsbD l) with
    | none => .ok (putPLanes s x d zero 0, .seq)
    | some low =>
      .ok (modW s x (fun w => setS (setPLanes w d (nar ||| zero) (1#32 <<< low)) a (tv low)), .seq))

end Sys2Proof.Machine
end

