-- ==== Sys2Proof/Machine/MatMath.lean ====
section
/-! DEFINITION. The arithmetic of the matrix unit: the elements of rows and columns (R149 to R151), the dot product (R72,
R75), checksums (R173, R174), the per-tensor scale (R76), the activations (R168) and the conversion of a drained element
(R169). -/

namespace Sys2Proof.Machine

open Sys2Proof

/-! ## Elements (R149 to R151) -/

/-- The family of a type code (R149): FP8, INT8, 16-bit, Q4X. -/
def famOf (t : Nat) : Option Nat :=
  if t = 3 ∨ t = 4 then some 0 else if t = 5 ∨ t = 6 then some 1 else if t = 1 ∨ t = 2 then some 2
  else if t = 8 then some 3 else none

/-- An element: its value, the integer that the integer path takes, whether it is a signalling NaN, whether it is a NaN
outlier (R63, R72), and whether it is taken as zero because its lane is inactive or dead (R75). -/
structure MElem where
  val : FVal
  int : Int
  sig : Bool
  bad : Bool
  off : Bool
deriving DecidableEq, Repr

/-- A row of A or a column of B, decoded: the elements of each block of 32, its block scales, and whether a block lost an
outlier (R70, R75). -/
structure MRow where
  blocks : List (List MElem)
  scales : List FVal
  lost : Bool
deriving DecidableEq, Repr

/-- The value 1, which replaces the scales of a clear enable (R75). -/
def oneVal : FVal := .fin false 1 0

/-- An element of a floating-point code. -/
def elemF (f : Fmt) (v : Nat) : MElem := ⟨unpack f v, 0, isSignalling f v, false, false⟩

/-- An element that is an integer. -/
def elemI (v : Int) : MElem := ⟨finOf v 0 false, v, false, false, false⟩

/-- The elements of a block of 32 from its bytes and its side byte, and whether an outlier is lost (R60, R70, R150). -/
def blockElems (ty side : Nat) (bs : List Byte) : List MElem × Bool :=
  match ty with
  | 1 => ((List.range 32).map (fun i => elemF .f16 (leNat ((bs.drop (2 * i)).take 2))), false)
  | 2 => ((List.range 32).map (fun i => elemF .bf16 (leNat ((bs.drop (2 * i)).take 2))), false)
  | 3 => (bs.map (fun b => elemF .e4m3 b.toNat), false)
  | 4 => (bs.map (fun b => elemF .e5m2 b.toNat), false)
  | 5 => (bs.map (fun b => elemI b.toInt), false)
  | 6 => (bs.map (fun b => elemI (b.toNat : Int)), false)
  | _ =>
    let r := q4Pairs side 0 bs
    (r.1.map (fun e => ⟨e.val, e.int32.1, false, e.int32.2.nv, false⟩), r.2)

/-- Decodes 128 bytes with the scale entries of their blocks (R31, R150 to R152). -/
def decodeRow (ty kb : Nat) (scaled : Bool) (bs : List Byte) (ent : Nat → BitVec 16) : MRow :=
  let n := 128 / kb
  let bl := (List.range kb).map (fun b => blockElems ty ((ent b).toNat / 256) ((bs.drop (n * b)).take n))
  { blocks := bl.map (·.1)
    scales := (List.range kb).map (fun b => if scaled then unpack .e4m3 ((ent b).toNat % 256) else oneVal)
    lost := bl.any (·.2) }

/-- Marks the elements of an A row whose lanes give no words: element k belongs to lane 32k/K (R75, R150). -/
def laneZeros (kb : Nat) (keep : Mask) (r : MRow) : MRow :=
  { r with blocks := r.blocks.mapIdx (fun b l => l.mapIdx (fun q e =>
      if keep.getLsbD ((32 * b + q) / kb) then e else ⟨.fin false 0 0, 0, false, false, true⟩)) }

/-- The conditions of decoding a row that an MMA uses (R63, R70, R72). -/
def rowFlags (intp : Bool) (r : MRow) : Flags :=
  { nv := r.blocks.any (fun b => b.any (fun e => if intp then e.bad else e.sig)), ol := r.lost }

/-! ## Dot products (R72, R75) -/

/-- The code of a value rounded to FP32. -/
def code32 (v : FVal) : Nat := (roundVal .f32 .rne false v).1

/-- A leaf of R75: the exact product; where the lane of the A element is inactive or dead, +0, or NaN where the B element is
NaN, since any NaN element makes the result NaN (notes/assumptions/60.md). -/
def leafOf (a b : MElem) : FVal × Flags :=
  if a.off then (if b.val = .nan then .nan else .fin false 0 0, .none)
  else
    let p := mulVal a.val b.val
    (p.1, { nv := p.2 })

/-- Lines 02 to 06 of R75: a block's sum, scaled. -/
def blockDot (a b : List MElem) (sa sb : FVal) : FVal × Flags :=
  let t := (tree32 sumRne ((a.zip b).map (fun e => some (leafOf e.1 e.2)))).getD (.fin false 0 0, .none)
  let sc := mulVal sa sb
  let r := mulVal t.1 sc.1
  let v := roundVal .f32 .rne false r.1
  (unpack .f32 v.1, (t.2.join v.2).join { nv := sc.2 || r.2 })

/-- The update of an accumulator element by a row and a column on the floating-point path (R75). -/
def dotF (acc : Word) (a b : MRow) : Word × Flags :=
  let start : FVal × Flags := (unpack .f32 acc.toNat, { nv := isSignalling .f32 acc.toNat })
  let r := (List.range a.blocks.length).foldl (fun x i =>
    sumRne x (blockDot (a.blocks.getD i []) (b.blocks.getD i []) (a.scales.getD i oneVal) (b.scales.getD i oneVal))) start
  (BitVec.ofNat 32 (code32 r.1), r.2)

/-- The same on the integer path: exact, modulo 2^32 (R72). -/
def dotI (acc : Word) (a b : MRow) : Word × Flags :=
  (acc + BitVec.ofInt 32 (((a.blocks.flatten).zip b.blocks.flatten).foldl (fun x e => x + e.1.int * e.2.int) 0), .none)

/-- DotUpdate of R160. -/
def dotUpdate (intp : Bool) (acc : Word) (a b : MRow) : Word × Flags := if intp then dotI acc a b else dotF acc a b

/-! ## Checksums (R173, R174) -/

/-- Element q of block b of a decoded row. -/
def MRow.elem (r : MRow) (b q : Nat) : MElem := (r.blocks.getD b []).getD q (elemI 0)

/-- The sum over rows or columns of an element times its scale, in increasing index, each step rounded (R173). -/
def scaledSum (val : MElem → FVal) (rows : List MRow) (b q : Nat) : FVal :=
  (rows.foldl (fun x r => sumRne x ((mulVal (val (r.elem b q)) (r.scales.getD b oneVal)).1, Flags.none))
    (.fin false 0 0, Flags.none)).1

/-- The sums over rows or columns of each element times its scale (R173): cA, and cB. On the integer path the elements are the
integers of R72; where a tile carries scales, the sum of the scaled integers is rounded to an integer as R72 rounds an outlier
(notes/assumptions/21.md). -/
def sumRows (intp : Bool) (kb : Nat) (rows : List MRow) : MRow :=
  let at_ (b q : Nat) : MElem :=
    if !intp then ⟨scaledSum (·.val) rows b q, 0, false, false, false⟩
    else if rows.all (fun r => r.scales.getD b oneVal == oneVal) then
      elemI (BitVec.ofInt 32 (rows.foldl (fun x r => x + (r.elem b q).int) 0)).toInt
    else elemI (toIntType 7 .rne (scaledSum (fun e => finOf e.int 0 false) rows b q)).1
  { blocks := (List.range kb).map (fun b => (List.range 32).map (at_ b))
    scales := List.replicate kb oneVal
    lost := false }

/-- A sum of words in increasing index (R174). -/
def sumWords (intp : Bool) (l : List Word) : Word :=
  if intp then l.foldl (· + ·) 0
  else BitVec.ofNat 32 (code32 (l.foldl (fun x w => sumRne x (unpack .f32 w.toNat, Flags.none)) (.fin false 0 0, Flags.none)).1)

/-- The magnitude of a value. -/
def FVal.abs : FVal → FVal
  | .nan => .nan
  | .inf _ => .inf false
  | .fin _ m e => .fin false m e

/-- Whether a value is a finite number. -/
def FVal.finite : FVal → Bool
  | .fin _ _ _ => true
  | _ => false

/-- Whether a pair mismatches under a tolerance α, τ (R174). -/
def mismatch (intp : Bool) (tol : DWord) (x c : Word) : Bool :=
  if intp then x != c
  else
    let vx := unpack .f32 x.toNat
    let vc := unpack .f32 c.toNat
    if vx.finite && vc.finite then
      let m := if cmpVal vx.abs vc.abs = .lt then vc.abs else vx.abs
      let bound := plus (unpack .f32 (field tol 63 32)) (times (unpack .f32 (field tol 31 0)) m)
      cmpVal (plus vx vc.negate).abs bound == .gt
    else x != c

/-- c minus the other elements of a row, rounded once; none where a term or the value is not finite (R174). -/
def corrected (intp : Bool) (c : Word) (others : List Word) : Option Word :=
  if intp then some (others.foldl (· - ·) c)
  else
    let v := others.foldl (fun x w => plus x (unpack .f32 w.toNat).negate) (unpack .f32 c.toNat)
    let ok := (c :: others).all (fun w => (unpack .f32 w.toNat).finite)
    let r := code32 v
    if ok && (unpack .f32 r).finite then some (BitVec.ofNat 32 r) else none

/-! ## The epilogue (R76, R168, R169) -/

/-- An activation of a value of FP32 (R168). -/
def activate (act : Nat) (y : FVal) : FVal :=
  match act with
  | 1 => match y with
    | .nan => .nan
    | v => if cmpVal v (.fin false 0 0) = .gt then v else .fin false 0 0
  | 2 => match y with
    | .nan => .nan
    | .inf neg => if neg then .fin true 0 0 else .inf false
    | v =>
      let u := rne32 (times (rne32 (times v v)) v)
      let t := rne32 (times (fma32 u (c32 0x3D372713) v) (c32 0x3F4C422A))
      let z := rne32 (plus oneVal (unpack .f32 (sfTanh false (code32 t)).1))
      rne32 (times (rne32 (times v z)) (c32 0x3F000000))
  | 3 => match y with
    | .nan => .nan
    | .inf neg => if neg then .fin true 0 0 else .inf false
    | v =>
      let w := rne32 (times v.negate (c32 0x3FB8AA3B))
      let d := rne32 (plus oneVal (unpack .f32 (sfEx2 false (code32 w)).1))
      rne32 (times v (unpack .f32 (sfRcp false (code32 d)).1))
  | _ => y

/-- What the epilogue applies to every element of a drain: P with its conditions (R76), the activation, the output type,
its rounding and saturation (R167). -/
structure Epilogue where
  p : Nat × Flags
  act : Nat
  otype : Nat
  rm : Rm
  sat : Bool
deriving DecidableEq, Repr

/-- Lines 01 to 06 of R169 for an element, with its bias if there is one; the activation's own roundings raise nothing
(notes/assumptions/62.md). -/
def drainElem (e : Epilogue) (intp : Bool) (bias : Option Nat) (x : Word) : Word × Flags :=
  if intp && e.otype == 7 then (x, .none)
  else
    let y : Nat × Flags := if intp then (let r := fCvt 0 7 .rne false x; (r.1.toNat, r.2)) else (x.toNat, .none)
    let z := fMul .f32 .rne false y.1 e.p.1
    let b : Nat × Flags := match bias with
      | some v => fAdd .f32 .rne false z.1 v
      | none => (z.1, .none)
    let o := fCvt e.otype 0 e.rm e.sat (BitVec.ofNat 32 (code32 (activate e.act (unpack .f32 b.1))))
    (o.1, ((y.2.join e.p.2).join z.2).join (b.2.join o.2))

end Sys2Proof.Machine
end

