-- ==== Sys2Proof/Machine/Matrix.lean ====
section
/-! DEFINITION. The matrix unit: arrival and the rendezvous latch (R155 to R158), the MMA (R160), its checksums (R173), and
the instructions that act on slots, scale memory and the epilogue register (R162, R163, R166, R167, R175). -/

namespace Sys2Proof.Machine

open Sys2Proof

/-! ## Cause codes of the MTX class (R276) -/

def cGangMismatch : Nat := 0x0401
def cGangLost : Nat := 0x0402
def cFmtEmpty : Nat := 0x0403
def cFmtDiverge : Nat := 0x0404
def cAccType : Nat := 0x0407
def cScaleRange : Nat := 0x0408
def cScaleForeign : Nat := 0x0409
def cTileInvalid : Nat := 0x040A
def cTileFormat : Nat := 0x040B
def cEpiBad : Nat := 0x040C

/-! ## Accumulator slots -/

/-- An accumulator slot of a launch on a core (R26). -/
def accOf (h : CoreLaunch) (n : Nat) : AccSlot := fget h.accs n accReset

/-- Replaces an accumulator slot. -/
def setAcc (h : CoreLaunch) (n : Nat) (a : AccSlot) : CoreLaunch := { h with accs := fput h.accs n a }

/-- The values of the numbers from `i` on of a map that lists no number below `i`. -/
def fexpand {α : Type} (d : α) : FMap α → Nat → Nat → List α
  | _, _, 0 => []
  | [], i, n + 1 => d :: fexpand d [] (i + 1) n
  | (k, v) :: m, i, n + 1 => if k = i then v :: fexpand d m (i + 1) n else d :: fexpand d ((k, v) :: m) (i + 1) n

/-- The map of a list of values by their places, values `d` being unlisted. -/
def fcompact {α : Type} [DecidableEq α] (d : α) (l : List α) : FMap α :=
  ((List.range l.length).zip l).filter (fun e => decide (e.2 ≠ d))

/-- A list cut into pieces of `n`. -/
def chunks {α : Type} (n count : Nat) (l : List α) : List (List α) := (List.range count).map (fun i => (l.drop (n * i)).take n)

/-- The 32 rows of 256 words of a slot. -/
def accRows (a : AccSlot) : List (List Word) := chunks 256 32 (fexpand 0 a.words 0 8192)

/-- MTX_ACC_RANGE for a run of slots (R26, R176). -/
def checkAcc (l : Launch) (d n : Nat) : Except Stop Unit :=
  raiseIf (decide (d + n > recAccs l.record)) cAccRange (tv (max d (recAccs l.record)))

/-! ## Arrival (R155, R156) -/

/-- MMA: arrives at the latch; the word's effect comes with the release (R155, R156). The names' pending marks are checked whatever
ACTIVE is, as R156 has it (notes/assumptions/52.md). -/
def execMma (acc : BitVec 6) (a b : BitVec 7) (s : State) : Host.Outcome State Fault Refusal :=
  match ctxOf s with
  | none => .fault .noSpan
  | some x =>
    let an := winRun x.w a 32
    let fn := winName x.w b
    let r : Except Stop State := do
      needFirst x
      checkPending x.w (iNames (an ++ [fn]))
      let ns := if ctxActive x = 0 then [] else an ++ [fn]
      checkMapped x.w ns
      reloadNames s x ns
    let arr : Arrival := ⟨s.stamp, x.sp.sec, ctxActive x, acc.toNat, an, fn, wordAddr x.sp x.sp.idx,
      if wordE (spanWord x.sp x.sp.idx) then some (continuation x.sp, liveWord x.sp) else none⟩
    match r with
    | .ok t => .next (afterSpan (modW t x (fun w =>
        modPath { w with span := none, arrival := some arr } x.sp.sec (fun p => { p with state := .waiting }))) x.c x.slot)
    | .error e => finish s x (.error e)

/-! ## The latch (R157) -/

/-- A member at the release: its slot, and its warp with its arrival; none where it retired with LANES_LOST (R158). -/
structure Member where
  slot : Nat
  w : Option (Warp × Arrival)
deriving DecidableEq, Repr

/-- The fields of a format word (R153). -/
def fwA (fw : Word) : Nat := fw.toNat % 16
def fwB (fw : Word) : Nat := fw.toNat / 16 % 16
def fwTile (fw : Word) : Nat := fw.toNat / 256 % 128
def fwAsb (fw : Word) : Nat := fw.toNat / 2 ^ 15 % 128
def fwZf (fw : Word) : Bool := fw.getLsbD 22
def fwAse (fw : Word) : Bool := fw.getLsbD 23
def fwBse (fw : Word) : Bool := fw.getLsbD 24

/-- Whether a format word is refused (R149, R153). -/
def fwBad (fw : Word) : Bool :=
  decide (fw.toNat ≥ 2 ^ 25) || (famOf (fwA fw)).isNone || famOf (fwA fw) != famOf (fwB fw)
    || (famOf (fwA fw) == some 1 && (fwAse fw || fwBse fw))

/-- Whether an MMA takes the integer path (R72, R149). -/
def fwInt (fw : Word) : Bool :=
  famOf (fwA fw) == some 1 || (famOf (fwA fw) == some 3 && !fwAse fw && !fwBse fw)

/-- The row behind a name at the release. A name that the other path has unmapped since the arrival has no row: its words
are free values (notes/assumptions/22.md). -/
def gangRow (s : State) (c : Nat) (w : Warp) (k n : Nat) : PoolRow :=
  match refOfEntry (nameOf w n) with
  | some r => refRow s c (launchOf s w.launch).tenant r
  | none => ⟨mkRow (fun l => (Config.freeDWord (s.freeCtr + 32 * k + l)).setWidth 32), 0, 0, 0⟩

/-- The format row of member `j`, and its lanes with a format word that counts (R157). -/
def formatRow (s : State) (c j : Nat) (m : Member) : Row × Mask :=
  match m.w with
  | none => (zeroRow, 0)
  | some (w, a) =>
    let r := gangRow s c w (33 * j) a.fName
    (r.words, a.active &&& ~~~r.poison)

/-- The reference word of R157: the lowest lane that counts of the lowest member with one. -/
def referenceWord (s : State) (c : Nat) (ms : List Member) : Option Word :=
  (ms.mapIdx (formatRow s c)).findSome? (fun r => (lanes.find? (fun l => r.2.getLsbD l)).map (fun l => lane r.1 l))

/-- A gang-wide trap: its cause, and TVAL by slot. -/
abbrev GangFail := Nat × (Nat → DWord)

/-- Check 1 (R157): the mask of members whose GANG or D differs from the first's. -/
def gangDiffers (ms : List Member) : Nat :=
  match ms.findSome? (·.w) with
  | none => 0
  | some r => ((ms.mapIdx (fun j m => match m.w with
    | some (w, a) => if w.gang ≠ r.1.gang ∨ a.acc ≠ r.2.acc then 2 ^ j else 0
    | none => 0))).sum

/-- The lanes of a member whose format word differs from the reference (R157). -/
def gangDiverges (fw : Word) (r : Row × Mask) : Mask := mkMask (fun l => r.2.getLsbD l && lane r.1 l != fw)

/-- TVAL of MTX_FMT_DIVERGE in a slot (R176). -/
def divergeVal (fw : Word) (l : List (Nat × Mask)) (k : Nat) : DWord :=
  match l.find? (fun e => e.1 == k) with
  | some e => tv (fw.toNat * 2 ^ 32 + e.2.toNat)
  | none => tv (fw.toNat * 2 ^ 32)

/-- Checks 1 to 7 of R157. -/
def gangCheck (s : State) (c l : Nat) (ms : List Member) (d : Nat) : Option GangFail :=
  let one (code v : Nat) : Option GangFail := some (code, fun _ => tv v)
  let g := ms.length
  let v := launchOf s l
  if gangDiffers ms ≠ 0 then one cGangMismatch (gangDiffers ms)
  else match referenceWord s c ms with
  | none => one cFmtEmpty 0
  | some fw =>
    let diff : List (Nat × Mask) := ms.mapIdx (fun j m => (m.slot, gangDiverges fw (formatRow s c j m)))
    if diff.any (fun e => e.2 != 0) then
      some (cFmtDiverge, divergeVal fw diff)
    else if fwBad fw then one cFmtBad fw.toNat
    else if d + g > recAccs v.record then one cAccRange (max d (recAccs v.record))
    else
      let want : AccTag := if fwInt fw then .int else .fp
      match (if fwZf fw then none else (List.range g).find? (fun j =>
        let t := (accOf (clOf s c l) (d + j)).tag
        t != .none && t != want)) with
      | some j => one cAccType (d + j)
      | none =>
        if fwAse fw || fwA fw == 8 then
          let last := 512 * fwAsb fw + 32 * g * (kOf (fwA fw) / 32) - 1
          if last > 65535 then one cScaleRange 65536
          else match ((List.range (last / 512 + 1)).drop (fwAsb fw)).find? (fun u =>
            match fget? (coreOf s c).scaleTag u with
            | some t => t != v.tenant
            | none => false) with
          | some u => one cScaleForeign u
          | none => none
        else none

/-- Check 8 of R157. -/
def tileCheck (s : State) (c l : Nat) (fw : Word) : Option GangFail :=
  let n := fwTile fw
  let t := tileOf (coreOf s c) n
  if t.state = .invalid ∨ tileForeign t (launchOf s l).tenant l then some (cTileInvalid, fun _ => tv n)
  else if t.fmt ≠ fwB fw ∨ (fwBse fw ∧ ¬ t.scales) then some (cTileFormat, fun _ => tv n)
  else none

/-- When a gang's MMA was issued: when the last of its members arrived (R148, notes/assumptions/39.md). -/
def gangSince (ms : List Member) : Nat := ms.foldl (fun t m => match m.w with
  | some (_, a) => max t a.since
  | none => t) 0

/-- Whether a tile holds the release of a gang's MMA back: a fill of it runs (R157), or a fill that was issued before the MMA has still
to claim it (R148, R164). -/
def tileHolds (s : State) (c n : Nat) (ms : List Member) : Bool :=
  (tileOf (coreOf s c) n).state == .filling || claimsBefore s c n (gangSince ms)

/-! ## The operation (R160) -/

/-- A member's part: the lanes it kills, those that it takes words from, and its 32 A rows as bytes (R150, R160). -/
structure APart where
  kills : Mask
  keep : Mask
  rows : List (List Byte)

/-- Reads a member's A names (R150, R160): the words of active lanes that consume no poison, zero elsewhere. -/
def aPart (s : State) (c j : Nat) (m : Member) : APart :=
  match m.w with
  | none => ⟨0, 0, List.replicate 32 (List.replicate 128 0)⟩
  | some (w, a) =>
    let rows := a.aNames.mapIdx (fun i n => gangRow s c w (33 * j + 1 + i) n)
    let bad := rows.foldl (fun k r => k ||| r.poison) (gangRow s c w (33 * j) a.fName).poison
    let kills := bad &&& a.active
    let keep := a.active &&& ~~~kills
    ⟨kills, keep, rows.map (fun r => lanes.flatMap (fun l => bytesOf32 (if keep.getLsbD l then lane r.words l else 0)))⟩

/-- Entry `i` of a tile's side store (R151). The spec does not say what it holds in a tile filled without one: a free
value (notes/assumptions/56.md). -/
def sideEntry (t : BTile) (i : Nat) : BitVec 16 :=
  if t.scales then fget t.side i 0 else (Config.freeDWord (t.seed + i)).setWidth 16

/-- The B columns of a tile, decoded (R151). -/
def tileCols (t : BTile) (ty : Nat) (scaled : Bool) : List MRow :=
  let kb := kOf ty / 32
  (chunks 128 256 (fexpand 0 t.bytes 0 32768)).mapIdx (fun n bs =>
    decodeRow ty kb scaled bs (fun b => sideEntry t (n * kb + b)))

/-- One member's update of its slot (R160, R173): the elements, the tag and the checksums, with the conditions met, those of
the checksum sums aside (notes/assumptions/62.md). A word that carries poison keeps it (R370). -/
def accUpdate (intp zf : Bool) (kb : Nat) (old : AccSlot) (as bs : List MRow) (cb : MRow) : AccSlot × Flags :=
  let rows := if zf then List.replicate 32 (List.replicate 256 0) else accRows old
  let out := (rows.zip as).map (fun e => (e.1.zip bs).map (fun q => dotUpdate intp q.1 e.2 q.2))
  let ca := sumRows intp kb as
  let base (m : FMap Word) (n : Nat) : List Word := if zf then List.replicate n 0 else fexpand 0 m 0 n
  ({ old with
      words := fcompact 0 ((out.flatten).map (·.1))
      tag := if intp then .int else .fp
      checkCol := fcompact 0 (((base old.checkCol 32).zip as).map (fun e => (dotUpdate intp e.1 e.2 cb).1))
      checkRow := fcompact 0 (((base old.checkRow 256).zip bs).map (fun e => (dotUpdate intp e.1 ca e.2).1))
      checkValid := zf || old.checkValid },
   (out.flatten).foldl (fun f e => f.join e.2) Flags.none)

/-- The conditions that an MMA raises (R79). -/
def mmaFlags (f : Flags) : Flags := { nv := f.nv, of_ := f.of_, ol := f.ol }

/-- A path whose MMA has taken effect: it runs on after the MMA, or at the next span where the MMA was its last word
(R155). -/
def releasePath (w : Warp) (a : Arrival) (stamp : Nat) : Warp :=
  modPath { w with arrival := none } a.sec (fun p => match a.after with
    | none => { p with state := .ready, mmaDone := true, atSafePoint := none }
    | some (pc, live) => { p with
        state := .ready, pc := pc, unchecked := false, eret := false, resume := 0, mmaDone := false, atSafePoint := live
        endedAt := stamp })

/-- The effect of a released MMA (R160). -/
def mmaEffect (s : State) (c l : Nat) (ms : List Member) (d : Nat) (fw : Word) : State :=
  let intp := fwInt fw
  let kb := kOf (fwA fw) / 32
  let k := coreOf s c
  let parts := ms.mapIdx (aPart s c)
  let tile := tileOf k (fwTile fw)
  let bs := tileCols tile (fwB fw) (fwBse fw)
  let cb := sumRows intp kb (tileCols tile (fwB fw) tile.scales)
  let arows (j : Nat) (p : APart) : List MRow := p.rows.mapIdx (fun i row =>
    laneZeros kb p.keep (decodeRow (fwA fw) kb (fwAse fw) row
      (fun b => fget k.scale (512 * fwAsb fw + (32 * j + i) * kb + b) 0)))
  let all := parts.mapIdx arows
  let h := clOf s c l
  let ups := all.mapIdx (fun j as => (d + j, accUpdate intp (fwZf fw) kb (accOf h (d + j)) as bs cb))
  let fl := ups.foldl (fun f e => f.join e.2.2) (((all.flatten) ++ bs).foldl (fun f r => f.join (rowFlags intp r)) Flags.none)
  let fl := mmaFlags fl
  let s := setCl s c l { ups.foldl (fun h e => setAcc h e.1 e.2.1) h with mburst := h.mburst - 1 }
  let s := if fl = Flags.none then s else modCore s c (fun k => countFlags k [fl])
  let (stamp, s) := takeStamp s
  let s := ms.foldl (fun s m => match m.w with
    | some (_, a) => modWarp s c m.slot (fun w => releasePath (stickFlags w fl) a stamp)
    | none => s) s
  (ms.zip parts).foldl (fun s e => match e.1.w with
    | some (_, a) => killAt s c e.1.slot a.addr e.2.kills
    | none => s) s

/-- The members of a warp's gang; none where one is missing that did not retire with LANES_LOST (R157, R158): then its
slot. -/
def gangMembers (s : State) (c slot : Nat) (w : Warp) : Except Nat (List (Nat × Option Warp)) :=
  let ms := (gangSlots w slot).map (fun k => (k, (warpOf? s c k).filter (fun v => v.launch == w.launch)))
  match ms.find? (fun m => m.2.isNone && !setMem (clOf s c w.launch).lost m.1) with
  | some m => .error m.1
  | none => .ok ms

/-- Takes free numbers for the names of members that have no row. -/
def takeGangFree (s : State) (ms : List Member) : State :=
  if ms.any (fun m => match m.w with
    | some (w, a) => (a.fName :: a.aNames).any (fun n => nameOf w n == .unmapped)
    | none => false) then { s with freeCtr := s.freeCtr + 32 * 33 * 8 } else s

/-- Releases a gang whose members have all arrived: the gang-wide checks, then the effect (R157). -/
def gangRun (s : State) (c l : Nat) (ms : List Member) : State :=
  let d := ((ms.findSome? (·.w)).map (fun m => m.2.acc)).getD 0
  let fail (s : State) (f : GangFail) : State := ms.foldl (fun s m => gangTrap s c m.slot f.1 (f.2 m.slot)) s
  match referenceWord s c ms with
  | none => match gangCheck s c l ms d with
    | some f => fail s f
    | none => s
  | some fw =>
    if tileHolds s c (fwTile fw) ms then s
    else match gangCheck s c l ms d with
      | some f => fail s f
      | none =>
        let t := (launchOf s l).tenant
        let u := restoreTile s c (fwTile fw) t l
        if (tileCheck u c l fw).isSome && (savedTile (partOf u (partOfCore u c)) t c (fwTile fw)).isSome
            && !tileClaimable u c (fwTile fw) then s
        else match tileCheck u c l fw with
          | some f => fail u f
          | none => takeGangFree (mmaEffect u c l ms d fw) ms

/-- GANG_RELEASE (R157, R158): the latch releases once every member holds an arrival; where a member is missing, every
arrived one traps. -/
def execGangRelease (core warp : Nat) (s : State) : Host.Outcome State Fault Refusal :=
  match warpOf? s core warp with
  | none => .next s
  | some w =>
    if w.arrival.isNone then .next s
    else match gangMembers s core warp w with
      | .error k => .next ((gangSlots w warp).foldl (fun s n => match warpOf? s core n with
          | some v => if v.launch = w.launch then gangTrap s core n cGangLost (tv k) else s
          | none => s) s)
      | .ok ms =>
        if ms.any (fun m => match m.2 with
          | some v => v.arrival.isNone
          | none => false) then .next s
        else .next (gangRun s core w.launch (ms.map (fun m =>
          ⟨m.1, m.2.bind (fun v => v.arrival.map (fun a => (v, a)))⟩)))

/-- GANG_TRAP_DEFERRED_ENTRY (R273): the member enters trap mode once no path of it is inside a span. -/
def execGangTrapDeferredEntry (core warp : Nat) (s : State) : Host.Outcome State Fault Refusal :=
  match warpOf? s core warp with
  | none => .next s
  | some w => match w.deferred with
    | none => .next s
    | some (cause, sec) =>
      if w.span.isSome then .next s
      else .next (trapEnter s core warp sec ((pathOf w sec).pc + 4) cause.code cause.tval)

/-! ## Slots (R163) -/

/-- MZERO (R163): n is the field plus 1. -/
def execMzero (acc : BitVec 6) (n : BitVec 3) (s : State) : Host.Outcome State Fault Refusal :=
  runWord s (fun x => do
    checkAcc x.l acc.toNat (n.toNat + 1)
    .ok (modCl s x.c x.w.launch (fun h =>
      (List.range (n.toNat + 1)).foldl (fun h j => setAcc h (acc.toNat + j) accReset) h), .seq))

/-- The checks of ACCSV and ACCLD (R163). -/
def checkAccMove (x : Ctx) (acc : BitVec 6) (off : DWord) : Except Stop Unit := do
  checkAcc x.l acc.toNat 1
  raiseIf (off.toNat % 16 != 0) cMisaligned off
  checkScratch x.l off.toNat 32768

/-- ACCSV (R163, R369): marks go with their elements. -/
def execAccsv (acc a : BitVec 6) (s : State) : Host.Outcome State Fault Refusal :=
  runWord s (fun x => do
    checkPending x.w [iS a]
    let off := sReg x.w a
    checkAccMove x acc off
    waitRuns s x [(off.toNat, 32768)]
    .ok (modCl s x.c x.w.launch (fun h =>
      let v := accOf h acc.toNat
      let bs := (fexpand 0 v.words 0 8192).flatMap bytesOf32
      scratchWrite h (((List.range 32768).zip bs).map (fun e => (off.toNat + e.1, some e.2))
        ++ v.poison.map (fun k => (off.toNat + 4 * k, none)))), .seq))

/-- ACCLD (R163, R369). -/
def execAccld (int : BitVec 1) (acc a : BitVec 6) (s : State) : Host.Outcome State Fault Refusal :=
  runWord s (fun x => do
    checkPending x.w [iS a]
    let off := sReg x.w a
    checkAccMove x acc off
    waitRuns s x [(off.toNat, 32768)]
    .ok (modCl s x.c x.w.launch (fun h =>
      let bs := scratchRead h off.toNat 32768
      let v := accOf h acc.toNat
      setAcc h acc.toNat { v with
        words := fcompact 0 (wordsOf (bs.map (·.1)))
        tag := if int = 1 then .int else .fp
        checkValid := false
        poison := (List.range 8192).filter (fun k => setMem h.spoison ((off.toNat + 4 * k) / 16)) }), .seq))

/-! ## Scale memory (R31, R166) -/

/-- SCLD (R166, R369). -/
def execScld (a b : BitVec 6) (s : State) : Host.Outcome State Fault Refusal :=
  runWord s (fun x => do
    checkPending x.w [iS a, iS b]
    let off := (sReg x.w a).toNat
    let first := field (sReg x.w b) 15 0
    let n := field (sReg x.w b) 32 16
    raiseIf (off % 2 != 0) cMisaligned (sReg x.w a)
    raiseIf (n == 0) cScaleRange (tv first)
    raiseIf (decide (first + n > 65536)) cScaleRange (tv 65536)
    checkScratch x.l off (2 * n)
    let units := pieces 512 first n
    match units.find? (fun u => match fget? (coreOf s x.c).scaleTag u with
      | some t => t != x.l.tenant
      | none => false) with
    | some u => raise cScaleForeign (tv u)
    | none =>
      let bs := scratchRead (clOf s x.c x.w.launch) off (2 * n)
      let entry (i : Nat) : BitVec 16 :=
        if (bs.getD (2 * i) (0, false)).2 || (bs.getD (2 * i + 1) (0, false)).2 then 0x007F
        else BitVec.ofNat 16 (leNat [(bs.getD (2 * i) (0, false)).1, (bs.getD (2 * i + 1) (0, false)).1])
      let s := modCore s x.c (fun k => { k with
        scale := (List.range n).foldl (fun m i => fset m (first + i) (entry i) 0) k.scale
        scaleTag := units.foldl (fun m u => fput m u x.l.tenant) k.scaleTag })
      .ok (match bs.findIdx? (·.2) with
        | some i => coreUe s x.c x.l.id (off + i) 2
        | none => s, .seq))

/-! ## Epilogue register, bursts, status (R162, R167, R175) -/

/-- MEPI (R167). -/
def execMepi (a : BitVec 6) (s : State) : Host.Outcome State Fault Refusal :=
  runWord s (fun x => do
    checkPending x.w [iS a]
    let v := sReg x.w a
    raiseIf (field v 63 45 != 0 || field v 21 0 != 0 || decide (field v 29 26 ≥ 8) || decide (field v 24 22 ≥ 6)) cEpiBad v
    .ok (modW s x (fun w => { w with epi := v }), .seq))

/-- MBURST (R162): it affects time only. -/
def execMburst (n : BitVec 14) (s : State) : Host.Outcome State Fault Refusal :=
  runWord s (fun x => .ok (modCl s x.c x.w.launch (fun h => { h with mburst := n.toNat }), .seq))

/-- MSTAT (R175). -/
def execMstat (d : BitVec 6) (s : State) : Host.Outcome State Fault Refusal :=
  runWord s (fun x => do
    checkPending x.w [iS d]
    .ok (modW s x (fun w => { setS w d w.mstat with mstat := 0 }), .seq))

end Sys2Proof.Machine
end

