-- ==== Sys2Proof/Machine/Drain.lean ====
section
/-! DEFINITION. The drain: the check of a slot's checksums (R174, R175), MDRAIN with its epilogue (R169, R170), the delivery
of its rows (R171), and VPOP (R172). -/

namespace Sys2Proof.Machine

open Sys2Proof

/-! ## Checksums at a drain (R174, R175) -/

/-- What the check of a slot finds (R175): clean, corrected, uncorrected, skipped. -/
inductive Checked where
  | clean | corrected (row col : Nat) (v : Word) | uncorrected | skipped
deriving DecidableEq, Repr

/-- The check of a slot in mode 1 or 2 (R174). -/
def checkSlotSums (mode : Nat) (tol : DWord) (a : AccSlot) : Checked :=
  if !a.checkValid then .skipped
  else
    let intp := a.tag == .int
    let rows := accRows a
    let cc := fexpand 0 a.checkCol 0 32
    let cr := fexpand 0 a.checkRow 0 256
    let badR := (List.range 32).filter (fun i => mismatch intp tol (sumWords intp (rows.getD i [])) (cc.getD i 0))
    let badC := (List.range 256).filter (fun n =>
      mismatch intp tol (sumWords intp (rows.map (fun r => r.getD n 0))) (cr.getD n 0))
    match badR, badC with
    | [], [] => .clean
    | [i], [n] =>
      if mode ≠ 2 then .uncorrected
      else match corrected intp (cc.getD i 0) ((rows.getD i []).eraseIdx n) with
        | some v => .corrected i n v
        | none => .uncorrected
    | _, _ => .uncorrected

/-- The matrix status after the check of a slot (R175). -/
def statUpdate (w : DWord) (slot : Nat) (r : Checked) : DWord :=
  let up (w : DWord) (hi lo : Nat) : DWord := setField w hi lo (satAdd (field w hi lo) 1 0xFFFF)
  match r with
  | .clean => setField w 7 6 0
  | .corrected _ _ _ => setField (setField (up (up w 55 40) 39 24) 7 6 1) 5 0 slot
  | .uncorrected => setField (setField (up w 55 40) 7 6 2) 5 0 slot
  | .skipped => setField (up w 23 8) 7 6 3

/-- Checks a slot before the epilogue, as the launch's mode says: status, event, and the corrected element (R174, R374). -/
def checkAtDrain (s : State) (x : Ctx) (n : Nat) : State :=
  let mode := recAbft x.l.record
  if mode = 0 then modW s x (fun w => { w with mstat := setField w.mstat 7 6 0 })
  else
    let r := checkSlotSums mode (recAbfttol x.l.record) (accOf (clOf s x.c x.w.launch) n)
    let s := modW s x (fun w => { w with mstat := statUpdate w.mstat n r })
    match r with
    | .corrected i k v =>
      let s := modCl s x.c x.w.launch (fun h =>
        let a := accOf h n
        setAcc h n { a with words := fset a.words (256 * i + k) v 0 })
      coreEvent s 0x0906 x.c x.l.id 0 (tv (x.slot * 2 ^ 32 + n * 2 ^ 24 + i * 2 ^ 16 + k))
    | .uncorrected => coreEvent s 0x0905 x.c x.l.id 0 (tv (x.slot * 2 ^ 32 + n))
    | _ => s

/-! ## MDRAIN (R169 to R171) -/

/-- The slots that a drain reads (R169). -/
def drainSlots (x : Ctx) (own : Bool) (d : Nat) : List Nat :=
  let g := gangSlots x.w x.slot
  if own then [d + (if field x.w.gang 38 36 = 0 then 0 else g.idxOf x.slot)]
  else (List.range g.length).map (fun j => d + j)

/-- The bytes of an output element (R60, R171). -/
def elemSize (otype : Nat) : Nat := if otype = 0 ∨ otype = 7 then 4 else if otype = 1 ∨ otype = 2 then 2 else 1

/-- The bias row of EPI, with its poison; none without BV (R167, R169). -/
def biasRow (s : State) (x : Ctx) : Option (List (Nat × Bool)) :=
  if !x.w.epi.getLsbD 44 then none
  else
    let bs := scratchRead (clOf s x.c x.w.launch) (1024 * field x.w.epi 43 32) 1024
    some ((List.range 256).map (fun n =>
      let q := (bs.drop (4 * n)).take 4
      (leNat (q.map (·.1)), q.any (·.2))))

/-- The epilogue of a warp with the per-tensor scales of a drain (R76, R167). -/
def epilogueOf (w : Warp) (sa sb : Nat) : Epilogue where
  p := fMul .f32 .rne false sa sb
  act := field w.epi 31 30
  otype := field w.epi 29 26
  rm := match field w.epi 24 22 with
    | 1 => .rne | 2 => .rtz | 3 => .rup | 4 => .rdn | 5 => .rna
    | _ => rmOfFpsr (field w.fpsr 2 0)
  sat := w.epi.getLsbD 25

/-- The rows that a slot gives, from row number `m0` on, with the conditions of each column (R169, R370). -/
def slotRows (e : Epilogue) (size m0 : Nat) (bias : Option (List (Nat × Bool))) (a : AccSlot) :
    List DrainRow × List Flags :=
  let intp := a.tag == .int
  let biasAt (n : Nat) : Option (Nat × Bool) := bias.map (fun b => b.getD n (0, false))
  let out := (accRows a).map (fun r => r.mapIdx (fun n x => drainElem e intp ((biasAt n).map (·.1)) x))
  let bad (i n : Nat) : Bool := setMem a.poison (256 * i + n)
    || (!(intp && e.otype == 7) && ((biasAt n).map (·.2)).getD false)
  (out.mapIdx (fun i r => ⟨m0 + i, r.flatMap (fun v => leBytes size v.1.toNat), (List.range 256).filter (bad i)⟩),
    (List.range 256).map (fun n => out.foldl (fun f r => f.join (r.getD n (0, .none)).2) Flags.none))

/-- The conditions of a drain by lane of ACTIVE: column n counts toward lane n mod 32 (R169). -/
def drainFlags (act : Mask) (cols : List (List Flags)) : List Flags :=
  (lanes.filter (fun l => act.getLsbD l)).map (fun l =>
    cols.foldl (fun f c => (List.range 8).foldl (fun f j => f.join (c.getD (32 * j + l) .none)) f) Flags.none)

/-- The runs of bytes that rows write, cut at the lines (R170). -/
def rowRuns (base stride n rows : Nat) : List (Nat × Nat) :=
  (List.range rows).flatMap (fun m =>
    let va := (base + m * stride) % 2 ^ 64
    if va ≥ 2 ^ 57 then [(va, 1)] else (pieces 128 va n).map (fun v => (max va (128 * v), 1)))

/-- Raises the failing check with the lowest address of a drain, with its first cause in the order of R180 (R170). -/
def raiseLowest (l : List (Nat × Option (Nat × Nat))) : Except Stop Unit :=
  match l.foldl (fun (best : Option (Nat × Nat × Nat)) e => match best, e.2 with
      | none, some c => some (e.1, c)
      | some b, some c => if e.1 < b.1 then some (e.1, c) else some b
      | b, none => b) none with
  | some b => raise b.2.2 (tv b.1)
  | none => .ok ()

/-- MDRAIN (R169, R170): of the pages that fail, the lowest failing address (notes/assumptions/62.md). One to memory or to a peer is
kept after the path's set-aside reads (R203, R211), and what it reads or writes in scratchpad after the path's accesses there (R205). -/
def execMdrain (own : BitVec 1) (acc a : BitVec 6) (rte : BitVec 3) (dest : BitVec 2) (s : State) :
    Host.Outcome State Fault Refusal :=
  let runsOf (x : Ctx) : List (Nat × Nat) :=
    rowRuns (sRun x.w a 2).toNat (field (sRun x.w a 3) 31 0) (256 * elemSize (field x.w.epi 29 26))
      (32 * (drainSlots x (own == 1) acc.toNat).length)
  runMem s (fun x => if dest = 1 then prepRuns s x.pn (some (x.c, x.l.id)) x.l.tenant .write (runsOf x) else s)
    (fun x s => do
      checkPending x.w (iSRun a 4)
      let slots := drainSlots x (own == 1) acc.toNat
      checkAcc x.l (slots.headD 0) slots.length
      let base := (sRun x.w a 2).toNat
      let stride := field (sRun x.w a 3) 31 0
      let e := epilogueOf x.w (field (sRun x.w a 0) 31 0) (field (sRun x.w a 1) 31 0)
      let size := elemSize e.otype
      raiseIf (dest == 3 && !rteValid (rteOf x.w rte.toNat)) cRouteNone (tv rte.toNat)
      raiseIf (dest != 0 && base % 16 != 0) cMisaligned (tv base)
      raiseIf (dest != 0 && stride % 16 != 0) cMisaligned (tv stride)
      if dest = 2 then
        match (List.range (32 * slots.length)).find? (fun m => decide (base + m * stride + 256 * size > scratchBytes x.l)) with
        | some m => checkScratch x.l (base + m * stride) (256 * size)
        | none => pure ()
      if x.w.epi.getLsbD 44 then checkScratch x.l (1024 * field x.w.epi 43 32) 1024
      parkIf ((dest == 1 || dest == 3) && keptBack s x true)
      waitRuns s x ((if x.w.epi.getLsbD 44 then [(1024 * field x.w.epi 43 32, 1024)] else []) ++ (if dest = 2 then
        (List.range (32 * slots.length)).map (fun m => (base + m * stride, 256 * size)) else []))
      if dest = 1 then raiseLowest ((runsOf x).map (fun r => (r.1, accCause s x r.1 1 false .write)))
      let lines := if dest = 1 then
          (List.range (32 * slots.length)).foldl (fun l m => (pieces 128 (base + m * stride) (256 * size)).foldl setAdd l) []
        else []
      let s ← ownLines s x.pn x.c x.l.tenant [] lines
      let s := slots.foldl (fun s n => checkAtDrain s x n) s
      let h := clOf s x.c x.w.launch
      let bias := biasRow s x
      let outs := slots.mapIdx (fun k n =>
        slotRows e (if dest = 0 then 4 else size) (32 * k) bias (accOf h n))
      let s := raiseFlags s x.c x.slot (drainFlags (ctxActive x) (outs.map (·.2)))
      let (id, s) := issueLong s x [] .drain [] [] [] none
      let (o, s) := startOp s x.pn x.c x.w.launch none
        (.drain x.slot id x.sp.sec dest.toNat base stride (rteOf x.w rte.toNat) (outs.flatMap (·.1)))
      let maps : FMap (Nat × DWord) := lines.foldl (fun m l =>
        match resolve s (partOf s x.pn) ((asidFor (partOf s x.pn) x.l.tenant (128 * l)).getD 0) l with
        | some t => fput m l t
        | none => m) []
      .ok (modOp s x.c o (fun q => { q with passed := true, maps := maps }), .seq))

/-! ## Delivery (R170, R171) -/

/-- Ends a drain: its flag counts it no more. -/
def endDrain (s : State) (c warp o lo : Nat) : State :=
  let l := ((fget? (coreOf s c).engines o).map (·.launch)).getD 0
  let s := modCore s c (fun k => { k with engines := fdel k.engines o })
  match (launchWarp? s c l warp).bind (fun w => longOf w lo) with
  | some q => withWarp s c l warp (fun s => completeLong s c warp q)
  | none => s

/-- Whether an earlier drain to the queue still has rows to deliver (R171). -/
def queueBehind (k : Core) (order : Nat) : Bool :=
  k.engines.any (fun e => match e.2.kind with
    | .drain _ _ _ 0 _ _ _ rows => decide (e.2.order < order) && !rows.isEmpty
    | _ => false)

/-- The destination rank of a route: this device's own for 0xFFFF, whatever CORE is (R23,
notes/assumptions/62.md). -/
def routeRank (p : Partition) (route : DWord) : Nat :=
  if rteRank route = 0xFFFF then field (reg p .netRank) 15 0 else rteRank route

/-- Delivers one row, or nothing where its destination cannot take it yet (R171), the lines of a row in memory together
(notes/assumptions/62.md); `stop` where the drain ends instead
(R345, R369). -/
def deliverRow (s : State) (pn c o : Nat) (op : EngineOp) (warp lo dest base stride : Nat) (route : DWord) (r : DrainRow) :
    Option (Except State State) :=
  let marked := r.bytes.mapIdx (fun i b => (i, (b, setMem r.poison (i / (r.bytes.length / 256)))))
  match dest with
  | 0 =>
    if ((launchWarp? s c op.launch warp).bind (fun w => longOf w lo)).isNone then some (.error s)
    else if queueBehind (coreOf s c) op.order || decide ((coreOf s c).drainQ.length ≥ 64) then none
    else some (.ok (modCore s c (fun k => { k with drainQ := k.drainQ ++
      ([⟨warp, op.launch, wordsOf r.bytes, r.poison⟩] : List DrainEntry) })))
  | 1 =>
    let va := (base + r.m * stride) % 2 ^ 64
    let lines := pieces 128 va r.bytes.length
    if lines.any (fun l => opLineHeld s pn c op l true) then none
    else some (.ok (lines.foldl (fun s l => engineStore s pn c op l (markedBytes
      ((marked.filter (fun e => (va + e.1) / 128 == l)).map (fun e => ((va + e.1) % 128, e.2))))) s))
  | 2 =>
    let at_ := base + r.m * stride
    some (.ok (modCl s c op.launch (fun h => setFull
      (scratchWrite h ((markedBytes marked).map (fun e => (at_ + e.1, e.2)))) (pieces 16 at_ r.bytes.length) true)))
  | _ =>
    let p := partOf s pn
    let dst := routeRank p route
    if !r.poison.isEmpty || peerFenced s p dst then some (.error s)
    else some (.ok (sendPacket s pn { packetTo p .data dst (BitVec.ofNat 32 (rteQp route)) with
      first := true, last := true, roff := BitVec.ofNat 64 (base + r.m * stride), payload := r.bytes } (some (c, o))))

/-- Whether everything that a drain has delivered has arrived: its lines are visible, its packets acknowledged (R170,
R218). -/
def drainArrived (s : State) (pn c o : Nat) (op : EngineOp) : Bool :=
  op.done.all (fun l => opLineVisible s pn c op l)
    && (partOf s pn).out.all (fun e => e.2.unacked.all (fun u => u.2 != some (c, o)))

/-- DRAIN_ROW_DELIVER (R171): the next row is delivered; after the last, once all have arrived, the flag clears. -/
def execDrainRowDeliver (core warp op : Nat) (s : State) : Host.Outcome State Fault Refusal :=
  match fget? (coreOf s core).engines op with
  | none => .next s
  | some e => match e.kind with
    | .drain wslot lo sec dest base stride route rows =>
      let pn := partOfCore s core
      if wslot ≠ warp then .next s
      else match rows with
      | [] => if drainArrived s pn core op e then .next (endDrain s core warp op lo) else .next s
      | r :: rest => match deliverRow s pn core op e warp lo dest base stride route r with
        | none => .next s
        | some (.error t) => .next (endDrain t core warp op lo)
        | some (.ok t) =>
          let lines := if dest = 1 then pieces 128 ((base + r.m * stride) % 2 ^ 64) r.bytes.length else []
          let e' := { e with
            kind := .drain wslot lo sec dest base stride route rest, done := lines.foldl setAdd e.done }
          let t := modOp t core op (fun _ => e')
          .next (if rest.isEmpty && drainArrived t pn core op e' then endDrain t core warp op lo else t)
    | _ => .next s

/-! ## VPOP (R172) -/

/-- VPOP (R172). -/
def execVpop (d : BitVec 7) (s : State) : Host.Outcome State Fault Refusal :=
  runWord s (fun x => do
    let names := winRun x.w d 8
    let (s, i) ← longCheck s x [] names
    if i.nar = 0 then emptyLong s x i names []
    else
      let s ← splitNames s x i.nar names
      let (_, s) := issueLong s x (iNames names) (.vpop names i.nar) [] [] [] none
      .ok (s, .seq))

end Sys2Proof.Machine
end

