-- ==== Sys2Proof/Machine/System.lean ====
section
/-! DEFINITION. The system instructions (R278 to R282), and RTESET (R245), which checks as SWR does. -/

namespace Sys2Proof.Machine

open Sys2Proof

/-- An immediate as a trap value (R279). -/
def immVal (imm : BitVec 14) : DWord := imm.setWidth 64

/-- TRAP (R279). -/
def execTrap (imm : BitVec 14) (s : State) : Host.Outcome State Fault Refusal :=
  runWord s (fun _ => raise cSysTrap (immVal imm))

/-- BKPT (R279): the trap SYS_BREAKPOINT, or with the debug bit a stop at the next word, which is reported to Ryukel
(notes/assumptions/59.md). -/
def execBkpt (imm : BitVec 14) (s : State) : Host.Outcome State Fault Refusal :=
  runWord s (fun x =>
    if recDebug x.l.record then .ok (modPart (modW s x (fun w => { w with bkptStop := true })) x.pn (fun p =>
      { p with bkptStops := p.bkptStops ++ ([(x.c, x.slot, wordAddr x.sp x.sp.idx)] : List (Nat × Nat × PC)) }), .seq)
    else raise cBreakpoint (immVal imm))

/-- ERET (R280). -/
def execEret (s : State) : Host.Outcome State Fault Refusal :=
  runWord s (fun x => do
    needLast x
    raiseIf (!x.w.trapMode) cNotTrap 0
    match trapReturn s x with
    | some w => .ok (setWarp s x.c x.slot w, .placed)
    | none => raise cBadTarget x.w.tpc)

/-- Special registers by number (R32). -/
def specRead (s : State) (x : Ctx) (k : Nat) : DWord :=
  let r := x.l.record
  match k with
  | 0x00 => (curPath x).exec.setWidth 64
  | 0x01 => x.w.dead.setWidth 64
  | 0x02 => x.w.wb.setWidth 64
  | 0x03 => x.w.fpsr
  | 0x04 => x.w.gang
  | 0x05 => x.w.g[0]
  | 0x06 => x.w.g[1]
  | 0x07 => x.w.g[2]
  | 0x08 => x.w.g[3]
  | 0x09 => x.w.dstk
  | 0x0A => tv ((if x.sp.sec then 1 else 0) + (if (pathOf x.w (!x.sp.sec)).state = .vacant then 0 else 2))
  | 0x0C => tv x.slot
  | 0x0D => tv x.c
  | 0x0E => tv (if x.w.resp.isSome then 0xFFFFFFFF else x.w.lwarp)
  | 0x0F => tv (recNwarps r)
  | 0x10 => x.l.id.setWidth 64
  | 0x11 => tv x.l.tenant
  | 0x12 => (recPartw r).setWidth 64
  | 0x13 => x.w.tvec.setWidth 64
  | 0x28 => x.w.tpc
  | 0x29 => x.w.tcause.setWidth 64
  | 0x2A => x.w.tval
  | 0x30 => (coreOf s x.c).xcnt[0].setWidth 64
  | 0x31 => (coreOf s x.c).xcnt[1].setWidth 64
  | 0x32 => (coreOf s x.c).xcnt[2].setWidth 64
  | 0x33 => (coreOf s x.c).xcnt[3].setWidth 64
  | 0x34 => (coreOf s x.c).xcnt[4].setWidth 64
  | 0x35 => (coreOf s x.c).xcnt[5].setWidth 64
  | 0x40 => tv (recAbft r)
  | 0x41 => recAbfttol r
  | _ =>
    if decide (0x18 ≤ k) && decide (k ≤ 0x1F) then rteOf x.w (k - 0x18)
    else if decide (0x20 ≤ k) && decide (k ≤ 0x27) then
      (clOf s x.c x.w.launch).qd[(k - 0x20) % 8]'(Nat.mod_lt _ (by decide))
    else 0

/-- SRD (R281). -/
def execSrd (d : BitVec 6) (spec : BitVec 7) (s : State) : Host.Outcome State Fault Refusal :=
  runWord s (fun x => scalarWord x s [iS d] (fun w => setS w d (specRead s x spec.toNat)))

/-- SRD.V (R281): the lane number for LANEID, the low half of the register for any other. -/
def execSrdV (d spec : BitVec 7) (s : State) : Host.Outcome State Fault Refusal :=
  runWord s (fun x => laneWord x s [] [] [] (winName x.w d) (fun _ l =>
    if spec.toNat = 0x0B then BitVec.ofNat 32 l else (specRead s x spec.toNat).extractLsb' 0 32))

/-! ## SWR (R281) -/

/-- Whether a special register can be written at all (R32, R33). -/
def specWritable (w : Warp) (k : Nat) : Bool :=
  k == 0x03 || k == 0x04 || k == 0x09 || (decide (0x18 ≤ k) && decide (k ≤ 0x27))
    || (decide (0x28 ≤ k) && decide (k ≤ 0x2A) && w.trapMode)

/-- Whether GANG refuses a value (R21). -/
def gangBad (slot : Nat) (v : DWord) : Bool :=
  let size := field v 38 36
  let f (j : Nat) : Nat := field v (6 * j + 5) (6 * j)
  size == 1 || size == 7
    || (List.range 6).any (fun j => decide (j ≥ size) && f j != 0)
    || (List.range 6).any (fun j => (List.range j).any (fun i => decide (j < size) && f i == f j))
    || (size != 0 && !(List.range 6).any (fun j => decide (j < size) && f j == slot))

/-- The fields of a queue descriptor (R27). -/
def qdTail (v : DWord) : Nat := field v 55 48
def qdHead (v : DWord) : Nat := field v 47 40
def qdDepth (v : DWord) : Nat := field v 39 32
def qdEsize (v : DWord) : Nat := field v 31 20
def qdBase (v : DWord) : Nat := field v 19 0

/-- Whether a queue's ring reaches beyond scratchpad, or its entries have no size (R27, notes/assumptions/20.md). -/
def qdBad (x : Ctx) (v : DWord) : Bool :=
  qdDepth v != 0 && (qdEsize v == 0 || decide (16 * (qdBase v + qdEsize v * qdDepth v) > scratchBytes x.l))

/-- An operand queue's entry key in the map of entries. -/
def qKey (q e : Nat) : Nat := 256 * q + e

/-- Whether a queue holds any entry, one on its way included (R27). An EMPTY entry that a QPOP has claimed and waits for counts as
held (notes/assumptions/20.md). -/
def queueHolds (s : State) (c l q : Nat) : Bool :=
  (clOf s c l).qent.any (fun e => e.1 / 256 == q && (e.2.state != .empty || e.2.popped))
    || (coreOf s c).engines.any (fun o => o.2.launch == l && match o.2.kind with
      | .queueFill k _ _ _ => k == q
      | _ => false)

/-- Writes a queue descriptor: HEAD and TAIL stand at 0 and every entry is EMPTY (R27, R234, notes/assumptions/20.md). -/
def setQd (s : State) (c l q : Nat) (v : DWord) : State :=
  modCl s c l (fun h => { h with
    qd := h.qd.set (q % 8) (BitVec.ofNat 64 (field v 39 0)) (Nat.mod_lt _ (by decide))
    qent := h.qent.filter (fun e => e.1 / 256 != q) })

/-- SWR beyond its read-only check: the checks of R281 in order, then the write. -/
def specWrite (s : State) (x : Ctx) (k : Nat) (v : DWord) : Except Stop State :=
  let bad (b : Bool) : Except Stop Unit := raiseIf b cSpecialValue (tv k)
  if k = 0x03 then do
    bad (decide (field v 2 0 > 4) || field v 63 14 != 0 || field v 7 3 != 0)
    .ok (modW s x (fun w => { w with fpsr := v }))
  else if k = 0x04 then do
    bad (gangBad x.slot v)
    .ok (modW s x (fun w => { w with gang := BitVec.ofNat 64 (field v 38 0) }))
  else if k = 0x09 then do
    bad (field v 5 0 != 0 || field v 63 57 != 0)
    raiseIf (decide (x.w.prim.depth > 0) || decide (x.w.seco.depth > 0)) cSpecialBusy (tv k)
    .ok (modW s x (fun w => { w with dstk := v }))
  else if k ≤ 0x1F then do
    raiseIf (rteBad s (partOf s x.pn) v) cRouteBad v
    .ok (modW s x (fun w => setRte w (k - 0x18) v))
  else if k ≤ 0x27 then do
    bad (qdBad x v)
    raiseIf (queueHolds s x.c x.w.launch (k - 0x20)) 0x0505 (tv (k - 0x20))
    .ok (setQd s x.c x.w.launch (k - 0x20) v)
  else if k = 0x28 then do
    bad (field v 63 57 != 0)
    .ok (modW s x (fun w => { w with tpc := v }))
  else if k = 0x29 then do
    bad (field v 63 16 != 0)
    .ok (modW s x (fun w => { w with tcause := v.setWidth 16 }))
  else .ok (modW s x (fun w => { w with tval := v }))

/-- SWR (R33, R281). -/
def execSwr (spec : BitVec 7) (b : BitVec 6) (s : State) : Host.Outcome State Fault Refusal :=
  runWord s (fun x => do
    checkPending x.w [iS b]
    raiseIf (!specWritable x.w spec.toNat) cSpecialRo (tv spec.toNat)
    let s ← specWrite s x spec.toNat (sReg x.w b)
    .ok (s, .seq))

/-- RTESET (R245). -/
def execRteset (rte : BitVec 3) (a : BitVec 6) (s : State) : Host.Outcome State Fault Refusal :=
  runWord s (fun x => do
    checkPending x.w [iS a]
    raiseIf (rteBad s (partOf s x.pn) (sReg x.w a)) cRouteBad (sReg x.w a)
    .ok (modW s x (fun w => setRte w rte.toNat (sReg x.w a)), .seq))

/-- The later of two readings of a clock. -/
def laterOf (a b : DWord) : DWord := if a.toNat ≤ b.toNat then b else a

/-- GETTIME and GETTIME.CYC (R282): free values that never fall. -/
def execGettime (d : BitVec 6) (cyc : BitVec 1) (s : State) : Host.Outcome State Fault Refusal :=
  runWord s (fun x => do
    checkPending x.w [iS d]
    let (k, s) := takeFree s
    if cyc = 1#1 then
      let v := laterOf (coreOf s x.c).cycles (Config.freeDWord k)
      let s := modCore s x.c (fun q => { q with cycles := v })
      .ok (modW s x (fun w => setS w d v), .seq)
    else
      let v := laterOf (curPath x).time (Config.freeDWord k)
      .ok (modW s x (fun w => setS (modPath w x.sp.sec (fun p => { p with time := v })) d v), .seq))

end Sys2Proof.Machine
end

