-- ==== Sys2Proof/Machine/Feed.lean ====
section
/-! DEFINITION. Operand queues (R234 to R237) with the queue rule for their fills (R312), and feed programs (R232, R233). -/

namespace Sys2Proof.Machine

open Sys2Proof

/-! ## Queues -/

/-- A queue descriptor of a launch on a core (R27). -/
def qdOf (s : State) (c l q : Nat) : DWord := (clOf s c l).qd[q % 8]'(Nat.mod_lt _ (by decide))

/-- Replaces it. -/
def putQd (s : State) (c l q : Nat) (v : DWord) : State :=
  modCl s c l (fun h => { h with qd := h.qd.set (q % 8) v (Nat.mod_lt _ (by decide)) })

/-- An entry of a queue (R234). -/
def qEntry (s : State) (c l q e : Nat) : QEntry := fget (clOf s c l).qent (qKey q e) ⟨.empty, false⟩

/-- Changes an entry. -/
def modQEntry (s : State) (c l q e : Nat) (f : QEntry → QEntry) : State :=
  modCl s c l (fun h => { h with
    qent := fset h.qent (qKey q e) (f (fget h.qent (qKey q e) ⟨.empty, false⟩)) ⟨.empty, false⟩ })

/-- The fills of a queue that have not reached their entries (R235, R312). -/
def fillsWaiting (s : State) (c l q : Nat) : FMap EngineOp :=
  (coreOf s c).engines.filter (fun o => o.2.launch == l && match o.2.kind with
    | .queueFill k _ _ false => k == q
    | _ => false)

/-- A fill reaches its entry where that is EMPTY and no earlier fill of the queue is still refused; otherwise it is refused
(R235, R312). -/
def offerFill (s : State) (pn c o : Nat) : State :=
  match fget? (coreOf s c).engines o with
  | none => s
  | some e => match e.kind with
    | .queueFill q i d false =>
      if (qEntry s c e.launch q i).state = .empty ∧ (fillsWaiting s c e.launch q).all (fun w => decide (e.order ≤ w.2.order)) then
        modQEntry (modOp s c o (fun e => { e with kind := .queueFill q i d true })) c e.launch q i
          (fun v => { v with state := .filling })
      else countNak s pn c
    | _ => s

/-- Starts a fill of a queue's TAIL entry (R235). That a queue without entries is looked for before the row size is the model's
order (notes/assumptions/62.md). -/
def startQfeed (s : State) (pn c l q : Nat) (a b : DWord) : Except Stop (DWord × State) := do
  let qd := qdOf s c l q
  let size := 16 * qdEsize qd
  let rb := field b 31 0
  let stride := field b 63 32
  raiseIf (qdDepth qd == 0) cQueueOff (tv q)
  raiseIf (rb == 0 || rb % 16 != 0 || size % rb != 0 || stride % 16 != 0) cDescBad b
  parkIf (decide ((fillsWaiting s c l q).length ≥ field (reg (partOf s pn) .schNakcfg) 7 0))
  let i := qdTail qd
  let d : TileDesc := ⟨a.toNat, 16 * (qdBase qd + i * qdEsize qd), size / rb, rb, stride, rb, [], false⟩
  let (f, h, s) ← takeFuture s c l 11
  let s ← ownLines s pn c (launchOf s l).tenant (tileLines d) []
  let s := putQd s c l q (setField qd 55 48 ((i + 1) % qdDepth qd))
  let (o, s) := startOp s pn c l (some f) (.queueFill q i d false)
  .ok (h, offerFill s pn c o)

/-- QFEED (R235). -/
def execQfeed (d a : BitVec 6) (q : BitVec 3) (s : State) : Host.Outcome State Fault Refusal :=
  engineWord s (iSRun a 2) d (fun x => startQfeed s x.pn x.c x.w.launch q.toNat (sRun x.w a 0) (sRun x.w a 1))

/-- QFEED_FILL_COMPLETE (R235): once its granules have landed the entry is FULL. -/
def execQfeedFillComplete (core op : Nat) (s : State) : Host.Outcome State Fault Refusal :=
  match fget? (coreOf s core).engines op with
  | none => .next s
  | some e => match e.kind with
    | .queueFill q i _ true =>
      match e.failed with
      | some f => .next (failOp s core op f)
      | none =>
        if allWritten core e then
          .next (endOp (modQEntry s core e.launch q i (fun v => { v with state := .full })) core op .done 0 0)
        else .next s
    | _ => .next s

/-- The retry of a refused fill after its back-off: it and every later one of its queue are sent again, in order (R312). -/
def retryFills (s : State) (pn c o : Nat) : State :=
  match fget? (coreOf s c).engines o with
  | none => s
  | some e => match e.kind with
    | .queueFill q _ _ false =>
      ((fillsWaiting s c e.launch q).filter (fun w => decide (e.order ≤ w.2.order))).foldl (fun s w => offerFill s pn c w.1) s
    | _ => s

/-- QPOP (R236): claims the entry at HEAD. -/
def execQpop (d : BitVec 6) (q : BitVec 3) (s : State) : Host.Outcome State Fault Refusal :=
  runWord s (fun x => do
    checkPending x.w [iS d]
    if ctxActive x = 0 then .ok (markPending s x [iS d], .seq)
    else
      let l := x.w.launch
      let qd := qdOf s x.c l q.toNat
      let i := qdHead qd
      raiseIf (qdDepth qd == 0) cQueueOff (tv q.toNat)
      parkIf (qEntry s x.c l q.toNat i).popped
      let s := modQEntry s x.c l q.toNat i (fun v => { v with popped := true })
      let s := putQd s x.c l q.toNat (setField qd 47 40 ((i + 1) % qdDepth qd))
      let (_, s) := issueLong s x [iS d] (.qpop d q.toNat i) [] [] [] none
      .ok (s, .seq))

/-- QREL (R237). -/
def execQrel (q : BitVec 3) (b : BitVec 6) (s : State) : Host.Outcome State Fault Refusal :=
  runWord s (fun x => do
    checkPending x.w [iS b]
    let l := x.w.launch
    let qd := qdOf s x.c l q.toNat
    let i := field (sReg x.w b) 39 32
    let e := qEntry s x.c l q.toNat i
    raiseIf (decide (i ≥ qdDepth qd) || e.state != .full || !e.popped) cQueueState (tv i)
    let s := modCl s x.c l (fun h => setFull h ((List.range (qdEsize qd)).map (fun g => qdBase qd + i * qdEsize qd + g)) false)
    .ok (modQEntry s x.c l q.toNat i (fun _ => ⟨.empty, false⟩), .seq))

/-! ## Feed programs (R232, R233) -/

/-- FEEDGO (R232). An entry address with a nonzero bit above 56 ends the program at once (R56). -/
def execFeedgo (d a : BitVec 6) (s : State) : Host.Outcome State Fault Refusal :=
  engineWord s (iSRun a 2) d (fun x => do
    raiseIf (clOf s x.c x.w.launch).feed.isSome cFeedBusy 0
    let entry := sRun x.w a 0
    let (f, h, s) ← takeFuture s x.c x.w.launch 10
    let (o, s) := startOp s x.pn x.c x.w.launch (some f) .feedgo
    let regs : Vector DWord 64 := ((Vector.replicate 64 0).set 0 (sRun x.w a 1)).set 1
      (tv (if x.w.resp.isSome then 0xFFFFFFFF else x.w.lwarp))
    let s := modCl s x.c x.w.launch (fun q =>
      { q with feed := some ⟨o, entry.setWidth 57, entry.setWidth 57, regs, [], none, false, none⟩ })
    .ok (h, if entry.toNat ≥ 2 ^ 57 then endOp s x.c o .failed cBadTarget 0 else s))

/-- Whether an opcode is of the feed-legal subset (R233). -/
def feedOpcode (op : BitVec 9) : Bool :=
  let n := op.toNat
  (decide (0x020 ≤ n) && decide (n ≤ 0x053))
    || n == 0x120 || n == 0x121 || n == 0x129 || n == 0x12A || n == 0x182 || n == 0x183 || n == 0x1A0 || n == 0x1A4
    || n == 0x1AB

/-- The meaning of a word of the feed-legal subset other than EXIT (R233). -/
def feedMeaning (i : Instr) : Option (State → Host.Outcome State Fault Refusal) :=
  match i with
  | .sadd d a b => some (execSadd d a b)
  | .ssub d a b => some (execSsub d a b)
  | .smul d a b => some (execSmul d a b)
  | .smulh d a b => some (execSmulh d a b)
  | .sand d a b => some (execSand d a b)
  | .sor d a b => some (execSor d a b)
  | .sxor d a b => some (execSxor d a b)
  | .sshl d a b => some (execSshl d a b)
  | .sshr d a b => some (execSshr d a b)
  | .ssra d a b => some (execSsra d a b)
  | .smin d a b => some (execSmin d a b)
  | .smax d a b => some (execSmax d a b)
  | .saddImm d a v => some (execSaddImm d a v)
  | .ssubImm d a v => some (execSsubImm d a v)
  | .smulImm d a v => some (execSmulImm d a v)
  | .smulhImm d a v => some (execSmulhImm d a v)
  | .sandImm d a v => some (execSandImm d a v)
  | .sorImm d a v => some (execSorImm d a v)
  | .sxorImm d a v => some (execSxorImm d a v)
  | .sshlImm d a v => some (execSshlImm d a v)
  | .sshrImm d a v => some (execSshrImm d a v)
  | .ssraImm d a v => some (execSsraImm d a v)
  | .sminImm d a v => some (execSminImm d a v)
  | .smaxImm d a v => some (execSmaxImm d a v)
  | .scmp cc d a b => some (execScmp cc d a b)
  | .scmpImm cc d a v => some (execScmpImm cc d a v)
  | .ssel d a b => some (execSsel d a b)
  | .smov d a => some (execSmov d a)
  | .sldi d v => some (execSldi d v)
  | .slit d h v => some (execSlit d h v)
  | .bra off => some (execBra off)
  | .bru n k off => some (execBru n k off)
  | .nop => some execNop
  | .fwait a => some (execFwait a)
  | .tld d a => some (execTld d a)
  | .qfeed d a q => some (execQfeed d a q)
  | .bfill d a => some (execBfill d a)
  | .bfills d a k => some (execBfills d a k)
  | _ => none

/-- How a span of a feed program goes: to its end or to a word that must wait, with the registers it leaves, to EXIT, or to a word
that ends the program with a cause. `stuck` is a span with no word to run, which no program has. -/
inductive FeedRun where
  | go (s : State) (w : Warp)
  | waits (s : State) (w : Warp)
  | exited (s : State)
  | failed (s : State) (cause : Nat) (pc : PC)
  | stuck
deriving Repr

/-- The slot in which the feed engine's registers stand while a span of its program runs; no warp has it (R15). -/
def feedSlot : Nat := 64

/-- The cause of a trap that a word of a feed program raised, as the trap left it. -/
def feedCause (t : State) (c l : Nat) : Option Nat :=
  match warpOf? t c feedSlot with
  | none => (launchOf t l).term.map (·.ncause)
  | some v => if v.trapMode then some v.tcause.toNat else none

/-- Runs the words of a feed program's span from the current one on (R43, R47, R232, R233). -/
def runFeed (c : Nat) : Nat → State → FeedRun
  | 0, _ => .stuck
  | n + 1, s =>
    match ctxOf s with
    | none => .stuck
    | some x =>
      let w := spanWord x.sp x.sp.idx
      let pc := wordAddr x.sp x.sp.idx
      if !feedOpcode (wordOp w) then .failed s cFeedIllegal pc
      else match readWord s x with
      | .done t => .failed s ((feedCause t c x.w.launch).getD cIllegal) pc
      | .run i =>
        if i = .exit then (if wordE w then .exited s else .failed s cSpan pc)
        else match feedMeaning i with
        | none => .failed s cFeedIllegal pc
        | some f => match f s with
          | .next t => match feedCause t c x.w.launch, warpOf? t c feedSlot with
            | some cause, _ => .failed s cause pc
            | none, none => .stuck
            | none, some v => match v.span with
              | none => .go t v
              | some sp => if sp.idx = x.sp.idx then .waits t v else runFeed c n t
          | _ => .stuck

/-- Takes the feed engine's registers away again. -/
def clearFeedSlot (s : State) (c : Nat) : State := modCore s c (fun k => { k with warps := fdel k.warps feedSlot })

/-- Ends a feed program with a fault at a word; DETAIL is its word offset from the entry (R225, R233). -/
def failFeed (s : State) (c : Nat) (f : Feed) (cause : Nat) (pc : PC) : State :=
  endOp s c f.op .failed cause (BitVec.ofNat 32 ((pc - f.entry).toNat / 4))

/-- Runs the words of a span of a feed program until it ends or a word waits. A termination of the launch does not touch a program
that has started (R283), so none is seen while its words run. -/
def feedSpan (s : State) (c launch : Nat) (f : Feed) (sp : Span) : State :=
  let l := launchOf s launch
  let w : Warp := { warpReset launch 0 f.pc 0 0 (Vector.replicate 4 0) with
    s := f.s, tags := f.tags, span := some sp, tvec := f.pc }
  let s2 := modOp (setWarp { s with cur := (c, feedSlot) } c feedSlot w) c f.op (fun e => { e with passed := true })
  let s2 := modLaunch s2 launch (fun v => { v with term := none })
  let back (t : State) : State :=
    { modLaunch (clearFeedSlot t c) launch (fun v => { v with term := l.term }) with cur := s.cur }
  let put (t : State) (g : Feed) : State := modCl (back t) c launch (fun h => { h with feed := some g })
  match runFeed c 32 s2 with
  | .stuck => s
  | .waits t v => put t { f with
      s := v.s, tags := v.tags, started := true, span := v.span.map (fun sp => { sp with parked := false }) }
  | .exited t => endOp (back t) c f.op .done 0 0
  | .failed t cause pc => failFeed (back t) c f cause pc
  | .go t v => put t { f with
      pc := v.prim.pc, s := v.s, tags := v.tags, started := true, span := none
      wait := match v.prim.wait with
        | .future h => some h
        | _ => none }

/-- FEED_SPAN_ISSUE (R232, R233): the feed engine issues the next span of a program, whose block may have to come first (R294), or
goes on with the span in which a word waited; every WAIT mask counts as met. -/
def execFeedSpanIssue (core launch : Nat) (s : State) : Host.Outcome State Fault Refusal :=
  match (clOf s core launch).feed with
  | none => .next s
  | some f => match f.span with
    | some sp =>
      let v := (launchOf s launch).status
      .next (if v = .running ∨ v = .halting then feedSpan s core launch f sp else s)
    | none =>
      let l := launchOf s launch
      let pn := partOfCore s core
      if l.status ≠ .running ∨ l.stop.isSome ∨ (f.wait.map (handleComplete s)).getD true = false then .next s
      else
        let w : Warp := { warpReset launch 0 f.pc 0 0 (Vector.replicate 4 0) with s := f.s, tags := f.tags }
        let s1 := prepBlock s pn core l.id (askOp f.op) l.tenant f.pc.toNat
        let p := partOf s1 pn
        let sp := nextSpan s1 core pn l.tenant w false
        let i := f.pc.toNat % 128 / 4
        match fetchCause s1 p core l.tenant f.pc.toNat with
        | some code => .next (failFeed s1 core f code f.pc)
        | none =>
          if f.pc.toNat % 4 ≠ 0 then .next (failFeed s1 core f cBadTarget f.pc)
          else if blockAway s1 p core (askOp f.op) l.tenant f.pc.toNat then .next s1
          else
            let s1 := dropAnswers s1 pn (askOp f.op)
            if walkReaches sp.words i 33 0 = false then .next (failFeed s1 core f cBadTarget f.pc)
            else if headerFaulty sp.hword i then .next (failFeed s1 core f cSpan f.pc)
            else if tagsHold s1 w sp 1 then .next s
            else .next (feedSpan s1 core launch f sp)

end Sys2Proof.Machine
end

