-- ==== Sys2Proof/Machine/Capability.lean ====
section
/-! DEFINITION. The list of capabilities (R389): its headers, how a reader walks them, and where the module's list stands. -/

namespace Sys2Proof.Machine

open Sys2Proof

/-- A capability header (R389). -/
structure CapHeader where
  id : Nat
  version : Nat
  length : Nat
  next : Nat
deriving DecidableEq, Repr

/-- The bytes of a header. -/
def capBytes (h : CapHeader) : List Byte :=
  leBytes 8 (h.id * 2 ^ 48 + h.version % 256 * 2 ^ 40 + h.length) ++ leBytes 8 h.next

/-- A header from its 16 bytes. -/
def capOf (bs : List Byte) : CapHeader :=
  let w (i : Nat) : DWord := (dwordsOf bs 2).getD i 0
  ⟨field (w 0) 63 48, field (w 0) 47 40, field (w 0) 31 0, field (w 1) 31 0⟩

/-- The identifiers that the spec gives: Thorel revision, matrix families, Troy key slots, SCT, hardware migration, PTP profiles. -/
def capIds : List Nat := [1, 2, 3, 4, 5, 6]

/-- The identifiers that a walk finds from an offset on, by the headers at each offset: it ends at NEXT 0, and at one that is no
multiple of 16 or does not exceed the offset; an identifier that the walker does not know is skipped. -/
def capWalk (known : List Nat) (at_ : Nat → CapHeader) : Nat → Nat → List Nat
  | 0, _ => []
  | n + 1, off =>
    let h := at_ off
    (if known.contains h.id then [h.id] else [])
      ++ (if h.next = 0 ∨ h.next % 16 ≠ 0 ∨ h.next ≤ off then [] else capWalk known at_ n h.next)

/-- The module's list (notes/assumptions/68.md): a header for each identifier, one behind another, the last with NEXT 0. -/
def capList : List CapHeader :=
  capIds.map (fun i => ⟨i, Config.capVersion i, 16, if i = 6 then 0 else 16 * i⟩)

/-- The bytes of the list from CAP_BASE on. -/
def capRegion : List Byte := capList.flatMap capBytes

/-- A read at a physical address from CAP_BASE on, where it lies in the list. -/
def capRead (base pa n : Nat) : Option (List Byte) :=
  if base ≤ pa ∧ pa + n ≤ base + 16 * capList.length then some ((capRegion.drop (pa - base)).take n) else none

end Sys2Proof.Machine
end

