-- ==== Sys2Proof/Machine/Sct.lean ====
section
/-! DEFINITION. Salken Collective Transport at a port: what becomes of a received packet (R240 to R244, R340 to R347), and
the replays of R312 and R345. -/

namespace Sys2Proof.Machine

open Sys2Proof

/-! ## Answers -/

/-- The receiving half of a stream. -/
def streamIn (p : Partition) (k : Nat) : StreamIn := fget p.inn k ⟨0, false, [], false⟩

/-- Changes it. -/
def modIn (s : State) (pn k : Nat) (f : StreamIn → StreamIn) : State :=
  modPart s pn (fun p => { p with inn := fput p.inn k (f (streamIn p k)) })

/-- The stream that a packet came in on. -/
def inKey (k : SctPacket) : Nat := streamKey k.src k.qp.toNat

/-- The number that an acknowledgment carries: every lower one has been stored, or accepted by NEXT (R340, R342). -/
def ackPoint (p : Partition) (key : Nat) : BitVec 32 :=
  let st := streamIn p key
  let open_ := st.held.map (·.pkt.seq) ++ (p.forwards.filter (fun f => f.inKey == key)).map (·.inPkt.seq)
  st.expect - BitVec.ofNat 32 (open_.foldl (fun m q => max m (st.expect - q).toNat) 0)

/-- Acknowledges what a stream has stored (R340, R342). -/
def sendAck (s : State) (pn : Nat) (k : SctPacket) : State :=
  sendLoose s pn { packetTo (partOf s pn) .ack k.src k.qp with seq := ackPoint (partOf s pn) (inKey k) }

/-- Refuses a packet (R341); a permanent refusal with a cause of its own names it (notes/assumptions/15.md). -/
def sendNak (s : State) (pn : Nat) (k : SctPacket) (seq : BitVec 32) (err : Bool) (cause : Nat) : State :=
  sendLoose s pn { packetTo (partOf s pn) .nak k.src k.qp with
    seq := seq, err := err, payload := if cause = cPerm then [] else leBytes 16 cause }

/-! ## Ingress (R240, R341, R342) -/

/-- What a receiver does with a packet that is next in its stream: takes it, refuses it for now, or for good. -/
inductive Taken where
  | done (s : State)
  | busy (s : State)
  | refused (s : State) (cause : Nat)
deriving DecidableEq, Repr

/-- One element of an ingress combine: local first, incoming second (R240). -/
def combineElem (etype op : Nat) (a b : Nat) : Nat :=
  match etype with
  | 0 => (combineF op (a, .none) (b, .none)).1
  | 1 =>
    let r := (combineF op (a * 2 ^ 16, .none) (b * 2 ^ 16, .none)).1
    (roundVal .bf16 .rne false (unpack .f32 r)).1
  | _ =>
    let x := sextNat 32 a
    let y := sextNat 32 b
    if op = 0 then (a + b) % 2 ^ 32
    else if op = 1 then (if x < y then b else a)
    else (if y < x then b else a)

/-- The bytes of a combined packet (R240). -/
def combineBytes (etype op : Nat) (a b : List Byte) : List Byte :=
  let n := if etype = 1 then 2 else 4
  (List.range (b.length / n)).flatMap (fun i =>
    leBytes n (combineElem etype op (leNat ((a.drop (n * i)).take n)) (leNat ((b.drop (n * i)).take n))))

/-- A receive window's fields (R341). -/
def winTenant (e : List DWord) : Nat := field (e.getD 0 0) 55 48
def winBase (e : List DWord) : Nat := (e.getD 1 0).toNat
def winLen (e : List DWord) : Nat := (e.getD 2 0).toNat

/-- Whether a line at a port's destination must wait, so that its packet is refused for now (R216, R294, R328, R341): another
agent owns it, its block is still to be read, or the write-back scanner holds stores to it. -/
def ingressHeld (s : State) (p : Partition) (pn key asid line : Nat) : Bool :=
  lineOwned s pn asid line (fun _ _ => false) || streamOwns p (some key) asid line
    || lineUnread s p asid line || lineHeldByScan s p asid line

/-- Writes a run of bytes from the port at its home slices, which fetch the lines that they miss (R216, R292, R342). -/
def ingressWrite (s : State) (pn asid va : Nat) (bs : List Byte) : State :=
  let lines := pieces 128 va bs.length
  lines.foldl (fun s l => homeWrite (llcNow s pn asid l) pn none asid l
      (((placed bs).filter (fun e => (va + e.1) / 128 == l)).map (fun e => ((va + e.1) % 128, e.2))))
    (recallLines s pn (lines.map (fun l => (asid, l))))

/-- The combining slots of the port that a stream comes in at: held by reducing packets of FINAL chunks and by forwarded
packets (R342). A stream's port is its number modulo the ports of the partition (notes/assumptions/15.md). -/
def slotsHeld (p : Partition) (key : Nat) : Nat :=
  let n := max 1 (octsOf p).length
  let here (k : Nat) : Bool := k % n == key % n
  ((p.inn.filter (fun e => here e.1)).map (fun e => (e.2.held.filter (fun k => decide (k.pkt.kind ≥ 2))).length)).sum
    + (p.forwards.filter (fun f => here f.inKey)).length

/-- The result bytes of a packet at its place in a window (R240): its own, or combined with the local operand; none where
that holds poison (R369). -/
def ingressBytes (s : State) (p : Partition) (asid va : Nat) (k : SctPacket) : Option (List Byte) :=
  if k.kind < 2 then some k.payload
  else
    let l := homeReadN s p asid va k.payload.length
    if l.any (·.2) then none else some (combineBytes k.etype k.op (l.map (·.1)) k.payload)

/-- The rank that a forwarded packet goes to (R342). -/
def nextRank (p : Partition) (k : SctPacket) : Nat := if rteRank k.next = 0xFFFF then ownRank p else rteRank k.next

/-- Why a packet cannot go on to NEXT (R345; notes/assumptions/15.md): NEXT is no peer, or is fenced. -/
def nextFault (s : State) (p : Partition) (k : SctPacket) : Option Nat :=
  let r := nextRank p k
  if r = ownRank p then none
  else if !isPeer s p r then some cRouteBad
  else if peerFenced s p r then some cAborted
  else none

/-- Sends a FORWARD_REDUCE packet on to the NEXT of its entry (R240, R342). Whether NEXT is the last hop, and what NEXT goes on to
where it is not, the entry does not say: free values (notes/assumptions/15.md). -/
def forwardPacket (s : State) (pn : Nat) (k : SctPacket) (bs : List Byte) : State :=
  let (n, s) := takeFree s
  let (m, s) := takeFree s
  let last := (Config.freeDWord n).getLsbD 0
  let q := { packetTo (partOf s pn) .data (nextRank (partOf s pn) k) (BitVec.ofNat 32 (rteQp k.next)) with
    first := k.first, last := k.last, final := k.final, roff := k.roff, tree := k.tree
    kind := if last then 2 else 3, op := k.op, etype := k.etype, next := if last then 0 else Config.freeDWord m, payload := bs }
  let key := streamKey q.dst q.qp.toNat
  let seq := (streamOf (partOf s pn) key).next
  let s := modPart s pn (fun p => { p with forwards := p.forwards ++ ([⟨inKey k, k, key, seq⟩] : List Forward) })
  sendPacket s pn q none

/-- Bumps the counter of a window after a chunk has been stored, every packet of it (R341). -/
def bumpWindow (s : State) (pn : Nat) (e : List DWord) (k : SctPacket) (broken : Bool) : State :=
  if k.last && !broken && (e.getD 0 0).getLsbD 40 && k.kind != 3 then counterAdd s pn (field (e.getD 0 0) 39 32) 1 else s

/-- The failure of R180 that keeps a port from bytes, if any (R229, R270): a packet that is stored is written, and one that is
combined reads its local operand. -/
def ingressFault (s : State) (pn tenant va : Nat) (k : SctPacket) : Option OpFault :=
  let n := k.payload.length
  mergeFault (if k.kind = 3 then none else runFault s pn tenant va n 0 .write)
    (if k.kind ≥ 2 then runFault s pn tenant va n 0 .read else none)

/-- Stores, or forwards, packets of a window in order (R342), or says why one cannot be: an operand holds poison, or NEXT is out
of reach. -/
def storePackets (s : State) (pn asid : Nat) (e : List DWord) : List SctPacket → Except Nat State
  | [] => .ok s
  | k :: ks =>
    let va := winBase e + k.roff.toNat
    let s := if k.kind ≥ 2 then (pieces 128 va k.payload.length).foldl (fun s l => llcNow s pn asid l) s else s
    match ingressBytes s (partOf s pn) asid va k with
    | none => .error cRelUe
    | some bs =>
      if k.kind = 3 then
        match nextFault s (partOf s pn) k with
        | some c => .error c
        | none => storePackets (forwardPacket s pn k bs) pn asid e ks
      else storePackets (ingressWrite s pn asid va bs) pn asid e ks

/-- A DATA packet to a receive window (R240, R243, R341, R342). A FINAL chunk makes this rank COMPLETE also where it is sent on
(notes/assumptions/62.md). -/
def takeWindow (s : State) (pn : Nat) (k : SctPacket) : Taken :=
  let p := partOf s pn
  let e := windowEntry s p (k.qp.toNat % 4096)
  let t := winTenant e
  let va := winBase e + k.roff.toNat
  if !(e.getD 0 0).getLsbD 63 || decide (k.roff.toNat + k.payload.length > winLen e) then .refused s cPerm
  else
    let s := prepRange s pn none t (if k.kind = 3 then .read else .write) va k.payload.length
    let p := partOf s pn
    let key := inKey k
    let broken := (streamIn p key).broken && !k.first
    match asidFor p t va, ingressFault s pn t va k with
    | none, _ => .refused s cPage
    | _, some f => .refused s f.2.1
    | some asid, none =>
      let lines := pieces 128 va k.payload.length
      if (broken && k.final) || lines.any (fun l => (peerOf s p asid (128 * l)).isSome) then .refused s cPerm
      else if (decide (k.kind ≥ 2) && decide (slotsHeld p key ≥ 512)) || lines.any (ingressHeld s p pn key asid) then .busy s
      else if k.final && !k.last then
        .done (modIn (recallLines s pn (lines.map (fun l => (asid, l)))) pn key (fun i => { i with
          held := i.held ++ ([⟨k, asid, lines⟩] : List HeldPacket) }))
      else
        let all := if k.final then (streamIn p key).held.map (·.pkt) ++ [k] else [k]
        match storePackets s pn asid e all with
        | .error c => .refused s c
        | .ok s =>
          let s := if k.final then
              modTree (modIn s pn key (fun i => { i with held := [] })) pn k.tree (fun a => { a with complete := true })
            else s
          .done (bumpWindow s pn e k broken)

/-- Before a peer's access to a line of ASID 0, a line that no slice holds or fetches is translated (R292, R318, R346), and a lost home
is reported (R378). -/
def prepLine0 (s : State) (pn : Nat) (k : Acc) (line : Nat) : State :=
  let s := reportRun s pn none (128 * line) 1
  if (lineKept (partOf s pn) 0 line).isSome then s else prepPage s pn none 0 0 k (line / 32)

/-- A store to a line of this partition from a peer (R346); a Troy page refuses it as ingress (R270). -/
def takePeerStore (s : State) (pn : Nat) (k : SctPacket) : Taken :=
  let va := k.roff.toNat
  if k.kind != 0 || k.payload.length != 128 || !k.first || !k.last || va % 128 != 0 || decide (va ≥ 2 ^ 57) then .refused s cPerm
  else
    let s := prepLine0 s pn .write (va / 128)
    let p := partOf s pn
    match lineCause s p 0 0 (va / 128) .write with
    | some c => .refused s (if c.2 = cTroyStore then cTroyEngine else cPerm)
    | none =>
    if (peerOf s p 0 va).isSome then .refused s cPerm
    else if ingressHeld s p pn (inKey k) 0 (va / 128) then .busy s
    else .done (ingressWrite s pn 0 va k.payload)

/-- A DATA packet whose turn has come (R244, R341). Packets of a tree that is aborted here are dropped, and acknowledged
(notes/assumptions/43.md). -/
def takeData (s : State) (pn : Nat) (k : SctPacket) : Taken :=
  if decide (k.qp.toNat ≥ 4096) || decide (k.kind > 3) || (decide (k.kind ≥ 2) && (k.op == 3 || k.etype == 3)) then
    .refused s cPerm
  else if k.qp.toNat = 0xFFF then takePeerStore s pn k
  else if k.kind ≠ 0 ∧ (treeOf (partOf s pn) k.tree).aborted then .done s
  else takeWindow s pn k

/-- Whether a packet comes from a sender that may send (R344): a peer that is not fenced, or this rank itself, whose packets to
itself come off its own port (R23). -/
def fromPeer (s : State) (p : Partition) (k : SctPacket) : Bool :=
  if k.src = ownRank p then p.wire.any (· == k) else isPeer s p k.src && !peerFenced s p k.src

/-- Whether a DATA packet's LEN is one that R340 gives. -/
def lenOk (k : SctPacket) : Bool :=
  k.type != .data || (decide (16 ≤ k.payload.length) && decide (k.payload.length ≤ 8192) && k.payload.length % 16 == 0)

/-- A received packet, if its sender may send (R340, R344): one of another version or length is dropped, and one of another sender
is dropped and counted. -/
def receive (s : State) (pn : Nat) (k : SctPacket) (f : State → State) : State :=
  if k.ver ≠ 1 ∨ ¬ lenOk k then s
  else if fromPeer s (partOf s pn) k then
    f (if k.src = ownRank (partOf s pn) then modPart s pn (fun p => { p with wire := p.wire.erase k }) else s)
  else modPart s pn (fun p => setReg p .netRxdrop 0 (tv (satAdd (reg p .netRxdrop).toNat 1 (2 ^ 48 - 1))))

/-- Whether a partition migrates, or has migrated in doubt: its ports refuse every packet for now (R366, R367). -/
def migrating (p : Partition) : Bool := p.stoppedForGood || (p.cmd.map (·.op)) == some 4

/-- A packet of a stream: in sequence it is taken or refused; after a refusal all are dropped until the refused one comes
again; one that has been taken already is acknowledged again; another is refused by the number awaited (R312, R341). -/
def inSequence (s : State) (pn : Nat) (k : SctPacket) (f : State → Taken) : State :=
  let key := inKey k
  let st := streamIn (partOf s pn) key
  if k.seq ≠ st.expect then
    if (k.seq - st.expect).toNat ≥ 2 ^ 31 then sendAck s pn k
    else if st.refusing then s
    else sendNak (modIn s pn key (fun i => { i with refusing := true })) pn k st.expect false cPerm
  else match (if migrating (partOf s pn) then .busy s else f s) with
    | .done s => sendAck (modIn s pn key (fun i => { i with
        expect := i.expect + 1, refusing := false, broken := i.broken && !(k.first || k.last) })) pn k
    | .busy s => sendNak (modIn s pn key (fun i => { i with refusing := true })) pn k k.seq false cPerm
    | .refused s c =>
      sendNak (modIn s pn key (fun i => { i with
        expect := i.expect + 1, refusing := false, held := [], broken := !k.last })) pn k k.seq true c

/-- SCT_DATA (R341). -/
def execSctData (part : Nat) (p : SctPacket) (s : State) : Host.Outcome State Fault Refusal :=
  .next (receive s part p (fun s => inSequence s part p (fun s => takeData s part p)))

/-! ## Acknowledgments (R241, R340, R342) -/

/-- One packet of an operation has been acknowledged; with the last, a posted entry completes and its counter rises
(R241). -/
def packetDone (s : State) (pn : Nat) (owner : Option (Nat × Nat)) : State :=
  match owner with
  | none => s
  | some (c, o) => match fget? (coreOf s c).engines o with
    | none => s
    | some e => match e.kind with
      | .post q =>
        if q.unacked > 1 then modOp s c o (fun e => { e with kind := .post { q with unacked := q.unacked - 1 } })
        else endOp (if postDonev q.w then counterAdd s pn (postDonecnt q.w) 1 else s) c o .done 0 0
      | _ => s

/-- The forwarded packets that went out as one of these are done: what they came in as is acknowledged (R342). -/
def forwardsDone (s : State) (pn key : Nat) (seqs : List (BitVec 32)) : State :=
  let gone := (partOf s pn).forwards.filter (fun f => f.outKey == key && seqs.any (· == f.outSeq))
  let s := modPart s pn (fun p => { p with
    forwards := p.forwards.filter (fun f => !(f.outKey == key && seqs.any (· == f.outSeq))) })
  gone.foldl (fun s f => sendAck s pn f.inPkt) s

/-- The packets that an acknowledgment covers: those before its number (R340). -/
def ackedBy (o : StreamOut) (seq : BitVec 32) : List (SctPacket × Option (Nat × Nat)) :=
  (o.unacked.take o.sent).filter (fun u => decide (0 < (seq - u.1.seq).toNat) && decide ((seq - u.1.seq).toNat < 2 ^ 31))

/-- SCT_ACK (R241, R340, R342). -/
def execSctAck (part : Nat) (p : SctPacket) (s : State) : Host.Outcome State Fault Refusal :=
  .next (receive s part p (fun s =>
    let key := inKey p
    let o := streamOf (partOf s part) key
    let l := ackedBy o p.seq
    if l.isEmpty then s
    else
      let s := modPart s part (fun q => { q with out := fput q.out key { o with
        unacked := o.unacked.drop l.length, sent := o.sent - l.length, retries := 0 } })
      let s := l.foldl (fun s u => packetDone s part u.2) s
      pumpStream (forwardsDone s part key (l.map (·.1.seq))) part key))

/-! ## Refusals (R312, R341, R346) -/

/-- Ends a drain to a peer: its flag clears and its rows are discarded (R345). -/
def dropDrain (s : State) (c o : Nat) (e : EngineOp) : State :=
  match e.kind with
  | .drain w lo _ _ _ _ _ _ => endDrain s c w o lo
  | _ => s

/-- A packet has been refused for good (R341, R346): its operation ends, a store to a peer's line raises REL_UE, and a
forwarded packet is refused to the rank it came from. -/
def packetRefused (s : State) (pn key : Nat) (u : SctPacket × Option (Nat × Nat)) (cause : Nat) : State :=
  let s := match u.2 with
    | none => s
    | some (c, o) => match fget? (coreOf s c).engines o with
      | none => s
      | some e => match e.kind with
        | .drain _ _ _ _ _ _ _ _ => dropDrain s c o e
        | _ => endOp s c o .failed cause 0
  let s := if u.1.type = .data ∧ u.1.qp.toNat % 4096 = 0xFFF then raiseUe s pn 0xFF u.1.roff.toNat 9 else s
  let fwd := (partOf s pn).forwards.filter (fun f => f.outKey == key && f.outSeq == u.1.seq)
  let s := modPart s pn (fun p => { p with
    forwards := p.forwards.filter (fun f => !(f.outKey == key && f.outSeq == u.1.seq)) })
  fwd.foldl (fun s f => sendNak s pn f.inPkt f.inPkt.seq true cause) s

/-- The back-off after a refusal: BASE, doubled after each further one of the same entry, up to MAX (R312). -/
def backoffFor (p : Partition) (last : Option (BitVec 32 × Nat)) (seq : BitVec 32) : Nat :=
  let v := reg p .schNakcfg
  match last with
  | some (q, n) => if q = seq then min (2 * n) (field v 63 48) else field v 31 16
  | none => field v 31 16

/-- A refusal of a packet of a stream (R312, R341). -/
def streamNak (s : State) (pn : Nat) (k : SctPacket) : State :=
  let key := inKey k
  let o := streamOf (partOf s pn) key
  match (o.unacked.take o.sent).findIdx? (fun u => u.1.seq == k.seq), (o.unacked.take o.sent).find? (fun u => u.1.seq == k.seq) with
  | some i, some u =>
    if k.err then
      let s := modPart s pn (fun p => { p with out := fput p.out key { o with
        unacked := o.unacked.eraseIdx i, sent := o.sent - 1, retries := 0 } })
      pumpStream (packetRefused s pn key u (if k.payload.isEmpty then cPerm else leNat (k.payload.take 2))) pn key
    else
      let n := backoffFor (partOf s pn) o.nak k.seq
      modPart s pn (fun p => { p with out := fput p.out key { o with
        sent := i, backoff := some n, nak := some (k.seq, n) } })
  | _, _ => s

/-- A peer has answered a line request: the line, or none for a failed one (R346). An asker that has gone takes nothing, and the
peer's silence counts from here again (R345). -/
def answerLine (s : State) (pn : Nat) (k : SctPacket) (rsp : Option (List Byte)) : State :=
  modPart s pn (fun p => { p with
    peerLines := p.peerLines.filterMap (fun l =>
      if l.rank = k.src ∧ 128 * l.line = k.roff.toNat ∧ l.rsp = none then l.who.map (fun _ => { l with rsp := some rsp })
      else some l)
    out := fput p.out (streamKey k.src 7) { streamOf p (streamKey k.src 7) with retries := 0 } })

/-- A peer's refusal of a line request (R346): for good, the line is uncorrectable; for now, it is asked again. -/
def lineNak (s : State) (pn : Nat) (k : SctPacket) : State :=
  if k.err then answerLine s pn k none
  else if (partOf s pn).peerLines.any (fun l => l.rank == k.src && 128 * l.line == k.roff.toNat && l.rsp.isNone) then
    sendLoose s pn { packetTo (partOf s pn) .lineReq k.src 0xFFF with roff := k.roff }
  else s

/-- SCT_NAK (R312, R341, R346). A refusal of a line request carries FIRST (notes/assumptions/15.md). -/
def execSctNak (part : Nat) (p : SctPacket) (s : State) : Host.Outcome State Fault Refusal :=
  .next (receive s part p (fun s => if p.first then lineNak s part p else streamNak s part p))

/-! ## Launches, aborts and states (R244, R307, R347) -/

/-- Drops a network launch and counts it (R307). -/
def dropNet (s : State) (pn tenant reason : Nat) : State :=
  modPart s pn (fun p => setReg p .schNetrej 0
    (tv (reason * 2 ^ 60 + tenant * 2 ^ 48 + satAdd (field (reg p .schNetrej) 47 0) 1 (2 ^ 48 - 1))))

/-- The launch table's entry of a tenant, none where it cannot be read, with the state after its line has been touched (R307). -/
def launchEntry (s : State) (pn t : Nat) : Option (List DWord) × State :=
  let r := sysRead s pn 0 (32 * field (reg (partOf s pn) .schLtbase) 56 5 + 32 * t) 32
  (r.1.map (fun b => dwordsOf b 4), r.2)

/-- Whether an address lies in a tenant's code range (R307). -/
def inCode (e : List DWord) (a : Nat) : Bool :=
  decide ((e.getD 0 0).toNat ≤ a) && decide (a < (e.getD 0 0).toNat + (e.getD 1 0).toNat)

/-- The port's checks of a launch packet (R307). When the window of 1 ms ends is a free value. -/
def checkNet (s : State) (pn t : Nat) (bs : List Byte) : State :=
  let r := dwordsOf bs 16
  match launchEntry s pn t with
  | (none, s) => dropNet s pn t 1
  | (some e, s) =>
    if !(e.getD 3 0).getLsbD 0 then dropNet s pn t 1
    else if !inCode e (field (r.getD 0 0) 56 0) || (field (r.getD 1 0) 56 0 != 0 && !inCode e (field (r.getD 1 0) 56 0))
        || !inCode e (r.getD 9 0).toNat then dropNet s pn t 2
    else if field (r.getD 2 0) 63 32 > field (e.getD 2 0) 63 32 then dropNet s pn t 3
    else
      let (k, s) := takeFree s
      let s := if (Config.freeDWord k).getLsbD 0 then modPart s pn (fun p => { p with netWindow := [] }) else s
      let n := fget (partOf s pn).netWindow t 0
      if n ≥ field (e.getD 2 0) 31 0 then dropNet s pn t 4
      else
        let q : PendingRecord := ⟨0, t, BitVec.ofNat 32 (2 ^ 31 + (partOf s pn).netCount % 2 ^ 30), .net, some bs⟩
        modPart s pn (fun p => { p with
          netWindow := fput p.netWindow t (n + 1), netCount := p.netCount + 1
          pending := p.pending ++ ([q] : List PendingRecord) })

/-- SCT_LAUNCH (R347). -/
def execSctLaunch (part : Nat) (p : SctPacket) (s : State) : Host.Outcome State Fault Refusal :=
  .next (receive s part p (fun s => inSequence s part p (fun s =>
    let w := BitVec.ofNat 64 (leNat (p.payload.take 8))
    if (partOf s part).restart.isSome then .busy s
    else if !peerLok s (partOf s part) p.src || decide (p.payload.length < 136) || field w 63 8 != 0 then .refused s cPerm
    else .done (checkNet s part (field w 7 0) ((p.payload.drop 8).take 128)))))

/-- An abort that reaches a rank (R244): where it is the root, the sender will have the bitmap. -/
def takeAbort (s : State) (pn t src : Nat) : State :=
  let a := treeOf (partOf s pn) t
  match a.bitmap with
  | some bits =>
    if (treeRanks s (partOf s pn) t).head? = some (ownRank (partOf s pn)) then
      sendPacket s pn { packetTo (partOf s pn) .state src 0 with tree := t, payload := bitmapBytes bits } none
    else s
  | none =>
    let s := modTree s pn t (fun a => { a with remote := setAdd a.remote src })
    if a.aborted then s else sendReport (abortHere (touchTree s pn t) pn t) pn t

/-- SCT_ABORT (R244). -/
def execSctAbort (part : Nat) (p : SctPacket) (s : State) : Host.Outcome State Fault Refusal :=
  .next (receive s part p (fun s => inSequence s part p (fun s => .done (takeAbort s part p.tree p.src))))

/-- The bits of a bitmap as a packet carries it. -/
def bitmapOf (n : Nat) (bs : List Byte) : List Bool := (List.range n).map (fun i => (bs.getD (i / 8) 0).getLsbD (i % 8))

/-- SCT_STATE (R244, R345): at the root a report of a member, or about one that its sender has fenced; elsewhere the root's
bitmap. -/
def execSctState (part : Nat) (p : SctPacket) (s : State) : Host.Outcome State Fault Refusal :=
  .next (receive s part p (fun s => inSequence s part p (fun s =>
    let s := touchTree s part p.tree
    let q := partOf s part
    let head := (p.payload.headD 0).toNat
    if (treeRanks s q p.tree).head? = some (ownRank q) then
      .done (if head.testBit 1 then reportState s part p.tree (leNat ((p.payload.drop 2).take 2)) (head.testBit 0) true
        else reportState s part p.tree p.src (head.testBit 0) false)
    else
      let bits := bitmapOf (treeSize s q p.tree) p.payload
      let a := treeOf q p.tree
      let s := modTree s part p.tree (fun a => { a with bitmap := some bits, issuers := [] })
      .done (a.issuers.foldl (fun s e => writeBitmap s e.1 e.2 bits) s))))

/-! ## Lines (R294, R346) -/

/-- SCT_LINE_REQ (R346): the line at its home in ASID 0; refused for good where its translation fails or it is
uncorrectable, for now while it is held or the partition migrates (R367). -/
def execSctLineReq (part : Nat) (p : SctPacket) (s : State) : Host.Outcome State Fault Refusal :=
  .next (receive s part p (fun s =>
    let line := p.roff.toNat / 128
    let nak (err : Bool) : SctPacket := { packetTo (partOf s part) .nak p.src 0xFFF with first := true, err := err, roff := p.roff }
    if migrating (partOf s part) then sendLoose s part (nak false)
    else
      let s := if line < 2 ^ 50 then prepLine0 s part .read line else s
      let q := partOf s part
      if decide (line ≥ 2 ^ 50) || (lineCause s q 0 0 line .read).isSome || (peerOf s q 0 (128 * line)).isSome then
        sendLoose s part (nak true)
      else if lineHeldByOthers s part 0 line || lineUnread s q 0 line then sendLoose s part (nak false)
      else
        let s := llcNow s part 0 line
        let l := homeReadN s (partOf s part) 0 (128 * line) 128
        if l.any (·.2) then sendLoose s part (nak true)
        else sendLoose s part { packetTo q .lineRsp p.src 0xFFF with roff := p.roff, payload := l.map (·.1) }))

/-- SCT_LINE_RSP (R346). -/
def execSctLineRsp (part : Nat) (p : SctPacket) (s : State) : Host.Outcome State Fault Refusal :=
  .next (receive s part p (fun s => answerLine s part p (if p.payload.length = 128 then some p.payload else none)))

/-! ## Replays (R312, R345) -/

/-- NAK_BACKOFF_EXPIRE (R312): after its back-off a sender sends the refused entry and every later one again. -/
def execNakBackoffExpire (part : Nat) (who : Sender) (s : State) : Host.Outcome State Fault Refusal :=
  match who with
  | .feedFill c o => .next (retryFills s part c o)
  | .census c => .next (modCore s c (fun k => { k with refusing := false }))
  | .asker c o => .next (resendToRoot s part c o)
  | .sct dst qp =>
    let key := streamKey dst qp
    .next (pumpStream (modPart s part (fun p => { p with
      out := fput p.out key { streamOf p key with backoff := none } })) part key)

/-- Sets FENCED of a peer in the peer table (R344, R345). -/
def setFenced (s : State) (pn rank : Nat) : State :=
  let p := partOf s pn
  physStore s pn (4096 * field (reg p .netPeerbase) 45 12 + 32 * rank)
    (placed (bytesOf64 ((peerEntry s p rank).getD 0 0 ||| (1#64 <<< 62))))

/-- The peer that a drain or a fired entry waits for has been fenced (R345). -/
def fenceOp (s : State) (pn c o rank : Nat) (e : EngineOp) : State :=
  match e.kind with
  | .drain _ _ _ 3 _ _ route _ => if routeRank (partOf s pn) route = rank then dropDrain s c o e else s
  | .post q => if q.fired ∧ routeRank (partOf s pn) q.route = rank then endOp s c o .failed cAborted 0 else s
  | _ => s

/-- The valid trees that list a rank (R343, R345). -/
def treesWith (s : State) (p : Partition) (rank : Nat) : List Nat :=
  (List.range 256).filter (fun t => ((treeEntry s p t).getD 0 0).getLsbD 63 && (treeRanks s p t).any (· == rank))

/-- A migration whose peer has been fenced (R366): in doubt once COMMIT has gone out, failed before that. -/
def fenceMigration (p : Partition) (rank : Nat) : Partition :=
  match p.cmd with
  | none => p
  | some c =>
    if c.op ≠ 4 ∨ c.rank ≠ rank then p
    else match c.step with
      | .commit => { setReg p .parCmdst 0 (tv 3) with cmd := none, stoppedForGood := true }
      | .stream => { setReg p .parCmdst 0 (tv 1) with cmd := none, osStopped := false }
      | _ => p

/-- A tree that lists a fenced peer is aborted, and the peer's bit is clear at the root (R244, R345). -/
def fenceTree (s : State) (pn rank t : Nat) : State :=
  let s := if (treeOf (partOf s pn) t).aborted then s else startAbort s pn t
  match (treeRanks s (partOf s pn) t).head? with
  | none => s
  | some r =>
    if r = ownRank (partOf s pn) then reportState s pn t rank false true
    else if r = rank ∨ peerFenced s (partOf s pn) r then s
    else sendState s pn t r false (some rank)

/-- Fences a peer (R345). What it was to forward is refused to the ranks that sent it. -/
def fencePeer (s : State) (pn rank : Nat) : State :=
  let s := postEvent (setFenced s pn rank) pn 0x090B 0xFF 0xFF 0 0 (tv rank)
  let s := s.cores.foldl (fun s e => if partOfCore s e.1 = pn then
      (coreOf s e.1).engines.foldl (fun s o => fenceOp s pn e.1 o.1 rank o.2) s else s) s
  let lost := (partOf s pn).forwards.filter (fun f => f.outKey / 8 == rank)
  let s := modPart s pn (fun p => { fenceMigration p rank with
    out := p.out.map (fun e => if e.1 / 8 = rank then
      (e.1, { e.2 with unacked := [], sent := 0, retries := 0, backoff := none, nak := none }) else e)
    forwards := p.forwards.filter (fun f => f.outKey / 8 != rank)
    peerLines := p.peerLines.filterMap (fun l =>
      if l.rank = rank ∧ l.rsp = none then l.who.map (fun _ => { l with rsp := some none }) else some l) })
  let s := lost.foldl (fun s f => sendNak s pn f.inPkt f.inPkt.seq true cAborted) s
  (treesWith s (partOf s pn) rank).foldl (fun s t => fenceTree (touchTree s pn t) pn rank t) s

/-- SCT_ACK_TIMEOUT (R345): a stream with packets not acknowledged is replayed, or after RETRY replays its peer fenced. Line
requests that have no answer yet go with the stream of QP 0xFFF (R346). -/
def execSctAckTimeout (part dst qp : Nat) (s : State) : Host.Outcome State Fault Refusal :=
  let p := partOf s part
  let key := streamKey dst qp
  let o := streamOf p key
  let asks := p.peerLines.filter (fun l => l.rank == dst && l.rsp.isNone && qp % 8 == 7)
  if o.sent = 0 ∧ asks = [] then .next s
  else if o.retries ≥ field (reg p .netSctcfg) 39 32 then .next (fencePeer s part dst)
  else
    let s := modPart s part (fun p => { p with out := fput p.out key { o with sent := 0, retries := o.retries + 1 } })
    .next (pumpStream (asks.foldl (fun s l => sendLoose s part { packetTo p .lineReq dst 0xFFF with
      roff := BitVec.ofNat 64 (128 * l.line) }) s) part key)

end Sys2Proof.Machine
end

