-- ==== Sys2Proof/Machine/HomeEvents.lean ====
section
/-! DEFINITION. Writes at the home slices, invalidations and line fetches as events (R205, R216, R290, R291, R294, R325,
R328, R346, R417). -/

namespace Sys2Proof.Machine

open Sys2Proof

/-- Takes a waiting store of a core off its queue. -/
def popStore (s : State) (c n : Nat) : State := modCore s c (fun k => { k with storeQ := k.storeQ.eraseIdx n })

/-- Whether two writes of a line touch a common byte, or a unit that one of them poisons. -/
def bytesMeet (a b : List (Nat × Option Byte)) : Bool :=
  a.any (fun e => b.any (fun f => e.1 == f.1 || ((e.2.isNone || f.2.isNone) && e.1 / 16 == f.1 / 16)))

/-- Whether an earlier store of the core touches a byte of the store at a place in its queue, which then waits for it (R205).
Stores with no byte in common may perform in any order (R212 to R214). -/
def storeBehind (q : List StoreReq) (n : Nat) (r : StoreReq) : Bool :=
  (q.take n).any (fun e => !e.early && e.asid == r.asid && e.line == r.line && bytesMeet e.bytes r.bytes)

/-- A peer's line with a store's bytes put into it. -/
def mergeLine (line : List Byte) (bs : List (Nat × Option Byte)) : List Byte :=
  bs.foldl (fun l e => match e.2 with
    | some b => l.set e.1 b
    | none => l) line

/-- A store to a peer's line goes out as the whole line (R346); one that covers only part of it first asks for the line.
What cannot be carried, a poison mark or a line that the peer cannot give, raises REL_UE, and the store is not performed; a
store to a fenced peer is lost (R345, R369, notes/assumptions/15.md). -/
def peerStore (s : State) (pn c n rank : Nat) (r : StoreReq) : State :=
  let p := partOf s pn
  let send (line : List Byte) : State := sendPeerLine (popStore s c n) pn r.asid rank r.line line
  if !isPeer s p rank || peerFenced s p rank then popStore s c n
  else if r.bytes.any (fun e => e.2.isNone) then coreUe (popStore s c n) c (launchOf s r.launch).id (128 * r.line) 9
  else if peerStoreOut p rank r.line then s
  else match p.peerLines.find? (fun l => l.rank == rank && l.line == r.line) with
    | none =>
      if (List.range 128).all (fun i => r.bytes.any (fun e => e.1 == i)) then send (mergeLine (leBytes 128 0) r.bytes)
      else sendLoose (modPart s pn (fun p => { p with
        peerLines := p.peerLines ++ ([⟨some (askStore c), r.asid, rank, r.line, none⟩] : List PeerLine) }))
        pn { packetTo p .lineReq rank 0xFFF with roff := BitVec.ofNat 64 (128 * r.line) }
    | some l => match l.rsp with
      | none => s
      | some none => dropAnswers (coreUe (popStore s c n) c (launchOf s r.launch).id (128 * r.line) 9) pn (askStore c)
      | some (some bs) => send (mergeLine bs r.bytes)

/-- Whether a waiting store is held at its home slice (R216, R294, R328). -/
def storeHeld (s : State) (p : Partition) (pn : Nat) (r : StoreReq) : Bool :=
  lineHeldByOthers s pn r.asid r.line || lineAway s p r.asid r.line || lineHeldByScan s p r.asid r.line
    || lineUnread s p r.asid r.line

/-- The oldest store of a warp that has not reached the L1, from a place of the queue back (R211): stores leave in order. -/
def firstEarly (q : List StoreReq) (n : Nat) (r : StoreReq) : Bool :=
  r.early && !(q.take n).any (fun e => e.early && e.warp == r.warp)

/-- A waiting store of a core goes on: into the L1 where it has not reached it, in the order of its warp's stores (R208, R211);
else it performs at its home slice, unless an earlier one touches its bytes or it is held there (R205, R216, R291, R294). One whose line
then has no translation that a store may use is lost (notes/assumptions/16.md). -/
def coreStore (s : State) (c n : Nat) : State :=
  match (coreOf s c).storeQ[n]? with
  | none => s
  | some r =>
    if r.early then (if firstEarly (coreOf s c).storeQ n r then reachL1 s c (fun e => e == r) else s)
    else if storeBehind (coreOf s c).storeQ n r then s
    else
      let pn := partOfCore s c
      let who : Who := some (c, (launchOf s r.launch).id)
      let tenant := ownerOf r.tenant r.asid
      let s := if (lineKept (partOf s pn) r.asid r.line).isSome then s
        else prepPage s pn who tenant r.asid .write (r.line / 32)
      let p := partOf s pn
      if (lineCause s p tenant r.asid r.line .write).isSome then popStore s c n
      else match peerOf s p r.asid (128 * r.line) with
      | some rank => if r.warp ≠ 64 ∧ lineHeldByOthers s pn r.asid r.line then s else peerStore s pn c n rank r
      | none =>
        if storeHeld s p pn r then llcTouch s pn r.asid r.line
        else popStore (reportLost (homeWrite s pn (some c) r.asid r.line r.bytes) pn who (128 * r.line)) c n

/-! ## Frames outside a partition (R349, R375) -/

/-- The frame outside a partition that an access to a physical address names, if it does. -/
def gpcOutside (p : Partition) (pa n : Nat) : Option Nat := (pieces 4096 pa n).find? (fun f => !frameIn p f)

/-- A refused access outside the partition (R375). -/
def gpcRefuse (s : State) (pn frame : Nat) : State := gpcViolation s pn 2 0 (tv frame)

/-! ## Invalidations and fetches -/

/-- L1_INVALIDATE (R291): an invalidation reaches an L1, whose copy goes. An L1 may give a copy up at any time (R290). -/
def execL1Invalidate (core line : Nat) (s : State) : Host.Outcome State Fault Refusal :=
  .next (modCore s core (fun k => { k with
    l1 := k.l1.filter (fun l => l.line != line), invals := k.invals.filter (fun i => i.2 != line) }))

/-- LINE_FETCH_COMPLETE (R294, R325): the line has come to its home slice; a file-backed one waits for its block. -/
def execLineFetchComplete (part idx : Nat) (s : State) : Host.Outcome State Fault Refusal :=
  match (partOf s part).fetches[idx]? with
  | none => .next s
  | some f =>
    if (frameOf s f.frame).fb ∧ (frameOf s f.frame).rd = false then .next s
    else .next (lineCame s part f)

/-- FILE_BLOCK_READ (R294, R328): the storage port has read the frame's block into it. -/
def execFileBlockRead (part frame : Nat) (data : List Byte) (s : State) : Host.Outcome State Fault Refusal :=
  let e := frameOf s frame
  if !frameIn (partOf s part) frame || !e.fb || e.rd || data.length != 4096 then .next s
  else
    .next (modFrame (physWrite s (partOf s part) e.keyid (4096 * frame) (placed data)) frame (fun e => { e with rd := true }))

end Sys2Proof.Machine
end

