-- ==== Sys2Proof/Machine/Preempt.lean ====
section
/-! DEFINITION. Pre-emption (R50, R356 to R359): the request that stops a launch, the stopping of its paths, what a stopped
launch leaves behind, and its release. -/

namespace Sys2Proof.Machine

open Sys2Proof

/-- The warps of a launch that stand on a core, with their slots. -/
def warpsOn (s : State) (c l : Nat) : List (Nat × Warp) := (coreOf s c).warps.filter (fun e => e.2.launch == l)

/-- Whether every path of a warp has stopped: a VACANT path has nothing to stop (R357). -/
def warpStopped (w : Warp) : Bool :=
  w.span.isNone && (w.prim.state == .vacant || w.prim.stopped.isSome) && (w.seco.state == .vacant || w.seco.stopped.isSome)

/-- The live set of a stopped warp: the OR of its paths' words, zero for a VACANT path (R357). -/
def liveSet (w : Warp) : Word :=
  let of_ (p : Path) : Word := if p.state = .vacant then 0 else p.stopped.getD 0
  of_ w.prim ||| of_ w.seco

/-- Unmaps the names of the blocks whose bit is clear (R358). -/
def discardNames (s : State) (c slot : Nat) (live : Word) : State :=
  ((List.range 16).filter (fun j => !live.getLsbD j)).foldl (fun s j =>
    (List.range 32).foldl (fun s i => dropName s c slot (32 * j + i)) s) s

/-- Whether a launch keeps every row of its halted warps: a restart of Ryukel asks it to stop (R377). -/
def keepsRows (s : State) (l : Nat) : Bool := ((launchOf s l).stop.map (·.freeze)).getD false

/-- Discards the state of a launch on a core whose live bit is clear, once all its warps there have stopped (R358). The freeze of a
restart discards no row: no name is unmapped, and no hand-off reference dropped (R377). -/
def discardDead (s : State) (c l : Nat) : State :=
  let ws := warpsOn s c l
  if ws.isEmpty || !ws.all (fun e => warpStopped e.2) then s
  else
    let all := ws.foldl (fun m e => m ||| liveSet e.2) 0#32
    let s := if keepsRows s l then s else ws.foldl (fun s e => discardNames s c e.1 (liveSet e.2)) s
    let s := if all.getLsbD 16 then s else modCl s c l (fun h => { h with
      qent := [], qd := Vector.ofFn (fun i : Fin 8 => BitVec.ofNat 64 (field h.qd[i.val] 39 0)) })
    let s := if all.getLsbD 17 then s else modCore s c (fun k => { k with drainQ := k.drainQ.filter (fun d => d.launch != l) })
    let s := if all.getLsbD 18 || keepsRows s l then s else
      let refs := (clOf s c l).hslots.flatMap (·.2)
      modCl (refs.foldl (fun s r => dropRef s c (launchOf s l).tenant r) s) c l (fun h => { h with hslots := [] })
    modCl s c l (fun h => { h with accs := h.accs.filter (fun a => all.getLsbD (20 + a.1 / 8)) })

/-- The frames of Ryukel (R376): ASZ_RKLEN frames from frame ASZ_RKBASE on (notes/assumptions/25.md). -/
def kernelFrames (p : Partition) : List Nat :=
  (List.range (reg p .aszRklen).toNat).map (fun i => (reg p .aszRkbase).toNat + i)

/-- The frame at a place of Ryukel's frames at a restart (R324, R377): scrubbed, and written from the measured copy where the image
reaches it. The image stands from the first frame on, and what lies behind it is data (notes/assumptions/25.md). -/
def restoreFrame (s : State) (pn i : Nat) : State :=
  let p := partOf s pn
  let f := (reg p .aszRkbase).toNat + i
  physStore (scrubFrame (dropFrameLines s pn f) f) pn (4096 * f) (placed ((p.kernelImage.drop (4096 * i)).take 4096))

/-- The adoption table (R377): one record of 16 bytes per halted launch. -/
def adoptionTable (s : State) (pn : Nat) : List Byte :=
  (s.launches.filter (fun e => e.2.part == pn && e.2.status == .halted)).flatMap (fun e =>
    bytesOf64 (BitVec.ofNat 64 (classOf e.2 * 2 ^ 40 + e.2.tenant * 2 ^ 32 + e.2.id.toNat)) ++ leBytes 8 0)

/-- Puts the adoption table into Ryukel's frames behind its image and its address into a0 (R377). Where behind the image is not
stated, so a free value says, in steps of a record; with no room for it there, no table is written (notes/assumptions/25.md). -/
def placeTable (s : State) (pn : Nat) : State :=
  let p := partOf s pn
  let table := adoptionTable s pn
  let first := ceilDiv p.kernelImage.length 16
  let room := 256 * (reg p .aszRklen).toNat
  let (k, s) := takeFree s
  if first + table.length / 16 > room then modPart s pn (fun p => { p with kernelA0 := Config.freeDWord k })
  else
    let at_ := 4096 * (reg p .aszRkbase).toNat + 16 * (first + Config.freeNat k % (room - first - table.length / 16 + 1))
    physStore (modPart s pn (fun p => { p with kernelA0 := tv at_ })) pn at_ (placed table)

/-- Step 2 of a restart (R377), once every launch of the partition is halted in place; it waits for no launch that has been
terminated. A copy that is not the image that was measured does not run (R382). -/
def runRestart (s : State) (pn : Nat) : State :=
  match (partOf s pn).restart with
  | none => s
  | some r =>
    if r.ran || (partOf s pn).kernelDown
        || s.launches.any (fun e => e.2.part == pn && e.2.term.isNone && (e.2.status == .running || e.2.status == .halting))
    then s
    else if sha3 (partOf s pn).kernelImage ≠ (partOf s pn).meas3 then modPart s pn (fun p => { p with kernelDown := true })
    else
      let s := (List.range (reg (partOf s pn) .aszRklen).toNat).foldl (fun s i => restoreFrame s pn i) s
      let s := placeTable s pn
      modPart s pn (fun p => { setReg p .aszRkctl 0 (setField (reg p .aszRkctl) 31 0 (field (reg p .aszRkctl) 31 0 + 1)) with
        restart := some ⟨true⟩ })

/-- Halts a launch in place once every warp of it has stopped (R359); the last of its warps on a core to stop may have been one that
retired, so the dead state is discarded now at the latest (R358). -/
def haltIfStopped (s : State) (l : Nat) : State :=
  let v := launchOf s l
  let cs := s.cores.map (·.1)
  if v.status ≠ .halting ∨ ¬ cs.all (fun c => (warpsOn s c l).all (fun e => warpStopped e.2)) then s
  else
    let s := cs.foldl (fun s c => discardDead s c l) s
    let (k, s) := takeStamp s
    let s := cs.foldl (fun s c => modCore s c (fun q => { q with
      warps := q.warps.map (fun e => if e.2.launch = l then (e.1, { e.2 with halted := true }) else e) })) s
    runRestart (modLaunch s l (fun v => { v with status := .halted, haltedAt := k })) v.part

/-- Whether a path waits at a span boundary (R357): for another path, behind trap mode, or for a start condition. -/
def pathWaits (s : State) (c slot : Nat) (w : Warp) (sec : Bool) : Bool :=
  (pathOf w sec).state == .joining || (w.trapMode && w.trapSec != sec) || !spanCanStart s c slot w sec

/-- The word that a path supplies if it can stop now (R357): the live-mask word of a safe point, zero for a VACANT path,
every bit at another boundary. A scan test stops it at safe points only (R380). -/
def stopWord (s : State) (c slot : Nat) (w : Warp) (sec : Bool) (r : StopReq) : Option Word :=
  let p := pathOf w sec
  if w.deferred.isSome || (w.span.map (·.sec)) == some sec then none
  else if p.state = .vacant then some 0
  else match p.atSafePoint with
    | some lw => some lw
    | none => if r.firm && (r.overdue || pathWaits s c slot w sec) then some 0xFFFFFFFF#32 else none

/-- Stops a path of a launch that has been asked to stop, if it can stop now (R357); its MMA arrival is withdrawn (R155). -/
def stopPath (s : State) (c slot : Nat) (sec : Bool) : State :=
  match warpOf? s c slot with
  | none => s
  | some w => match (launchOf s w.launch).stop with
    | none => s
    | some r =>
      if (pathOf w sec).stopped.isSome then s
      else match stopWord s c slot w sec r with
        | none => s
        | some lw =>
          let w := modPath w sec (fun p => { p with stopped := some lw })
          setWarp s c slot { w with arrival := w.arrival.filter (fun a => a.sec != sec) }

/-- Stops every path of a launch that waits or stands at a safe point when the request comes, and discards the dead state of the cores
where that stops the last (R357, R358). -/
def stopStanding (s : State) (l : Nat) : State :=
  s.cores.foldl (fun s e =>
    discardDead ((warpsOn s e.1 l).foldl (fun s w => stopPath (stopPath s e.1 w.1 false) e.1 w.1 true) s) e.1 l) s

/-- Asks a running launch to stop (R356), or one that has been asked, for another asker as well; paths that wait stop at once
(R357). -/
def requestStop (s : State) (l : Nat) (k : StopKind) : State :=
  let v := launchOf s l
  if v.term.isSome then s
  else match v.status, v.stop with
    | .running, _ =>
      haltIfStopped (stopStanding (modLaunch s l (fun v => { v with status := .halting, stop := some (stopNone.put k true) })) l) l
    | .halting, some r => haltIfStopped (stopStanding (modLaunch s l (fun v => { v with stop := some (r.put k true) })) l) l
    | .halted, some r => modLaunch s l (fun v => { v with stop := some (r.put k true) })
    | _, _ => s

/-- A path that runs again after a stop; it still stands at the safe point where it may have stopped (R50). -/
def pathGo (p : Path) : Path := { p with stopped := none }

/-- A warp that runs again after a stop. -/
def warpGo (w : Warp) : Warp := { w with halted := false, prim := pathGo w.prim, seco := pathGo w.seco }

/-- Lets the warps of a launch run again where they stand. -/
def releaseLaunch (s : State) (l : Nat) : State :=
  let s := s.cores.foldl (fun s e => modCore s e.1 (fun q => { q with
    warps := q.warps.map (fun e => if e.2.launch = l then (e.1, warpGo e.2) else e) })) s
  modLaunch s l (fun v => { v with status := .running, stop := none })

/-- An asker withdraws its request (R354, R380): a launch that has not halted runs on unless others still ask; a halted one may be
resumed. A budget is counted for no scan test. -/
def withdrawStop (s : State) (l : Nat) (k : StopKind) : State :=
  match (launchOf s l).stop with
  | none => s
  | some r =>
    let q := r.put k false
    if (launchOf s l).status = .halting ∧ q.firm = false ∧ q.scan = false then releaseLaunch s l
    else modLaunch s l (fun v => { v with stop := some { q with overdue := q.overdue && q.firm } })

/-- PATH_STOP (R357, R358): a path of a launch that has been asked to stop stops. With the last path on the core, the dead state there
is discarded; with the last of all, the launch is halted. -/
def execPathStop (core warp : Nat) (sec : Bool) (s : State) : Host.Outcome State Fault Refusal :=
  match warpOf? s core warp with
  | none => .next s
  | some w =>
    if (launchOf s w.launch).stop.isNone ∨ (launchOf s w.launch).status ≠ .halting then .next s
    else .next (haltIfStopped (discardDead (stopPath s core warp sec) core w.launch) w.launch)

/-- PREEMPT_BUDGET_EXPIRE (R357): from now on every path of the launch stops at its next span boundary. A scan test has no
budget (R380). -/
def execPreemptBudgetExpire (launch : Nat) (s : State) : Host.Outcome State Fault Refusal :=
  .next (modLaunch s launch (fun v => { v with stop := v.stop.map (fun r => { r with overdue := r.overdue || r.firm }) }))

end Sys2Proof.Machine
end

