-- ==== Sys2Proof/Machine/Launches.lean ====
section
/-! DEFINITION. Launch records and their checks (R299 to R303), completion and termination records (R284, R308), the end of
a launch (R230), and the tear-down of a tenant (R247, R311). -/

namespace Sys2Proof.Machine

open Sys2Proof

/-! ## Completion records (R284, R308) -/

/-- The four words of a termination record (R284). -/
def termWords (id : BitVec 32) (t : TermRecord) : List DWord :=
  let bit (b : Bool) (n : Nat) : Nat := if b then 2 ^ n else 0
  [tv (t.cause * 2 ^ 48 + bit t.user 34 + bit t.byKernel 33 + id.toNat), t.tpc,
    tv (t.ncause * 2 ^ 48 + t.tval.toNat % 2 ^ 48),
    tv (t.core * 2 ^ 56 + t.wslot * 2 ^ 50 + bit t.path 49 + t.lwarp)]

/-- A record without a warp: a normal end, a refusal, or a termination before placement (R308). -/
def plainTerm (cause : Nat) (byKernel : Bool) (tval : DWord) : TermRecord :=
  ⟨cause, false, byKernel, 0, 0, tval, 0, 0, false, 0⟩

/-- Writes the completion records that the dispatcher holds, while the ring takes them (R308); none while Ryukel restarts
(R377). -/
def flushCompletions (s : State) (pn : Nat) : State :=
  if (partOf s pn).restart.isSome then s
  else
    let p := partOf s pn
    let s := if p.heldCompletions.isEmpty ∨ ringUsed (reg p .schCqi) ≥ ringSize (reg p .schCq) then s
      else sysReport s pn 0 (ringTail p .schCq .schCqi 32) 32
    let (s, rest) := flushHeld s pn .schCq .schCqi (partOf s pn).heldCompletions
    modPart s pn (fun p => { p with heldCompletions := rest })

/-- A completion record goes behind those that the dispatcher holds (R308). -/
def pushCompletion (s : State) (pn : Nat) (r : List DWord) : State :=
  flushCompletions (modPart s pn (fun p => { p with heldCompletions := p.heldCompletions ++ ([r] : List (List DWord)) })) pn

/-- COMPLETION_RING_HEAD (R308, R311): Ryukel has taken entries, so held records are written. -/
def execCompletionRingHead (part : Nat) (head : BitVec 32) (s : State) : Host.Outcome State Fault Refusal :=
  .next (flushCompletions (modPart s part (fun p =>
    setReg p .schCqi 0 (setField (reg p .schCqi) 31 0 head.toNat))) part)

/-! ## Reading a record (R299 to R303) -/

/-- Whether a zero field of a record is nonzero or a field lies outside its range (R24, R299); PARTW's Reserved bits are not looked
at (R9). -/
def recordBad (r : LaunchRec) : Bool :=
  let w (i hi lo : Nat) : Bool := field (r.toList.getD i 0) hi lo != 0
  w 0 63 57 || w 1 63 57 || w 2 31 26 || w 2 15 11 || w 3 63 32 || w 4 63 57 || w 5 63 53 || w 5 34 32
    || w 6 63 57 || w 7 63 12 || (List.range 5).any (fun i => w (11 + i) 63 0)
    || recNwarps r == 0 || decide (recNwarps r > 9216) || recMaxblk r == 0 || decide (recMaxblk r > 64)
    || decide (recGrainl r > 6) || recDsbase r % 64 != 0 || decide (recDstkn r > 1024) || decide (recRslots r > 64)
    || recRbase r % 1024 != 0 || recGtab r % 32 != 0 || decide (recAbft r > 2) || decide (recNgroups r > 256)
    || decide (recRegu r < 8) || decide (recUnits r > 96) || decide (recAccs r > 64) || decide (recHos r > 64)

/-- The cores on which a launch may stand: of OCTMASK's octants, not fenced (R299, R303). -/
def openCores (s : State) (p : Partition) (r : LaunchRec) : List Nat :=
  (coresOf p).filter (fun c => (recOctmask r).testBit (octOf c) && !(coreOf s c).fenced)

/-- Whether a record breaks a rule of R303 that needs no group table. -/
def shapeBad (s : State) (p : Partition) (tenant : Nat) (r : LaunchRec) : Bool :=
  recordBad r
    || recOctmask r == 0 || (bitsSet 8 (recOctmask r)).any (fun o => !(octMask p).testBit o)
    || decide (recClass r < field (reg p .schTctl tenant) 9 8)
    || decide (recRbase r + 1024 * recRslots r > 32768 * recSpu r)
    || decide (recGrain r * recMaxblk r > 64)
    || decide (ceilDiv (recNwarps r) (recGrain r) > recMaxblk r * (openCores s p r).length)

/-- The members of a group from the 32 bytes of its entry (R300). -/
def groupMembers (ws : List DWord) : List Nat :=
  ws.foldl (fun m v => (List.range (field v 63 32)).foldl (fun m i => setAdd m (field v 31 0 + i)) m) []

/-- Whether a range of a group's entry reaches beyond the launch's warps (R303). -/
def rangeBad (nwarps : Nat) (v : DWord) : Bool := field v 63 32 != 0 && decide (field v 31 0 + field v 63 32 > nwarps)

/-- Reads a run of bytes for the dispatcher in a tenant's space: the cause and address of its failure (R180, R303), or its
bytes; an uncorrectable byte fails it with REL_UE. -/
def dispRead (s : State) (pn tenant va n : Nat) : Except (Nat × Nat) (List Byte) :=
  match rangeCause s (partOf s pn) tenant va n .read with
  | some c =>
    let at_ (v : Nat) : Nat := max va (4096 * v)
    .error (c.2, (((pieces 4096 va n).find? (fun v =>
      (rangeCause s (partOf s pn) tenant (at_ v) 1 .read).map (·.2) == some c.2)).map at_).getD va)
  | none =>
    let bs := homeReadN s (partOf s pn) ((asidFor (partOf s pn) tenant va).getD 0) va n
    if bs.any (·.2) then .error (cRelUe, va) else .ok (bs.map (·.1))

/-- Reads the lines of a run of bytes of a tenant into their slices, for an agent whose waiting the model does not show (R294,
notes/assumptions/16.md). -/
def touchRun (s : State) (pn tenant va n : Nat) : State :=
  (pieces 128 va n).foldl (fun s l => match asidFor (partOf s pn) tenant (128 * l) with
    | some a => if l < 2 ^ 50 then llcNow s pn a l else s
    | none => s) (prepRange s pn none tenant .read va n)

/-- A record from its bytes (R299). -/
def recordOf (bs : List Byte) : LaunchRec := Vector.ofFn (fun i : Fin 16 => (dwordsOf bs 16).getD i.val 0)

/-- Whether a run of bytes of a tenant has still to come before the dispatcher can read it (R294, R328). -/
def runAway (s : State) (p : Partition) (tenant : Nat) (r : Nat × Nat) : Bool :=
  (pieces 128 r.1 r.2).any (fun l => match asidFor p tenant (128 * l) with
    | some a => decide (l < 2 ^ 50) && (lineUnread s p a l || lineUnanswered s p ((coresOf p).headD 0) askDisp a l)
    | none => false)

/-- Asks peers for the lines of a run of bytes of a tenant for the dispatcher (R346). -/
def askRun (s : State) (pn tenant : Nat) (r : Nat × Nat) : State :=
  (pieces 128 r.1 r.2).foldl (fun s l => match asidFor (partOf s pn) tenant (128 * l) with
    | some a => if l < 2 ^ 50 then askLine s pn ((coresOf (partOf s pn)).headD 0) askDisp a l else s
    | none => s) s

/-- Before a record is checked, it and its group table are read into their slices (R303). -/
def touchRecord (s : State) (pn : Nat) (q : PendingRecord) : State :=
  let s := if q.bytes.isNone ∧ q.addr % 128 = 0 then touchRun s pn q.tenant q.addr 128 else s
  match (match q.bytes with
    | some b => Except.ok b
    | none => dispRead s pn q.tenant q.addr 128) with
  | .error _ => s
  | .ok bs =>
    let r := recordOf bs
    if shapeBad s (partOf s pn) q.tenant r then s else touchRun s pn q.tenant (recGtab r) (32 * recNgroups r)

/-- The checks of a record in order, on what its source gave (R247, R303): the record and its groups, or the cause of its
refusal with an address. -/
def checkRecord (s : State) (pn : Nat) (q : PendingRecord) : Except (Nat × Nat) (LaunchRec × List (List Nat)) := do
  if q.bytes.isNone && q.addr % 128 != 0 then throw (cMisaligned, q.addr)
  let p := partOf s pn
  if !(reg p .schTctl q.tenant).getLsbD 0 then throw (cCtxGone, 0)
  let bs ← match q.bytes with
    | some b => .ok b
    | none => dispRead s pn q.tenant q.addr 128
  let r := recordOf bs
  if shapeBad s p q.tenant r then throw (cLaunchShape, 0)
  let g ← if recNgroups r = 0 then .ok [] else dispRead s pn q.tenant (recGtab r) (32 * recNgroups r)
  let entries := (List.range (recNgroups r)).map (fun i => dwordsOf (g.drop (32 * i)) 4)
  if entries.any (fun e => e.any (rangeBad (recNwarps r))) then throw (cLaunchShape, 0)
  let groups := entries.map groupMembers
  if (List.range (recNwarps r)).any (fun m => decide ((groups.filter (fun l => setMem l m)).length > 4)) then
    throw (cLaunchShape, 0)
  .ok (r, groups)

/-- What the dispatcher reads of a record and for it, as far as its checks come: the record, its groups, and the code that is measured
(R303, R386). What follows bytes that have still to come is not known yet. -/
def recordRuns (s : State) (pn : Nat) (q : PendingRecord) : List (Nat × Nat) :=
  let p := partOf s pn
  let first := if q.bytes.isNone ∧ q.addr % 128 = 0 then [(q.addr, 128)] else []
  if first.any (runAway s p q.tenant) then first
  else match (match q.bytes with
    | some b => Except.ok b
    | none => dispRead s pn q.tenant q.addr 128) with
    | .error _ => first
    | .ok bs =>
      let r := recordOf bs
      if shapeBad s p q.tenant r then first
      else
        let groups := first ++ ([(recGtab r, 32 * recNgroups r)] : List (Nat × Nat))
        if groups.any (runAway s p q.tenant) then groups
        else match checkRecord s pn q with
          | .error _ => groups
          | .ok _ => groups ++ ([(recCbase r, recClen r + recAlen r)] : List (Nat × Nat))

/-- The measurement of a launch (R386). -/
def measureOf (s : State) (p : Partition) (asid : Nat) (r : LaunchRec) : BitVec 256 :=
  let code := (homeReadN s p asid (recCbase r) (recClen r + recAlen r)).map (·.1)
  let words := (List.range 16).map (fun i => if i = 4 ∨ i = 6 ∨ i ≥ 11 then 0#64 else r.toList.getD i 0)
  sha3 (code ++ words.flatMap bytesOf64)

/-! ## RECORD_CHECK -/

/-- Whether a submission ring holds an entry (R311). -/
def ringWaits (p : Partition) (cls : Nat) : Bool := ringSize (reg p .schSq cls) != 0 && ringUsed (reg p .schSqi cls) != 0

/-- Takes the next entry of a submission ring, of those that hold one the lowest (R302, R304, R311); an entry that cannot be read
counts as one of zeros (notes/assumptions/16.md), and one whose block has still to come waits for it (R294). -/
def takeRing (s : State) (pn cls : Nat) : Option (PendingRecord × State) :=
  let p := partOf s pn
  let v := reg p .schSq cls
  let i := reg p .schSqi cls
  if p.restart.isSome || !ringWaits p cls || (List.range cls).any (ringWaits p)
    || lineUnread s p 0 ((4096 * field v 56 12 + 16 * (field i 31 0 % ringSize v)) / 128) then none
  else
    let (bs, s) := sysRead s pn 0 (4096 * field v 56 12 + 16 * (field i 31 0 % ringSize v)) 16
    let w := dwordsOf (bs.getD []) 2
    let q : PendingRecord := ⟨(w.getD 0 0).toNat, field (w.getD 1 0) 7 0, BitVec.ofNat 32 (field (w.getD 1 0) 61 32), .ring, none⟩
    some (q, modPart s pn (fun p => setReg p .schSqi cls (setField i 31 0 (field i 31 0 + 1))))

/-- The identifier of a record of LAUNCH as it reaches the dispatcher (R302); other records have theirs. -/
def numberChild (s : State) (pn : Nat) (q : PendingRecord) : PendingRecord × State :=
  match q.source with
  | .child _ _ => ({ q with id := BitVec.ofNat 32 (2 ^ 30 + (partOf s pn).childCount % 2 ^ 30) },
    modPart s pn (fun p => { p with childCount := p.childCount + 1 }))
  | _ => (q, s)

/-- Takes the first record that has come from a source in `pending` (R302). -/
def takePending (s : State) (pn : Nat) (child : Bool) : Option (PendingRecord × State) :=
  let p := partOf s pn
  let mine (q : PendingRecord) : Bool := match q.source with
    | .child _ _ => child
    | .net => !child
    | .ring => false
  (p.pending.find? mine).map (fun q =>
    numberChild (modPart s pn (fun p => { p with pending := p.pending.erase q })) pn q)

/-- Reports the refusal of a record to its source (R246, R302, R307). -/
def refuseRecord (s : State) (pn : Nat) (q : PendingRecord) (cause addr : Nat) : State :=
  match q.source with
  | .ring => pushCompletion s pn (termWords q.id (plainTerm cause false (tv addr)))
  | .child c o => endOp s c o .failed cause q.id
  | .net => dropNet s pn q.tenant 5

/-- DETAIL of a LAUNCH future holds the identifier of the child (R225, R246). -/
def detailChild (s : State) (c o : Nat) (id : BitVec 32) : State :=
  match (fget? (coreOf s c).engines o).bind (·.future) with
  | none => s
  | some i => modCore s c (fun k => { k with futures := fput k.futures i { futOf k i with detail := id } })

/-- Accepts a record: a launch that waits to be placed (R304). -/
def acceptRecord (s : State) (pn : Nat) (q : PendingRecord) (r : LaunchRec) (groups : List (List Nat)) : State :=
  let (k, s) := takeStamp s
  let asid := (asidFor (partOf s pn) q.tenant 0).getD 0
  let s := touchRun s pn q.tenant (recCbase r) (recClen r + recAlen r)
  let n := s.nextLaunch
  let l : Launch := { launchNone with
    id := q.id, part := pn, tenant := q.tenant, asid := asid, record := r, source := q.source, groups := groups
    status := .queued, arrival := k, measure := measureOf s (partOf s pn) asid r, reported := false }
  let s := { s with launches := fput s.launches n l, nextLaunch := n + 1 }
  match q.source with
  | .child c o => modOp (detailChild s c o q.id) c o (fun e => { e with kind := .launch (some n), passed := true })
  | _ => s

/-- RECORD_CHECK (R302, R303): the dispatcher takes a source's next record and checks it fully. Where something of what it reads has
still to come, it asks for it, and the record stays where it is (R294). -/
def execRecordCheck (part : Nat) (src : RecordSource) (s : State) : Host.Outcome State Fault Refusal :=
  let taken := match src with
    | .ring cls => takeRing s part (cls % 4)
    | .launchInstr => takePending s part true
    | .net => takePending s part false
  match taken with
  | none => .next s
  | some (q, t) =>
    let runs := recordRuns t part q
    if runs.any (runAway t (partOf t part) q.tenant) then .next (runs.foldl (fun s r => askRun s part q.tenant r) s)
    else
      let t := touchRecord t part q
      match checkRecord t part q with
      | .error e => .next (refuseRecord (dropAnswers t part askDisp) part q e.1 e.2)
      | .ok (r, g) => .next (dropAnswers (acceptRecord t part q r g) part askDisp)

/-- SUBMISSION_RING_TAIL (R311): Ryukel has written entries. -/
def execSubmissionRingTail (part cls : Nat) (tail : BitVec 32) (s : State) : Host.Outcome State Fault Refusal :=
  .next (modPart s part (fun p => setReg p .schSqi (cls % 4) (setField (reg p .schSqi (cls % 4)) 63 32 tail.toNat)))

/-! ## The end of a launch (R230, R250, R266) -/

/-- The operations of a launch that its end waits for: its child launches are not among them (R230). -/
def opsOf (s : State) (l : Nat) : List (Nat × Nat × EngineOp) :=
  s.cores.flatMap (fun e => (e.2.engines.filter (fun o => o.2.launch == l && match o.2.kind with
    | .launch _ => false
    | _ => true)).map (fun o => (e.1, o)))

/-- Reports the end of a launch's warps to its parent's future, once (R246, R283). -/
def reportChild (s : State) (l : Nat) : State :=
  let v := launchOf s l
  if v.reported then s
  else
    let s := modLaunch s l (fun v => { v with reported := true })
    match v.source with
    | .child c o => match v.term with
      | none => endOp s c o .done 0 v.id
      | some t => endOp s c o .failed t.cause v.id
    | _ => s

/-- What a launch gives back on a core: hand-off references (R29), directory entries (R250), and with its tenant's last
launch there the scale units (R31, notes/assumptions/62.md). Its operations on child launches are gone, and its futures are free (R223). -/
def leaveCore (s : State) (l c : Nat) : State :=
  let v := launchOf s l
  let s := ((clOf s c l).hslots.flatMap (·.2)).foldl (fun s r => dropRef s c v.tenant r) s
  let mine := (coreOf s c).dir.filter (fun e => e.2.launch == l && e.2.state != .free)
  let s := (mine.flatMap (·.2.rows)).foldl (fun s r => dropRef s c v.tenant r) s
  modCore s c (fun q =>
    let rest := fdel q.launches l
    let last := !rest.any (fun e => (launchOf s e.1).tenant == v.tenant)
    let units := if last then (q.scaleTag.filter (fun e => e.2 == v.tenant)).map (·.1) else []
    { q with
      launches := rest
      dir := q.dir.map (fun e => if e.2.launch = l ∧ e.2.state ≠ .free then (e.1, { dirReset with gen := e.2.gen }) else e)
      engines := q.engines.filter (fun e => e.2.launch != l)
      futures := q.futures.map (fun e => if e.2.launch = l ∧ e.2.free = false then
        (e.1, { e.2 with free := true, freedAt := s.moment + 1 }) else e)
      scale := q.scale.filter (fun e => !setMem units (e.1 / 512))
      scaleTag := q.scaleTag.filter (fun e => !setMem units e.1) })

/-- A launch ends: it leaves its cores, its key slots are zeroised (R266), and Ryukel has its record (R284, R308). -/
def finishLaunch (s : State) (l : Nat) : State :=
  let v := launchOf s l
  let s := (s.cores.map (·.1)).foldl (fun s c => leaveCore s l c) s
  let s := modPart (dropWhole s v.part l) v.part (fun p => { p with
    keys := p.keys.filter (fun e => e.2.launch != l)
    rootBarriers := p.rootBarriers.filter (fun b => b.1.1 != l)
    choice := if p.choice = some l then none else p.choice })
  let s := modLaunch s l (fun v => { v with status := .ended, stop := none, placedOn := [] })
  match v.source with
  | .ring => pushCompletion s v.part (termWords v.id (v.term.getD (plainTerm 0 false 0)))
  | _ => s

/-- LAUNCH_END (R230): once the last warp has retired, entries that have not fired end, and the launch ends with its last
operation. A launch that was terminated before any of its warps was placed ends at once (R311). -/
def execLaunchEnd (launch : Nat) (s : State) : Host.Outcome State Fault Refusal :=
  let v := launchOf s launch
  if v.status = .ended ∨ ¬ warpsGone s launch ∨ (v.status = .queued ∧ v.term = none) then .next s
  else
    let s := reportChild s launch
    let s := (opsOf s launch).foldl (fun s o => match o.2.2.kind with
      | .post q => if q.fired then s else endOp s o.1 o.2.1 .cancelled cCancelled 0
      | _ => s) s
    if (opsOf s launch).isEmpty then .next (finishLaunch s launch) else .next s

/-! ## Termination by Ryukel and tear-down (R283, R284, R311) -/

/-- The record of a termination by Ryukel or by tear-down: the warp word names the lowest live launch warp (R284). -/
def kernelTerm (s : State) (l : Nat) : TermRecord :=
  let v := launchOf s l
  let live := v.slots.filter (fun e => !setMem v.retired e.1)
  match live.foldl (fun (b : Option (Nat × Nat × Nat)) e => match b with
    | none => some e
    | some q => if e.1 < q.1 then some e else some q) none with
  | some e => { plainTerm cTerminated true 0 with core := e.2.1, wslot := e.2.2, lwarp := e.1 }
  | none => plainTerm cTerminated true 0

/-- TERMINATION_BY_RYUKEL (R283). -/
def execTerminationByRyukel (launch : Nat) (s : State) : Host.Outcome State Fault Refusal :=
  .next (terminate s launch (kernelTerm s launch))

/-- Tears down a tenant's context (R247, R311): EN clears, its records in flight are refused, its launches terminate. -/
def tearDown (s : State) (pn tenant : Nat) : State :=
  let s := modPart s pn (fun p => setReg p .schTctl tenant (reg p .schTctl tenant &&& ~~~1#64))
  let flying := (partOf s pn).pending.filter (fun q => q.tenant == tenant)
  let s := modPart s pn (fun p => { p with pending := p.pending.filter (fun q => q.tenant != tenant) })
  let s := flying.foldl (fun s q =>
    let (q, s) := numberChild s pn q
    refuseRecord s pn q cCtxGone 0) s
  s.launches.foldl (fun s e =>
    if e.2.part = pn ∧ e.2.tenant = tenant then terminate s e.1 (kernelTerm s e.1) else s) s

/-- Logs a refused register write (R375). The number that the log gives the register is not stated, so a free value says. -/
def refuseWrite (s : State) (pn : Nat) (v : DWord) : State :=
  let (k, s) := takeFree s
  gpcViolation s pn 1 (Config.freeNat k % 2 ^ 32) v

/-- TENANT_TEARDOWN (R311). -/
def execTenantTeardown (part tenant : Nat) (s : State) : Host.Outcome State Fault Refusal :=
  if tenant = 0 ∨ tenant > 255 then .next (refuseWrite s part (tv tenant)) else .next (tearDown s part tenant)

end Sys2Proof.Machine
end

