-- ==== Sys2Proof/Machine/Map.lean ====
section
/-! DEFINITION. The rename map instructions (R81 to R98). -/

namespace Sys2Proof.Machine

open Sys2Proof

/-- Runs a map instruction: its pending names first (R46, R81), then its effect. -/
def mapWord (s : State) (items : Ctx → List PendItem) (f : Ctx → Except Stop (State × After)) :
    Host.Outcome State Fault Refusal :=
  runWord s (fun x => do
    checkPending x.w (items x)
    f x)

/-- The map entry of a name of the word's warp as it now stands. -/
def entryOf (s : State) (x : Ctx) (n : Nat) : MapEntry :=
  match warpOf? s x.c x.slot with
  | some w => nameOf w n
  | none => .unmapped

/-- Replaces a name's entry without any change of counts. -/
def putEntry (s : State) (x : Ctx) (n : Nat) (e : MapEntry) : State := modW s x (fun w => setName w n e)

/-- Gives a name a new entry whose reference has been taken, dropping its old one after (R82). -/
def replaceEntry (s : State) (x : Ctx) (n : Nat) (e : MapEntry) : State := putEntry (dropName s x.c x.slot n) x n e

/-- Takes `n` fresh rows of zeros (R83): the rows, and how many could not be had. -/
def allocRows (s : State) (x : Ctx) : Nat → State × List Nat × Nat
  | 0 => (s, [], 0)
  | n + 1 =>
    let r := allocRows s x n
    match takeRow r.1 x.c x.w.launch zeroRow 0 with
    | some (k, s) => (s, r.2.1 ++ [k], r.2.2)
    | none => (r.1, r.2.1, r.2.2 + 1)

/-- Maps a run of names to fresh rows, or none of them (R82, R83, R90). -/
def mapRun (s : State) (x : Ctx) (ns : List Nat) : Except Stop (State × After) := do
  let r := allocRows s x ns.length
  let t := (ns.zip r.2.1).foldl (fun s e => replaceEntry s x e.1 (.resident e.2)) r.1
  let t ← checkRows s t x r.2.2
  .ok (t, .seq)

/-- MAP (R90). -/
def execMap (d : BitVec 7) (s : State) : Host.Outcome State Fault Refusal :=
  mapWord s (fun x => [.name (winName x.w d)]) (fun x => mapRun s x [winName x.w d])

/-- MAPR (R90). -/
def execMapr (d : BitVec 7) (n : BitVec 5) (s : State) : Host.Outcome State Fault Refusal :=
  mapWord s (fun x => iNames (winRun x.w d (n.toNat + 1))) (fun x => mapRun s x (winRun x.w d (n.toNat + 1)))

/-- UNMAP (R91). -/
def execUnmap (d : BitVec 7) (s : State) : Host.Outcome State Fault Refusal :=
  mapWord s (fun x => [.name (winName x.w d)]) (fun x => .ok (dropName s x.c x.slot (winName x.w d), .seq))

/-- The names of the blocks that a mask selects (R91). -/
def blockNames (m : DWord) : List Nat := (List.range 512).filter (fun n => m.getLsbD (n / 32))

/-- UNMAPM (R91). -/
def execUnmapm (a : BitVec 6) (s : State) : Host.Outcome State Fault Refusal :=
  mapWord s (fun x => iS a :: iNames (blockNames (sReg x.w a)))
    (fun x => .ok ((blockNames (sReg x.w a)).foldl (fun s n => dropName s x.c x.slot n) s, .seq))

/-- MAP_TENANT for the first name of a list whose row has another tenant's tag (R85). -/
def checkTags (s : State) (x : Ctx) (ns : List Nat) : Except Stop Unit :=
  match ns.findSome? (fun n => match entryOf s x n with
    | .resident r => if (rowOf (coreOf s x.c) r).tag = x.l.tenant then none else some r
    | _ => none) with
  | some r => raise cTenant (tv r)
  | none => .ok ()

/-- MOVN (R85, R92). -/
def execMovn (d a : BitVec 7) (s : State) : Host.Outcome State Fault Refusal :=
  mapWord s (fun x => iNames [winName x.w a, winName x.w d]) (fun x => do
    let na := winName x.w a
    let nd := winName x.w d
    if na = nd then do
      let s ← reloadNames s x [na]
      .ok (s, .seq)
    else do
      checkMapped x.w [na]
      let s ← reloadNames s x [na]
      checkTags s x [na]
      let e := entryOf s x na
      .ok (replaceEntry (putEntry s x na .unmapped) x nd e, .seq))

/-- SWPN (R85, R92). -/
def execSwpn (d a : BitVec 7) (s : State) : Host.Outcome State Fault Refusal :=
  mapWord s (fun x => iNames [winName x.w a, winName x.w d]) (fun x => do
    let s ← reloadNames s x [winName x.w a, winName x.w d]
    checkTags s x [winName x.w a, winName x.w d]
    let ea := entryOf s x (winName x.w a)
    let ed := entryOf s x (winName x.w d)
    .ok (putEntry (putEntry s x (winName x.w a) ed) x (winName x.w d) ea, .seq))

/-- ROTN (R85, R92). -/
def execRotn (d : BitVec 7) (n k : BitVec 5) (s : State) : Host.Outcome State Fault Refusal :=
  mapWord s (fun x => iNames (winRun x.w d (n.toNat + 1))) (fun x => do
    let ns := winRun x.w d (n.toNat + 1)
    let s ← reloadNames s x ns
    checkTags s x ns
    let old := ns.map (entryOf s x)
    .ok ((List.range ns.length).foldl (fun s i =>
      putEntry s x (ns.getD i 0) (old.getD ((i + k.toNat) % ns.length) .unmapped)) s, .seq))

/-- ALIAS (R12, R85, R93): the tag before the count (notes/assumptions/62.md). -/
def execAliasN (d a : BitVec 7) (s : State) : Host.Outcome State Fault Refusal :=
  mapWord s (fun x => iNames [winName x.w a, winName x.w d]) (fun x => do
    let na := winName x.w a
    let nd := winName x.w d
    checkMapped x.w [na]
    let s ← reloadNames s x [na]
    match entryOf s x na with
    | .resident r =>
      let row := rowOf (coreOf s x.c) r
      raiseIf (row.tag != x.l.tenant) cTenant (tv r)
      raiseIf (row.count == 4095 && entryOf s x nd != .resident r) cRefOverflow (tv r)
      .ok (replaceEntry (addRef s x.c x.l.tenant r) x nd (.resident r), .seq)
    | _ => .ok (s, .seq))

/-- COPYN (R93): a fresh row with the data and poison of the source. -/
def execCopyn (d a : BitVec 7) (s : State) : Host.Outcome State Fault Refusal :=
  mapWord s (fun x => iNames [winName x.w a, winName x.w d]) (fun x => do
    let na := winName x.w a
    let nd := winName x.w d
    checkMapped x.w [na]
    let t ← reloadNames s x [na]
    let old := rowOfName t x na
    match takeRow t x.c x.w.launch old.words old.poison with
    | some (r, u) =>
      let u ← checkRows t (replaceEntry u x nd (.resident r)) x 0
      .ok (u, .seq)
    | none =>
      let u ← checkRows t (dropName t x.c x.slot nd) x 1
      .ok (u, .seq))

/-! ## Hand-off slots (R94 to R96) -/

/-- The references in a hand-off slot of the word's launch, the head first. -/
def slotRefs (s : State) (x : Ctx) (h : Nat) : List Nat := fget (clOf s x.c x.w.launch).hslots h []

/-- Replaces the references in a slot. -/
def setSlot (s : State) (x : Ctx) (h : Nat) (l : List Nat) : State :=
  modCl s x.c x.w.launch (fun k => { k with hslots := fset k.hslots h l [] })

/-- MAP_SLOT_RANGE (R29, R94). -/
def checkSlot (x : Ctx) (h : Nat) : Except Stop Unit := raiseIf (decide (h ≥ recHos x.l.record)) cSlotRange (tv h)

/-- Takes the head reference of a slot for a name (R85, R95): room before the tag (notes/assumptions/62.md); the value of a spilt row
with a foreign tag is free (`tenantVal`). -/
def takeHead (s : State) (x : Ctx) (h nd : Nat) : Except Stop State :=
  match slotRefs s x h with
  | [] => .ok s
  | r :: rest => do
    let t := replaceEntry (setSlot s x h rest) x nd (entryOfRef r)
    let t ← checkRows s t x 0
    raiseIf ((refRow s x.c x.l.tenant r).tag != x.l.tenant) cTenant (tenantVal r)
    .ok t

/-- GIVE (R94, R95): the slot's range before the map (notes/assumptions/62.md). Its span has started with room in the slot, which
nothing takes before the word (`slotTaken`). -/
def execGive (h : BitVec 6) (a : BitVec 7) (s : State) : Host.Outcome State Fault Refusal :=
  runWord s (fun x => do
    needFirst x
    checkPending x.w [.name (winName x.w a)]
    checkSlot x h.toNat
    parkIf (decide ((slotRefs s x h.toNat).length ≥ 8))
    let na := winName x.w a
    checkMapped x.w [na]
    let s ← reloadNames s x [na]
    match refOfEntry (entryOf s x na) with
    | some r => .ok (putEntry (setSlot s x h.toNat (slotRefs s x h.toNat ++ [r])) x na .unmapped, .seq)
    | none => .ok (s, .seq))

/-- TAKE (R94, R95). Its span has started with a reference in the slot, which nothing takes before the word. -/
def execTake (d : BitVec 7) (h : BitVec 6) (s : State) : Host.Outcome State Fault Refusal :=
  runWord s (fun x => do
    needFirst x
    checkPending x.w [.name (winName x.w d)]
    checkSlot x h.toNat
    parkIf (slotRefs s x h.toNat).isEmpty
    let s ← takeHead s x h.toNat (winName x.w d)
    .ok (s, .seq))

/-- TAKEQ (R95). A GIVE or TAKE whose span has started takes its effect on the slot first, since it does so as its span starts
(R94): TAKEQ waits for that word. -/
def execTakeq (d : BitVec 7) (h : BitVec 6) (p : BitVec 4) (s : State) : Host.Outcome State Fault Refusal :=
  mapWord s (fun x => [.pred p.toNat, .name (winName x.w d)]) (fun x => do
    checkSlot x h.toNat
    parkIf (slotTaken s x.c x.w.launch h.toNat)
    let full := slotRefs s x h.toNat ≠ []
    let s ← takeHead s x h.toNat (winName x.w d)
    .ok (modW s x (fun w => setP w p (if full then 0xFFFFFFFF#32 else 0)), .seq))

/-! ## Queries and the window (R97, R98) -/

/-- ISMAP (R97). -/
def execIsmap (d : BitVec 4) (a : BitVec 7) (s : State) : Host.Outcome State Fault Refusal :=
  mapWord s (fun x => .name (winName x.w a) :: (if ctxActive x = 0 then [] else [.pred d.toNat])) (fun x =>
    let v := match refOfEntry (nameOf x.w (winName x.w a)) with
      | none => 0
      | some r => ~~~(refRow s x.c x.l.tenant r).poison
    .ok (modW s x (fun w => setPLanes w d (ctxActive x) v), .seq))

/-- WBASE (R98). -/
def execWbase (b : BitVec 7) (s : State) : Host.Outcome State Fault Refusal :=
  runWord s (fun x => .ok (modW s x (fun w => { w with wb := BitVec.ofNat 9 (16 * b.toNat) }), .seq))

/-- The map word of an entry (R11). -/
def mapWordOf (s : State) (x : Ctx) : MapEntry → DWord
  | .unmapped => 0
  | .resident r => tv (2 ^ 30 + (rowOf (coreOf s x.c) r).count * 2 ^ 18 + r)
  | .spilt k => tv (2 ^ 31 + (spilledRow s x.pn x.l.tenant k).count * 2 ^ 18 + k)

/-- MAPQ (R11, R97). -/
def execMapq (d : BitVec 6) (a : BitVec 7) (s : State) : Host.Outcome State Fault Refusal :=
  mapWord s (fun x => [.name (winName x.w a), iS d])
    (fun x => .ok (modW s x (fun w => setS w d (mapWordOf s x (nameOf x.w (winName x.w a)))), .seq))

end Sys2Proof.Machine
end

