-- ==== Sys2Proof/Machine/Paging.lean ====
section
/-! DEFINITION. Translation as Ryukel and the hardware drive it: walks (R319), shoot-downs (R320), the frame-state commands
(R323, R324), hardware migration (R326, R327) and the write-back scanner (R328). -/

namespace Sys2Proof.Machine

open Sys2Proof

/-! ## Walks and shoot-downs -/

/-- Whether a miss on a page waits (R292): of a store on its way to its home, of a line that an engine operation has still to read or
write, or of the block that a path goes on in. -/
def missWaits (s : State) (pn asid vpn : Nat) : Bool :=
  let p := partOf s pn
  let missed (a l : Nat) : Bool := a == asid && l / 32 == vpn && (lineKept p a l).isNone
  let code (w : Warp) (q : Path) : Bool :=
    let t := (launchOf s w.launch).tenant
    q.state != .vacant && asidFor p t q.pc.toNat == some asid && q.pc.toNat / 4096 == vpn
  s.cores.any (fun e => partOfCore s e.1 == pn
    && (e.2.storeQ.any (fun r => missed r.asid r.line)
      || e.2.engines.any (fun o => ((opSrcLines e.1 o.2).filter (fun l => !o.2.read.any (fun r => r.1 == l))
        ++ (opDstLines o.2).filter (fun l => !setMem o.2.done l)).any (fun l => missed (opLineAsid s pn o.2 l) l))
      || e.2.warps.any (fun w => [w.2.prim, w.2.seco].any (fun q => code w.2 q
        && !blockHeld s p e.1 (launchOf s w.2.launch).tenant q.pc.toNat))))

/-- PAGE_WALK (R319, R322): the walk of a page on which a miss waits ends in a fill or a fault; a poisoned entry raises REL_UE
(R369). -/
def execPageWalk (part asid vpn : Nat) (store : Bool) (s : State) : Host.Outcome State Fault Refusal :=
  if missWaits s part asid vpn then
    .next (fillTlb (reportWalk s part asid vpn) part none (tenantOfAsid (partOf s part) asid) asid vpn (if store then .write else .read))
  else .next s

/-- Whether a shoot-down of word `v` from page `base` on matches pages of an ASID (R320). -/
def shootMatches (v : DWord) (base asid vpn pages : Nat) : Bool :=
  match field v 63 62 with
  | 0 => false
  | 1 => field v 59 48 == asid && decide (0 < field v 31 0) && decide (vpn < base + field v 31 0) && decide (base < vpn + pages)
  | 2 => field v 59 48 == asid
  | _ => true

/-- The first page of LLC_SHOOTVA (R320). -/
def shootBase (p : Partition) : Nat := field (reg p .llcShootva) 56 12

/-- The pages of the measured code of a launch, in its ASID (R386). -/
def codePages (l : Launch) : List Nat := pieces 4096 (recCbase l.record) (recClen l.record + recAlen l.record)

/-- Whether a shoot-down touches the code to which a key slot is bound (R388). -/
def shootsCode (s : State) (m : Nat → Nat → Nat → Bool) (k : KeySlot) : Bool :=
  let l := launchOf s k.launch
  (codePages l).any (fun v => m (if (4096 * v).testBit 56 then 0 else l.asid) v 1)

/-- The effects of a shoot-down on the slices and cores of a partition (R320): TLB and walk-cache entries, L1 lines,
instruction-cache blocks and LLC lines that match go; key slots bound to code that matches are zeroised (R388). -/
def shootApply (s : State) (pn : Nat) (m : Nat → Nat → Nat → Bool) : State :=
  let p := partOf s pn
  let s := dropTlb s pn (fun t => m t.asid t.vpn t.pages)
  let gone := (p.keys.filter (fun e => e.2.loaded && shootsCode s m e.2)).map (·.1)
  let s := modPart (dropLlc s pn (fun e => m e.asid (e.line / 32) 1)) pn (fun p => { p with
    walkCache := p.walkCache.filter (fun w => !m w.asid (w.idx * 512 ^ (w.level + 1)) (512 ^ (w.level + 1)))
    keys := p.keys.filter (fun e => !setMem gone e.1) })
  { s with cores := s.cores.map (fun e => if partOfCore s e.1 = pn then
    (e.1, { e.2 with
      l1 := e.2.l1.filter (fun l => !m l.asid (l.line / 32) 1)
      invals := e.2.invals.filter (fun i => !m i.1 (i.2 / 32) 1)
      icache := e.2.icache.filter (fun b => !m b.asid (b.block / 32) 1) }) else e) }

/-- Whether an access that uses a translation to be shot down has still to perform (R320): a fetch, a store that waits or that a peer
has not acknowledged, a line asked of a peer, or a row that a drain has still to write under the translation of its issue
(R170). -/
def shootPending (s : State) (pn : Nat) (m : Nat → Nat → Nat → Bool) : Bool :=
  let p := partOf s pn
  p.fetches.any (fun f => m f.asid (f.line / 32) 1)
    || p.peerOut.any (fun e => m e.1 (e.2.2 / 32) 1 && peerStoreOut p e.2.1 e.2.2)
    || p.peerLines.any (fun l => l.who.isSome && m l.asid (l.line / 32) 1)
    || s.cores.any (fun e => partOfCore s e.1 == pn
      && (e.2.storeQ.any (fun r => m r.asid (r.line / 32) 1)
        || e.2.engines.any (fun o => o.2.maps.any (fun l => !setMem o.2.done l.1
          && m (opAsid o.2 (128 * l.1)) (l.1 / 32) 1))))

/-- SHOOTDOWN (R320): a write to LLC_SHOOT, refused while BUSY is set. -/
def execShootdown (part : Nat) (v : DWord) (s : State) : Host.Outcome State Fault Refusal :=
  let p := partOf s part
  if p.shooting.isSome then .next (refuseWrite s part v)
  else if field v 63 62 = 0 then .next s
  else .next (modPart s part (fun p => { setReg p .llcShootst 0 (1#64 <<< 63) with shooting := some v }))

/-- SHOOTDOWN_COMPLETE (R320): once every access that uses an old translation has performed. -/
def execShootdownComplete (part : Nat) (s : State) : Host.Outcome State Fault Refusal :=
  match (partOf s part).shooting with
  | none => .next s
  | some v =>
    let m := shootMatches v (shootBase (partOf s part))
    if shootPending s part m then .next s
    else .next (modPart (shootApply s part m) part (fun p => { setReg p .llcShootst 0 0 with shooting := none }))

/-! ## Frame-state commands (R323, R324) -/

/-- The frame-state entry as READ returns it (R321). -/
def frameWord (e : FrameEntry) : DWord :=
  let bit (b : Bool) (n : Nat) : Nat := if b then 2 ^ n else 0
  tv (e.state * 2 ^ 62 + e.tenant * 2 ^ 54 + e.keyid * 2 ^ 46 + bit e.troy 45 + bit e.wr 44 + bit e.multi 43
    + bit e.fb 42 + bit e.rd 41 + bit e.dirty 40 + bit e.wp 39 + (e.tlbref % 2 ^ 16) * 2 ^ 23 + bit e.save 22)

/-- Puts a result into LLC_FSDATA. -/
def fsResult (s : State) (pn : Nat) (v : DWord) : State := modPart s pn (fun p => setReg p .llcFsdata 0 v)

/-- A command on a frame (R323): outside the partition it is refused and logged. -/
def fsCommand (s : State) (pn frame : Nat) (f : State → State) : State :=
  if frameIn (partOf s pn) frame then f s
  else fsResult (gpcViolation s pn 2 0 (tv frame)) pn 1

/-- FS_READ (R323). -/
def execFsRead (part frame : Nat) (s : State) : Host.Outcome State Fault Refusal :=
  .next (fsCommand s part frame (fun s => fsResult s part (frameWord (frameOf s frame))))

/-- Whether a drain has still to write to a frame under the translation of its issue (R170). -/
def framePinned (s : State) (pn frame : Nat) : Bool :=
  s.cores.any (fun e => partOfCore s e.1 == pn
    && e.2.engines.any (fun o => o.2.maps.any (fun l => l.2.1 == frame && !setMem o.2.done l.1)))

/-- Whether an access to a frame is in flight (R323): a store that waits for it, a fetch of one of its lines, or a row of a drain. -/
def frameBusy (s : State) (pn frame : Nat) : Bool :=
  (partOf s pn).fetches.any (fun f => f.frame == frame) || framePinned s pn frame
    || s.cores.any (fun e => partOfCore s e.1 == pn && e.2.storeQ.any (fun r =>
      (physOf s (partOf s pn) r.asid (128 * r.line)).map (fun q => q.1 / 4096) == some frame))

/-- FS_RELEASE (R323, R328): an OWNED frame becomes FREE; a frame in another state keeps it, and its file fields are
cleared all the same. -/
def execFsRelease (part frame : Nat) (s : State) : Host.Outcome State Fault Refusal :=
  .next (fsCommand s part frame (fun s =>
    let e := frameOf s frame
    if e.tlbref != 0 || e.wp || e.save || e.flashing || frameBusy s part frame then fsResult s part 1
    else fsResult (modFrame s frame (fun e => { e with
      state := if e.state = 3 then 0 else e.state, tenant := if e.state = 3 then 0 else e.tenant
      fb := false, rd := false, dirty := false, block := 0 })) part 0))

/-- FS_SCRUB (R323, R324). -/
def execFsScrub (part frame : Nat) (s : State) : Host.Outcome State Fault Refusal :=
  .next (fsCommand s part frame (fun s =>
    if (frameOf s frame).state ≠ 0 then fsResult s part 1
    else fsResult (modFrame s frame (fun e => { e with state := 1 })) part 0))

/-- SCRUB_COMPLETE (R324): the frame is CLEAN and reads as zeros. -/
def execScrubComplete (part frame : Nat) (s : State) : Host.Outcome State Fault Refusal :=
  if (frameOf s frame).state ≠ 1 ∨ ¬ frameIn (partOf s part) frame then .next s
  else .next (modFrame (scrubFrame (dropFrameLines s part frame) frame) frame (fun e => { e with state := 2, tenant := 0 }))

/-- FS_SETFILE (R323). -/
def execFsSetfile (part frame : Nat) (arg : DWord) (s : State) : Host.Outcome State Fault Refusal :=
  .next (fsCommand s part frame (fun s =>
    let e := frameOf s frame
    if e.state != 2 || e.tlbref != 0 then fsResult s part 1
    else fsResult (modFrame s frame (fun e => { e with fb := true, rd := arg.getLsbD 63, block := field arg 47 0 })) part 0))

/-- FS_READCNT (R323, R325). -/
def execFsReadcnt (part frame : Nat) (s : State) : Host.Outcome State Fault Refusal :=
  .next (fsCommand s part frame (fun s =>
    let e := frameOf s frame
    fsResult (modFrame s frame (fun e => { e with accl := 0, accr := 0 })) part (tv (e.accl * 2 ^ 16 + e.accr))))

/-! ## Hardware migration (R326, R327) -/

/-- A free or completion ring's entries (R327). -/
def migSize (p : Partition) : Nat := ringSize (reg p .llcMigring)

/-- Takes the next usable frame of an octant's free ring: an unusable entry is consumed and logged (R327). -/
def takeMigFrame (s : State) (pn o : Nat) : Nat → Option Nat × State
  | 0 => (none, s)
  | n + 1 =>
    let p := partOf s pn
    let i := reg p .llcMigfi o
    if ringUsed i = 0 then (none, s)
    else
      let at_ := 4096 * field (reg p .llcMigring) 45 12 + 8 * migSize p * o + 8 * (field i 31 0 % migSize p)
      let e := BitVec.ofNat 64 (leNat (physRead s p 0 at_ 8))
      let f := field e 28 0
      let s := modPart s pn (fun p => setReg p .llcMigfi o (setField i 31 0 (field i 31 0 + 1)))
      if field e 63 29 = 0 ∧ f / Config.framesPerOctant = o ∧ (frameOf s f).state = 2 then (some f, s)
      else takeMigFrame (logViolation s pn 3 o 0xFF 0 e) pn o n

/-- Copies a frame: its bytes under their keys, marks and side words (R326). -/
def copyFrame (s : State) (old new : Nat) : State :=
  let s := scrubFrame s new
  let bytes := (s.mem.filter (fun e => e.1 / 4096 == old)).map (fun e => (e.1 % 4096 + 4096 * new, e.2))
  let move (n : Nat) (l : List Nat) : List Nat :=
    (l.filter (fun x => x / n == old)).foldl (fun m x => setAdd m (x % n + n * new)) l
  let lines := (List.range 32).filter (fun i => !setMem s.zeroLines (32 * old + i))
  { s with
    mem := bytes.foldl (fun m e => cellWrite m e.1 e.2) s.mem
    unitKey := (s.unitKey.filter (fun e => e.1 / 256 == old)).foldl (fun m e => fput m (e.1 % 256 + 256 * new) e.2) s.unitKey
    sides := (s.sides.filter (fun e => e.1 / 32 == old)).foldl (fun m e => fput m (e.1 % 32 + 32 * new) e.2) s.sides
    poison := move 256 s.poison
    sidePoison := move 32 s.sidePoison
    zeroLines := lines.foldl (fun l i => setDel l (32 * new + i)) s.zeroLines }

/-- The octant that made most of a frame's fills, the lowest of several (R326). -/
def busiestOct (p : Partition) (e : FrameEntry) : Option Nat :=
  (octsOf p).foldl (fun b o => match b with
    | none => if fget e.fills o 0 > 0 then some o else none
    | some q => if fget e.fills o 0 > fget e.fills q 0 then some o else some q) none

/-- Whether a frame qualifies to migrate through a TLB entry (R326). -/
def migrates (p : Partition) (e : FrameEntry) : Bool :=
  let v := reg p .llcMigctl
  v.getLsbD 63 && !e.fb && !e.multi && !e.troy && decide (e.tlbref ≥ 1) && e.state == 3
    && decide (e.accr ≥ field v 15 0) && decide (e.accr > 4 * e.accl) && migSize p != 0

/-- Rewrites FRAME of the leaf at a physical address (R326). -/
def rewriteLeaf (s : State) (pn : Nat) (t : TlbEntry) (new : Nat) : State :=
  let e := BitVec.ofNat 64 (leNat (physRead s (partOf s pn) 0 t.leafAt 8))
  physStore s pn t.leafAt (placed (bytesOf64 (setField e 45 12 new)))

/-- Writes the completion record of a migration (R327). -/
def postMig (s : State) (pn asid vpn old new : Nat) : State :=
  let p := partOf s pn
  let i := reg p .llcMigci
  let at_ := 4096 * field (reg p .llcMigring) 45 12 + 64 * migSize p + 16 * (field i 63 32 % migSize p)
  let s := physStore s pn at_ (placed (bytesOf64 (tv (asid * 2 ^ 45 + vpn)) ++ bytesOf64 (tv (new * 2 ^ 32 + old))))
  modPart s pn (fun p => setReg p .llcMigci 0 (setField i 63 32 (field i 63 32 + 1)))

/-- HARDWARE_MIGRATION (R326, R327). Stores to the frame that wait perform after it and land in the new frame; fetches, and rows of
drains under the translation of their issue, come before it. A frame passed over for want of a free frame or of room for the record is
considered again at its next fill. -/
def execHardwareMigration (part frame : Nat) (s : State) : Host.Outcome State Fault Refusal :=
  let p := partOf s part
  let e := frameOf s frame
  match p.tlb.find? (fun t => (t.asid, t.vpn) == e.tag && t.pages == 1 && leafFrame t.leaf == frame), busiestOct p e with
  | some t, some o =>
    if !frameIn p frame || !migrates p e || e.passedOver || p.fetches.any (fun f => f.frame == frame) || framePinned s part frame
    then .next s
    else if ringUsed (reg p .llcMigci) ≥ migSize p then .next (modFrame s frame (fun e => { e with passedOver := true }))
    else match takeMigFrame s part o (migSize p) with
      | (none, s) => .next (modFrame s frame (fun e => { e with passedOver := true }))
      | (some new, s) =>
        let s := modFrame (copyFrame s frame new) new (fun f => { f with state := 3, tenant := e.tenant })
        let s := shootApply (rewriteLeaf s part t new) part (fun a v n => a == t.asid && decide (v ≤ t.vpn) && decide (t.vpn < v + n))
        let s := modFrame s frame (fun _ => frameReset)
        .next (postMig s part t.asid t.vpn frame new)
  | _, _ => .next s

/-! ## The write-back scanner (R328) -/

/-- WRITEBACK_SCAN_VISIT (R328): stores to the frame are held while the storage port takes its snapshot, for the frame's block. -/
def execWritebackScanVisit (part frame : Nat) (s : State) : Host.Outcome State Fault Refusal :=
  let e := frameOf s frame
  if !(reg (partOf s part) .llcWbctl).getLsbD 63 || !frameIn (partOf s part) frame || !e.fb || !e.dirty || e.wp then .next s
  else
    let bytes := physRead s (partOf s part) e.keyid (4096 * frame) 4096
    .next (modPart (modFrame s frame (fun e => { e with wp := true, dirty := false, flashing := true })) part
      (fun p => { p with snapshots := fput p.snapshots frame (bytes, e.block) }))

/-- SNAPSHOT_READ (R328): held stores may perform. -/
def execSnapshotRead (part frame : Nat) (s : State) : Host.Outcome State Fault Refusal :=
  if frameIn (partOf s part) frame then .next (modFrame s frame (fun e => { e with wp := false })) else .next s

/-- FLASH_WRITE_COMPLETE (R328): a failed write sets DIRTY again and is counted. -/
def execFlashWriteComplete (part frame : Nat) (ok : Bool) (s : State) : Host.Outcome State Fault Refusal :=
  let e := frameOf s frame
  if !frameIn (partOf s part) frame || !e.flashing || e.wp then .next s
  else
    let s := modPart s part (fun p => { p with snapshots := fdel p.snapshots frame })
    if ok then .next (modFrame s frame (fun e => { e with flashing := false }))
    else .next (modPart (modFrame s frame (fun e => { e with flashing := false, dirty := true })) part
      (fun p => setReg p .llcWberr 0 (reg p .llcWberr + 1)))

end Sys2Proof.Machine
end

