-- ==== Sys2Proof/Machine/Fabric.lean ====
section
/-! DEFINITION. The package fabric: its links and routes (R333, R334, R379), and the link aggregation group of the ports (R336, R348,
R378). -/

namespace Sys2Proof.Machine

open Sys2Proof

/-! ## Links and routes -/

/-- Whether a link joins two octants (R333): eight on a ring, four chords. -/
def isLink (a b : Nat) : Bool :=
  decide (a < 8) && decide (b < 8) && ((a + 1) % 8 == b || (b + 1) % 8 == a || (a + 4) % 8 == b)

/-- Whether a link joins two octants and has not been fenced (R379). -/
def linkAlive (s : State) (a b : Nat) : Bool := isLink a b && !s.linksDown.any (· == (min a b, max a b))

/-- The route of the table from an octant to another: the octants that a flit comes to, one after another, the last the
destination. For d = 3 and d = 5 it takes the chord first (R334). -/
def tableRoute (a b : Nat) : List Nat :=
  let at_ (n : Nat) : Nat := (a + n) % 8
  match (b + 8 - a) % 8 with
  | 0 => []
  | 1 => [at_ 1]
  | 2 => [at_ 1, at_ 2]
  | 3 => [at_ 4, at_ 3]
  | 5 => [at_ 4, at_ 5]
  | 6 => [at_ 7, at_ 6]
  | 7 => [at_ 7]
  | _ => [at_ 4]

/-- The route from an octant to another that is loaded now: the table's, unless another has taken its place (R334). -/
def routeOf (s : State) (a b : Nat) : List Nat := (fget? s.routes (8 * a + b)).getD (tableRoute a b)

/-- The links that a route from an octant crosses, each as its two octants, the lower first. -/
def routeLinks (a : Nat) (r : List Nat) : List (Nat × Nat) := ((a :: r).zip r).map (fun e => (min e.1 e.2, max e.1 e.2))

/-- Whether a route crosses a fenced link. -/
def routeDead (s : State) (a : Nat) (r : List Nat) : Bool := (routeLinks a r).any (fun e => !linkAlive s e.1 e.2)

/-- The ways of so many hops over the remaining links from one octant to another. -/
def waysOf (s : State) (b : Nat) : Nat → Nat → List (List Nat)
  | 0, a => if a = b then [[]] else []
  | n + 1, a => ((List.range 8).filter (linkAlive s a)).flatMap (fun c => (waysOf s b n c).map (c :: ·))

/-- The minimal routes over the remaining links (R379); none where no link leads there any more. -/
def minimalRoutes (s : State) (a b : Nat) : List (List Nat) :=
  (((List.range 8).map (fun n => waysOf s b n a)).find? (fun l => !l.isEmpty)).getD []

/-- Whether the remaining links join two octants. -/
def reaches (s : State) (a b : Nat) : Bool := !(minimalRoutes s a b).isEmpty

/-- Loads a minimal route in the place of each that crosses a fenced link (R334, R379). Which of several is not stated, so a free
value says; where none is left, the route is empty. -/
def loadRoutes (s : State) : State :=
  ((List.range 64).filter (fun i => routeDead s (i / 8) (routeOf s (i / 8) (i % 8)))).foldl (fun s i =>
    let rs := minimalRoutes s (i / 8) (i % 8)
    let (k, s) := takeFree s
    { s with routes := fput s.routes i (rs.getD (Config.freeNat k % max 1 rs.length) []) }) s

/-- The octants from or to which a route crosses a link. -/
def octsOver (s : State) (l : Nat × Nat) : List Nat :=
  (List.range 8).filter (fun a => (List.range 8).any (fun b =>
    (routeLinks a (routeOf s a b)).any (· == l) || (routeLinks b (routeOf s b a)).any (· == l)))

/-! ## Ports -/

/-- The LAG bit of an octant's port (R336, R348, R378): its link is up, it can be reached, and it belongs to the partition. -/
def lagMember (s : State) (p : Partition) (o : Nat) : Bool :=
  (octMask p).testBit o && setMem s.linkUp o && !setMem s.portsDown o

/-- The members of a partition's link aggregation group, in rising order. -/
def lagPorts (s : State) (p : Partition) : List Nat := (List.range 8).filter (lagMember s p)

/-- NET_PORTST (R348): the clocks of a partition follow a synchronised one. -/
def portStatus (s : State) (p : Partition) : DWord :=
  let bits (f : Nat → Bool) : Nat := ((List.range 8).map (fun o => if f o then 2 ^ o else 0)).sum
  tv (bits (fun o => (octMask p).testBit o && setMem s.linkUp o) * 2 ^ 32 + bits (lagMember s p) * 2 ^ 24
    + bits (fun o => (octMask p).testBit o && s.ptpLock.any (fun q => (octMask p).testBit q)) * 2 ^ 16)

/-- Brings NET_PORTST of every partition up to date. -/
def refreshPorts (s : State) : State :=
  (fkeys s.parts).foldl (fun s n => modPart s n (fun p => setReg p .netPortst 0 (portStatus s p))) s

end Sys2Proof.Machine
end

