-- ==== Sys2Proof/Machine/Placement.lean ====
section
/-! DEFINITION. The dispatcher's choice and placement of launches (R304 to R306), the claim of halted state (R360, R361),
resumption (R363), and the choice of victims (R356). -/

namespace Sys2Proof.Machine

open Sys2Proof

/-! ## What a core has to give (R285, R305, R360) -/

/-- Units in use on a core for R305: those of launches that are not halted (R359). -/
def unitsInUse (s : State) (c : Nat) : Nat :=
  ((coreOf s c).launches.map (fun e => if (launchOf s e.1).status = .halted then 0 else e.2.unitsHeld)).sum

/-- The units of a core that nobody holds (R285); those of a halted launch stay held until they are claimed (R359). -/
def unitsFree (s : State) (c : Nat) : Nat := 96 - ((coreOf s c).launches.map (·.2.unitsHeld)).sum

/-- The hand-off FIFOs of a core that nobody holds (R29). -/
def fifosFree (s : State) (c : Nat) : Nat := 64 - ((coreOf s c).launches.map (·.2.fifosHeld)).sum

/-- Claims one register unit, of the launch halted longest that has one: its rows stay as halted rows, which are claimed on use
(R359, R360, notes/assumptions/66.md). -/
def claimRegu (s : State) (c : Nat) : Option State :=
  (haltedOn s c).findSome? (fun l =>
    if (clOf s c l).reguHeld = 0 then none
    else some (modCl s c l (fun h => { h with unitsHeld := h.unitsHeld - 1, reguHeld := h.reguHeld - 1 })))

/-- Claims one scratchpad or accumulator unit, of the launch halted longest that has one and room for it (R360, R361). -/
def claimUnit (s : State) (c : Nat) : Option State :=
  (haltedOn s c).findSome? (fun l =>
    if (clOf s c l).unitsHeld = (clOf s c l).reguHeld then none
    else (saveItem s (launchOf s l).part (launchOf s l).tenant (.unit c l)).map (fun r =>
      modCl r.2 c l (fun h => { h with unitsHeld := h.unitsHeld - 1 })))

/-- Claims one hand-off FIFO (R360, R361). -/
def claimFifo (s : State) (c : Nat) : Option State :=
  (haltedOn s c).findSome? (fun l =>
    if (clOf s c l).fifosHeld = 0 then none
    else (saveItem s (launchOf s l).part (launchOf s l).tenant (.fifo c l)).map (fun r =>
      modCl r.2 c l (fun h => { h with fifosHeld := h.fifosHeld - 1 })))

/-- Applies a claim a number of times. -/
def claimTimes (f : State → Option State) : Nat → State → Option State
  | 0, s => some s
  | n + 1, s => (f s).bind (claimTimes f n)

/-- Claims what a core lacks of a number of units: register units for as many as are wanted as such, else the others (R360). -/
def claimUnits (regu : Nat) : Nat → State → Nat → Option State
  | 0, s, _ => some s
  | n + 1, s, c => match (if regu = 0 then none else claimRegu s c) with
    | some t => claimUnits (regu - 1) n t c
    | none => (claimUnit s c).bind (fun t => claimUnits regu n t c)

/-- Claims a warp slot of a halted launch: the warp's whole state is saved (R360). A free slot needs no claim. -/
def claimSlot (s : State) (c slot : Nat) : Option State :=
  match warpOf? s c slot with
  | none => some s
  | some w =>
    if (launchOf s w.launch).status ≠ .halted then none
    else (saveItem s (launchOf s w.launch).part (launchOf s w.launch).tenant (.warp c w.launch slot)).map (fun r =>
      modCore (modCl r.2 c w.launch (fun h => { h with savedWarps := fput h.savedWarps slot w })) c
        (fun k => { k with warps := fdel k.warps slot }))

/-- Whether a slot may be taken: it is free, or its warp is of one of the halted launches that may be claimed from; and no other
live warp's GANG names it (R158), beside those of halted launches where slots are claimed. -/
def slotTakable (s : State) (c slot : Nat) (from_ : List Nat) : Bool :=
  let k := coreOf s c
  if from_.isEmpty then slotFree k slot
  else
    (match fget? k.warps slot with
      | none => true
      | some w => w.halted && from_.any (· == w.launch))
      && !k.warps.any (fun e => !e.2.halted && field e.2.gang 38 36 != 0 && setMem (gangSlots e.2 e.1) slot)

/-- The runs of `g` slots that a block may take, the first to be tried first (R305): the free ones; with claims, then those that take
from the launches halted longest alone, from as few of them as will do (R360). -/
def slotRuns (s : State) (c g : Nat) (claims : Bool) : List Nat :=
  let runs (from_ : List Nat) : List Nat :=
    ((List.range (64 / g)).map (· * g)).filter (fun b => (List.range g).all (fun i => slotTakable s c (b + i) from_))
  let hs := haltedOn s c
  (List.range (if claims then hs.length + 1 else 1)).flatMap (fun n => runs (hs.take n))

/-- Claims the first run of slots whose owners' areas have room for all that it takes (R360, R361). -/
def claimRun (s : State) (c g : Nat) (claims : Bool) : Option (Nat × State) :=
  (slotRuns s c g claims).findSome? (fun base =>
    ((List.range g).foldl (fun (t : Option State) i => t.bind (fun t => claimSlot t c (base + i))) (some s)).map (fun t => (base, t)))

/-- The rows in use that so many more scratchpad and accumulator units would leave no place for (R285). -/
def rowsOver (s : State) (c units : Nat) : Nat :=
  let k := coreOf s c
  k.rows.length + 256 * ((k.launches.map (fun e => e.2.unitsHeld - e.2.reguHeld)).sum + units) - poolRows

/-- Claims so many halted rows (R360); none where fewer are claimable. -/
def claimRows (c : Nat) : Nat → State → Option State
  | 0, s => some s
  | n + 1, s => (claimableRow s c).bind (fun r => claimRows c n (spillRow s c r.2 r.1))

/-- Makes room for a launch's units, so many of them register units, and FIFOs on a core, claiming what is not free (R305, R360).
Halted rows whose register units have been claimed still stand in the pool: those that stand where a scratchpad or accumulator unit is
to be are claimed as well (notes/assumptions/66.md). -/
def makeRoom (s : State) (c units regu fifos : Nat) (claims : Bool) : Option State :=
  let u := units - unitsFree s c
  let f := fifos - fifosFree s c
  if u = 0 ∧ f = 0 ∧ rowsOver s c (units - regu) = 0 then some s
  else if claims then
    (claimUnits regu u s c).bind (fun s => (claimTimes (claimFifo · c) f s).bind (fun s => claimRows c (rowsOver s c (units - regu)) s))
  else none

/-! ## Placing a launch (R305, R306) -/

/-- g0 to g3 of a launch warp: the groups that it belongs to, in rising order (R22, R306). -/
def groupRegs (groups : List (List Nat)) (m : Nat) : Vector DWord 4 :=
  let mine := (List.range groups.length).filter (fun i => setMem (groups.getD i []) m)
  Vector.ofFn (fun j : Fin 4 => match mine[j.val]? with
    | some i => tv (256 + i)
    | none => 0)

/-- A launch warp as it starts (R34, R301, R306). -/
def launchWarp (l : Launch) (n m : Nat) : Warp :=
  warpReset n m (recEntry l.record) (tv (recDsbase l.record + m * stackStride l.record)) (recTvec l.record)
    (groupRegs l.groups m)

/-- Puts block `b` of a launch on a core, if it can take it (R305). The core fetches its code anew from then on, so that a
launch finds what was written before it started (R57). -/
def placeOn (s : State) (n b c : Nat) (claims : Bool) : Option State :=
  let l := launchOf s n
  let r := l.record
  let g := recGrain r
  let first := (fget? (coreOf s c).launches n).isNone
  if (coreOf s c).fenced || (coreOf s c).testing || decide ((clOf s c n).blocks ≥ recMaxblk r) then none
  else
    ((if first then makeRoom s c (recUnits r) (recRegu r) (recHos r) claims else some s).bind (fun s => claimRun s c g claims)).map
      (fun q =>
        let base := q.1
        let s := modCl (modCore q.2 c (fun k => { k with icache := [] })) c n (fun h =>
          let h := if first then coreLaunchReset (recUnits r) (recRegu r) (recHos r) else h
          { h with blocks := h.blocks + 1, slots := h.slots ++ (List.range g).map (base + ·) })
        (List.range g).foldl (fun s i =>
          let m := b * g + i
          if m ≥ recNwarps r then s
          else modLaunch (setWarp s c (base + i) (launchWarp l n m)) n (fun v => { v with
            slots := v.slots ++ ([(m, c, base + i)] : List (Nat × Nat × Nat)), placedOn := setAdd v.placedOn c })) s)

/-- The cores of a launch in the order of R305: fewest units in use, fewest occupied slots, lowest number. -/
def coreOrder (s : State) (n : Nat) : List Nat :=
  let l := launchOf s n
  sortOrd (fun a b =>
    let ka := (unitsInUse s a, (coreOf s a).warps.length)
    let kb := (unitsInUse s b, (coreOf s b).warps.length)
    decide (ka.1 < kb.1) || (ka.1 == kb.1 && (decide (ka.2 < kb.2) || (ka.2 == kb.2 && decide (a ≤ b)))))
    (openCores s (partOf s l.part) l.record)

/-- Places block `b`: with free state where any core can, else by claims (R305, R360). -/
def placeBlock (s : State) (n b : Nat) : Option State :=
  let cs := coreOrder s n
  match cs.findSome? (fun c => placeOn s n b c false) with
  | some t => some t
  | none => cs.findSome? (fun c => placeOn s n b c true)

/-- Places a queued launch whole, or not at all (R304 to R306). -/
def placeNew (s : State) (n : Nat) : Option State :=
  let l := launchOf s n
  let blocks := ceilDiv (recNwarps l.record) (recGrain l.record)
  ((List.range blocks).foldl (fun (t : Option State) b => t.bind (fun t => placeBlock t n b)) (some s)).map (fun s =>
    let (k, s) := takeStamp s
    modLaunch s n (fun v => { v with status := .running, placedAt := k }))

/-! ## Resumption (R363) -/

/-- Brings a halted launch's state back on a core: its units and FIFOs, then its warps into their own slots, which are
claimed from whoever holds them. -/
def resumeOn (s : State) (n c : Nat) : Option State :=
  let r := (launchOf s n).record
  let h := clOf s c n
  if (coreOf s c).fenced || (coreOf s c).testing then none
  else
    (((claimUnits (recRegu r) (recUnits r - unitsFree s c) s c).bind
      (claimTimes (claimFifo · c) (recHos r - h.fifosHeld - fifosFree s c))).bind
        (fun s => claimRows c (rowsOver s c (recUnits r - recRegu r)) s)).bind (fun s =>
        ((fkeys h.savedWarps).foldl (fun (t : Option State) w => t.bind (fun t => claimSlot t c w)) (some s)).map (fun s =>
          let saved := (clOf s c n).savedWarps
          let s := modCl s c n (fun h => { h with savedWarps := [], unitsHeld := recUnits r, reguHeld := recRegu r, fifosHeld := recHos r })
          saved.foldl (fun s e => setWarp s c e.1 e.2) s))

/-- Resumes a halted launch whole on its own cores, or not at all (R363). While its claims run it counts as running, so it
claims nothing from itself. -/
def resumeLaunch (s : State) (n : Nat) : Option State :=
  let cs := (s.cores.filter (fun e => (fget? e.2.launches n).isSome)).map (·.1)
  let s1 := modLaunch s n (fun v => { v with status := .queued })
  let s1 := { s1 with cores := s1.cores.map (fun e => (e.1, { e.2 with launches := e.2.launches.map (fun h =>
    if h.1 = n then (h.1, { h.2 with unitsHeld := 0, reguHeld := 0 }) else h) })) }
  (cs.foldl (fun (t : Option State) c => t.bind (fun t => resumeOn t n c)) (some s1)).map (fun s =>
    let (k, s) := takeStamp s
    let s := dropWhole (releaseLaunch s n) (launchOf s n).part n
    modLaunch s n (fun v => { v with placedAt := k }))

/-- Places or resumes a launch. -/
def placeLaunch (s : State) (n : Nat) : Option State :=
  if (launchOf s n).status = .halted then resumeLaunch s n else placeNew s n

/-! ## The choice of R304 -/

/-- The launches of a partition that the dispatcher may choose: accepted records, and halted launches that are not held by
a scan test (R304, R363, R380). -/
def candidates (s : State) (pn : Nat) : List (Nat × Launch) :=
  s.launches.filter (fun e => e.2.part == pn && e.2.term.isNone
    && (e.2.status == .queued || (e.2.status == .halted && !((e.2.stop.map (·.scan)).getD false))))

/-- Whether a launch comes before another of its tenant: a halted one before a record, then the older (R304, R363). -/
def comesFirst (a b : Launch) : Bool :=
  let h (v : Launch) : Bool := v.status == .halted
  if h a != h b then h a else if h a then decide (a.haltedAt ≤ b.haltedAt) else decide (a.arrival ≤ b.arrival)

/-- The first launch of a tenant in a class. -/
def firstOf (l : List (Nat × Launch)) : Option (Nat × Launch) :=
  l.foldl (fun b e => match b with
    | none => some e
    | some q => if comesFirst q.2 e.2 then some q else some e) none

/-- The launch that the dispatcher chooses next, with the credits once it is placed, the place of the rotation then, and the credits
meanwhile, since only placing spends (R304). -/
def chooseLaunch (s : State) (pn : Nat) : Option (Nat × FMap Int) :=
  let p := partOf s pn
  let all := candidates s pn
  match (List.range 4).find? (fun cl => all.any (fun e => classOf e.2 == cl)) with
  | none => none
  | some cl =>
    let here := all.filter (fun e => classOf e.2 == cl)
    let ts := here.foldl (fun l e => setAdd l e.2.tenant) []
    let first (t : Nat) : Option (Nat × Launch) := firstOf (here.filter (fun e => e.2.tenant == t))
    let base := 256 * cl
    let inClass (e : Nat × Int) : Bool := decide (base ≤ e.1) && decide (e.1 < base + 256)
    let mine := (p.credits.filter (fun e => inClass e && setMem ts (e.1 - base))).map (fun e => (e.1 - base, e.2))
    let quantum (t : Nat) : Int := 64 * max 1 (weightOf p t)
    let cost (t : Nat) : Int := ((first t).map (fun e => (recNwarps e.2.record : Int))).getD 0
    let order := rotation ts (fget p.served cl 0)
    match wdrr order quantum cost 40000 order mine with
    | none => none
    | some (t, cr) => (first t).map (fun e => (e.1, (fput cr t (fget cr t 0 + cost t)).foldl
        (fun m v => fput m (base + v.1) v.2) (p.credits.filter (fun e => !inClass e))))

/-- What placing a launch spends of its tenant's credit, and where the rotation goes on from then (R304). -/
def spendCredit (s : State) (pn n : Nat) : State :=
  let l := launchOf s n
  let at_ := 256 * classOf l + l.tenant
  modPart s pn (fun p => { p with
    credits := fput p.credits at_ (fget p.credits at_ 0 - recNwarps l.record)
    served := fput p.served (classOf l) l.tenant, choice := none })

/-! ## Victims (R356) -/

/-- The state as it would be if the launches that have been asked to stop had halted. -/
def supposeHalted (s : State) : State :=
  s.launches.foldl (fun s e =>
    if e.2.status = .halting then
      { modLaunch s e.1 (fun v => { v with status := .halted, haltedAt := s.stamp }) with
        cores := s.cores.map (fun c => (c.1, { c.2 with warps := c.2.warps.map (fun w =>
          if w.2.launch = e.1 then (w.1, { w.2 with halted := true }) else w) })) }
    else s) s

/-- The next victim for a launch: of a less urgent class, else of the same class and another tenant once SLICE has passed
since its placement, which a free value says; the one that has run longest (R356). -/
def nextVictim (s : State) (n k : Nat) : Option Nat :=
  let l := launchOf s n
  let run := s.launches.filter (fun e => e.2.part == l.part && e.2.status == .running && e.2.term.isNone && e.1 != n)
  let oldest_ (q : List (Nat × Launch)) : Option Nat :=
    (q.foldl (fun (b : Option (Nat × Launch)) e => match b with
      | none => some e
      | some v => if e.2.placedAt < v.2.placedAt then some e else some v) none).map (·.1)
  match oldest_ (run.filter (fun e => decide (classOf e.2 > classOf l))) with
  | some v => some v
  | none => oldest_ (run.filter (fun e => classOf e.2 == classOf l && e.2.tenant != l.tenant
      && decide (e.2.placedAt ≤ Config.freeNat k)))

/-- Asks victims to stop one at a time until the launch could be placed (R304, R356). -/
def requestVictims (n k : Nat) : Nat → State → State
  | 0, s => s
  | m + 1, s =>
    if (placeLaunch (supposeHalted s) n).isSome then s
    else match nextVictim s n k with
      | none => s
      | some v => requestVictims n k m (requestStop s v .victim)

/-! ## DISPATCH_PLACE -/

/-- Whether the dispatcher places nothing: during a command's handshake, in the partition that a merge takes in as well, a migration
or a restart (R353, R364, R377). -/
def dispatchStopped (s : State) (pn : Nat) : Bool :=
  let p := partOf s pn
  p.cmd.isSome || p.restart.isSome || p.stoppedForGood
    || s.parts.any (fun e => e.2.cmd.any (fun c => c.op == 1 && c.other == pn))

/-- DISPATCH_PLACE (R304): the launch chosen, or chosen before and not placed yet, is placed whole, or victims are asked to
stop for it. -/
def execDispatchPlace (part : Nat) (s : State) : Host.Outcome State Fault Refusal :=
  let p := partOf s part
  if dispatchStopped s part then .next s
  else
    let chosen := match p.choice.filter (fun n => (candidates s part).any (fun e => e.1 == n)) with
      | some n => some (n, p.credits)
      | none => chooseLaunch s part
    match chosen with
    | none => .next s
    | some (n, cr) =>
      let s := modPart s part (fun p => { p with choice := some n, credits := cr })
      match placeLaunch s n with
      | some t => .next (spendCredit t part n)
      | none =>
        let (k, s) := takeFree s
        .next (requestVictims n k s.launches.length s)

end Sys2Proof.Machine
end

