-- ==== Sys2Proof/Machine/Partitions.lean ====
section
/-! DEFINITION. Partition commands: merging and splitting by the handshake of R353, migration (R364 to R367), and the save
areas of R361. -/

namespace Sys2Proof.Machine

open Sys2Proof

/-! ## PAR_CMDST (R351) -/

/-- The results of a command (R351). -/
def parDone : Nat := 0
def parBusy : Nat := 1
def parBad : Nat := 2
def parInDoubt : Nat := 3
def parNoPeer : Nat := 4

/-- The number of a step (R351). -/
def stepNumber : CmdStep → Nat
  | .drain => 1
  | .rewrite => 2
  | .shootdown => 3
  | .stream => 4
  | .commit => 5

/-- PAR_CMDST of a command that runs. -/
def runningWord (c : Cmd) : DWord := tv (2 ^ 63 + 16 * stepNumber c.step)

/-- A command enters a step. -/
def setCmd (s : State) (pn : Nat) (c : Cmd) : State :=
  modPart s pn (fun p => { setReg p .parCmdst 0 (runningWord c) with cmd := some c })

/-- A command that begins with its drain. -/
def newCmd (op other octs rank : Nat) : Cmd := ⟨op, .drain, other, octs, rank, none, none⟩

/-- A command ends with a result. -/
def endCmd (s : State) (pn result : Nat) : State :=
  modPart s pn (fun p => { setReg p .parCmdst 0 (tv result) with cmd := none })

/-- The launches of a partition that have not ended. -/
def liveLaunches (s : State) (pn : Nat) : List (Nat × Launch) :=
  s.launches.filter (fun e => e.2.part == pn && e.2.status != .ended)

/-- Asks every launch of a partition to stop (R353, R364). -/
def stopAll (s : State) (pn : Nat) : State :=
  (liveLaunches s pn).foldl (fun s e => requestStop s e.1 .shake) s

/-- Withdraws the request of a command: launches that have not halted yet run on, unless another asks them to stop (R354). -/
def goOn (s : State) (pn : Nat) : State :=
  (liveLaunches s pn).foldl (fun s e => withdrawStop s e.1 .shake) s

/-- Whether a partition is empty (R352). -/
def isEmptyPart (s : State) (pn : Nat) : Bool :=
  let p := partOf s pn
  p.exists_ && p.osStopped && (List.range 256).all (fun t => !(reg p .schTctl t).getLsbD 0)
    && (liveLaunches s pn).isEmpty && !s.frames.any (fun e => frameIn p e.1 && e.2.state == 3)

/-- Whether octants may leave a partition (R352): a nonzero proper part of its own, their cores holding nothing of any
launch and their frames FREE or CLEAN. -/
def splitOk (s : State) (p : Partition) (octs : Nat) : Bool :=
  octs != 0 && octs != octMask p && (bitsSet 8 octs).all (fun o => (octMask p).testBit o) && decide (octs < 256)
    && s.cores.all (fun e => !octs.testBit (octOf e.1)
      || (e.2.warps.isEmpty && e.2.launches.isEmpty && e.2.rows.isEmpty
        && e.2.dir.all (fun d => d.2.state == .free) && e.2.tiles.all (fun t => t.2.state == .invalid)))
    && s.frames.all (fun e => !octs.testBit (e.1 / Config.framesPerOctant) || e.2.state == 0 || e.2.state == 2)

/-- Runs a write to PAR_CMD: while BUSY is set it is refused and logged (R351). -/
def parCommand (s : State) (pn : Nat) (w : DWord) (f : State → State) : State :=
  if (partOf s pn).cmd.isSome then refuseWrite s pn w
  else f (modPart s pn (fun p => setReg p .parCmd 0 w))

/-- PAR_CMD's word (R351). -/
def cmdWord (op rank other octs : Nat) : DWord :=
  tv (op * 2 ^ 60 + (rank % 2 ^ 16) * 2 ^ 32 + (other % 256) * 256 + octs % 256)

/-- PAR_MERGE (R352, R353). -/
def execParMerge (part other : Nat) (s : State) : Host.Outcome State Fault Refusal :=
  .next (parCommand s part (cmdWord 1 0 other 0) (fun s =>
    if part = other ∨ (partOf s other).yieldTo ≠ some part ∨ ¬ isEmptyPart s other then endCmd s part parBad
    else stopAll (setCmd s part (newCmd 1 other 0 0)) part))

/-- PAR_YIELD (R352): consent, recorded at once. -/
def execParYield (part other : Nat) (s : State) : Host.Outcome State Fault Refusal :=
  .next (parCommand s part (cmdWord 2 0 other 0) (fun s =>
    endCmd (modPart s part (fun p => { p with yieldTo := some other })) part parDone))

/-- PAR_SPLIT (R352, R353). -/
def execParSplit (part octs : Nat) (s : State) : Host.Outcome State Fault Refusal :=
  .next (parCommand s part (cmdWord 3 0 0 octs) (fun s =>
    if splitOk s (partOf s part) octs then stopAll (setCmd s part (newCmd 3 0 octs 0)) part
    else endCmd s part parBad))

/-- The partition of this module that holds an ACCEPT for a partition's rank and has the rank that its migration names (R364). -/
def localDest (s : State) (pn rank : Nat) : Option Nat :=
  (s.parts.find? (fun e => e.1 != pn && e.2.exists_ && e.2.acceptFrom == some (ownRank (partOf s pn))
    && ownRank e.2 == rank)).map (·.1)

/-- PAR_MIGRATE (R364). Whether a destination on another module holds an ACCEPT that names this rank, and how many octants it has, come
from there. -/
def execParMigrate (part rank : Nat) (accepted : Bool) (octants : Nat) (s : State) : Host.Outcome State Fault Refusal :=
  .next (parCommand s part (cmdWord 4 rank 0 0) (fun s =>
    let p := partOf s part
    let d := localDest s part rank
    let room := d.elim octants (fun d => (octsOf (partOf s d)).length)
    if !isPeer s p rank || !(accepted || d.isSome) then endCmd s part parNoPeer
    else if room < (octsOf p).length then endCmd s part parBad
    else stopAll (setCmd s part (newCmd 4 0 0 rank)) part))

/-- PAR_ACCEPT (R364): only an empty partition may receive; another is refused (notes/assumptions/24.md). -/
def execParAccept (part rank : Nat) (s : State) : Host.Outcome State Fault Refusal :=
  .next (parCommand s part (cmdWord 5 rank 0 0) (fun s =>
    if isEmptyPart s part then endCmd (modPart s part (fun p => { p with acceptFrom := some rank })) part parDone
    else endCmd s part parBad))

/-! ## The handshake (R353, R354) -/

/-- Whether an engine operation keeps a handshake waiting (R353): one that has passed its point of no return, beside the
feed programs and child launches, which stay with their halted launch (notes/assumptions/24.md). -/
def opHolds (e : EngineOp) : Bool :=
  e.passed && match e.kind with
    | .feedgo => false
    | .launch _ => false
    | _ => true

/-- Whether a core's queues are empty (R353). -/
def coreDrained (k : Core) : Bool :=
  k.inbox.isEmpty && k.accepted.isEmpty && k.storeQ.isEmpty && k.invals.isEmpty && !k.engines.any (fun e => opHolds e.2)

/-- Whether every launch of a partition has stopped and every queue of its octants is empty (R353). -/
def drained (s : State) (pn : Nat) : Bool :=
  let p := partOf s pn
  (liveLaunches s pn).all (fun e => e.2.status == .queued || e.2.status == .halted)
    && p.rootInbox.isEmpty && p.rootSlots.isEmpty && p.fetches.isEmpty && p.shooting.isNone && p.forwards.isEmpty
    && p.out.all (fun e => e.2.unacked.isEmpty) && p.inn.all (fun e => e.2.held.isEmpty)
    && p.peerLines.all (fun l => l.rsp.isSome)
    && s.cores.all (fun e => !coreIn p e.1 || coreDrained e.2)
    && s.frames.all (fun e => !frameIn p e.1 || !(e.2.flashing || e.2.wp))

/-- Gives a partition new octants (R353, step 2): the mask of its boundary and of its interleave, which takes the fold that the monitor
has written during the handshake (R293). -/
def rewriteOcts (p : Partition) (octs : Nat) : Partition :=
  let v := (p.cmd.bind (·.fold)).getD (reg p .parInterleave)
  setReg (setReg p .parNetBoundary 0 (tv octs)) .parInterleave 0 (setField v 7 0 octs)

/-- The number of a partition of these octants (R349). -/
def numberOf (octs : Nat) : Nat := (bitsSet 8 octs).headD 0

/-- Puts a partition's state under another number. -/
def renumber (s : State) (old new : Nat) : State :=
  if old = new then s
  else { s with
    parts := fput (fdel s.parts old) new (partOf s old)
    launches := s.launches.map (fun e => if e.2.part = old then (e.1, { e.2 with part := new }) else e) }

/-- A shoot-down of everything in a partition (R353, step 3). -/
def shootAll (s : State) (pn : Nat) : State := shootApply s pn (fun _ _ _ => true)

/-- A new, empty partition of some octants: it has no identity until its monitor sets one (R352, R353). Its folding of home
addresses is that of the partition it left. -/
def emptyPart (p : Partition) (octs : Nat) : Partition :=
  rewriteOcts { setReg partReset .parInterleave 0 (reg p .parInterleave) with exists_ := true, osStopped := true } octs

/-- Steps 2 and 3 of a MERGE (R352, R353). -/
def mergeNow (s : State) (pn other : Nat) : State :=
  let octs := octMask (partOf s pn) ||| octMask (partOf s other)
  let s := renumber { s with parts := fdel s.parts other } pn (min pn other)
  let n := min pn other
  refreshPorts (endCmd (shootAll (modPart s n (fun p => rewriteOcts p octs)) n) n parDone)

/-- Steps 2 and 3 of a SPLIT (R352, R353). -/
def splitNow (s : State) (pn octs : Nat) : State :=
  let p := partOf s pn
  let rest := octMask p - octs
  let s := renumber s pn (numberOf rest)
  let s := setPart (modPart s (numberOf rest) (fun p => rewriteOcts p rest)) (numberOf octs) (emptyPart (rewriteOcts p rest) octs)
  refreshPorts (endCmd (shootAll (shootAll s (numberOf rest)) (numberOf octs)) (numberOf rest) parDone)

/-- HANDSHAKE_DRAIN_DONE (R353, R364): with every queue empty, the masks are rewritten and everything is shot down; a
migration goes on to stream its image with its operating system stopped. -/
def execHandshakeDrainDone (part : Nat) (s : State) : Host.Outcome State Fault Refusal :=
  match (partOf s part).cmd with
  | none => .next s
  | some c =>
    if c.step ≠ .drain ∨ ¬ drained s part ∨ (c.op = 1 ∧ ¬ drained s c.other) then .next s
    else if c.op = 1 then .next (mergeNow s part c.other)
    else if c.op = 3 then .next (splitNow s part c.octs)
    else .next (modPart (setCmd s part { c with step := .stream }) part (fun p => { p with osStopped := true }))

/-- HANDSHAKE_TIMEOUT (R354): the command ends with PAR_BUSY; dispatch and the launches go on. With a MERGE, the other
partition's consent lapses (R352). -/
def execHandshakeTimeout (part : Nat) (s : State) : Host.Outcome State Fault Refusal :=
  match (partOf s part).cmd with
  | none => .next s
  | some c =>
    if c.step ≠ .drain then .next s
    else
      let s := goOn (endCmd s part parBusy) part
      .next (if c.op = 1 then modPart s c.other (fun p => { p with yieldTo := none }) else s)

/-! ## Migration (R365 to R367) -/

/-- The octant, frame and core of a destination that take what stood in a source: octants in rising order, each with its
own numbering (R365). -/
def moveOct (src dst : List Nat) (o : Nat) : Nat := dst.getD (src.findIdx (· == o)) 0
def moveFrame (src dst : List Nat) (f : Nat) : Nat :=
  moveOct src dst (f / Config.framesPerOctant) * Config.framesPerOctant + f % Config.framesPerOctant
def moveCore (src dst : List Nat) (c : Nat) : Nat :=
  moveOct src dst (octOf c) * Config.coresPerOctant + c % Config.coresPerOctant

/-- The entries of the tables from a table of a level on that name a frame (R315, R316): their addresses and words. -/
def tableEntries (s : State) (p : Partition) : Nat → Nat → List (Nat × DWord)
  | 0, table => (List.range 512).filterMap (fun i =>
      let pa := 4096 * table + 8 * i
      let e := BitVec.ofNat 64 (leNat (physRead s p 0 pa 8))
      if e.getLsbD 63 && !leafPeer e then some (pa, e) else none)
  | n + 1, table => (List.range 512).flatMap (fun i =>
      let pa := 4096 * table + 8 * i
      let e := BitVec.ofNat 64 (leNat (physRead s p 0 pa 8))
      if !e.getLsbD 63 then []
      else if e.getLsbD 10 then (if leafPeer e then [] else [(pa, e)])
      else (pa, e) :: tableEntries s p n (leafFrame e))

/-- The entries of every address space of a partition that name a frame (R314). -/
def allEntries (s : State) (p : Partition) : List (Nat × DWord) :=
  (List.range 4096).flatMap (fun a =>
    let pa := (reg p .llcRootbase).toNat + 8 * a
    let e := BitVec.ofNat 64 (leNat (physRead s p 0 pa 8))
    if e.getLsbD 63 then (pa, e) :: tableEntries s p 4 (leafFrame e) else [])

/-- A table of a level and the tables below it (R315). -/
def tablesFrom (s : State) (p : Partition) : Nat → Nat → List Nat
  | 0, table => [table]
  | n + 1, table => table :: (List.range 512).flatMap (fun i =>
      let e := BitVec.ofNat 64 (leNat (physRead s p 0 (4096 * table + 8 * i) 8))
      if e.getLsbD 63 && !e.getLsbD 10 then tablesFrom s p n (leafFrame e) else [])

/-- The frames that hold the address-space tables of a partition (R314, R315). -/
def tableFrames (s : State) (p : Partition) : List Nat :=
  let root := (reg p .llcRootbase).toNat
  ((pieces 4096 root (8 * 4096)) ++ (List.range 4096).flatMap (fun a =>
    let e := BitVec.ofNat 64 (leNat (physRead s p 0 (root + 8 * a) 8))
    if e.getLsbD 63 then tablesFrom s p 4 (leafFrame e) else [])).foldl setAdd []

/-- The image of a partition (R365): its OWNED frames and those that hold its address-space tables, its memory keys and registers,
and the halted state of its cores. Key slots are not carried and sealed tiles are discarded. -/
def captureImage (s : State) (pn : Nat) : Image :=
  let t := shootAll s pn
  let p := partOf t pn
  let owned := t.frames.filter (fun e => frameIn p e.1 && e.2.state == 3)
  let fr := (tableFrames t p).foldl (fun m f => if frameIn p f then fput m f (frameOf t f) else m) owned
  let has (f : Nat) : Bool := (fget? fr f).isSome
  { octs := octsOf p
    part := { p with keys := [], cmd := none }
    cores := (t.cores.filter (fun e => coreIn p e.1)).map (fun e => (e.1, { e.2 with
      l1 := [], icache := []
      tiles := e.2.tiles.filter (fun b => b.2.state != .sealed) }))
    launches := liveLaunches t pn
    frames := fr
    mem := t.mem.filter (fun e => has (e.1 / 4096))
    sides := t.sides.filter (fun e => has (e.1 / 32))
    sidePoison := t.sidePoison.filter (fun l => has (l / 32))
    poison := t.poison.filter (fun u => has (u / 256))
    unitKey := t.unitKey.filter (fun e => has (e.1 / 256))
    zeroLines := t.zeroLines.filter (fun l => has (l / 32)) }

/-- Moves the numbers of cores and launches in an engine operation. -/
def moveOp (rc rl : Nat → Nat) (e : EngineOp) : EngineOp :=
  let place : Place → Place
    | .memory => .memory
    | .scratch cs => .scratch (cs.map rc)
  { e with
    launch := rl e.launch
    kind := match e.kind with
      | .tile d a b => .tile d (place a) (place b)
      | .launch c => .launch (c.map rl)
      | .solicit q a => .solicit { q with cores := q.cores.map rc, launch := rl q.launch, askCore := rc q.askCore } a
      | .move d se dc de sent applied => .move d se (rc dc) de sent applied
      | k => k }

/-- Moves the numbers of cores and launches in what a core holds. -/
def moveState (rc rl : Nat → Nat) (k : Core) : Core :=
  let warp (w : Warp) : Warp := { w with launch := rl w.launch }
  { k with
    warps := k.warps.map (fun e => (e.1, warp e.2))
    launches := k.launches.map (fun e => (rl e.1, { e.2 with
      savedWarps := e.2.savedWarps.map (fun w => (w.1, warp w.2)) }))
    tiles := k.tiles.map (fun e => (e.1, { e.2 with launch := rl e.2.launch }))
    drainQ := k.drainQ.map (fun d => { d with launch := rl d.launch })
    futures := k.futures.map (fun e => (e.1, { e.2 with launch := rl e.2.launch }))
    dir := k.dir.map (fun e => (e.1, { e.2 with launch := rl e.2.launch }))
    engines := k.engines.map (fun e => (e.1, moveOp rc rl e.2)) }

/-- Moves the number of the core in the source of a record. -/
def moveSource (rc : Nat → Nat) : LaunchSource → LaunchSource
  | .child c o => .child (rc c) o
  | q => q

/-- Moves the numbers in a launch. -/
def moveLaunch (rc : Nat → Nat) (pn : Nat) (l : Launch) : Launch :=
  { l with
    part := pn
    source := moveSource rc l.source
    placedOn := l.placedOn.map rc
    slots := l.slots.map (fun e => (e.1, rc e.2.1, e.2.2)) }

/-- Moves the numbers in a saved item. -/
def moveItem (rc rl : Nat → Nat) : SaveItem → SaveItem
  | .row c l r => .row (rc c) (rl l) r
  | .unit c l => .unit (rc c) (rl l)
  | .fifo c l => .fifo (rc c) (rl l)
  | .warp c l w => .warp (rc c) (rl l) w
  | .tile c t b => .tile (rc c) t { b with launch := rl b.launch }

/-- The registers that name frames, with the place of the frame number: the root table, the ports' tables, the migration
rings (R314, R327, R338), the save areas (R361) and Ryukel's first frame (R376). -/
def moveRegs (rf : Nat → Nat) (p : Partition) : Partition :=
  let frameField (p : Partition) (n : RegName) : Partition :=
    if reg p n = 0 then p else setReg p n 0 (setField (reg p n) 45 12 (rf (field (reg p n) 45 12)))
  let p := [RegName.llcRootbase, .netRwinbase, .netTreebase, .netPeerbase, .llcMigring].foldl frameField p
  let p := if reg p .aszRklen = 0 then p else setReg p .aszRkbase 0 (tv (rf (reg p .aszRkbase).toNat))
  { p with regs := p.regs.map (fun e => if e.1.name = .parSave ∧ field e.2 63 44 ≠ 0 then
      (e.1, setField e.2 33 0 (rf (field e.2 33 0))) else e) }

/-- The partition that a destination becomes: the source's, with the destination's own octants and interleave. -/
def arrivedPart (src : Image) (p : Partition) (rc rl rf : Nat → Nat) : Partition :=
  let q := moveRegs rf src.part
  let q := setReg (setReg q .parInterleave 0 (reg p .parInterleave)) .parNetBoundary 0 (reg p .parNetBoundary)
  { setReg (setReg q .parCmd 0 (reg p .parCmd)) .parCmdst 0 (reg p .parCmdst) with
    rootBarriers := q.rootBarriers.map (fun e => ((rl e.1.1, e.1.2), { e.2 with reported := e.2.reported.map rc }))
    bkptStops := q.bkptStops.map (fun e => (rc e.1, e.2))
    pending := q.pending.map (fun r => { r with source := moveSource rc r.source })
    keyBusy := q.keyBusy.map (fun e => (e.1, e.2.map rl))
    netDev := p.netDev, osFrames := p.osFrames
    saves := q.saves.map (fun e => (e.1, e.2.map (fun i => (i.1, moveItem rc rl i.2))))
    log := p.log, logCount := p.logCount, osStopped := false, acceptFrom := none, yieldTo := none, meas3 := q.meas3
    wire := p.wire, keys := [], choice := none }

/-- Announces the identity of a partition on the ports of its group (R336, R367). -/
def announce (s : State) (pn : Nat) : State :=
  let p := partOf s pn
  let mac := (reg p .netMacaddr).setWidth 48
  let ip6 : BitVec 128 := (reg p .netIpv6h).setWidth 128 <<< 64 ||| (reg p .netIpv6l).setWidth 128
  let four : List SentItem := if (reg p .netIpv4).getLsbD 32 then [.arpReply mac ((reg p .netIpv4).setWidth 32)] else []
  let six : List SentItem := if ip6 = 0 then [] else [.neighborAdvert mac ip6]
  { s with sent := s.sent ++ (lagPorts s p).flatMap (fun o => (four ++ six).map (fun i => (o, i))) }

/-- Puts the memory of an image into the destination's frames, with every frame number in its tables moved
(notes/assumptions/24.md). -/
def placeMemory (s : State) (src : Image) (dst : List Nat) : State :=
  let rf := moveFrame src.octs dst
  let old : State := { s with
    mem := src.mem, unitKey := src.unitKey, zeroLines := src.zeroLines, poison := src.poison }
  let entries := allEntries old src.part
  let s := src.frames.foldl (fun s e =>
    { scrubFrame s (rf e.1) with frames := fput s.frames (rf e.1) { e.2 with tlbref := 0 } }) s
  let part (n : Nat) (x : Nat) : Nat := rf (x / n) * n + x % n
  let s := { s with
    mem := src.mem.foldl (fun m e => cellWrite m (part 4096 e.1) e.2) s.mem
    sides := src.sides.foldl (fun m e => fput m (part 32 e.1) e.2) s.sides
    sidePoison := src.sidePoison.foldl (fun m l => setAdd m (part 32 l)) s.sidePoison
    poison := src.poison.foldl (fun m u => setAdd m (part 256 u)) s.poison
    unitKey := src.unitKey.foldl (fun m e => fput m (part 256 e.1) e.2) s.unitKey
    zeroLines := src.frames.foldl (fun z e => (List.range 32).foldl (fun z i =>
      if setMem src.zeroLines (32 * e.1 + i) then z else setDel z (32 * rf e.1 + i)) z) s.zeroLines }
  entries.foldl (fun s e => physWrite s src.part 0 (part 4096 e.1)
    (placed (bytesOf64 (setField e.2 45 12 (rf (leafFrame e.2)))))) s

/-- Activates a destination with the image that has come in (R365, R366). -/
def activateImage (s : State) (pn : Nat) (src : Image) : State :=
  let dst := octsOf (partOf s pn)
  let rc := moveCore src.octs dst
  let base := s.nextLaunch
  let rl (l : Nat) : Nat := base + l
  let s := placeMemory s src dst
  let s := src.cores.foldl (fun s e => modCore s (rc e.1) (fun k => { moveState rc rl e.2 with
    xcnt := k.xcnt, cycles := k.cycles, credits := k.credits, served := k.served, fenced := k.fenced, testing := k.testing })) s
  let s := src.launches.foldl (fun s e => { s with
    launches := fput s.launches (rl e.1) (moveLaunch rc pn e.2), nextLaunch := max s.nextLaunch (rl e.1 + 1) }) s
  announce (refreshPorts (modPart s pn (fun p => arrivedPart src p rc rl (moveFrame src.octs dst)))) pn

/-- MIGRATION_COMMIT_SEND (R366): the stream has been acknowledged and COMMIT goes out, or it has failed: the destination
discards what it received and the source goes on. A destination on this module now holds the image. -/
def execMigrationCommitSend (part : Nat) (ok : Bool) (s : State) : Host.Outcome State Fault Refusal :=
  match (partOf s part).cmd with
  | none => .next s
  | some c =>
    if c.step ≠ .stream then .next s
    else if ok then
      let d := localDest s part c.rank
      let s := match d with
        | some d => { s with inbound := fput s.inbound d (captureImage s part) }
        | none => s
      .next (setCmd s part { c with step := .commit, dest := d })
    else .next (modPart (endCmd s part parBusy) part (fun p => { p with osStopped := false }))

/-- The image that has come in for a destination, from this module or another (R365; notes/assumptions/65.md). -/
def imageFor (s : State) (pn : Nat) : Option Image :=
  match fget? s.inbound pn with
  | some i => some i
  | none => fget? s.arrivals pn

/-- A destination takes its image up. -/
def dropImage (s : State) (pn : Nat) : State :=
  if (fget? s.inbound pn).isSome then { s with inbound := fdel s.inbound pn } else { s with arrivals := fdel s.arrivals pn }

/-- MIGRATION_COMMIT_RECEIVE (R366, R367): a destination that holds an ACCEPT and a whole image activates. -/
def execMigrationCommitReceive (part : Nat) (s : State) : Host.Outcome State Fault Refusal :=
  match (partOf s part).acceptFrom, imageFor s part with
  | some _, some src => .next (activateImage (dropImage s part) part src)
  | _, _ => .next s

/-- What a source becomes once its COMMIT is acknowledged (R366): every frame scrubbed, an empty partition. Its violation
log stays. -/
def emptied (s : State) (pn : Nat) : State :=
  let p := partOf s pn
  let fs := (octsOf p).flatMap (fun o => (List.range Config.framesPerOctant).map (fun i => Config.framesPerOctant * o + i))
  let s := fs.foldl (fun s f => modFrame (scrubFrame s f) f (fun _ => { frameReset with state := 2 })) (shootAll s pn)
  let s := { s with
    cores := s.cores.map (fun e => if coreIn p e.1 then
      (e.1, { coreReset with xcnt := e.2.xcnt, cycles := e.2.cycles, fenced := e.2.fenced, testing := e.2.testing }) else e)
    launches := s.launches.map (fun e => if e.2.part = pn then
      (e.1, { e.2 with status := .ended, stop := none, placedOn := [], slots := [], reported := true }) else e) }
  refreshPorts (setPart s pn { emptyPart p (octMask p) with log := p.log, logCount := p.logCount })

/-- Whether the destination of a migration has acknowledged its COMMIT: one on this module does so as it activates (R366). -/
def commitTaken (s : State) (c : Cmd) : Bool := c.dest.all (fun d => (fget? s.inbound d).isNone)

/-- MIGRATION_COMMIT_ACK (R366): acknowledged, the source is scrubbed and empty; with the peer fenced first, it stays stopped
in doubt. -/
def execMigrationCommitAck (part : Nat) (acked : Bool) (s : State) : Host.Outcome State Fault Refusal :=
  match (partOf s part).cmd with
  | none => .next s
  | some c =>
    if c.step ≠ .commit then .next s
    else if acked then .next (if commitTaken s c then endCmd (emptied s part) part parDone else s)
    else if !peerFenced s (partOf s part) c.rank then .next s
    else .next (modPart (endCmd s part parInDoubt) part (fun p => { p with stoppedForGood := true }))

/-! ## Save areas (R361) -/

/-- The frames of a save area. -/
def saveFrames (v : DWord) : List Nat := (List.range (field v 63 44)).map (fun i => field v 33 0 + i)

/-- Whether a tenant has halted state. -/
def hasHalted (s : State) (pn tenant : Nat) : Bool :=
  s.launches.any (fun e => e.2.part == pn && e.2.tenant == tenant && e.2.status == .halted)
    || !(saveOf (partOf s pn) tenant).isEmpty

/-- PAR_SAVE_WRITE (R361). -/
def execParSaveWrite (part tenant : Nat) (v : DWord) (s : State) : Host.Outcome State Fault Refusal :=
  let p := partOf s part
  if tenant = 0 || decide (tenant > 255) || hasHalted s part tenant
      || (saveFrames v).any (fun f => !frameIn p f || (frameOf s f).state != 2) then .next (refuseWrite s part v)
  else
    let s := (saveFrames (reg p .parSave tenant)).foldl (fun s f =>
      modFrame s f (fun e => { e with state := 0, tenant := 0, save := false })) s
    let s := (saveFrames v).foldl (fun s f =>
      modFrame s f (fun e => { e with state := 3, tenant := 0, save := true })) s
    .next (modPart s part (fun p => setReg p .parSave tenant (setField v 43 34 0)))

end Sys2Proof.Machine
end

