-- ==== Sys2Proof/Machine/Reliability.lean ====
section
/-! DEFINITION. Errors and their containment: protected structures (R368 to R370), the restart of Ryukel (R376, R377),
fencing (R378, R379) and the scan test (R380). -/

namespace Sys2Proof.Machine

open Sys2Proof

/-! ## Protected structures (R368) -/

/-- REL_CE for a structure of an octant, 0xFF for none (R373, R374). -/
def raiseCe (s : State) (pn oct addr structure_ : Nat) : State :=
  postEvent s pn 0x0903 oct 0xFF 0 (BitVec.ofNat 64 addr) (BitVec.ofNat 64 structure_)

/-- REL_CE or REL_UE of a structure in a core (R374). -/
def coreError (s : State) (c : Nat) (ok : Bool) (launch : BitVec 32) (addr structure_ : Nat) : State :=
  coreEvent s (if ok then 0x0903 else 0x0904) c launch (BitVec.ofNat 64 addr) (BitVec.ofNat 64 structure_)

/-- A structure that R374 gives no code to: a free value stands for it. -/
def freeStructure (s : State) : Nat × State :=
  let (k, s) := takeFree s
  (Config.freeNat k % 256, s)

/-- The canonical NaN in every accumulator element of the columns of a lost tile (R370). -/
def nanColumns (a : AccSlot) (cols : List Nat) : AccSlot :=
  let at_ := (List.range 32).flatMap (fun r => cols.map (fun q => 256 * r + q))
  { a with words := at_.foldl (fun m i => fput m i 0x7FC00000#32) a.words }

/-- The identifier of the launch that a B tile belongs to, 0 for an INVALID one (R30, R373). -/
def tileLaunch (s : State) (c t : Nat) : BitVec 32 :=
  if (tileOf (coreOf s c) t).state = .invalid then 0 else (launchOf s (tileOf (coreOf s c) t).launch).id

/-- A tile is lost (R368, R370): it is INVALID, a fill of it ends, and an MMA that reads it gives NaN in the affected
columns. -/
def loseTile (s : State) (c tile : Nat) (mma : Option (Nat × Nat × Nat × List Nat)) : State :=
  let id := mma.elim (tileLaunch s c tile) (fun m => (launchOf s m.1).id)
  let s := (tileOf (coreOf s c) tile).fills.foldl (fun s o => endOp s c o .failed cRelUe 0) s
  let s := modCore s c (fun k => setTile k tile { tileOf k tile with state := .invalid, fills := [] })
  let s := match mma with
    | none => s
    | some (l, first, n, cols) => (List.range n).foldl (fun s i => modCl s c l (fun h =>
        { h with accs := fput h.accs (first + i) (nanColumns (fget h.accs (first + i) accReset) cols) })) s
  coreEvent s 0x0907 c id (BitVec.ofNat 64 tile) 0

/-- The octant of the slice that holds a physical line, or of its HBM where none does (R1, R373). -/
def lineOct (p : Partition) (pline : Nat) : Nat :=
  match p.llc.find? (fun e => 32 * e.frame + e.line % 32 == pline) with
  | some e => e.slice / 16
  | none => pline / 32 / Config.framesPerOctant

/-- The identifier of a launch of a warp that names a pool row, 0 where none does (R373). -/
def rowLaunch (s : State) (c r : Nat) : BitVec 32 :=
  match (coreOf s c).warps.find? (fun w => w.2.names.any (fun n => n.2 == .resident r)) with
  | some w => (launchOf s w.2.launch).id
  | none => 0

/-- The physical address of a virtual line that an L1 or instruction cache held, 0 where it has no translation now. -/
def lineAddr (s : State) (c asid va : Nat) : Nat :=
  ((physOf s (partOf s (partOfCore s c)) asid va).map (·.1)).getD 0

/-- The fate of an uncorrectable error (R368). -/
def uncorrectable (s : State) : EccSite → State
  | .row c r l =>
    let s := if rowFree (coreOf s c) r then s else
      modCore s c (fun k => setRow k r { rowOf k r with poison := (rowOf k r).poison ||| (1#32 <<< (l % 32)) })
    coreError s c false (rowLaunch s c r) r 1
  | .accumulator c l n r q =>
    let mark (a : AccSlot) : AccSlot := { a with poison := setAdd a.poison (256 * r + q) }
    let s := modCl s c l (fun h => { h with accs := fput h.accs n (mark (fget h.accs n accReset)) })
    coreError s c false (launchOf s l).id n 1
  | .scratch c l g =>
    coreError (modCl s c l (fun h => { h with spoison := setAdd h.spoison g })) c false (launchOf s l).id (16 * g) 2
  | .l1 c line =>
    let a := ((coreOf s c).l1.find? (fun v => v.line == line)).map (·.asid)
    coreError (modCore s c (fun k => { k with l1 := k.l1.filter (fun v => v.line != line) })) c true 0
      (lineAddr s c (a.getD 0) (128 * line)) 3
  | .icache c b =>
    let a := ((coreOf s c).icache.find? (fun v => v.block == b)).map (·.asid)
    coreError (modCore s c (fun k => { k with icache := k.icache.filter (fun v => v.block != b) })) c true 0
      (lineAddr s c (a.getD 0) (128 * b)) 8
  | .llc p u => raiseUe (poisonUnit s u) p (lineOct (partOf s p) (u / 8)) (16 * u) 4
  | .hbm p u => hbmUe (poisonUnit (poisonUnit s (u / 2 * 2)) (u / 2 * 2 + 1)) p (32 * (u / 2))
  | .sideWord p line =>
    raiseUe { s with sidePoison := setAdd s.sidePoison line } p (lineOct (partOf s p) line) (128 * line) 4
  | .btile c t mma => loseTile (coreError s c false (tileLaunch s c t) t 6) c t mma
  | .scale c e => coreError (modCore s c (fun k => { k with scale := fput k.scale e 0x007F })) c false 0 e 7
  | .warpState c w =>
    let (n, s) := freeStructure s
    match warpOf? s c w with
    | none => coreError s c false 0 0 n
    | some v => terminate (coreError s c false (launchOf s v.launch).id 0 n) v.launch
        { kernelTerm s v.launch with byKernel := false }
  | .fabric p => raiseUe s p 0xFF 0 9
  | .ethernet p =>
    let (n, s) := freeStructure s
    raiseUe s p 0xFF 0 n
  | .kernelFrame p pa => hbmUe (poisonUnit (poisonUnit s (pa / 32 * 2)) (pa / 32 * 2 + 1)) p pa

/-- A corrected error (R368): REL_CE only; a cache line with a parity error is dropped as an uncorrectable one is. -/
def correctable_ (s : State) : EccSite → State
  | .row c r _ => coreError s c true (rowLaunch s c r) r 1
  | .accumulator c l n _ _ => coreError s c true (launchOf s l).id n 1
  | .scratch c l g => coreError s c true (launchOf s l).id (16 * g) 2
  | .l1 c line => uncorrectable s (.l1 c line)
  | .icache c b => uncorrectable s (.icache c b)
  | .llc p u => raiseCe s p (lineOct (partOf s p) (u / 8)) (16 * u) 4
  | .hbm p u => raiseCe s p (u / 256 / Config.framesPerOctant) (32 * (u / 2)) 5
  | .sideWord p line => raiseCe s p (lineOct (partOf s p) line) (128 * line) 4
  | .btile c t _ => coreError s c true (tileLaunch s c t) t 6
  | .scale c e => coreError s c true 0 e 7
  | .warpState c w =>
    let (n, s) := freeStructure s
    coreError s c true ((warpOf? s c w).elim 0 (fun v => (launchOf s v.launch).id)) 0 n
  | .fabric p => raiseCe s p 0xFF 0 9
  | .ethernet p =>
    let (n, s) := freeStructure s
    raiseCe s p 0xFF 0 n
  | .kernelFrame p pa => raiseCe s p (pa / 4096 / Config.framesPerOctant) pa 5

/-! ## Restarting Ryukel (R376, R377) -/

/-- A trigger of a restart (R377): every launch is asked to stop, and step 2 runs once they have. A third restart within one
second, which a free value says, leaves the partition frozen. A trigger before THAW begins again at step 2. -/
def triggerRestart (s : State) (pn : Nat) : State :=
  if (partOf s pn).kernelDown then s
  else
    let (k, s) := takeFree s
    let (m, s) := takeFree s
    let (t, s) := takeStamp s
    let third := decide ((partOf s pn).restarts.length ≥ 2) && (Config.freeDWord k).getLsbD 0
    let s := modPart s pn (fun p => { p with
      restart := some ⟨false⟩, restarts := p.restarts ++ [t], kernelDown := third
      monitorMail := if third then p.monitorMail ++ [Config.freeDWord m] else p.monitorMail })
    let s := s.launches.foldl (fun s e =>
      if e.2.part = pn ∧ e.2.status ≠ .ended then requestStop s e.1 .freeze else s) s
    runRestart s pn

/-- ECC_ERROR (R368, R376). -/
def execEccError (site : EccSite) (correctable : Bool) (s : State) : Host.Outcome State Fault Refusal :=
  if correctable then .next (correctable_ s site)
  else match site with
    | .kernelFrame p pa =>
      if setMem (kernelFrames (partOf s p)) (pa / 4096) then .next (triggerRestart (uncorrectable s site) p)
      else .next (uncorrectable s site)
    | _ => .next (uncorrectable s site)

/-- RKPET_WRITE (R376): the watchdog's count starts again. The model holds no clock: when the watchdog expires is an event
(notes/assumptions/2.md), and the register reads as zero. -/
def execRkpetWrite (_part : Nat) (s : State) : Host.Outcome State Fault Refusal := .next s

/-- WATCHDOG_EXPIRE (R376): only while EN is set. -/
def execWatchdogExpire (part : Nat) (s : State) : Host.Outcome State Fault Refusal :=
  if (reg (partOf s part) .aszRkctl).getLsbD 63 then .next (triggerRestart s part) else .next s

/-- REL_KERNEL_RESTART goes before the held records (R377). -/
def restartRecord (s : State) (pn : Nat) : State :=
  let (k, s) := takeFree s
  let recd := [BitVec.ofNat 64 (0x090D * 2 ^ 48 + 0xFF * 2 ^ 40 + 0xFF * 2 ^ 32), 0,
    tv (field (reg (partOf s pn) .aszRkctl) 31 0), Config.freeDWord k]
  modPart s pn (fun p => { p with heldEvents := recd :: p.heldEvents })

/-- THAW (R377): dispatch resumes, and the held records are posted. -/
def execThaw (part : Nat) (s : State) : Host.Outcome State Fault Refusal :=
  match (partOf s part).restart with
  | none => .next s
  | some r =>
    if !r.ran || (partOf s part).kernelDown then .next s
    else
      let s := modPart s part (fun p => { p with restart := none })
      .next (flushCompletions (flushEvents (restartRecord s part) part) part)

/-! ## Fencing (R378, R379) -/

/-- Whether a launch has a warp on a core, in a slot or saved, or is halted there (R359, R378). -/
def standsOn (s : State) (c l : Nat) : Bool :=
  (coreOf s c).warps.any (fun w => w.2.launch == l) || !(clOf s c l).savedWarps.isEmpty || (launchOf s l).status == .halted

/-- Fences a core (R378): it leaves placement until module reset, its bit in ASZ_FENCED is set, and every launch with a warp
or halted state on it is terminated. -/
def fenceCore (s : State) (c : Nat) : State :=
  let o := octOf c
  let s := modCore s c (fun k => { k with fenced := true })
  let s := { s with fencedMask := fput s.fencedMask o (fget s.fencedMask o 0 ||| (1#64 <<< (c % Config.coresPerOctant))) }
  let s := coreEvent s 0x0908 c 0 0 0
  (((coreOf s c).launches.map (·.1)).filter (standsOn s c)).foldl (fun s l =>
    terminate s l { kernelTerm s l with byKernel := false }) s

/-- A long-latency operation whose value came through a dead router: lane words come back poisoned, a scalar kills its warp (R182,
R184). -/
def loseValue (k : Nat) (o : LongOp) : LongOp :=
  { o with
    names := o.names.map (fun n => { n with poison := n.poison ||| (n.mask &&& BitVec.ofNat 32 (Config.freeNat k)) })
    scalars := o.scalars.map (fun v => (v.1, 0))
    kill := if o.scalars.isEmpty then o.kill else some o.addr }

/-- Of some lines under way to a core, those that come through an octant's mesh: all to a core of the octant, else those of its
slices (R293, R378). -/
def linesThrough (s : State) (oct c : Nat) (ls : List Nat) : List Nat :=
  ls.filter (fun l => octOf c == oct || homeOf (partOf s (partOfCore s c)) (128 * l) / 16 == oct)

/-- A line under way through an octant's mesh may have been in a dead router or on a dead link: it comes back uncorrectable, to a load
(R182, R184, R378) or to an engine operation (R229). Which lines were is not stated, so free values say. -/
def loseInFlight (s : State) (oct : Nat) : State :=
  s.cores.foldl (fun s e =>
    let s := (coreOf s e.1).warps.foldl (fun s w =>
      let (k, s) := takeFree s
      let (m, s) := takeFree s
      setWarp s e.1 w.1 { w.2 with ops := w.2.ops.mapIdx (fun i o =>
        if (linesThrough s oct e.1 (o.lines.map (·.2))).isEmpty ∨ ¬ (Config.freeNat k).testBit i then o else loseValue m o) }) s
    (coreOf s e.1).engines.foldl (fun s o =>
      let (k, s) := takeFree s
      let new := (linesThrough s oct e.1 (opSrcLines e.1 o.2)).filter (fun l => !o.2.read.any (fun r => r.1 == l))
      let lost := (List.range new.length).filter (fun i => (Config.freeNat k).testBit i)
      modOp s e.1 o.1 (fun q => { q with
        read := q.read ++ lost.map (fun i => (new.getD i 0, List.replicate 128 ((0 : Byte), true))) })) s) s

/-- ROUTER_FAILURE (R378): the router is fenced, and with it the cores, slices and port of its octant that no new route
reaches. -/
def execRouterFailure (oct col row : Nat) (lostCores lostSlices : List Nat) (lostPort : Bool) (s : State) :
    Host.Outcome State Fault Refusal :=
  if oct ≥ 8 ∨ col ≥ 8 ∨ row ≥ 6 ∨ s.routersDown.any (· == (oct, col, row)) then .next s
  else
    let s := loseInFlight { s with routersDown := s.routersDown ++ ([(oct, col, row)] : List (Nat × Nat × Nat)) } oct
    let s := lostCores.foldl (fun s c => if c < Config.coresPerOctant then fenceCore s (Config.coresPerOctant * oct + c) else s) s
    let s := { s with
      slicesDown := s.slicesDown ++ ((lostSlices.filter (fun n => decide (n < 16))).map (fun n => (oct, n)))
      portsDown := if lostPort then setAdd s.portsDown oct else s.portsDown }
    .next (postEvent (refreshPorts s) (partOfOct s oct) 0x0909 oct 0xFF 0 0 (tv (256 * col + row)))

/-- Fences an octant that the remaining links no longer join to the rest of its partition: its cores leave placement, its slices
are lost and its port leaves the group (R378, R379; notes/assumptions/67.md). -/
def fenceOct (s : State) (o : Nat) : State :=
  let s := (List.range Config.coresPerOctant).foldl (fun s i =>
    let c := Config.coresPerOctant * o + i
    if (coreOf s c).fenced then s else fenceCore s c) s
  { s with
    slicesDown := s.slicesDown ++ ((List.range 16).filter (fun n => !s.slicesDown.any (· == (o, n)))).map (fun n => (o, n))
    portsDown := setAdd s.portsDown o }

/-- The octants of a partition that no link joins any more to its lowest, where its census root and its Assize are (R329, R382). -/
def cutOff (s : State) (p : Partition) : List Nat :=
  (octsOf p).filter (fun o => !reaches s ((octsOf p).headD 0) o)

/-- LINK_FAILURE (R334, R379): the link is fenced. What was on it comes back uncorrectable, minimal routes over the remaining links
take the place of those over it, and an octant that none reaches is fenced. -/
def execLinkFailure (a b : Nat) (s : State) : Host.Outcome State Fault Refusal :=
  let l := (min a b, max a b)
  if !isLink a b || s.linksDown.any (· == l) then .next s
  else
    let s := (octsOver s l).foldl loseInFlight s
    let s := loadRoutes { s with linksDown := s.linksDown ++ ([l] : List (Nat × Nat)) }
    let s := (s.parts.flatMap (fun e => cutOff s e.2)).foldl fenceOct s
    let ps := setAdd [partOfOct s l.1] (partOfOct s l.2)
    .next (ps.foldl (fun s p => postEvent s p 0x090A 0xFF 0xFF 0 0 (tv (256 * l.1 + l.2))) (refreshPorts s))

/-! ## The scan test (R380) -/

/-- SCAN_TEST_START (R380): with EN set, the core leaves placement and its launches are asked to stop at safe points; one
core of an octant at a time. -/
def execScanTestStart (core : Nat) (s : State) : Host.Outcome State Fault Refusal :=
  let p := partOf s (partOfCore s core)
  if core ≥ Config.cores || !(reg p .aszScanctl).getLsbD 63 || (coreOf s core).fenced
      || s.scans.any (fun t => octOf t.core == octOf core) then .next s
  else
    let ls := (coreOf s core).warps.foldl (fun l w => setAdd l w.2.launch) []
    let mine := ls.filter (fun l => (launchOf s l).term.isNone)
    let s := { modCore s core (fun k => { k with testing := true }) with
      scans := s.scans ++ ([⟨core, mine⟩] : List ScanTest) }
    .next (mine.foldl (fun s l => requestStop s l .scan) s)

/-- Ends a scan test: placement returns, and the launches that it stopped go on, unless the test of another core still asks them to
stop (R380). -/
def endScan (s : State) (t : ScanTest) : State :=
  let s := { modCore s t.core (fun k => { k with testing := false }) with scans := s.scans.filter (fun u => u.core != t.core) }
  (t.launches.filter (fun l => !s.scans.any (fun u => setMem u.launches l))).foldl (fun s l => withdrawStop s l .scan) s

/-- SCAN_DEFER_EXPIRE (R380): the request is withdrawn, and REL_SCAN_OVERDUE says how long the test was deferred. -/
def execScanDeferExpire (core : Nat) (s : State) : Host.Outcome State Fault Refusal :=
  match s.scans.find? (fun t => t.core == core) with
  | none => .next s
  | some t =>
    let ms := field (reg (partOf s (partOfCore s core)) .aszScanctl) 15 0
    .next (coreEvent (endScan s t) 0x090C core 0 0 (tv ms))

/-- Whether the test of a core is deferred (R380): a path has not stopped, a warp is in trap mode, or a warp of class 0 is
on the core. -/
def scanDeferred (s : State) (core : Nat) : Bool :=
  (coreOf s core).warps.any (fun w => !warpStopped w.2 || w.2.trapMode || classOf (launchOf s w.2.launch) == 0)

/-- SCAN_TEST_COMPLETE (R380): the test has run; a core that fails is fenced. -/
def execScanTestComplete (core : Nat) (pass : Bool) (s : State) : Host.Outcome State Fault Refusal :=
  match s.scans.find? (fun t => t.core == core) with
  | none => .next s
  | some t =>
    if scanDeferred s core then .next s
    else if pass then .next (endScan s t)
    else .next (endScan (fenceCore s core) t)

end Sys2Proof.Machine
end

