-- ==== Sys2Proof/Machine/Platform.lean ====
section
/-! DEFINITION. The module: boot (R382 to R384), attestation and key release (R385 to R388), management (R390), power (R391),
and the Ethernet ports (R336, R337, R339, R348). -/

namespace Sys2Proof.Machine

open Sys2Proof

/-! ## Boot (R382, R383) -/

/-- Holds octants and reports the stage that failed over management (R382; notes/assumptions/26.md). -/
def holdOctants (s : State) (octs : List Nat) (stage : Nat) : State :=
  { s with
    octHeld := octs.foldl setAdd s.octHeld
    mgmtOut := s.mgmtOut ++ octs.map (fun o => (o, leBytes 1 stage)) }

/-- A partition as it boots (R293, R338, R350): its registers that the configuration image sets, and its operating system with its
measurement; one whose image does not verify does not run. -/
def bootPart (mask : Nat) (mac : BitVec 48) (os : List Byte) (good : Bool) : Partition :=
  let p := { partReset with
    exists_ := true, osStopped := !good
    kernelImage := if good then os else []
    meas3 := if good then sha3 os else 0 }
  let p := setReg p .parNetBoundary 0 (tv mask)
  let p := setReg p .parInterleave 0 (tv (0x10000 + mask))
  setReg p .netMacaddr 0 (mac.setWidth 64)

/-- Whether an image verifies: its signature is one of its digest under a key (R382). -/
def imageOk (key : List Byte) (i : List Byte × List Byte) : Bool := Config.mlDsaVerify key (sha3 i.1) i.2

/-- Whether an image verifies under the Salken root key, whose digest must be the one in ROM (R382). -/
def rootOk (image : BootImage) (i : List Byte × List Byte) : Bool :=
  decide (sha3 image.rootKey = Config.romDigest) && imageOk image.rootKey i

/-- The operating system's image of a partition of the configuration, and whether it verifies under the operator's key (R382). -/
def osImage (image : BootImage) (n : Nat) : List Byte × Bool :=
  match image.os.find? (fun e => e.1 == n) with
  | some e => (e.2.1, imageOk image.operatorKey e.2)
  | none => ([], false)

/-- Sets up the partitions of the configuration image: an octant belongs to the first that names it, unless it is held, and one that
none names stays held (R349, R382, R383). -/
def bootParts (image : BootImage) : List (Nat × Nat) → Nat → State → State
  | [], used, s => holdOctants s ((List.range 8).filter (fun o => !used.testBit o && !setMem s.octHeld o)) 1
  | (n, m) :: ms, used, s =>
    let mask := ((List.range 8).filter (fun o => m.testBit o && !used.testBit o && !setMem s.octHeld o)).foldl
      (fun v o => v + 2 ^ o) 0
    if mask = 0 then bootParts image ms used s
    else
      let os := osImage image n
      let s := setPart s ((bitsSet 8 mask).headD 0) (bootPart mask (fget image.macs n 0) os.1 os.2)
      bootParts image ms (used + mask) (if os.2 then s else holdOctants s (bitsSet 8 mask) 3)

/-- A core fenced at delivery (R383). -/
def fenceAtDelivery (s : State) (c : Nat) : State :=
  if c ≥ Config.cores then s
  else { modCore s c (fun k => { k with fenced := true }) with
    fencedMask := fput s.fencedMask (octOf c) (fget s.fencedMask (octOf c) 0 ||| (1#64 <<< (c % Config.coresPerOctant))) }

/-- The public halves of the two key pairs that a seed generates: ML-DSA-44 of 1,312 bytes, ML-KEM-768 of 1,184 (R384). -/
def publicKeys (seed : BitVec 256) : List Byte :=
  (List.range 1312).map (Config.mlDsaPublic seed) ++ (List.range 1184).map (Config.mlKemPublic seed)

/-- The Assizes of some octants derive their seeds from their dies; that of octant 0 certifies the other octants' public keys under
its own, the device identity key (R384). -/
def deriveKeys (s : State) (octs : List Nat) : State :=
  let s := { s with seeds := octs.foldl (fun m o => fput m o (sha3 (Config.puf o))) s.seeds }
  match fget? s.seeds 0 with
  | none => s
  | some root => { s with certs := (octs.filter (fun o => o != 0)).foldl (fun m o =>
      fput m o (Config.certificate root (publicKeys (fget s.seeds o 0)))) s.certs }

/-- The octants whose Assize has firmware that verifies under the root key (R382). -/
def goodAssizes (image : BootImage) : List Nat :=
  (List.range 8).filter (fun o => (image.assize[o]?).any (rootOk image))

/-- The stage of the Assizes (R382, R384): each runs and is measured if its firmware verifies; otherwise its octant stays held. -/
def bootAssizes (image : BootImage) (s : State) : State :=
  let good := goodAssizes image
  let s := { s with meas := good.foldl (fun m o => fput m o (sha3 ((image.assize[o]?).getD ([], [])).1)) s.meas }
  deriveKeys (holdOctants s ((List.range 8).filter (fun o => !good.contains o)) 0) good

/-- The octants that have not been held. -/
def freeOcts (s : State) : List Nat := (List.range 8).filter (fun o => !setMem s.octHeld o)

/-- Puts a digest into the measurement register of a later stage; the first eight numbers of `meas` are the octants' firmware
(R382). -/
def setMeas (s : State) (stage : Nat) (d : BitVec 256) : State := { s with meas := fput s.meas (8 * stage) d }

/-- MODULE_BOOT (R382 to R384): each stage runs and is measured only if it verifies; an image with a sequence number below the
one held is refused. A module that has booted, or that holds octants whose stage failed, boots again only after reset. -/
def execModuleBoot (image : BootImage) (s : State) : Host.Outcome State Fault Refusal :=
  if s.booted || !s.octHeld.isEmpty then .next s
  else
    let s := bootAssizes image s
    let octs := freeOcts s
    if octs.isEmpty then .next s
    else if !rootOk image image.config || decide (image.seq.toNat < s.configSeq.toNat) then .next (holdOctants s octs 1)
    else
      let s := { setMeas s 1 (sha3 image.config.1) with configSeq := image.seq, operatorKey := image.operatorKey }
      let s := image.fencedCores.foldl fenceAtDelivery s
      if !imageOk image.operatorKey image.monitor then .next (holdOctants s octs 2)
      else .next (refreshPorts { bootParts image image.octmasks 0 (setMeas s 2 (sha3 image.monitor.1)) with booted := true })

/-! ## Attestation (R385, R386) -/

/-- The bytes of a digest (notes/assumptions/26.md). -/
def digestBytes (d : BitVec 256) : List Byte := leBytes 32 d.toNat

/-- The launch measurement of a report (R385): of a launch of the partition, or zero; which, the request does not say, so a
free value does. -/
def reportMeasure (s : State) (pn : Nat) : BitVec 256 × State :=
  let (k, s) := takeFree s
  let ls := s.launches.filter (fun e => e.2.part == pn && e.2.status != .ended)
  (((ls[Config.freeNat k % (ls.length + 1)]?).map (·.2.measure)).getD 0, s)

/-- A partition's lowest octant, whose Assize acts for it (R382, R385, R387). -/
def lowestOct (p : Partition) : Nat := (octsOf p).headD 0

/-- ASZ_MEAS0 to ASZ_MEAS3 of a partition (R382). -/
def stageMeas (s : State) (p : Partition) (i : Nat) : BitVec 256 :=
  if i = 0 then fget s.meas (lowestOct p) 0 else if i = 3 then p.meas3 else fget s.meas (8 * i) 0

/-- The part of a report that is signed (R385): its first 204 bytes. -/
def reportHead (s : State) (pn : Nat) (nonce : List Byte) (m : BitVec 256) : List Byte :=
  let p := partOf s pn
  leBytes 4 1 ++ leBytes 2 pn ++ leBytes 2 (octMask p) ++ nonce
    ++ (List.range 4).flatMap (fun i => digestBytes (stageMeas s p i))
    ++ leBytes 4 s.configSeq.toNat ++ digestBytes m

/-- A report (R385): its head, the signature of 2,420 bytes by the key of the partition's lowest octant, and the certificates. -/
def reportBytes (s : State) (pn : Nat) (nonce : List Byte) (m : BitVec 256) : List Byte :=
  let o := lowestOct (partOf s pn)
  let head := reportHead s pn nonce m
  head ++ (List.range 2420).map (Config.mlDsaSign (fget s.seeds o 0) head) ++ fget s.certs o [] ++ Config.deviceCertificate

/-- Writes a report 64 bytes above the nonce that it signs; frames outside the partition are refused and logged (R375). -/
def putReport (s : State) (pn : Nat) (pa : DWord) (bs : List Byte) : State :=
  let p := partOf s pn
  if (pieces 4096 pa.toNat (64 + bs.length)).any (fun f => !frameIn p f) then gpcViolation s pn 2 0 pa
  else physStore (modPart s pn (fun p => setReg p .aszAttreq 0 pa)) pn (pa.toNat + 64) (placed bs)

/-- ATTEST_REQUEST (R385): the nonce is read at the address, and the report written above it. -/
def execAttestRequest (part : Nat) (pa : DWord) (s : State) : Host.Outcome State Fault Refusal :=
  let (m, s) := reportMeasure s part
  .next (putReport s part pa (reportBytes s part (physRead s (partOf s part) 0 pa.toNat 32) m))

/-! ## Key release (R387, R388) -/

/-- The live launch of a partition with an identifier. -/
def launchById (s : State) (pn : Nat) (id : Nat) : Option Nat :=
  (s.launches.find? (fun e => e.2.part == pn && e.2.status != .ended && e.2.id.toNat == id)).map (·.1)

/-- The bits of ASZ_KREQ that a write leaves there: SLOT and LAUNCHID (R388). -/
def kreqMask : DWord := 0x000F_0000_FFFF_FFFF

/-- KEY_REQUEST (R388): a write to ASZ_KREQ, refused while BUSY; GO starts the verification of the token at ASZ_KREQA. -/
def execKeyRequest (part : Nat) (v : DWord) (s : State) : Host.Outcome State Fault Refusal :=
  if (partOf s part).keyBusy.isSome then .next (refuseWrite s part v)
  else
    let s := modPart s part (fun p => setReg p .aszKreq 0 (v &&& kreqMask))
    if !v.getLsbD 63 then .next s
    else .next (modPart s part (fun p => { setReg p .aszKrst 0 (1#64 <<< 63) with
      keyBusy := some (v, launchById s part (field v 31 0)) }))

/-- Whether every page of a launch's measured code is mapped without W (R388). -/
def codeReadOnly (s : State) (p : Partition) (l : Launch) : Bool :=
  (codePages l).all (fun v => match walk s p (homeOf p (4096 * v)) (if (4096 * v).testBit 56 then 0 else l.asid) v with
    | .leaf e _ _ _ _ => !leafW e
    | .fault _ _ => false)

/-- The payload of a token: measurement, key pair, TBASE, TLEN and sequence number (R387). -/
def tokenOf (bs : List Byte) : KeyToken where
  measurement := BitVec.ofNat 256 (leNat (bs.take 32))
  key := BitVec.ofNat 512 (leNat ((bs.drop 32).take 64))
  tbase := BitVec.ofNat 64 (leNat ((bs.drop 96).take 8))
  tlen := BitVec.ofNat 64 (leNat ((bs.drop 104).take 8))
  seq := BitVec.ofNat 64 (leNat ((bs.drop 112).take 8))

/-- Opens a key-release token of 1,236 bytes with a seed's private key (R387): the ciphertext gives the shared secret, under which
the sealed payload opens if its tag is right. -/
def openToken (seed : BitVec 256) (bs : List Byte) : Option KeyToken :=
  let secret := (List.range 32).map (Config.mlKemSecret seed (bs.take 1088))
  (gcmOpen secret ((bs.drop 1088).take 12) ((bs.drop 1100).take 120) ((bs.drop 1220).take 16)).map tokenOf

/-- The token at ASZ_KREQA as the Assize of the partition's lowest octant opens it; none where the bytes cannot be read, or do not
open (R387, R388). -/
def readToken (s : State) (pn : Nat) : Option KeyToken :=
  let p := partOf s pn
  let pa := (reg p .aszKreqa).toNat
  if (pieces 4096 pa 1236).any (fun f => !frameIn p f) || physPoisoned s pa 1236 then none
  else openToken (fget s.seeds (lowestOct p) 0) (physRead s p 0 pa 1236)

/-- The result of a verification (R388), in the order of its numbers; `t` is the token, none for a failed decryption or tag. -/
def keyResult (s : State) (pn slot : Nat) (launch : Option Nat) (t : Option KeyToken) : Nat :=
  let p := partOf s pn
  if (fget? p.keys slot).isSome then 1
  else match launch, t with
    | none, _ => 2
    | some _, none => 3
    | some l, some t =>
      if t.measurement ≠ (launchOf s l).measure then 4
      else if t.seq.toNat ≤ p.tokenSeq.toNat then 5
      else if (launchOf s l).status = .ended then 7
      else if codeReadOnly s p (launchOf s l) then 0 else 6

/-- The end of the verification of a request for a slot and a launch: the slot is loaded from a token that opened and passes every
check, or ASZ_KRST says why not (R266, R388). A token outside the partition's frames is not read, and is logged (R375). -/
def keyVerified (s : State) (pn slot : Nat) (launch : Option Nat) (token : Option KeyToken) : State :=
  let r := keyResult s pn slot launch token
  let s := match gpcOutside (partOf s pn) (reg (partOf s pn) .aszKreqa).toNat 1236 with
    | some f => gpcRefuse s pn f
    | none => s
  let s := modPart s pn (fun p => { setReg p .aszKrst 0 (tv r) with keyBusy := none })
  match r, token with
  | 0, some t => modPart s pn (fun p => { p with
      keys := fput p.keys slot ⟨true, t.key, t.tbase.toNat, t.tlen.toNat, launch.getD 0⟩
      tokenSeq := t.seq })
  | _, _ => s

/-- KEY_VERIFY_COMPLETE (R387, R388) of the request for a slot: the token at ASZ_KREQA is opened and verified. -/
def execKeyVerifyComplete (part slot : Nat) (s : State) : Host.Outcome State Fault Refusal :=
  match (partOf s part).keyBusy with
  | none => .next s
  | some (v, launch) => .next (if field v 51 48 = slot then keyVerified s part slot launch (readToken s part) else s)

/-- TROY_SLOTST (R266). -/
def slotStatus (s : State) (p : Partition) (n : Nat) : DWord :=
  match fget? p.keys n with
  | none => 0
  | some k => tv (2 ^ 63 + (launchOf s k.launch).tenant * 2 ^ 32 + (launchOf s k.launch).id.toNat)

/-! ## Management and power (R390, R391) -/

/-- The two words of a violation log entry (R375). -/
def violWords (v : Violation) : List DWord :=
  [tv (v.kind * 2 ^ 56 + v.oct * 2 ^ 40 + v.agent * 2 ^ 32 + v.reg), v.addr]

/-- What an Assize answers over management (R390); sensor values and the nonce of a report are free values. -/
def mctpAnswer (s : State) (oct : Nat) : MctpRequest → List Byte × State
  | .readSensors => let (k, s) := takeFree s; (bytesOf64 (Config.freeDWord k), s)
  | .readReport =>
    let (m, s) := reportMeasure s (partOfOct s oct)
    let (k, s) := takeFree s
    (reportBytes s (partOfOct s oct) ((List.range 4).flatMap (fun i => bytesOf64 (Config.freeDWord k + tv i))) m, s)
  | .readFenced => (bytesOf64 (fget s.fencedMask oct 0), s)
  | .readCounters =>
    let p := partOf s (partOfOct s oct)
    (bytesOf64 (reg p .aszEvlost) ++ bytesOf64 (p.logCount.setWidth 64), s)
  | .readViolLog =>
    let p := partOf s (partOfOct s oct)
    ((List.range 64).flatMap (fun i => (violWords ((fget? p.log i).getD ⟨0, 0, 0, 0, 0⟩)).flatMap bytesOf64), s)
  | .stageFirmware bs => ([], { s with staged := fput s.staged oct bs })

/-- MCTP_MESSAGE (R390): it reaches no partition memory, key slot or B-store. -/
def execMctpMessage (oct : Nat) (req : MctpRequest) (s : State) : Host.Outcome State Fault Refusal :=
  let (bs, s) := mctpAnswer s oct req
  .next { s with mgmtOut := s.mgmtOut ++ ([(oct, bs)] : List (Nat × List Byte)) }

/-- POWER_REACHES_TDP (R391): the arrays are held below their peak rate; results do not change. -/
def execPowerReachesTdp (held : Bool) (s : State) : Host.Outcome State Fault Refusal := .next { s with tdpHeld := held }

/-! ## Ports (R336, R337, R339, R348) -/

/-- PORT_LINK_CHANGE (R348): a port whose link is down leaves the group, and its link synchronises no clock. -/
def execPortLinkChange (oct : Nat) (up : Bool) (s : State) : Host.Outcome State Fault Refusal :=
  if oct ≥ 8 then .next s
  else .next (refreshPorts { s with
    linkUp := if up then setAdd s.linkUp oct else setDel s.linkUp oct
    ptpLock := if up then s.ptpLock else setDel s.ptpLock oct })

/-- A PTP message has synchronised a port's clock (R339, R348). The port of the lowest octant with a synchronised link leads: its
offset is the message's, and the clocks of the partition's other octants follow it to within 4 ns, how near being a free value.
Another port's message changes no clock. -/
def ptpSync (s : State) (pn oct : Nat) (ofs : Int) : State :=
  let s := { s with ptpLock := setAdd s.ptpLock oct }
  let os := octsOf (partOf s pn)
  let s := if os.find? (fun o => setMem s.ptpLock o) = some oct then
      os.foldl (fun s o =>
        let (k, s) := takeFree s
        let near : Int := if o = oct then 0 else (Config.freeNat k % 9 : Nat) - 4
        { s with ptpOffset := fput s.ptpOffset o (BitVec.ofInt 64 (ofs + near)) }) s
    else s
  refreshPorts s

/-- An SCT packet goes to its own rule (R340). -/
def takeSct (s : State) (pn : Nat) (k : SctPacket) : Host.Outcome State Fault Refusal :=
  match k.type with
  | .data => execSctData pn k s
  | .ack => execSctAck pn k s
  | .nak => execSctNak pn k s
  | .launch => execSctLaunch pn k s
  | .abort => execSctAbort pn k s
  | .state => execSctState pn k s
  | .lineReq => execSctLineReq pn k s
  | .lineRsp => execSctLineRsp pn k s

/-- Whether a frame can pass an octant's port (R336, R378, R382): the port is an active member of its partition's group and not
held, and the frame is no longer than 9,216 bytes. -/
def portCarries (s : State) (pn oct : Nat) (frame : EthFrame) : Bool :=
  (partOf s pn).exists_ && lagMember s (partOf s pn) oct && !setMem s.octHeld oct && decide (frame.bytes.length ≤ 9216)

/-- Whether a frame is a datagram to NET_SCTPORT (R339). -/
def toSct (p : Partition) (frame : EthFrame) : Bool := frame.udp && frame.udpPort == some (field (reg p .netSctcfg) 63 48)

/-- The features that the network device of the operating system offers, each by its bit of the Virtio standard; and its queue pairs
(R339; notes/assumptions/69.md). -/
def virtioCsum : Nat := 0
def virtioGuestCsum : Nat := 1
def virtioMac : Nat := 5
def virtioMrgRxbuf : Nat := 15
def virtioMq : Nat := 22
def virtioFeatures : List Nat := [virtioCsum, virtioGuestCsum, virtioMac, virtioMrgRxbuf, virtioMq]
def virtioQueuePairs : Nat := 8

/-- Whether the driver of a partition's network device has taken a feature. -/
def hasFeature (p : Partition) (n : Nat) : Bool := p.netDev.features.contains n

/-- The header that the device puts before a received frame (R339, Virtio): with GUEST_CSUM it may say that the checksum is valid, and
which number of buffers the frame fills. -/
def netHeader (valid : Bool) (buffers : Nat) : List Byte :=
  leBytes 1 (if valid then 2 else 0) ++ leBytes 9 0 ++ leBytes 2 buffers

/-- How many of a pair's buffers a frame of some bytes takes: with MRG_RXBUF as many as hold it, else the first, which must; none where
they do not hold it. -/
def buffersFor (merge : Bool) (bufs : List (Nat × Nat)) (n : Nat) : Option Nat :=
  (List.range (bufs.length + 1)).find? (fun k =>
    0 < k && (merge || k == 1) && decide (n ≤ ((bufs.take k).map (·.2)).sum))

/-- Cuts bytes over buffers: the address of each with what it takes. -/
def cutOver : List (Nat × Nat) → List Byte → List (Nat × List Byte)
  | [], _ => []
  | b :: bs, d => (b.1, d.take b.2) :: cutOver bs (d.drop b.2)

/-- The bytes of a frame without its FCS, as the device passes it (R339, Virtio). -/
def frameBody (f : EthFrame) : List Byte := f.bytes.take (f.bytes.length - 4)

/-- Puts a frame into a pair's buffers, if they hold it (R339). -/
def netPut (s : State) (pn pair : Nat) (f : EthFrame) : Option State :=
  let p := partOf s pn
  let bufs := fget p.netDev.ready pair []
  match buffersFor (hasFeature p virtioMrgRxbuf) bufs (12 + (frameBody f).length) with
  | none => none
  | some k =>
    let (n, s) := takeFree s
    let valid := hasFeature p virtioGuestCsum && (Config.freeDWord n).getLsbD 0
    let parts := cutOver (bufs.take k) (netHeader valid k ++ frameBody f)
    let s := parts.foldl (fun s e => physStore s pn e.1 (placed e.2)) s
    some (modPart s pn (fun p => { p with netDev := { p.netDev with
      ready := fput p.netDev.ready pair (bufs.drop k)
      used := fput p.netDev.used pair (fget p.netDev.used pair [] ++ parts.map (fun e => (e.1, e.2.length))) } }))

/-- Puts the frames that wait into buffers, each pair's in order, as far as there are any (R339). -/
def netDeliver (s : State) (pn : Nat) : State :=
  let frames := (partOf s pn).osFrames
  let r := frames.foldl (fun (r : State × List (Nat × EthFrame)) e =>
    if r.2.any (fun q => q.1 == e.1) then (r.1, r.2 ++ [e])
    else match netPut r.1 pn e.1 e.2 with
      | some s => (s, r.2)
      | none => (r.1, r.2 ++ [e])) (s, [])
  modPart r.1 pn (fun p => { p with osFrames := r.2 })

/-- ETH_FRAME_RECEIVE (R336, R339, R340): a frame that is addressed to the partition goes to the PTP clock, to SCT or to a queue
pair of the operating system's device, which one of those in use being a free value. A datagram to SCT that is no packet is dropped. -/
def execEthFrameReceive (oct : Nat) (frame : EthFrame) (s : State) : Host.Outcome State Fault Refusal :=
  let pn := partOfOct s oct
  let p := partOf s pn
  if !portCarries s pn oct frame || (frame.dstMac != (reg p .netMacaddr).setWidth 48 && !frame.multicastJoined) then .next s
  else if frame.ptp then .next (ptpSync s pn oct frame.ptpOffset)
  else if toSct p frame then
    match decodeSct frame.datagram frame.next with
    | some k => takeSct s pn k
    | none => .next s
  else
    let (k, s) := takeFree s
    .next (netDeliver (modPart s pn (fun p => { p with
      osFrames := p.osFrames ++ ([(Config.freeNat k % max 1 p.netDev.pairs, frame)] : List (Nat × EthFrame)) })) pn)

/-- Whether a frame passes the source filter (R337, R338). -/
def egressOk (p : Partition) (f : EthFrame) : Bool :=
  let ip6 : BitVec 128 := (reg p .netIpv6h).setWidth 128 <<< 64 ||| (reg p .netIpv6l).setWidth 128
  f.srcMac == (reg p .netMacaddr).setWidth 48
    && (match f.srcIp4 with
      | none => true
      | some a => (reg p .netIpv4).getLsbD 32 && a == (reg p .netIpv4).setWidth 32)
    && (match f.srcIp6 with
      | none => true
      | some a => ip6 != 0 && a == ip6)

/-- Whether a frame goes to a peer at the address of its entry: the next hop's MAC, and the IP address of the entry's family
(R344). -/
def toPeer (s : State) (p : Partition) (rank : Nat) (f : EthFrame) : Bool :=
  let e := peerEntry s p rank
  let w (i : Nat) : DWord := e.getD i 0
  f.dstMac == (w 0).extractLsb' 0 48
    && (if (w 0).getLsbD 60 then f.dstIp6 == some (w 2 ++ w 1) && f.dstIp4.isNone
        else f.dstIp4 == some ((w 1).extractLsb' 0 32) && f.dstIp6.isNone)

/-- The port on which a stream leaves whole (R340). -/
def streamPortOf (s : State) (p : Partition) (key : Nat) : Option Nat :=
  let ports := lagPorts s p
  ports[Config.streamPort key % max 1 ports.length]?

/-- Whether a frame carries a packet of SCT out of the partition as the port sends it (R340, R344): the first of its stream, on the
stream's port, to its peer. -/
def carriesPacket (s : State) (p : Partition) (oct : Nat) (frame : EthFrame) (k : SctPacket) : Bool :=
  let key (q : SctPacket) : Nat := streamKey q.dst q.qp.toNat
  p.wire.find? (fun q => key q == key k) == some k && streamPortOf s p (key k) == some oct && toPeer s p k.dst frame

/-- What the port does with a frame: out if it passes the source filter, and dropped and logged otherwise (R337). -/
def egress (s : State) (pn oct : Nat) (frame : EthFrame) : State :=
  if egressOk (partOf s pn) frame then { s with sent := s.sent ++ ([(oct, .frame frame)] : List (Nat × SentItem)) }
  else logViolation s pn 4 oct 0xFF 0 (frame.srcMac.setWidth 64)

/-- The Internet checksum of bytes: the complement of the sum of their 16-bit words, the first byte of each the high one, with the
carries added in. -/
def inetSum : List Byte → Nat
  | a :: b :: bs => 256 * a.toNat + b.toNat + inetSum bs
  | [a] => 256 * a.toNat
  | [] => 0

def inetChecksum (bs : List Byte) : Nat :=
  let fold (n : Nat) : Nat := n % 65536 + n / 65536
  65535 - fold (fold (inetSum bs))

/-- The FCS of a frame's bytes (IEEE 802.3). -/
def frameCrc (bs : List Byte) : BitVec 32 :=
  let bit (c : BitVec 32) : BitVec 32 := if c.getLsbD 0 then (c >>> 1) ^^^ 0xEDB88320 else c >>> 1
  ~~~ (bs.foldl (fun c b => (List.range 8).foldl (fun c _ => bit c) (c ^^^ b.setWidth 32)) 0xFFFFFFFF)

/-- A frame as the network device sends it (R339, Virtio): with its FCS, and with the checksum put in where the driver left it to the
device. -/
def netFrame (csum : Option (Nat × Nat)) (f : EthFrame) : EthFrame :=
  let body := frameBody f
  let body := match csum with
    | some (start, at_) =>
      let v := inetChecksum (body.drop start)
      (body.set (start + at_) (BitVec.ofNat 8 (v / 256))).set (start + at_ + 1) (BitVec.ofNat 8 v)
    | none => body
  { f with bytes := body ++ leBytes 4 (frameCrc body).toNat }

/-- ETH_FRAME_TRANSMIT (R336, R337, R340): a frame of the operating system, or one that carries a packet that SCT has to send; such a
packet leaves in its stream's order and on its stream's port. The cap of NET_TXCAP says when, not whether. -/
def execEthFrameTransmit (oct : Nat) (frame : EthFrame) (s : State) : Host.Outcome State Fault Refusal :=
  let pn := partOfOct s oct
  let p := partOf s pn
  if !portCarries s pn oct frame then .next s
  else match (if toSct p frame then decodeSct frame.datagram frame.next else none) with
    | some k =>
      if !p.wire.contains k then .next (egress s pn oct frame)
      else if carriesPacket s p oct frame k then .next (egress (modPart s pn (fun p => { p with wire := p.wire.erase k })) pn oct frame)
      else .next s
    | none => .next (egress s pn oct frame)

end Sys2Proof.Machine
end

