-- ==== Sys2Proof/Machine/Prefix.lean ====
section
/-! DEFINITION. The prefixes (R51 to R55). -/

namespace Sys2Proof.Machine

open Sys2Proof

/-- Whether a number lies in a run. -/
def inRun (lo hi n : Nat) : Bool := decide (lo ≤ n) && decide (n ≤ hi)

/-- The opcodes that accept PFXA, and those of them that have a name or predicate destination, and a third source (R40,
R54). -/
def acceptsA (op : Nat) : Bool :=
  inRun 0x060 0x093 op || inRun 0x0A0 0x0BA op || inRun 0x0E0 0x0E8 op || inRun 0x0F0 0x0F5 op || inRun 0x100 0x10E op
    || inRun 0x140 0x143 op || inRun 0x148 0x14F op
def zeroAllowed (op : Nat) : Bool := !(inRun 0x105 0x107 op || op == 0x10A || op == 0x10B || op == 0x141 || op == 0x143)
def hasThird (op : Nat) : Bool := op == 0x06C || op == 0x07E || op == 0x0A3 || op == 0x0BA

/-- The opcodes that accept PFXB, and the fields that each honours (R54, R106, R125). -/
def acceptsB (op : Nat) : Bool :=
  op == 0x060 || op == 0x061 || op == 0x070 || op == 0x071 || inRun 0x0A0 0x0BA op || inRun 0x0E0 0x0E8 op
    || inRun 0x0F0 0x0F5 op || op == 0x10B
def honoursRm (op : Nat) : Bool := inRun 0x0A0 0x0A3 op || inRun 0x0B8 0x0BA op || inRun 0x0E0 0x0E8 op || op == 0x0F2
def honoursSat (op : Nat) : Bool :=
  op == 0x060 || op == 0x061 || op == 0x070 || op == 0x071 || honoursRm op || inRun 0x0F0 0x0F5 op
def honoursType (op ty : Nat) : Bool :=
  (inRun 0x0A0 0x0B7 op && decide (ty ≤ 2)) || (inRun 0x0B8 0x0BA op && inRun 1 2 ty) || (op == 0x10B && decide (ty ≤ 2))

/-- Puts a prefix by for its instruction and moves past it; it takes no effect of its own (R55). -/
def holdPrefix (s : State) (x : Ctx) (f : Span → Span) : State :=
  modWarp s x.c x.slot (fun w => { w with
    span := some { f x.sp with idx := x.sp.idx + 1, pfxAt := some (x.sp.pfxAt.getD x.sp.idx) } })

/-- A prefix that breaks the rules of R54 traps at itself (notes/assumptions/11.md). -/
def prefixWord (s : State) (x : Ctx) (bad : Nat → Bool) (f : Span → Span) : State :=
  let good := match prefixTarget x.sp 32 (x.sp.idx + 1) with
    | some op => !bad op
    | none => false
  if good then holdPrefix s x f
  else trapEnter s x.c x.slot x.sp.sec (wordAddr x.sp x.sp.idx) cPrefix (wordVal x.sp)

/-- PFXA (R51, R54). -/
def execPfxa (pred : BitVec 4) (neg : BitVec 1) (pol : BitVec 2) (c : BitVec 7) (cv : BitVec 1) (s : State) :
    Host.Outcome State Fault Refusal :=
  match ctxOf s with
  | none => .fault .noSpan
  | some x => .next (prefixWord s x
      (fun op => x.sp.pfxa.isSome || !acceptsA op || (pol == 2#2 && !zeroAllowed op) || (cv == 1#1 && !hasThird op))
      (fun sp => { sp with pfxa := some ⟨pred, neg == 1#1, pol, c, cv == 1#1⟩ }))

/-- PFXB (R53, R54). -/
def execPfxb (rm : BitVec 3) (sat : BitVec 1) (ty : BitVec 4) (s : State) : Host.Outcome State Fault Refusal :=
  match ctxOf s with
  | none => .fault .noSpan
  | some x => .next (prefixWord s x
      (fun op => x.sp.pfxb.isSome || !acceptsB op || (rm != 0 && !honoursRm op) || (sat == 1#1 && !honoursSat op)
        || (ty != 0xF && !honoursType op ty.toNat))
      (fun sp => { sp with pfxb := some ⟨rm, sat == 1#1, ty⟩ }))

end Sys2Proof.Machine
end

