-- ==== Sys2Proof/Machine/Gpc.lean ====
section
/-! DEFINITION. The general-purpose cores (R349, R376, R377, R417): their accesses to partition memory and to the network device of
the operating system (R339), and writes at the home slices as events (R291). -/

namespace Sys2Proof.Machine

open Sys2Proof

/-- What an atomic of a general-purpose core writes over `old`, words of some bits (notes/assumptions/64.md). -/
def gpcAmo (op bits old v : Nat) : Nat :=
  let le (a b : Nat) : Bool := decide (sextNat bits a ≤ sextNat bits b)
  match op with
  | 0 => v
  | 1 => (old + v) % 2 ^ bits
  | 2 => old ^^^ v
  | 3 => old &&& v
  | 4 => old ||| v
  | 5 => if le old v then old else v
  | 6 => if le old v then v else old
  | 7 => min old v
  | _ => max old v

/-- Whether an engine or an accepted packet owns a line that lies at a physical line (R216, R342): an access waits for it. -/
def physOwned (s : State) (pn pline : Nat) : Bool :=
  (partOf s pn).inn.any (fun e => e.2.held.any (fun h => h.lines.any (fun l =>
    ((physOf s (partOf s pn) h.asid (128 * l)).map (fun q => q.1 / 128)) == some pline))) ||
  s.cores.any (fun k => partOfCore s k.1 == pn && k.2.engines.any (fun o => (opDstLines o.2).any (fun l =>
    opOwns o.2 (opAsid o.2 (128 * l)) l
      && ((physOf s (partOf s pn) (opAsid o.2 (128 * l)) (128 * l)).map (fun q => q.1 / 128)) == some pline)))

/-- Whether an access of a general-purpose core waits: for an engine (R216) and, where it writes, for the write-back scanner
(R328); where it is a release, for the invalidations of every earlier write (R206, R417). -/
def gpcHeld (s : State) (pn pa n : Nat) (write release : Bool) : Bool :=
  (pieces 128 pa n).any (fun l => physOwned s pn l)
    || (write && (pieces 4096 pa n).any (fun f => (frameOf s f).wp))
    || (release && !invalsDone s pn)

/-- A general-purpose core has consumed a run of bytes: an uncorrectable word of them in the kernel's frames restarts it (R376). -/
def gpcConsumes (s : State) (pn pa n : Nat) : State :=
  if (List.range n).any (fun i => setMem s.poison ((pa + i) / 16) && setMem (kernelFrames (partOf s pn)) ((pa + i) / 4096))
  then triggerRestart s pn else s

/-- What an access gives to the core that makes it (R417), with no error response (R375). -/
def gpcTakes (s : State) (pn : Nat) (bs : List Byte) : State :=
  modPart s pn (fun p => { p with gpcSeen := bs, gpcErr := false })

/-- The configuration of the network device, as Virtio lays it out (R339): the MAC address, first byte first, the status with the link
up where a port carries, and the most queue pairs. -/
def netDevConfig (s : State) (p : Partition) : List Byte :=
  (leBytes 6 ((reg p .netMacaddr).toNat % 2 ^ 48)).reverse ++ leBytes 2 (if (lagPorts s p).isEmpty then 0 else 1)
    ++ leBytes 2 virtioQueuePairs

/-- A driver's access to the network device (R339, notes/assumptions/69.md); the address is a buffer's. -/
def netDevAccess (s : State) (pn pa : Nat) : NetDevAccess → State
  | .config => gpcTakes s pn (netDevConfig s (partOf s pn))
  | .features bits => modPart s pn (fun p => { p with gpcErr := false
                                                      netDev := ⟨virtioFeatures.filter bits.contains, 1, [], []⟩ })
  | .pairs n =>
    if n = 0 ∨ n > virtioQueuePairs ∨ ¬ hasFeature (partOf s pn) virtioMq then s
    else modPart s pn (fun p => { p with gpcErr := false, netDev := { p.netDev with pairs := n } })
  | .send oct csum f =>
    if partOfOct s oct ≠ pn ∨ ¬ portCarries s pn oct f ∨ (csum.isSome ∧ ¬ hasFeature (partOf s pn) virtioCsum) then s
    else modPart (egress s pn oct (netFrame csum f)) pn (fun p => { p with gpcErr := false })
  | .buffer pair n =>
    match gpcOutside (partOf s pn) pa n with
    | some f => gpcRefuse s pn f
    | none => netDeliver (modPart s pn (fun p => { p with gpcErr := false, netDev := { p.netDev with
        ready := fput p.netDev.ready pair (fget p.netDev.ready pair [] ++ ([(pa, n)] : List (Nat × Nat))) } })) pn

/-- An access of a general-purpose core at a physical address of its partition (R349, R417), or a load from the list of capabilities
(R389). What a load or an atomic returns goes to `gpcSeen`. An atomic is one write at the home; its word is the sum, the exchange or the
like that its operation gives. A core that a third restart has stopped makes none (R377). -/
def gpcAccess (s : State) (pn pa : Nat) (a : GpcAccess) : State :=
  if (partOf s pn).kernelDown then s
  else match a with
  | .load n =>
    match capRead (reg (partOf s pn) .capBase).toNat pa n, gpcOutside (partOf s pn) pa n with
    | some bs, _ => gpcTakes s pn bs
    | none, some f => gpcRefuse s pn f
    | none, none =>
      if gpcHeld s pn pa n false false then s
      else gpcConsumes (gpcTakes s pn (physRead s (partOf s pn) 0 pa n)) pn pa n
  | .store bs release =>
    match gpcOutside (partOf s pn) pa bs.length with
    | some f => gpcRefuse s pn f
    | none =>
      if gpcHeld s pn pa bs.length true release then s
      else physStore (modPart s pn (fun p => { p with gpcErr := false })) pn pa (placed bs)
  | .amo op wide v release =>
    let n := if wide then 8 else 4
    match gpcOutside (partOf s pn) pa n with
    | some f => gpcRefuse s pn f
    | none =>
      if gpcHeld s pn pa n true release then s
      else
        let old := physRead s (partOf s pn) 0 pa n
        let new := gpcAmo op (8 * n) (leNat old) (v.toNat % 2 ^ (8 * n))
        gpcConsumes (physStore (gpcTakes s pn old) pn pa (placed (leBytes n new))) pn pa n
  | .netDev d => netDevAccess s pn pa d

/-- HOME_SLICE_WRITE (R291, R417). -/
def execHomeSliceWrite (src : WriteSource) (s : State) : Host.Outcome State Fault Refusal :=
  match src with
  | .core c n => .next (coreStore s c n)
  | .gpc pn oct core pa a => asWriter oct core s (fun s => .next (gpcAccess s pn pa a))

end Sys2Proof.Machine
end

