-- ==== Sys2Proof/Machine/Registers.lean ====
section
/-! DEFINITION. Register writes (R9, R311, R338, R375 and the tables of the hardware chapters): who may write which bits of
a register, its limits, and what a write does beyond storing its value. -/

namespace Sys2Proof.Machine

open Sys2Proof

/-! ## Counters that any write clears -/

/-- NETREJ_WRITE (R307): the count is cleared. -/
def execNetrejWrite (part : Nat) (s : State) : Host.Outcome State Fault Refusal :=
  .next (modPart s part (fun p => setReg p .schNetrej 0 (setField (reg p .schNetrej) 47 0 0)))

/-- CEN_STAT_WRITE (R332): SREF is cleared. -/
def execCenStatWrite (part : Nat) (s : State) : Host.Outcome State Fault Refusal :=
  .next (modPart s part (fun p => setReg p .cenStat 0 (setField (reg p .cenStat) 31 0 0)))

/-- EVLOST_WRITE (R373). -/
def execEvlostWrite (part : Nat) (s : State) : Host.Outcome State Fault Refusal :=
  .next (modPart s part (fun p => setReg p .aszEvlost 0 0))

/-- RXDROP_WRITE (R338). -/
def execRxdropWrite (part : Nat) (s : State) : Host.Outcome State Fault Refusal :=
  .next (modPart s part (fun p => setReg p .netRxdrop 0 0))

/-- STALE_PAIR_WRITE (R196): V, READER and WRITER are set, and the count is cleared. -/
def execStalePairWrite (part idx : Nat) (v : DWord) (s : State) : Host.Outcome State Fault Refusal :=
  if idx ≥ 16 then .next (refuseWrite s part v)
  else .next (modPart s part (fun p => setReg p .llcStalePair idx (setField (setField v 62 56 0) 39 0 0)))

/-! ## Debug (R270, R279) -/

/-- DEBUG_RESUME (R279): the warp that BKPT stopped goes on at the following word, once its issue slot runs no other span
(R309, notes/assumptions/59.md). -/
def execDebugResume (core warp : Nat) (s : State) : Host.Outcome State Fault Refusal :=
  if slotBusy s core (warp % 4) then .next s
  else .next (modWarp s core warp (fun w => { w with bkptStop := false }))

/-- TROY_DEBUG_READ (R270, R375): a debug read of a Troy page returns poison, and is logged. The event says itself that the page is
one; where a TLB holds a leaf of the frame that is none, it is not (notes/assumptions/63.md). Which agent read is a free value
(notes/assumptions/49.md). -/
def execTroyDebugRead (part pa : Nat) (s : State) : Host.Outcome State Fault Refusal :=
  let f := frameOf s (pa / 4096)
  if frameIn (partOf s part) (pa / 4096) ∧ (f.tlbref = 0 ∨ f.troy = true) then
    .next (modPart (gpcViolation s part 5 0 (tv pa)) part (fun p => { p with debugSeen := ([(0, true)] : List (Byte × Bool)) }))
  else .next s

/-! ## Who writes what -/

/-- A mask of bits [hi:lo]. -/
def bitsMask (hi lo : Nat) : Nat := (2 ^ (hi - lo + 1) - 1) * 2 ^ lo

/-- The bits of a register that an agent writes, none where the agent may not write it (the Access columns; a plain RW is
Ryukel's and the monitor's). -/
def writeMask (n : RegName) (who : Role) : Option Nat :=
  let ryukel (m : Nat) : Option Nat := if who = .ryukel then some m else none
  let monitor (m : Nat) : Option Nat := if who = .monitor then some m else none
  let both (m : Nat) : Option Nat := if who = .ryukel ∨ who = .monitor then some m else none
  let split (r m : Nat) : Option Nat := if who = .ryukel then some r else if who = .monitor then some m else none
  let ring := bitsMask 63 60 + bitsMask 56 12
  match n with
  | .llcRootbase => ryukel (bitsMask 63 0)
  | .llcTasid => ryukel (bitsMask 11 0)
  | .llcShoot => ryukel (bitsMask 63 0)
  | .llcShootva => ryukel (bitsMask 56 12)
  | .llcFscmd => ryukel (bitsMask 63 60 + bitsMask 45 12)
  | .llcFsarg => ryukel (bitsMask 63 0)
  | .llcMigctl => both (bitsMask 63 63 + bitsMask 15 0)
  | .llcMigring => ryukel (bitsMask 63 60 + bitsMask 45 12)
  | .llcMigfi => ryukel (bitsMask 63 32)
  | .llcMigci => ryukel (bitsMask 31 0)
  | .llcWbctl => both (bitsMask 63 63 + bitsMask 15 0)
  | .llcTqos => ryukel (bitsMask 41 32 + bitsMask 23 16)
  | .llcAtomq => ryukel (bitsMask 6 0)
  | .llcStalePair => ryukel (bitsMask 63 0)
  | .schSq => both ring
  | .schSqi => both (bitsMask 63 32)
  | .schCq => both ring
  | .schCqi => both (bitsMask 31 0)
  | .schTctl => both (bitsMask 23 16 + bitsMask 9 8 + bitsMask 0 0)
  | .schTdown => both (bitsMask 7 0)
  | .schLtbase => both (bitsMask 56 5)
  | .schNetrej => both 0
  | .schNakcfg => both (bitsMask 63 48 + bitsMask 31 16 + bitsMask 7 0)
  | .parCmd => monitor (bitsMask 63 60 + bitsMask 47 32 + bitsMask 15 0)
  | .parTiming => split (bitsMask 31 0) (bitsMask 63 48)
  | .parSave => ryukel (bitsMask 63 44 + bitsMask 33 0)
  | .netMacaddr => monitor (bitsMask 47 0)
  | .netIpv4 => monitor (bitsMask 32 0)
  | .netIpv6h => monitor (bitsMask 63 0)
  | .netIpv6l => monitor (bitsMask 63 0)
  | .netRank => monitor (bitsMask 15 0)
  | .netTxcap => monitor (bitsMask 7 0)
  | .netRxdrop => both 0
  | .netRwinbase => ryukel (bitsMask 45 12)
  | .netTreebase => ryukel (bitsMask 45 12)
  | .netPeerbase => ryukel (bitsMask 45 12)
  | .netSctcfg => split (bitsMask 39 32 + bitsMask 15 0) (bitsMask 63 48 + bitsMask 39 32 + bitsMask 15 0)
  | .cenStat => both 0
  | .aszEvq => both ring
  | .aszEvqi => both (bitsMask 31 0)
  | .aszEvlost => both 0
  | .aszRkctl => split (bitsMask 62 62) (bitsMask 63 63 + bitsMask 47 32)
  | .aszRkpet => both 0
  | .aszRkbase => monitor (bitsMask 63 0)
  | .aszRklen => monitor (bitsMask 63 0)
  | .aszScanctl => monitor (bitsMask 63 63 + bitsMask 47 32 + bitsMask 15 0)
  | .ctrTenant => ryukel (bitsMask 7 0)
  | .aszAttreq => both (bitsMask 63 0)
  | .aszKreqa => ryukel (bitsMask 63 0)
  | .aszKreq => ryukel (bitsMask 63 63 + bitsMask 51 48 + bitsMask 31 0)
  | .memKey => monitor (bitsMask 63 0)
  | .parInterleave => monitor (bitsMask 16 16 + bitsMask 7 0)
  | .llcShootst | .llcFsdata | .llcWberr | .schNakcnt | .parNetBoundary | .parCmdst | .netPtpofs | .netPortst
  | .troySlotst | .aszFenced | .aszMeas | .aszKrst | .violLogcnt | .violLoge | .capBase => none

/-- How many registers a name stands for. ASZ_MEAS0 to ASZ_MEAS3 are four words each, the lowest first, and an entry of the violation
log n is the two numbers n and 64 + n (R375, R382). -/
def regCount : RegName → Nat
  | .llcTasid => 256 | .llcMigfi => 8 | .llcTqos => 256 | .llcStalePair => 16
  | .schSq => 4 | .schSqi => 4 | .schTctl => 256 | .schNakcnt => 144 | .parSave => 256 | .netPtpofs => 8
  | .troySlotst => 16 | .aszFenced => 8 | .aszMeas => 16 | .violLoge => 128 | .ctrTenant => 256 | .memKey => 2048
  | _ => 1

/-- Whether a write that sets a reserved bit is refused (R338); elsewhere such a bit has no effect (R9). -/
def strictReserved : RegName → Bool
  | .netMacaddr | .netIpv4 | .netIpv6h | .netIpv6l | .netRank | .netTxcap | .netRwinbase | .netTreebase | .netPeerbase => true
  | _ => false

/-- The value that a write leaves: its bits where the agent may write them, the old ones elsewhere (R9). -/
def mergeBits (old v : DWord) (mask : Nat) : DWord :=
  let m := BitVec.ofNat 64 mask
  (old &&& ~~~m) ||| (v &&& m)

/-- LOG2N of a ring is 0 or 4 to 12 (R311, R327). -/
def ringOk (v : DWord) : Bool := field v 63 60 == 0 || (decide (4 ≤ field v 63 60) && decide (field v 63 60 ≤ 12))

/-- The floors of all tenants, one of them as a write would leave it (R296). -/
def floorSum (p : Partition) (t : Nat) (v : DWord) : Nat :=
  ((List.range 256).map (fun u => if u = 0 then 0 else field (if u = t then v else reg p .llcTqos u) 41 32)).sum

/-- Whether a register's new value keeps its limits. -/
def limitOk (p : Partition) (r : HReg) (v : DWord) : Bool :=
  match r.name with
  | .llcMigctl => field v 15 0 != 0
  | .llcMigring => ringOk v && !(reg p .llcMigctl).getLsbD 63
      && (field v 63 60 == 0 || (pieces 4096 (4096 * field v 45 12) (80 * 2 ^ field v 63 60)).all (fun f => frameIn p f))
  | .llcWbctl => field v 15 0 != 0
  | .llcTqos => r.idx != 0 && field v 23 16 != 0 && decide (floorSum p r.idx v ≤ 921)
  | .llcAtomq => decide (1 ≤ field v 6 0) && decide (field v 6 0 ≤ 64)
  | .llcShootva => p.shooting.isNone
  | .schSq => ringOk v
  | .schCq => ringOk v
  | .aszEvq => ringOk v
  | .schTctl => field v 23 16 != 0
  | .schNakcfg => decide (1 ≤ field v 31 16) && decide (field v 31 16 ≤ field v 63 48) && field v 7 0 != 0
  | .parTiming => field v 63 48 != 0 && field v 31 16 != 0 && field v 15 0 != 0
  | .netMacaddr => !v.getLsbD 40
  | .netRank => field v 15 0 != 0xFFFF
  | .netTxcap => decide (1 ≤ field v 7 0) && decide (field v 7 0 ≤ 160)
  | .netSctcfg => field v 39 32 != 0 && field v 15 0 != 0
  | .aszRkctl => field v 47 32 != 0
  | .aszScanctl => field v 47 32 != 0 && field v 15 0 != 0
  | .parInterleave => p.cmd.any (fun c => c.step == .drain && (c.op == 1 || c.op == 3)) && field v 7 0 != 0 && (bitsSet 8 (field v 7 0)).all (octMask p).testBit
  | _ => true

/-! ## What a write does -/

/-- A key of the partition with one of its words replaced (R317). -/
def keyWithWord (k : BitVec 512) (w : Nat) (v : DWord) : BitVec 512 :=
  BitVec.ofNat 512 (k.toNat - (k.toNat / 2 ^ (64 * w) % 2 ^ 64) * 2 ^ (64 * w) + v.toNat * 2 ^ (64 * w))

/-- A memory key changes (R317): what a unit holds is what was written under the old key, which the new key decrypts to
other bytes. A line in the LLC stays plaintext; it remembers the key under which memory holds it until it leaves. -/
def setMemKey (s : State) (pn id w : Nat) (v : DWord) : State :=
  let p := partOf s pn
  let old := fget p.memKeys id 0
  let q := { p with
    memKeys := fput p.memKeys id (keyWithWord old w v)
    llc := p.llc.map (fun e => if id = 0 ∨ (fget? e.oldKeys id).isSome then e else { e with oldKeys := fput e.oldKeys id old }) }
  let cached (u : Nat) : Bool := p.llc.any (fun e => e.phys == u / 8)
  let s := (s.unitKey.filter (fun e => e.2 == id && frameIn p (e.1 / 256) && !cached e.1)).foldl (fun s e =>
    let b := ctlEncrypt p id e.1 (BitVec.ofNat 128 (leNat (unitBytes s e.1)))
    { s with mem := cellsWrite s.mem (16 * e.1) (leBytes 16 (ctlDecrypt q id e.1 b).toNat) }) s
  setPart s pn q

/-- LLC_FSCMD (R323); an OP that the table does not list does nothing. -/
def fsWrite (s : State) (pn : Nat) (v : DWord) : Host.Outcome State Fault Refusal :=
  let f := field v 45 12
  match field v 63 60 with
  | 1 => execFsRead pn f s
  | 2 => execFsRelease pn f s
  | 3 => execFsScrub pn f s
  | 4 => execFsSetfile pn f (reg (partOf s pn) .llcFsarg) s
  | 5 => execFsReadcnt pn f s
  | _ => .next s

/-- PAR_CMD (R351): an OP outside the table is refused and logged, and OP 0 does nothing. Whether a migration's peer accepts
is what it answers, a free value. -/
def cmdWrite (s : State) (pn : Nat) (v : DWord) : Host.Outcome State Fault Refusal :=
  match field v 63 60 with
  | 0 => .next (parCommand s pn v id)
  | 1 => execParMerge pn (field v 15 8) s
  | 2 => execParYield pn (field v 15 8) s
  | 3 => execParSplit pn (field v 7 0) s
  | 4 =>
    let (k, s) := takeFree s
    execParMigrate pn (field v 47 32) ((Config.freeDWord k).getLsbD 0) (Config.freeNat k) s
  | 5 => execParAccept pn (field v 47 32) s
  | _ => .next (refuseWrite s pn v)

/-- A write of PAR_INTERLEAVE in a handshake (R293): step 2 takes it over, and until then the register stays (R354). -/
def foldWrite (s : State) (pn : Nat) (new : DWord) : State :=
  modPart s pn (fun p => { p with cmd := p.cmd.map (fun c => { c with fold := some new }) })

/-- A tree table named anew knows no abort of its trees (R244; notes/assumptions/15.md). -/
def treesAnew (s : State) (pn : Nat) : State := modPart s pn (fun p => { p with trees := [] })

/-- What follows once a register holds its new value. -/
def afterWrite (s : State) (pn : Nat) (r : HReg) (v : DWord) : Host.Outcome State Fault Refusal :=
  match r.name with
  | .schCq | .schCqi => .next (flushCompletions s pn)
  | .aszEvq | .aszEvqi => .next (flushEvents s pn)
  | .netTreebase => .next (treesAnew s pn)
  | .ctrTenant => .next (modPart s pn (fun p => { p with
      counters := fput p.counters r.idx ((counterOf p r.idx).1, field v 7 0) }))
  | _ => .next s

/-- A write that its agent may make and that keeps the limits. -/
def acceptWrite (s : State) (pn : Nat) (r : HReg) (v new : DWord) (who : Role) : Host.Outcome State Fault Refusal :=
  match r.name with
  | .llcShoot => execShootdown pn v s
  | .llcFscmd => fsWrite s pn v
  | .llcStalePair => execStalePairWrite pn r.idx v s
  | .schTdown => execTenantTeardown pn (field v 7 0) s
  | .schNetrej => execNetrejWrite pn s
  | .parCmd => cmdWrite s pn (BitVec.ofNat 64 (v.toNat - field v 59 48 * 2 ^ 48 - field v 31 16 * 2 ^ 16))
  | .parSave => execParSaveWrite pn r.idx v s
  | .netRxdrop => execRxdropWrite pn s
  | .cenStat => execCenStatWrite pn s
  | .aszEvlost => execEvlostWrite pn s
  | .aszRkpet => execRkpetWrite pn s
  | .aszRkctl =>
    if who = .ryukel then (if v.getLsbD 62 then execThaw pn s else .next s)
    else .next (modPart s pn (fun p => setReg p .aszRkctl 0 new))
  | .aszAttreq => execAttestRequest pn v s
  | .aszKreq => execKeyRequest pn (new &&& v) s
  | .parInterleave => .next (foldWrite s pn new)
  | .memKey => .next (setMemKey s pn (r.idx / 8) (r.idx % 8) v)
  | _ => afterWrite (modPart s pn (fun p => setReg p r.name r.idx new)) pn r new

/-- A register write: by an agent that may not make it, or one that breaks a stated limit, it leaves the register unchanged and is
logged (R9, R311, R338, R375). -/
def writeRegister (s : State) (pn : Nat) (who : Role) (r : HReg) (v : DWord) : Host.Outcome State Fault Refusal :=
  let p := partOf s pn
  match writeMask r.name who with
  | none => .next (refuseWrite s pn v)
  | some m =>
    let new := mergeBits (regOf p r) v m
    if r.idx ≥ regCount r.name ∨ ¬ limitOk p r new ∨ (strictReserved r.name ∧ v &&& ~~~(BitVec.ofNat 64 m) ≠ 0) then
      .next (refuseWrite s pn v)
    else acceptWrite s pn r v new who

/-- REGISTER_WRITE (R9, R311, R338, R375), in the name of the general-purpose core that writes. Ryukel's cores write nothing once a
third restart has stopped them (R377). -/
def execRegisterWrite (part : Nat) (who : Agent) (r : HReg) (v : DWord) (s : State) : Host.Outcome State Fault Refusal :=
  if (partOf s part).kernelDown ∧ who.role = .ryukel then .next s
  else asWriter who.oct who.core s (fun s =>
    writeRegister (modPart s part (fun p => { p with gpcErr := false })) part who.role r v)

/-! ## What a read of a register gives -/

/-- The value of a register as its readers see it: those that show other state are computed from it (R266, R332, R348, R373,
R375, R380, R382). -/
def readReg (s : State) (pn : Nat) (r : HReg) : DWord :=
  let p := partOf s pn
  match r.name with
  | .cenStat => tv ((octsOf p).headD 0 * 2 ^ 56 + p.rootSlots.length * 2 ^ 32 + field (reg p .cenStat) 31 0)
  | .netPtpofs => fget s.ptpOffset r.idx 0
  | .troySlotst => slotStatus s p r.idx
  | .aszFenced => fget s.fencedMask r.idx 0
  | .aszMeas => (stageMeas s p (r.idx / 4)).extractLsb' (64 * (r.idx % 4)) 64
  | .violLoge => (violWords ((fget? p.log (r.idx % 64)).getD ⟨0, 0, 0, 0, 0⟩)).getD (r.idx / 64) 0
  | .violLogcnt => p.logCount.setWidth 64
  | .ctrTenant => tv (counterOf p r.idx).2
  | _ => regOf p r

end Sys2Proof.Machine
end

