-- ==== Sys2Proof/Machine/RowOps.lean ====
section
/-! DEFINITION. The row operations (R192 to R196, R220). -/

namespace Sys2Proof.Machine

open Sys2Proof

/-- A row operand: its address, its bytes, and by name the lanes that hold a row word in ACTIVE (R192, R193). -/
structure RowArg where
  va : Nat
  len : Nat
  names : List Nat
  masks : List Mask
deriving DecidableEq, Repr

/-- The row of a word whose field holds n/32 - 1 (R178, R193). -/
def rowArg (x : Ctx) (d : BitVec 7) (a : BitVec 6) (n : BitVec 3) : RowArg where
  va := (sReg x.w a).toNat
  len := 64 * (n.toNat + 1)
  names := winRun x.w d (rowNames n)
  masks := (List.range (rowNames n)).map (fun j =>
    ctxActive x &&& mkMask (fun l => decide (32 * j + l < 16 * (n.toNat + 1))))

/-- The check of a row's address (R180, R192). -/
def rowCause (s : State) (x : Ctx) (r : RowArg) (k : Acc) : Option (Nat × Nat) :=
  if r.va % 128 ≠ 0 ∨ r.va / 512 ≠ (r.va + r.len - 1) / 512 then some (10, cMisaligned)
  else rangeCause s (partOf s x.pn) x.l.tenant r.va r.len k

/-- The lines of a row, with their ASID. -/
def rowLines (s : State) (x : Ctx) (r : RowArg) : List (Nat × Nat) := accLines s x [(0, r.va)] r.len

/-- Before a row word, its page is walked and a peer is asked for its lines. -/
def prepRow (s : State) (x : Ctx) (r : RowArg) (k : Acc) : State :=
  if r.va % 128 ≠ 0 ∨ r.va / 512 ≠ (r.va + r.len - 1) / 512 then s
  else prepAccs s x [(0, r.va)] r.len false k true (k == .write)

/-- The physical line of the row's first line; none on a peer. -/
def rowPhys (s : State) (x : Ctx) (r : RowArg) : Option Nat :=
  let p := partOf s x.pn
  let asid := (asidFor p x.l.tenant r.va).getD 0
  if (peerOf s p asid r.va).isSome then none else (physOf s p asid r.va).map (fun t => t.1 / 128)

/-- The place of a peer's row among the side words that the home slices keep for it (R192, notes/assumptions/61.md). -/
def peerRow (s : State) (x : Ctx) (r : RowArg) : Option Nat :=
  let p := partOf s x.pn
  (peerOf s p ((asidFor p x.l.tenant r.va).getD 0) r.va).map (fun rank => 2 ^ 64 * rank + r.va / 128)

/-- The side word and last writer of a peer's row. A row that has none yet takes a free value as its version. -/
def peerSide (s : State) (x : Ctx) (k : Nat) : (Word × Nat) × State :=
  match fget? (partOf s x.pn).peerSides k with
  | some v => (v, s)
  | none =>
    let (n, s) := takeFree s
    let v : Word × Nat := ((Config.freeDWord n).setWidth 32, 0)
    (v, modPart s x.pn (fun p => { p with peerSides := fput p.peerSides k v }))

/-- The L1's whole copy of a row: its bytes with their poison, and its version (R194). -/
def rowCopy (s : State) (x : Ctx) (lines : List (Nat × Nat)) : Option (List (Byte × Bool) × Word) :=
  let find (l : Nat × Nat) : Option L1Line := (coreOf s x.c).l1.find? (fun e => e.asid == l.1 && e.line == l.2)
  match lines.head?.bind find with
  | none => none
  | some h => match h.row with
    | none => none
    | some (t, v) =>
      if lines.all (fun l => match find l with
        | some e => (e.row.map (·.1)) == some t
        | none => false)
      then some (lines.flatMap (fun l => match find l with
        | some e => (List.range 128).map (fun i => (e.bytes.getD i 0, setMem e.poison (i / 16)))
        | none => []), v)
      else none

/-- Counts a stale read in the first valid LLC_STALE_PAIR entry that names its reader and writer (R196). -/
def countStale (s : State) (pn reader writer : Nat) : State :=
  let p := partOf s pn
  match (List.range 16).find? (fun n =>
      let v := reg p .llcStalePair n
      v.getLsbD 63 && field v 55 48 == reader && field v 47 40 == writer) with
  | none => s
  | some n =>
    let v := reg p .llcStalePair n
    modPart s pn (fun p => setReg p .llcStalePair n (setField v 39 0 (satAdd (field v 39 0) 1 (2 ^ 40 - 1))))

/-- A row served by its home: the L1's old copies of its lines go, and they enter the L1 in one transfer, each with its own
side word (R194, R220, R291), but for a row on a peer or with an unreadable side word. -/
def rowTake (s : State) (x : Ctx) (lines : List (Nat × Nat)) (first : Option Nat) : State :=
  let s := lines.foldl (fun s l => l1Drop s x.c l.1 l.2) s
  match first with
  | none => s
  | some pl =>
    if (List.range lines.length).any (fun i => setMem s.sidePoison (pl + i)) then s
    else
      let (k, s) := takeStamp s
      (lines.mapIdx (fun i l => (i, l))).foldl (fun s e =>
        l1Fill s x.pn x.c e.2.1 e.2.2 (some (k, (sideOf s (pl + e.1)).1))) s

/-- The checks of ROWLD before its access: its scalars and names (R46, R86). -/
def rowldCheck (s : State) (x : Ctx) (r : RowArg) (a : BitVec 6) : Except Stop State := do
  checkPending x.w (iSRun a 2 ++ iNames r.names)
  if ctxActive x = 0 then .ok s
  else
    checkMapped x.w r.names
    reloadNames s x r.names

/-- The writes of a served row (R193, R194). -/
def rowWrites (r : RowArg) (bs : List (Byte × Bool)) : List NameWrite :=
  let words := loadWords 6 bs
  (r.names.zip r.masks).mapIdx (fun j e =>
    { name := e.1
      mask := e.2
      words := mkRow (fun l => (words.getD (32 * j + l) (0, false)).1)
      poison := mkMask (fun l => (words.getD (32 * j + l) (0, false)).2) &&& e.2 })

/-- Splits the names of a row that hold an active row word. -/
def splitRow (s : State) (x : Ctx) (r : RowArg) : Except Stop State :=
  let q := (r.names.zip r.masks).foldl (fun (q : State × Nat) e =>
    if e.2 = 0 then q else let t := splitName q.1 x e.2 e.1; (t.1, q.2 + t.2)) (s, 0)
  checkRows s q.1 x q.2

/-- ROWLD and ROWLD.H (R194, R196): the L1 serves a plain ROWLD where it holds the row whole and no store to it waits (R205), else the
home does; a version
held as uncorrectable gives zero and ends the warp when it lands. -/
def execRowld (d : BitVec 7) (a : BitVec 6) (h : BitVec 1) (n : BitVec 3) (s : State) : Host.Outcome State Fault Refusal :=
  runMem s (fun x => match rowldCheck s x (rowArg x d a n) a with
    | .ok _ => if ctxActive x = 0 then s else prepRow s x (rowArg x d a n) .read
    | .error _ => s) (fun x s => do
    let r := rowArg x d a n
    let s ← rowldCheck s x r a
    if ctxActive x = 0 then .ok (markPending s x (iNames r.names ++ [iS (a + 1)]), .seq)
    else
      raiseCause [(r.va, rowCause s x r .read)]
      parkIf (keptBack s x true)
      let ls := rowLines s x r
      let home := (rowPhys s x r).map (fun l => (sideOf s l, setMem s.sidePoison l))
      match (if h == 1 || ls.any (fun l => storeWaits s x.c l.1 l.2) then none else rowCopy s x ls) with
      | some (bs, v) =>
        let s ← splitRow s x r
        let s := match home with
          | some ((hv, writer), _) => if hv ≠ v then countStale s x.pn x.l.tenant writer else s
          | none => s
        let (_, s) := issueLong s x (iNames r.names ++ [iS (a + 1)]) .value (rowWrites r bs)
          [((a + 1).toNat, v.setWidth 64)] [] none
        .ok (s, .seq)
      | none =>
        parkIf (ls.any (fun l => lineHeld s x l.1 l.2 || storeWaits s x.c l.1 l.2))
        let bs := homeBytes s x r.va r.len
        let (side, s) := match home, peerRow s x r with
          | none, some k => peerSide s x k
          | _, _ => ((0, 0), s)
        let version : Word := match home with
          | some ((hv, _), bad) => if bad then 0 else hv
          | none => side.1
        let bad := (home.map (·.2)).getD false
        let s ← splitRow s x r
        let s := touchLines s x ls false
        let s := rowTake s x ls (rowPhys s x r)
        let (_, s) := issueLong s x (iNames r.names ++ [iS (a + 1)]) .value (rowWrites r bs)
          [((a + 1).toNat, version.setWidth 64)] (fetchingOf s x ls) (if bad then some (trapAddr x.sp) else none)
        .ok (s, .seq))

/-- The new value of a row word under ROWADD: two BF16 sums, each rounded once under RNE (R195). -/
def rowAddWord (old add : Word) : Word :=
  let e (k : Nat) : Nat :=
    (fAdd .bf16 .rne false (old.toNat / 2 ^ (16 * k) % 2 ^ 16) (add.toNat / 2 ^ (16 * k) % 2 ^ 16)).1
  BitVec.ofNat 32 (e 1 * 2 ^ 16 + e 0)

/-- The checks of ROWST and ROWADD before their access. -/
def rowstCheck (s : State) (x : Ctx) (r : RowArg) (a : BitVec 6) : Except Stop State := do
  checkPending x.w [iS a]
  if ctxActive x = 0 then .ok s
  else
    checkPending x.w (iNames r.names)
    checkMapped x.w r.names
    reloadNames s x r.names

/-- A row write at the home (R195): the words of active lanes, plain or added to the old ones; lanes with a poisoned word
are killed and write poison, and a sum over an uncorrectable word is not formed (R182). The version rises by 1 and the
tenant is recorded; the core's own copy goes (R220). -/
def rowUpdate (s : State) (x : Ctx) (r : RowArg) (add : Bool) : Except Stop (State × After) := do
  raiseCause [(r.va, rowCause s x r .write)]
  let ls := rowLines s x r
  parkIf (keptBack s x false || ls.any (fun l => atomHeld s x 2 l))
  let rows := r.names.map (rowOfName s x)
  let kills := (rows.zip r.masks).foldl (fun m e => m ||| (e.1.poison &&& e.2)) 0#32
  let old := loadWords 6 (homeBytes s x r.va r.len)
  let word (w : Nat) : List (Nat × Option Byte) :=
    let l := w % 32
    let o := old.getD w (0, false)
    let v := lane (rows.getD (w / 32) freeRow).words l
    let out (b : List (Option Byte)) : List (Nat × Option Byte) := (List.range 4).map (fun i => (4 * w + i, b.getD i none))
    if !(ctxActive x).getLsbD l then []
    else if kills.getLsbD l then out []
    else if !add then out ((bytesOf32 v).map some)
    else if o.2 then []
    else out ((bytesOf32 (rowAddWord o.1 v)).map some)
  let bs := (List.range (r.len / 4)).flatMap word
  let asid := (asidFor (partOf s x.pn) x.l.tenant r.va).getD 0
  let phys := rowPhys s x r
  let peer := peerRow s x r
  let lineBytes (l : Nat) : List (Nat × Option Byte) :=
    (bs.filter (fun e => (r.va + e.1) / 128 == l)).map (fun e => ((r.va + e.1) % 128, e.2))
  let s := settleStores s x.c x.slot
  let s := ls.foldl (fun s l => atHome s x asid l.2 (lineBytes l.2)) s
  let s := match phys with
    | some pl => { s with sides := fset s.sides pl ((sideOf s pl).1 + 1, x.l.tenant) (0, 0) }
    | none => match peer with
      | some k =>
        let (v, s) := peerSide s x k
        peerBack (modPart s x.pn (fun p => { p with peerSides := fput p.peerSides k (v.1 + 1, x.l.tenant) })) x
          ((ls.filter (fun l => !(lineBytes l.2).isEmpty)).map (fun l => (l, (lineBytes l.2).any (fun e => e.2.isNone))))
      | none => s
  .ok (killLanes (touchLines s x ls false) x kills .seq)

/-- ROWST (R195). -/
def execRowst (d : BitVec 7) (a : BitVec 6) (n : BitVec 3) (s : State) : Host.Outcome State Fault Refusal :=
  runMem s (fun x => match rowstCheck s x (rowArg x d a n) a with
    | .ok _ => if ctxActive x = 0 then s else prepRow s x (rowArg x d a n) .write
    | .error _ => s) (fun x s => do
    let r := rowArg x d a n
    let s ← rowstCheck s x r a
    if ctxActive x = 0 then .ok (s, .seq) else rowUpdate s x r false)

/-- ROWADD (R195). -/
def execRowadd (d : BitVec 7) (a : BitVec 6) (n : BitVec 3) (s : State) : Host.Outcome State Fault Refusal :=
  runMem s (fun x => match rowstCheck s x (rowArg x d a n) a with
    | .ok _ => if ctxActive x = 0 then s else prepRow s x (rowArg x d a n) .write
    | .error _ => s) (fun x s => do
    let r := rowArg x d a n
    let s ← rowstCheck s x r a
    if ctxActive x = 0 then .ok (s, .seq) else rowUpdate s x r true)

end Sys2Proof.Machine
end

