-- ==== Sys2Proof/Machine/Dispatch.lean ====
section
/-! DEFINITION. The dispatch of every constructor of `Instr` to its meaning. -/

namespace Sys2Proof.Machine

open Sys2Proof

def exec (i : Instr) (s : State) : Host.Outcome State Fault Refusal :=
  match i with
  | .map d => Sys2Proof.Machine.execMap d s
  | .mapr d n => Sys2Proof.Machine.execMapr d n s
  | .unmap d => Sys2Proof.Machine.execUnmap d s
  | .unmapm a => Sys2Proof.Machine.execUnmapm a s
  | .movn d a => Sys2Proof.Machine.execMovn d a s
  | .swpn d a => Sys2Proof.Machine.execSwpn d a s
  | .rotn d n k => Sys2Proof.Machine.execRotn d n k s
  | .aliasN d a => Sys2Proof.Machine.execAliasN d a s
  | .copyn d a => Sys2Proof.Machine.execCopyn d a s
  | .give h a => Sys2Proof.Machine.execGive h a s
  | .take d h => Sys2Proof.Machine.execTake d h s
  | .takeq d h p => Sys2Proof.Machine.execTakeq d h p s
  | .ismap d a => Sys2Proof.Machine.execIsmap d a s
  | .wbase b => Sys2Proof.Machine.execWbase b s
  | .mapq d a => Sys2Proof.Machine.execMapq d a s
  | .sadd d a b => Sys2Proof.Machine.execSadd d a b s
  | .ssub d a b => Sys2Proof.Machine.execSsub d a b s
  | .smul d a b => Sys2Proof.Machine.execSmul d a b s
  | .smulh d a b => Sys2Proof.Machine.execSmulh d a b s
  | .sand d a b => Sys2Proof.Machine.execSand d a b s
  | .sor d a b => Sys2Proof.Machine.execSor d a b s
  | .sxor d a b => Sys2Proof.Machine.execSxor d a b s
  | .sshl d a b => Sys2Proof.Machine.execSshl d a b s
  | .sshr d a b => Sys2Proof.Machine.execSshr d a b s
  | .ssra d a b => Sys2Proof.Machine.execSsra d a b s
  | .smin d a b => Sys2Proof.Machine.execSmin d a b s
  | .smax d a b => Sys2Proof.Machine.execSmax d a b s
  | .saddImm d a imm => Sys2Proof.Machine.execSaddImm d a imm s
  | .ssubImm d a imm => Sys2Proof.Machine.execSsubImm d a imm s
  | .smulImm d a imm => Sys2Proof.Machine.execSmulImm d a imm s
  | .smulhImm d a imm => Sys2Proof.Machine.execSmulhImm d a imm s
  | .sandImm d a imm => Sys2Proof.Machine.execSandImm d a imm s
  | .sorImm d a imm => Sys2Proof.Machine.execSorImm d a imm s
  | .sxorImm d a imm => Sys2Proof.Machine.execSxorImm d a imm s
  | .sshlImm d a imm => Sys2Proof.Machine.execSshlImm d a imm s
  | .sshrImm d a imm => Sys2Proof.Machine.execSshrImm d a imm s
  | .ssraImm d a imm => Sys2Proof.Machine.execSsraImm d a imm s
  | .sminImm d a imm => Sys2Proof.Machine.execSminImm d a imm s
  | .smaxImm d a imm => Sys2Proof.Machine.execSmaxImm d a imm s
  | .scmp cc d a b => Sys2Proof.Machine.execScmp cc d a b s
  | .scmpImm cc d a imm => Sys2Proof.Machine.execScmpImm cc d a imm s
  | .ssel d a b => Sys2Proof.Machine.execSsel d a b s
  | .smov d a => Sys2Proof.Machine.execSmov d a s
  | .sldi d imm => Sys2Proof.Machine.execSldi d imm s
  | .slit d h lit => Sys2Proof.Machine.execSlit d h lit s
  | .iadd d a b => Sys2Proof.Machine.execIadd d a b s
  | .isub d a b => Sys2Proof.Machine.execIsub d a b s
  | .imul d a b => Sys2Proof.Machine.execImul d a b s
  | .imulh d a b => Sys2Proof.Machine.execImulh d a b s
  | .iand d a b => Sys2Proof.Machine.execIand d a b s
  | .ior d a b => Sys2Proof.Machine.execIor d a b s
  | .ixor d a b => Sys2Proof.Machine.execIxor d a b s
  | .ishl d a b => Sys2Proof.Machine.execIshl d a b s
  | .ishr d a b => Sys2Proof.Machine.execIshr d a b s
  | .isra d a b => Sys2Proof.Machine.execIsra d a b s
  | .imin d a b => Sys2Proof.Machine.execImin d a b s
  | .imax d a b => Sys2Proof.Machine.execImax d a b s
  | .iaddImm d a imm => Sys2Proof.Machine.execIaddImm d a imm s
  | .isubImm d a imm => Sys2Proof.Machine.execIsubImm d a imm s
  | .imulImm d a imm => Sys2Proof.Machine.execImulImm d a imm s
  | .imulhImm d a imm => Sys2Proof.Machine.execImulhImm d a imm s
  | .iandImm d a imm => Sys2Proof.Machine.execIandImm d a imm s
  | .iorImm d a imm => Sys2Proof.Machine.execIorImm d a imm s
  | .ixorImm d a imm => Sys2Proof.Machine.execIxorImm d a imm s
  | .ishlImm d a imm => Sys2Proof.Machine.execIshlImm d a imm s
  | .ishrImm d a imm => Sys2Proof.Machine.execIshrImm d a imm s
  | .israImm d a imm => Sys2Proof.Machine.execIsraImm d a imm s
  | .iminImm d a imm => Sys2Proof.Machine.execIminImm d a imm s
  | .imaxImm d a imm => Sys2Proof.Machine.execImaxImm d a imm s
  | .imad d a b => Sys2Proof.Machine.execImad d a b s
  | .iabs d a => Sys2Proof.Machine.execIabs d a s
  | .popc d a => Sys2Proof.Machine.execPopc d a s
  | .clz d a => Sys2Proof.Machine.execClz d a s
  | .brev d a => Sys2Proof.Machine.execBrev d a s
  | .bfe d a b => Sys2Proof.Machine.execBfe d a b s
  | .bfi d a b => Sys2Proof.Machine.execBfi d a b s
  | .iaddc d a b => Sys2Proof.Machine.execIaddc d a b s
  | .icmp cc d a b => Sys2Proof.Machine.execIcmp cc d a b s
  | .icmpImm cc d a imm => Sys2Proof.Machine.execIcmpImm cc d a imm s
  | .lea d u a b => Sys2Proof.Machine.execLea d u a b s
  | .mov d a => Sys2Proof.Machine.execMov d a s
  | .movs d h a => Sys2Proof.Machine.execMovs d h a s
  | .lit d lit => Sys2Proof.Machine.execLit d lit s
  | .pand d a b => Sys2Proof.Machine.execPand d a b s
  | .por d a b => Sys2Proof.Machine.execPor d a b s
  | .pxor d a b => Sys2Proof.Machine.execPxor d a b s
  | .pnot d a => Sys2Proof.Machine.execPnot d a s
  | .pset d a => Sys2Proof.Machine.execPset d a s
  | .pmov d a => Sys2Proof.Machine.execPmov d a s
  | .fadd d a b => Sys2Proof.Machine.execFadd d a b s
  | .fsub d a b => Sys2Proof.Machine.execFsub d a b s
  | .fmul d a b => Sys2Proof.Machine.execFmul d a b s
  | .ffma d a b => Sys2Proof.Machine.execFfma d a b s
  | .fmin d a b => Sys2Proof.Machine.execFmin d a b s
  | .fmax d a b => Sys2Proof.Machine.execFmax d a b s
  | .fabs d a => Sys2Proof.Machine.execFabs d a s
  | .fneg d a => Sys2Proof.Machine.execFneg d a s
  | .fcmpEq d a b => Sys2Proof.Machine.execFcmpEq d a b s
  | .fcmpLt d a b => Sys2Proof.Machine.execFcmpLt d a b s
  | .fcmpLe d a b => Sys2Proof.Machine.execFcmpLe d a b s
  | .fcmpGt d a b => Sys2Proof.Machine.execFcmpGt d a b s
  | .fcmpGe d a b => Sys2Proof.Machine.execFcmpGe d a b s
  | .fcmpNe d a b => Sys2Proof.Machine.execFcmpNe d a b s
  | .fcmpOrd d a b => Sys2Proof.Machine.execFcmpOrd d a b s
  | .fcmpUno d a b => Sys2Proof.Machine.execFcmpUno d a b s
  | .fcmpEqu d a b => Sys2Proof.Machine.execFcmpEqu d a b s
  | .fcmpLtu d a b => Sys2Proof.Machine.execFcmpLtu d a b s
  | .fcmpLeu d a b => Sys2Proof.Machine.execFcmpLeu d a b s
  | .fcmpGtu d a b => Sys2Proof.Machine.execFcmpGtu d a b s
  | .fcmpGeu d a b => Sys2Proof.Machine.execFcmpGeu d a b s
  | .fcmpNeu d a b => Sys2Proof.Machine.execFcmpNeu d a b s
  | .hadd2 d a b => Sys2Proof.Machine.execHadd2 d a b s
  | .hmul2 d a b => Sys2Proof.Machine.execHmul2 d a b s
  | .hfma2 d a b => Sys2Proof.Machine.execHfma2 d a b s
  | .fcvt dst d a src => Sys2Proof.Machine.execFcvt dst d a src s
  | .frcp d a => Sys2Proof.Machine.execFrcp d a s
  | .frsq d a => Sys2Proof.Machine.execFrsq d a s
  | .fsqrt d a => Sys2Proof.Machine.execFsqrt d a s
  | .fex2 d a => Sys2Proof.Machine.execFex2 d a s
  | .flg2 d a => Sys2Proof.Machine.execFlg2 d a s
  | .ftanh d a => Sys2Proof.Machine.execFtanh d a s
  | .shfl2 d a b => Sys2Proof.Machine.execShfl2 d a b s
  | .shfl4 d a b => Sys2Proof.Machine.execShfl4 d a b s
  | .shfl8 d a b => Sys2Proof.Machine.execShfl8 d a b s
  | .shfl16 d a b => Sys2Proof.Machine.execShfl16 d a b s
  | .shfl32 d a b => Sys2Proof.Machine.execShfl32 d a b s
  | .voteAny d neg p => Sys2Proof.Machine.execVoteAny d neg p s
  | .voteAll d neg p => Sys2Proof.Machine.execVoteAll d neg p s
  | .voteBal d neg p => Sys2Proof.Machine.execVoteBal d neg p s
  | .matchAny d a => Sys2Proof.Machine.execMatchAny d a s
  | .matchAll d a => Sys2Proof.Machine.execMatchAll d a s
  | .redux d a op => Sys2Proof.Machine.execRedux d a op s
  | .fredux d a op => Sys2Proof.Machine.execFredux d a op s
  | .scan d a ex op => Sys2Proof.Machine.execScan d a ex op s
  | .bcast d a b => Sys2Proof.Machine.execBcast d a b s
  | .elect d a => Sys2Proof.Machine.execElect d a s
  | .bra off => Sys2Proof.Machine.execBra off s
  | .bru neg sr off => Sys2Proof.Machine.execBru neg sr off s
  | .brp neg p off => Sys2Proof.Machine.execBrp neg p off s
  | .jpoint off => Sys2Proof.Machine.execJpoint off s
  | .join => Sys2Proof.Machine.execJoin s
  | .jmpr a => Sys2Proof.Machine.execJmpr a s
  | .call d off => Sys2Proof.Machine.execCall d off s
  | .callr d a => Sys2Proof.Machine.execCallr d a s
  | .ret a => Sys2Proof.Machine.execRet a s
  | .exit => Sys2Proof.Machine.execExit s
  | .nop => Sys2Proof.Machine.execNop s
  | .yield => Sys2Proof.Machine.execYield s
  | .ldg d a scope ord sz => Sys2Proof.Machine.execLdg d a scope ord sz s
  | .stg d a scope ord sz => Sys2Proof.Machine.execStg d a scope ord sz s
  | .lds d a fe sz => Sys2Proof.Machine.execLds d a fe sz s
  | .sts d a fe sz => Sys2Proof.Machine.execSts d a fe sz s
  | .ldu d a scope ord sz => Sys2Proof.Machine.execLdu d a scope ord sz s
  | .stu d a scope ord sz => Sys2Proof.Machine.execStu d a scope ord sz s
  | .atom op d a ar ty scope => Sys2Proof.Machine.execAtom op d a ar ty scope s
  | .atoms op d a ty => Sys2Proof.Machine.execAtoms op d a ty s
  | .rowld d a h n => Sys2Proof.Machine.execRowld d a h n s
  | .rowst d a n => Sys2Proof.Machine.execRowst d a n s
  | .rowadd d a n => Sys2Proof.Machine.execRowadd d a n s
  | .pref a llc => Sys2Proof.Machine.execPref a llc s
  | .fence kind scope => Sys2Proof.Machine.execFence kind scope s
  | .gbar g => Sys2Proof.Machine.execGbar g s
  | .garv d g => Sys2Proof.Machine.execGarv d g s
  | .gwait g b => Sys2Proof.Machine.execGwait g b s
  | .mma acc a b => Sys2Proof.Machine.execMma acc a b s
  | .mzero acc n => Sys2Proof.Machine.execMzero acc n s
  | .bfill d a => Sys2Proof.Machine.execBfill d a s
  | .bfills d a key => Sys2Proof.Machine.execBfills d a key s
  | .scld a b => Sys2Proof.Machine.execScld a b s
  | .mepi a => Sys2Proof.Machine.execMepi a s
  | .mdrain own acc a rte dest => Sys2Proof.Machine.execMdrain own acc a rte dest s
  | .vpop d => Sys2Proof.Machine.execVpop d s
  | .mburst n => Sys2Proof.Machine.execMburst n s
  | .mstat d => Sys2Proof.Machine.execMstat d s
  | .accsv acc a => Sys2Proof.Machine.execAccsv acc a s
  | .accld int acc a => Sys2Proof.Machine.execAccld int acc a s
  | .fwait a => Sys2Proof.Machine.execFwait a s
  | .ftest d a => Sys2Proof.Machine.execFtest d a s
  | .fstat d a => Sys2Proof.Machine.execFstat d a s
  | .fcancel d a => Sys2Proof.Machine.execFcancel d a s
  | .tld d a => Sys2Proof.Machine.execTld d a s
  | .tst d a => Sys2Proof.Machine.execTst d a s
  | .tcpy d a => Sys2Proof.Machine.execTcpy d a s
  | .tmcast d a g => Sys2Proof.Machine.execTmcast d a g s
  | .gath d a b => Sys2Proof.Machine.execGath d a b s
  | .scat d a b => Sys2Proof.Machine.execScat d a b s
  | .feedgo d a => Sys2Proof.Machine.execFeedgo d a s
  | .qfeed d a q => Sys2Proof.Machine.execQfeed d a q s
  | .qpop d q => Sys2Proof.Machine.execQpop d q s
  | .qrel q b => Sys2Proof.Machine.execQrel q b s
  | .qpost d a => Sys2Proof.Machine.execQpost d a s
  | .qpostAt d a b => Sys2Proof.Machine.execQpostAt d a b s
  | .ctradd d cnt => Sys2Proof.Machine.execCtradd d cnt s
  | .ctrwait d cnt => Sys2Proof.Machine.execCtrwait d cnt s
  | .rteset rte a => Sys2Proof.Machine.execRteset rte a s
  | .cabort d a b => Sys2Proof.Machine.execCabort d a b s
  | .launch d a => Sys2Proof.Machine.execLaunch d a s
  | .treg d a b => Sys2Proof.Machine.execTreg d a b s
  | .tunreg a => Sys2Proof.Machine.execTunreg a s
  | .tmove d a b => Sys2Proof.Machine.execTmove d a b s
  | .solicit d a b => Sys2Proof.Machine.execSolicit d a b s
  | .reply a => Sys2Proof.Machine.execReply a s
  | .replyv a => Sys2Proof.Machine.execReplyv a s
  | .census d a => Sys2Proof.Machine.execCensus d a s
  | .trap imm => Sys2Proof.Machine.execTrap imm s
  | .eret => Sys2Proof.Machine.execEret s
  | .srd d spec => Sys2Proof.Machine.execSrd d spec s
  | .swr spec b => Sys2Proof.Machine.execSwr spec b s
  | .bkpt imm => Sys2Proof.Machine.execBkpt imm s
  | .gettime d cyc => Sys2Proof.Machine.execGettime d cyc s
  | .srdV d spec => Sys2Proof.Machine.execSrdV d spec s
  | .pfxa pred neg pol c cv => Sys2Proof.Machine.execPfxa pred neg pol c cv s
  | .pfxb rm sat ty => Sys2Proof.Machine.execPfxb rm sat ty s
  | .spanIssue core slot refetch => Sys2Proof.Machine.execSpanIssue core slot refetch s
  | .longLatencyComplete core warp op => Sys2Proof.Machine.execLongLatencyComplete core warp op s
  | .pathPromotion core warp sec => Sys2Proof.Machine.execPathPromotion core warp sec s
  | .gangRelease core warp => Sys2Proof.Machine.execGangRelease core warp s
  | .gangTrapDeferredEntry core warp => Sys2Proof.Machine.execGangTrapDeferredEntry core warp s
  | .launchEnd launch => Sys2Proof.Machine.execLaunchEnd launch s
  | .engineLineWrite core op line => Sys2Proof.Machine.execEngineLineWrite core op line s
  | .tileTransferComplete core op => Sys2Proof.Machine.execTileTransferComplete core op s
  | .bfillComplete core op => Sys2Proof.Machine.execBfillComplete core op s
  | .qfeedFillComplete core op => Sys2Proof.Machine.execQfeedFillComplete core op s
  | .drainRowDeliver core warp op => Sys2Proof.Machine.execDrainRowDeliver core warp op s
  | .scratchWaitPerform core launch op => Sys2Proof.Machine.execScratchWaitPerform core launch op s
  | .feedSpanIssue core launch => Sys2Proof.Machine.execFeedSpanIssue core launch s
  | .postedEntryFire core op time tree => Sys2Proof.Machine.execPostedEntryFire core op time tree s
  | .sctData part p => Sys2Proof.Machine.execSctData part p s
  | .sctAck part p => Sys2Proof.Machine.execSctAck part p s
  | .sctNak part p => Sys2Proof.Machine.execSctNak part p s
  | .sctLaunch part p => Sys2Proof.Machine.execSctLaunch part p s
  | .sctAbort part p => Sys2Proof.Machine.execSctAbort part p s
  | .sctState part p => Sys2Proof.Machine.execSctState part p s
  | .sctLineReq part p => Sys2Proof.Machine.execSctLineReq part p s
  | .sctLineRsp part p => Sys2Proof.Machine.execSctLineRsp part p s
  | .nakBackoffExpire part who => Sys2Proof.Machine.execNakBackoffExpire part who s
  | .sctAckTimeout part dst qp => Sys2Proof.Machine.execSctAckTimeout part dst qp s
  | .rootSequence part => Sys2Proof.Machine.execRootSequence part s
  | .solicitAccept core => Sys2Proof.Machine.execSolicitAccept core s
  | .responderSpawn core => Sys2Proof.Machine.execResponderSpawn core s
  | .coreReport core id => Sys2Proof.Machine.execCoreReport core id s
  | .tmoveSwitchSend core op => Sys2Proof.Machine.execTmoveSwitchSend core op s
  | .tmoveSwitchApply core => Sys2Proof.Machine.execTmoveSwitchApply core s
  | .barrierArriveSend core launch group => Sys2Proof.Machine.execBarrierArriveSend core launch group s
  | .barrierArriveCount part => Sys2Proof.Machine.execBarrierArriveCount part s
  | .barrierComplete core => Sys2Proof.Machine.execBarrierComplete core s
  | .submissionRingTail part cls tail => Sys2Proof.Machine.execSubmissionRingTail part cls tail s
  | .recordCheck part src => Sys2Proof.Machine.execRecordCheck part src s
  | .dispatchPlace part => Sys2Proof.Machine.execDispatchPlace part s
  | .pathStop core warp sec => Sys2Proof.Machine.execPathStop core warp sec s
  | .preemptBudgetExpire launch => Sys2Proof.Machine.execPreemptBudgetExpire launch s
  | .completionRingHead part head => Sys2Proof.Machine.execCompletionRingHead part head s
  | .tenantTeardown part tenant => Sys2Proof.Machine.execTenantTeardown part tenant s
  | .homeSliceWrite src => Sys2Proof.Machine.execHomeSliceWrite src s
  | .l1Invalidate core line => Sys2Proof.Machine.execL1Invalidate core line s
  | .lineFetchComplete part idx => Sys2Proof.Machine.execLineFetchComplete part idx s
  | .fileBlockRead part frame data => Sys2Proof.Machine.execFileBlockRead part frame data s
  | .pageWalk part asid vpn store => Sys2Proof.Machine.execPageWalk part asid vpn store s
  | .shootdown part v => Sys2Proof.Machine.execShootdown part v s
  | .shootdownComplete part => Sys2Proof.Machine.execShootdownComplete part s
  | .fsRead part frame => Sys2Proof.Machine.execFsRead part frame s
  | .fsRelease part frame => Sys2Proof.Machine.execFsRelease part frame s
  | .fsScrub part frame => Sys2Proof.Machine.execFsScrub part frame s
  | .scrubComplete part frame => Sys2Proof.Machine.execScrubComplete part frame s
  | .fsSetfile part frame arg => Sys2Proof.Machine.execFsSetfile part frame arg s
  | .fsReadcnt part frame => Sys2Proof.Machine.execFsReadcnt part frame s
  | .hardwareMigration part frame => Sys2Proof.Machine.execHardwareMigration part frame s
  | .writebackScanVisit part frame => Sys2Proof.Machine.execWritebackScanVisit part frame s
  | .snapshotRead part frame => Sys2Proof.Machine.execSnapshotRead part frame s
  | .flashWriteComplete part frame ok => Sys2Proof.Machine.execFlashWriteComplete part frame ok s
  | .parMerge part other => Sys2Proof.Machine.execParMerge part other s
  | .parYield part other => Sys2Proof.Machine.execParYield part other s
  | .parSplit part octs => Sys2Proof.Machine.execParSplit part octs s
  | .parMigrate part rank accepted octants => Sys2Proof.Machine.execParMigrate part rank accepted octants s
  | .parAccept part rank => Sys2Proof.Machine.execParAccept part rank s
  | .handshakeDrainDone part => Sys2Proof.Machine.execHandshakeDrainDone part s
  | .handshakeTimeout part => Sys2Proof.Machine.execHandshakeTimeout part s
  | .migrationCommitSend part ok => Sys2Proof.Machine.execMigrationCommitSend part ok s
  | .migrationCommitReceive part => Sys2Proof.Machine.execMigrationCommitReceive part s
  | .migrationCommitAck part acked => Sys2Proof.Machine.execMigrationCommitAck part acked s
  | .parSaveWrite part tenant v => Sys2Proof.Machine.execParSaveWrite part tenant v s
  | .rkpetWrite part => Sys2Proof.Machine.execRkpetWrite part s
  | .watchdogExpire part => Sys2Proof.Machine.execWatchdogExpire part s
  | .thaw part => Sys2Proof.Machine.execThaw part s
  | .keyRequest part v => Sys2Proof.Machine.execKeyRequest part v s
  | .keyVerifyComplete part slot => Sys2Proof.Machine.execKeyVerifyComplete part slot s
  | .attestRequest part pa => Sys2Proof.Machine.execAttestRequest part pa s
  | .scanTestStart core => Sys2Proof.Machine.execScanTestStart core s
  | .scanDeferExpire core => Sys2Proof.Machine.execScanDeferExpire core s
  | .scanTestComplete core pass => Sys2Proof.Machine.execScanTestComplete core pass s
  | .routerFailure oct col row lostCores lostSlices lostPort => Sys2Proof.Machine.execRouterFailure oct col row lostCores lostSlices lostPort s
  | .linkFailure a b => Sys2Proof.Machine.execLinkFailure a b s
  | .eccError site correctable => Sys2Proof.Machine.execEccError site correctable s
  | .moduleBoot image => Sys2Proof.Machine.execModuleBoot image s
  | .ethFrameReceive oct frame => Sys2Proof.Machine.execEthFrameReceive oct frame s
  | .ethFrameTransmit oct frame => Sys2Proof.Machine.execEthFrameTransmit oct frame s
  | .mctpMessage oct req => Sys2Proof.Machine.execMctpMessage oct req s
  | .troyDebugRead part pa => Sys2Proof.Machine.execTroyDebugRead part pa s
  | .debugResume core warp => Sys2Proof.Machine.execDebugResume core warp s
  | .stalePairWrite part idx v => Sys2Proof.Machine.execStalePairWrite part idx v s
  | .netrejWrite part => Sys2Proof.Machine.execNetrejWrite part s
  | .cenStatWrite part => Sys2Proof.Machine.execCenStatWrite part s
  | .evlostWrite part => Sys2Proof.Machine.execEvlostWrite part s
  | .rxdropWrite part => Sys2Proof.Machine.execRxdropWrite part s
  | .registerWrite part who reg v => Sys2Proof.Machine.execRegisterWrite part who reg v s
  | .portLinkChange oct up => Sys2Proof.Machine.execPortLinkChange oct up s
  | .terminationByRyukel launch => Sys2Proof.Machine.execTerminationByRyukel launch s
  | .powerReachesTdp held => Sys2Proof.Machine.execPowerReachesTdp held s

end Sys2Proof.Machine
end

