-- ==== Sys2Proof/Machine/Place.lean ====
section
/-! DEFINITION. Placing an instruction where a step runs it next: a warp of a launch with a span in issue, as DISPATCH_PLACE
and SPAN_ISSUE leave one (R306, R309). -/

namespace Sys2Proof.Machine

open Sys2Proof

/-- A header whose span has `n` words and binds no flag (R41). -/
def plainHeader (n : Nat) : Word := BitVec.ofNat 32 (0x000FF000 + 128 * (n - 1))

/-- NOP, and NOP that ends a span (R120). -/
def nopWord : Word := 0x25400000#32
def nopEnd : Word := 0xA5400000#32

/-- FADD v0, v0, v0, which accepts both prefixes (R54). -/
def faddWord : Word := 0x14000000#32

/-- The words of a block that holds one span: the given word first, with a live-mask word where it carries S, its literal,
and filler up to an end bit. -/
def placedBlock (w lit : Word) : List Word :=
  let data := (if wordS w then [0#32] else []) ++ (if takesLiteral (wordOp w) then [lit] else [])
  let body := if wordE w && !isPrefixOp (wordOp w) then w :: data
    else w :: data ++ (if isPrefixOp (wordOp w) then [faddWord] else []) ++ List.replicate 8 nopWord ++ [nopEnd]
  let used := plainHeader body.length :: body
  used ++ List.replicate (32 - used.length) nopWord

/-- A launch of one warp of tenant 1 in partition 0 with 8 units of rows, one of scratchpad and one accumulator slot. -/
def placedLaunch : Launch :=
  { launchNone with
    tenant := 1
    record := ((Vector.replicate 16 (0#64)).set 2 0x0000000100010001#64).set 3 0x0000000000004088#64
    status := .running
    placedOn := [0]
    slots := [(0, 0, 0)]
    reported := false }

/-- A state in which warp slot 0 of core 0 has the given words in issue and its turn is next. A warp that stands there
already keeps all it has. -/
def placeWord (s : State) (w lit : Word) : State :=
  let fresh := (warpOf? s 0 0).isNone
  let l := match warpOf? s 0 0 with
    | some v => v.launch
    | none => s.nextLaunch
  let v := (warpOf? s 0 0).getD (warpReset l 0 0 0 0 (Vector.replicate 4 0))
  let sp : Span := ⟨false, 0, (placedBlock w lit).getD 0 0, placedBlock w lit, 1, none, none, none, false⟩
  let s1 := if fresh then
    setCl { s with launches := fput s.launches l placedLaunch, nextLaunch := s.nextLaunch + 1 } 0 l
      { coreLaunchReset 10 8 0 with blocks := 1, slots := [0] }
    else s
  let s2 := setWarp s1 0 0 { v with span := some sp }
  { s2 with agenda := .word 0 0 :: s2.agenda }

end Sys2Proof.Machine
end

