-- ==== Sys2Proof/Machine/Policy.lean ====
section
/-! DEFINITION. The running of a word, and what a step does when the agenda is empty (notes/assumptions/1.md): the first event
of the module's own agents that changes anything, else the next word of a warp, else the start of a span. -/

namespace Sys2Proof.Machine

open Sys2Proof

/-- An event of the module's own agents: what becomes of a state. -/
abbrev Act := State → Host.Outcome State Fault Refusal

/-- The events of a warp's own operations and paths. -/
def warpEvents (c w : Nat) (v : Warp) : List Act :=
  v.ops.map (fun o => execLongLatencyComplete c w o.id)
    ++ [execGangRelease c w, execGangTrapDeferredEntry c w, execPathStop c w false, execPathStop c w true]

/-- The events of an engine operation. -/
def engineEvents (c o : Nat) (e : EngineOp) : List Act :=
  (opUnits c e).map (execEngineLineWrite c o) ++ match e.kind with
    | .tile _ _ _ => [execTileTransferComplete c o]
    | .fill _ _ _ _ _ _ _ => [execBfillComplete c o]
    | .queueFill _ _ _ _ => [execQfeedFillComplete c o]
    | .drain w _ _ _ _ _ _ _ => [execDrainRowDeliver c w o]
    | .move _ _ _ _ _ _ => [execTmoveSwitchSend c o]
    | _ => []

/-- The groups of a launch that have a member that has not retired: the phases of others could go on without end (R199). -/
def liveGroups (l : Launch) : List Nat :=
  (List.range l.groups.length).filter (fun g => (l.groups.getD g []).any (fun m => !setMem l.retired m))

/-- The events of what a launch holds on a core. -/
def holdingEvents (s : State) (c l : Nat) (h : CoreLaunch) : List Act :=
  execFeedSpanIssue c l :: h.armed.map (fun a => execScratchWaitPerform c l a.id)
    ++ (liveGroups (launchOf s l)).map (fun g => execBarrierArriveSend c l g)

/-- The events of a core. -/
def coreEvents (s : State) (c : Nat) (k : Core) : List Act :=
  k.warps.flatMap (fun w => warpEvents c w.1 w.2) ++ [execHomeSliceWrite (.core c 0)]
    ++ k.invals.map (fun i => execL1Invalidate c i.2) ++ k.engines.flatMap (fun e => engineEvents c e.1 e.2)
    ++ k.launches.flatMap (fun h => holdingEvents s c h.1 h.2)
    ++ [execSolicitAccept c, execResponderSpawn c, execTmoveSwitchApply c, execBarrierComplete c]
    ++ k.accepted.map (fun a => execCoreReport c a.q.seq)

/-- The events of a partition. -/
def partEvents (n : Nat) (p : Partition) : List Act :=
  [execLineFetchComplete n 0, execRootSequence n, execBarrierArriveCount n, execShootdownComplete n, execHandshakeDrainDone n]
    ++ (List.range 4).map (fun c => execRecordCheck n (.ring c))
    ++ (if p.pending.isEmpty then [] else [execRecordCheck n .launchInstr, execRecordCheck n .net])

/-- DISPATCH_PLACE where it places or resumes a launch at once. -/
def placeNow (n : Nat) : Act := fun s =>
  match execDispatchPlace n s with
  | .next t =>
    if t.launches.any (fun e => e.2.status == .running && (launchOf s e.1).status != .running) then .next t else .next s
  | o => o

/-- The events of the module's own agents, in the order in which an empty agenda tries them. -/
def ownEvents (s : State) : List Act :=
  s.cores.flatMap (fun e => coreEvents s e.1 e.2) ++ s.parts.flatMap (fun e => partEvents e.1 e.2)
    ++ (s.frames.filter (fun f => f.2.state == 1)).map (fun f => execScrubComplete (partOfOct s (f.1 / Config.framesPerOctant)) f.1)
    ++ s.launches.map (fun e => execLaunchEnd e.1) ++ (fkeys s.parts).map placeNow

/-- Runs the next word of the span in issue of a warp slot: the word's fate before its meaning, or its meaning. -/
def stepWord (core slot : Nat) : Act := fun s =>
  let s := { s with cur := (core, slot) }
  match ctxOf s with
  | none => .next s
  | some x => match readWord s x with
    | .run i => exec i s
    | .done t => .next t

/-- Places after another first, then the others. -/
def rotate (l : List (Nat × Nat)) (last : Nat × Nat) : List (Nat × Nat) :=
  let later (e : Nat × Nat) : Bool := decide (last.1 < e.1) || (last.1 == e.1 && decide (last.2 < e.2))
  l.filter later ++ l.filter (fun e => !later e)

/-- The words that could run next, and the issue slots that could start a span, those after the last warp first. -/
def warpTurns (s : State) : List Act :=
  let words := s.cores.flatMap (fun e =>
    (e.2.warps.filter (fun w => w.2.span.isSome && !w.2.bkptStop)).map (fun w => (e.1, w.1)))
  let slots := s.cores.flatMap (fun e => if e.2.warps.isEmpty then [] else (List.range 4).map (fun i => (e.1, i)))
  (rotate words s.cur).map (fun e => stepWord e.1 e.2)
    ++ (rotate slots (s.cur.1, s.cur.2 % 4)).map (fun e => execSpanIssue e.1 e.2 false)

/-- Everything that an empty agenda tries, in order. -/
def defaultActs (s : State) : List Act := ownEvents s ++ warpTurns s ++ (fkeys s.parts).map (fun n => execDispatchPlace n)

/-- The first of some turns that changes the state, taken; where none does, the state stays. Which warp ran last is not part
of the comparison. -/
def takeFirst (s : State) : List Act → Host.Outcome State Fault Refusal
  | [] => .next s
  | f :: fs => match f s with
    | .next t => if { t with cur := s.cur } = s then takeFirst s fs else .next t
    | o => o

/-- Whether a constructor is an event and no instruction word. -/
def isEvent (i : Instr) : Bool := (encodeFields i).isNone

end Sys2Proof.Machine
end

