-- ==== Sys2Proof/Machine/Step.lean ====
section
/-! DEFINITION. One step of the module: the turn that the agenda gives, or a default one. -/

namespace Sys2Proof.Machine

open Sys2Proof

/-- Takes a turn: a word, or an event. A turn that names no event is passed over. -/
def takeTurn (s : State) : Turn → Host.Outcome State Fault Refusal
  | .word core slot => stepWord core slot s
  | .event e => if isEvent e then exec e s else .next s

/-- One step: a turn, and the ages of the paths after it (R309). What happens in it happens at one moment (R223). -/
def step (s : State) : Host.Outcome State Fault Refusal :=
  tick (match s.agenda with
    | t :: rest => takeTurn { s with agenda := rest } t
    | [] => takeFirst s (defaultActs s))

/-- The state with an instruction placed as the next word that a step runs (notes/assumptions/13.md): the words stand after
a header in a span in issue of warp slot 0 of core 0, whose turn comes first. -/
def State.withFetchWord (s : State) (nbits w : Nat) : State := placeWord s (tableWord nbits w) (tableLit nbits w)

end Sys2Proof.Machine
end

