-- ==== Sys2Proof/Laws/State.lean ====
section
/-! SUPPORT. One lemma per field for each named update of the module, of a core, of a warp and of a partition, so that no
proof unfolds a record update. -/

namespace Sys2Proof.Machine

open Sys2Proof


/-! ## Updates of the module -/

@[simp] theorem setCore_booted (s : State) (c : Nat) (k : Core) : (setCore s c k).booted = s.booted := rfl
@[simp] theorem setCore_configSeq (s : State) (c : Nat) (k : Core) : (setCore s c k).configSeq = s.configSeq := rfl
@[simp] theorem setCore_operatorKey (s : State) (c : Nat) (k : Core) : (setCore s c k).operatorKey = s.operatorKey := rfl
@[simp] theorem setCore_octHeld (s : State) (c : Nat) (k : Core) : (setCore s c k).octHeld = s.octHeld := rfl
@[simp] theorem setCore_parts (s : State) (c : Nat) (k : Core) : (setCore s c k).parts = s.parts := rfl
@[simp] theorem setCore_launches (s : State) (c : Nat) (k : Core) : (setCore s c k).launches = s.launches := rfl
@[simp] theorem setCore_nextLaunch (s : State) (c : Nat) (k : Core) : (setCore s c k).nextLaunch = s.nextLaunch := rfl
@[simp] theorem setCore_mem (s : State) (c : Nat) (k : Core) : (setCore s c k).mem = s.mem := rfl
@[simp] theorem setCore_sides (s : State) (c : Nat) (k : Core) : (setCore s c k).sides = s.sides := rfl
@[simp] theorem setCore_sidePoison (s : State) (c : Nat) (k : Core) : (setCore s c k).sidePoison = s.sidePoison := rfl
@[simp] theorem setCore_poison (s : State) (c : Nat) (k : Core) : (setCore s c k).poison = s.poison := rfl
@[simp] theorem setCore_unitKey (s : State) (c : Nat) (k : Core) : (setCore s c k).unitKey = s.unitKey := rfl
@[simp] theorem setCore_zeroLines (s : State) (c : Nat) (k : Core) : (setCore s c k).zeroLines = s.zeroLines := rfl
@[simp] theorem setCore_frames (s : State) (c : Nat) (k : Core) : (setCore s c k).frames = s.frames := rfl
@[simp] theorem setCore_routersDown (s : State) (c : Nat) (k : Core) : (setCore s c k).routersDown = s.routersDown := rfl
@[simp] theorem setCore_slicesDown (s : State) (c : Nat) (k : Core) : (setCore s c k).slicesDown = s.slicesDown := rfl
@[simp] theorem setCore_portsDown (s : State) (c : Nat) (k : Core) : (setCore s c k).portsDown = s.portsDown := rfl
@[simp] theorem setCore_linksDown (s : State) (c : Nat) (k : Core) : (setCore s c k).linksDown = s.linksDown := rfl
@[simp] theorem setCore_linkUp (s : State) (c : Nat) (k : Core) : (setCore s c k).linkUp = s.linkUp := rfl
@[simp] theorem setCore_ptpOffset (s : State) (c : Nat) (k : Core) : (setCore s c k).ptpOffset = s.ptpOffset := rfl
@[simp] theorem setCore_ptpLock (s : State) (c : Nat) (k : Core) : (setCore s c k).ptpLock = s.ptpLock := rfl
@[simp] theorem setCore_fencedMask (s : State) (c : Nat) (k : Core) : (setCore s c k).fencedMask = s.fencedMask := rfl
@[simp] theorem setCore_scans (s : State) (c : Nat) (k : Core) : (setCore s c k).scans = s.scans := rfl
@[simp] theorem setCore_meas (s : State) (c : Nat) (k : Core) : (setCore s c k).meas = s.meas := rfl
@[simp] theorem setCore_staged (s : State) (c : Nat) (k : Core) : (setCore s c k).staged = s.staged := rfl
@[simp] theorem setCore_mgmtOut (s : State) (c : Nat) (k : Core) : (setCore s c k).mgmtOut = s.mgmtOut := rfl
@[simp] theorem setCore_seeds (s : State) (c : Nat) (k : Core) : (setCore s c k).seeds = s.seeds := rfl
@[simp] theorem setCore_certs (s : State) (c : Nat) (k : Core) : (setCore s c k).certs = s.certs := rfl
@[simp] theorem setCore_routes (s : State) (c : Nat) (k : Core) : (setCore s c k).routes = s.routes := rfl
@[simp] theorem setCore_inbound (s : State) (c : Nat) (k : Core) : (setCore s c k).inbound = s.inbound := rfl
@[simp] theorem setCore_arrivals (s : State) (c : Nat) (k : Core) : (setCore s c k).arrivals = s.arrivals := rfl
@[simp] theorem setCore_sent (s : State) (c : Nat) (k : Core) : (setCore s c k).sent = s.sent := rfl
@[simp] theorem setCore_tdpHeld (s : State) (c : Nat) (k : Core) : (setCore s c k).tdpHeld = s.tdpHeld := rfl
@[simp] theorem setCore_agenda (s : State) (c : Nat) (k : Core) : (setCore s c k).agenda = s.agenda := rfl
@[simp] theorem setCore_writer (s : State) (c : Nat) (k : Core) : (setCore s c k).writer = s.writer := rfl
@[simp] theorem setCore_cur (s : State) (c : Nat) (k : Core) : (setCore s c k).cur = s.cur := rfl
@[simp] theorem setCore_freeCtr (s : State) (c : Nat) (k : Core) : (setCore s c k).freeCtr = s.freeCtr := rfl
@[simp] theorem setCore_stamp (s : State) (c : Nat) (k : Core) : (setCore s c k).stamp = s.stamp := rfl
@[simp] theorem setCore_moment (s : State) (c : Nat) (k : Core) : (setCore s c k).moment = s.moment := rfl
@[simp] theorem setCore_cores (s : State) (c : Nat) (k : Core) : (setCore s c k).cores = fput s.cores c k := rfl
@[simp] theorem modCore_booted (s : State) (c : Nat) (f : Core → Core) : (modCore s c f).booted = s.booted := rfl
@[simp] theorem modCore_configSeq (s : State) (c : Nat) (f : Core → Core) : (modCore s c f).configSeq = s.configSeq := rfl
@[simp] theorem modCore_operatorKey (s : State) (c : Nat) (f : Core → Core) : (modCore s c f).operatorKey = s.operatorKey := rfl
@[simp] theorem modCore_octHeld (s : State) (c : Nat) (f : Core → Core) : (modCore s c f).octHeld = s.octHeld := rfl
@[simp] theorem modCore_parts (s : State) (c : Nat) (f : Core → Core) : (modCore s c f).parts = s.parts := rfl
@[simp] theorem modCore_launches (s : State) (c : Nat) (f : Core → Core) : (modCore s c f).launches = s.launches := rfl
@[simp] theorem modCore_nextLaunch (s : State) (c : Nat) (f : Core → Core) : (modCore s c f).nextLaunch = s.nextLaunch := rfl
@[simp] theorem modCore_mem (s : State) (c : Nat) (f : Core → Core) : (modCore s c f).mem = s.mem := rfl
@[simp] theorem modCore_sides (s : State) (c : Nat) (f : Core → Core) : (modCore s c f).sides = s.sides := rfl
@[simp] theorem modCore_sidePoison (s : State) (c : Nat) (f : Core → Core) : (modCore s c f).sidePoison = s.sidePoison := rfl
@[simp] theorem modCore_poison (s : State) (c : Nat) (f : Core → Core) : (modCore s c f).poison = s.poison := rfl
@[simp] theorem modCore_unitKey (s : State) (c : Nat) (f : Core → Core) : (modCore s c f).unitKey = s.unitKey := rfl
@[simp] theorem modCore_zeroLines (s : State) (c : Nat) (f : Core → Core) : (modCore s c f).zeroLines = s.zeroLines := rfl
@[simp] theorem modCore_frames (s : State) (c : Nat) (f : Core → Core) : (modCore s c f).frames = s.frames := rfl
@[simp] theorem modCore_routersDown (s : State) (c : Nat) (f : Core → Core) : (modCore s c f).routersDown = s.routersDown := rfl
@[simp] theorem modCore_slicesDown (s : State) (c : Nat) (f : Core → Core) : (modCore s c f).slicesDown = s.slicesDown := rfl
@[simp] theorem modCore_portsDown (s : State) (c : Nat) (f : Core → Core) : (modCore s c f).portsDown = s.portsDown := rfl
@[simp] theorem modCore_linksDown (s : State) (c : Nat) (f : Core → Core) : (modCore s c f).linksDown = s.linksDown := rfl
@[simp] theorem modCore_linkUp (s : State) (c : Nat) (f : Core → Core) : (modCore s c f).linkUp = s.linkUp := rfl
@[simp] theorem modCore_ptpOffset (s : State) (c : Nat) (f : Core → Core) : (modCore s c f).ptpOffset = s.ptpOffset := rfl
@[simp] theorem modCore_ptpLock (s : State) (c : Nat) (f : Core → Core) : (modCore s c f).ptpLock = s.ptpLock := rfl
@[simp] theorem modCore_fencedMask (s : State) (c : Nat) (f : Core → Core) : (modCore s c f).fencedMask = s.fencedMask := rfl
@[simp] theorem modCore_scans (s : State) (c : Nat) (f : Core → Core) : (modCore s c f).scans = s.scans := rfl
@[simp] theorem modCore_meas (s : State) (c : Nat) (f : Core → Core) : (modCore s c f).meas = s.meas := rfl
@[simp] theorem modCore_staged (s : State) (c : Nat) (f : Core → Core) : (modCore s c f).staged = s.staged := rfl
@[simp] theorem modCore_mgmtOut (s : State) (c : Nat) (f : Core → Core) : (modCore s c f).mgmtOut = s.mgmtOut := rfl
@[simp] theorem modCore_seeds (s : State) (c : Nat) (f : Core → Core) : (modCore s c f).seeds = s.seeds := rfl
@[simp] theorem modCore_certs (s : State) (c : Nat) (f : Core → Core) : (modCore s c f).certs = s.certs := rfl
@[simp] theorem modCore_routes (s : State) (c : Nat) (f : Core → Core) : (modCore s c f).routes = s.routes := rfl
@[simp] theorem modCore_inbound (s : State) (c : Nat) (f : Core → Core) : (modCore s c f).inbound = s.inbound := rfl
@[simp] theorem modCore_arrivals (s : State) (c : Nat) (f : Core → Core) : (modCore s c f).arrivals = s.arrivals := rfl
@[simp] theorem modCore_sent (s : State) (c : Nat) (f : Core → Core) : (modCore s c f).sent = s.sent := rfl
@[simp] theorem modCore_tdpHeld (s : State) (c : Nat) (f : Core → Core) : (modCore s c f).tdpHeld = s.tdpHeld := rfl
@[simp] theorem modCore_agenda (s : State) (c : Nat) (f : Core → Core) : (modCore s c f).agenda = s.agenda := rfl
@[simp] theorem modCore_writer (s : State) (c : Nat) (f : Core → Core) : (modCore s c f).writer = s.writer := rfl
@[simp] theorem modCore_cur (s : State) (c : Nat) (f : Core → Core) : (modCore s c f).cur = s.cur := rfl
@[simp] theorem modCore_freeCtr (s : State) (c : Nat) (f : Core → Core) : (modCore s c f).freeCtr = s.freeCtr := rfl
@[simp] theorem modCore_stamp (s : State) (c : Nat) (f : Core → Core) : (modCore s c f).stamp = s.stamp := rfl
@[simp] theorem modCore_moment (s : State) (c : Nat) (f : Core → Core) : (modCore s c f).moment = s.moment := rfl
@[simp] theorem modCore_cores (s : State) (c : Nat) (f : Core → Core) : (modCore s c f).cores = fput s.cores c (f (coreOf s c)) := rfl
@[simp] theorem setWarp_booted (s : State) (c w : Nat) (v : Warp) : (setWarp s c w v).booted = s.booted := rfl
@[simp] theorem setWarp_configSeq (s : State) (c w : Nat) (v : Warp) : (setWarp s c w v).configSeq = s.configSeq := rfl
@[simp] theorem setWarp_operatorKey (s : State) (c w : Nat) (v : Warp) : (setWarp s c w v).operatorKey = s.operatorKey := rfl
@[simp] theorem setWarp_octHeld (s : State) (c w : Nat) (v : Warp) : (setWarp s c w v).octHeld = s.octHeld := rfl
@[simp] theorem setWarp_parts (s : State) (c w : Nat) (v : Warp) : (setWarp s c w v).parts = s.parts := rfl
@[simp] theorem setWarp_launches (s : State) (c w : Nat) (v : Warp) : (setWarp s c w v).launches = s.launches := rfl
@[simp] theorem setWarp_nextLaunch (s : State) (c w : Nat) (v : Warp) : (setWarp s c w v).nextLaunch = s.nextLaunch := rfl
@[simp] theorem setWarp_mem (s : State) (c w : Nat) (v : Warp) : (setWarp s c w v).mem = s.mem := rfl
@[simp] theorem setWarp_sides (s : State) (c w : Nat) (v : Warp) : (setWarp s c w v).sides = s.sides := rfl
@[simp] theorem setWarp_sidePoison (s : State) (c w : Nat) (v : Warp) : (setWarp s c w v).sidePoison = s.sidePoison := rfl
@[simp] theorem setWarp_poison (s : State) (c w : Nat) (v : Warp) : (setWarp s c w v).poison = s.poison := rfl
@[simp] theorem setWarp_unitKey (s : State) (c w : Nat) (v : Warp) : (setWarp s c w v).unitKey = s.unitKey := rfl
@[simp] theorem setWarp_zeroLines (s : State) (c w : Nat) (v : Warp) : (setWarp s c w v).zeroLines = s.zeroLines := rfl
@[simp] theorem setWarp_frames (s : State) (c w : Nat) (v : Warp) : (setWarp s c w v).frames = s.frames := rfl
@[simp] theorem setWarp_routersDown (s : State) (c w : Nat) (v : Warp) : (setWarp s c w v).routersDown = s.routersDown := rfl
@[simp] theorem setWarp_slicesDown (s : State) (c w : Nat) (v : Warp) : (setWarp s c w v).slicesDown = s.slicesDown := rfl
@[simp] theorem setWarp_portsDown (s : State) (c w : Nat) (v : Warp) : (setWarp s c w v).portsDown = s.portsDown := rfl
@[simp] theorem setWarp_linksDown (s : State) (c w : Nat) (v : Warp) : (setWarp s c w v).linksDown = s.linksDown := rfl
@[simp] theorem setWarp_linkUp (s : State) (c w : Nat) (v : Warp) : (setWarp s c w v).linkUp = s.linkUp := rfl
@[simp] theorem setWarp_ptpOffset (s : State) (c w : Nat) (v : Warp) : (setWarp s c w v).ptpOffset = s.ptpOffset := rfl
@[simp] theorem setWarp_ptpLock (s : State) (c w : Nat) (v : Warp) : (setWarp s c w v).ptpLock = s.ptpLock := rfl
@[simp] theorem setWarp_fencedMask (s : State) (c w : Nat) (v : Warp) : (setWarp s c w v).fencedMask = s.fencedMask := rfl
@[simp] theorem setWarp_scans (s : State) (c w : Nat) (v : Warp) : (setWarp s c w v).scans = s.scans := rfl
@[simp] theorem setWarp_meas (s : State) (c w : Nat) (v : Warp) : (setWarp s c w v).meas = s.meas := rfl
@[simp] theorem setWarp_staged (s : State) (c w : Nat) (v : Warp) : (setWarp s c w v).staged = s.staged := rfl
@[simp] theorem setWarp_mgmtOut (s : State) (c w : Nat) (v : Warp) : (setWarp s c w v).mgmtOut = s.mgmtOut := rfl
@[simp] theorem setWarp_seeds (s : State) (c w : Nat) (v : Warp) : (setWarp s c w v).seeds = s.seeds := rfl
@[simp] theorem setWarp_certs (s : State) (c w : Nat) (v : Warp) : (setWarp s c w v).certs = s.certs := rfl
@[simp] theorem setWarp_routes (s : State) (c w : Nat) (v : Warp) : (setWarp s c w v).routes = s.routes := rfl
@[simp] theorem setWarp_inbound (s : State) (c w : Nat) (v : Warp) : (setWarp s c w v).inbound = s.inbound := rfl
@[simp] theorem setWarp_arrivals (s : State) (c w : Nat) (v : Warp) : (setWarp s c w v).arrivals = s.arrivals := rfl
@[simp] theorem setWarp_sent (s : State) (c w : Nat) (v : Warp) : (setWarp s c w v).sent = s.sent := rfl
@[simp] theorem setWarp_tdpHeld (s : State) (c w : Nat) (v : Warp) : (setWarp s c w v).tdpHeld = s.tdpHeld := rfl
@[simp] theorem setWarp_agenda (s : State) (c w : Nat) (v : Warp) : (setWarp s c w v).agenda = s.agenda := rfl
@[simp] theorem setWarp_writer (s : State) (c w : Nat) (v : Warp) : (setWarp s c w v).writer = s.writer := rfl
@[simp] theorem setWarp_cur (s : State) (c w : Nat) (v : Warp) : (setWarp s c w v).cur = s.cur := rfl
@[simp] theorem setWarp_freeCtr (s : State) (c w : Nat) (v : Warp) : (setWarp s c w v).freeCtr = s.freeCtr := rfl
@[simp] theorem setWarp_stamp (s : State) (c w : Nat) (v : Warp) : (setWarp s c w v).stamp = s.stamp := rfl
@[simp] theorem setWarp_moment (s : State) (c w : Nat) (v : Warp) : (setWarp s c w v).moment = s.moment := rfl
@[simp] theorem setWarp_cores (s : State) (c w : Nat) (v : Warp) : (setWarp s c w v).cores =
    fput s.cores c { coreOf s c with warps := fput (coreOf s c).warps w v } := rfl
@[simp] theorem modWarp_booted (s : State) (c w : Nat) (f : Warp → Warp) : (modWarp s c w f).booted = s.booted := by unfold modWarp; split <;> rfl
@[simp] theorem modWarp_configSeq (s : State) (c w : Nat) (f : Warp → Warp) : (modWarp s c w f).configSeq = s.configSeq := by unfold modWarp; split <;> rfl
@[simp] theorem modWarp_operatorKey (s : State) (c w : Nat) (f : Warp → Warp) : (modWarp s c w f).operatorKey = s.operatorKey := by unfold modWarp; split <;> rfl
@[simp] theorem modWarp_octHeld (s : State) (c w : Nat) (f : Warp → Warp) : (modWarp s c w f).octHeld = s.octHeld := by unfold modWarp; split <;> rfl
@[simp] theorem modWarp_parts (s : State) (c w : Nat) (f : Warp → Warp) : (modWarp s c w f).parts = s.parts := by unfold modWarp; split <;> rfl
@[simp] theorem modWarp_launches (s : State) (c w : Nat) (f : Warp → Warp) : (modWarp s c w f).launches = s.launches := by unfold modWarp; split <;> rfl
@[simp] theorem modWarp_nextLaunch (s : State) (c w : Nat) (f : Warp → Warp) : (modWarp s c w f).nextLaunch = s.nextLaunch := by unfold modWarp; split <;> rfl
@[simp] theorem modWarp_mem (s : State) (c w : Nat) (f : Warp → Warp) : (modWarp s c w f).mem = s.mem := by unfold modWarp; split <;> rfl
@[simp] theorem modWarp_sides (s : State) (c w : Nat) (f : Warp → Warp) : (modWarp s c w f).sides = s.sides := by unfold modWarp; split <;> rfl
@[simp] theorem modWarp_sidePoison (s : State) (c w : Nat) (f : Warp → Warp) : (modWarp s c w f).sidePoison = s.sidePoison := by unfold modWarp; split <;> rfl
@[simp] theorem modWarp_poison (s : State) (c w : Nat) (f : Warp → Warp) : (modWarp s c w f).poison = s.poison := by unfold modWarp; split <;> rfl
@[simp] theorem modWarp_unitKey (s : State) (c w : Nat) (f : Warp → Warp) : (modWarp s c w f).unitKey = s.unitKey := by unfold modWarp; split <;> rfl
@[simp] theorem modWarp_zeroLines (s : State) (c w : Nat) (f : Warp → Warp) : (modWarp s c w f).zeroLines = s.zeroLines := by unfold modWarp; split <;> rfl
@[simp] theorem modWarp_frames (s : State) (c w : Nat) (f : Warp → Warp) : (modWarp s c w f).frames = s.frames := by unfold modWarp; split <;> rfl
@[simp] theorem modWarp_routersDown (s : State) (c w : Nat) (f : Warp → Warp) : (modWarp s c w f).routersDown = s.routersDown := by unfold modWarp; split <;> rfl
@[simp] theorem modWarp_slicesDown (s : State) (c w : Nat) (f : Warp → Warp) : (modWarp s c w f).slicesDown = s.slicesDown := by unfold modWarp; split <;> rfl
@[simp] theorem modWarp_portsDown (s : State) (c w : Nat) (f : Warp → Warp) : (modWarp s c w f).portsDown = s.portsDown := by unfold modWarp; split <;> rfl
@[simp] theorem modWarp_linksDown (s : State) (c w : Nat) (f : Warp → Warp) : (modWarp s c w f).linksDown = s.linksDown := by unfold modWarp; split <;> rfl
@[simp] theorem modWarp_linkUp (s : State) (c w : Nat) (f : Warp → Warp) : (modWarp s c w f).linkUp = s.linkUp := by unfold modWarp; split <;> rfl
@[simp] theorem modWarp_ptpOffset (s : State) (c w : Nat) (f : Warp → Warp) : (modWarp s c w f).ptpOffset = s.ptpOffset := by unfold modWarp; split <;> rfl
@[simp] theorem modWarp_ptpLock (s : State) (c w : Nat) (f : Warp → Warp) : (modWarp s c w f).ptpLock = s.ptpLock := by unfold modWarp; split <;> rfl
@[simp] theorem modWarp_fencedMask (s : State) (c w : Nat) (f : Warp → Warp) : (modWarp s c w f).fencedMask = s.fencedMask := by unfold modWarp; split <;> rfl
@[simp] theorem modWarp_scans (s : State) (c w : Nat) (f : Warp → Warp) : (modWarp s c w f).scans = s.scans := by unfold modWarp; split <;> rfl
@[simp] theorem modWarp_meas (s : State) (c w : Nat) (f : Warp → Warp) : (modWarp s c w f).meas = s.meas := by unfold modWarp; split <;> rfl
@[simp] theorem modWarp_staged (s : State) (c w : Nat) (f : Warp → Warp) : (modWarp s c w f).staged = s.staged := by unfold modWarp; split <;> rfl
@[simp] theorem modWarp_mgmtOut (s : State) (c w : Nat) (f : Warp → Warp) : (modWarp s c w f).mgmtOut = s.mgmtOut := by unfold modWarp; split <;> rfl
@[simp] theorem modWarp_seeds (s : State) (c w : Nat) (f : Warp → Warp) : (modWarp s c w f).seeds = s.seeds := by unfold modWarp; split <;> rfl
@[simp] theorem modWarp_certs (s : State) (c w : Nat) (f : Warp → Warp) : (modWarp s c w f).certs = s.certs := by unfold modWarp; split <;> rfl
@[simp] theorem modWarp_routes (s : State) (c w : Nat) (f : Warp → Warp) : (modWarp s c w f).routes = s.routes := by unfold modWarp; split <;> rfl
@[simp] theorem modWarp_inbound (s : State) (c w : Nat) (f : Warp → Warp) : (modWarp s c w f).inbound = s.inbound := by unfold modWarp; split <;> rfl
@[simp] theorem modWarp_arrivals (s : State) (c w : Nat) (f : Warp → Warp) : (modWarp s c w f).arrivals = s.arrivals := by unfold modWarp; split <;> rfl
@[simp] theorem modWarp_sent (s : State) (c w : Nat) (f : Warp → Warp) : (modWarp s c w f).sent = s.sent := by unfold modWarp; split <;> rfl
@[simp] theorem modWarp_tdpHeld (s : State) (c w : Nat) (f : Warp → Warp) : (modWarp s c w f).tdpHeld = s.tdpHeld := by unfold modWarp; split <;> rfl
@[simp] theorem modWarp_agenda (s : State) (c w : Nat) (f : Warp → Warp) : (modWarp s c w f).agenda = s.agenda := by unfold modWarp; split <;> rfl
@[simp] theorem modWarp_writer (s : State) (c w : Nat) (f : Warp → Warp) : (modWarp s c w f).writer = s.writer := by unfold modWarp; split <;> rfl
@[simp] theorem modWarp_cur (s : State) (c w : Nat) (f : Warp → Warp) : (modWarp s c w f).cur = s.cur := by unfold modWarp; split <;> rfl
@[simp] theorem modWarp_freeCtr (s : State) (c w : Nat) (f : Warp → Warp) : (modWarp s c w f).freeCtr = s.freeCtr := by unfold modWarp; split <;> rfl
@[simp] theorem modWarp_stamp (s : State) (c w : Nat) (f : Warp → Warp) : (modWarp s c w f).stamp = s.stamp := by unfold modWarp; split <;> rfl
@[simp] theorem modWarp_moment (s : State) (c w : Nat) (f : Warp → Warp) : (modWarp s c w f).moment = s.moment := by unfold modWarp; split <;> rfl
@[simp] theorem setCl_booted (s : State) (c l : Nat) (v : CoreLaunch) : (setCl s c l v).booted = s.booted := rfl
@[simp] theorem setCl_configSeq (s : State) (c l : Nat) (v : CoreLaunch) : (setCl s c l v).configSeq = s.configSeq := rfl
@[simp] theorem setCl_operatorKey (s : State) (c l : Nat) (v : CoreLaunch) : (setCl s c l v).operatorKey = s.operatorKey := rfl
@[simp] theorem setCl_octHeld (s : State) (c l : Nat) (v : CoreLaunch) : (setCl s c l v).octHeld = s.octHeld := rfl
@[simp] theorem setCl_parts (s : State) (c l : Nat) (v : CoreLaunch) : (setCl s c l v).parts = s.parts := rfl
@[simp] theorem setCl_launches (s : State) (c l : Nat) (v : CoreLaunch) : (setCl s c l v).launches = s.launches := rfl
@[simp] theorem setCl_nextLaunch (s : State) (c l : Nat) (v : CoreLaunch) : (setCl s c l v).nextLaunch = s.nextLaunch := rfl
@[simp] theorem setCl_mem (s : State) (c l : Nat) (v : CoreLaunch) : (setCl s c l v).mem = s.mem := rfl
@[simp] theorem setCl_sides (s : State) (c l : Nat) (v : CoreLaunch) : (setCl s c l v).sides = s.sides := rfl
@[simp] theorem setCl_sidePoison (s : State) (c l : Nat) (v : CoreLaunch) : (setCl s c l v).sidePoison = s.sidePoison := rfl
@[simp] theorem setCl_poison (s : State) (c l : Nat) (v : CoreLaunch) : (setCl s c l v).poison = s.poison := rfl
@[simp] theorem setCl_unitKey (s : State) (c l : Nat) (v : CoreLaunch) : (setCl s c l v).unitKey = s.unitKey := rfl
@[simp] theorem setCl_zeroLines (s : State) (c l : Nat) (v : CoreLaunch) : (setCl s c l v).zeroLines = s.zeroLines := rfl
@[simp] theorem setCl_frames (s : State) (c l : Nat) (v : CoreLaunch) : (setCl s c l v).frames = s.frames := rfl
@[simp] theorem setCl_routersDown (s : State) (c l : Nat) (v : CoreLaunch) : (setCl s c l v).routersDown = s.routersDown := rfl
@[simp] theorem setCl_slicesDown (s : State) (c l : Nat) (v : CoreLaunch) : (setCl s c l v).slicesDown = s.slicesDown := rfl
@[simp] theorem setCl_portsDown (s : State) (c l : Nat) (v : CoreLaunch) : (setCl s c l v).portsDown = s.portsDown := rfl
@[simp] theorem setCl_linksDown (s : State) (c l : Nat) (v : CoreLaunch) : (setCl s c l v).linksDown = s.linksDown := rfl
@[simp] theorem setCl_linkUp (s : State) (c l : Nat) (v : CoreLaunch) : (setCl s c l v).linkUp = s.linkUp := rfl
@[simp] theorem setCl_ptpOffset (s : State) (c l : Nat) (v : CoreLaunch) : (setCl s c l v).ptpOffset = s.ptpOffset := rfl
@[simp] theorem setCl_ptpLock (s : State) (c l : Nat) (v : CoreLaunch) : (setCl s c l v).ptpLock = s.ptpLock := rfl
@[simp] theorem setCl_fencedMask (s : State) (c l : Nat) (v : CoreLaunch) : (setCl s c l v).fencedMask = s.fencedMask := rfl
@[simp] theorem setCl_scans (s : State) (c l : Nat) (v : CoreLaunch) : (setCl s c l v).scans = s.scans := rfl
@[simp] theorem setCl_meas (s : State) (c l : Nat) (v : CoreLaunch) : (setCl s c l v).meas = s.meas := rfl
@[simp] theorem setCl_staged (s : State) (c l : Nat) (v : CoreLaunch) : (setCl s c l v).staged = s.staged := rfl
@[simp] theorem setCl_mgmtOut (s : State) (c l : Nat) (v : CoreLaunch) : (setCl s c l v).mgmtOut = s.mgmtOut := rfl
@[simp] theorem setCl_seeds (s : State) (c l : Nat) (v : CoreLaunch) : (setCl s c l v).seeds = s.seeds := rfl
@[simp] theorem setCl_certs (s : State) (c l : Nat) (v : CoreLaunch) : (setCl s c l v).certs = s.certs := rfl
@[simp] theorem setCl_routes (s : State) (c l : Nat) (v : CoreLaunch) : (setCl s c l v).routes = s.routes := rfl
@[simp] theorem setCl_inbound (s : State) (c l : Nat) (v : CoreLaunch) : (setCl s c l v).inbound = s.inbound := rfl
@[simp] theorem setCl_arrivals (s : State) (c l : Nat) (v : CoreLaunch) : (setCl s c l v).arrivals = s.arrivals := rfl
@[simp] theorem setCl_sent (s : State) (c l : Nat) (v : CoreLaunch) : (setCl s c l v).sent = s.sent := rfl
@[simp] theorem setCl_tdpHeld (s : State) (c l : Nat) (v : CoreLaunch) : (setCl s c l v).tdpHeld = s.tdpHeld := rfl
@[simp] theorem setCl_agenda (s : State) (c l : Nat) (v : CoreLaunch) : (setCl s c l v).agenda = s.agenda := rfl
@[simp] theorem setCl_writer (s : State) (c l : Nat) (v : CoreLaunch) : (setCl s c l v).writer = s.writer := rfl
@[simp] theorem setCl_cur (s : State) (c l : Nat) (v : CoreLaunch) : (setCl s c l v).cur = s.cur := rfl
@[simp] theorem setCl_freeCtr (s : State) (c l : Nat) (v : CoreLaunch) : (setCl s c l v).freeCtr = s.freeCtr := rfl
@[simp] theorem setCl_stamp (s : State) (c l : Nat) (v : CoreLaunch) : (setCl s c l v).stamp = s.stamp := rfl
@[simp] theorem setCl_moment (s : State) (c l : Nat) (v : CoreLaunch) : (setCl s c l v).moment = s.moment := rfl
@[simp] theorem setCl_cores (s : State) (c l : Nat) (v : CoreLaunch) : (setCl s c l v).cores =
    fput s.cores c { coreOf s c with launches := fput (coreOf s c).launches l v } := rfl
@[simp] theorem modCl_booted (s : State) (c l : Nat) (f : CoreLaunch → CoreLaunch) : (modCl s c l f).booted = s.booted := rfl
@[simp] theorem modCl_configSeq (s : State) (c l : Nat) (f : CoreLaunch → CoreLaunch) : (modCl s c l f).configSeq = s.configSeq := rfl
@[simp] theorem modCl_operatorKey (s : State) (c l : Nat) (f : CoreLaunch → CoreLaunch) : (modCl s c l f).operatorKey = s.operatorKey := rfl
@[simp] theorem modCl_octHeld (s : State) (c l : Nat) (f : CoreLaunch → CoreLaunch) : (modCl s c l f).octHeld = s.octHeld := rfl
@[simp] theorem modCl_parts (s : State) (c l : Nat) (f : CoreLaunch → CoreLaunch) : (modCl s c l f).parts = s.parts := rfl
@[simp] theorem modCl_launches (s : State) (c l : Nat) (f : CoreLaunch → CoreLaunch) : (modCl s c l f).launches = s.launches := rfl
@[simp] theorem modCl_nextLaunch (s : State) (c l : Nat) (f : CoreLaunch → CoreLaunch) : (modCl s c l f).nextLaunch = s.nextLaunch := rfl
@[simp] theorem modCl_mem (s : State) (c l : Nat) (f : CoreLaunch → CoreLaunch) : (modCl s c l f).mem = s.mem := rfl
@[simp] theorem modCl_sides (s : State) (c l : Nat) (f : CoreLaunch → CoreLaunch) : (modCl s c l f).sides = s.sides := rfl
@[simp] theorem modCl_sidePoison (s : State) (c l : Nat) (f : CoreLaunch → CoreLaunch) : (modCl s c l f).sidePoison = s.sidePoison := rfl
@[simp] theorem modCl_poison (s : State) (c l : Nat) (f : CoreLaunch → CoreLaunch) : (modCl s c l f).poison = s.poison := rfl
@[simp] theorem modCl_unitKey (s : State) (c l : Nat) (f : CoreLaunch → CoreLaunch) : (modCl s c l f).unitKey = s.unitKey := rfl
@[simp] theorem modCl_zeroLines (s : State) (c l : Nat) (f : CoreLaunch → CoreLaunch) : (modCl s c l f).zeroLines = s.zeroLines := rfl
@[simp] theorem modCl_frames (s : State) (c l : Nat) (f : CoreLaunch → CoreLaunch) : (modCl s c l f).frames = s.frames := rfl
@[simp] theorem modCl_routersDown (s : State) (c l : Nat) (f : CoreLaunch → CoreLaunch) : (modCl s c l f).routersDown = s.routersDown := rfl
@[simp] theorem modCl_slicesDown (s : State) (c l : Nat) (f : CoreLaunch → CoreLaunch) : (modCl s c l f).slicesDown = s.slicesDown := rfl
@[simp] theorem modCl_portsDown (s : State) (c l : Nat) (f : CoreLaunch → CoreLaunch) : (modCl s c l f).portsDown = s.portsDown := rfl
@[simp] theorem modCl_linksDown (s : State) (c l : Nat) (f : CoreLaunch → CoreLaunch) : (modCl s c l f).linksDown = s.linksDown := rfl
@[simp] theorem modCl_linkUp (s : State) (c l : Nat) (f : CoreLaunch → CoreLaunch) : (modCl s c l f).linkUp = s.linkUp := rfl
@[simp] theorem modCl_ptpOffset (s : State) (c l : Nat) (f : CoreLaunch → CoreLaunch) : (modCl s c l f).ptpOffset = s.ptpOffset := rfl
@[simp] theorem modCl_ptpLock (s : State) (c l : Nat) (f : CoreLaunch → CoreLaunch) : (modCl s c l f).ptpLock = s.ptpLock := rfl
@[simp] theorem modCl_fencedMask (s : State) (c l : Nat) (f : CoreLaunch → CoreLaunch) : (modCl s c l f).fencedMask = s.fencedMask := rfl
@[simp] theorem modCl_scans (s : State) (c l : Nat) (f : CoreLaunch → CoreLaunch) : (modCl s c l f).scans = s.scans := rfl
@[simp] theorem modCl_meas (s : State) (c l : Nat) (f : CoreLaunch → CoreLaunch) : (modCl s c l f).meas = s.meas := rfl
@[simp] theorem modCl_staged (s : State) (c l : Nat) (f : CoreLaunch → CoreLaunch) : (modCl s c l f).staged = s.staged := rfl
@[simp] theorem modCl_mgmtOut (s : State) (c l : Nat) (f : CoreLaunch → CoreLaunch) : (modCl s c l f).mgmtOut = s.mgmtOut := rfl
@[simp] theorem modCl_seeds (s : State) (c l : Nat) (f : CoreLaunch → CoreLaunch) : (modCl s c l f).seeds = s.seeds := rfl
@[simp] theorem modCl_certs (s : State) (c l : Nat) (f : CoreLaunch → CoreLaunch) : (modCl s c l f).certs = s.certs := rfl
@[simp] theorem modCl_routes (s : State) (c l : Nat) (f : CoreLaunch → CoreLaunch) : (modCl s c l f).routes = s.routes := rfl
@[simp] theorem modCl_inbound (s : State) (c l : Nat) (f : CoreLaunch → CoreLaunch) : (modCl s c l f).inbound = s.inbound := rfl
@[simp] theorem modCl_arrivals (s : State) (c l : Nat) (f : CoreLaunch → CoreLaunch) : (modCl s c l f).arrivals = s.arrivals := rfl
@[simp] theorem modCl_sent (s : State) (c l : Nat) (f : CoreLaunch → CoreLaunch) : (modCl s c l f).sent = s.sent := rfl
@[simp] theorem modCl_tdpHeld (s : State) (c l : Nat) (f : CoreLaunch → CoreLaunch) : (modCl s c l f).tdpHeld = s.tdpHeld := rfl
@[simp] theorem modCl_agenda (s : State) (c l : Nat) (f : CoreLaunch → CoreLaunch) : (modCl s c l f).agenda = s.agenda := rfl
@[simp] theorem modCl_writer (s : State) (c l : Nat) (f : CoreLaunch → CoreLaunch) : (modCl s c l f).writer = s.writer := rfl
@[simp] theorem modCl_cur (s : State) (c l : Nat) (f : CoreLaunch → CoreLaunch) : (modCl s c l f).cur = s.cur := rfl
@[simp] theorem modCl_freeCtr (s : State) (c l : Nat) (f : CoreLaunch → CoreLaunch) : (modCl s c l f).freeCtr = s.freeCtr := rfl
@[simp] theorem modCl_stamp (s : State) (c l : Nat) (f : CoreLaunch → CoreLaunch) : (modCl s c l f).stamp = s.stamp := rfl
@[simp] theorem modCl_moment (s : State) (c l : Nat) (f : CoreLaunch → CoreLaunch) : (modCl s c l f).moment = s.moment := rfl
@[simp] theorem modLaunch_booted (s : State) (l : Nat) (f : Launch → Launch) : (modLaunch s l f).booted = s.booted := by unfold modLaunch; split <;> rfl
@[simp] theorem modLaunch_configSeq (s : State) (l : Nat) (f : Launch → Launch) : (modLaunch s l f).configSeq = s.configSeq := by unfold modLaunch; split <;> rfl
@[simp] theorem modLaunch_operatorKey (s : State) (l : Nat) (f : Launch → Launch) : (modLaunch s l f).operatorKey = s.operatorKey := by unfold modLaunch; split <;> rfl
@[simp] theorem modLaunch_octHeld (s : State) (l : Nat) (f : Launch → Launch) : (modLaunch s l f).octHeld = s.octHeld := by unfold modLaunch; split <;> rfl
@[simp] theorem modLaunch_cores (s : State) (l : Nat) (f : Launch → Launch) : (modLaunch s l f).cores = s.cores := by unfold modLaunch; split <;> rfl
@[simp] theorem modLaunch_parts (s : State) (l : Nat) (f : Launch → Launch) : (modLaunch s l f).parts = s.parts := by unfold modLaunch; split <;> rfl
@[simp] theorem modLaunch_nextLaunch (s : State) (l : Nat) (f : Launch → Launch) : (modLaunch s l f).nextLaunch = s.nextLaunch := by unfold modLaunch; split <;> rfl
@[simp] theorem modLaunch_mem (s : State) (l : Nat) (f : Launch → Launch) : (modLaunch s l f).mem = s.mem := by unfold modLaunch; split <;> rfl
@[simp] theorem modLaunch_sides (s : State) (l : Nat) (f : Launch → Launch) : (modLaunch s l f).sides = s.sides := by unfold modLaunch; split <;> rfl
@[simp] theorem modLaunch_sidePoison (s : State) (l : Nat) (f : Launch → Launch) : (modLaunch s l f).sidePoison = s.sidePoison := by unfold modLaunch; split <;> rfl
@[simp] theorem modLaunch_poison (s : State) (l : Nat) (f : Launch → Launch) : (modLaunch s l f).poison = s.poison := by unfold modLaunch; split <;> rfl
@[simp] theorem modLaunch_unitKey (s : State) (l : Nat) (f : Launch → Launch) : (modLaunch s l f).unitKey = s.unitKey := by unfold modLaunch; split <;> rfl
@[simp] theorem modLaunch_zeroLines (s : State) (l : Nat) (f : Launch → Launch) : (modLaunch s l f).zeroLines = s.zeroLines := by unfold modLaunch; split <;> rfl
@[simp] theorem modLaunch_frames (s : State) (l : Nat) (f : Launch → Launch) : (modLaunch s l f).frames = s.frames := by unfold modLaunch; split <;> rfl
@[simp] theorem modLaunch_routersDown (s : State) (l : Nat) (f : Launch → Launch) : (modLaunch s l f).routersDown = s.routersDown := by unfold modLaunch; split <;> rfl
@[simp] theorem modLaunch_slicesDown (s : State) (l : Nat) (f : Launch → Launch) : (modLaunch s l f).slicesDown = s.slicesDown := by unfold modLaunch; split <;> rfl
@[simp] theorem modLaunch_portsDown (s : State) (l : Nat) (f : Launch → Launch) : (modLaunch s l f).portsDown = s.portsDown := by unfold modLaunch; split <;> rfl
@[simp] theorem modLaunch_linksDown (s : State) (l : Nat) (f : Launch → Launch) : (modLaunch s l f).linksDown = s.linksDown := by unfold modLaunch; split <;> rfl
@[simp] theorem modLaunch_linkUp (s : State) (l : Nat) (f : Launch → Launch) : (modLaunch s l f).linkUp = s.linkUp := by unfold modLaunch; split <;> rfl
@[simp] theorem modLaunch_ptpOffset (s : State) (l : Nat) (f : Launch → Launch) : (modLaunch s l f).ptpOffset = s.ptpOffset := by unfold modLaunch; split <;> rfl
@[simp] theorem modLaunch_ptpLock (s : State) (l : Nat) (f : Launch → Launch) : (modLaunch s l f).ptpLock = s.ptpLock := by unfold modLaunch; split <;> rfl
@[simp] theorem modLaunch_fencedMask (s : State) (l : Nat) (f : Launch → Launch) : (modLaunch s l f).fencedMask = s.fencedMask := by unfold modLaunch; split <;> rfl
@[simp] theorem modLaunch_scans (s : State) (l : Nat) (f : Launch → Launch) : (modLaunch s l f).scans = s.scans := by unfold modLaunch; split <;> rfl
@[simp] theorem modLaunch_meas (s : State) (l : Nat) (f : Launch → Launch) : (modLaunch s l f).meas = s.meas := by unfold modLaunch; split <;> rfl
@[simp] theorem modLaunch_staged (s : State) (l : Nat) (f : Launch → Launch) : (modLaunch s l f).staged = s.staged := by unfold modLaunch; split <;> rfl
@[simp] theorem modLaunch_mgmtOut (s : State) (l : Nat) (f : Launch → Launch) : (modLaunch s l f).mgmtOut = s.mgmtOut := by unfold modLaunch; split <;> rfl
@[simp] theorem modLaunch_seeds (s : State) (l : Nat) (f : Launch → Launch) : (modLaunch s l f).seeds = s.seeds := by unfold modLaunch; split <;> rfl
@[simp] theorem modLaunch_certs (s : State) (l : Nat) (f : Launch → Launch) : (modLaunch s l f).certs = s.certs := by unfold modLaunch; split <;> rfl
@[simp] theorem modLaunch_routes (s : State) (l : Nat) (f : Launch → Launch) : (modLaunch s l f).routes = s.routes := by unfold modLaunch; split <;> rfl
@[simp] theorem modLaunch_inbound (s : State) (l : Nat) (f : Launch → Launch) : (modLaunch s l f).inbound = s.inbound := by unfold modLaunch; split <;> rfl
@[simp] theorem modLaunch_arrivals (s : State) (l : Nat) (f : Launch → Launch) : (modLaunch s l f).arrivals = s.arrivals := by unfold modLaunch; split <;> rfl
@[simp] theorem modLaunch_sent (s : State) (l : Nat) (f : Launch → Launch) : (modLaunch s l f).sent = s.sent := by unfold modLaunch; split <;> rfl
@[simp] theorem modLaunch_tdpHeld (s : State) (l : Nat) (f : Launch → Launch) : (modLaunch s l f).tdpHeld = s.tdpHeld := by unfold modLaunch; split <;> rfl
@[simp] theorem modLaunch_agenda (s : State) (l : Nat) (f : Launch → Launch) : (modLaunch s l f).agenda = s.agenda := by unfold modLaunch; split <;> rfl
@[simp] theorem modLaunch_writer (s : State) (l : Nat) (f : Launch → Launch) : (modLaunch s l f).writer = s.writer := by unfold modLaunch; split <;> rfl
@[simp] theorem modLaunch_cur (s : State) (l : Nat) (f : Launch → Launch) : (modLaunch s l f).cur = s.cur := by unfold modLaunch; split <;> rfl
@[simp] theorem modLaunch_freeCtr (s : State) (l : Nat) (f : Launch → Launch) : (modLaunch s l f).freeCtr = s.freeCtr := by unfold modLaunch; split <;> rfl
@[simp] theorem modLaunch_stamp (s : State) (l : Nat) (f : Launch → Launch) : (modLaunch s l f).stamp = s.stamp := by unfold modLaunch; split <;> rfl
@[simp] theorem modLaunch_moment (s : State) (l : Nat) (f : Launch → Launch) : (modLaunch s l f).moment = s.moment := by unfold modLaunch; split <;> rfl
@[simp] theorem setPart_booted (s : State) (p : Nat) (v : Partition) : (setPart s p v).booted = s.booted := rfl
@[simp] theorem setPart_configSeq (s : State) (p : Nat) (v : Partition) : (setPart s p v).configSeq = s.configSeq := rfl
@[simp] theorem setPart_operatorKey (s : State) (p : Nat) (v : Partition) : (setPart s p v).operatorKey = s.operatorKey := rfl
@[simp] theorem setPart_octHeld (s : State) (p : Nat) (v : Partition) : (setPart s p v).octHeld = s.octHeld := rfl
@[simp] theorem setPart_cores (s : State) (p : Nat) (v : Partition) : (setPart s p v).cores = s.cores := rfl
@[simp] theorem setPart_launches (s : State) (p : Nat) (v : Partition) : (setPart s p v).launches = s.launches := rfl
@[simp] theorem setPart_nextLaunch (s : State) (p : Nat) (v : Partition) : (setPart s p v).nextLaunch = s.nextLaunch := rfl
@[simp] theorem setPart_mem (s : State) (p : Nat) (v : Partition) : (setPart s p v).mem = s.mem := rfl
@[simp] theorem setPart_sides (s : State) (p : Nat) (v : Partition) : (setPart s p v).sides = s.sides := rfl
@[simp] theorem setPart_sidePoison (s : State) (p : Nat) (v : Partition) : (setPart s p v).sidePoison = s.sidePoison := rfl
@[simp] theorem setPart_poison (s : State) (p : Nat) (v : Partition) : (setPart s p v).poison = s.poison := rfl
@[simp] theorem setPart_unitKey (s : State) (p : Nat) (v : Partition) : (setPart s p v).unitKey = s.unitKey := rfl
@[simp] theorem setPart_zeroLines (s : State) (p : Nat) (v : Partition) : (setPart s p v).zeroLines = s.zeroLines := rfl
@[simp] theorem setPart_frames (s : State) (p : Nat) (v : Partition) : (setPart s p v).frames = s.frames := rfl
@[simp] theorem setPart_routersDown (s : State) (p : Nat) (v : Partition) : (setPart s p v).routersDown = s.routersDown := rfl
@[simp] theorem setPart_slicesDown (s : State) (p : Nat) (v : Partition) : (setPart s p v).slicesDown = s.slicesDown := rfl
@[simp] theorem setPart_portsDown (s : State) (p : Nat) (v : Partition) : (setPart s p v).portsDown = s.portsDown := rfl
@[simp] theorem setPart_linksDown (s : State) (p : Nat) (v : Partition) : (setPart s p v).linksDown = s.linksDown := rfl
@[simp] theorem setPart_linkUp (s : State) (p : Nat) (v : Partition) : (setPart s p v).linkUp = s.linkUp := rfl
@[simp] theorem setPart_ptpOffset (s : State) (p : Nat) (v : Partition) : (setPart s p v).ptpOffset = s.ptpOffset := rfl
@[simp] theorem setPart_ptpLock (s : State) (p : Nat) (v : Partition) : (setPart s p v).ptpLock = s.ptpLock := rfl
@[simp] theorem setPart_fencedMask (s : State) (p : Nat) (v : Partition) : (setPart s p v).fencedMask = s.fencedMask := rfl
@[simp] theorem setPart_scans (s : State) (p : Nat) (v : Partition) : (setPart s p v).scans = s.scans := rfl
@[simp] theorem setPart_meas (s : State) (p : Nat) (v : Partition) : (setPart s p v).meas = s.meas := rfl
@[simp] theorem setPart_staged (s : State) (p : Nat) (v : Partition) : (setPart s p v).staged = s.staged := rfl
@[simp] theorem setPart_mgmtOut (s : State) (p : Nat) (v : Partition) : (setPart s p v).mgmtOut = s.mgmtOut := rfl
@[simp] theorem setPart_seeds (s : State) (p : Nat) (v : Partition) : (setPart s p v).seeds = s.seeds := rfl
@[simp] theorem setPart_certs (s : State) (p : Nat) (v : Partition) : (setPart s p v).certs = s.certs := rfl
@[simp] theorem setPart_routes (s : State) (p : Nat) (v : Partition) : (setPart s p v).routes = s.routes := rfl
@[simp] theorem setPart_inbound (s : State) (p : Nat) (v : Partition) : (setPart s p v).inbound = s.inbound := rfl
@[simp] theorem setPart_arrivals (s : State) (p : Nat) (v : Partition) : (setPart s p v).arrivals = s.arrivals := rfl
@[simp] theorem setPart_sent (s : State) (p : Nat) (v : Partition) : (setPart s p v).sent = s.sent := rfl
@[simp] theorem setPart_tdpHeld (s : State) (p : Nat) (v : Partition) : (setPart s p v).tdpHeld = s.tdpHeld := rfl
@[simp] theorem setPart_agenda (s : State) (p : Nat) (v : Partition) : (setPart s p v).agenda = s.agenda := rfl
@[simp] theorem setPart_writer (s : State) (p : Nat) (v : Partition) : (setPart s p v).writer = s.writer := rfl
@[simp] theorem setPart_cur (s : State) (p : Nat) (v : Partition) : (setPart s p v).cur = s.cur := rfl
@[simp] theorem setPart_freeCtr (s : State) (p : Nat) (v : Partition) : (setPart s p v).freeCtr = s.freeCtr := rfl
@[simp] theorem setPart_stamp (s : State) (p : Nat) (v : Partition) : (setPart s p v).stamp = s.stamp := rfl
@[simp] theorem setPart_moment (s : State) (p : Nat) (v : Partition) : (setPart s p v).moment = s.moment := rfl
@[simp] theorem setPart_parts (s : State) (p : Nat) (v : Partition) : (setPart s p v).parts = fput s.parts p v := rfl
@[simp] theorem modPart_booted (s : State) (p : Nat) (f : Partition → Partition) : (modPart s p f).booted = s.booted := rfl
@[simp] theorem modPart_configSeq (s : State) (p : Nat) (f : Partition → Partition) : (modPart s p f).configSeq = s.configSeq := rfl
@[simp] theorem modPart_operatorKey (s : State) (p : Nat) (f : Partition → Partition) : (modPart s p f).operatorKey = s.operatorKey := rfl
@[simp] theorem modPart_octHeld (s : State) (p : Nat) (f : Partition → Partition) : (modPart s p f).octHeld = s.octHeld := rfl
@[simp] theorem modPart_cores (s : State) (p : Nat) (f : Partition → Partition) : (modPart s p f).cores = s.cores := rfl
@[simp] theorem modPart_launches (s : State) (p : Nat) (f : Partition → Partition) : (modPart s p f).launches = s.launches := rfl
@[simp] theorem modPart_nextLaunch (s : State) (p : Nat) (f : Partition → Partition) : (modPart s p f).nextLaunch = s.nextLaunch := rfl
@[simp] theorem modPart_mem (s : State) (p : Nat) (f : Partition → Partition) : (modPart s p f).mem = s.mem := rfl
@[simp] theorem modPart_sides (s : State) (p : Nat) (f : Partition → Partition) : (modPart s p f).sides = s.sides := rfl
@[simp] theorem modPart_sidePoison (s : State) (p : Nat) (f : Partition → Partition) : (modPart s p f).sidePoison = s.sidePoison := rfl
@[simp] theorem modPart_poison (s : State) (p : Nat) (f : Partition → Partition) : (modPart s p f).poison = s.poison := rfl
@[simp] theorem modPart_unitKey (s : State) (p : Nat) (f : Partition → Partition) : (modPart s p f).unitKey = s.unitKey := rfl
@[simp] theorem modPart_zeroLines (s : State) (p : Nat) (f : Partition → Partition) : (modPart s p f).zeroLines = s.zeroLines := rfl
@[simp] theorem modPart_frames (s : State) (p : Nat) (f : Partition → Partition) : (modPart s p f).frames = s.frames := rfl
@[simp] theorem modPart_routersDown (s : State) (p : Nat) (f : Partition → Partition) : (modPart s p f).routersDown = s.routersDown := rfl
@[simp] theorem modPart_slicesDown (s : State) (p : Nat) (f : Partition → Partition) : (modPart s p f).slicesDown = s.slicesDown := rfl
@[simp] theorem modPart_portsDown (s : State) (p : Nat) (f : Partition → Partition) : (modPart s p f).portsDown = s.portsDown := rfl
@[simp] theorem modPart_linksDown (s : State) (p : Nat) (f : Partition → Partition) : (modPart s p f).linksDown = s.linksDown := rfl
@[simp] theorem modPart_linkUp (s : State) (p : Nat) (f : Partition → Partition) : (modPart s p f).linkUp = s.linkUp := rfl
@[simp] theorem modPart_ptpOffset (s : State) (p : Nat) (f : Partition → Partition) : (modPart s p f).ptpOffset = s.ptpOffset := rfl
@[simp] theorem modPart_ptpLock (s : State) (p : Nat) (f : Partition → Partition) : (modPart s p f).ptpLock = s.ptpLock := rfl
@[simp] theorem modPart_fencedMask (s : State) (p : Nat) (f : Partition → Partition) : (modPart s p f).fencedMask = s.fencedMask := rfl
@[simp] theorem modPart_scans (s : State) (p : Nat) (f : Partition → Partition) : (modPart s p f).scans = s.scans := rfl
@[simp] theorem modPart_meas (s : State) (p : Nat) (f : Partition → Partition) : (modPart s p f).meas = s.meas := rfl
@[simp] theorem modPart_staged (s : State) (p : Nat) (f : Partition → Partition) : (modPart s p f).staged = s.staged := rfl
@[simp] theorem modPart_mgmtOut (s : State) (p : Nat) (f : Partition → Partition) : (modPart s p f).mgmtOut = s.mgmtOut := rfl
@[simp] theorem modPart_seeds (s : State) (p : Nat) (f : Partition → Partition) : (modPart s p f).seeds = s.seeds := rfl
@[simp] theorem modPart_certs (s : State) (p : Nat) (f : Partition → Partition) : (modPart s p f).certs = s.certs := rfl
@[simp] theorem modPart_routes (s : State) (p : Nat) (f : Partition → Partition) : (modPart s p f).routes = s.routes := rfl
@[simp] theorem modPart_inbound (s : State) (p : Nat) (f : Partition → Partition) : (modPart s p f).inbound = s.inbound := rfl
@[simp] theorem modPart_arrivals (s : State) (p : Nat) (f : Partition → Partition) : (modPart s p f).arrivals = s.arrivals := rfl
@[simp] theorem modPart_sent (s : State) (p : Nat) (f : Partition → Partition) : (modPart s p f).sent = s.sent := rfl
@[simp] theorem modPart_tdpHeld (s : State) (p : Nat) (f : Partition → Partition) : (modPart s p f).tdpHeld = s.tdpHeld := rfl
@[simp] theorem modPart_agenda (s : State) (p : Nat) (f : Partition → Partition) : (modPart s p f).agenda = s.agenda := rfl
@[simp] theorem modPart_writer (s : State) (p : Nat) (f : Partition → Partition) : (modPart s p f).writer = s.writer := rfl
@[simp] theorem modPart_cur (s : State) (p : Nat) (f : Partition → Partition) : (modPart s p f).cur = s.cur := rfl
@[simp] theorem modPart_freeCtr (s : State) (p : Nat) (f : Partition → Partition) : (modPart s p f).freeCtr = s.freeCtr := rfl
@[simp] theorem modPart_stamp (s : State) (p : Nat) (f : Partition → Partition) : (modPart s p f).stamp = s.stamp := rfl
@[simp] theorem modPart_moment (s : State) (p : Nat) (f : Partition → Partition) : (modPart s p f).moment = s.moment := rfl
@[simp] theorem modPart_parts (s : State) (p : Nat) (f : Partition → Partition) : (modPart s p f).parts = fput s.parts p (f (partOf s p)) := rfl
@[simp] theorem modFrame_booted (s : State) (f : Nat) (g : FrameEntry → FrameEntry) : (modFrame s f g).booted = s.booted := rfl
@[simp] theorem modFrame_configSeq (s : State) (f : Nat) (g : FrameEntry → FrameEntry) : (modFrame s f g).configSeq = s.configSeq := rfl
@[simp] theorem modFrame_operatorKey (s : State) (f : Nat) (g : FrameEntry → FrameEntry) : (modFrame s f g).operatorKey = s.operatorKey := rfl
@[simp] theorem modFrame_octHeld (s : State) (f : Nat) (g : FrameEntry → FrameEntry) : (modFrame s f g).octHeld = s.octHeld := rfl
@[simp] theorem modFrame_cores (s : State) (f : Nat) (g : FrameEntry → FrameEntry) : (modFrame s f g).cores = s.cores := rfl
@[simp] theorem modFrame_parts (s : State) (f : Nat) (g : FrameEntry → FrameEntry) : (modFrame s f g).parts = s.parts := rfl
@[simp] theorem modFrame_launches (s : State) (f : Nat) (g : FrameEntry → FrameEntry) : (modFrame s f g).launches = s.launches := rfl
@[simp] theorem modFrame_nextLaunch (s : State) (f : Nat) (g : FrameEntry → FrameEntry) : (modFrame s f g).nextLaunch = s.nextLaunch := rfl
@[simp] theorem modFrame_mem (s : State) (f : Nat) (g : FrameEntry → FrameEntry) : (modFrame s f g).mem = s.mem := rfl
@[simp] theorem modFrame_sides (s : State) (f : Nat) (g : FrameEntry → FrameEntry) : (modFrame s f g).sides = s.sides := rfl
@[simp] theorem modFrame_sidePoison (s : State) (f : Nat) (g : FrameEntry → FrameEntry) : (modFrame s f g).sidePoison = s.sidePoison := rfl
@[simp] theorem modFrame_poison (s : State) (f : Nat) (g : FrameEntry → FrameEntry) : (modFrame s f g).poison = s.poison := rfl
@[simp] theorem modFrame_unitKey (s : State) (f : Nat) (g : FrameEntry → FrameEntry) : (modFrame s f g).unitKey = s.unitKey := rfl
@[simp] theorem modFrame_zeroLines (s : State) (f : Nat) (g : FrameEntry → FrameEntry) : (modFrame s f g).zeroLines = s.zeroLines := rfl
@[simp] theorem modFrame_routersDown (s : State) (f : Nat) (g : FrameEntry → FrameEntry) : (modFrame s f g).routersDown = s.routersDown := rfl
@[simp] theorem modFrame_slicesDown (s : State) (f : Nat) (g : FrameEntry → FrameEntry) : (modFrame s f g).slicesDown = s.slicesDown := rfl
@[simp] theorem modFrame_portsDown (s : State) (f : Nat) (g : FrameEntry → FrameEntry) : (modFrame s f g).portsDown = s.portsDown := rfl
@[simp] theorem modFrame_linksDown (s : State) (f : Nat) (g : FrameEntry → FrameEntry) : (modFrame s f g).linksDown = s.linksDown := rfl
@[simp] theorem modFrame_linkUp (s : State) (f : Nat) (g : FrameEntry → FrameEntry) : (modFrame s f g).linkUp = s.linkUp := rfl
@[simp] theorem modFrame_ptpOffset (s : State) (f : Nat) (g : FrameEntry → FrameEntry) : (modFrame s f g).ptpOffset = s.ptpOffset := rfl
@[simp] theorem modFrame_ptpLock (s : State) (f : Nat) (g : FrameEntry → FrameEntry) : (modFrame s f g).ptpLock = s.ptpLock := rfl
@[simp] theorem modFrame_fencedMask (s : State) (f : Nat) (g : FrameEntry → FrameEntry) : (modFrame s f g).fencedMask = s.fencedMask := rfl
@[simp] theorem modFrame_scans (s : State) (f : Nat) (g : FrameEntry → FrameEntry) : (modFrame s f g).scans = s.scans := rfl
@[simp] theorem modFrame_meas (s : State) (f : Nat) (g : FrameEntry → FrameEntry) : (modFrame s f g).meas = s.meas := rfl
@[simp] theorem modFrame_staged (s : State) (f : Nat) (g : FrameEntry → FrameEntry) : (modFrame s f g).staged = s.staged := rfl
@[simp] theorem modFrame_mgmtOut (s : State) (f : Nat) (g : FrameEntry → FrameEntry) : (modFrame s f g).mgmtOut = s.mgmtOut := rfl
@[simp] theorem modFrame_seeds (s : State) (f : Nat) (g : FrameEntry → FrameEntry) : (modFrame s f g).seeds = s.seeds := rfl
@[simp] theorem modFrame_certs (s : State) (f : Nat) (g : FrameEntry → FrameEntry) : (modFrame s f g).certs = s.certs := rfl
@[simp] theorem modFrame_routes (s : State) (f : Nat) (g : FrameEntry → FrameEntry) : (modFrame s f g).routes = s.routes := rfl
@[simp] theorem modFrame_inbound (s : State) (f : Nat) (g : FrameEntry → FrameEntry) : (modFrame s f g).inbound = s.inbound := rfl
@[simp] theorem modFrame_arrivals (s : State) (f : Nat) (g : FrameEntry → FrameEntry) : (modFrame s f g).arrivals = s.arrivals := rfl
@[simp] theorem modFrame_sent (s : State) (f : Nat) (g : FrameEntry → FrameEntry) : (modFrame s f g).sent = s.sent := rfl
@[simp] theorem modFrame_tdpHeld (s : State) (f : Nat) (g : FrameEntry → FrameEntry) : (modFrame s f g).tdpHeld = s.tdpHeld := rfl
@[simp] theorem modFrame_agenda (s : State) (f : Nat) (g : FrameEntry → FrameEntry) : (modFrame s f g).agenda = s.agenda := rfl
@[simp] theorem modFrame_writer (s : State) (f : Nat) (g : FrameEntry → FrameEntry) : (modFrame s f g).writer = s.writer := rfl
@[simp] theorem modFrame_cur (s : State) (f : Nat) (g : FrameEntry → FrameEntry) : (modFrame s f g).cur = s.cur := rfl
@[simp] theorem modFrame_freeCtr (s : State) (f : Nat) (g : FrameEntry → FrameEntry) : (modFrame s f g).freeCtr = s.freeCtr := rfl
@[simp] theorem modFrame_stamp (s : State) (f : Nat) (g : FrameEntry → FrameEntry) : (modFrame s f g).stamp = s.stamp := rfl
@[simp] theorem modFrame_moment (s : State) (f : Nat) (g : FrameEntry → FrameEntry) : (modFrame s f g).moment = s.moment := rfl
@[simp] theorem modFrame_frames (s : State) (f : Nat) (g : FrameEntry → FrameEntry) : (modFrame s f g).frames = fset s.frames f (g (frameOf s f)) frameReset := rfl
@[simp] theorem takeFree_booted (s : State) : (takeFree s).2.booted = s.booted := rfl
@[simp] theorem takeFree_configSeq (s : State) : (takeFree s).2.configSeq = s.configSeq := rfl
@[simp] theorem takeFree_operatorKey (s : State) : (takeFree s).2.operatorKey = s.operatorKey := rfl
@[simp] theorem takeFree_octHeld (s : State) : (takeFree s).2.octHeld = s.octHeld := rfl
@[simp] theorem takeFree_cores (s : State) : (takeFree s).2.cores = s.cores := rfl
@[simp] theorem takeFree_parts (s : State) : (takeFree s).2.parts = s.parts := rfl
@[simp] theorem takeFree_launches (s : State) : (takeFree s).2.launches = s.launches := rfl
@[simp] theorem takeFree_nextLaunch (s : State) : (takeFree s).2.nextLaunch = s.nextLaunch := rfl
@[simp] theorem takeFree_mem (s : State) : (takeFree s).2.mem = s.mem := rfl
@[simp] theorem takeFree_sides (s : State) : (takeFree s).2.sides = s.sides := rfl
@[simp] theorem takeFree_sidePoison (s : State) : (takeFree s).2.sidePoison = s.sidePoison := rfl
@[simp] theorem takeFree_poison (s : State) : (takeFree s).2.poison = s.poison := rfl
@[simp] theorem takeFree_unitKey (s : State) : (takeFree s).2.unitKey = s.unitKey := rfl
@[simp] theorem takeFree_zeroLines (s : State) : (takeFree s).2.zeroLines = s.zeroLines := rfl
@[simp] theorem takeFree_frames (s : State) : (takeFree s).2.frames = s.frames := rfl
@[simp] theorem takeFree_routersDown (s : State) : (takeFree s).2.routersDown = s.routersDown := rfl
@[simp] theorem takeFree_slicesDown (s : State) : (takeFree s).2.slicesDown = s.slicesDown := rfl
@[simp] theorem takeFree_portsDown (s : State) : (takeFree s).2.portsDown = s.portsDown := rfl
@[simp] theorem takeFree_linksDown (s : State) : (takeFree s).2.linksDown = s.linksDown := rfl
@[simp] theorem takeFree_linkUp (s : State) : (takeFree s).2.linkUp = s.linkUp := rfl
@[simp] theorem takeFree_ptpOffset (s : State) : (takeFree s).2.ptpOffset = s.ptpOffset := rfl
@[simp] theorem takeFree_ptpLock (s : State) : (takeFree s).2.ptpLock = s.ptpLock := rfl
@[simp] theorem takeFree_fencedMask (s : State) : (takeFree s).2.fencedMask = s.fencedMask := rfl
@[simp] theorem takeFree_scans (s : State) : (takeFree s).2.scans = s.scans := rfl
@[simp] theorem takeFree_meas (s : State) : (takeFree s).2.meas = s.meas := rfl
@[simp] theorem takeFree_staged (s : State) : (takeFree s).2.staged = s.staged := rfl
@[simp] theorem takeFree_mgmtOut (s : State) : (takeFree s).2.mgmtOut = s.mgmtOut := rfl
@[simp] theorem takeFree_seeds (s : State) : (takeFree s).2.seeds = s.seeds := rfl
@[simp] theorem takeFree_certs (s : State) : (takeFree s).2.certs = s.certs := rfl
@[simp] theorem takeFree_routes (s : State) : (takeFree s).2.routes = s.routes := rfl
@[simp] theorem takeFree_inbound (s : State) : (takeFree s).2.inbound = s.inbound := rfl
@[simp] theorem takeFree_arrivals (s : State) : (takeFree s).2.arrivals = s.arrivals := rfl
@[simp] theorem takeFree_sent (s : State) : (takeFree s).2.sent = s.sent := rfl
@[simp] theorem takeFree_tdpHeld (s : State) : (takeFree s).2.tdpHeld = s.tdpHeld := rfl
@[simp] theorem takeFree_agenda (s : State) : (takeFree s).2.agenda = s.agenda := rfl
@[simp] theorem takeFree_writer (s : State) : (takeFree s).2.writer = s.writer := rfl
@[simp] theorem takeFree_cur (s : State) : (takeFree s).2.cur = s.cur := rfl
@[simp] theorem takeFree_stamp (s : State) : (takeFree s).2.stamp = s.stamp := rfl
@[simp] theorem takeFree_moment (s : State) : (takeFree s).2.moment = s.moment := rfl
@[simp] theorem takeStamp_booted (s : State) : (takeStamp s).2.booted = s.booted := rfl
@[simp] theorem takeStamp_configSeq (s : State) : (takeStamp s).2.configSeq = s.configSeq := rfl
@[simp] theorem takeStamp_operatorKey (s : State) : (takeStamp s).2.operatorKey = s.operatorKey := rfl
@[simp] theorem takeStamp_octHeld (s : State) : (takeStamp s).2.octHeld = s.octHeld := rfl
@[simp] theorem takeStamp_cores (s : State) : (takeStamp s).2.cores = s.cores := rfl
@[simp] theorem takeStamp_parts (s : State) : (takeStamp s).2.parts = s.parts := rfl
@[simp] theorem takeStamp_launches (s : State) : (takeStamp s).2.launches = s.launches := rfl
@[simp] theorem takeStamp_nextLaunch (s : State) : (takeStamp s).2.nextLaunch = s.nextLaunch := rfl
@[simp] theorem takeStamp_mem (s : State) : (takeStamp s).2.mem = s.mem := rfl
@[simp] theorem takeStamp_sides (s : State) : (takeStamp s).2.sides = s.sides := rfl
@[simp] theorem takeStamp_sidePoison (s : State) : (takeStamp s).2.sidePoison = s.sidePoison := rfl
@[simp] theorem takeStamp_poison (s : State) : (takeStamp s).2.poison = s.poison := rfl
@[simp] theorem takeStamp_unitKey (s : State) : (takeStamp s).2.unitKey = s.unitKey := rfl
@[simp] theorem takeStamp_zeroLines (s : State) : (takeStamp s).2.zeroLines = s.zeroLines := rfl
@[simp] theorem takeStamp_frames (s : State) : (takeStamp s).2.frames = s.frames := rfl
@[simp] theorem takeStamp_routersDown (s : State) : (takeStamp s).2.routersDown = s.routersDown := rfl
@[simp] theorem takeStamp_slicesDown (s : State) : (takeStamp s).2.slicesDown = s.slicesDown := rfl
@[simp] theorem takeStamp_portsDown (s : State) : (takeStamp s).2.portsDown = s.portsDown := rfl
@[simp] theorem takeStamp_linksDown (s : State) : (takeStamp s).2.linksDown = s.linksDown := rfl
@[simp] theorem takeStamp_linkUp (s : State) : (takeStamp s).2.linkUp = s.linkUp := rfl
@[simp] theorem takeStamp_ptpOffset (s : State) : (takeStamp s).2.ptpOffset = s.ptpOffset := rfl
@[simp] theorem takeStamp_ptpLock (s : State) : (takeStamp s).2.ptpLock = s.ptpLock := rfl
@[simp] theorem takeStamp_fencedMask (s : State) : (takeStamp s).2.fencedMask = s.fencedMask := rfl
@[simp] theorem takeStamp_scans (s : State) : (takeStamp s).2.scans = s.scans := rfl
@[simp] theorem takeStamp_meas (s : State) : (takeStamp s).2.meas = s.meas := rfl
@[simp] theorem takeStamp_staged (s : State) : (takeStamp s).2.staged = s.staged := rfl
@[simp] theorem takeStamp_mgmtOut (s : State) : (takeStamp s).2.mgmtOut = s.mgmtOut := rfl
@[simp] theorem takeStamp_seeds (s : State) : (takeStamp s).2.seeds = s.seeds := rfl
@[simp] theorem takeStamp_certs (s : State) : (takeStamp s).2.certs = s.certs := rfl
@[simp] theorem takeStamp_routes (s : State) : (takeStamp s).2.routes = s.routes := rfl
@[simp] theorem takeStamp_inbound (s : State) : (takeStamp s).2.inbound = s.inbound := rfl
@[simp] theorem takeStamp_arrivals (s : State) : (takeStamp s).2.arrivals = s.arrivals := rfl
@[simp] theorem takeStamp_sent (s : State) : (takeStamp s).2.sent = s.sent := rfl
@[simp] theorem takeStamp_tdpHeld (s : State) : (takeStamp s).2.tdpHeld = s.tdpHeld := rfl
@[simp] theorem takeStamp_agenda (s : State) : (takeStamp s).2.agenda = s.agenda := rfl
@[simp] theorem takeStamp_writer (s : State) : (takeStamp s).2.writer = s.writer := rfl
@[simp] theorem takeStamp_cur (s : State) : (takeStamp s).2.cur = s.cur := rfl
@[simp] theorem takeStamp_freeCtr (s : State) : (takeStamp s).2.freeCtr = s.freeCtr := rfl
@[simp] theorem takeStamp_moment (s : State) : (takeStamp s).2.moment = s.moment := rfl
@[simp] theorem takeFree_fst (s : State) : (takeFree s).1 = s.freeCtr := rfl
@[simp] theorem takeFree_freeCtr (s : State) : (takeFree s).2.freeCtr = s.freeCtr + 1 := rfl
@[simp] theorem takeStamp_fst (s : State) : (takeStamp s).1 = s.stamp := rfl
@[simp] theorem takeStamp_stamp (s : State) : (takeStamp s).2.stamp = s.stamp + 1 := rfl

/-! ## Updates of a core -/

@[simp] theorem setRow_warps (k : Core) (r : Nat) (v : PoolRow) : (setRow k r v).warps = k.warps := rfl
@[simp] theorem setRow_launches (k : Core) (r : Nat) (v : PoolRow) : (setRow k r v).launches = k.launches := rfl
@[simp] theorem setRow_scale (k : Core) (r : Nat) (v : PoolRow) : (setRow k r v).scale = k.scale := rfl
@[simp] theorem setRow_scaleTag (k : Core) (r : Nat) (v : PoolRow) : (setRow k r v).scaleTag = k.scaleTag := rfl
@[simp] theorem setRow_tiles (k : Core) (r : Nat) (v : PoolRow) : (setRow k r v).tiles = k.tiles := rfl
@[simp] theorem setRow_drainQ (k : Core) (r : Nat) (v : PoolRow) : (setRow k r v).drainQ = k.drainQ := rfl
@[simp] theorem setRow_futures (k : Core) (r : Nat) (v : PoolRow) : (setRow k r v).futures = k.futures := rfl
@[simp] theorem setRow_dir (k : Core) (r : Nat) (v : PoolRow) : (setRow k r v).dir = k.dir := rfl
@[simp] theorem setRow_engines (k : Core) (r : Nat) (v : PoolRow) : (setRow k r v).engines = k.engines := rfl
@[simp] theorem setRow_inbox (k : Core) (r : Nat) (v : PoolRow) : (setRow k r v).inbox = k.inbox := rfl
@[simp] theorem setRow_refusing (k : Core) (r : Nat) (v : PoolRow) : (setRow k r v).refusing = k.refusing := rfl
@[simp] theorem setRow_accepted (k : Core) (r : Nat) (v : PoolRow) : (setRow k r v).accepted = k.accepted := rfl
@[simp] theorem setRow_storeQ (k : Core) (r : Nat) (v : PoolRow) : (setRow k r v).storeQ = k.storeQ := rfl
@[simp] theorem setRow_l1 (k : Core) (r : Nat) (v : PoolRow) : (setRow k r v).l1 = k.l1 := rfl
@[simp] theorem setRow_icache (k : Core) (r : Nat) (v : PoolRow) : (setRow k r v).icache = k.icache := rfl
@[simp] theorem setRow_invals (k : Core) (r : Nat) (v : PoolRow) : (setRow k r v).invals = k.invals := rfl
@[simp] theorem setRow_xcnt (k : Core) (r : Nat) (v : PoolRow) : (setRow k r v).xcnt = k.xcnt := rfl
@[simp] theorem setRow_cycles (k : Core) (r : Nat) (v : PoolRow) : (setRow k r v).cycles = k.cycles := rfl
@[simp] theorem setRow_credits (k : Core) (r : Nat) (v : PoolRow) : (setRow k r v).credits = k.credits := rfl
@[simp] theorem setRow_served (k : Core) (r : Nat) (v : PoolRow) : (setRow k r v).served = k.served := rfl
@[simp] theorem setRow_fenced (k : Core) (r : Nat) (v : PoolRow) : (setRow k r v).fenced = k.fenced := rfl
@[simp] theorem setRow_testing (k : Core) (r : Nat) (v : PoolRow) : (setRow k r v).testing = k.testing := rfl
@[simp] theorem setRow_rows (k : Core) (r : Nat) (v : PoolRow) : (setRow k r v).rows = fset k.rows r v freeRow := rfl
@[simp] theorem setTile_rows (k : Core) (t : Nat) (v : BTile) : (setTile k t v).rows = k.rows := rfl
@[simp] theorem setTile_warps (k : Core) (t : Nat) (v : BTile) : (setTile k t v).warps = k.warps := rfl
@[simp] theorem setTile_launches (k : Core) (t : Nat) (v : BTile) : (setTile k t v).launches = k.launches := rfl
@[simp] theorem setTile_scale (k : Core) (t : Nat) (v : BTile) : (setTile k t v).scale = k.scale := rfl
@[simp] theorem setTile_scaleTag (k : Core) (t : Nat) (v : BTile) : (setTile k t v).scaleTag = k.scaleTag := rfl
@[simp] theorem setTile_drainQ (k : Core) (t : Nat) (v : BTile) : (setTile k t v).drainQ = k.drainQ := rfl
@[simp] theorem setTile_futures (k : Core) (t : Nat) (v : BTile) : (setTile k t v).futures = k.futures := rfl
@[simp] theorem setTile_dir (k : Core) (t : Nat) (v : BTile) : (setTile k t v).dir = k.dir := rfl
@[simp] theorem setTile_engines (k : Core) (t : Nat) (v : BTile) : (setTile k t v).engines = k.engines := rfl
@[simp] theorem setTile_inbox (k : Core) (t : Nat) (v : BTile) : (setTile k t v).inbox = k.inbox := rfl
@[simp] theorem setTile_refusing (k : Core) (t : Nat) (v : BTile) : (setTile k t v).refusing = k.refusing := rfl
@[simp] theorem setTile_accepted (k : Core) (t : Nat) (v : BTile) : (setTile k t v).accepted = k.accepted := rfl
@[simp] theorem setTile_storeQ (k : Core) (t : Nat) (v : BTile) : (setTile k t v).storeQ = k.storeQ := rfl
@[simp] theorem setTile_l1 (k : Core) (t : Nat) (v : BTile) : (setTile k t v).l1 = k.l1 := rfl
@[simp] theorem setTile_icache (k : Core) (t : Nat) (v : BTile) : (setTile k t v).icache = k.icache := rfl
@[simp] theorem setTile_invals (k : Core) (t : Nat) (v : BTile) : (setTile k t v).invals = k.invals := rfl
@[simp] theorem setTile_xcnt (k : Core) (t : Nat) (v : BTile) : (setTile k t v).xcnt = k.xcnt := rfl
@[simp] theorem setTile_cycles (k : Core) (t : Nat) (v : BTile) : (setTile k t v).cycles = k.cycles := rfl
@[simp] theorem setTile_credits (k : Core) (t : Nat) (v : BTile) : (setTile k t v).credits = k.credits := rfl
@[simp] theorem setTile_served (k : Core) (t : Nat) (v : BTile) : (setTile k t v).served = k.served := rfl
@[simp] theorem setTile_fenced (k : Core) (t : Nat) (v : BTile) : (setTile k t v).fenced = k.fenced := rfl
@[simp] theorem setTile_testing (k : Core) (t : Nat) (v : BTile) : (setTile k t v).testing = k.testing := rfl
@[simp] theorem setTile_tiles (k : Core) (t : Nat) (v : BTile) : (setTile k t v).tiles = fput k.tiles t v := rfl

/-! ## Updates of a warp -/

@[simp] theorem setS_launch (w : Warp) (k : BitVec 6) (v : DWord) : (setS w k v).launch = w.launch := rfl
@[simp] theorem setS_lwarp (w : Warp) (k : BitVec 6) (v : DWord) : (setS w k v).lwarp = w.lwarp := rfl
@[simp] theorem setS_names (w : Warp) (k : BitVec 6) (v : DWord) : (setS w k v).names = w.names := rfl
@[simp] theorem setS_p (w : Warp) (k : BitVec 6) (v : DWord) : (setS w k v).p = w.p := rfl
@[simp] theorem setS_prim (w : Warp) (k : BitVec 6) (v : DWord) : (setS w k v).prim = w.prim := rfl
@[simp] theorem setS_seco (w : Warp) (k : BitVec 6) (v : DWord) : (setS w k v).seco = w.seco := rfl
@[simp] theorem setS_split (w : Warp) (k : BitVec 6) (v : DWord) : (setS w k v).split = w.split := rfl
@[simp] theorem setS_exited (w : Warp) (k : BitVec 6) (v : DWord) : (setS w k v).exited = w.exited := rfl
@[simp] theorem setS_dead (w : Warp) (k : BitVec 6) (v : DWord) : (setS w k v).dead = w.dead := rfl
@[simp] theorem setS_dstk (w : Warp) (k : BitVec 6) (v : DWord) : (setS w k v).dstk = w.dstk := rfl
@[simp] theorem setS_tvec (w : Warp) (k : BitVec 6) (v : DWord) : (setS w k v).tvec = w.tvec := rfl
@[simp] theorem setS_wb (w : Warp) (k : BitVec 6) (v : DWord) : (setS w k v).wb = w.wb := rfl
@[simp] theorem setS_fpsr (w : Warp) (k : BitVec 6) (v : DWord) : (setS w k v).fpsr = w.fpsr := rfl
@[simp] theorem setS_gang (w : Warp) (k : BitVec 6) (v : DWord) : (setS w k v).gang = w.gang := rfl
@[simp] theorem setS_g (w : Warp) (k : BitVec 6) (v : DWord) : (setS w k v).g = w.g := rfl
@[simp] theorem setS_rte (w : Warp) (k : BitVec 6) (v : DWord) : (setS w k v).rte = w.rte := rfl
@[simp] theorem setS_tpc (w : Warp) (k : BitVec 6) (v : DWord) : (setS w k v).tpc = w.tpc := rfl
@[simp] theorem setS_tcause (w : Warp) (k : BitVec 6) (v : DWord) : (setS w k v).tcause = w.tcause := rfl
@[simp] theorem setS_tval (w : Warp) (k : BitVec 6) (v : DWord) : (setS w k v).tval = w.tval := rfl
@[simp] theorem setS_trapMode (w : Warp) (k : BitVec 6) (v : DWord) : (setS w k v).trapMode = w.trapMode := rfl
@[simp] theorem setS_trapSec (w : Warp) (k : BitVec 6) (v : DWord) : (setS w k v).trapSec = w.trapSec := rfl
@[simp] theorem setS_firstCause (w : Warp) (k : BitVec 6) (v : DWord) : (setS w k v).firstCause = w.firstCause := rfl
@[simp] theorem setS_deferred (w : Warp) (k : BitVec 6) (v : DWord) : (setS w k v).deferred = w.deferred := rfl
@[simp] theorem setS_arrival (w : Warp) (k : BitVec 6) (v : DWord) : (setS w k v).arrival = w.arrival := rfl
@[simp] theorem setS_epi (w : Warp) (k : BitVec 6) (v : DWord) : (setS w k v).epi = w.epi := rfl
@[simp] theorem setS_mstat (w : Warp) (k : BitVec 6) (v : DWord) : (setS w k v).mstat = w.mstat := rfl
@[simp] theorem setS_resp (w : Warp) (k : BitVec 6) (v : DWord) : (setS w k v).resp = w.resp := rfl
@[simp] theorem setS_ops (w : Warp) (k : BitVec 6) (v : DWord) : (setS w k v).ops = w.ops := rfl
@[simp] theorem setS_pend (w : Warp) (k : BitVec 6) (v : DWord) : (setS w k v).pend = w.pend := rfl
@[simp] theorem setS_span (w : Warp) (k : BitVec 6) (v : DWord) : (setS w k v).span = w.span := rfl
@[simp] theorem setS_bkptStop (w : Warp) (k : BitVec 6) (v : DWord) : (setS w k v).bkptStop = w.bkptStop := rfl
@[simp] theorem setS_halted (w : Warp) (k : BitVec 6) (v : DWord) : (setS w k v).halted = w.halted := rfl
@[simp] theorem setS_s (w : Warp) (k : BitVec 6) (v : DWord) : (setS w k v).s = w.s.set k.toNat v k.isLt := rfl
@[simp] theorem setS_tags (w : Warp) (k : BitVec 6) (v : DWord) : (setS w k v).tags = fdel w.tags k.toNat := rfl
@[simp] theorem setP_launch (w : Warp) (k : BitVec 4) (v : Mask) : (setP w k v).launch = w.launch := rfl
@[simp] theorem setP_lwarp (w : Warp) (k : BitVec 4) (v : Mask) : (setP w k v).lwarp = w.lwarp := rfl
@[simp] theorem setP_names (w : Warp) (k : BitVec 4) (v : Mask) : (setP w k v).names = w.names := rfl
@[simp] theorem setP_s (w : Warp) (k : BitVec 4) (v : Mask) : (setP w k v).s = w.s := rfl
@[simp] theorem setP_prim (w : Warp) (k : BitVec 4) (v : Mask) : (setP w k v).prim = w.prim := rfl
@[simp] theorem setP_seco (w : Warp) (k : BitVec 4) (v : Mask) : (setP w k v).seco = w.seco := rfl
@[simp] theorem setP_split (w : Warp) (k : BitVec 4) (v : Mask) : (setP w k v).split = w.split := rfl
@[simp] theorem setP_exited (w : Warp) (k : BitVec 4) (v : Mask) : (setP w k v).exited = w.exited := rfl
@[simp] theorem setP_dead (w : Warp) (k : BitVec 4) (v : Mask) : (setP w k v).dead = w.dead := rfl
@[simp] theorem setP_dstk (w : Warp) (k : BitVec 4) (v : Mask) : (setP w k v).dstk = w.dstk := rfl
@[simp] theorem setP_tvec (w : Warp) (k : BitVec 4) (v : Mask) : (setP w k v).tvec = w.tvec := rfl
@[simp] theorem setP_wb (w : Warp) (k : BitVec 4) (v : Mask) : (setP w k v).wb = w.wb := rfl
@[simp] theorem setP_fpsr (w : Warp) (k : BitVec 4) (v : Mask) : (setP w k v).fpsr = w.fpsr := rfl
@[simp] theorem setP_gang (w : Warp) (k : BitVec 4) (v : Mask) : (setP w k v).gang = w.gang := rfl
@[simp] theorem setP_g (w : Warp) (k : BitVec 4) (v : Mask) : (setP w k v).g = w.g := rfl
@[simp] theorem setP_rte (w : Warp) (k : BitVec 4) (v : Mask) : (setP w k v).rte = w.rte := rfl
@[simp] theorem setP_tpc (w : Warp) (k : BitVec 4) (v : Mask) : (setP w k v).tpc = w.tpc := rfl
@[simp] theorem setP_tcause (w : Warp) (k : BitVec 4) (v : Mask) : (setP w k v).tcause = w.tcause := rfl
@[simp] theorem setP_tval (w : Warp) (k : BitVec 4) (v : Mask) : (setP w k v).tval = w.tval := rfl
@[simp] theorem setP_trapMode (w : Warp) (k : BitVec 4) (v : Mask) : (setP w k v).trapMode = w.trapMode := rfl
@[simp] theorem setP_trapSec (w : Warp) (k : BitVec 4) (v : Mask) : (setP w k v).trapSec = w.trapSec := rfl
@[simp] theorem setP_firstCause (w : Warp) (k : BitVec 4) (v : Mask) : (setP w k v).firstCause = w.firstCause := rfl
@[simp] theorem setP_deferred (w : Warp) (k : BitVec 4) (v : Mask) : (setP w k v).deferred = w.deferred := rfl
@[simp] theorem setP_arrival (w : Warp) (k : BitVec 4) (v : Mask) : (setP w k v).arrival = w.arrival := rfl
@[simp] theorem setP_epi (w : Warp) (k : BitVec 4) (v : Mask) : (setP w k v).epi = w.epi := rfl
@[simp] theorem setP_mstat (w : Warp) (k : BitVec 4) (v : Mask) : (setP w k v).mstat = w.mstat := rfl
@[simp] theorem setP_tags (w : Warp) (k : BitVec 4) (v : Mask) : (setP w k v).tags = w.tags := rfl
@[simp] theorem setP_resp (w : Warp) (k : BitVec 4) (v : Mask) : (setP w k v).resp = w.resp := rfl
@[simp] theorem setP_ops (w : Warp) (k : BitVec 4) (v : Mask) : (setP w k v).ops = w.ops := rfl
@[simp] theorem setP_pend (w : Warp) (k : BitVec 4) (v : Mask) : (setP w k v).pend = w.pend := rfl
@[simp] theorem setP_span (w : Warp) (k : BitVec 4) (v : Mask) : (setP w k v).span = w.span := rfl
@[simp] theorem setP_bkptStop (w : Warp) (k : BitVec 4) (v : Mask) : (setP w k v).bkptStop = w.bkptStop := rfl
@[simp] theorem setP_halted (w : Warp) (k : BitVec 4) (v : Mask) : (setP w k v).halted = w.halted := rfl
@[simp] theorem setP_p (w : Warp) (k : BitVec 4) (v : Mask) : (setP w k v).p = w.p.set k.toNat v k.isLt := rfl
@[simp] theorem setPLanes_launch (w : Warp) (k : BitVec 4) (m v : Mask) : (setPLanes w k m v).launch = w.launch := rfl
@[simp] theorem setPLanes_lwarp (w : Warp) (k : BitVec 4) (m v : Mask) : (setPLanes w k m v).lwarp = w.lwarp := rfl
@[simp] theorem setPLanes_names (w : Warp) (k : BitVec 4) (m v : Mask) : (setPLanes w k m v).names = w.names := rfl
@[simp] theorem setPLanes_s (w : Warp) (k : BitVec 4) (m v : Mask) : (setPLanes w k m v).s = w.s := rfl
@[simp] theorem setPLanes_prim (w : Warp) (k : BitVec 4) (m v : Mask) : (setPLanes w k m v).prim = w.prim := rfl
@[simp] theorem setPLanes_seco (w : Warp) (k : BitVec 4) (m v : Mask) : (setPLanes w k m v).seco = w.seco := rfl
@[simp] theorem setPLanes_split (w : Warp) (k : BitVec 4) (m v : Mask) : (setPLanes w k m v).split = w.split := rfl
@[simp] theorem setPLanes_exited (w : Warp) (k : BitVec 4) (m v : Mask) : (setPLanes w k m v).exited = w.exited := rfl
@[simp] theorem setPLanes_dead (w : Warp) (k : BitVec 4) (m v : Mask) : (setPLanes w k m v).dead = w.dead := rfl
@[simp] theorem setPLanes_dstk (w : Warp) (k : BitVec 4) (m v : Mask) : (setPLanes w k m v).dstk = w.dstk := rfl
@[simp] theorem setPLanes_tvec (w : Warp) (k : BitVec 4) (m v : Mask) : (setPLanes w k m v).tvec = w.tvec := rfl
@[simp] theorem setPLanes_wb (w : Warp) (k : BitVec 4) (m v : Mask) : (setPLanes w k m v).wb = w.wb := rfl
@[simp] theorem setPLanes_fpsr (w : Warp) (k : BitVec 4) (m v : Mask) : (setPLanes w k m v).fpsr = w.fpsr := rfl
@[simp] theorem setPLanes_gang (w : Warp) (k : BitVec 4) (m v : Mask) : (setPLanes w k m v).gang = w.gang := rfl
@[simp] theorem setPLanes_g (w : Warp) (k : BitVec 4) (m v : Mask) : (setPLanes w k m v).g = w.g := rfl
@[simp] theorem setPLanes_rte (w : Warp) (k : BitVec 4) (m v : Mask) : (setPLanes w k m v).rte = w.rte := rfl
@[simp] theorem setPLanes_tpc (w : Warp) (k : BitVec 4) (m v : Mask) : (setPLanes w k m v).tpc = w.tpc := rfl
@[simp] theorem setPLanes_tcause (w : Warp) (k : BitVec 4) (m v : Mask) : (setPLanes w k m v).tcause = w.tcause := rfl
@[simp] theorem setPLanes_tval (w : Warp) (k : BitVec 4) (m v : Mask) : (setPLanes w k m v).tval = w.tval := rfl
@[simp] theorem setPLanes_trapMode (w : Warp) (k : BitVec 4) (m v : Mask) : (setPLanes w k m v).trapMode = w.trapMode := rfl
@[simp] theorem setPLanes_trapSec (w : Warp) (k : BitVec 4) (m v : Mask) : (setPLanes w k m v).trapSec = w.trapSec := rfl
@[simp] theorem setPLanes_firstCause (w : Warp) (k : BitVec 4) (m v : Mask) : (setPLanes w k m v).firstCause = w.firstCause := rfl
@[simp] theorem setPLanes_deferred (w : Warp) (k : BitVec 4) (m v : Mask) : (setPLanes w k m v).deferred = w.deferred := rfl
@[simp] theorem setPLanes_arrival (w : Warp) (k : BitVec 4) (m v : Mask) : (setPLanes w k m v).arrival = w.arrival := rfl
@[simp] theorem setPLanes_epi (w : Warp) (k : BitVec 4) (m v : Mask) : (setPLanes w k m v).epi = w.epi := rfl
@[simp] theorem setPLanes_mstat (w : Warp) (k : BitVec 4) (m v : Mask) : (setPLanes w k m v).mstat = w.mstat := rfl
@[simp] theorem setPLanes_tags (w : Warp) (k : BitVec 4) (m v : Mask) : (setPLanes w k m v).tags = w.tags := rfl
@[simp] theorem setPLanes_resp (w : Warp) (k : BitVec 4) (m v : Mask) : (setPLanes w k m v).resp = w.resp := rfl
@[simp] theorem setPLanes_ops (w : Warp) (k : BitVec 4) (m v : Mask) : (setPLanes w k m v).ops = w.ops := rfl
@[simp] theorem setPLanes_pend (w : Warp) (k : BitVec 4) (m v : Mask) : (setPLanes w k m v).pend = w.pend := rfl
@[simp] theorem setPLanes_span (w : Warp) (k : BitVec 4) (m v : Mask) : (setPLanes w k m v).span = w.span := rfl
@[simp] theorem setPLanes_bkptStop (w : Warp) (k : BitVec 4) (m v : Mask) : (setPLanes w k m v).bkptStop = w.bkptStop := rfl
@[simp] theorem setPLanes_halted (w : Warp) (k : BitVec 4) (m v : Mask) : (setPLanes w k m v).halted = w.halted := rfl
@[simp] theorem setName_launch (w : Warp) (n : Nat) (e : MapEntry) : (setName w n e).launch = w.launch := rfl
@[simp] theorem setName_lwarp (w : Warp) (n : Nat) (e : MapEntry) : (setName w n e).lwarp = w.lwarp := rfl
@[simp] theorem setName_s (w : Warp) (n : Nat) (e : MapEntry) : (setName w n e).s = w.s := rfl
@[simp] theorem setName_p (w : Warp) (n : Nat) (e : MapEntry) : (setName w n e).p = w.p := rfl
@[simp] theorem setName_prim (w : Warp) (n : Nat) (e : MapEntry) : (setName w n e).prim = w.prim := rfl
@[simp] theorem setName_seco (w : Warp) (n : Nat) (e : MapEntry) : (setName w n e).seco = w.seco := rfl
@[simp] theorem setName_split (w : Warp) (n : Nat) (e : MapEntry) : (setName w n e).split = w.split := rfl
@[simp] theorem setName_exited (w : Warp) (n : Nat) (e : MapEntry) : (setName w n e).exited = w.exited := rfl
@[simp] theorem setName_dead (w : Warp) (n : Nat) (e : MapEntry) : (setName w n e).dead = w.dead := rfl
@[simp] theorem setName_dstk (w : Warp) (n : Nat) (e : MapEntry) : (setName w n e).dstk = w.dstk := rfl
@[simp] theorem setName_tvec (w : Warp) (n : Nat) (e : MapEntry) : (setName w n e).tvec = w.tvec := rfl
@[simp] theorem setName_wb (w : Warp) (n : Nat) (e : MapEntry) : (setName w n e).wb = w.wb := rfl
@[simp] theorem setName_fpsr (w : Warp) (n : Nat) (e : MapEntry) : (setName w n e).fpsr = w.fpsr := rfl
@[simp] theorem setName_gang (w : Warp) (n : Nat) (e : MapEntry) : (setName w n e).gang = w.gang := rfl
@[simp] theorem setName_g (w : Warp) (n : Nat) (e : MapEntry) : (setName w n e).g = w.g := rfl
@[simp] theorem setName_rte (w : Warp) (n : Nat) (e : MapEntry) : (setName w n e).rte = w.rte := rfl
@[simp] theorem setName_tpc (w : Warp) (n : Nat) (e : MapEntry) : (setName w n e).tpc = w.tpc := rfl
@[simp] theorem setName_tcause (w : Warp) (n : Nat) (e : MapEntry) : (setName w n e).tcause = w.tcause := rfl
@[simp] theorem setName_tval (w : Warp) (n : Nat) (e : MapEntry) : (setName w n e).tval = w.tval := rfl
@[simp] theorem setName_trapMode (w : Warp) (n : Nat) (e : MapEntry) : (setName w n e).trapMode = w.trapMode := rfl
@[simp] theorem setName_trapSec (w : Warp) (n : Nat) (e : MapEntry) : (setName w n e).trapSec = w.trapSec := rfl
@[simp] theorem setName_firstCause (w : Warp) (n : Nat) (e : MapEntry) : (setName w n e).firstCause = w.firstCause := rfl
@[simp] theorem setName_deferred (w : Warp) (n : Nat) (e : MapEntry) : (setName w n e).deferred = w.deferred := rfl
@[simp] theorem setName_arrival (w : Warp) (n : Nat) (e : MapEntry) : (setName w n e).arrival = w.arrival := rfl
@[simp] theorem setName_epi (w : Warp) (n : Nat) (e : MapEntry) : (setName w n e).epi = w.epi := rfl
@[simp] theorem setName_mstat (w : Warp) (n : Nat) (e : MapEntry) : (setName w n e).mstat = w.mstat := rfl
@[simp] theorem setName_tags (w : Warp) (n : Nat) (e : MapEntry) : (setName w n e).tags = w.tags := rfl
@[simp] theorem setName_resp (w : Warp) (n : Nat) (e : MapEntry) : (setName w n e).resp = w.resp := rfl
@[simp] theorem setName_ops (w : Warp) (n : Nat) (e : MapEntry) : (setName w n e).ops = w.ops := rfl
@[simp] theorem setName_pend (w : Warp) (n : Nat) (e : MapEntry) : (setName w n e).pend = w.pend := rfl
@[simp] theorem setName_span (w : Warp) (n : Nat) (e : MapEntry) : (setName w n e).span = w.span := rfl
@[simp] theorem setName_bkptStop (w : Warp) (n : Nat) (e : MapEntry) : (setName w n e).bkptStop = w.bkptStop := rfl
@[simp] theorem setName_halted (w : Warp) (n : Nat) (e : MapEntry) : (setName w n e).halted = w.halted := rfl
@[simp] theorem setName_names (w : Warp) (n : Nat) (e : MapEntry) : (setName w n e).names = fset w.names n e .unmapped := rfl
@[simp] theorem setPath_launch (w : Warp) (sec : Bool) (p : Path) : (setPath w sec p).launch = w.launch := by cases sec <;> rfl
@[simp] theorem setPath_lwarp (w : Warp) (sec : Bool) (p : Path) : (setPath w sec p).lwarp = w.lwarp := by cases sec <;> rfl
@[simp] theorem setPath_names (w : Warp) (sec : Bool) (p : Path) : (setPath w sec p).names = w.names := by cases sec <;> rfl
@[simp] theorem setPath_s (w : Warp) (sec : Bool) (p : Path) : (setPath w sec p).s = w.s := by cases sec <;> rfl
@[simp] theorem setPath_p (w : Warp) (sec : Bool) (p : Path) : (setPath w sec p).p = w.p := by cases sec <;> rfl
@[simp] theorem setPath_split (w : Warp) (sec : Bool) (p : Path) : (setPath w sec p).split = w.split := by cases sec <;> rfl
@[simp] theorem setPath_exited (w : Warp) (sec : Bool) (p : Path) : (setPath w sec p).exited = w.exited := by cases sec <;> rfl
@[simp] theorem setPath_dead (w : Warp) (sec : Bool) (p : Path) : (setPath w sec p).dead = w.dead := by cases sec <;> rfl
@[simp] theorem setPath_dstk (w : Warp) (sec : Bool) (p : Path) : (setPath w sec p).dstk = w.dstk := by cases sec <;> rfl
@[simp] theorem setPath_tvec (w : Warp) (sec : Bool) (p : Path) : (setPath w sec p).tvec = w.tvec := by cases sec <;> rfl
@[simp] theorem setPath_wb (w : Warp) (sec : Bool) (p : Path) : (setPath w sec p).wb = w.wb := by cases sec <;> rfl
@[simp] theorem setPath_fpsr (w : Warp) (sec : Bool) (p : Path) : (setPath w sec p).fpsr = w.fpsr := by cases sec <;> rfl
@[simp] theorem setPath_gang (w : Warp) (sec : Bool) (p : Path) : (setPath w sec p).gang = w.gang := by cases sec <;> rfl
@[simp] theorem setPath_g (w : Warp) (sec : Bool) (p : Path) : (setPath w sec p).g = w.g := by cases sec <;> rfl
@[simp] theorem setPath_rte (w : Warp) (sec : Bool) (p : Path) : (setPath w sec p).rte = w.rte := by cases sec <;> rfl
@[simp] theorem setPath_tpc (w : Warp) (sec : Bool) (p : Path) : (setPath w sec p).tpc = w.tpc := by cases sec <;> rfl
@[simp] theorem setPath_tcause (w : Warp) (sec : Bool) (p : Path) : (setPath w sec p).tcause = w.tcause := by cases sec <;> rfl
@[simp] theorem setPath_tval (w : Warp) (sec : Bool) (p : Path) : (setPath w sec p).tval = w.tval := by cases sec <;> rfl
@[simp] theorem setPath_trapMode (w : Warp) (sec : Bool) (p : Path) : (setPath w sec p).trapMode = w.trapMode := by cases sec <;> rfl
@[simp] theorem setPath_trapSec (w : Warp) (sec : Bool) (p : Path) : (setPath w sec p).trapSec = w.trapSec := by cases sec <;> rfl
@[simp] theorem setPath_firstCause (w : Warp) (sec : Bool) (p : Path) : (setPath w sec p).firstCause = w.firstCause := by cases sec <;> rfl
@[simp] theorem setPath_deferred (w : Warp) (sec : Bool) (p : Path) : (setPath w sec p).deferred = w.deferred := by cases sec <;> rfl
@[simp] theorem setPath_arrival (w : Warp) (sec : Bool) (p : Path) : (setPath w sec p).arrival = w.arrival := by cases sec <;> rfl
@[simp] theorem setPath_epi (w : Warp) (sec : Bool) (p : Path) : (setPath w sec p).epi = w.epi := by cases sec <;> rfl
@[simp] theorem setPath_mstat (w : Warp) (sec : Bool) (p : Path) : (setPath w sec p).mstat = w.mstat := by cases sec <;> rfl
@[simp] theorem setPath_tags (w : Warp) (sec : Bool) (p : Path) : (setPath w sec p).tags = w.tags := by cases sec <;> rfl
@[simp] theorem setPath_resp (w : Warp) (sec : Bool) (p : Path) : (setPath w sec p).resp = w.resp := by cases sec <;> rfl
@[simp] theorem setPath_ops (w : Warp) (sec : Bool) (p : Path) : (setPath w sec p).ops = w.ops := by cases sec <;> rfl
@[simp] theorem setPath_pend (w : Warp) (sec : Bool) (p : Path) : (setPath w sec p).pend = w.pend := by cases sec <;> rfl
@[simp] theorem setPath_span (w : Warp) (sec : Bool) (p : Path) : (setPath w sec p).span = w.span := by cases sec <;> rfl
@[simp] theorem setPath_bkptStop (w : Warp) (sec : Bool) (p : Path) : (setPath w sec p).bkptStop = w.bkptStop := by cases sec <;> rfl
@[simp] theorem setPath_halted (w : Warp) (sec : Bool) (p : Path) : (setPath w sec p).halted = w.halted := by cases sec <;> rfl
@[simp] theorem modPath_launch (w : Warp) (sec : Bool) (f : Path → Path) : (modPath w sec f).launch = w.launch := by cases sec <;> rfl
@[simp] theorem modPath_lwarp (w : Warp) (sec : Bool) (f : Path → Path) : (modPath w sec f).lwarp = w.lwarp := by cases sec <;> rfl
@[simp] theorem modPath_names (w : Warp) (sec : Bool) (f : Path → Path) : (modPath w sec f).names = w.names := by cases sec <;> rfl
@[simp] theorem modPath_s (w : Warp) (sec : Bool) (f : Path → Path) : (modPath w sec f).s = w.s := by cases sec <;> rfl
@[simp] theorem modPath_p (w : Warp) (sec : Bool) (f : Path → Path) : (modPath w sec f).p = w.p := by cases sec <;> rfl
@[simp] theorem modPath_split (w : Warp) (sec : Bool) (f : Path → Path) : (modPath w sec f).split = w.split := by cases sec <;> rfl
@[simp] theorem modPath_exited (w : Warp) (sec : Bool) (f : Path → Path) : (modPath w sec f).exited = w.exited := by cases sec <;> rfl
@[simp] theorem modPath_dead (w : Warp) (sec : Bool) (f : Path → Path) : (modPath w sec f).dead = w.dead := by cases sec <;> rfl
@[simp] theorem modPath_dstk (w : Warp) (sec : Bool) (f : Path → Path) : (modPath w sec f).dstk = w.dstk := by cases sec <;> rfl
@[simp] theorem modPath_tvec (w : Warp) (sec : Bool) (f : Path → Path) : (modPath w sec f).tvec = w.tvec := by cases sec <;> rfl
@[simp] theorem modPath_wb (w : Warp) (sec : Bool) (f : Path → Path) : (modPath w sec f).wb = w.wb := by cases sec <;> rfl
@[simp] theorem modPath_fpsr (w : Warp) (sec : Bool) (f : Path → Path) : (modPath w sec f).fpsr = w.fpsr := by cases sec <;> rfl
@[simp] theorem modPath_gang (w : Warp) (sec : Bool) (f : Path → Path) : (modPath w sec f).gang = w.gang := by cases sec <;> rfl
@[simp] theorem modPath_g (w : Warp) (sec : Bool) (f : Path → Path) : (modPath w sec f).g = w.g := by cases sec <;> rfl
@[simp] theorem modPath_rte (w : Warp) (sec : Bool) (f : Path → Path) : (modPath w sec f).rte = w.rte := by cases sec <;> rfl
@[simp] theorem modPath_tpc (w : Warp) (sec : Bool) (f : Path → Path) : (modPath w sec f).tpc = w.tpc := by cases sec <;> rfl
@[simp] theorem modPath_tcause (w : Warp) (sec : Bool) (f : Path → Path) : (modPath w sec f).tcause = w.tcause := by cases sec <;> rfl
@[simp] theorem modPath_tval (w : Warp) (sec : Bool) (f : Path → Path) : (modPath w sec f).tval = w.tval := by cases sec <;> rfl
@[simp] theorem modPath_trapMode (w : Warp) (sec : Bool) (f : Path → Path) : (modPath w sec f).trapMode = w.trapMode := by cases sec <;> rfl
@[simp] theorem modPath_trapSec (w : Warp) (sec : Bool) (f : Path → Path) : (modPath w sec f).trapSec = w.trapSec := by cases sec <;> rfl
@[simp] theorem modPath_firstCause (w : Warp) (sec : Bool) (f : Path → Path) : (modPath w sec f).firstCause = w.firstCause := by cases sec <;> rfl
@[simp] theorem modPath_deferred (w : Warp) (sec : Bool) (f : Path → Path) : (modPath w sec f).deferred = w.deferred := by cases sec <;> rfl
@[simp] theorem modPath_arrival (w : Warp) (sec : Bool) (f : Path → Path) : (modPath w sec f).arrival = w.arrival := by cases sec <;> rfl
@[simp] theorem modPath_epi (w : Warp) (sec : Bool) (f : Path → Path) : (modPath w sec f).epi = w.epi := by cases sec <;> rfl
@[simp] theorem modPath_mstat (w : Warp) (sec : Bool) (f : Path → Path) : (modPath w sec f).mstat = w.mstat := by cases sec <;> rfl
@[simp] theorem modPath_tags (w : Warp) (sec : Bool) (f : Path → Path) : (modPath w sec f).tags = w.tags := by cases sec <;> rfl
@[simp] theorem modPath_resp (w : Warp) (sec : Bool) (f : Path → Path) : (modPath w sec f).resp = w.resp := by cases sec <;> rfl
@[simp] theorem modPath_ops (w : Warp) (sec : Bool) (f : Path → Path) : (modPath w sec f).ops = w.ops := by cases sec <;> rfl
@[simp] theorem modPath_pend (w : Warp) (sec : Bool) (f : Path → Path) : (modPath w sec f).pend = w.pend := by cases sec <;> rfl
@[simp] theorem modPath_span (w : Warp) (sec : Bool) (f : Path → Path) : (modPath w sec f).span = w.span := by cases sec <;> rfl
@[simp] theorem modPath_bkptStop (w : Warp) (sec : Bool) (f : Path → Path) : (modPath w sec f).bkptStop = w.bkptStop := by cases sec <;> rfl
@[simp] theorem modPath_halted (w : Warp) (sec : Bool) (f : Path → Path) : (modPath w sec f).halted = w.halted := by cases sec <;> rfl
@[simp] theorem pathOf_modPath (w : Warp) (sec : Bool) (f : Path → Path) : pathOf (modPath w sec f) sec = f (pathOf w sec) := by
  cases sec <;> rfl
@[simp] theorem pathOf_modPath_other (w : Warp) (sec : Bool) (f : Path → Path) : pathOf (modPath w sec f) (!sec) = pathOf w (!sec) := by
  cases sec <;> rfl
@[simp] theorem leaveSpan_launch (w : Warp) (sp : Span) (pc : PC) (u : Bool) (live : Option Word) (k : Nat) : (leaveSpan w sp pc u live k).launch = w.launch := by simp [leaveSpan]
@[simp] theorem leaveSpan_lwarp (w : Warp) (sp : Span) (pc : PC) (u : Bool) (live : Option Word) (k : Nat) : (leaveSpan w sp pc u live k).lwarp = w.lwarp := by simp [leaveSpan]
@[simp] theorem leaveSpan_names (w : Warp) (sp : Span) (pc : PC) (u : Bool) (live : Option Word) (k : Nat) : (leaveSpan w sp pc u live k).names = w.names := by simp [leaveSpan]
@[simp] theorem leaveSpan_s (w : Warp) (sp : Span) (pc : PC) (u : Bool) (live : Option Word) (k : Nat) : (leaveSpan w sp pc u live k).s = w.s := by simp [leaveSpan]
@[simp] theorem leaveSpan_p (w : Warp) (sp : Span) (pc : PC) (u : Bool) (live : Option Word) (k : Nat) : (leaveSpan w sp pc u live k).p = w.p := by simp [leaveSpan]
@[simp] theorem leaveSpan_split (w : Warp) (sp : Span) (pc : PC) (u : Bool) (live : Option Word) (k : Nat) : (leaveSpan w sp pc u live k).split = w.split := by simp [leaveSpan]
@[simp] theorem leaveSpan_exited (w : Warp) (sp : Span) (pc : PC) (u : Bool) (live : Option Word) (k : Nat) : (leaveSpan w sp pc u live k).exited = w.exited := by simp [leaveSpan]
@[simp] theorem leaveSpan_dead (w : Warp) (sp : Span) (pc : PC) (u : Bool) (live : Option Word) (k : Nat) : (leaveSpan w sp pc u live k).dead = w.dead := by simp [leaveSpan]
@[simp] theorem leaveSpan_dstk (w : Warp) (sp : Span) (pc : PC) (u : Bool) (live : Option Word) (k : Nat) : (leaveSpan w sp pc u live k).dstk = w.dstk := by simp [leaveSpan]
@[simp] theorem leaveSpan_tvec (w : Warp) (sp : Span) (pc : PC) (u : Bool) (live : Option Word) (k : Nat) : (leaveSpan w sp pc u live k).tvec = w.tvec := by simp [leaveSpan]
@[simp] theorem leaveSpan_wb (w : Warp) (sp : Span) (pc : PC) (u : Bool) (live : Option Word) (k : Nat) : (leaveSpan w sp pc u live k).wb = w.wb := by simp [leaveSpan]
@[simp] theorem leaveSpan_fpsr (w : Warp) (sp : Span) (pc : PC) (u : Bool) (live : Option Word) (k : Nat) : (leaveSpan w sp pc u live k).fpsr = w.fpsr := by simp [leaveSpan]
@[simp] theorem leaveSpan_gang (w : Warp) (sp : Span) (pc : PC) (u : Bool) (live : Option Word) (k : Nat) : (leaveSpan w sp pc u live k).gang = w.gang := by simp [leaveSpan]
@[simp] theorem leaveSpan_g (w : Warp) (sp : Span) (pc : PC) (u : Bool) (live : Option Word) (k : Nat) : (leaveSpan w sp pc u live k).g = w.g := by simp [leaveSpan]
@[simp] theorem leaveSpan_rte (w : Warp) (sp : Span) (pc : PC) (u : Bool) (live : Option Word) (k : Nat) : (leaveSpan w sp pc u live k).rte = w.rte := by simp [leaveSpan]
@[simp] theorem leaveSpan_tpc (w : Warp) (sp : Span) (pc : PC) (u : Bool) (live : Option Word) (k : Nat) : (leaveSpan w sp pc u live k).tpc = w.tpc := by simp [leaveSpan]
@[simp] theorem leaveSpan_tcause (w : Warp) (sp : Span) (pc : PC) (u : Bool) (live : Option Word) (k : Nat) : (leaveSpan w sp pc u live k).tcause = w.tcause := by simp [leaveSpan]
@[simp] theorem leaveSpan_tval (w : Warp) (sp : Span) (pc : PC) (u : Bool) (live : Option Word) (k : Nat) : (leaveSpan w sp pc u live k).tval = w.tval := by simp [leaveSpan]
@[simp] theorem leaveSpan_trapMode (w : Warp) (sp : Span) (pc : PC) (u : Bool) (live : Option Word) (k : Nat) : (leaveSpan w sp pc u live k).trapMode = w.trapMode := by simp [leaveSpan]
@[simp] theorem leaveSpan_trapSec (w : Warp) (sp : Span) (pc : PC) (u : Bool) (live : Option Word) (k : Nat) : (leaveSpan w sp pc u live k).trapSec = w.trapSec := by simp [leaveSpan]
@[simp] theorem leaveSpan_firstCause (w : Warp) (sp : Span) (pc : PC) (u : Bool) (live : Option Word) (k : Nat) : (leaveSpan w sp pc u live k).firstCause = w.firstCause := by simp [leaveSpan]
@[simp] theorem leaveSpan_deferred (w : Warp) (sp : Span) (pc : PC) (u : Bool) (live : Option Word) (k : Nat) : (leaveSpan w sp pc u live k).deferred = w.deferred := by simp [leaveSpan]
@[simp] theorem leaveSpan_arrival (w : Warp) (sp : Span) (pc : PC) (u : Bool) (live : Option Word) (k : Nat) : (leaveSpan w sp pc u live k).arrival = w.arrival := by simp [leaveSpan]
@[simp] theorem leaveSpan_epi (w : Warp) (sp : Span) (pc : PC) (u : Bool) (live : Option Word) (k : Nat) : (leaveSpan w sp pc u live k).epi = w.epi := by simp [leaveSpan]
@[simp] theorem leaveSpan_mstat (w : Warp) (sp : Span) (pc : PC) (u : Bool) (live : Option Word) (k : Nat) : (leaveSpan w sp pc u live k).mstat = w.mstat := by simp [leaveSpan]
@[simp] theorem leaveSpan_tags (w : Warp) (sp : Span) (pc : PC) (u : Bool) (live : Option Word) (k : Nat) : (leaveSpan w sp pc u live k).tags = w.tags := by simp [leaveSpan]
@[simp] theorem leaveSpan_resp (w : Warp) (sp : Span) (pc : PC) (u : Bool) (live : Option Word) (k : Nat) : (leaveSpan w sp pc u live k).resp = w.resp := by simp [leaveSpan]
@[simp] theorem leaveSpan_ops (w : Warp) (sp : Span) (pc : PC) (u : Bool) (live : Option Word) (k : Nat) : (leaveSpan w sp pc u live k).ops = w.ops := by simp [leaveSpan]
@[simp] theorem leaveSpan_pend (w : Warp) (sp : Span) (pc : PC) (u : Bool) (live : Option Word) (k : Nat) : (leaveSpan w sp pc u live k).pend = w.pend := by simp [leaveSpan]
@[simp] theorem leaveSpan_bkptStop (w : Warp) (sp : Span) (pc : PC) (u : Bool) (live : Option Word) (k : Nat) : (leaveSpan w sp pc u live k).bkptStop = w.bkptStop := by simp [leaveSpan]
@[simp] theorem leaveSpan_halted (w : Warp) (sp : Span) (pc : PC) (u : Bool) (live : Option Word) (k : Nat) : (leaveSpan w sp pc u live k).halted = w.halted := by simp [leaveSpan]
@[simp] theorem leaveSpan_span (w : Warp) (sp : Span) (pc : PC) (u : Bool) (live : Option Word) (k : Nat) :
    (leaveSpan w sp pc u live k).span = none := by simp [leaveSpan]

/-! ## Updates of a partition -/

@[simp] theorem setReg_exists_ (p : Partition) (n : RegName) (i : Nat) (v : DWord) : (setReg p n i v).exists_ = p.exists_ := rfl
@[simp] theorem setReg_memKeys (p : Partition) (n : RegName) (i : Nat) (v : DWord) : (setReg p n i v).memKeys = p.memKeys := rfl
@[simp] theorem setReg_meas3 (p : Partition) (n : RegName) (i : Nat) (v : DWord) : (setReg p n i v).meas3 = p.meas3 := rfl
@[simp] theorem setReg_ringLeft (p : Partition) (n : RegName) (i : Nat) (v : DWord) : (setReg p n i v).ringLeft = p.ringLeft := rfl
@[simp] theorem setReg_pending (p : Partition) (n : RegName) (i : Nat) (v : DWord) : (setReg p n i v).pending = p.pending := rfl
@[simp] theorem setReg_credits (p : Partition) (n : RegName) (i : Nat) (v : DWord) : (setReg p n i v).credits = p.credits := rfl
@[simp] theorem setReg_served (p : Partition) (n : RegName) (i : Nat) (v : DWord) : (setReg p n i v).served = p.served := rfl
@[simp] theorem setReg_childCount (p : Partition) (n : RegName) (i : Nat) (v : DWord) : (setReg p n i v).childCount = p.childCount := rfl
@[simp] theorem setReg_netCount (p : Partition) (n : RegName) (i : Nat) (v : DWord) : (setReg p n i v).netCount = p.netCount := rfl
@[simp] theorem setReg_netWindow (p : Partition) (n : RegName) (i : Nat) (v : DWord) : (setReg p n i v).netWindow = p.netWindow := rfl
@[simp] theorem setReg_choice (p : Partition) (n : RegName) (i : Nat) (v : DWord) : (setReg p n i v).choice = p.choice := rfl
@[simp] theorem setReg_heldCompletions (p : Partition) (n : RegName) (i : Nat) (v : DWord) : (setReg p n i v).heldCompletions = p.heldCompletions := rfl
@[simp] theorem setReg_heldEvents (p : Partition) (n : RegName) (i : Nat) (v : DWord) : (setReg p n i v).heldEvents = p.heldEvents := rfl
@[simp] theorem setReg_tlb (p : Partition) (n : RegName) (i : Nat) (v : DWord) : (setReg p n i v).tlb = p.tlb := rfl
@[simp] theorem setReg_walkCache (p : Partition) (n : RegName) (i : Nat) (v : DWord) : (setReg p n i v).walkCache = p.walkCache := rfl
@[simp] theorem setReg_llc (p : Partition) (n : RegName) (i : Nat) (v : DWord) : (setReg p n i v).llc = p.llc := rfl
@[simp] theorem setReg_fetches (p : Partition) (n : RegName) (i : Nat) (v : DWord) : (setReg p n i v).fetches = p.fetches := rfl
@[simp] theorem setReg_shooting (p : Partition) (n : RegName) (i : Nat) (v : DWord) : (setReg p n i v).shooting = p.shooting := rfl
@[simp] theorem setReg_counters (p : Partition) (n : RegName) (i : Nat) (v : DWord) : (setReg p n i v).counters = p.counters := rfl
@[simp] theorem setReg_rootSeq (p : Partition) (n : RegName) (i : Nat) (v : DWord) : (setReg p n i v).rootSeq = p.rootSeq := rfl
@[simp] theorem setReg_rootInbox (p : Partition) (n : RegName) (i : Nat) (v : DWord) : (setReg p n i v).rootInbox = p.rootInbox := rfl
@[simp] theorem setReg_rootSlots (p : Partition) (n : RegName) (i : Nat) (v : DWord) : (setReg p n i v).rootSlots = p.rootSlots := rfl
@[simp] theorem setReg_rootBarriers (p : Partition) (n : RegName) (i : Nat) (v : DWord) : (setReg p n i v).rootBarriers = p.rootBarriers := rfl
@[simp] theorem setReg_out (p : Partition) (n : RegName) (i : Nat) (v : DWord) : (setReg p n i v).out = p.out := rfl
@[simp] theorem setReg_inn (p : Partition) (n : RegName) (i : Nat) (v : DWord) : (setReg p n i v).inn = p.inn := rfl
@[simp] theorem setReg_peerLines (p : Partition) (n : RegName) (i : Nat) (v : DWord) : (setReg p n i v).peerLines = p.peerLines := rfl
@[simp] theorem setReg_peerOut (p : Partition) (n : RegName) (i : Nat) (v : DWord) : (setReg p n i v).peerOut = p.peerOut := rfl
@[simp] theorem setReg_peerSides (p : Partition) (n : RegName) (i : Nat) (v : DWord) : (setReg p n i v).peerSides = p.peerSides := rfl
@[simp] theorem setReg_forwards (p : Partition) (n : RegName) (i : Nat) (v : DWord) : (setReg p n i v).forwards = p.forwards := rfl
@[simp] theorem setReg_trees (p : Partition) (n : RegName) (i : Nat) (v : DWord) : (setReg p n i v).trees = p.trees := rfl
@[simp] theorem setReg_wire (p : Partition) (n : RegName) (i : Nat) (v : DWord) : (setReg p n i v).wire = p.wire := rfl
@[simp] theorem setReg_netDev (p : Partition) (n : RegName) (i : Nat) (v : DWord) : (setReg p n i v).netDev = p.netDev := rfl
@[simp] theorem setReg_osFrames (p : Partition) (n : RegName) (i : Nat) (v : DWord) : (setReg p n i v).osFrames = p.osFrames := rfl
@[simp] theorem setReg_skewCount (p : Partition) (n : RegName) (i : Nat) (v : DWord) : (setReg p n i v).skewCount = p.skewCount := rfl
@[simp] theorem setReg_cmd (p : Partition) (n : RegName) (i : Nat) (v : DWord) : (setReg p n i v).cmd = p.cmd := rfl
@[simp] theorem setReg_yieldTo (p : Partition) (n : RegName) (i : Nat) (v : DWord) : (setReg p n i v).yieldTo = p.yieldTo := rfl
@[simp] theorem setReg_acceptFrom (p : Partition) (n : RegName) (i : Nat) (v : DWord) : (setReg p n i v).acceptFrom = p.acceptFrom := rfl
@[simp] theorem setReg_osStopped (p : Partition) (n : RegName) (i : Nat) (v : DWord) : (setReg p n i v).osStopped = p.osStopped := rfl
@[simp] theorem setReg_stoppedForGood (p : Partition) (n : RegName) (i : Nat) (v : DWord) : (setReg p n i v).stoppedForGood = p.stoppedForGood := rfl
@[simp] theorem setReg_log (p : Partition) (n : RegName) (i : Nat) (v : DWord) : (setReg p n i v).log = p.log := rfl
@[simp] theorem setReg_logCount (p : Partition) (n : RegName) (i : Nat) (v : DWord) : (setReg p n i v).logCount = p.logCount := rfl
@[simp] theorem setReg_keys (p : Partition) (n : RegName) (i : Nat) (v : DWord) : (setReg p n i v).keys = p.keys := rfl
@[simp] theorem setReg_tokenSeq (p : Partition) (n : RegName) (i : Nat) (v : DWord) : (setReg p n i v).tokenSeq = p.tokenSeq := rfl
@[simp] theorem setReg_keyBusy (p : Partition) (n : RegName) (i : Nat) (v : DWord) : (setReg p n i v).keyBusy = p.keyBusy := rfl
@[simp] theorem setReg_saves (p : Partition) (n : RegName) (i : Nat) (v : DWord) : (setReg p n i v).saves = p.saves := rfl
@[simp] theorem setReg_restart (p : Partition) (n : RegName) (i : Nat) (v : DWord) : (setReg p n i v).restart = p.restart := rfl
@[simp] theorem setReg_restarts (p : Partition) (n : RegName) (i : Nat) (v : DWord) : (setReg p n i v).restarts = p.restarts := rfl
@[simp] theorem setReg_kernelDown (p : Partition) (n : RegName) (i : Nat) (v : DWord) : (setReg p n i v).kernelDown = p.kernelDown := rfl
@[simp] theorem setReg_monitorMail (p : Partition) (n : RegName) (i : Nat) (v : DWord) : (setReg p n i v).monitorMail = p.monitorMail := rfl
@[simp] theorem setReg_kernelImage (p : Partition) (n : RegName) (i : Nat) (v : DWord) : (setReg p n i v).kernelImage = p.kernelImage := rfl
@[simp] theorem setReg_kernelA0 (p : Partition) (n : RegName) (i : Nat) (v : DWord) : (setReg p n i v).kernelA0 = p.kernelA0 := rfl
@[simp] theorem setReg_snapshots (p : Partition) (n : RegName) (i : Nat) (v : DWord) : (setReg p n i v).snapshots = p.snapshots := rfl
@[simp] theorem setReg_bkptStops (p : Partition) (n : RegName) (i : Nat) (v : DWord) : (setReg p n i v).bkptStops = p.bkptStops := rfl
@[simp] theorem setReg_gpcSeen (p : Partition) (n : RegName) (i : Nat) (v : DWord) : (setReg p n i v).gpcSeen = p.gpcSeen := rfl
@[simp] theorem setReg_gpcErr (p : Partition) (n : RegName) (i : Nat) (v : DWord) : (setReg p n i v).gpcErr = p.gpcErr := rfl
@[simp] theorem setReg_debugSeen (p : Partition) (n : RegName) (i : Nat) (v : DWord) : (setReg p n i v).debugSeen = p.debugSeen := rfl
@[simp] theorem setSave_exists_ (p : Partition) (t : Nat) (m : FMap SaveItem) : (setSave p t m).exists_ = p.exists_ := rfl
@[simp] theorem setSave_regs (p : Partition) (t : Nat) (m : FMap SaveItem) : (setSave p t m).regs = p.regs := rfl
@[simp] theorem setSave_memKeys (p : Partition) (t : Nat) (m : FMap SaveItem) : (setSave p t m).memKeys = p.memKeys := rfl
@[simp] theorem setSave_meas3 (p : Partition) (t : Nat) (m : FMap SaveItem) : (setSave p t m).meas3 = p.meas3 := rfl
@[simp] theorem setSave_ringLeft (p : Partition) (t : Nat) (m : FMap SaveItem) : (setSave p t m).ringLeft = p.ringLeft := rfl
@[simp] theorem setSave_pending (p : Partition) (t : Nat) (m : FMap SaveItem) : (setSave p t m).pending = p.pending := rfl
@[simp] theorem setSave_credits (p : Partition) (t : Nat) (m : FMap SaveItem) : (setSave p t m).credits = p.credits := rfl
@[simp] theorem setSave_served (p : Partition) (t : Nat) (m : FMap SaveItem) : (setSave p t m).served = p.served := rfl
@[simp] theorem setSave_childCount (p : Partition) (t : Nat) (m : FMap SaveItem) : (setSave p t m).childCount = p.childCount := rfl
@[simp] theorem setSave_netCount (p : Partition) (t : Nat) (m : FMap SaveItem) : (setSave p t m).netCount = p.netCount := rfl
@[simp] theorem setSave_netWindow (p : Partition) (t : Nat) (m : FMap SaveItem) : (setSave p t m).netWindow = p.netWindow := rfl
@[simp] theorem setSave_choice (p : Partition) (t : Nat) (m : FMap SaveItem) : (setSave p t m).choice = p.choice := rfl
@[simp] theorem setSave_heldCompletions (p : Partition) (t : Nat) (m : FMap SaveItem) : (setSave p t m).heldCompletions = p.heldCompletions := rfl
@[simp] theorem setSave_heldEvents (p : Partition) (t : Nat) (m : FMap SaveItem) : (setSave p t m).heldEvents = p.heldEvents := rfl
@[simp] theorem setSave_tlb (p : Partition) (t : Nat) (m : FMap SaveItem) : (setSave p t m).tlb = p.tlb := rfl
@[simp] theorem setSave_walkCache (p : Partition) (t : Nat) (m : FMap SaveItem) : (setSave p t m).walkCache = p.walkCache := rfl
@[simp] theorem setSave_llc (p : Partition) (t : Nat) (m : FMap SaveItem) : (setSave p t m).llc = p.llc := rfl
@[simp] theorem setSave_fetches (p : Partition) (t : Nat) (m : FMap SaveItem) : (setSave p t m).fetches = p.fetches := rfl
@[simp] theorem setSave_shooting (p : Partition) (t : Nat) (m : FMap SaveItem) : (setSave p t m).shooting = p.shooting := rfl
@[simp] theorem setSave_counters (p : Partition) (t : Nat) (m : FMap SaveItem) : (setSave p t m).counters = p.counters := rfl
@[simp] theorem setSave_rootSeq (p : Partition) (t : Nat) (m : FMap SaveItem) : (setSave p t m).rootSeq = p.rootSeq := rfl
@[simp] theorem setSave_rootInbox (p : Partition) (t : Nat) (m : FMap SaveItem) : (setSave p t m).rootInbox = p.rootInbox := rfl
@[simp] theorem setSave_rootSlots (p : Partition) (t : Nat) (m : FMap SaveItem) : (setSave p t m).rootSlots = p.rootSlots := rfl
@[simp] theorem setSave_rootBarriers (p : Partition) (t : Nat) (m : FMap SaveItem) : (setSave p t m).rootBarriers = p.rootBarriers := rfl
@[simp] theorem setSave_out (p : Partition) (t : Nat) (m : FMap SaveItem) : (setSave p t m).out = p.out := rfl
@[simp] theorem setSave_inn (p : Partition) (t : Nat) (m : FMap SaveItem) : (setSave p t m).inn = p.inn := rfl
@[simp] theorem setSave_peerLines (p : Partition) (t : Nat) (m : FMap SaveItem) : (setSave p t m).peerLines = p.peerLines := rfl
@[simp] theorem setSave_peerOut (p : Partition) (t : Nat) (m : FMap SaveItem) : (setSave p t m).peerOut = p.peerOut := rfl
@[simp] theorem setSave_peerSides (p : Partition) (t : Nat) (m : FMap SaveItem) : (setSave p t m).peerSides = p.peerSides := rfl
@[simp] theorem setSave_forwards (p : Partition) (t : Nat) (m : FMap SaveItem) : (setSave p t m).forwards = p.forwards := rfl
@[simp] theorem setSave_trees (p : Partition) (t : Nat) (m : FMap SaveItem) : (setSave p t m).trees = p.trees := rfl
@[simp] theorem setSave_wire (p : Partition) (t : Nat) (m : FMap SaveItem) : (setSave p t m).wire = p.wire := rfl
@[simp] theorem setSave_netDev (p : Partition) (t : Nat) (m : FMap SaveItem) : (setSave p t m).netDev = p.netDev := rfl
@[simp] theorem setSave_osFrames (p : Partition) (t : Nat) (m : FMap SaveItem) : (setSave p t m).osFrames = p.osFrames := rfl
@[simp] theorem setSave_skewCount (p : Partition) (t : Nat) (m : FMap SaveItem) : (setSave p t m).skewCount = p.skewCount := rfl
@[simp] theorem setSave_cmd (p : Partition) (t : Nat) (m : FMap SaveItem) : (setSave p t m).cmd = p.cmd := rfl
@[simp] theorem setSave_yieldTo (p : Partition) (t : Nat) (m : FMap SaveItem) : (setSave p t m).yieldTo = p.yieldTo := rfl
@[simp] theorem setSave_acceptFrom (p : Partition) (t : Nat) (m : FMap SaveItem) : (setSave p t m).acceptFrom = p.acceptFrom := rfl
@[simp] theorem setSave_osStopped (p : Partition) (t : Nat) (m : FMap SaveItem) : (setSave p t m).osStopped = p.osStopped := rfl
@[simp] theorem setSave_stoppedForGood (p : Partition) (t : Nat) (m : FMap SaveItem) : (setSave p t m).stoppedForGood = p.stoppedForGood := rfl
@[simp] theorem setSave_log (p : Partition) (t : Nat) (m : FMap SaveItem) : (setSave p t m).log = p.log := rfl
@[simp] theorem setSave_logCount (p : Partition) (t : Nat) (m : FMap SaveItem) : (setSave p t m).logCount = p.logCount := rfl
@[simp] theorem setSave_keys (p : Partition) (t : Nat) (m : FMap SaveItem) : (setSave p t m).keys = p.keys := rfl
@[simp] theorem setSave_tokenSeq (p : Partition) (t : Nat) (m : FMap SaveItem) : (setSave p t m).tokenSeq = p.tokenSeq := rfl
@[simp] theorem setSave_keyBusy (p : Partition) (t : Nat) (m : FMap SaveItem) : (setSave p t m).keyBusy = p.keyBusy := rfl
@[simp] theorem setSave_restart (p : Partition) (t : Nat) (m : FMap SaveItem) : (setSave p t m).restart = p.restart := rfl
@[simp] theorem setSave_restarts (p : Partition) (t : Nat) (m : FMap SaveItem) : (setSave p t m).restarts = p.restarts := rfl
@[simp] theorem setSave_kernelDown (p : Partition) (t : Nat) (m : FMap SaveItem) : (setSave p t m).kernelDown = p.kernelDown := rfl
@[simp] theorem setSave_monitorMail (p : Partition) (t : Nat) (m : FMap SaveItem) : (setSave p t m).monitorMail = p.monitorMail := rfl
@[simp] theorem setSave_kernelImage (p : Partition) (t : Nat) (m : FMap SaveItem) : (setSave p t m).kernelImage = p.kernelImage := rfl
@[simp] theorem setSave_kernelA0 (p : Partition) (t : Nat) (m : FMap SaveItem) : (setSave p t m).kernelA0 = p.kernelA0 := rfl
@[simp] theorem setSave_snapshots (p : Partition) (t : Nat) (m : FMap SaveItem) : (setSave p t m).snapshots = p.snapshots := rfl
@[simp] theorem setSave_bkptStops (p : Partition) (t : Nat) (m : FMap SaveItem) : (setSave p t m).bkptStops = p.bkptStops := rfl
@[simp] theorem setSave_gpcSeen (p : Partition) (t : Nat) (m : FMap SaveItem) : (setSave p t m).gpcSeen = p.gpcSeen := rfl
@[simp] theorem setSave_gpcErr (p : Partition) (t : Nat) (m : FMap SaveItem) : (setSave p t m).gpcErr = p.gpcErr := rfl
@[simp] theorem setSave_debugSeen (p : Partition) (t : Nat) (m : FMap SaveItem) : (setSave p t m).debugSeen = p.debugSeen := rfl

end Sys2Proof.Machine
end

