-- ==== Sys2Proof/Laws/Memory.lean ====
section
/-! SUPPORT. Laws of memory: what a read gives after a write, and that every memory operation keeps the canonical form. -/

namespace Sys2Proof.Machine

open Sys2Proof

theorem cellsAbove_mono {lo lo' : Nat} {m : List Host.Cell} (h : cellsAbove lo m = true) (hl : lo' ≤ lo) :
    cellsAbove lo' m = true := by
  cases m with
  | nil => rfl
  | cons e m =>
    obtain ⟨k, b⟩ := e
    simp only [cellsAbove, Bool.and_eq_true, decide_eq_true_eq] at h ⊢
    exact ⟨⟨Nat.le_trans hl h.1.1, h.1.2⟩, h.2⟩

theorem cellRead_below {lo a : Nat} {m : List Host.Cell} (h : cellsAbove lo m = true) (ha : a < lo) : cellRead m a = 0 := by
  induction m generalizing lo with
  | nil => rfl
  | cons e m ih =>
    obtain ⟨k, b⟩ := e
    simp only [cellsAbove, Bool.and_eq_true, decide_eq_true_eq] at h
    have : a ≠ k := by omega
    simp only [cellRead, this, if_false]
    exact ih h.2 (by omega)

theorem cellPut_above {lo a : Nat} {b : Byte} {m : List Host.Cell} (h : cellsAbove lo m = true) (ha : lo ≤ a) (hb : b ≠ 0) :
    cellsAbove lo (cellPut m a b) = true := by
  induction m generalizing lo with
  | nil =>
    simp only [cellPut, cellsAbove, Bool.and_eq_true, decide_eq_true_eq]
    exact ⟨⟨ha, hb⟩, trivial⟩
  | cons e m ih =>
    obtain ⟨k, c⟩ := e
    simp only [cellsAbove, Bool.and_eq_true, decide_eq_true_eq] at h
    unfold cellPut
    split
    · simp only [cellsAbove, Bool.and_eq_true, decide_eq_true_eq]
      exact ⟨⟨ha, hb⟩, ⟨by omega, h.1.2⟩, h.2⟩
    · split
      · rename_i hk; subst hk
        simp only [cellsAbove, Bool.and_eq_true, decide_eq_true_eq]
        exact ⟨⟨ha, hb⟩, h.2⟩
      · simp only [cellsAbove, Bool.and_eq_true, decide_eq_true_eq]
        exact ⟨h.1, ih h.2 (by omega)⟩

theorem cellDel_above {lo a : Nat} {m : List Host.Cell} (h : cellsAbove lo m = true) : cellsAbove lo (cellDel m a) = true := by
  induction m generalizing lo with
  | nil => rfl
  | cons e m ih =>
    obtain ⟨k, c⟩ := e
    simp only [cellsAbove, Bool.and_eq_true, decide_eq_true_eq] at h
    unfold cellDel
    split
    · exact cellsAbove_mono h.2 (by omega)
    · simp only [cellsAbove, Bool.and_eq_true, decide_eq_true_eq]
      exact ⟨h.1, ih h.2⟩

/-- A write of a byte keeps the canonical form. -/
theorem cellWrite_wf {m : List Host.Cell} (h : Memory.wf m = true) (a : Nat) (b : Byte) :
    Memory.wf (cellWrite m a b) = true := by
  unfold cellWrite
  split
  · exact cellDel_above h
  · rename_i hb; exact cellPut_above h (Nat.zero_le a) hb

theorem cellsWrite_wf {m : List Host.Cell} (h : Memory.wf m = true) (a : Nat) (bs : List Byte) :
    Memory.wf (cellsWrite m a bs) = true := by
  induction bs generalizing m a with
  | nil => exact h
  | cons b bs ih => exact ih (cellWrite_wf h a b) (a + 1)

theorem cellsAbove_filter {lo : Nat} {m : List Host.Cell} (h : cellsAbove lo m = true) (p : Host.Cell → Bool) :
    cellsAbove lo (m.filter p) = true := by
  induction m generalizing lo with
  | nil => rfl
  | cons e m ih =>
    obtain ⟨k, b⟩ := e
    simp only [cellsAbove, Bool.and_eq_true, decide_eq_true_eq] at h
    rw [List.filter_cons]
    split
    · simp only [cellsAbove, Bool.and_eq_true, decide_eq_true_eq]
      exact ⟨h.1, ih h.2⟩
    · exact ih (cellsAbove_mono h.2 (by omega))

/-- Leaving out cells keeps the canonical form. -/
theorem filter_wf {m : List Host.Cell} (h : Memory.wf m = true) (p : Host.Cell → Bool) : Memory.wf (m.filter p) = true :=
  cellsAbove_filter h p

theorem cellRead_cellPut_same (m : List Host.Cell) (a : Nat) (b : Byte) : cellRead (cellPut m a b) a = b := by
  induction m with
  | nil => simp [cellPut, cellRead]
  | cons e m ih =>
    obtain ⟨k, c⟩ := e
    unfold cellPut
    split
    · simp [cellRead]
    · split
      · simp [cellRead]
      · simp [cellRead, *]

theorem cellRead_cellPut_other (m : List Host.Cell) {a k : Nat} (b : Byte) (h : k ≠ a) :
    cellRead (cellPut m a b) k = cellRead m k := by
  induction m with
  | nil => simp [cellPut, cellRead, h]
  | cons e m ih =>
    obtain ⟨j, c⟩ := e
    unfold cellPut
    split
    · simp [cellRead, h]
    · split
      · rename_i hj; subst hj; simp [cellRead, h]
      · simp [cellRead, ih]

theorem cellRead_cellDel_other (m : List Host.Cell) {a k : Nat} (h : k ≠ a) : cellRead (cellDel m a) k = cellRead m k := by
  induction m with
  | nil => rfl
  | cons e m ih =>
    obtain ⟨j, c⟩ := e
    unfold cellDel
    split
    · rename_i hj; subst hj; simp [cellRead, h]
    · simp [cellRead, ih]

theorem cellRead_cellDel_same {lo : Nat} {m : List Host.Cell} (h : cellsAbove lo m = true) (a : Nat) :
    cellRead (cellDel m a) a = 0 := by
  induction m generalizing lo with
  | nil => rfl
  | cons e m ih =>
    obtain ⟨k, c⟩ := e
    simp only [cellsAbove, Bool.and_eq_true, decide_eq_true_eq] at h
    unfold cellDel
    split
    · rename_i ha; subst ha; exact cellRead_below h.2 (Nat.lt_succ_self a)
    · rename_i ha; simp only [cellRead, ha, if_false]; exact ih h.2

/-- A read after a write to the same place gives the byte written. -/
theorem cellRead_cellWrite_same {m : List Host.Cell} (h : Memory.wf m = true) (a : Nat) (b : Byte) :
    cellRead (cellWrite m a b) a = b := by
  unfold cellWrite
  split
  · rename_i hb; rw [hb]; exact cellRead_cellDel_same h a
  · exact cellRead_cellPut_same m a b

/-- A write leaves every other place alone. -/
theorem cellRead_cellWrite_other (m : List Host.Cell) {a k : Nat} (b : Byte) (h : k ≠ a) :
    cellRead (cellWrite m a b) k = cellRead m k := by
  unfold cellWrite
  split
  · exact cellRead_cellDel_other m h
  · exact cellRead_cellPut_other m b h

theorem cellRead_cellsWrite_other (m : List Host.Cell) {a k : Nat} (bs : List Byte) (h : k < a ∨ a + bs.length ≤ k) :
    cellRead (cellsWrite m a bs) k = cellRead m k := by
  induction bs generalizing m a with
  | nil => rfl
  | cons b bs ih =>
    simp only [List.length_cons] at h
    unfold cellsWrite
    rw [ih (cellWrite m a b) (by omega), cellRead_cellWrite_other m b (by omega)]

theorem cellRead_cellsWrite_same {m : List Host.Cell} (h : Memory.wf m = true) (a : Nat) (bs : List Byte) (i : Nat)
    (hi : i < bs.length) : cellRead (cellsWrite m a bs) (a + i) = bs[i] := by
  induction bs generalizing m a i with
  | nil => simp at hi
  | cons b bs ih =>
    unfold cellsWrite
    cases i with
    | zero =>
      rw [cellRead_cellsWrite_other _ _ (by omega), Nat.add_zero, cellRead_cellWrite_same h]; rfl
    | succ i =>
      have := ih (cellWrite_wf h a b) (a + 1) i (by simpa using hi)
      rw [show a + (i + 1) = a + 1 + i by omega, this]; rfl

/-! ## The operations on physical memory keep the form -/

theorem unmarkZero_wf {s : State} (h : Memory.wf s.mem = true) (key line : Nat) :
    Memory.wf (unmarkZero s key line).mem = true := by
  unfold unmarkZero
  by_cases hz : setMem s.zeroLines line = true
  · rw [if_pos hz]; generalize leBytes 128 0 = bs; exact cellsWrite_wf h (128 * line) bs
  · rw [if_neg hz]; exact h

theorem rekeyUnit_wf {s : State} (h : Memory.wf s.mem = true) (p : Partition) (key u : Nat) :
    Memory.wf (rekeyUnit s p key u).mem = true := by
  unfold rekeyUnit
  split
  · exact h
  · exact cellsWrite_wf h _ _

theorem physWriteByte_wf {s : State} (h : Memory.wf s.mem = true) (p : Partition) (key pa : Nat) (b : Byte) :
    Memory.wf (physWriteByte s p key pa b).mem = true :=
  cellWrite_wf (rekeyUnit_wf (unmarkZero_wf h key (pa / 128)) p key (pa / 16)) pa b

theorem foldl_wf {α : Type} {f : State → α → State} (hf : ∀ s a, Memory.wf s.mem = true → Memory.wf (f s a).mem = true)
    (l : List α) {s : State} (h : Memory.wf s.mem = true) : Memory.wf (l.foldl f s).mem = true := by
  induction l generalizing s with
  | nil => exact h
  | cons a l ih => exact ih (hf s a h)

theorem physWrite_wf {s : State} (h : Memory.wf s.mem = true) (p : Partition) (key pa : Nat)
    (bs : List (Nat × Option Byte)) : Memory.wf (physWrite s p key pa bs).mem = true := by
  unfold physWrite
  refine foldl_wf (fun s u hs => ?_) _ (foldl_wf (fun s e hs => ?_) _ h)
  · split
    · exact hs
    · split <;> exact hs
  · split
    · exact physWriteByte_wf hs p key _ _
    · exact hs

theorem scrubFrame_wf {s : State} (h : Memory.wf s.mem = true) (f : Nat) : Memory.wf (scrubFrame s f).mem = true :=
  filter_wf h _

theorem reset_wf : Memory.wf State.reset.mem = true := rfl

end Sys2Proof.Machine
end

