-- ==== Sys2Proof/Safety.lean ====
section
/-! DEFINITION. What counts as a safe step and a safe run, and the terms in which claims speak of the state in which a word
takes its effect and of the state that it leaves. -/

namespace Sys2Proof.Machine

open Sys2Proof

/-- A step that goes on. -/
def StepSafe (s : State) : Prop := ∃ t, step s = .next t

/-- A run of `n` steps that goes on all along. -/
def RunSafe : Nat → State → Prop
  | 0, _ => True
  | n + 1, s => ∃ t, step s = .next t ∧ RunSafe n t

/-! ## Before a word -/

/-- No item of a list is pending (R46). -/
def Settled (w : Warp) (l : List PendItem) : Prop := ∀ i ∈ l, isPending w i = false

/-- Every name of a list has a row or a save slot (R11, R86). -/
def Mapped (w : Warp) (l : List Nat) : Prop := ∀ n ∈ l, nameOf w n ≠ .unmapped

/-- Every name of a list has a row of its own on the core (R11, R12). -/
def OwnRow (s : State) (x : Ctx) (l : List Nat) : Prop :=
  ∀ n ∈ l, ∃ r, nameOf x.w n = .resident r ∧ (rowOf (coreOf s x.c) r).count = 1

/-- A lane-wise word that can take its effect: some lane is selected, nothing that it names is pending, its names are
mapped, `t` is the state with its spilt names reloaded, and `u` the state with its destinations split off their shared
rows (R46, R52, R84, R86, R87). -/
structure LaneReady (s : State) (x : Ctx) (scalars : List PendItem) (srcs dsts : List Nat) (preds dpreds : List PendItem)
    (t u : State) : Prop where
  at_ : ctxOf s = some x
  lanes : narrowed x ≠ 0
  settled : Settled x.w (guardItems x ++ scalars ++ iNames srcs ++ preds ++ iNames dsts ++ dpreds)
  mapped : Mapped x.w (srcs ++ dsts)
  loaded : reloadNames s x (srcs ++ dsts) = .ok t
  split : splitNames t x (narrowed x ||| zeroLanes x) dsts = .ok u

/-- What a lane-wise word then works on. -/
def laneInOf (t : State) (x : Ctx) (srcs : List Nat) : LaneIn :=
  let rows := srcs.map (rowOfName t x)
  ⟨narrowed x, zeroLanes x, rows, rows.foldl (fun m r => m ||| (r.poison &&& narrowed x)) 0#32⟩

/-- Whether nothing that a word reads is poisoned in its lanes. -/
def Clean (i : LaneIn) : Prop := i.kills = 0

/-- The lanes of a global access on a state: what the word works on, whose first two sources are the address pair (R180). -/
def accsOf (t : State) (x : Ctx) (srcs : List Nat) : LaneAccs :=
  lanesOf (laneInOf t x srcs) 2 (pairAddr (laneInOf t x srcs))

/-- A global access that can be made: its names and lanes are ready, and are so still once its pages are walked and peers
asked; then no lane's access raises a cause (R180, R346). `t` and `u` are as for `LaneReady`. -/
structure AccessReady (s : State) (x : Ctx) (srcs dsts : List Nat) (n : Nat) (aligned : Bool) (k : Acc)
    (ask home : Bool) (t u : State) : Prop where
  walked : ∃ t₀ u₀, LaneReady s x [] srcs dsts [] [] t₀ u₀
    ∧ LaneReady (prepAccs s x (accsOf t₀ x srcs).accs n aligned k ask home) x [] srcs dsts [] [] t u
  good : ∀ e ∈ (accsOf t x srcs).accs, accCause t x e.2 n aligned k = none

/-- A scalar access that can be made, in the state `t` in which its page is walked (R180, R184). -/
structure ScalarAccessReady (s : State) (x : Ctx) (va n : Nat) (k : Acc) (ask : Bool) (t : State) : Prop where
  at_ : ctxOf s = some x
  walked : t = prepAccs s x [(0, va)] n false k ask false
  good : accCause t x va n false k = none

/-- A row operation that can access memory (R192, R193): some lane is active, its names are mapped and reloaded, before and
after its page is walked, and its row raises no cause. `t` is the state after that. -/
structure RowReady (s : State) (x : Ctx) (r : RowArg) (k : Acc) (t : State) : Prop where
  at_ : ctxOf s = some x
  active : ctxActive x ≠ 0
  mapped : Mapped x.w r.names
  walked : ∃ t₀, reloadNames s x r.names = .ok t₀ ∧ reloadNames (prepRow s x r k) x r.names = .ok t
  good : rowCause t x r k = none

/-- Whether no line of a list must be waited for (R216, R294, R346). -/
def LinesFree (s : State) (x : Ctx) (ls : List (Nat × Nat)) : Prop := ∀ l ∈ ls, lineHeld s x l.1 l.2 = false

/-! ## After a word -/

/-- The state after a word that has changed its warp and goes on to the next word. -/
def warpDone (s : State) (x : Ctx) (f : Warp → Warp) : State := advance (modW s x f) x .seq

/-- The state after a word that has written a scalar. -/
def scalarDone (s : State) (x : Ctx) (d : BitVec 6) (v : DWord) : State := warpDone s x (fun w => setS w d v)

/-- The rows of a lane-wise word's destinations written, lane by lane: zero in the lanes of a zero guard and in killed ones
(R52, R371). -/
def lanePut (u : State) (x : Ctx) (i : LaneIn) (outs : List (Nat × Row)) : State :=
  outs.foldl (fun s o => putLanes s x o.1 (i.nar ||| i.zero)
    (mkRow (fun l => if i.kills.getLsbD l || i.zero.getLsbD l then 0 else lane o.2 l)) i.kills) u

/-- The state after the kills of a word and the move past it. -/
def killDone (s : State) (x : Ctx) (kills : Mask) : State :=
  let k := killLanes s x kills .seq
  advance k.1 x k.2

/-- The state after a lane-wise word with name destinations. -/
def laneDone (u : State) (x : Ctx) (i : LaneIn) (outs : List (Nat × Row)) : State := killDone (lanePut u x i outs) x i.kills

/-- The state after a lane-wise word with a predicate destination. -/
def predDone (t : State) (x : Ctx) (i : LaneIn) (d : BitVec 4) (f : Nat → Bool) : State :=
  killDone (modW t x (fun w => setPLanes w d (i.nar ||| i.zero) (mkMask f &&& i.nar &&& ~~~i.kills))) x i.kills

/-- The state after a floating-point word: its codes written in the lanes that are selected and not killed, its conditions
raised (R78, R123). -/
def floatDone (u : State) (x : Ctx) (i : LaneIn) (dst : Nat) (f : Nat → Nat × Flags) : State :=
  let res := lanes.map (fun l => if (i.nar &&& ~~~i.kills).getLsbD l then f l else (0, Flags.none))
  killDone (raiseFlags (lanePut u x i [(dst, mkRow (fun l => BitVec.ofNat 32 (res.getD l (0, Flags.none)).1))])
    x.c x.slot (res.map (·.2))) x i.kills

/-- The state after a long-latency word that has issued: its operation is outstanding, its destinations are pending, the
lanes that consumed poison are killed (R45, R46). -/
def longDone (s : State) (x : Ctx) (items : List PendItem) (kind : LongKind) (names : List NameWrite)
    (scalars : List (Nat × DWord)) (lines : List (Nat × Nat)) (kill : Option PC) (kills : Mask) : State :=
  killDone (issueLong s x items kind names scalars lines kill).2 x kills

/-- The state after a word that has started an operation: its handle in sD, with its future tag (R224, R229). -/
def engineDone (s : State) (x : Ctx) (d : BitVec 6) (h : DWord) : State :=
  warpDone s x (fun w => { setS w d h with tags := fput w.tags d.toNat h })

/-- The state in which a word has been trapped (R272). -/
def trapped (s : State) (x : Ctx) (code : Nat) (tval : DWord) : State :=
  trapEnter s x.c x.slot x.sp.sec (trapAddr x.sp) code tval

/-- A transfer that can be made: its target passes the landing check of R56, or its block cannot be fetched and the check
waits until the path starts there. -/
def Lands (s : State) (x : Ctx) (pc : PC) (unchecked : Bool) : Prop :=
  landing s (partOf s x.pn) x.c (askPath x.c x.slot x.sp.sec) x.l.tenant pc = (if unchecked then .unfetched else .good)

/-- Whether the word is the last instruction word of its span (R43). -/
def LastWord (x : Ctx) : Prop := wordE (spanWord x.sp x.sp.idx) = true

/-! ## Frames -/

/-- Only one warp of one core, and the order stamp, may differ. -/
def OnlyWarp (s t : State) (c slot : Nat) : Prop :=
  ∃ w, t = { setWarp s c slot w with stamp := t.stamp }

/-- Nothing of a warp differs but its scalars with their tags, its predicates, its paths and its span in issue. -/
def KeepsRest (w v : Warp) : Prop :=
  v = { w with s := v.s, tags := v.tags, p := v.p, prim := v.prim, seco := v.seco, span := v.span }

/-- A path that has come to the end of its span: where it stands, with the live mask of a safe point, and what it waits for (R42, R50). -/
def pathLeft (p : Path) (pc : PC) (live : Option Word) (stamp : Nat) : Path :=
  { p with
    pc := pc, unchecked := false, eret := false, resume := 0, mmaDone := false, atSafePoint := live, endedAt := stamp
    state := if p.wait = .none then (if p.state = .joining then .joining else .ready) else .waiting }

/-- A warp has gone past a word (R42, R43): to the next word of the span, or out of it at its last. The other path stands still. -/
def MovedPast (x : Ctx) (stamp : Nat) (w v : Warp) : Prop :=
  pathOf v (!x.sp.sec) = pathOf w (!x.sp.sec)
    ∧ if wordE (spanWord x.sp x.sp.idx) then
        v.span = none ∧ pathOf v x.sp.sec = pathLeft (pathOf w x.sp.sec) (continuation x.sp) (liveWord x.sp) stamp
      else pathOf v x.sp.sec = pathOf w x.sp.sec ∧ v.span = some { x.sp with
        idx := x.sp.idx + 1 + dataWords (spanWord x.sp x.sp.idx), pfxa := none, pfxb := none, pfxAt := none, parked := false }

/-- Nothing of a path differs but where it goes on from, its state and its bookkeeping. -/
def KeepsPath (p q : Path) : Prop :=
  q = { p with
    pc := q.pc, state := q.state, resume := q.resume, wait := q.wait, mmaDone := q.mmaDone, unchecked := q.unchecked
    atSafePoint := q.atSafePoint, endedAt := q.endedAt }

end Sys2Proof.Machine
end

