-- ==== Sys2Proof/Certificates/Slice0/Obligations.lean ====
section
/-! DEFINITION. The statements for the provers. -/

open Sys2Proof Sys2Proof.Machine

/-! ## Scalar instructions (R99 to R103) -/

/-- The twelve scalar operations, in their register and immediate forms, write the value that R101 gives to sD and go on
to the next word. -/
def Obligations.ScalarOperations : Prop :=
  ∀ (s : State) (x : Ctx) (d a : BitVec 6), ctxOf s = some x →
    (∀ b : BitVec 6, Settled x.w [iS a, iS b, iS d] →
      let u := sReg x.w a
      let v := sReg x.w b
      exec (.sadd d a b) s = .next (scalarDone s x d (u + v))
      ∧ exec (.ssub d a b) s = .next (scalarDone s x d (u - v))
      ∧ exec (.smul d a b) s = .next (scalarDone s x d (u * v))
      ∧ exec (.smulh d a b) s = .next (scalarDone s x d ((u.signExtend 128 * v.signExtend 128).extractLsb' 64 64))
      ∧ exec (.sand d a b) s = .next (scalarDone s x d (u &&& v))
      ∧ exec (.sor d a b) s = .next (scalarDone s x d (u ||| v))
      ∧ exec (.sxor d a b) s = .next (scalarDone s x d (u ^^^ v))
      ∧ exec (.sshl d a b) s = .next (scalarDone s x d (if 64 ≤ v.toNat then 0 else u <<< v.toNat))
      ∧ exec (.sshr d a b) s = .next (scalarDone s x d (if 64 ≤ v.toNat then 0 else u >>> v.toNat))
      ∧ exec (.ssra d a b) s = .next (scalarDone s x d (u.sshiftRight v.toNat))
      ∧ exec (.smin d a b) s = .next (scalarDone s x d (if u.sle v then u else v))
      ∧ exec (.smax d a b) s = .next (scalarDone s x d (if u.sle v then v else u)))
    ∧ (∀ imm : BitVec 7, Settled x.w [iS a, iS d] →
      let u := sReg x.w a
      let v : DWord := imm.signExtend 64
      let z : DWord := imm.setWidth 64
      exec (.saddImm d a imm) s = .next (scalarDone s x d (u + v))
      ∧ exec (.ssubImm d a imm) s = .next (scalarDone s x d (u - v))
      ∧ exec (.smulImm d a imm) s = .next (scalarDone s x d (u * v))
      ∧ exec (.smulhImm d a imm) s = .next (scalarDone s x d ((u.signExtend 128 * v.signExtend 128).extractLsb' 64 64))
      ∧ exec (.sandImm d a imm) s = .next (scalarDone s x d (u &&& z))
      ∧ exec (.sorImm d a imm) s = .next (scalarDone s x d (u ||| z))
      ∧ exec (.sxorImm d a imm) s = .next (scalarDone s x d (u ^^^ z))
      ∧ exec (.sshlImm d a imm) s = .next (scalarDone s x d (if 64 ≤ z.toNat then 0 else u <<< z.toNat))
      ∧ exec (.sshrImm d a imm) s = .next (scalarDone s x d (if 64 ≤ z.toNat then 0 else u >>> z.toNat))
      ∧ exec (.ssraImm d a imm) s = .next (scalarDone s x d (u.sshiftRight z.toNat))
      ∧ exec (.sminImm d a imm) s = .next (scalarDone s x d (if u.sle v then u else v))
      ∧ exec (.smaxImm d a imm) s = .next (scalarDone s x d (if u.sle v then v else u)))

/-- SCMP writes 1 where the condition of its index holds and 0 where it does not, an immediate sign-extended in every
condition (R102). SSEL selects by the old value of sD; SLDI writes its sign-extended immediate; SLIT writes its literal
sign-extended, and SLIT.H its literal above the kept low half; SMOV copies the value and, with it, the future tag, and
every other write of a scalar clears the tag (R103, R224). -/
def Obligations.ScalarComparesAndMoves : Prop :=
  (∀ (s : State) (x : Ctx) (d a : BitVec 6) (cc : BitVec 3), ctxOf s = some x →
    let holds (u v : DWord) : Bool :=
      if cc = 0 then u == v else if cc = 1 then u != v else if cc = 2 then u.slt v else if cc = 3 then u.sle v
      else if cc = 4 then v.slt u else if cc = 5 then v.sle u else if cc = 6 then u.ult v else v.ule u
    (∀ b : BitVec 6, Settled x.w [iS a, iS b, iS d] →
      exec (.scmp cc d a b) s = .next (scalarDone s x d (if holds (sReg x.w a) (sReg x.w b) then 1 else 0)))
    ∧ (∀ imm : BitVec 7, Settled x.w [iS a, iS d] →
      exec (.scmpImm cc d a imm) s = .next (scalarDone s x d (if holds (sReg x.w a) (imm.signExtend 64) then 1 else 0))))
  ∧ (∀ (s : State) (x : Ctx) (d a b : BitVec 6) (imm : BitVec 14) (lit : Word), ctxOf s = some x →
    (Settled x.w [iS a, iS b, iS d] →
      exec (.ssel d a b) s = .next (scalarDone s x d (if sReg x.w d = 0 then sReg x.w b else sReg x.w a)))
    ∧ (Settled x.w [iS d] →
      exec (.sldi d imm) s = .next (scalarDone s x d (imm.signExtend 64))
      ∧ exec (.slit d 0 lit) s = .next (scalarDone s x d (lit.signExtend 64))
      ∧ exec (.slit d 1 lit) s = .next (scalarDone s x d (lit ++ (sReg x.w d).extractLsb' 0 32)))
    ∧ (Settled x.w [iS a, iS d] →
      (fget? x.w.tags a.toNat = none → exec (.smov d a) s = .next (scalarDone s x d (sReg x.w a)))
      ∧ (∀ h, fget? x.w.tags a.toNat = some h → exec (.smov d a) s = .next (warpDone s x (fun w =>
          { setS w d (sReg x.w a) with tags := fput w.tags d.toNat h })))))

/-- The scalar that a scalar instruction writes. -/
def scalarDest : Instr → Option (BitVec 6)
  | .sadd d _ _ | .ssub d _ _ | .smul d _ _ | .smulh d _ _ | .sand d _ _ | .sor d _ _ | .sxor d _ _ | .sshl d _ _
  | .sshr d _ _ | .ssra d _ _ | .smin d _ _ | .smax d _ _ | .scmp _ d _ _ | .saddImm d _ _ | .ssubImm d _ _
  | .smulImm d _ _ | .smulhImm d _ _ | .sandImm d _ _ | .sorImm d _ _ | .sxorImm d _ _ | .sshlImm d _ _
  | .sshrImm d _ _ | .ssraImm d _ _ | .sminImm d _ _ | .smaxImm d _ _ | .scmpImm _ d _ _ | .ssel d _ _ | .smov d _
  | .sldi d _ | .slit d _ _ | .pmov d _ => some d
  | _ => none

/-- What a word that writes one scalar leaves unchanged: everything outside its warp, every byte of memory, and of its warp
all but that scalar with its future tag and the move past the word. -/
def ScalarFrame (s t : State) (x : Ctx) (d : BitVec 6) : Prop :=
  OnlyWarp s t x.c x.slot ∧ (∀ a, cellRead t.mem a = cellRead s.mem a)
    ∧ ∃ v, warpOf? t x.c x.slot = some v ∧ KeepsRest x.w v ∧ v.p = x.w.p ∧ MovedPast x s.stamp x.w v
      ∧ ∀ k, k ≠ d → sReg v k = sReg x.w k ∧ fget? v.tags k.toNat = fget? x.w.tags k.toNat

/-- Frame of the scalar instructions (R99): a scalar instruction traps on an operand that is pending, or else writes nothing but
its destination. -/
def Obligations.ScalarFrameHolds : Prop :=
  ∀ (i : Instr) (d : BitVec 6) (s t : State) (x : Ctx), scalarDest i = some d → ctxOf s = some x →
    (launchOf s x.w.launch).term = none → exec i s = .next t →
    (∃ p, isPending x.w p = true ∧ t = trapped s x cPending (pendVal p)) ∨ ScalarFrame s t x d

/-! ## Vector integer instructions (R104 to R109) -/

/-- The integer operations of R105 and R107 on two names write the value of the table to each selected lane of vD, lane
by lane; without SAT the sums wrap, with SAT they are clamped to 32 bits signed (R106). -/
def Obligations.VectorIntegerPairs : Prop :=
  ∀ (s t u : State) (x : Ctx) (d a b : BitVec 7),
    LaneReady s x [] [winName x.w a, winName x.w b] [winName x.w d] [] [] t u →
    let i := laneInOf t x [winName x.w a, winName x.w b]
    let put (f : Word → Word → Word) : Host.Outcome State Fault Refusal :=
      .next (laneDone u x i [(winName x.w d, mkRow (fun l => f (i.src 0 l) (i.src 1 l)))])
    let clamp (v : Int) : Word := BitVec.ofInt 32 (max (-2147483648) (min 2147483647 v))
    let mask (y : Word) : Word :=
      if 32 ≤ y.toNat % 256 then 0
      else (if 32 ≤ y.toNat / 256 % 256 then 0xFFFFFFFF#32 else (1#32 <<< (y.toNat / 256 % 256)) - 1#32)
        <<< (y.toNat % 256)
    (satOf x = false → exec (.iadd d a b) s = put (fun p q => p + q) ∧ exec (.isub d a b) s = put (fun p q => p - q))
    ∧ (satOf x = true → exec (.iadd d a b) s = put (fun p q => clamp (p.toInt + q.toInt))
      ∧ exec (.isub d a b) s = put (fun p q => clamp (p.toInt - q.toInt)))
    ∧ exec (.imul d a b) s = put (fun p q => p * q)
    ∧ exec (.imulh d a b) s = put (fun p q => (p.signExtend 64 * q.signExtend 64).extractLsb' 32 32)
    ∧ exec (.iand d a b) s = put (fun p q => p &&& q)
    ∧ exec (.ior d a b) s = put (fun p q => p ||| q)
    ∧ exec (.ixor d a b) s = put (fun p q => p ^^^ q)
    ∧ exec (.ishl d a b) s = put (fun p q => if 32 ≤ q.toNat then 0 else p <<< q.toNat)
    ∧ exec (.ishr d a b) s = put (fun p q => if 32 ≤ q.toNat then 0 else p >>> q.toNat)
    ∧ exec (.isra d a b) s = put (fun p q => p.sshiftRight q.toNat)
    ∧ exec (.imin d a b) s = put (fun p q => if p.sle q then p else q)
    ∧ exec (.imax d a b) s = put (fun p q => if p.sle q then q else p)
    ∧ exec (.bfe d a b) s = put (fun p q => if 32 ≤ q.toNat % 256 then 0 else (p &&& mask q) >>> (q.toNat % 256))

/-- The immediate forms, the immediate sign-extended for the sums, products, minimum and maximum and zero-extended for
the others (R38, R105, R106). The integer operations on one name, on three names, and those that write a value of no
name: IABS, POPC, CLZ, BREV, MOV, IMAD, BFI, MOVS, LIT and LEA (R40, R105, R107, R109). -/
def Obligations.VectorIntegerOthers : Prop :=
  (∀ (s t u : State) (x : Ctx) (d a imm : BitVec 7),
    LaneReady s x [] [winName x.w a] [winName x.w d] [] [] t u →
    let i := laneInOf t x [winName x.w a]
    let put (f : Word → Word) : Host.Outcome State Fault Refusal :=
      .next (laneDone u x i [(winName x.w d, mkRow (fun l => f (i.src 0 l)))])
    let clamp (v : Int) : Word := BitVec.ofInt 32 (max (-2147483648) (min 2147483647 v))
    let q : Word := imm.signExtend 32
    let z : Word := imm.setWidth 32
    (satOf x = false → exec (.iaddImm d a imm) s = put (fun p => p + q) ∧ exec (.isubImm d a imm) s = put (fun p => p - q))
    ∧ (satOf x = true → exec (.iaddImm d a imm) s = put (fun p => clamp (p.toInt + q.toInt))
      ∧ exec (.isubImm d a imm) s = put (fun p => clamp (p.toInt - q.toInt)))
    ∧ exec (.imulImm d a imm) s = put (fun p => p * q)
    ∧ exec (.imulhImm d a imm) s = put (fun p => (p.signExtend 64 * q.signExtend 64).extractLsb' 32 32)
    ∧ exec (.iandImm d a imm) s = put (fun p => p &&& z)
    ∧ exec (.iorImm d a imm) s = put (fun p => p ||| z)
    ∧ exec (.ixorImm d a imm) s = put (fun p => p ^^^ z)
    ∧ exec (.ishlImm d a imm) s = put (fun p => if 32 ≤ z.toNat then 0 else p <<< z.toNat)
    ∧ exec (.ishrImm d a imm) s = put (fun p => if 32 ≤ z.toNat then 0 else p >>> z.toNat)
    ∧ exec (.israImm d a imm) s = put (fun p => p.sshiftRight z.toNat)
    ∧ exec (.iminImm d a imm) s = put (fun p => if p.sle q then p else q)
    ∧ exec (.imaxImm d a imm) s = put (fun p => if p.sle q then q else p))
  ∧ (∀ (s t u : State) (x : Ctx) (d a b : BitVec 7) (k : BitVec 6) (lit : Word),
    let nd := winName x.w d
    let na := winName x.w a
    let nb := winName x.w b
    let nc := winName x.w (thirdSource x d)
    (LaneReady s x [] [na] [nd] [] [] t u →
      let i := laneInOf t x [na]
      let put (f : Word → Word) : Host.Outcome State Fault Refusal :=
        .next (laneDone u x i [(nd, mkRow (fun l => f (i.src 0 l)))])
      exec (.iabs d a) s = put (fun p => if p.slt 0 then 0 - p else p)
      ∧ exec (.popc d a) s = put (fun p => BitVec.ofNat 32 ((List.range 32).countP (fun j => p.getLsbD j)))
      ∧ exec (.clz d a) s = put (fun p => if p = 0 then 32 else BitVec.ofNat 32 (31 - Nat.log2 p.toNat))
      ∧ exec (.brev d a) s = put (fun p => mkMask (fun j => p.getLsbD (31 - j)))
      ∧ exec (.mov d a) s = put (fun p => p))
    ∧ (LaneReady s x [] [na, nb, nc] [nd] [] [] t u →
      let i := laneInOf t x [na, nb, nc]
      let put (f : Word → Word → Word → Word) : Host.Outcome State Fault Refusal :=
        .next (laneDone u x i [(nd, mkRow (fun l => f (i.src 0 l) (i.src 1 l) (i.src 2 l)))])
      exec (.imad d a b) s = put (fun p q c => p * q + c)
      ∧ exec (.bfi d a b) s = put (fun p q c => (c &&& ~~~fieldMask q)
          ||| ((if 32 ≤ q.toNat % 256 then 0 else p <<< (q.toNat % 256)) &&& fieldMask q)))
    ∧ (LaneReady s x [iS k] [] [nd] [] [] t u →
      let i := laneInOf t x []
      exec (.movs d 0 k) s = .next (laneDone u x i [(nd, mkRow (fun _ => (sReg x.w k).extractLsb' 0 32))])
      ∧ exec (.movs d 1 k) s = .next (laneDone u x i [(nd, mkRow (fun _ => (sReg x.w k).extractLsb' 32 32))]))
    ∧ (LaneReady s x [] [] [nd] [] [] t u →
      exec (.lit d lit) s = .next (laneDone u x (laneInOf t x []) [(nd, mkRow (fun _ => lit))]))
    ∧ (LaneReady s x [iS k] [nb] [nd, winName x.w (d + 1)] [] [] t u →
      let i := laneInOf t x [nb]
      let pair (v : Nat → DWord) : Host.Outcome State Fault Refusal :=
        .next (laneDone u x i [(nd, mkRow (fun l => (v l).extractLsb' 0 32)),
          (winName x.w (d + 1), mkRow (fun l => (v l).extractLsb' 32 32))])
      exec (.lea d 0 k b) s = pair (fun l => sReg x.w k + (i.src 0 l).signExtend 64)
      ∧ exec (.lea d 1 k b) s = pair (fun l => sReg x.w k + (i.src 0 l).setWidth 64)))

/-- ICMP writes the condition of R102 to the selected lanes of pD (R108); IADDC adds with the carry in p15 and writes sum
and carry (R107). -/
def Obligations.VectorCompareAndCarry : Prop :=
  ∀ (s t u : State) (x : Ctx) (cc : BitVec 3) (p : BitVec 4) (d a b imm : BitVec 7),
    let holds (v w : Word) : Bool :=
      if cc = 0 then v == w else if cc = 1 then v != w else if cc = 2 then v.slt w else if cc = 3 then v.sle w
      else if cc = 4 then w.slt v else if cc = 5 then w.sle v else if cc = 6 then v.ult w else w.ule v
    (LaneReady s x [] [winName x.w a, winName x.w b] [] [] [.pred p.toNat] t u →
      let i := laneInOf t x [winName x.w a, winName x.w b]
      exec (.icmp cc p a b) s = .next (predDone t x i p (fun l => holds (i.src 0 l) (i.src 1 l))))
    ∧ (LaneReady s x [] [winName x.w a] [] [] [.pred p.toNat] t u →
      let i := laneInOf t x [winName x.w a]
      exec (.icmpImm cc p a imm) s = .next (predDone t x i p (fun l => holds (i.src 0 l) (imm.signExtend 32))))
    ∧ (LaneReady s x [] [winName x.w a, winName x.w b] [winName x.w d] [.pred 15] [.pred 15] t u →
      let i := laneInOf t x [winName x.w a, winName x.w b]
      let sum (l : Nat) : BitVec 33 := (i.src 0 l).setWidth 33 + (i.src 1 l).setWidth 33
        + (if (pReg x.w 15).getLsbD l then 1 else 0)
      exec (.iaddc d a b) s = .next (predDone (lanePut u x i [(winName x.w d, mkRow (fun l => (sum l).setWidth 32))]) x i 15
        (fun l => (sum l).getLsbD 32)))

/-- The predicate instructions (R110): PAND, POR, PXOR and PNOT write the lanes of ACTIVE and change nothing where it is
empty; PSET writes all lanes from a scalar and PMOV a scalar from all lanes. Votes (R143): ANY, ALL and BALLOT of a predicate over the
selected lanes into a scalar; ELECT (R147) marks the lowest selected lane and writes its number. -/
def Obligations.PredicateOperations : Prop :=
  (∀ (s : State) (x : Ctx) (d a b : BitVec 4) (k : BitVec 6), ctxOf s = some x →
    let put (v : Mask) : Host.Outcome State Fault Refusal :=
      .next (warpDone s x (fun w => setP w d ((pReg w d &&& ~~~ctxActive x) ||| (v &&& ctxActive x))))
    (ctxActive x ≠ 0 → Settled x.w [.pred a.toNat, .pred b.toNat, .pred d.toNat] →
      exec (.pand d a b) s = put (pReg x.w a &&& pReg x.w b)
      ∧ exec (.por d a b) s = put (pReg x.w a ||| pReg x.w b)
      ∧ exec (.pxor d a b) s = put (pReg x.w a ^^^ pReg x.w b))
    ∧ (ctxActive x ≠ 0 → Settled x.w [.pred a.toNat, .pred d.toNat] → exec (.pnot d a) s = put (~~~pReg x.w a))
    ∧ (ctxActive x = 0 → exec (.pand d a b) s = .next (advance s x .seq) ∧ exec (.por d a b) s = .next (advance s x .seq)
      ∧ exec (.pxor d a b) s = .next (advance s x .seq) ∧ exec (.pnot d a) s = .next (advance s x .seq))
    ∧ (Settled x.w [iS k, .pred d.toNat] →
      exec (.pset d k) s = .next (warpDone s x (fun w => setP w d ((sReg x.w k).extractLsb' 0 32))))
    ∧ (Settled x.w [.pred a.toNat, iS k] → exec (.pmov k a) s = .next (scalarDone s x k ((pReg x.w a).setWidth 64))))
  ∧ (∀ (s : State) (x : Ctx) (d : BitVec 6) (neg : BitVec 1) (p : BitVec 4), ctxOf s = some x → ctxActive x ≠ 0 →
    let n := narrowed x
    let v := n &&& (if neg = 1 then ~~~pReg x.w p else pReg x.w p)
    (Settled x.w (guardItems x ++ [.pred p.toNat, iS d]) →
      exec (.voteAny d neg p) s = .next (scalarDone s x d (if v = 0 then 0 else 1))
      ∧ exec (.voteAll d neg p) s = .next (scalarDone s x d (if n ≠ 0 ∧ v = n then 1 else 0))
      ∧ exec (.voteBal d neg p) s = .next (scalarDone s x d (v.setWidth 64)))
    ∧ (∀ low, Settled x.w (guardItems x ++ [iS d, .pred p.toNat]) → n.getLsbD low = true →
      (∀ l, l < low → n.getLsbD l = false) →
      exec (.elect p d) s = .next (warpDone s x (fun w =>
        setS (setPLanes w p (n ||| zeroLanes x) (1#32 <<< low)) d (BitVec.ofNat 64 low)))))

/-! ## Numbers as the spec gives them (R61 to R68)

The statements about floating-point words say what a code means, what it is to round an exact number once, and what each
operation makes of its operands, in real numbers and apart from the functions by which the machine computes them. -/

/-- The fields of a code (R61): its sign, its exponent field and its fraction. -/
def codeNeg (f : Fmt) (c : Nat) : Bool := c.testBit (f.width - 1)
def codeExp (f : Fmt) (c : Nat) : Nat := c / 2 ^ f.mBits % 2 ^ (f.width - 1 - f.mBits)
def codeFrac (f : Fmt) (c : Nat) : Nat := c % 2 ^ f.mBits

/-- What a code stands for where its exponent field is all ones (R61): E4M3 has one NaN of each sign there and no infinity. -/
def codeNan (f : Fmt) (c : Nat) : Bool :=
  codeExp f c == 2 ^ (f.width - 1 - f.mBits) - 1 && (if f = .e4m3 then codeFrac f c == 7 else codeFrac f c != 0)
def codeInf (f : Fmt) (c : Nat) : Bool :=
  f != .e4m3 && codeExp f c == 2 ^ (f.width - 1 - f.mBits) - 1 && codeFrac f c == 0

/-- A zero, and a signalling NaN (R61, R63). -/
def codeZero (f : Fmt) (c : Nat) : Bool := codeExp f c == 0 && codeFrac f c == 0
def codeSig (f : Fmt) (c : Nat) : Bool :=
  (f == .f32 || f == .f16 || f == .bf16) && codeNan f c && decide (codeFrac f c < 2 ^ (f.mBits - 1))

/-- The number that a finite code stands for (R61). -/
def codeNum (f : Fmt) (c : Nat) : ℚ :=
  let frac : ℚ := codeFrac f c / 2 ^ f.mBits
  (if codeNeg f c then -1 else 1)
    * (if codeExp f c = 0 then frac * 2 ^ f.minExp else (1 + frac) * 2 ^ ((codeExp f c : ℤ) - f.bias))

/-- The code of an infinity of a sign, or with .SAT of the largest finite number (R63, R68). -/
def infCode (f : Fmt) (sat neg : Bool) : Nat := signBits f neg + if sat then f.maxBits else f.infBits

/-- The whole number `k` that a magnitude `n` of a number of a sign is rounded to under a mode (R65). -/
def WholeRound (rm : Rm) (neg : Bool) (n : ℝ) (k : ℕ) : Prop :=
  match rm with
  | .rtz => (k : ℝ) ≤ n ∧ n < k + 1
  | .rup => if neg then (k : ℝ) ≤ n ∧ n < k + 1 else n ≤ k ∧ (k : ℝ) < n + 1
  | .rdn => if neg then n ≤ k ∧ (k : ℝ) < n + 1 else (k : ℝ) ≤ n ∧ n < k + 1
  | .rna => (k : ℝ) ≤ n + 1 / 2 ∧ n + 1 / 2 < k + 1
  | .rne => |n - k| ≤ 1 / 2 ∧ (|n - k| = 1 / 2 → k % 2 = 0)

/-- A nonzero exact number rounded once to a format, with its conditions (R65 to R68). `j` is its significand rounded as if
the exponent had no bounds, which says whether it overflows or is tiny; `k` is that of the result. -/
def Rounds (f : Fmt) (rm : Rm) (sat : Bool) (y : ℝ) (r : Nat × Flags) : Prop :=
  let neg := decide (y < 0)
  let free : ℝ := 2 ^ (Int.log 2 |y| - f.mBits)
  let ulp : ℝ := max free (2 ^ (f.minExp - f.mBits))
  ∃ j k : ℕ, WholeRound rm neg (|y| / free) j ∧ WholeRound rm neg (|y| / ulp) k
    ∧ ((codeNum f f.maxBits : ℝ) < j * free →
      r.2 = { of_ := true, nx := true }
      ∧ r.1 = if sat ∨ rm = .rtz ∨ (rm = .rup ∧ neg = true) ∨ (rm = .rdn ∧ neg = false) then infCode f true neg
        else if f = .e4m3 then f.nanBits else infCode f false neg)
    ∧ (j * free ≤ (codeNum f f.maxBits : ℝ) →
      r.2 = { uf := decide (j * free < 2 ^ f.minExp ∧ k * ulp ≠ |y|), nx := decide (k * ulp ≠ |y|) }
      ∧ r.1 < 2 ^ f.width ∧ codeNan f r.1 = false ∧ codeInf f r.1 = false ∧ codeNeg f r.1 = neg
      ∧ |(codeNum f r.1 : ℝ)| = k * ulp)

/-- An exact number rounded once, a zero of the given sign (R65). -/
def RoundsTo (f : Fmt) (rm : Rm) (sat : Bool) (y : ℝ) (zneg : Bool) (r : Nat × Flags) : Prop :=
  (y = 0 → r = (signBits f zneg, Flags.none)) ∧ (y ≠ 0 → Rounds f rm sat y r)

/-- The sum of two codes, or with `flip` their difference (R65, R68, R126). -/
def SumOf (f : Fmt) (rm : Rm) (sat flip : Bool) (p q : Nat) (r : Nat × Flags) : Prop :=
  let np := codeNeg f p
  let nq := codeNeg f q != flip
  if codeNan f p || codeNan f q then r = (f.nanBits, { nv := codeSig f p || codeSig f q })
  else if codeInf f p && codeInf f q && np != nq then r = (f.nanBits, { nv := true })
  else if codeInf f p then r = (infCode f sat np, Flags.none)
  else if codeInf f q then r = (infCode f sat nq, Flags.none)
  else RoundsTo f rm sat (codeNum f p + (if flip then -1 else 1) * codeNum f q) (if np = nq then np else rm == .rdn) r

/-- The product of two codes (R65, R68, R126). -/
def ProductOf (f : Fmt) (rm : Rm) (sat : Bool) (p q : Nat) (r : Nat × Flags) : Prop :=
  let neg := codeNeg f p != codeNeg f q
  if codeNan f p || codeNan f q then r = (f.nanBits, { nv := codeSig f p || codeSig f q })
  else if codeInf f p && codeZero f q || codeZero f p && codeInf f q then r = (f.nanBits, { nv := true })
  else if codeInf f p || codeInf f q then r = (infCode f sat neg, Flags.none)
  else RoundsTo f rm sat (codeNum f p * codeNum f q) neg r

/-- p × q + c, rounded once (R65, R68, R126): a product of 0 and ∞ is invalid whatever c is. -/
def FusedOf (f : Fmt) (rm : Rm) (sat : Bool) (p q c : Nat) (r : Nat × Flags) : Prop :=
  let neg := codeNeg f p != codeNeg f q
  let zeroInf := codeInf f p && codeZero f q || codeZero f p && codeInf f q
  let prodInf := codeInf f p || codeInf f q
  if codeNan f p || codeNan f q || codeNan f c || zeroInf then
    r = (f.nanBits, { nv := codeSig f p || codeSig f q || codeSig f c || zeroInf })
  else if prodInf && codeInf f c && neg != codeNeg f c then r = (f.nanBits, { nv := true })
  else if prodInf then r = (infCode f sat neg, Flags.none)
  else if codeInf f c then r = (infCode f sat (codeNeg f c), Flags.none)
  else RoundsTo f rm sat (codeNum f p * codeNum f q + codeNum f c) (if neg = codeNeg f c then neg else rm == .rdn) r

/-- A code of one floating-point format converted to another (R68, R131). -/
def ConvertsTo (fs fd : Fmt) (rm : Rm) (sat : Bool) (c : Nat) (r : Nat × Flags) : Prop :=
  let neg := codeNeg fs c
  if codeNan fs c then r = (fd.nanBits, { nv := codeSig fs c })
  else if codeInf fs c then
    (if fd = .e4m3 then r = (if sat then infCode fd true neg else fd.nanBits, { nv := true })
      else r = (infCode fd sat neg, Flags.none))
  else RoundsTo fd rm sat (codeNum fs c) neg r

/-- A finite number converted to an integer type with the bounds `lo` and `hi` (R68): rounded to an integer, then clamped. -/
def ToInteger (lo hi : Int) (rm : Rm) (y : ℚ) (r : Int × Flags) : Prop :=
  ∃ k : ℕ, WholeRound rm (decide (y < 0)) |(y : ℝ)| k ∧
    let v : Int := if y < 0 then -(k : Int) else k
    r = if v < lo then (lo, { nv := true }) else if hi < v then (hi, { nv := true })
      else (v, { nx := decide ((v : ℚ) ≠ y) })

/-- The extended number of a code that is no NaN: +0 and −0 are equal (R128). -/
def codeOrd (f : Fmt) (c : Nat) : WithBot (WithTop ℚ) :=
  if codeInf f c then (if codeNeg f c then ⊥ else ((⊤ : WithTop ℚ) : WithBot (WithTop ℚ)))
  else ((codeNum f c : WithTop ℚ) : WithBot (WithTop ℚ))

/-- Whether one code is not above another, −0 below +0 (R127). -/
def CodeLe (f : Fmt) (p q : Nat) : Prop :=
  codeOrd f p < codeOrd f q ∨ (codeOrd f p = codeOrd f q ∧ (codeNeg f p = true ∨ codeNeg f q = false))

/-- The smaller or larger of two codes (R127). -/
def SelectsOf (f : Fmt) (larger : Bool) (p q : Nat) (c : Nat) : Prop :=
  if codeNan f p || codeNan f q then c = f.nanBits
  else (c = p ∨ c = q) ∧ (if larger then CodeLe f p c ∧ CodeLe f q c else CodeLe f c p ∧ CodeLe f c q)

/-! ## Floating-point instructions (R123 to R138) -/

/-- FCVT between floating-point formats, to and from INT8, UINT8 and INT32 (R64, R68, R130, R131). -/
def convertedBy (fs fd : Option Fmt) (src dst : Nat) (rm : Rm) (sat : Bool) (w : Word) (r : Nat × Flags) : Prop :=
  let bounds (ty : Nat) : Int × Int := if ty = 5 then (-128, 127) else if ty = 6 then (0, 255) else (-2147483648, 2147483647)
  let int : Int := if src = 5 then (w.extractLsb' 0 8).toInt else if src = 6 then (w.extractLsb' 0 8).toNat else w.toInt
  let place (v : Int) : Nat :=
    (if dst = 5 then (BitVec.ofInt 8 v).signExtend 32 else if dst = 6 then (BitVec.ofInt 8 v).setWidth 32
      else BitVec.ofInt 32 v).toNat
  let lo := (bounds dst).1
  let hi := (bounds dst).2
  match fs, fd with
  | some p, some q => ConvertsTo p q rm sat (w.toNat % 2 ^ p.width) r
  | some p, none =>
    let c := w.toNat % 2 ^ p.width
    if codeNan p c then r = (place 0, { nv := true })
    else if codeInf p c then r = (place (if codeNeg p c then lo else hi), { nv := true })
    else ∃ v, ToInteger lo hi rm (codeNum p c) v ∧ r = (place v.1, v.2)
  | none, some q => RoundsTo q rm sat (int : ℚ) false r
  | none, none => r = (place (if sat then max lo (min hi int) else int), Flags.none)

/-- FADD, FSUB, FMUL, FFMA and their packed forms, in the word's format, mode and saturation (R126, R129): each lane's
element is the exact sum, difference, product or fused sum rounded once, with the special cases and conditions of R63 to
R68. FCVT (R130, R131): for each pair of distinct type codes, the source element rounded once to the destination, placed in
the low bits of the lane. -/
def Obligations.FloatArithmeticAndConversions : Prop :=
  ∀ (s t u : State) (x : Ctx) (d a b : BitVec 7) (dst : BitVec 3) (src : BitVec 4),
    let nd := winName x.w d
    let na := winName x.w a
    let nb := winName x.w b
    let nc := winName x.w (thirdSource x d)
    let f := fmtOf x .f32
    let h := fmtOf x .f16
    let rm := rmOf x
    let both (g : Nat → Nat × Flags) : Nat × Flags := ((g 0).1 + 2 ^ 16 * (g 1).1, (g 0).2.join (g 1).2)
    let elem (w : Word) (e : Nat) : Nat := w.toNat / 2 ^ (16 * e) % 2 ^ 16
    let code (w : Word) : Nat := w.toNat % 2 ^ f.width
    (LaneReady s x [] [na, nb] [nd] [] [] t u →
      let i := laneInOf t x [na, nb]
      let put (g : Nat → Nat → Nat × Flags) : Host.Outcome State Fault Refusal :=
        .next (floatDone u x i nd (fun l => g (code (i.src 0 l)) (code (i.src 1 l))))
      let put2 (g : Nat → Nat → Nat × Flags) : Host.Outcome State Fault Refusal :=
        .next (floatDone u x i nd (fun l => both (fun e => g (elem (i.src 0 l) e) (elem (i.src 1 l) e))))
      (∃ g, (∀ p q, p < 2 ^ f.width → q < 2 ^ f.width → SumOf f rm (satOf x) false p q (g p q))
        ∧ exec (.fadd d a b) s = put g)
      ∧ (∃ g, (∀ p q, p < 2 ^ f.width → q < 2 ^ f.width → SumOf f rm (satOf x) true p q (g p q))
        ∧ exec (.fsub d a b) s = put g)
      ∧ (∃ g, (∀ p q, p < 2 ^ f.width → q < 2 ^ f.width → ProductOf f rm (satOf x) p q (g p q))
        ∧ exec (.fmul d a b) s = put g)
      ∧ (h = .f16 ∨ h = .bf16 →
        (∃ g, (∀ p q, p < 2 ^ 16 → q < 2 ^ 16 → SumOf h rm (satOf x) false p q (g p q)) ∧ exec (.hadd2 d a b) s = put2 g)
        ∧ (∃ g, (∀ p q, p < 2 ^ 16 → q < 2 ^ 16 → ProductOf h rm (satOf x) p q (g p q)) ∧ exec (.hmul2 d a b) s = put2 g)))
    ∧ (LaneReady s x [] [na, nb, nc] [nd] [] [] t u →
      let i := laneInOf t x [na, nb, nc]
      (∃ g : Nat → Nat → Nat → Nat × Flags, (∀ p q c, p < 2 ^ f.width → q < 2 ^ f.width → c < 2 ^ f.width →
          FusedOf f rm (satOf x) p q c (g p q c))
        ∧ exec (.ffma d a b) s = .next (floatDone u x i nd (fun l =>
          g (code (i.src 0 l)) (code (i.src 1 l)) (code (i.src 2 l)))))
      ∧ (h = .f16 ∨ h = .bf16 →
        ∃ g : Nat → Nat → Nat → Nat × Flags, (∀ p q c, p < 2 ^ 16 → q < 2 ^ 16 → c < 2 ^ 16 → FusedOf h rm (satOf x) p q c (g p q c))
          ∧ exec (.hfma2 d a b) s = .next (floatDone u x i nd (fun l => both (fun e =>
            g (elem (i.src 0 l) e) (elem (i.src 1 l) e) (elem (i.src 2 l) e))))))
    ∧ (LaneReady s x [] [na] [nd] [] [] t u → src.toNat ≤ 7 → src.toNat ≠ dst.toNat →
      let fmt (ty : Nat) : Option Fmt := if ty = 0 then some .f32 else if ty = 1 then some .f16 else if ty = 2 then some .bf16
        else if ty = 3 then some .e4m3 else if ty = 4 then some .e5m2 else none
      let i := laneInOf t x [na]
      ∃ g : Word → Nat × Flags, (∀ w, convertedBy (fmt src.toNat) (fmt dst.toNat) src.toNat dst.toNat rm (satOf x) w (g w))
        ∧ exec (.fcvt dst d a src) s = .next (floatDone u x i nd (fun l => g (i.src 0 l))))

/-- RoundRNE of an exact number to FP32, as a number (R132). -/
def Rne (y z : ℝ) : Prop :=
  ∃ r, RoundsTo .f32 .rne false y false r ∧ codeInf .f32 r.1 = false ∧ z = codeNum .f32 r.1

/-- The FP32 constant of a code. -/
def k32 (c : Nat) : ℝ := codeNum .f32 c

/-- A positive number in the form of Decompose: m × 2^e with 1 ≤ m < 2, `i` being the top `n` bits of the fraction (R132). -/
def Decomposed (y m : ℝ) (e : ℤ) (n i : ℕ) : Prop :=
  y = m * 2 ^ e ∧ 1 ≤ m ∧ m < 2 ∧ (i : ℝ) ≤ (m - 1) * 2 ^ n ∧ (m - 1) * 2 ^ n < i + 1

/-- A chain of steps h := Fma(u, h, c) from a first h over a list of constants (R132). -/
def Horner (u : ℝ) : ℝ → List Nat → ℝ → Prop
  | h, [], z => z = h
  | h, c :: cs, z => ∃ k, Rne (u * h + k32 c) k ∧ Horner u k cs z

/-- Lines 01 to 08 of R133 up to the rounding of line 08, of a positive number. -/
def RcpCore (y z : ℝ) : Prop :=
  ∃ m e i rt u h, Decomposed y m e 6 i ∧ Rne (1 / (1 + i / 64)) rt ∧ Rne (m * rt - 1) u
    ∧ Horner u (k32 0x3F800000) [0xBF800000, 0x3F800000, 0xBF800000, 0x3F800000] h ∧ z = rt * h * 2 ^ (-e)

/-- Lines 01 to 09 of R134 up to the rounding of line 09. -/
def RsqCore (y z : ℝ) : Prop :=
  ∃ (m : ℝ) (e : ℤ) (j : ℕ) (rs u h : ℝ), Decomposed y m e 5 j ∧
    let a : ℤ := e % 2
    Rne (1 / Real.sqrt (2 ^ a * (1 + j / 32))) rs ∧ Rne (m * 2 ^ a * rs * rs - 1) u
    ∧ Horner u (k32 0x3E8C0000) [0xBEA00000, 0x3EC00000, 0xBF000000, 0x3F800000] h ∧ z = rs * h * 2 ^ (-((e - a) / 2))

/-- Lines 03 to 07 of R135 up to the rounding of line 07. -/
def Ex2Core (y z : ℝ) : Prop :=
  ∃ et h, let kk : ℤ := ⌊y * 64⌋
    let j : ℤ := kk % 64
    Rne ((2 : ℝ) ^ ((j : ℝ) / 64)) et
    ∧ Horner ((y * 64 - kk) / 64) (k32 0x3D635847) [0x3E75FDF0, 0x3F317218, 0x3F800000] h ∧ z = et * h * 2 ^ ((kk - j) / 64)

/-- Lines 01 to 07 of R136 up to the rounding of line 07, on the table LL as worked out in `tabLL` (notes/assumptions/17.md). -/
def Lg2Core (y z : ℝ) : Prop :=
  ∃ (m : ℝ) (e : ℤ) (i : ℕ) (rt u h q : ℝ) (lm : ℕ) (le : ℤ), Decomposed y m e 6 i ∧ Rne (1 / (1 + i / 64)) rt
    ∧ Rne (m * rt - 1) u ∧ Horner u (k32 0xBEB8AA3B) [0x3EF6384F, 0xBF38AA3B, 0x3FB8AA3B] h ∧ Rne (u * h) q
    ∧ tabLL i = .fin false lm le ∧ z = e + lm * 2 ^ le + q

/-- Lines 03 to 11 of R137 up to the rounding of y, of a positive number below 10. -/
def TanhCore (y z : ℝ) : Prop :=
  if y < 1 / 4 then
    ∃ w h k, Rne (y * y) w ∧ Horner w (k32 0x3CB327A3) [0xBD5D0DB2, 0x3E088889, 0xBEAAAAAB] h ∧ Rne (w * h) k
      ∧ z = y + y * k
  else
    ∃ v e g n c q, Rne (y * k32 0x4038AA3B) v ∧ Ex2Core v e ∧ Rne e g ∧ Rne (g + 1) n ∧ RcpCore n c ∧ Rne c q ∧ z = 1 - 2 * q

/-- The special functions (R132 to R138): the values of the table for the operands that the algorithms do not take, and else
the last step of the algorithm, rounded once with its conditions, FSQRT under the mode. The clause on FLG2 stands on the table LL as the
model works it out from R136 (`tabLL`, notes/assumptions/17.md, DEDUCED), which is the model's reading and no table of the spec. -/
def Obligations.FloatSpecialFunctions : Prop :=
  ∀ (s t u : State) (x : Ctx) (d a : BitVec 7), LaneReady s x [] [winName x.w a] [winName x.w d] [] [] t u →
    let i := laneInOf t x [winName x.w a]
    let sat := satOf x
    let nan : Nat × Flags := (0x7FC00000, { nv := true })
    let signed (c : Nat) (v : Nat) : Nat := signBits .f32 (codeNeg .f32 c) + v
    let num (c : Nat) : ℝ := codeNum .f32 c
    -- the values of R138 that do not come from an algorithm, by kind of operand: zero, +∞, −∞, and below 0 where that is invalid
    let does (ins : Instr) (zero : Nat → Nat × Flags) (pinf ninf : Nat × Flags) (below : Bool)
        (core : Nat → Nat × Flags → Prop) : Prop :=
      ∃ g : Nat → Nat × Flags, (∀ c, c < 2 ^ 32 →
        if codeNan .f32 c then g c = (0x7FC00000, { nv := codeSig .f32 c })
        else if codeInf .f32 c then g c = (if codeNeg .f32 c then ninf else pinf)
        else if codeZero .f32 c then g c = zero c
        else if below && codeNeg .f32 c then g c = nan
        else core c (g c))
      ∧ exec ins s = .next (floatDone u x i (winName x.w d) (fun l => g (i.src 0 l).toNat))
    does (.frcp d a) (fun c => (infCode .f32 sat (codeNeg .f32 c), { dz := true })) (0, Flags.none) (0x80000000, Flags.none) false
      (fun c r => ∃ z, RcpCore |num c| z ∧ RoundsTo .f32 .rne sat (if codeNeg .f32 c then -z else z) (codeNeg .f32 c) r)
    ∧ does (.frsq d a) (fun c => (infCode .f32 sat (codeNeg .f32 c), { dz := true })) (0, Flags.none) nan true
      (fun c r => ∃ z, RsqCore (num c) z ∧ RoundsTo .f32 .rne sat z false r)
    ∧ does (.fsqrt d a) (fun c => (signed c 0, Flags.none)) (infCode .f32 sat false, Flags.none) nan true
      (fun c r => RoundsTo .f32 (rmOf x) sat (Real.sqrt (num c)) false r)
    ∧ does (.fex2 d a) (fun _ => (0x3F800000, Flags.none)) (infCode .f32 sat false, Flags.none) (0, Flags.none) false
      (fun c r => if 128 ≤ num c then r = (infCode .f32 sat false, { of_ := true, nx := true })
        else if num c < -150 then r = (0, { uf := true, nx := true })
        else ∃ z, Ex2Core (num c) z ∧ RoundsTo .f32 .rne sat z false r)
    ∧ does (.flg2 d a) (fun _ => (infCode .f32 sat true, { dz := true })) (infCode .f32 sat false, Flags.none) nan true
      (fun c r => ∃ z, Lg2Core (num c) z ∧ RoundsTo .f32 .rne sat z false r)
    ∧ does (.ftanh d a) (fun c => (signed c 0, Flags.none)) (0x3F800000, Flags.none) (0xBF800000, Flags.none) false
      (fun c r => if 10 ≤ |num c| then r = (signed c 0x3F800000, { nx := true })
        else ∃ z v, TanhCore |num c| z ∧ RoundsTo .f32 .rne sat z false v ∧ r = (signed c v.1, v.2))

/-- The fourteen relations of FCMP (R128): each writes to the selected lanes of pD whether it holds, +0 equal to −0; a
signalling NaN is invalid in every one, a quiet NaN in LT, LE, GT and GE. FMIN and FMAX select an operand, FABS and FNEG clear
and invert the sign (R127). -/
def Obligations.FloatComparesAndSelections : Prop :=
  ∀ (s t u : State) (x : Ctx) (p : BitVec 4) (d a b : BitVec 7),
    let nd := winName x.w d
    let na := winName x.w a
    let nb := winName x.w b
    let f := fmtOf x .f32
    let code (w : Word) : Nat := w.toNat % 2 ^ f.width
    (LaneReady s x [] [na, nb] [] [] [.pred p.toNat] t u →
      let i := laneInOf t x [na, nb]
      let act := i.nar &&& ~~~i.kills
      let sets (ins : Instr) (loud : Bool) (rel : Bool → WithBot (WithTop ℚ) → WithBot (WithTop ℚ) → Prop) : Prop :=
        ∃ g : Nat → Nat → Bool × Flags,
          (∀ v w, v < 2 ^ f.width → w < 2 ^ f.width →
            let uno := codeNan f v || codeNan f w
            ((g v w).1 = true ↔ rel uno (codeOrd f v) (codeOrd f w))
            ∧ (g v w).2 = { nv := codeSig f v || codeSig f w || (loud && uno) })
          ∧ exec ins s = (let res := lanes.map (fun l =>
              if act.getLsbD l then g (code (i.src 0 l)) (code (i.src 1 l)) else (false, Flags.none))
            .next (killDone (raiseFlags (modW t x (fun w => setPLanes w p (i.nar ||| i.zero)
              (mkMask (fun l => (res.getD l (false, Flags.none)).1)))) x.c x.slot (res.map (·.2))) x i.kills))
      sets (.fcmpEq p a b) false (fun uno v w => uno = false ∧ v = w)
      ∧ sets (.fcmpLt p a b) true (fun uno v w => uno = false ∧ v < w)
      ∧ sets (.fcmpLe p a b) true (fun uno v w => uno = false ∧ v ≤ w)
      ∧ sets (.fcmpGt p a b) true (fun uno v w => uno = false ∧ w < v)
      ∧ sets (.fcmpGe p a b) true (fun uno v w => uno = false ∧ w ≤ v)
      ∧ sets (.fcmpNe p a b) false (fun uno v w => uno = false ∧ v ≠ w)
      ∧ sets (.fcmpOrd p a b) false (fun uno _ _ => uno = false)
      ∧ sets (.fcmpUno p a b) false (fun uno _ _ => uno = true)
      ∧ sets (.fcmpEqu p a b) false (fun uno v w => uno = true ∨ v = w)
      ∧ sets (.fcmpLtu p a b) false (fun uno v w => uno = true ∨ v < w)
      ∧ sets (.fcmpLeu p a b) false (fun uno v w => uno = true ∨ v ≤ w)
      ∧ sets (.fcmpGtu p a b) false (fun uno v w => uno = true ∨ w < v)
      ∧ sets (.fcmpGeu p a b) false (fun uno v w => uno = true ∨ w ≤ v)
      ∧ sets (.fcmpNeu p a b) false (fun uno v w => uno = true ∨ v ≠ w))
    ∧ (LaneReady s x [] [na, nb] [nd] [] [] t u →
      let i := laneInOf t x [na, nb]
      let picks (ins : Instr) (larger : Bool) : Prop := ∃ g : Nat → Nat → Nat,
        (∀ v w, v < 2 ^ f.width → w < 2 ^ f.width → SelectsOf f larger v w (g v w))
        ∧ exec ins s = .next (floatDone u x i nd (fun l =>
          let v := code (i.src 0 l)
          let w := code (i.src 1 l)
          (g v w, { nv := codeSig f v || codeSig f w })))
      picks (.fmin d a b) false ∧ picks (.fmax d a b) true)
    ∧ (LaneReady s x [] [na] [nd] [] [] t u →
      let i := laneInOf t x [na]
      let rest := 2 ^ (f.width - 1)
      let put (g : Nat → Nat) : Host.Outcome State Fault Refusal := .next (floatDone u x i nd (fun l =>
        let c := code (i.src 0 l)
        (if codeNan f c then f.nanBits else g c, Flags.none)))
      exec (.fabs d a) s = put (fun c => c % rest)
      ∧ exec (.fneg d a) s = put (fun c => if codeNeg f c then c % rest else c % rest + rest))

/-! ## Cross-lane instructions (R139 to R147) -/

/-- SHFL and BCAST: a selected lane whose source lane is selected takes that lane's word and gets 1 in p14; one whose
source lane is not keeps its own word and gets 0; a lane that consumes poison is killed (R139, R141, R142). -/
def Obligations.LaneTransfers : Prop :=
  ∀ (s t u : State) (x : Ctx) (d a b : BitVec 7) (k : BitVec 6),
    let nd := winName x.w d
    let na := winName x.w a
    let nb := winName x.w b
    let done (i : LaneIn) (pick : Nat → Nat) (own : Bool) : Host.Outcome State Fault Refusal :=
      let src (l : Nat) : Nat := if i.nar.getLsbD (pick l) then pick l else l
      let bad (j l : Nat) : Bool := (i.srcs.getD j freeRow).poison.getLsbD l
      let kills := mkMask (fun l => i.nar.getLsbD l && ((own && bad 1 l) || bad 0 (src l)))
      .next (killDone (modW (lanePut u x { i with kills := kills } [(nd, mkRow (fun l => i.src 0 (src l)))]) x (fun w =>
        setPLanes w 14 (i.nar ||| i.zero) (mkMask (fun l => i.nar.getLsbD (pick l)) &&& i.nar &&& ~~~kills))) x kills)
    (LaneReady s x [] [na, nb] [nd] [] [.pred 14] t u →
      let i := laneInOf t x [na, nb]
      let group (w l : Nat) : Nat := l - l % w + (i.src 1 l).toNat % w
      exec (.shfl2 d a b) s = done i (group 2) true ∧ exec (.shfl4 d a b) s = done i (group 4) true
      ∧ exec (.shfl8 d a b) s = done i (group 8) true ∧ exec (.shfl16 d a b) s = done i (group 16) true
      ∧ exec (.shfl32 d a b) s = done i (group 32) true)
    ∧ (LaneReady s x [] [na] [nd] [] [.pred 14] t u → Settled x.w [iS k] →
      exec (.bcast d a k) s = done (laneInOf t x [na]) (fun _ => (sReg x.w k).toNat % 32) false)

/-- MATCH and SCAN write each selected lane (R144, R145); REDUX and FREDUX combine the selected lanes in lane order, and
in the fixed tree, into a scalar (R73, R74, R145, R146): FREDUX's sums are exact sums rounded once under RNE. -/
def Obligations.MatchScanAndReductions : Prop :=
  let two (op : BitVec 3) (v w : Word) : Word :=
    if op = 0 then v + w else if op = 1 then (if v.sle w then v else w) else if op = 2 then (if v.sle w then w else v)
    else if op = 3 then (if v.ule w then v else w) else if op = 4 then (if v.ule w then w else v)
    else if op = 5 then v &&& w else if op = 6 then v ||| w else v ^^^ w
  let ident (op : BitVec 3) : Word :=
    if op = 1 then 0x7FFFFFFF#32 else if op = 2 then 0x80000000#32 else if op = 3 ∨ op = 5 then 0xFFFFFFFF#32 else 0#32
  let whole (op : BitVec 3) (i : LaneIn) (m : Mask) : Word :=
    lanes.foldl (fun acc l => if m.getLsbD l then two op acc (i.src 0 l) else acc) (ident op)
  (∀ (s t u : State) (x : Ctx) (d a : BitVec 7) (ex : BitVec 1) (op : BitVec 3),
    LaneReady s x [] [winName x.w a] [winName x.w d] [] [] t u →
    let i := laneInOf t x [winName x.w a]
    let live := i.nar &&& ~~~i.kills
    let put (f : Nat → Word) : Host.Outcome State Fault Refusal := .next (laneDone u x i [(winName x.w d, mkRow f)])
    exec (.matchAny d a) s = put (fun l => mkMask (fun j => live.getLsbD j && i.src 0 j == i.src 0 l))
    ∧ exec (.matchAll d a) s = put (fun l =>
        if lanes.all (fun j => !i.nar.getLsbD j || j == l || (!i.kills.getLsbD j && i.src 0 j == i.src 0 l)) then i.nar else 0)
    ∧ exec (.scan d a ex op) s = put (fun l =>
        whole op i (mkMask (fun j => live.getLsbD j && (decide (j < l) || (j == l && ex == 0))))))
  ∧ (∀ (s t u : State) (x : Ctx) (d : BitVec 6) (a : BitVec 7) (op : BitVec 3) (fop : BitVec 2),
    LaneReady s x [] [winName x.w a] [] [] [] t u → Settled x.w (guardItems x ++ [.name (winName x.w a), iS d]) →
    let i := laneInOf t x [winName x.w a]
    let live := i.nar &&& ~~~i.kills
    let v := whole op i live
    exec (.redux d a op) s = .next (killDone (modW t x (fun w => setS w d
        (if op.toNat ≤ 2 then v.signExtend 64 else v.setWidth 64))) x i.kills)
    ∧ (let f := fmtOf x .f32
      let none_ := if fop = 0 then 0 else if fop = 1 then 0xFF800000 else 0x7F800000
      fop ≠ 3 → ∃ (leaf : Nat → Nat × Flags) (join : Nat → Nat → Nat × Flags),
        (∀ c, c < 2 ^ f.width →
          if f = .f32 then leaf c = (c, { nv := codeSig f c }) else ConvertsTo f .f32 .rne false c (leaf c))
        ∧ (∀ v w, v < 2 ^ 32 → w < 2 ^ 32 →
          if codeNan .f32 v || codeNan .f32 w then join v w = (0x7FC00000, Flags.none)
          else if fop = 0 then SumOf .f32 .rne false false v w (join v w)
          else SelectsOf .f32 (fop == 1) v w (join v w).1 ∧ (join v w).2 = Flags.none)
        ∧ (let both (p q : Nat × Flags) : Nat × Flags :=
            ((join p.1 q.1).1, (p.2.join q.2).join (join p.1 q.1).2)
          let r := (tree32 both (lanes.map (fun l =>
            if live.getLsbD l then some (leaf ((i.src 0 l).toNat % 2 ^ f.width)) else none))).getD (none_, Flags.none)
          exec (.fredux d a fop) s
            = .next (killDone (raiseFlags (modW t x (fun w => setS w d (BitVec.ofNat 64 r.1))) x.c x.slot [r.2]) x i.kills))))

/-- What a lane-wise word checks, in the order of its fields: the scalars that it reads or writes, the names that it reads and those that
it writes, the predicates that it reads lane by lane and those that it writes so (R46, R121). -/
structure LaneUses where
  scalars : List PendItem
  srcs : List Nat
  dsts : List Nat
  preds : List PendItem
  dpreds : List PendItem

/-- The lane-wise words: vector integer, ICMP, vector floating point, conversions, special functions, and the cross-lane words but for
votes, which write a scalar in any case (R121). -/
def laneUses (x : Ctx) : Instr → Option LaneUses
  | .iadd d a b | .isub d a b | .imul d a b | .imulh d a b | .iand d a b | .ior d a b | .ixor d a b | .ishl d a b | .ishr d a b
  | .isra d a b | .imin d a b | .imax d a b | .bfe d a b | .fadd d a b | .fsub d a b | .fmul d a b | .fmin d a b | .fmax d a b
  | .hadd2 d a b | .hmul2 d a b => some ⟨[], [winName x.w a, winName x.w b], [winName x.w d], [], []⟩
  | .iaddImm d a _ | .isubImm d a _ | .imulImm d a _ | .imulhImm d a _ | .iandImm d a _ | .iorImm d a _ | .ixorImm d a _
  | .ishlImm d a _ | .ishrImm d a _ | .israImm d a _ | .iminImm d a _ | .imaxImm d a _ | .iabs d a | .popc d a | .clz d a
  | .brev d a | .mov d a | .fabs d a | .fneg d a | .fcvt _ d a _ | .frcp d a | .frsq d a | .fsqrt d a | .fex2 d a | .flg2 d a
  | .ftanh d a | .matchAny d a | .matchAll d a | .scan d a _ _ => some ⟨[], [winName x.w a], [winName x.w d], [], []⟩
  | .imad d a b | .bfi d a b | .ffma d a b | .hfma2 d a b =>
    some ⟨[], [winName x.w a, winName x.w b, winName x.w (thirdSource x d)], [winName x.w d], [], []⟩
  | .iaddc d a b => some ⟨[], [winName x.w a, winName x.w b], [winName x.w d], [.pred 15], [.pred 15]⟩
  | .icmp _ p a b | .fcmpEq p a b | .fcmpLt p a b | .fcmpLe p a b | .fcmpGt p a b | .fcmpGe p a b | .fcmpNe p a b | .fcmpOrd p a b
  | .fcmpUno p a b | .fcmpEqu p a b | .fcmpLtu p a b | .fcmpLeu p a b | .fcmpGtu p a b | .fcmpGeu p a b | .fcmpNeu p a b =>
    some ⟨[], [winName x.w a, winName x.w b], [], [], [.pred p.toNat]⟩
  | .icmpImm _ p a _ => some ⟨[], [winName x.w a], [], [], [.pred p.toNat]⟩
  | .movs d _ k => some ⟨[iS k], [], [winName x.w d], [], []⟩
  | .lit d _ => some ⟨[], [], [winName x.w d], [], []⟩
  | .lea d _ k b => some ⟨[iS k], [winName x.w b], [winName x.w d, winName x.w (d + 1)], [], []⟩
  | .shfl2 d a b | .shfl4 d a b | .shfl8 d a b | .shfl16 d a b | .shfl32 d a b =>
    some ⟨[], [winName x.w a, winName x.w b], [winName x.w d], [], [.pred 14]⟩
  | .bcast d a k => some ⟨[iS k], [winName x.w a], [winName x.w d], [], [.pred 14]⟩
  | .redux k a _ | .fredux k a _ => some ⟨[iS k], [winName x.w a], [], [], []⟩
  | .elect p k => some ⟨[iS k], [], [], [], [.pred p.toNat]⟩
  | _ => none

/-- The scalar that a lane-wise word writes, if any. -/
def laneScalar : Instr → Option (BitVec 6)
  | .redux k _ _ | .fredux k _ _ | .elect _ k => some k
  | _ => none

/-- The lane-wise words that raise conditions (R78). -/
def laneRaises : Instr → Bool
  | .fadd .. | .fsub .. | .fmul .. | .fmin .. | .fmax .. | .hadd2 .. | .hmul2 .. | .ffma .. | .hfma2 .. | .fcvt .. | .frcp .. | .frsq ..
  | .fsqrt .. | .fex2 .. | .flg2 .. | .ftanh .. | .fabs .. | .fneg .. | .fcmpEq .. | .fcmpLt .. | .fcmpLe .. | .fcmpGt .. | .fcmpGe ..
  | .fcmpNe .. | .fcmpOrd .. | .fcmpUno .. | .fcmpEqu .. | .fcmpLtu .. | .fcmpLeu .. | .fcmpGtu .. | .fcmpGeu .. | .fcmpNeu ..
  | .fredux .. => true
  | _ => false

/-- A lane-wise word of which no lane is selected, and no lane is zeroed, changes nothing and goes on, whatever its names, once its
guard, if a lane is active, and its scalars are not pending (R46, R52, R121). -/
def Obligations.NoLaneNoEffect : Prop :=
  ∀ (i : Instr) (s : State) (x : Ctx) (q : LaneUses), laneUses x i = some q → ctxOf s = some x →
    narrowed x = 0 → zeroLanes x = 0 → (ctxActive x ≠ 0 → Settled x.w (guardItems x)) → Settled x.w q.scalars →
    exec i s = .next (advance s x .seq)

/-- Frame of the lane-wise words where nothing that they read is poisoned (R13, R46, R52, R78, R87, R121): from the state `u` in which
their names are reloaded and split off shared rows, they change only the selected and zeroed lanes of the rows of their
destinations, the scalar and the predicates that they write, and, where they raise conditions, the flags of FPSR, which only rise, and
the core's counters; and their warp goes past the word. Every byte of memory stays. -/
def Obligations.LaneFrame : Prop :=
  ∀ (i : Instr) (s t u : State) (x : Ctx) (q : LaneUses) (w₀ : Warp), laneUses x i = some q →
    LaneReady s x q.scalars q.srcs q.dsts q.preds q.dpreds t u → Clean (laneInOf t x q.srcs) →
    warpOf? u x.c x.slot = some w₀ → (launchOf u w₀.launch).term = none →
    (∀ n ∈ q.dsts, ∃ r, entryOf u x n = .resident r ∧ r < 24576) →
    let sel := narrowed x ||| zeroLanes x
    ∃ v w, exec i s = .next v ∧ warpOf? v x.c x.slot = some w
      ∧ v = { u with cores := v.cores, stamp := v.stamp }
      ∧ (∀ c, c ≠ x.c → coreOf v c = coreOf u c)
      ∧ coreOf v x.c = { coreOf u x.c with
          rows := (coreOf v x.c).rows, warps := (coreOf v x.c).warps, xcnt := (coreOf v x.c).xcnt }
      ∧ (∀ j, j ≠ x.slot → warpOf? v x.c j = warpOf? u x.c j)
      ∧ (∀ r, (∀ n ∈ q.dsts, entryOf u x n ≠ .resident r) → rowOf (coreOf v x.c) r = rowOf (coreOf u x.c) r)
      ∧ (∀ n ∈ q.dsts, ∀ r, entryOf u x n = .resident r →
        (rowOf (coreOf v x.c) r).count = (rowOf (coreOf u x.c) r).count ∧ (rowOf (coreOf v x.c) r).tag = (rowOf (coreOf u x.c) r).tag
        ∧ (rowOf (coreOf v x.c) r).poison = (rowOf (coreOf u x.c) r).poison &&& ~~~sel
        ∧ ∀ l, l < 32 → (sel.getLsbD l = false →
            lane (rowOf (coreOf v x.c) r).words l = lane (rowOf (coreOf u x.c) r).words l)
          ∧ ((zeroLanes x).getLsbD l = true → lane (rowOf (coreOf v x.c) r).words l = 0))
      ∧ KeepsRest { w₀ with fpsr := w.fpsr } w ∧ MovedPast x u.stamp w₀ w
      ∧ w.fpsr &&& w₀.fpsr = w₀.fpsr ∧ w.fpsr &&& ~~~0x3F00#64 = w₀.fpsr &&& ~~~0x3F00#64
      ∧ (laneRaises i = false → w.fpsr = w₀.fpsr ∧ (coreOf v x.c).xcnt = (coreOf u x.c).xcnt)
      ∧ (∀ k, laneScalar i ≠ some k → sReg w k = sReg w₀ k ∧ fget? w.tags k.toNat = fget? w₀.tags k.toNat)
      ∧ (∀ k, .pred k.toNat ∉ q.dpreds → pReg w k = pReg w₀ k)
      ∧ (∀ k l, sel.getLsbD l = false → (pReg w k).getLsbD l = (pReg w₀ k).getLsbD l)

/-! ## The rename map (R81 to R98) -/

/-- MAP and MAPR drop what each name held and give it a fresh row of its own, in order; where not all rows can be had the
instruction traps with MAP_NO_ROW and has no effect (R82, R83, R90). R275 gives TVAL as the number of rows beyond the quota; where the
quota suffices and the pool does not, the number of rows that are missing is the model's choice (notes/assumptions/32.md). -/
def Obligations.MapGivesFreshRows : Prop :=
  ∀ (s t : State) (x : Ctx) (d : BitVec 7) (n : BitVec 5) (rs : List Nat) (missing : Nat), ctxOf s = some x →
    let names := winRun x.w d (n.toNat + 1)
    let u := (names.zip rs).foldl (fun s e => replaceEntry s x e.1 (.resident e.2)) t
    let beyond := overQuota u x.c x.w.launch missing
    allocRows s x names.length = (t, rs, missing) → Settled x.w (iNames names) →
    let gives (z : State) : Prop := exec (.mapr d n) s = .next z ∧ (n = 0 → exec (.map d) s = .next z)
    (beyond ≤ overQuota s x.c x.w.launch 0 → missing = 0 → gives (advance u x .seq))
    ∧ (beyond > overQuota s x.c x.w.launch 0 → gives (trapped s x cNoRow (BitVec.ofNat 64 beyond)))
    ∧ (beyond ≤ overQuota s x.c x.w.launch 0 → missing ≠ 0 → gives (trapped s x cNoRow (BitVec.ofNat 64 missing)))

/-- A row that AllocRow takes from the pool was free, and it has count 1, the launch's tenant as its tag, no poison and
the words it is given; no other row changes (R83). Drop(n) leaves the name UNMAPPED; a row with other references loses
one, the last reference frees it (R82). -/
def Obligations.RowsAreTakenAndReleased : Prop :=
  (∀ (s t : State) (c l r : Nat) (words : Row), anyRowFree (coreOf s c) = true →
    takeRow s c l words 0 = some (r, t) →
    (rowOf (coreOf s c) r).count = 0
    ∧ rowOf (coreOf t c) r = ⟨words, 1, (launchOf s l).tenant, 0⟩
    ∧ (∀ q, q ≠ r → rowOf (coreOf t c) q = rowOf (coreOf s c) q)
    ∧ t.mem = s.mem ∧ t.parts = s.parts ∧ ∀ e, e ≠ c → coreOf t e = coreOf s e)
  ∧ (∀ (s : State) (c slot n r : Nat) (w : Warp), warpOf? s c slot = some w → nameOf w n = .resident r → r < 24576 →
    let t := dropName s c slot n
    (∃ v, warpOf? t c slot = some v ∧ v = setName w n .unmapped)
    ∧ ((rowOf (coreOf s c) r).count ≤ 1 → rowOf (coreOf t c) r = freeRow)
    ∧ ((rowOf (coreOf s c) r).count > 1 → rowOf (coreOf t c) r
        = { rowOf (coreOf s c) r with count := (rowOf (coreOf s c) r).count - 1 })
    ∧ ∀ q, q ≠ r → rowOf (coreOf t c) q = rowOf (coreOf s c) q)

/-- Every name of a list that has a row has one with the launch's tenant as its tag (R85). -/
def Tagged (s : State) (x : Ctx) (l : List Nat) : Prop :=
  ∀ n ∈ l, ∀ r, entryOf s x n = .resident r → (rowOf (coreOf s x.c) r).tag = x.l.tenant

/-- UNMAP and UNMAPM drop the names they select; MOVN, SWPN and ROTN reload the names they move, spilt ones too, move entries and
change no count; ALIAS takes one reference more to the source's row; COPYN copies it into a fresh row (R84, R91 to R93). A row
with another tenant's tag is not moved: MAP_TENANT (R85). -/
def Obligations.MapMovesEntries : Prop :=
  ∀ (s t : State) (x : Ctx) (d a : BitVec 7) (k : BitVec 6) (n j : BitVec 5), ctxOf s = some x →
    let nd := winName x.w d
    let na := winName x.w a
    let run := winRun x.w d (n.toNat + 1)
    let blocks := (List.range 512).filter (fun m => (sReg x.w k).getLsbD (m / 32))
    (Settled x.w [.name nd] → exec (.unmap d) s = .next (advance (dropName s x.c x.slot nd) x .seq))
    ∧ (Settled x.w (iS k :: iNames blocks) → exec (.unmapm k) s
        = .next (advance (blocks.foldl (fun s m => dropName s x.c x.slot m) s) x .seq))
    ∧ (Settled x.w (iNames [na, nd]) →
      (na = nd → reloadNames s x [na] = .ok t → exec (.movn d a) s = .next (advance t x .seq))
      ∧ (na ≠ nd → Mapped x.w [na] → reloadNames s x [na] = .ok t →
        (Tagged t x [na] → exec (.movn d a) s
          = .next (advance (replaceEntry (putEntry t x na .unmapped) x nd (entryOf t x na)) x .seq))
        ∧ (∀ r, entryOf t x na = .resident r → (rowOf (coreOf t x.c) r).tag ≠ x.l.tenant →
          exec (.movn d a) s = .next (trapped s x cTenant (BitVec.ofNat 64 r))
          ∧ exec (.aliasN d a) s = .next (trapped s x cTenant (BitVec.ofNat 64 r))))
      ∧ (reloadNames s x [na, nd] = .ok t → Tagged t x [na, nd] → exec (.swpn d a) s
        = .next (advance (putEntry (putEntry t x na (entryOf t x nd)) x nd (entryOf t x na)) x .seq))
      ∧ (∀ r, Mapped x.w [na] → reloadNames s x [na] = .ok t → entryOf t x na = .resident r →
        (rowOf (coreOf t x.c) r).tag = x.l.tenant → (rowOf (coreOf t x.c) r).count ≠ 4095 →
        exec (.aliasN d a) s
          = .next (advance (replaceEntry (addRef t x.c x.l.tenant r) x nd (.resident r)) x .seq))
      ∧ (∀ r u, Mapped x.w [na] → reloadNames s x [na] = .ok t →
        takeRow t x.c x.w.launch (rowOfName t x na).words (rowOfName t x na).poison = some (r, u) →
        let v := replaceEntry u x nd (.resident r)
        overQuota v x.c x.w.launch 0 ≤ overQuota t x.c x.w.launch 0 →
        exec (.copyn d a) s = .next (advance v x .seq)))
    ∧ (Settled x.w (iNames run) → reloadNames s x run = .ok t → Tagged t x run → exec (.rotn d n j) s
        = .next (advance ((List.range run.length).foldl (fun s i => putEntry s x (run.getD i 0)
          ((run.map (entryOf t x)).getD ((i + j.toNat) % run.length) .unmapped)) t) x .seq))

/-- Hand-off slots (R94, R95): GIVE appends its reference to the slot and leaves its name UNMAPPED; TAKE moves the head reference
to its name, whose old reference is dropped; TAKEQ does so where there is one and says whether there was. Beyond the quota a
reference is not taken (MAP_NO_ROW), nor is one to a row of another tenant (MAP_TENANT). A span that begins with a GIVE to a full
slot or a TAKE from an empty one does not start, and one that stands before such a word waits, letting its issue slot go
(notes/assumptions/58.md). That the room is looked for before the tag is the model's order (notes/assumptions/62.md). -/
def Obligations.HandOffSlots : Prop :=
  ∀ (s t : State) (x : Ctx) (h : BitVec 6) (d a : BitVec 7) (p : BitVec 4), ctxOf s = some x →
    h.toNat < recHos x.l.record →
    let nd := winName x.w d
    let na := winName x.w a
    let refs := slotRefs s x h.toNat
    (x.sp.idx = 1 → Settled x.w [.name na] →
      (8 ≤ refs.length → exec (.give h a) s = .next (parkHere s x.c x.slot))
      ∧ (∀ r, refs.length < 8 → Mapped x.w [na] → reloadNames s x [na] = .ok t → refOfEntry (entryOf t x na) = some r →
        exec (.give h a) s
          = .next (advance (putEntry (setSlot t x h.toNat (slotRefs t x h.toNat ++ [r])) x na .unmapped) x .seq)))
    ∧ (x.sp.idx = 1 → Settled x.w [.name nd] → refs = [] → exec (.take d h) s = .next (parkHere s x.c x.slot))
    ∧ (Settled x.w [.pred p.toNat, .name nd] → slotTaken s x.c x.w.launch h.toNat = true →
      exec (.takeq d h p) s = .next (parkHere s x.c x.slot))
    ∧ (Settled x.w [.pred p.toNat, .name nd] → slotTaken s x.c x.w.launch h.toNat = false → refs = [] →
      exec (.takeq d h p) s = .next (warpDone s x (fun w => setP w p 0)))
    ∧ (∀ (r : Nat) (rest : List Nat), refs = r :: rest →
      let u := putEntry (dropName (setSlot s x h.toNat rest) x.c x.slot nd) x nd (entryOfRef r)
      let claim := overQuota u x.c x.w.launch 0
      let takes (z z' : State) : Prop := (x.sp.idx = 1 → Settled x.w [.name nd] → exec (.take d h) s = .next z)
        ∧ (Settled x.w [.pred p.toNat, .name nd] → slotTaken s x.c x.w.launch h.toNat = false → exec (.takeq d h p) s = .next z')
      ((fkeys (clOf s x.c x.w.launch).hslots).Pairwise (· < ·) → slotRefs u x h.toNat = rest ∧ entryOf u x nd = entryOfRef r
        ∧ ∀ q, nameOf x.w nd = .resident q → q < 24576 → rowOf (coreOf u x.c) q = if (rowOf (coreOf s x.c) q).count ≤ 1 then freeRow
          else { rowOf (coreOf s x.c) q with count := (rowOf (coreOf s x.c) q).count - 1 })
      ∧ (claim ≤ overQuota s x.c x.w.launch 0 → (refRow s x.c x.l.tenant r).tag = x.l.tenant →
        takes (advance u x .seq) (warpDone u x (fun w => setP w p 0xFFFFFFFF)))
      ∧ (claim > overQuota s x.c x.w.launch 0 →
        takes (trapped s x cNoRow (BitVec.ofNat 64 claim)) (trapped s x cNoRow (BitVec.ofNat 64 claim)))
      ∧ (claim ≤ overQuota s x.c x.w.launch 0 → r < 24576 → (refRow s x.c x.l.tenant r).tag ≠ x.l.tenant →
        takes (trapped s x cTenant (BitVec.ofNat 64 r)) (trapped s x cTenant (BitVec.ofNat 64 r))))
    ∧ (∀ (w : Warp) (sec : Bool) (sp : Span), (pathOf w sec).resume = 0 → w.launch = x.w.launch →
      h.toNat < recHos (launchOf s w.launch).record →
      (decodeWord (spanWord sp 1) 0 = some (.give h a) → 8 ≤ refs.length → startHolds s x.c x.pn w sec sp = false)
      ∧ (decodeWord (spanWord sp 1) 0 = some (.take d h) → refs = [] → startHolds s x.c x.pn w sec sp = false))

/-- ISMAP writes to the lanes of ACTIVE whether the name has a row whose word is not poisoned; MAPQ writes the name's map
word; WBASE writes the window base (R97, R98). -/
def Obligations.MapQueries : Prop :=
  ∀ (s : State) (x : Ctx) (d : BitVec 4) (k : BitVec 6) (a b : BitVec 7), ctxOf s = some x →
    let na := winName x.w a
    (Settled x.w [.name na, .pred d.toNat] →
      (nameOf x.w na = .unmapped → exec (.ismap d a) s = .next (warpDone s x (fun w => setPLanes w d (ctxActive x) 0)))
      ∧ (∀ r, nameOf x.w na = .resident r → r < 24576 → exec (.ismap d a) s = .next (warpDone s x (fun w =>
          setPLanes w d (ctxActive x) (~~~(rowOf (coreOf s x.c) r).poison)))))
    ∧ (Settled x.w [.name na, iS k] →
      (nameOf x.w na = .unmapped → exec (.mapq k a) s = .next (scalarDone s x k 0))
      ∧ (∀ r, nameOf x.w na = .resident r → exec (.mapq k a) s = .next (scalarDone s x k
          (BitVec.ofNat 64 (2 ^ 30 + (rowOf (coreOf s x.c) r).count * 2 ^ 18 + r)))))
    ∧ exec (.wbase b) s = .next (warpDone s x (fun w => { w with wb := BitVec.ofNat 9 (16 * b.toNat) }))

/-! ## Prefixes and control (R51 to R55, R111 to R122) -/

/-- A prefix before an instruction that accepts it takes no effect of its own: it stands ready for that instruction, and
the next word of the span is next (R51 to R55). -/
def Obligations.PrefixesWaitForTheirInstruction : Prop :=
  ∀ (s : State) (x : Ctx) (op : Nat) (pred : BitVec 4) (neg : BitVec 1) (pol : BitVec 2) (c : BitVec 7) (cv : BitVec 1)
    (rm : BitVec 3) (sat : BitVec 1) (ty : BitVec 4), ctxOf s = some x →
    prefixTarget x.sp 32 (x.sp.idx + 1) = some op →
    let hold (f : Span → Span) : Host.Outcome State Fault Refusal := .next (setWarp s x.c x.slot { x.w with
      span := some { f x.sp with idx := x.sp.idx + 1, pfxAt := some (x.sp.pfxAt.getD x.sp.idx) } })
    (x.sp.pfxa = none → acceptsA op = true → (pol = 2 → zeroAllowed op = true) → (cv = 1 → hasThird op = true) →
      exec (.pfxa pred neg pol c cv) s = hold (fun sp => { sp with pfxa := some ⟨pred, neg == 1, pol, c, cv == 1⟩ }))
    ∧ (x.sp.pfxb = none → acceptsB op = true → (rm ≠ 0 → honoursRm op = true) → (sat = 1 → honoursSat op = true) →
      (ty ≠ 15 → honoursType op ty.toNat = true) →
      exec (.pfxb rm sat ty) s = hold (fun sp => { sp with pfxb := some ⟨rm, sat == 1, ty⟩ }))

/-- Transfers by offset, register and return (R56, R112, R118): the path goes to the target where it is a header, CALL
writes the continuation to its link register, and a target that is none traps with CTL_BAD_TARGET. JMPR and CALLR go
where all selected lanes agree (R119); with no active lane the path goes on. -/
def Obligations.Transfers : Prop :=
  (∀ (s : State) (x : Ctx) (neg : BitVec 1) (k : BitVec 6) (off : BitVec 14) (u : Bool), ctxOf s = some x → LastWord x →
    let go := wordAddr x.sp x.sp.idx + off.signExtend 57 * 4
    let back : PC := (sReg x.w k).setWidth 57
    (Lands s x go u →
      exec (.bra off) s = .next (advance s x (.jump go u))
      ∧ (Settled x.w [iS k] → ((sReg x.w k ≠ 0) ↔ neg = 0) → exec (.bru neg k off) s = .next (advance s x (.jump go u)))
      ∧ (Settled x.w [iS k] → exec (.call k off) s
        = .next (advance (modW s x (fun w => setS w k ((continuation x.sp).setWidth 64))) x (.jump go u))))
    ∧ (Settled x.w [iS k] → ((sReg x.w k = 0) ↔ neg = 0) → exec (.bru neg k off) s = .next (advance s x .seq))
    ∧ (Settled x.w [iS k] → (sReg x.w k).toNat < 2 ^ 57 → Lands s x back u →
      exec (.ret k) s = .next (advance s x (.jump back u)))
    ∧ (landing s (partOf s x.pn) x.c (askPath x.c x.slot x.sp.sec) x.l.tenant go = .bad →
      exec (.bra off) s = .next (trapped s x cBadTarget (go.setWidth 64))))
  ∧ (∀ (s t u : State) (x : Ctx) (d : BitVec 6) (a : BitVec 7) (low : Nat) (un : Bool), LastWord x →
    LaneReady s x [] [winName x.w a, winName x.w (a + 1)] [] [] [] t u → Settled x.w [iS d] →
    let i := laneInOf t x [winName x.w a, winName x.w (a + 1)]
    let at_ (l : Nat) : DWord := i.src 1 l ++ i.src 0 l
    let pc : PC := (at_ low).setWidth 57
    i.nar.getLsbD low = true → (∀ l, l < low → i.nar.getLsbD l = false) →
    (∀ l, l < 32 → i.nar.getLsbD l = true → at_ l = at_ low) → (at_ low).toNat < 2 ^ 57 → Lands t x pc un →
    let go (v : State) : State :=
      let k := killLanes v x i.kills (.jump pc un)
      advance k.1 x k.2
    exec (.jmpr a) s = .next (go t)
    ∧ exec (.callr d a) s = .next (go (modW t x (fun w => setS w d ((continuation x.sp).setWidth 64)))))
  ∧ (∀ (s : State) (x : Ctx) (d : BitVec 6) (a : BitVec 7), ctxOf s = some x → LastWord x → x.sp.pfxa = none →
    ctxActive x = 0 → Settled x.w [iS d] →
    exec (.jmpr a) s = .next (advance s x .seq) ∧ exec (.callr d a) s = .next (advance s x .seq))

/-- JPOINT pushes a join point with the path's EXEC (R113). BRP: with no lane taken the path goes on, with every active lane taken
it jumps, and otherwise it splits off the taken lanes: the top join point becomes the split record and the secondary path starts
at the target, or, where both paths are in use, the taken lanes are pushed as a deferred arm (R114); with no join point on top a
split traps. JOIN (R115, R116): a deferred arm on top starts next, a join point on top is left at the continuation with its lanes,
a path with no entry waits for the other at the split's join point, where the two merge once both are there, and at any other
place JOIN traps. EXIT (R117): the lanes of the path are gone, its entries without a live lane are dropped, and the path goes to
the first with one, waits at the split's join point, or retires the warp; a corrupt entry traps (what counts as one is DEDUCED,
notes/assumptions/30.md). NOP changes nothing, YIELD sends its path behind every ready path (R120). -/
def Obligations.DivergenceAndReconvergence : Prop :=
  (∀ (s t : State) (x : Ctx) (w : Warp) (neg : BitVec 1) (p : BitVec 4) (off : BitVec 14) (u : Bool), ctxOf s = some x →
    let go := wordAddr x.sp x.sp.idx + off.signExtend 57 * 4
    let act := ctxActive x
    let taken := act &&& (if neg = 1 then ~~~pReg x.w p else pReg x.w p)
    (Lands s x go u → pushEntry s x x.w x.sp.sec (mkEntry 1 go (curPath x).exec) = .ok (t, w) →
      exec (.jpoint off) s = .next (advance (setWarp t x.c x.slot w) x .seq))
    ∧ (LastWord x → Settled x.w (if act = 0 then [] else [.pred p.toNat]) →
      (taken = 0 → exec (.brp neg p off) s = .next (advance s x .seq))
      ∧ (taken ≠ 0 → Lands s x go u →
        (taken = act → exec (.brp neg p off) s = .next (advance s x (.jump go u)))
        ∧ (taken ≠ act → (pathOf x.w (!x.sp.sec)).state = .vacant →
          (∀ e, topEntry x.w x.sp.sec = some e → entKind e = 1 → entBad e = false → popEntry s x x.w x.sp.sec = .ok (t, w) →
            exec (.brp neg p off) s = .next (advance (setWarp t x.c x.slot { w with
              split := ⟨true, entPc e, entMask e⟩
              prim := { w.prim with exec := w.prim.exec &&& ~~~taken }
              seco := { pathReset go taken .ready with unchecked := u, time := w.prim.time, atSafePoint := liveWord x.sp }
              ops := w.ops.map (fun o => { o with onS := o.onP })
              pend := w.pend.map (fun q => { q with onS := q.onP }) }) x .seq))
          ∧ ((∀ e, topEntry x.w x.sp.sec = some e → entKind e ≠ 1) →
            exec (.brp neg p off) s = .next (trapped s x 0x0204 0)))
        ∧ (taken ≠ act → (pathOf x.w (!x.sp.sec)).state ≠ .vacant →
          pushEntry s x x.w x.sp.sec (mkEntry 2 go taken) = .ok (t, w) →
          exec (.brp neg p off) s = .next (advance (setWarp t x.c x.slot (modPath w x.sp.sec (fun q =>
            { q with exec := q.exec &&& ~~~taken }))) x .seq)))))
  ∧ (∀ (s t : State) (x : Ctx) (w : Warp) (h : PC) (asid : Nat) (un : Bool), ctxOf s = some x →
    -- the continuation of the join span at an address, where its block can be read
    let at_ := (codeBlock s (partOf s x.pn) x.c asid h.toNat).getD (h.toNat % 128 / 4) 0
    let k := h + BitVec.ofNat 57 (4 * (spanLen at_ + 1))
    fetchCause s (partOf s x.pn) x.c x.l.tenant h.toNat = none →
    blockAway s (partOf s x.pn) x.c (askPath x.c x.slot x.sp.sec) x.l.tenant h.toNat = false →
    asidFor (partOf s x.pn) x.l.tenant h.toNat = some asid → Lands s x k un → LastWord x →
    let sec := x.sp.sec
    let gone := x.w.exited ||| (curPath x).exec
    let left := { x.w with exited := gone }
    let live := x.w.split.mask &&& ~~~x.w.exited
    let joined (v : Warp) (live : Mask) : Warp := sendPath { v with
      seco := { v.seco with state := .vacant, exec := 0, atSafePoint := none }
      split := ⟨false, 0, 0⟩
      ops := v.ops.map (fun o => { o with sec := false, onP := o.onP || o.onS, onS := false })
      pend := v.pend.map (fun q => { q with sec := false, onP := q.onP || q.onS, onS := false }) } false k live un
    (topEntry x.w sec = none → x.w.split.valid = true → x.w.split.addr = h → x.sp.header = h → (pathOf x.w (!sec)).state = .joining →
      (live &&& ~~~x.w.dead ≠ 0 → exec .join s = .next (advance (setWarp s x.c x.slot (joined (modPath x.w sec
        (fun p => { p with state := .joining, exec := (curPath x).exec })) live)) x .placed))
      ∧ (live &&& ~~~x.w.dead = 0 → exec .join s = .next (advance (retireWarp s x.c x.slot false) x .placed)))
    ∧ (topEntry x.w sec = none → x.w.split.valid = true → x.w.split.addr = h → (pathOf x.w (!sec)).state = .joining →
      let live := x.w.split.mask &&& ~~~gone
      (live &&& ~~~x.w.dead ≠ 0 → exec .exit s = .next (advance (setWarp s x.c x.slot (joined (modPath left sec
        (fun p => { p with state := .joining, exec := 0 })) live)) x .placed))
      ∧ (live &&& ~~~x.w.dead = 0 → exec .exit s = .next (advance (retireWarp s x.c x.slot false) x .placed)))
    ∧ (∀ e, topEntry x.w sec = some e → entKind e = 1 → entPc e = h → entBad e = false → Lands s x h false →
      entMask e &&& ~~~gone &&& ~~~x.w.dead ≠ 0 → popEntry s x left sec = .ok (t, w) →
      exec .exit s = .next (advance (setWarp t x.c x.slot (sendPath w sec k (entMask e &&& ~~~gone) un)) x .placed)))
  ∧ (∀ (s t : State) (x : Ctx) (w : Warp), ctxOf s = some x → LastWord x →
    let sec := x.sp.sec
    let gone := x.w.exited ||| (curPath x).exec
    let left := { x.w with exited := gone }
    (∀ e, topEntry x.w sec = some e → popEntry s x x.w sec = .ok (t, w) → entBad e = false →
      let live := entMask e &&& ~~~x.w.exited
      (∀ un, live &&& ~~~x.w.dead ≠ 0 → Lands s x (entPc e) un →
        (entKind e = 2 → exec .join s = .next (advance (setWarp t x.c x.slot (sendPath w sec (entPc e) live un)) x .placed))
        ∧ (entKind e = 1 → entPc e = x.sp.header → exec .join s
          = .next (advance (setWarp t x.c x.slot (sendPath w sec (continuation x.sp) live false)) x .placed))))
    ∧ (topEntry x.w sec = none → x.w.split.valid = true → x.w.split.addr = x.sp.header →
      (pathOf x.w (!sec)).state ≠ .joining → exec .join s = .next (advance (setWarp s x.c x.slot (modPath x.w sec (fun p =>
        { p with state := .joining, exec := (curPath x).exec }))) x .placed))
    ∧ ((∀ e, topEntry x.w sec = some e → entKind e ≠ 2 ∧ (entKind e = 1 → entPc e ≠ x.sp.header)) →
      (topEntry x.w sec = none → x.w.split.valid = true → x.w.split.addr ≠ x.sp.header) →
      exec .join s = .next (trapped s x 0x0205 (x.sp.header.setWidth 64)))
    ∧ (∀ e, topEntry x.w sec = some e →
      (entKind e = 0 ∨ entKind e = 3 → exec .exit s = .next (trapped s x 0x0207
        (BitVec.ofNat 64 (entryAddr x x.w sec ((pathOf x.w sec).depth - 1)))))
      ∧ (entBad e = false → popEntry s x left sec = .ok (t, w) →
        (∀ un, entKind e = 2 → entMask e &&& ~~~gone &&& ~~~x.w.dead ≠ 0 → Lands s x (entPc e) un → exec .exit s
          = .next (advance (setWarp t x.c x.slot (sendPath w sec (entPc e) (entMask e &&& ~~~gone) un)) x .placed))
        ∧ (entMask e &&& ~~~gone &&& ~~~x.w.dead = 0 → (pathOf x.w sec).depth ≠ 0 →
          exec .exit s = finish s x (unwindNow t x w sec))))
    ∧ (topEntry x.w sec = none → x.w.split.valid = true → (pathOf x.w (!sec)).state ≠ .joining →
      exec .exit s = .next (advance (setWarp s x.c x.slot (modPath left sec (fun p =>
        { p with state := .joining, exec := 0 }))) x .placed))
    ∧ (topEntry x.w sec = none → x.w.split.valid = false →
      exec .exit s = .next (advance (retireWarp s x.c x.slot false) x .placed)))
  ∧ (∀ (s : State) (x : Ctx), ctxOf s = some x →
    exec .nop s = .next (advance s x .seq)
    ∧ (LastWord x → let t := takeStamp (refreshAges s x.c)
      exec .yield s = .next (advance (modW t.2 x (fun w => modPath w x.sp.sec (fun p =>
        { p with readySince := t.1 + 1, promoted := false }))) x .seq)))

/-! ## Traps and system instructions (R272 to R282) -/

/-- Trap entry (R272): TPC, TCAUSE and TVAL are saved, the warp enters trap mode on the issuing path, that path goes to TVEC with
its span left, and nothing else of the warp changes; beyond the warp, the handler's page is walked and its block asked for (R294,
R316). Where that block has still to come the path goes to TVEC all the same and its landing is checked as it starts there
(notes/assumptions/19.md). A trap in trap mode terminates the launch with SYS_DOUBLE_TRAP, one without a handler with
SYS_NO_HANDLER, and the record says what was trapped (R274, R283, R284). -/
def Obligations.TrapEntry : Prop :=
  (∀ (s : State) (c slot : Nat) (w : Warp) (sec : Bool) (pc : PC) (code : Nat) (v : DWord), warpOf? s c slot = some w →
    w.trapMode = false → w.tvec ≠ 0 → (launchOf s w.launch).term = none →
    let l := launchOf s w.launch
    let pn := partOfCore s c
    let who := askPath c slot sec
    let u := prepBlock s pn c l.id who l.tenant w.tvec.toNat
    let go := landing u (partOf u (partOfCore u c)) c who l.tenant w.tvec
    warpOf? u c slot = some w → (launchOf u w.launch).term = none → go = .good ∨ go = .away →
    ∃ z, trapEnter s c slot sec pc code v = setWarp u c slot z
      ∧ z = { w with
          tpc := z.tpc, tcause := z.tcause, tval := z.tval, trapMode := true, trapSec := sec, firstCause := ⟨code, v⟩, span := none
          arrival := none, deferred := none, prim := z.prim, seco := z.seco }
      ∧ z.tpc = pc.setWidth 64 ∧ z.tcause = BitVec.ofNat 16 code ∧ z.tval = v
      ∧ pathOf z (!sec) = pathOf w (!sec)
      ∧ pathOf z sec = { pathOf w sec with
          pc := w.tvec, state := .ready, wait := .none, unchecked := go == .away, handler := go == .away, eret := false, resume := 0
          mmaDone := false, atSafePoint := none })
  ∧ (∀ (s : State) (c slot : Nat) (w : Warp) (l : Launch) (sec : Bool) (pc : PC) (code : Nat) (v : DWord),
    warpOf? s c slot = some w → fget? s.launches w.launch = some l → l.term = none → l.status = .running →
    let term (n : Nat) (t : State) : Prop := ∃ r, (launchOf t w.launch).term = some r ∧ r.cause = n ∧ r.ncause = code
      ∧ r.tval = BitVec.ofNat 64 (v.toNat % 2 ^ 48) ∧ r.core = c ∧ r.wslot = slot ∧ r.path = sec
    (w.trapMode = true → term cDoubleTrap (trapEnter s c slot sec pc code v))
    ∧ (w.trapMode = false → w.tvec = 0 → term cNoHandler (trapEnter s c slot sec pc code v)))

/-- TRAP raises SYS_TRAP with its immediate; BKPT raises SYS_BREAKPOINT, or in a launch with the debug bit stops its warp
at the next word and reports the stop (R279, notes/assumptions/59.md). ERET (R280): trap mode ends and the trap path goes to TPC, to a
header or to a word inside a span, the first word after a header standing for the header; or, where TPC's block cannot be fetched or has
still to come, to TPC, where its place is found once it can be (notes/assumptions/19.md); outside trap mode it raises SYS_NOT_IN_TRAP,
and a TPC at no header or word raises CTL_BAD_TARGET. -/
def Obligations.TrapInstructionsAndReturn : Prop :=
  (∀ (s : State) (x : Ctx) (imm : BitVec 14), ctxOf s = some x →
    exec (.trap imm) s = .next (trapped s x 0x0805 (imm.setWidth 64))
    ∧ (recDebug x.l.record = false → exec (.bkpt imm) s = .next (trapped s x 0x0806 (imm.setWidth 64)))
    ∧ (recDebug x.l.record = true → exec (.bkpt imm) s = .next (advance (modPart (modW s x (fun w =>
        { w with bkptStop := true })) x.pn (fun p => { p with bkptStops := p.bkptStops
          ++ ([(x.c, x.slot, wordAddr x.sp x.sp.idx)] : List (Nat × Nat × PC)) })) x .seq)))
  ∧ (∀ (s : State) (x : Ctx) (asid : Nat), ctxOf s = some x → LastWord x →
    let pc : PC := x.w.tpc.setWidth 57
    let p := partOf s x.pn
    let ws := codeBlock s p x.c asid pc.toNat
    let t := pc.toNat % 128 / 4
    let back (h : PC) (i : Nat) (un : Bool) : Host.Outcome State Fault Refusal :=
      .next (advance (setWarp s x.c x.slot (modPath { x.w with trapMode := false } x.w.trapSec (fun q => { q with
        pc := h, unchecked := un, eret := un, resume := i, mmaDone := false, state := .ready, wait := .none }))) x .placed)
    let fetched := (fetchCause s p x.c x.l.tenant pc.toNat).isNone
      && !blockAway s p x.c (askPath x.c x.slot x.w.trapSec) x.l.tenant pc.toNat
    let bad : Host.Outcome State Fault Refusal := .next (trapped s x cBadTarget x.w.tpc)
    (x.w.trapMode = false → exec .eret s = .next (trapped s x 0x0807 0))
    ∧ (x.w.trapMode = true → pc.toNat % 4 ≠ 0 → exec .eret s = bad)
    ∧ (x.w.trapMode = true → pc.toNat % 4 = 0 → fetched = false → exec .eret s = back pc 0 true)
    ∧ (x.w.trapMode = true → pc.toNat % 4 = 0 → fetched = true → asidFor p x.l.tenant pc.toNat = some asid →
      (walkReaches ws t 33 0 = true → exec .eret s = back pc 0 false)
      ∧ (walkReaches ws t 33 0 = false →
        (headerOfWord ws t 33 0 = none → exec .eret s = bad)
        ∧ ∀ h, headerOfWord ws t 33 0 = some h → exec .eret s
          = back (pc - BitVec.ofNat 57 (4 * (t - h))) (if t - h ≤ 1 then 0 else t - h) false)))

/-- SRD and SRD.V read special registers: each of R32 with its contents, LANEID as the lane's number (R281). GETTIME and GETTIME.CYC
write a reading that never falls on a path and on a core (R282). SWR (R33, R281): a register that is read-only traps with
SYS_SPECIAL_RO; the writable ones take values within their limits, TPC, TCAUSE and TVAL in trap mode only, and trap with
SYS_SPECIAL_VALUE, SYS_SPECIAL_BUSY, ENG_ROUTE_BAD or ENG_QUEUE_BUSY on others; GANG takes a gang that R21 allows, and a queue
descriptor one whose ring is in scratchpad, and its queue starts empty (R27, notes/assumptions/20.md). RTESET writes
a routing register (R245). -/
def Obligations.SpecialRegisters : Prop :=
  ((∀ (s t u : State) (x : Ctx) (d : BitVec 6) (v n : BitVec 7), ctxOf s = some x → Settled x.w [iS d] →
    let reads (k : BitVec 7) (z : DWord) : Prop := exec (.srd d k) s = .next (scalarDone s x d z)
    let h := clOf s x.c x.w.launch
    reads 0x00 ((curPath x).exec.setWidth 64) ∧ reads 0x01 (x.w.dead.setWidth 64) ∧ reads 0x02 (x.w.wb.setWidth 64)
    ∧ reads 0x03 x.w.fpsr ∧ reads 0x04 x.w.gang ∧ reads 0x05 x.w.g[0] ∧ reads 0x06 x.w.g[1] ∧ reads 0x07 x.w.g[2]
    ∧ reads 0x08 x.w.g[3] ∧ reads 0x09 x.w.dstk
    ∧ reads 0x0A ((if x.sp.sec then 1 else 0) + (if (pathOf x.w (!x.sp.sec)).state = .vacant then 0 else 2))
    ∧ reads 0x0C (BitVec.ofNat 64 x.slot) ∧ reads 0x0D (BitVec.ofNat 64 x.c)
    ∧ (x.w.resp = none → reads 0x0E (BitVec.ofNat 64 x.w.lwarp)) ∧ (x.w.resp ≠ none → reads 0x0E 0xFFFFFFFF)
    ∧ reads 0x0F (BitVec.ofNat 64 (recNwarps x.l.record)) ∧ reads 0x10 (x.l.id.setWidth 64)
    ∧ reads 0x11 (BitVec.ofNat 64 x.l.tenant) ∧ reads 0x12 ((recPartw x.l.record).setWidth 64) ∧ reads 0x13 (x.w.tvec.setWidth 64)
    ∧ reads 0x18 x.w.rte[0] ∧ reads 0x19 x.w.rte[1] ∧ reads 0x1A x.w.rte[2] ∧ reads 0x1B x.w.rte[3] ∧ reads 0x1C x.w.rte[4]
    ∧ reads 0x1D x.w.rte[5] ∧ reads 0x1E x.w.rte[6] ∧ reads 0x1F x.w.rte[7]
    ∧ reads 0x20 h.qd[0] ∧ reads 0x21 h.qd[1] ∧ reads 0x22 h.qd[2] ∧ reads 0x23 h.qd[3] ∧ reads 0x24 h.qd[4] ∧ reads 0x25 h.qd[5]
    ∧ reads 0x26 h.qd[6] ∧ reads 0x27 h.qd[7]
    ∧ reads 0x28 x.w.tpc ∧ reads 0x29 (x.w.tcause.setWidth 64) ∧ reads 0x2A x.w.tval
    ∧ reads 0x30 ((coreOf s x.c).xcnt[0].setWidth 64) ∧ reads 0x31 ((coreOf s x.c).xcnt[1].setWidth 64)
    ∧ reads 0x32 ((coreOf s x.c).xcnt[2].setWidth 64) ∧ reads 0x33 ((coreOf s x.c).xcnt[3].setWidth 64)
    ∧ reads 0x34 ((coreOf s x.c).xcnt[4].setWidth 64) ∧ reads 0x35 ((coreOf s x.c).xcnt[5].setWidth 64)
    ∧ reads 0x40 (BitVec.ofNat 64 (recAbft x.l.record)) ∧ reads 0x41 (recAbfttol x.l.record)
    ∧ (LaneReady s x [] [] [winName x.w v] [] [] t u →
      exec (.srdV v 0x0B) s = .next (laneDone u x (laneInOf t x []) [(winName x.w v, mkRow (fun l => BitVec.ofNat 32 l))])
      ∧ (n ≠ 0x0B → exec (.srdV v n) s = .next (laneDone u x (laneInOf t x [])
        [(winName x.w v, mkRow (fun _ => (specRead s x n.toNat).extractLsb' 0 32))]))))
  ∧ (∀ (s : State) (x : Ctx) (d : BitVec 6), ctxOf s = some x → Settled x.w [iS d] →
    (∃ v : DWord, (curPath x).time.toNat ≤ v.toNat ∧ exec (.gettime d 0) s
      = .next (warpDone (takeFree s).2 x (fun w => setS (modPath w x.sp.sec (fun p => { p with time := v })) d v)))
    ∧ ∃ v : DWord, (coreOf s x.c).cycles.toNat ≤ v.toNat ∧ exec (.gettime d 1) s
      = .next (scalarDone (modCore (takeFree s).2 x.c (fun k => { k with cycles := v })) x d v)))
  ∧ (∀ (s : State) (x : Ctx) (k : BitVec 7) (b : BitVec 6) (j : BitVec 3), ctxOf s = some x → Settled x.w [iS b] →
    let v := sReg x.w b
    let writes (k : BitVec 7) (f : Warp → Warp) : Prop := exec (.swr k b) s = .next (warpDone s x f)
    let traps (k : BitVec 7) (code : Nat) (tval : DWord) : Prop := exec (.swr k b) s = .next (trapped s x code tval)
    let value (k : BitVec 7) : Prop := traps k 0x0802 (k.setWidth 64)
    (specWritable x.w k.toNat = false → traps k 0x0801 (k.setWidth 64))
    ∧ (if field v 2 0 ≤ 4 ∧ field v 63 14 = 0 ∧ field v 7 3 = 0 then writes 0x03 (fun w => { w with fpsr := v }) else value 0x03)
    ∧ (let n := field v 38 36
      let m (i : Nat) : Nat := field v (6 * i + 5) (6 * i)
      let good := n ≠ 1 ∧ n ≠ 7 ∧ (∀ i < 6, n ≤ i → m i = 0) ∧ (∀ i < n, ∀ i' < i, m i ≠ m i')
        ∧ (n ≠ 0 → ∃ i < n, m i = x.slot)
      (good → writes 0x04 (fun w => { w with gang := BitVec.ofNat 64 (field v 38 0) })) ∧ (¬ good → value 0x04))
    ∧ (if field v 5 0 ≠ 0 ∨ field v 63 57 ≠ 0 then value 0x09
      else if x.w.prim.depth ≠ 0 ∨ x.w.seco.depth ≠ 0 then traps 0x09 0x0803 0x09
      else writes 0x09 (fun w => { w with dstk := v }))
    ∧ (x.w.trapMode = true →
      (if field v 63 57 = 0 then writes 0x28 (fun w => { w with tpc := v }) else value 0x28)
      ∧ (if field v 63 16 = 0 then writes 0x29 (fun w => { w with tcause := v.setWidth 16 }) else value 0x29)
      ∧ writes 0x2A (fun w => { w with tval := v }))
    ∧ (if rteBad s (partOf s x.pn) v = true then
        traps (0x18 + j.setWidth 7) 0x0509 v ∧ exec (.rteset j b) s = .next (trapped s x 0x0509 v)
      else writes (0x18 + j.setWidth 7) (fun w => setRte w j.toNat v)
        ∧ exec (.rteset j b) s = .next (warpDone s x (fun w => setRte w j.toNat v)))
    ∧ (let k := 0x20 + j.setWidth 7
      if qdDepth v ≠ 0 ∧ (qdEsize v = 0 ∨ scratchBytes x.l < 16 * (qdBase v + qdEsize v * qdDepth v)) then value k
      else if queueHolds s x.c x.w.launch j.toNat then traps k 0x0505 (j.setWidth 64)
      else exec (.swr k b) s = .next (advance (modCl s x.c x.w.launch (fun h => { h with
        qd := h.qd.set j.toNat (BitVec.ofNat 64 (field v 39 0))
        qent := h.qent.filter (fun e => e.1 / 256 != j.toNat) })) x .seq)))

/-! ## Memory (R177 to R201, R290, R291) -/

/-- What a load makes of the bytes of each size, and what a store takes of its data words (R179). LDG and LDU (R45, R183,
R184): the values are the core's view of memory, fixed at issue; the destinations are pending until they land, lanes with
a poisoned address are killed, and an uncorrectable byte of LDU lands as zero and ends the warp. -/
def Obligations.GlobalLoads : Prop :=
  (∀ (b : Nat → Byte) (m : Nat → Bool) (v : Nat) (i : LaneIn) (k l : Nat),
    let by_ (n : Nat) : List (Byte × Bool) := (List.range n).map (fun j => (b j, m j))
    let word (j : Nat) : Word × Bool :=
      (b (j + 3) ++ b (j + 2) ++ b (j + 1) ++ b j, m j || m (j + 1) || m (j + 2) || m (j + 3))
    loadWords 0 (by_ 1) = [((b 0).setWidth 32, m 0)]
    ∧ loadWords 1 (by_ 1) = [((b 0).signExtend 32, m 0)]
    ∧ loadWords 2 (by_ 2) = [((b 1 ++ b 0).setWidth 32, m 0 || m 1)]
    ∧ loadWords 3 (by_ 2) = [((b 1 ++ b 0).signExtend 32, m 0 || m 1)]
    ∧ loadWords 4 (by_ 4) = [word 0]
    ∧ loadWords 5 (by_ 8) = [word 0, word 4]
    ∧ loadWords 6 (by_ 16) = [word 0, word 4, word 8, word 12]
    ∧ storeBytes i k 0 l = [(i.src k l).extractLsb' 0 8]
    ∧ storeBytes i k 2 l = [(i.src k l).extractLsb' 0 8, (i.src k l).extractLsb' 8 8]
    ∧ storeBytes i k 4 l = bytesOf32 (i.src k l)
    ∧ storeBytes i k 5 l = bytesOf32 (i.src k l) ++ bytesOf32 (i.src (k + 1) l)
    ∧ lduValue 1 v = (BitVec.ofNat 8 v).signExtend 64 ∧ lduValue 3 v = (BitVec.ofNat 16 v).signExtend 64
    ∧ lduValue 4 v = BitVec.ofNat 64 v)
  ∧ (∀ (s t u : State) (x : Ctx) (d a : BitVec 7) (k j : BitVec 6) (scope sz : BitVec 3) (ord : BitVec 1),
    groupMissing x.w scope.toNat = false →
    let n := szBytes sz.toNat
    (let srcs := winRun x.w a 2
      let names := winRun x.w d (szNames sz.toNat)
      let q := accsOf t x srcs
      let ls := accLines t x q.accs n
      let v := touchLines u x ls true
      AccessReady s x srcs names n false .read true false t u → keptBack t x true = false → LinesFree t x ls →
      exec (.ldg d a scope ord sz) s = .next (longDone v x (iNames names) .value
        (laneWrites names q.i q.addrBad (fun l => loadWords sz.toNat (viewBytes t x (pairAddr q.i l) n)))
        [] (fetchingOf v x ls) none q.addrBad))
    ∧ (let va := (sReg x.w j).toNat
      let ls := accLines t x [(0, va)] n
      let v := touchLines t x ls true
      let b := viewBytes t x va n
      ScalarAccessReady s x va n .read true t → ctxActive x ≠ 0 → Settled x.w [iS j, iS k] →
      keptBack t x true = false → LinesFree t x ls →
      (anyMarked b = false → exec (.ldu k j scope ord sz) s = .next (advance (issueLong v x [iS k] .value []
        [(k.toNat, lduValue sz.toNat (markedNat b))] (fetchingOf v x ls) none).2 x .seq))
      ∧ (anyMarked b = true → exec (.ldu k j scope ord sz) s = .next (advance (issueLong v x [iS k] .value []
        [(k.toNat, 0)] (fetchingOf v x ls) (some (trapAddr x.sp))).2 x .seq)))
    ∧ (ctxOf s = some x → ctxActive x = 0 → Settled x.w [iS j, iS k] →
      exec (.ldu k j scope ord sz) s = .next (advance (markPending s x [iS k]) x .seq)))

/-- STG and STU (R181 to R184): the bytes of each lane leave in lane order through the core's L1 and wait to perform at home; a
poisoned data word is stored as poison and kills its lane; STU stores whatever ACTIVE holds. A release first waits until every
earlier store of the core is visible where its scope reaches (R202, R206). No access passes one of its path that is set aside and
is kept before it (R203, R209 to R211, as notes/assumptions/58.md reads them). A store that has left its core changes no memory
and nothing outside the core: its bytes, tenant and issuer stand at the end of the core's store queue, one entry for each line
(R208, R290). -/
def Obligations.GlobalStores : Prop :=
  (∀ (s t u : State) (x : Ctx) (d a : BitVec 7) (k j : BitVec 6) (scope sz : BitVec 3) (ord : BitVec 1),
    groupMissing x.w scope.toNat = false →
    let n := szBytes sz.toNat
    (let srcs := winRun x.w a 2 ++ winRun x.w d (szNames sz.toNat)
      let q := accsOf t x srcs
      AccessReady s x srcs [] n false .write false false t u → keptBack t x false = false →
      (ord = 1 → releaseWaits t x scope.toNat = false) →
      exec (.stg d a scope ord sz) s = .next (killDone (queueStores t x (q.accs.map (fun e => (e.2,
        if q.dataBad.getLsbD e.1 then List.replicate n none else (storeBytes q.i 2 sz.toNat e.1).map some))))
        x (q.addrBad ||| q.dataBad)))
    ∧ (let va := (sReg x.w j).toNat
      ScalarAccessReady s x va n .write false t → Settled x.w [iS j, iS k] → keptBack t x false = false →
      (ord = 1 → releaseWaits t x scope.toNat = false) →
      exec (.stu k j scope ord sz) s
        = .next (advance (queueStores t x [(va, ((bytesOf64 (sReg x.w k)).take n).map some)]) x .seq)))
  ∧ (∀ (s : State) (x : Ctx) (l : List (Nat × List (Option Byte))),
    let t := queueStores s x l
    (∀ a, cellRead t.mem a = cellRead s.mem a) ∧ t.parts = s.parts ∧ t.launches = s.launches ∧ t.poison = s.poison
    ∧ (∀ c, c ≠ x.c → coreOf t c = coreOf s c)
    ∧ (coreOf t x.c).warps = (coreOf s x.c).warps ∧ (coreOf t x.c).rows = (coreOf s x.c).rows
    ∧ ∃ es, (coreOf t x.c).storeQ = (coreOf s x.c).storeQ ++ es
      ∧ es.map (fun e => (e.line, e.bytes)) = gatherStores l
      ∧ ∀ e ∈ es, e.tenant = x.l.tenant ∧ e.warp = x.slot ∧ e.sec = x.sp.sec ∧ e.launch = x.w.launch ∧ e.early = true)

/-- ATOM (R187 to R191): lane after lane, each reads the old value at its scope and writes the new one, and the old values land in
the destinations. The new values of the integer types are the sum, the smaller, the larger, the bitwise results, the operand, and
for compare-and-swap the second operand where the old value equals the first; those of FP32 are the sum rounded once under RNE,
the smaller and the larger (R187, R190). At a scope above CORE the words change at their home, a peer's line whole, and the core
keeps no copy (R191). PREF fetches the lines of its good addresses and does nothing else (R197); FENCE goes on, but waits in place
(notes/assumptions/58.md) while accesses of its path are set aside that it is kept after, a release also while earlier stores of
the core are not visible where its scope reaches (R198, R204, R206, R208). -/
def Obligations.AtomicsAndFences : Prop :=
  ((∀ (s t u : State) (x : Ctx) (op ty scope : BitVec 3) (ar : BitVec 1) (d a : BitVec 7),
    groupMissing x.w scope.toNat = false →
    let k := atomWords ty.toNat
    let srcs := winRun x.w a (2 + k * (if op.toNat = 7 then 2 else 1))
    let names := winRun x.w d k
    let q := accsOf t x srcs
    let ls := accLines t x q.accs (4 * k)
    let base := settleStores u x.c x.slot
    let lineOf (va : Nat) : Nat × Nat := ((asidFor (partOf base x.pn) x.l.tenant va).getD 0, va / 128)
    let lanesDone := q.accs.foldl (fun (r : State × FMap (List (Word × Bool)) × List ((Nat × Nat) × Bool)) e =>
      let old := if scope.toNat ≤ 1 then viewBytes r.1 x e.2 (4 * k) else homeBytes r.1 x e.2 (4 * k)
      let o := atomLane op.toNat ty.toNat (atomOperand q.i 2 ty.toNat e.1) (atomOperand q.i (2 + k) ty.toNat e.1)
        (q.dataBad.getLsbD e.1) old
      match o.1 with
        | some bs => (atomWrite r.1 x scope.toNat e.2 bs, fput r.2.1 e.1 o.2,
            r.2.2 ++ ([(lineOf e.2, bs.any (·.isNone))] : List ((Nat × Nat) × Bool)))
        | none => (r.1, fput r.2.1 e.1 o.2, r.2.2)) (base, [], [])
    let near := decide (scope.toNat ≤ 1)
    let w := touchLines (if near then lanesDone.1 else peerBack lanesDone.1 x lanesDone.2.2) x ls near
    let v := if near then w else ls.foldl (fun s l => l1Drop s x.c l.1 l.2) w
    AccessReady s x srcs names (4 * k) true .write true (decide (scope.toNat ≥ 2)) t u → keptBack t x false = false →
    (∀ l ∈ ls, atomHeld t x scope.toNat l = false) → (ar = 1 → releaseWaits t x scope.toNat = false) →
    exec (.atom op d a ar ty scope) s = .next (longDone v x (iNames names) .value
      (laneWrites names q.i (q.addrBad ||| q.dataBad) (fun l => fget lanesDone.2.1 l [])) [] (fetchingOf v x ls) none
      (q.addrBad ||| q.dataBad)))
  ∧ (∀ (u v : Word) (n : Nat),
    let new (op ty : Nat) : Option Nat := atomNew op ty u.toNat v.toNat n
    new 0 0 = some (u + v).toNat ∧ new 0 1 = some (u + v).toNat
    ∧ new 1 0 = some (if u.sle v then u else v).toNat ∧ new 1 1 = some (if u.ule v then u else v).toNat
    ∧ new 2 0 = some (if u.sle v then v else u).toNat ∧ new 2 1 = some (if u.ule v then v else u).toNat
    ∧ new 3 0 = some (u &&& v).toNat ∧ new 4 0 = some (u ||| v).toNat ∧ new 5 0 = some (u ^^^ v).toNat
    ∧ new 6 0 = some v.toNat ∧ new 7 0 = (if u = v then some n else none)
    ∧ (∃ r fl, new 0 4 = some r ∧ SumOf .f32 .rne false false u.toNat v.toNat (r, fl))
    ∧ (∃ r, new 1 4 = some r ∧ SelectsOf .f32 false u.toNat v.toNat r)
    ∧ (∃ r, new 2 4 = some r ∧ SelectsOf .f32 true u.toNat v.toNat r))
  ∧ (∀ (u v : DWord) (n : Nat),
    let new (op ty : Nat) : Option Nat := atomNew op ty u.toNat v.toNat n
    new 0 2 = some (u + v).toNat ∧ new 0 3 = some (u + v).toNat
    ∧ new 1 2 = some (if u.sle v then u else v).toNat ∧ new 1 3 = some (if u.ule v then u else v).toNat
    ∧ new 2 2 = some (if u.sle v then v else u).toNat ∧ new 2 3 = some (if u.ule v then v else u).toNat
    ∧ new 6 2 = some v.toNat ∧ new 7 2 = (if u = v then some n else none)))
  ∧ ((∀ (s t u t₀ u₀ : State) (x : Ctx) (a : BitVec 7) (llc : BitVec 1),
    let srcs := winRun x.w a 2
    let p := prepRuns s x.pn (some (x.c, x.l.id)) x.l.tenant .read ((accsOf t₀ x srcs).accs.map (fun e => (e.2, 1)))
    let good := (accsOf t x srcs).accs.filter (fun e => (accCause t x e.2 1 false .read).isNone)
    LaneReady s x [] srcs [] [] [] t₀ u₀ → LaneReady p x [] srcs [] [] [] t u →
    exec (.pref a llc) s = .next (advance ((accLines t x good 1).foldl (fun s l =>
      if lineHeld s x l.1 l.2 then s
      else if llc = 1 then llcTouch s x.pn l.1 l.2
      else l1Fill (llcTouch s x.pn l.1 l.2) x.pn x.c l.1 l.2 none) t) x .seq))
  ∧ (∀ (s : State) (x : Ctx) (kind : BitVec 2) (scope : BitVec 3), ctxOf s = some x →
    groupMissing x.w scope.toNat = false →
    (keptBack s x true = false → (kind = 0 ∨ kind = 1 ∨ releaseWaits s x scope.toNat = false) →
      exec (.fence kind scope) s = .next (advance (if kind = 3 then settleStores s x.c x.slot else s) x .seq))
    ∧ (keptBack s x true = true ∨ ((kind = 2 ∨ kind = 3) ∧ releaseWaits s x scope.toNat = true) →
      exec (.fence kind scope) s = .next (waitHere s x.c x.slot))))

/-- LDS, STS, ATOMS and the accesses that wait for a full-empty bit (R185, R186, R189): an access whose offsets lie in
the launch's scratchpad is performed at once or set aside, and one that was set aside performs once it can. What a
scratchpad access does to the scratchpad and its full-empty bits (R25, R185): a plain load changes nothing, a load with
.W.C empties its granules, a plain store writes its bytes and keeps the bits, and one with .F or .E fills them. -/
def Obligations.ScratchpadAccesses : Prop :=
  ((∀ (s t u : State) (x : Ctx) (d a : BitVec 7) (fe : BitVec 2) (sz op ty : BitVec 3),
    let h := clOf t x.c x.w.launch
    let inside (q : LaneAccs) (n : Nat) : Prop := ∀ e ∈ q.accs, e.2 + n ≤ scratchBytes x.l
    let at_ (i : LaneIn) : LaneAccs := lanesOf i 1 (fun l => (i.src 0 l).toNat)
    let go (r : Nat × State) (a : Armed) (kills : Mask) : Host.Outcome State Fault Refusal :=
      .next (killDone (submitAccess r.2 x.c x.w.launch a) x kills)
    armedAble h [] h.armed = none →
    (let names := winRun x.w d (szNames sz.toNat)
      let q := at_ (laneInOf t x [winName x.w a])
      let n := szBytes sz.toNat
      let r := issueLong u x (iNames names) .armed (laneWrites names q.i q.addrBad (fun _ => [])) [] [] none
      LaneReady s x [] [winName x.w a] names [] [] t u → inside q n →
      exec (.lds d a fe sz) s
        = go r (newAccess x r.1 (some r.1) q.accs n sz.toNat fe.toNat false none []) q.addrBad)
    ∧ (let srcs := winName x.w a :: winRun x.w d (szNames sz.toNat)
      let q := at_ (laneInOf t x srcs)
      let n := szBytes sz.toNat
      let r := takeStamp t
      LaneReady s x [] srcs [] [] [] t u → inside q n →
      exec (.sts d a fe sz) s = go r (newAccess x r.1 none q.accs n sz.toNat fe.toNat true none (q.accs.map (fun e =>
        (e.1, if q.dataBad.getLsbD e.1 then List.replicate n none else (storeBytes q.i 1 sz.toNat e.1).map some))))
        (q.addrBad ||| q.dataBad))
    ∧ (let k := atomWords ty.toNat
      let names := winRun x.w d k
      let srcs := winRun x.w a (1 + k * (if op.toNat = 7 then 2 else 1))
      let q := at_ (laneInOf t x srcs)
      let bad := q.addrBad ||| q.dataBad
      let data := q.accs.map (fun e => (e.1, if q.dataBad.getLsbD e.1 then List.replicate (4 * k) none
        else ((List.range (srcs.length - 1)).flatMap (fun j => bytesOf32 (q.i.src (1 + j) e.1))).map some))
      let r := issueLong u x (iNames names) .armed (laneWrites names q.i bad (fun _ => [])) [] [] none
      LaneReady s x [] srcs names [] [] t u → inside q (4 * k) → (∀ e ∈ q.accs, e.2 % (4 * k) = 0) →
      exec (.atoms op d a ty) s
        = go r (newAccess x r.1 (some r.1) q.accs (4 * k) 6 0 false (some (op.toNat, ty.toNat)) data) bad))
  ∧ (∀ (s : State) (c l : Nat) (a : Armed),
    let h := clOf s c l
    let t := if a.store || a.atomic.isSome then settleStores s c a.warp else s
    let k := clOf t c l
    (armedCondition k a = true → armedBehind k.armed a = false → submitAccess s c l a = performAccess t c l a)
    ∧ (armedCondition k a = false ∨ armedBehind k.armed a = true →
      submitAccess s c l a = modCl t c l (fun h => { h with armed := h.armed ++ [a] }))
    ∧ (armedAble h [] h.armed = some a → exec (.scratchWaitPerform c l a.id) s
      = .next (performAccess (modCl s c l (fun h => { h with armed := h.armed.filter (fun b => b.id != a.id) })) c l a))))
  ∧ (∀ (h : CoreLaunch) (a : Armed) (g : Nat), a.atomic = none →
    let t := (armedPerform h a).1
    let touched := setMem (armedGranules a) g
    (a.store = false → t.scratch = h.scratch ∧ t.spoison = h.spoison)
    ∧ (a.store = false → a.fe ≠ 2 → t = h)
    ∧ (a.store = false → a.fe = 2 → setMem t.full g = (setMem h.full g && !touched))
    ∧ (a.store = true → a.fe = 0 → setMem t.full g = setMem h.full g)
    ∧ (a.store = true → (fkeys h.scratch).Pairwise (· < ·) → ∀ (l off : Nat) (bs : List Byte), a.offsets = [(l, off)] → a.data = [(l, bs.map some)] →
      (∀ i, i < bs.length → fget t.scratch (off + i) 0 = bs.getD i 0)
      ∧ ∀ b, b < off ∨ off + bs.length ≤ b → fget t.scratch b 0 = fget h.scratch b 0)
    ∧ (a.store = true → a.fe ≠ 0 → setMem t.full g = (setMem h.full g || touched)))

/-- ROWLD (R193, R194): the row's words come from the core's L1 where it holds the row whole and no store to it waits, with the
version it was taken with, and otherwise, and always with .H, from the row's home with the home's version, which for a row on a peer
the home slices keep (notes/assumptions/61.md); with no active lane only the destinations are pending. ROWST and ROWADD (R195,
R220): the active row words are stored, or added as pairs of BF16 each rounded once, line by line at the row's home; the version
rises by one and records the tenant; lanes with a poisoned word are killed. -/
def Obligations.RowOperations : Prop :=
  (∀ (s t u : State) (x : Ctx) (d : BitVec 7) (a : BitVec 6) (h : BitVec 1) (n : BitVec 3),
    let r := rowArg x d a n
    let items := iNames r.names ++ [iS (a + 1)]
    let ls := rowLines t x r
    Settled x.w (iSRun a 2 ++ iNames r.names) →
    (∀ bs v, RowReady s x r .read t → keptBack t x true = false → h = 0 → (∀ l ∈ ls, storeWaits t x.c l.1 l.2 = false) →
      rowCopy t x ls = some (bs, v) → splitRow t x r = .ok u →
      (∀ pl, rowPhys t x r = some pl → (sideOf t pl).1 = v) →
      exec (.rowld d a h n) s = .next (advance (issueLong u x items .value (rowWrites r bs)
        [((a + 1).toNat, v.setWidth 64)] [] none).2 x .seq))
    ∧ (∀ ver : Word, RowReady s x r .read t → keptBack t x true = false → (h = 1 ∨ rowCopy t x ls = none) →
      ((∃ pl, rowPhys t x r = some pl ∧ setMem t.sidePoison pl = false ∧ (sideOf t pl).1 = ver)
        ∨ (rowPhys t x r = none ∧ ∃ k w, peerRow t x r = some k ∧ fget? (partOf t x.pn).peerSides k = some (ver, w))) →
      (∀ l ∈ ls, lineHeld t x l.1 l.2 = false ∧ storeWaits t x.c l.1 l.2 = false) →
      splitRow t x r = .ok u →
      let v := touchLines u x ls false
      let z := rowTake v x ls (rowPhys v x r)
      exec (.rowld d a h n) s = .next (advance (issueLong z x items .value (rowWrites r (homeBytes t x r.va r.len))
        [((a + 1).toNat, ver.setWidth 64)] (fetchingOf z x ls) none).2 x .seq))
    ∧ (ctxOf s = some x → ctxActive x = 0 → exec (.rowld d a h n) s = .next (advance (markPending s x items) x .seq)))
  ∧ ((∀ (s t : State) (x : Ctx) (d : BitVec 7) (a : BitVec 6) (n : BitVec 3) (pl asid : Nat),
    let r := rowArg x d a n
    let ls := rowLines t x r
    let rows := r.names.map (rowOfName t x)
    let kills := (rows.zip r.masks).foldl (fun m e => m ||| (e.1.poison &&& e.2)) 0#32
    let old := loadWords 6 (homeBytes t x r.va r.len)
    let put (w : Nat) (b : List (Option Byte)) : List (Nat × Option Byte) :=
      (List.range 4).map (fun i => (4 * w + i, b.getD i none))
    let half (w : Word) (k : Nat) : Nat := w.toNat / 2 ^ (16 * k) % 2 ^ 16
    ∃ g : Nat → Nat → Nat × Flags, (∀ p q, p < 2 ^ 16 → q < 2 ^ 16 → SumOf .bf16 .rne false false p q (g p q)) ∧
    let bytes (add : Bool) : List (Nat × Option Byte) := (List.range (r.len / 4)).flatMap (fun w =>
      let v := lane (rows.getD (w / 32) freeRow).words (w % 32)
      let o := old.getD w (0, false)
      if !(ctxActive x).getLsbD (w % 32) then []
      else if kills.getLsbD (w % 32) then put w []
      else if !add then put w ((bytesOf32 v).map some)
      else if o.2 then []
      else put w ((bytesOf32 (BitVec.ofNat 32 ((g (half o.1 1) (half v 1)).1 * 2 ^ 16 + (g (half o.1 0) (half v 0)).1))).map some))
    let done (add : Bool) : Host.Outcome State Fault Refusal :=
      let v := ls.foldl (fun s l => atHome s x asid l.2
        (((bytes add).filter (fun e => (r.va + e.1) / 128 == l.2)).map (fun e => ((r.va + e.1) % 128, e.2))))
        (settleStores t x.c x.slot)
      .next (killDone (touchLines { v with
        sides := fset v.sides pl ((sideOf v pl).1 + 1, x.l.tenant) (0, 0) } x ls false) x kills)
    RowReady s x r .write t → Settled x.w (iS a :: iNames r.names) → keptBack t x false = false → (∀ l ∈ ls, atomHeld t x 2 l = false) →
    rowPhys t x r = some pl → asidFor (partOf t x.pn) x.l.tenant r.va = some asid →
    exec (.rowst d a n) s = done false ∧ exec (.rowadd d a n) s = done true)
  ∧ (∀ (s : State) (x : Ctx) (d : BitVec 7) (a : BitVec 6) (n : BitVec 3), ctxOf s = some x → ctxActive x = 0 →
    Settled x.w [iS a] →
    exec (.rowst d a n) s = .next (advance s x .seq) ∧ exec (.rowadd d a n) s = .next (advance s x .seq)))

/-- Group barriers (R199 to R201, R331): GBAR and GARV arrive at the phase that the core's node holds, GBAR and GWAIT
hold the path's next span until the phase completes; a slot without a group traps. The node keeps which set-aside accesses of the path
its arrival comes behind. A core's node reports, once a phase, when all its members have arrived or retired, those accesses have
performed and its stores are visible in the partition; the root completes the phase when every core has reported and each takes the
message, and refuses a report behind a refused message of its core (R312); a core that applies COMPLETE counts its arrivals anew. -/
def Obligations.GroupBarriers : Prop :=
  (∀ (s : State) (x : Ctx) (g : BitVec 2) (d : BitVec 6) (v : DWord), ctxOf s = some x → x.w.g[g.toNat]? = some v →
    let i := field v 7 0
    let ph := (nodeOf s x.c x.w.launch i).completed
    let wait (t : State) (p : BitVec 32) : State :=
      warpDone t x (fun w => modPath w x.sp.sec (fun q => { q with wait := .phase i p }))
    (v.getLsbD 8 = true →
      let n := nodeOf (arrive s x i) x.c x.w.launch i
      (LastWord x → exec (.gbar g) s = .next (wait (arrive s x i) ph))
      ∧ (Settled x.w [iS d] → exec (.garv d g) s = .next (scalarDone (arrive s x i) x d (ph.setWidth 64)))
      ∧ n.completed = ph ∧ (∀ m, m ∈ n.arrived ↔ m = x.w.lwarp ∨ m ∈ (nodeOf s x.c x.w.launch i).arrived)
      ∧ (∀ m, m ∈ n.behind ↔ (∃ a ∈ pathArmed s x, a.id = m) ∨ m ∈ (nodeOf s x.c x.w.launch i).behind)
      ∧ (LastWord x → Settled x.w [iS d] → exec (.gwait g d) s = .next (wait s ((sReg x.w d).setWidth 32))))
    ∧ (v.getLsbD 8 = false →
      (LastWord x → exec (.gbar g) s = .next (trapped s x cGroupNone (g.setWidth 64)))
      ∧ (Settled x.w [iS d] → exec (.garv d g) s = .next (trapped s x cGroupNone (g.setWidth 64)))))
  ∧ (∀ (s : State) (c l g : Nat),
    let m := membersOn (launchOf s l) c g
    let n := nodeOf s c l g
    let ready := (launchOf s l).status ≠ .ended ∧ m ≠ [] ∧ n.sent = none ∧ (∀ i ∈ m, i ∈ n.arrived ∨ i ∈ (launchOf s l).retired)
      ∧ (∀ a ∈ (clOf s c l).armed, a.id ∈ n.behind → a.retired ≠ none) ∧ storesDone s (partOfCore s c) c = true
    (ready → exec (.barrierArriveSend c l g) s = .next (modPart (modNode (takeStamp s).2 c l g (fun n =>
      { n with sent := some s.stamp })) (partOfCore s c)
      (fun p => { p with rootInbox := p.rootInbox ++ ([.arrive c l g n.completed] : List RootMsg) })))
    ∧ (¬ ready → exec (.barrierArriveSend c l g) s = .next s))
  ∧ (∀ (s : State) (pn c l g : Nat) (rest : List RootMsg),
    let p := partOf s pn
    let b := rootBarrierOf p l g
    let cores := groupCores (launchOf s l) g
    let t := modPart s pn (fun p => { p with rootInbox := rest })
    let refused := rootRefuses t pn c ((nodeOf s c l g).sent.getD 0)
    p.rootInbox = .arrive c l g b.completed :: rest → (launchOf s l).status ≠ .ended →
    (refused = true → exec (.barrierArriveCount pn) s = .next t)
    ∧ (refused = false → cores.all (setMem (setAdd b.reported c)) = true → inboxOpen t pn cores = true → exec (.barrierArriveCount pn) s = .next (sendDown
      (modPart t pn (fun p => setRootBarrier p l g ⟨b.completed + 1, []⟩)) pn cores (.complete l g (b.completed + 1))))
    ∧ (refused = false → cores.all (setMem (setAdd b.reported c)) = false → exec (.barrierArriveCount pn) s
      = .next (modPart t pn (fun p => setRootBarrier p l g ⟨b.completed, setAdd b.reported c⟩))))
  ∧ (∀ (s : State) (c l g : Nat) (n : BitVec 32) (rest : List CensusMsg), (coreOf s c).inbox = .complete l g n :: rest →
    (coreOf s c).refusing = false → (fget? (coreOf s c).launches l).isSome →
    exec (.barrierComplete c) s
      = .next (modNode (modCore s c (fun k => { k with inbox := rest })) c l g (fun _ => ⟨n, [], none, []⟩)))

/-- A write of bytes in memory (R4, R317, R369): read under the key of the write, each byte written reads as the last
value written to it and every other byte as before; no byte outside the lines written to changes, and a unit written
whole loses its poison mark. -/
def Obligations.MemoryReadAfterWrite : Prop :=
  ∀ (s : State) (p : Partition) (key pa : Nat) (bs : List (Nat × Option Byte)),
    Memory.wf s.mem = true → (fkeys s.unitKey).Pairwise (· < ·) →
    let t := physWrite s p key pa bs
    Memory.wf t.mem = true
    ∧ (∀ a, physByte t p key a = match bs.reverse.find? (fun e => pa + e.1 == a && e.2.isSome) with
        | some (_, some b) => b
        | _ => physByte s p key a)
    ∧ (∀ a, (∀ e ∈ bs, (pa + e.1) / 128 ≠ a / 128) → cellRead t.mem a = cellRead s.mem a)
    ∧ (∀ u, (∀ e ∈ bs, e.2.isSome) → (∀ i, i < 16 → ∃ e ∈ bs, pa + e.1 = 16 * u + i) → setMem t.poison u = false)

/-- Writes, invalidations and fetches as events (R205, R208, R291, R294, R417): a waiting store of a core reaches its L1 in the
order of its warp's stores, then performs at its home slice, or waits there, or behind an earlier one to its bytes, a line of a peer
that an engine owns included, which only engines' own stores pass (R216); a store whose line has no translation that it may use any
more is lost (notes/assumptions/16.md). A general-purpose core's load, store and atomic act at their physical address once no engine
owns the line; an access outside the partition is logged and gives an error response (R349, R375), and a load from the list of
capabilities reads that list (R389). The nine operations of an atomic and where a loaded value goes are the model's
(notes/assumptions/64.md), as is where the list stands (notes/assumptions/68.md). A core that consumes an uncorrectable word of the
kernel's frames restarts Ryukel (R376), and after a third restart none acts (R377). An invalidation takes the line from the L1; a
fetched line is in its slice and is counted; a file block is in its frame. -/
def Obligations.HomeEvents : Prop :=
  (∀ (s : State) (c n : Nat) (r : StoreReq), (coreOf s c).storeQ[n]? = some r →
    let pn := partOfCore s c
    let q := (coreOf s c).storeQ
    let who : Who := some (c, (launchOf s r.launch).id)
    let tenant := ownerOf r.tenant r.asid
    let t := if (lineKept (partOf s pn) r.asid r.line).isSome then s
      else prepPage s pn who tenant r.asid .write (r.line / 32)
    let p := partOf t pn
    let go := exec (.homeSliceWrite (.core c n)) s
    (r.early = true → (∃ e ∈ q.take n, e.early = true ∧ e.warp = r.warp) → go = .next s)
    ∧ (r.early = true → (∀ e ∈ q.take n, e.early = true → e.warp ≠ r.warp) → go = .next (reachL1 s c (fun e => e == r)))
    ∧ (r.early = false →
      (storeBehind q n r = true → go = .next s)
      ∧ (storeBehind q n r = false →
        ((lineCause t p tenant r.asid r.line .write).isSome = true → go = .next (popStore t c n))
        ∧ (lineCause t p tenant r.asid r.line .write = none →
          (peerOf t p r.asid (128 * r.line) = none →
            (storeHeld t p pn r = false → homeLost t p (128 * r.line) = false →
              go = .next (popStore (homeWrite t pn (some c) r.asid r.line r.bytes) c n))
            ∧ (storeHeld t p pn r = true → go = .next (llcTouch t pn r.asid r.line)))
          ∧ (∀ rank, peerOf t p r.asid (128 * r.line) = some rank →
            (r.warp ≠ 64 → lineHeldByOthers t pn r.asid r.line = true → go = .next t)
            ∧ (r.warp = 64 ∨ lineHeldByOthers t pn r.asid r.line = false → go = .next (peerStore t pn c n rank r)))))))
  ∧ (∀ (s : State) (pn oct core pa n : Nat) (bs : List Byte) (op : Nat) (wide rel : Bool) (v : BitVec 64) (a : GpcAccess),
    let u := { s with writer := some (oct, core) }
    let p := partOf u pn
    let acts (a : GpcAccess) (t : State) : Prop := exec (.homeSliceWrite (.gpc pn oct core pa a)) s = .next { t with writer := none }
    let inside (k : Nat) : Prop := ∀ f ∈ pieces 4096 pa k, frameIn p f = true
    let outside (f k : Nat) : Prop := (pieces 4096 pa k).find? (fun f => !frameIn p f) = some f
    let put (u : State) (l : List Byte) : State := physStore u pn pa (placed l)
    let see (u : State) (l : List Byte) : State := modPart u pn (fun p => { p with gpcSeen := l, gpcErr := false })
    let consumes (t : State) (k : Nat) : State :=
      if (List.range k).any (fun i => setMem t.poison ((pa + i) / 16) && setMem (kernelFrames (partOf t pn)) ((pa + i) / 4096))
      then triggerRestart t pn else t
    let refuse (f : Nat) : State := modPart (logViolation (takeFree u).2 pn 2 oct core 0 (BitVec.ofNat 64 f)) pn (fun p =>
      { p with gpcErr := true })
    (p.kernelDown = true → acts a u)
    ∧ (p.kernelDown = false →
      (inside bs.length → gpcHeld u pn pa bs.length true rel = false →
        acts (.store bs rel) (put (modPart u pn (fun p => { p with gpcErr := false })) bs))
      ∧ (capRead (reg p .capBase).toNat pa n = none → inside n → gpcHeld u pn pa n false false = false →
        acts (.load n) (consumes (see u (physRead u p 0 pa n)) n))
      ∧ (∀ l, capRead (reg p .capBase).toNat pa n = some l → acts (.load n) (see u l))
      ∧ (let k := if wide then 8 else 4
        let old := physRead u p 0 pa k
        (inside k → gpcHeld u pn pa k true rel = false → acts (.amo op wide v rel)
          (consumes (put (see u old) (leBytes k (gpcAmo op (8 * k) (leNat old) (v.toNat % 2 ^ (8 * k))))) k))
        ∧ (∀ f, outside f k → acts (.amo op wide v rel) (refuse f)))
      ∧ (∀ f, outside f bs.length → acts (.store bs rel) (refuse f))
      ∧ (∀ f, capRead (reg p .capBase).toNat pa n = none → outside f n → acts (.load n) (refuse f))))
  ∧ (∀ (s : State) (c line : Nat), ∃ t, exec (.l1Invalidate c line) s = .next t
    ∧ (∀ l ∈ (coreOf t c).l1, l.line ≠ line) ∧ (∀ i ∈ (coreOf t c).invals, i.2 ≠ line)
    ∧ (∀ l ∈ (coreOf s c).l1, l.line ≠ line → l ∈ (coreOf t c).l1) ∧ t.mem = s.mem)
  ∧ (∀ (s : State) (pn idx : Nat) (f : LlcLine), (partOf s pn).fetches[idx]? = some f →
    let e := frameOf s f.frame
    (e.fb = true → e.rd = false → exec (.lineFetchComplete pn idx) s = .next s)
    ∧ ((e.fb = true → e.rd = true) → ∃ t, exec (.lineFetchComplete pn idx) s = .next t
      ∧ llcHas (partOf t pn) f.asid f.line = true ∧ (∀ g ∈ (partOf t pn).fetches, g.asid = f.asid → g.line ≠ f.line)
      ∧ frameOf t f.frame = countFill e (f.slice / 16) (f.frame / Config.framesPerOctant)
      ∧ ((∀ l ∈ (partOf s pn).llc, l.oldKeys = []) → t.mem = s.mem)))
  ∧ (∀ (s : State) (pn f : Nat) (data : List Byte), frameIn (partOf s pn) f = true → (frameOf s f).fb = true →
    (frameOf s f).rd = false → data.length = 4096 →
    exec (.fileBlockRead pn f data) s = .next (modFrame (physWrite s (partOf s pn) (frameOf s f).keyid (4096 * f) (placed data))
      f (fun e => { e with rd := true })))

/-- Walks and shoot-downs (R319, R320, R369, R388): the walk of a page on which a miss waits fills the TLB, and raises REL_UE where it
meets a poisoned entry; a shoot-down matches the pages that it names, an ASID, or all, and with NPAGES 0 none; it is accepted while none
is under way and is done once no access still uses what it matches; then no TLB entry, L1 line or LLC line that it matches is left,
and LLC_SHOOTST reads 0. -/
def Obligations.WalksAndShootDowns : Prop :=
  (∀ (s : State) (pn asid vpn : Nat) (store : Bool),
    let fill (t : State) : Host.Outcome State Fault Refusal :=
      .next (fillTlb t pn none (tenantOfAsid (partOf s pn) asid) asid vpn (if store then .write else .read))
    (missWaits s pn asid vpn = true → walkPoison s (partOf s pn) asid vpn = none → exec (.pageWalk pn asid vpn store) s = fill s)
    ∧ (∀ pa, missWaits s pn asid vpn = true → walkPoison s (partOf s pn) asid vpn = some pa →
      ∃ t, t = raiseUe s pn (pa / 4096 / Config.framesPerOctant) pa 5 ∧ exec (.pageWalk pn asid vpn store) s
        = .next (fillTlb t pn none (tenantOfAsid (partOf t pn) asid) asid vpn (if store then .write else .read)))
    ∧ (missWaits s pn asid vpn = false → exec (.pageWalk pn asid vpn store) s = .next s))
  ∧ (∀ (v : DWord) (base asid vpn pages : Nat), 0 < pages → (shootMatches v base asid vpn pages = true ↔
    field v 63 62 = 3 ∨ (field v 63 62 = 2 ∧ field v 59 48 = asid)
    ∨ (field v 63 62 = 1 ∧ field v 59 48 = asid ∧ ∃ q, base ≤ q ∧ q < base + field v 31 0 ∧ vpn ≤ q ∧ q < vpn + pages)))
  ∧ (∀ (s : State) (pn : Nat) (v : DWord), (partOf s pn).shooting = none → field v 63 62 ≠ 0 →
    exec (.shootdown pn v) s = .next (modPart s pn (fun p => { setReg p .llcShootst 0 (1#64 <<< 63) with shooting := some v })))
  ∧ (∀ (s : State) (pn : Nat) (v : DWord), (partOf s pn).shooting = some v →
    let m := shootMatches v (shootBase (partOf s pn))
    (shootPending s pn m = true → exec (.shootdownComplete pn) s = .next s)
    ∧ (shootPending s pn m = false → ∃ t, exec (.shootdownComplete pn) s = .next t
      ∧ (partOf t pn).shooting = none ∧ reg (partOf t pn) .llcShootst = 0
      ∧ ((∀ l ∈ (partOf s pn).llc, l.oldKeys = []) → t.mem = s.mem)
      ∧ (∀ e ∈ (partOf t pn).tlb, m e.asid e.vpn e.pages = false)
      ∧ (∀ e ∈ (partOf t pn).llc, m e.asid (e.line / 32) 1 = false)
      ∧ (∀ c, partOfCore t c = pn → ∀ l ∈ (coreOf t c).l1, m l.asid (l.line / 32) 1 = false)))

/-- Frame-state commands (R321, R323 to R325): READ answers the frame's word; RELEASE frees an OWNED frame that nothing
uses; SCRUB starts on a FREE frame and ends with a CLEAN frame that reads as zeros; SETFILE marks a CLEAN frame
file-backed; READCNT answers and clears the counters. A command that the frame's state forbids answers 1. -/
def Obligations.FrameCommands : Prop :=
  ∀ (s : State) (pn f : Nat) (arg : DWord), frameIn (partOf s pn) f = true →
    let e := frameOf s f
    let answer (t : State) (v : DWord) : Host.Outcome State Fault Refusal :=
      .next (modPart t pn (fun p => setReg p .llcFsdata 0 v))
    let busy := e.tlbref ≠ 0 ∨ e.wp = true ∨ e.save = true ∨ e.flashing = true ∨ frameBusy s pn f = true
    exec (.fsRead pn f) s = answer s (frameWord e)
    ∧ (busy → exec (.fsRelease pn f) s = answer s 1)
    ∧ (¬ busy → e.state = 3 → exec (.fsRelease pn f) s = answer (modFrame s f (fun e => { e with
        state := 0, tenant := 0, fb := false, rd := false, dirty := false, block := 0 })) 0)
    ∧ (e.state = 0 → exec (.fsScrub pn f) s = answer (modFrame s f (fun e => { e with state := 1 })) 0)
    ∧ (e.state ≠ 0 → exec (.fsScrub pn f) s = answer s 1)
    ∧ (e.state = 1 → ∃ t, exec (.scrubComplete pn f) s = .next t ∧ (frameOf t f).state = 2 ∧ (frameOf t f).tenant = 0
      ∧ (∀ a k, a / 4096 = f → physByte t (partOf t pn) k a = 0) ∧ ∀ a, a / 4096 ≠ f → cellRead t.mem a = cellRead s.mem a)
    ∧ (e.state = 2 → e.tlbref = 0 → exec (.fsSetfile pn f arg) s = answer (modFrame s f (fun e => { e with
        fb := true, rd := arg.getLsbD 63, block := field arg 47 0 })) 0)
    ∧ (e.state ≠ 2 → exec (.fsSetfile pn f arg) s = answer s 1)
    ∧ exec (.fsReadcnt pn f) s = answer (modFrame s f (fun e => { e with accl := 0, accr := 0 })) (tv (e.accl * 2 ^ 16 + e.accr))

/-- Hardware migration (R326, R327) and the write-back scanner (R328): a frame that qualifies is copied to a frame of the
octant that fills it most, its leaf names the new frame, its translations are shot down and the move is posted; for want of a free
frame or of room for the record it is passed over until its next fill (R327); that the new frame's entry is OWNED by the old tenant is the
model's inference (notes/assumptions/48.md). A dirty
file frame is snapshot with its stores held, its bytes and block going to the storage port, and is clean once the flash write succeeds. -/
def Obligations.MigrationAndWriteBack : Prop :=
  ∀ (s u : State) (pn f o new : Nat) (t : TlbEntry), frameIn (partOf s pn) f = true →
    let p := partOf s pn
    let e := frameOf s f
    (p.tlb.find? (fun t => (t.asid, t.vpn) == e.tag && t.pages == 1 && leafFrame t.leaf == f) = some t →
      busiestOct p e = some o → migrates p e = true → e.passedOver = false →
      (∀ g ∈ p.fetches, g.frame ≠ f) → framePinned s pn f = false →
      let passes (t : State) : Prop := exec (.hardwareMigration pn f) s = .next (modFrame t f (fun e => { e with passedOver := true }))
      (migSize p ≤ ringUsed (reg p .llcMigci) → passes s)
      ∧ (ringUsed (reg p .llcMigci) < migSize p → takeMigFrame s pn o (migSize p) = (none, u) → passes u)
      ∧ (ringUsed (reg p .llcMigci) < migSize p → takeMigFrame s pn o (migSize p) = (some new, u) →
      let v := modFrame (copyFrame u f new) new (fun g => { g with state := 3, tenant := e.tenant })
      let w := shootApply (rewriteLeaf v pn t new) pn (fun a b n => a == t.asid && decide (b ≤ t.vpn) && decide (t.vpn < b + n))
      exec (.hardwareMigration pn f) s = .next (postMig (modFrame w f (fun _ => frameReset)) pn t.asid t.vpn f new)))
    ∧ ((reg p .llcWbctl).getLsbD 63 = true → e.fb = true → e.dirty = true → e.wp = false →
      exec (.writebackScanVisit pn f) s = .next (modPart
        (modFrame s f (fun e => { e with wp := true, dirty := false, flashing := true })) pn (fun p => { p with
          snapshots := fput p.snapshots f (physRead s p e.keyid (4096 * f) 4096, e.block) })))
    ∧ exec (.snapshotRead pn f) s = .next (modFrame s f (fun e => { e with wp := false }))
    ∧ (e.flashing = true → e.wp = false →
      let z := modPart s pn (fun p => { p with snapshots := fdel p.snapshots f })
      exec (.flashWriteComplete pn f true) s = .next (modFrame z f (fun e => { e with flashing := false }))
      ∧ exec (.flashWriteComplete pn f false) s = .next (modPart (modFrame z f (fun e => { e with
          flashing := false, dirty := true })) pn (fun p => setReg p .llcWberr 0 (reg p .llcWberr + 1))))

/-! ## The matrix unit (R148 to R176) -/

/-- The matrix instructions that act at once (R155, R162, R163, R166, R167, R172, R175): MMA arrives at the latch with its names,
its lanes and its place in the order of issue, and its path waits; MZERO resets slots; ACCSV and ACCLD move a slot to and from
scratchpad; SCLD fills scale memory and tags its units; MEPI writes the epilogue register; MBURST counts a burst; MSTAT reads and
clears the status; VPOP waits for its entry. MDRAIN (R167 to R171, R174, R203): once no set-aside access of the path keeps it back
or touches the scratchpad that it reads or writes, the slots are checked, then read through the epilogue; the rows wait, with the
translations that their lines have at issue, in an operation that the drain's flag counts, and the conditions are raised by lane. -/
def Obligations.MatrixWords : Prop :=
  (∀ (s t u : State) (x : Ctx) (acc k j : BitVec 6) (a b : BitVec 7) (n : BitVec 3) (int : BitVec 1) (m : BitVec 14),
    ctxOf s = some x →
    let done (f : CoreLaunch → CoreLaunch) : Host.Outcome State Fault Refusal :=
      .next (advance (modCl s x.c x.w.launch f) x .seq)
    let v := sReg x.w k
    (let an := winRun x.w a 32
      let fn := winName x.w b
      x.sp.idx = 1 → Settled x.w (iNames (an ++ [fn])) → ctxActive x ≠ 0 → Mapped x.w (an ++ [fn]) →
      reloadNames s x (an ++ [fn]) = .ok t → exec (.mma acc a b) s = .next (afterSpan (modW t x (fun w => modPath { w with
        span := none
        arrival := some ⟨s.stamp, x.sp.sec, ctxActive x, acc.toNat, an, fn, wordAddr x.sp x.sp.idx,
          if wordE (spanWord x.sp x.sp.idx) then some (continuation x.sp, liveWord x.sp) else none⟩ } x.sp.sec
        (fun p => { p with state := .waiting }))) x.c x.slot))
    ∧ (acc.toNat + n.toNat + 1 ≤ recAccs x.l.record → exec (.mzero acc n) s
      = done (fun h => (List.range (n.toNat + 1)).foldl (fun h i => setAcc h (acc.toNat + i) accReset) h))
    ∧ (Settled x.w [iS k] → acc.toNat < recAccs x.l.record → v.toNat % 16 = 0 → v.toNat + 32768 ≤ scratchBytes x.l →
      waitRuns s x [(v.toNat, 32768)] = .ok () →
      exec (.accsv acc k) s = done (fun h => scratchWrite h
        (((List.range 32768).zip ((fexpand 0 (accOf h acc.toNat).words 0 8192).flatMap bytesOf32)).map
          (fun e => (v.toNat + e.1, some e.2)) ++ (accOf h acc.toNat).poison.map (fun i => (v.toNat + 4 * i, none))))
      ∧ exec (.accld int acc k) s = done (fun h => setAcc h acc.toNat { accOf h acc.toNat with
          words := fcompact 0 (wordsOf ((scratchRead h v.toNat 32768).map (·.1)))
          tag := if int = 1 then .int else .fp
          checkValid := false
          poison := (List.range 8192).filter (fun i => setMem h.spoison ((v.toNat + 4 * i) / 16)) }))
    ∧ (let first := field (sReg x.w j) 15 0
      let c := field (sReg x.w j) 32 16
      let bs := scratchRead (clOf s x.c x.w.launch) v.toNat (2 * c)
      Settled x.w [iS k, iS j] → v.toNat % 2 = 0 → c ≠ 0 → first + c ≤ 65536 → v.toNat + 2 * c ≤ scratchBytes x.l →
      (∀ e ∈ pieces 512 first c, ∀ y, fget? (coreOf s x.c).scaleTag e = some y → y = x.l.tenant) →
      (∀ e ∈ bs, e.2 = false) →
      exec (.scld k j) s = .next (advance (modCore s x.c (fun q => { q with
        scale := (List.range c).foldl (fun m i => fset m (first + i)
          ((bs.getD (2 * i + 1) (0, false)).1 ++ (bs.getD (2 * i) (0, false)).1) 0) q.scale
        scaleTag := (pieces 512 first c).foldl (fun m e => fput m e x.l.tenant) q.scaleTag })) x .seq))
    ∧ (Settled x.w [iS k] → field v 63 45 = 0 → field v 21 0 = 0 → field v 29 26 < 8 → field v 24 22 < 6 →
      exec (.mepi k) s = .next (warpDone s x (fun w => { w with epi := v })))
    ∧ exec (.mburst m) s = done (fun h => { h with mburst := m.toNat })
    ∧ (Settled x.w [iS k] → exec (.mstat k) s = .next (warpDone s x (fun w => { setS w k w.mstat with mstat := 0 })))
    ∧ (let names := winRun x.w a 8
      LaneReady s x [] [] names [] [] t u → x.sp.pfxa = none → exec (.vpop a) s = .next (advance
        (issueLong u x (iNames names) (.vpop names (ctxActive x)) [] [] [] none).2 x .seq)))
  ∧ (∀ (s v : State) (x : Ctx) (own : BitVec 1) (acc a : BitVec 6) (rte : BitVec 3) (dest : BitVec 2), ctxOf s = some x →
    let slots := drainSlots x (own == 1) acc.toNat
    let base := (sRun x.w a 2).toNat
    let stride := field (sRun x.w a 3) 31 0
    let e := epilogueOf x.w (field (sRun x.w a 0) 31 0) (field (sRun x.w a 1) 31 0)
    let size := elemSize e.otype
    let runs := rowRuns base stride (256 * size) (32 * slots.length)
    let t := if dest = 1 then prepRuns s x.pn (some (x.c, x.l.id)) x.l.tenant .write runs else s
    let lines := if dest = 1 then (List.range (32 * slots.length)).foldl (fun l m =>
      (pieces 128 (base + m * stride) (256 * size)).foldl setAdd l) [] else []
    let u := slots.foldl (fun s n => checkAtDrain s x n) v
    let outs := slots.mapIdx (fun k n => slotRows e (if dest = 0 then 4 else size) (32 * k) (biasRow u x)
      (accOf (clOf u x.c x.w.launch) n))
    let f := raiseFlags u x.c x.slot (drainFlags (ctxActive x) (outs.map (·.2)))
    let i := issueLong f x [] .drain [] [] [] none
    let o := startOp i.2 x.pn x.c x.w.launch none (.drain x.slot i.1 x.sp.sec dest.toNat base stride
      (rteOf x.w rte.toNat) (outs.flatMap (·.1)))
    let maps : FMap (Nat × DWord) := lines.foldl (fun m l =>
      match resolve o.2 (partOf o.2 x.pn) ((asidFor (partOf o.2 x.pn) x.l.tenant (128 * l)).getD 0) l with
      | some y => fput m l y
      | none => m) []
    Settled x.w (iSRun a 4) → slots ≠ [] → slots.headD 0 + slots.length ≤ recAccs x.l.record →
    (dest = 3 → rteValid (rteOf x.w rte.toNat) = true) → (dest ≠ 0 → base % 16 = 0 ∧ stride % 16 = 0) →
    (dest = 2 → ∀ m, m < 32 * slots.length → base + m * stride + 256 * size ≤ scratchBytes x.l) →
    (x.w.epi.getLsbD 44 = true → 1024 * field x.w.epi 43 32 + 1024 ≤ scratchBytes x.l) →
    (dest = 1 ∨ dest = 3 → keptBack t x true = false) →
    waitRuns t x ((if x.w.epi.getLsbD 44 then [(1024 * field x.w.epi 43 32, 1024)] else []) ++ (if dest = 2 then
      (List.range (32 * slots.length)).map (fun m => (base + m * stride, 256 * size)) else [])) = .ok () →
    (dest = 1 → ∀ r ∈ runs, accCause t x r.1 1 false .write = none) →
    ownLines t x.pn x.c x.l.tenant [] lines = .ok v →
    exec (.mdrain own acc a rte dest) s = .next (advance (modOp o.2 x.c o.1 (fun q => { q with passed := true, maps := maps })) x .seq))

/-- Byte `q` of a row: byte q mod 4 of lane q div 4 (R150). -/
def rowByte (r : Row) (q : Nat) : Byte := (lane r (q / 4)).extractLsb' (8 * (q % 4)) 8

/-- The elements of a row or column for a type code (R149). -/
def elemsOf (ty : Nat) : Nat := if ty = 1 ∨ ty = 2 then 64 else if ty = 8 then 256 else 128

/-- The floating-point format of a type code, and the code of element `k` in it (R60, R150). -/
def elemFmt (ty : Nat) : Option Fmt :=
  if ty = 1 then some .f16 else if ty = 2 then some .bf16 else if ty = 3 then some .e4m3 else if ty = 4 then some .e5m2 else none
def elemCode (ty : Nat) (b : Nat → Byte) (k : Nat) : Nat :=
  if ty = 1 ∨ ty = 2 then (b (2 * k + 1) ++ b (2 * k)).toNat else (b k).toNat

/-- Element `k` of an integer type, and of Q4X where no byte holds a marker (R69, R70, R150). -/
def elemInt (ty : Nat) (b : Nat → Byte) (k : Nat) : Int :=
  if ty = 5 then (b k).toInt else if ty = 6 then ((b k).toNat : Int)
  else (let v := (b (k / 2)).toNat / 16 ^ (k % 2) % 16; if v < 8 then (v : Int) else (v : Int) - 16)

/-- Whether no byte of a Q4X row or column holds a marker (R70). -/
def NoMarker (ty : Nat) (b : Nat → Byte) : Prop := ty = 8 → ∀ q, q < 128 → (b q).toNat % 16 ≠ 8 ∧ (b q).toNat / 16 ≠ 8

/-- The number of element `k`, whether it is a NaN, and whether it is finite (R61, R69). -/
def elemNum (ty : Nat) (b : Nat → Byte) (k : Nat) : ℝ :=
  match elemFmt ty with
  | some f => codeNum f (elemCode ty b k)
  | none => elemInt ty b k
def elemNan (ty : Nat) (b : Nat → Byte) (k : Nat) : Prop := ∃ f, elemFmt ty = some f ∧ codeNan f (elemCode ty b k) = true
def elemFinite (ty : Nat) (b : Nat → Byte) (k : Nat) : Prop :=
  ∀ f, elemFmt ty = some f → codeNan f (elemCode ty b k) = false ∧ codeInf f (elemCode ty b k) = false

/-- A number is finite in FP32 and is the given one. -/
def IsNum (c : Nat) (z : ℝ) : Prop := c < 2 ^ 32 ∧ codeNan .f32 c = false ∧ codeInf .f32 c = false ∧ (codeNum .f32 c : ℝ) = z

/-- The reduction tree over exact leaves: each pair summed exactly and rounded once (R73, R74). -/
def TreeRne (p : Nat → ℝ) : Nat → Nat → ℝ → Prop
  | 0, i, z => z = p i
  | n + 1, i, z => ∃ u v, TreeRne p n (2 * i) u ∧ TreeRne p n (2 * i + 1) v ∧ Rne (u + v) z

/-- Lines 01 to 07 of R75 from block 0 to block `n`, where no step leaves the finite numbers: the products of a block are exact, their
sum is the tree's, it is scaled exactly and rounded once, and the accumulator takes it, rounded once. -/
def BlocksRne (a b sa sb : Nat → ℝ) (n : Nat) (acc : Nat → ℝ) : Prop :=
  ∀ i, i < n → ∃ t z, TreeRne (fun k => a (32 * i + k) * b (32 * i + k)) 5 0 t ∧ Rne (t * (sa i * sb i)) z ∧ Rne (acc i + z) (acc (i + 1))

/-- The activations (R168) of an FP32 code: the special cases as they stand, and the steps where none leaves the finite numbers. -/
def ActivatesTo (act y r : Nat) : Prop :=
  let fn (f : Nat → Nat) (z v : ℝ) : Prop := ∃ c, IsNum c z ∧ IsNum (f c) v
  if codeNan .f32 y then r = Fmt.f32.nanBits
  else if act = 1 then r = if 0 < codeOrd .f32 y then y else 0
  else if act = 2 then
    if codeInf .f32 y then r = (if codeNeg .f32 y then 0x80000000 else y)
    else
      let v : ℝ := codeNum .f32 y
      ∀ u u' t t' h z o o', Rne (v * v) u' → Rne (u' * v) u → Rne (u * k32 0x3D372713 + v) t' → Rne (t' * k32 0x3F4C422A) t →
        fn (fun c => (sfTanh false c).1) t h → Rne (1 + h) z → Rne (v * z) o' → Rne (o' * (1 / 2)) o → IsNum r o
  else if act = 3 then
    if codeInf .f32 y then r = (if codeNeg .f32 y then 0x80000000 else y)
    else
      let v : ℝ := codeNum .f32 y
      ∀ w e d q o, Rne (-v * k32 0x3FB8AA3B) w → fn (fun c => (sfEx2 false c).1) w e → Rne (1 + e) d →
        fn (fun c => (sfRcp false c).1) d q → Rne (v * q) o → IsNum r o
  else r = y

/-- What the matrix unit writes. A released MMA (R157, R160): each element of a member's slot is the old one, or 0 with ZF, plus the
product of the member's row and the tile's column: on the integer path exactly, modulo 2^32 (R72); on the floating-point path block by
block of 32 (R75), with the block scales where they are enabled (R31, R151), or the canonical NaN where anything that it takes is NaN;
an element of a lane outside ACTIVE is zero (R150; notes/assumptions/60.md); the slots are tagged (R154), and no other slot and no
memory changes. A drained element (R76, R168, R169): an INT element raw where the output type is INT32, else converted to FP32, scaled by
P, with the bias added, activated and converted to the output type, each step rounded once. -/
def Obligations.MatrixProducts : Prop :=
  (∀ (s u : State) (c n : Nat) (w : Warp) (ms : List (Nat × Option Warp)) (fw : Word), warpOf? s c n = some w → w.arrival.isSome →
    gangMembers s c n w = .ok ms → (∀ m ∈ ms, ∀ v, m.2 = some v → v.arrival.isSome) →
    let arrived : List Member := ms.map (fun m => ⟨m.1, m.2.bind (fun v => v.arrival.map (fun a => (v, a)))⟩)
    let acc := ((arrived.findSome? (·.w)).map (fun m => m.2.acc)).getD 0
    u = restoreTile s c (fwTile fw) (launchOf s w.launch).tenant w.launch →
    referenceWord s c arrived = some fw → tileHolds s c (fwTile fw) arrived = false →
    gangCheck s c w.launch arrived acc = none → tileCheck u c w.launch fw = none →
    (∀ m ∈ arrived, ∀ v b, m.w = some (v, b) → ∀ k ∈ b.fName :: b.aNames, ∃ r, nameOf v k = .resident r ∧ r < 24576
      ∧ (rowOf (coreOf u c) r).poison &&& b.active = 0) →
    let h := clOf u c w.launch
    let tile := tileOf (coreOf u c) (fwTile fw)
    (fkeys h.accs).Pairwise (· < ·) → (∀ e ∈ h.accs, (fkeys e.2.words).Pairwise (· < ·)) → (fkeys tile.bytes).Pairwise (· < ·) →
    ∃ t, exec (.gangRelease c n) s = .next t ∧ t.mem = u.mem
      ∧ (∀ k, k < acc ∨ acc + arrived.length ≤ k → accOf (clOf t c w.launch) k = accOf h k)
      ∧ ∀ j slot v b, arrived[j]? = some ⟨slot, some (v, b)⟩ →
        let old := accOf h (acc + j)
        let new := accOf (clOf t c w.launch) (acc + j)
        new.tag = (if fwInt fw then .int else .fp) ∧ ∀ i col, i < 32 → col < 256 →
          let was : Word := if fwZf fw then 0 else fget old.words (256 * i + col) 0
          let now : Word := fget new.words (256 * i + col) 0
          let row : Row := match nameOf v (b.aNames.getD i 0) with
            | .resident r => (rowOf (coreOf u c) r).words
            | _ => zeroRow
          let a (q : Nat) : Byte := if b.active.getLsbD (q / 4) then rowByte row q else 0
          let y (q : Nat) : Byte := fget tile.bytes (128 * col + q) 0
          let blocks := elemsOf (fwA fw) / 32
          let on (k : Nat) : Bool := b.active.getLsbD (k / blocks)
          let sa (e : Nat) : BitVec 16 := fget (coreOf u c).scale (512 * fwAsb fw + (32 * j + i) * blocks + e) 0
          let sb (e : Nat) : BitVec 16 := fget tile.side (col * blocks + e) 0
          let scale (v : BitVec 16) : Nat := v.toNat % 256
          b.aNames.length = 32 → NoMarker (fwA fw) a → NoMarker (fwB fw) y →
          (fwInt fw = true → now = was + BitVec.ofInt 32 (((List.range (elemsOf (fwA fw))).map (fun k =>
            elemInt (fwA fw) a k * elemInt (fwB fw) y k)).sum))
          ∧ (fwInt fw = false →
            let nan := codeNan .f32 was.toNat = true
              ∨ (∃ k, k < elemsOf (fwA fw) ∧ (on k = true ∧ elemNan (fwA fw) a k ∨ elemNan (fwB fw) y k))
              ∨ (∃ e, e < blocks ∧ (fwAse fw = true ∧ codeNan .e4m3 (scale (sa e)) = true
                  ∨ fwBse fw = true ∧ codeNan .e4m3 (scale (sb e)) = true))
            (nan → now = 0x7FC00000#32)
            ∧ (¬ nan → codeInf .f32 was.toNat = false →
              (∀ k, k < elemsOf (fwA fw) → (on k = true → elemFinite (fwA fw) a k) ∧ elemFinite (fwB fw) y k) →
              ∀ sum : Nat → ℝ, sum 0 = codeNum .f32 was.toNat →
                BlocksRne (fun k => if on k then elemNum (fwA fw) a k else 0) (elemNum (fwB fw) y)
                  (fun e => if fwAse fw then codeNum .e4m3 (scale (sa e)) else 1)
                  (fun e => if fwBse fw then codeNum .e4m3 (scale (sb e)) else 1) blocks sum →
                IsNum now.toNat (sum blocks))))
  ∧ (∀ (e : Epilogue) (size m0 i n : Nat) (bias : Option (List (Nat × Bool))) (a : AccSlot), i < 32 → n < 256 →
    (fkeys a.words).Pairwise (· < ·) →
    let x : Word := fget a.words (256 * i + n) 0
    let b := bias.map (fun l => (l.getD n (0, false)).1)
    ∃ r, (slotRows e size m0 bias a).1[i]? = some r ∧ r.m = m0 + i
      ∧ (r.bytes.drop (size * n)).take size = leBytes size (drainElem e (a.tag == .int) b x).1.toNat)
  ∧ (∀ (e : Epilogue) (int : Bool) (bias : Option Nat) (x : Word), e.otype < 8 → e.p.1 < 2 ^ 32 → (∀ v, bias = some v → v < 2 ^ 32) →
    (int = true → e.otype = 7 → (drainElem e int bias x).1 = x)
    ∧ ((int = false ∨ e.otype ≠ 7) → ∃ (y z b o : Nat × Flags) (r : Nat),
      (int = true → RoundsTo .f32 .rne false (x.toInt : ℝ) false y) ∧ (int = false → y.1 = x.toNat)
      ∧ ProductOf .f32 .rne false y.1 e.p.1 z
      ∧ (bias = none → b.1 = z.1) ∧ (∀ v, bias = some v → SumOf .f32 .rne false false z.1 v b)
      ∧ ActivatesTo e.act b.1 r ∧ r < 2 ^ 32
      ∧ convertedBy (some .f32) (if e.otype = 0 then some .f32 else elemFmt e.otype) 0 e.otype e.rm e.sat (BitVec.ofNat 32 r) o
      ∧ (drainElem e int bias x).1.toNat = o.1))

/-! ## Engines (R216 to R248) -/

/-- FWAIT, FTEST, FSTAT and FCANCEL on a handle that the launch may name (R223, R225, R227, R228), and what a handle says
of the future that an operation takes (R222). -/
def Obligations.Futures : Prop :=
  (∀ (s : State) (x : Ctx) (d a : BitVec 6), ctxOf s = some x → handleBad s x.pn x.w.launch (sReg x.w a) = false →
    let h := sReg x.w a
    (LastWord x → Settled x.w [iS a] → exec (.fwait a) s
      = .next (warpDone s x (fun w => modPath w x.sp.sec (fun p => { p with wait := .future h }))))
    ∧ (Settled x.w [iS a, iS d] →
      exec (.ftest d a) s = .next (scalarDone s x d (if handleComplete s h then 1 else 0))
      ∧ exec (.fstat d a) s = .next (scalarDone s x d (statusOf s h))
      ∧ (handleComplete s h = true → exec (.fcancel d a) s = .next (scalarDone s x d 0))
      ∧ (∀ o e, handleComplete s h = false → opOfHandle s h = some (o, e) →
        (e.passed = true → exec (.fcancel d a) s = .next (scalarDone s x d 0))
        ∧ (e.passed = false → exec (.fcancel d a) s
          = .next (scalarDone (endOp s (field h 62 55) o .cancelled cCancelled 0) x d 1)))))
  ∧ (∀ (s : State) (x : Ctx) (d a : BitVec 6), ctxOf s = some x → handleBad s x.pn x.w.launch (sReg x.w a) = true →
    Settled x.w [iS a, iS d] → exec (.ftest d a) s = .next (trapped s x cHandleBad (sReg x.w a)))
  ∧ (∀ (s t : State) (c l kind i : Nat) (h : DWord), c < 256 → i < 1024 → kind < 32 → takeFuture s c l kind = .ok (i, h, t) →
    (futOf (coreOf s c) i).free = true ∧ h.getLsbD 63 = true ∧ field h 62 55 = c ∧ field h 54 45 = i ∧ field h 44 40 = kind
    ∧ h.extractLsb' 0 40 = (futOf (coreOf s c) i).gen + 1
    ∧ (futOf (coreOf t c) i).gen = (futOf (coreOf s c) i).gen + 1 ∧ (futOf (coreOf t c) i).state = .running
    ∧ (futOf (coreOf t c) i).launch = l ∧ ∀ j, j ≠ i → futOf (coreOf t c) j = futOf (coreOf s c) j)

/-- TLD, TST, TCPY, TMCAST, GATH and SCAT (R216, R217, R223, R231): a descriptor within its limits starts one operation
with a future, whose handle goes to sD, once no set-aside access of the path keeps it back or touches its scratchpad (R211,
R217); a bad descriptor and a misaligned one trap. -/
def Obligations.TileOperations : Prop :=
  ∀ (s u v : State) (x : Ctx) (d a b : BitVec 6) (g : BitVec 2) (i grp : Nat) (h : DWord), ctxOf s = some x →
    Settled x.w (iSRun a 4 ++ [iS d]) → Settled x.w (iSRun a 4 ++ [iS b] ++ [iS d]) →
    let c := sRun x.w a 2
    let e := sRun x.w a 3
    let q : TileDesc := ⟨(sRun x.w a 0).toNat, (sRun x.w a 1).toNat, field c 47 32, field c 31 0, field e 31 0, field e 63 32, [],
      false⟩
    let shaped := field c 63 48 = 0 ∧ q.rows ≠ 0 ∧ q.rowBytes % 16 = 0 ∧ 16 ≤ q.rowBytes ∧ q.rowBytes ≤ 65536
    let aligned := q.src % 16 = 0 ∧ q.dst % 16 = 0 ∧ q.dstride % 16 = 0 ∧ q.sstride % 16 = 0
    let srcFits := q.src + rowsSpan q.rows q.rowBytes q.sstride ≤ scratchBytes x.l
    let dstFits := q.dst + rowsSpan q.rows q.rowBytes q.dstride ≤ scratchBytes x.l
    let idx := indexList s x (sReg x.w b).toNat q.rows
    let idxRun := ((sReg x.w b).toNat, 4 * q.rows)
    let idxFits := (sReg x.w b).toNat % 4 = 0 ∧ (sReg x.w b).toNat + 4 * q.rows ≤ scratchBytes x.l
    let starts (kind : Nat) (q : TileDesc) (src dst : Place) (o : Host.Outcome State Fault Refusal) : Prop :=
      keptBack s x true = false → takeFuture s x.c x.w.launch kind = .ok (i, h, u) →
      ownLines u x.pn x.c (launchOf u x.w.launch).tenant (if src = .memory then tileLines q else [])
        (if dst = .memory then tileDstLines q else []) = .ok v →
      o = .next (engineDone (startOp v x.pn x.c x.w.launch (some i) (.tile q src dst)).2 x d h)
    (shaped → aligned →
      (dstFits → waitRuns s x (dstRuns q) = .ok () → starts 4 q .memory (.scratch [x.c]) (exec (.tld d a) s))
      ∧ (srcFits → waitRuns s x (srcRuns q) = .ok () → starts 5 q (.scratch [x.c]) .memory (exec (.tst d a) s))
      ∧ starts 6 q .memory .memory (exec (.tcpy d a) s)
      ∧ (dstFits → groupOf x g = .ok grp → waitRuns s x (dstRuns q) = .ok () → starts 7 q .memory (.scratch (groupCores x.l grp)) (exec (.tmcast d a g) s))
      ∧ (dstFits → idxFits → waitRuns s x (idxRun :: dstRuns q) = .ok () → starts 8 { q with idx := idx } .memory (.scratch [x.c]) (exec (.gath d a b) s))
      ∧ (srcFits → idxFits → waitRuns s x (idxRun :: srcRuns q) = .ok () →
        starts 9 { q with idx := idx, idxDst := true } (.scratch [x.c]) .memory (exec (.scat d a b) s)))
    ∧ (¬ shaped → exec (.tld d a) s = .next (trapped s x cDescBad c) ∧ exec (.tst d a) s = .next (trapped s x cDescBad c)
      ∧ exec (.tcpy d a) s = .next (trapped s x cDescBad c) ∧ exec (.gath d a b) s = .next (trapped s x cDescBad c)
      ∧ exec (.scat d a b) s = .next (trapped s x cDescBad c))
    ∧ (shaped → q.src % 16 ≠ 0 → exec (.tcpy d a) s = .next (trapped s x cMisaligned (sRun x.w a 0)))

/-- BFILL and BFILLS start a fill of a B tile, at once, or behind the fills that are still to claim the tile, its owner's running
fill and its owner's MMAs issued before (R148, R164, R165, R267; which can be claimed, and when an MMA counts as issued, is
DEDUCED, notes/assumptions/39.md); QFEED starts a fill of a queue's tail entry, QPOP claims the head entry, QREL empties a popped
FULL entry (R235 to R237); FEEDGO starts the feed program with its two registers (R232); that the future of one whose entry
address is above 56 bits fails at once with CTL_BAD_TARGET is the model's inference (notes/assumptions/45.md). -/
def Obligations.FillsAndQueues : Prop :=
  ∀ (s u v : State) (x : Ctx) (d a b : BitVec 6) (key : BitVec 4) (q : BitVec 3) (i : Nat) (h : DWord), ctxOf s = some x →
    let l := x.w.launch
    (let col := (sRun x.w a 0).toNat
      let side := (sRun x.w a 1).toNat
      let c := sRun x.w a 2
      let n := field c 6 0
      let fmt := field c 11 8
      let stride := field c 63 32
      let tile := tileOf (coreOf s x.c) n
      let later := claimsBefore s x.c n s.stamp = true
        ∨ (tileForeign tile x.l.tenant l = true ∧ (tile.state = .filling ∨ ownerWaits s x.c tile.tenant s.stamp = true))
      let starts (key : Option Nat) (kind : Nat) (o : Host.Outcome State Fault Refusal) : Prop :=
        keptBack s x true = false → takeFuture s x.c l kind = .ok (i, h, u) →
        ownLines u x.pn x.c x.l.tenant (fillLines col side stride fmt) [] = .ok v →
        (later → o = .next (engineDone
          (startOp v x.pn x.c l (some i) (.fill n col side stride fmt key true)).2 x d h))
        ∧ (¬ later → (tileForeign tile x.l.tenant l = true → tileClaimable s x.c n = true) →
          let r := startOp v x.pn x.c l (some i) (.fill n col side stride fmt key false)
          o = .next (engineDone (giveTile r.2 x.c n r.1 x.l.tenant l fmt (sRun x.w a 1 != 0)) x d h))
      Settled x.w (iSRun a 3 ++ [iS d]) → field c 31 12 = 0 → c.getLsbD 7 = false → fmt ∈ [1, 2, 3, 4, 5, 6, 8] →
      col % 128 = 0 → stride % 128 = 0 → side % 2 = 0 →
      starts none 24 (exec (.bfill d a) s)
      ∧ (∀ slot, fget? (partOf s x.pn).keys key.toNat = some slot → slot.loaded = true → slot.launch = l →
        starts (some key.toNat) 25 (exec (.bfills d a key) s)))
    ∧ (let qd := qdOf s x.c l q.toNat
      let c := sRun x.w a 1
      let rb := field c 31 0
      let size := 16 * qdEsize qd
      let stride := field c 63 32
      let e := qdTail qd
      let desc : TileDesc := ⟨(sRun x.w a 0).toNat, 16 * (qdBase qd + e * qdEsize qd), size / rb, rb, stride, rb, [], false⟩
      Settled x.w (iSRun a 2 ++ [iS d]) → qdDepth qd ≠ 0 → rb ≠ 0 → rb % 16 = 0 → size % rb = 0 → stride % 16 = 0 →
      (fillsWaiting s x.c l q.toNat).length < field (reg (partOf s x.pn) .schNakcfg) 7 0 →
      keptBack s x true = false → takeFuture s x.c l 11 = .ok (i, h, u) →
      ownLines u x.pn x.c (launchOf u l).tenant (tileLines desc) [] = .ok v →
      let r := startOp (putQd v x.c l q.toNat (setField qd 55 48 ((e + 1) % qdDepth qd))) x.pn x.c l (some i)
        (.queueFill q.toNat e desc false)
      exec (.qfeed d a q) s = .next (engineDone (offerFill r.2 x.pn x.c r.1) x d h))
    ∧ (let qd := qdOf s x.c l q.toNat
      let e := qdHead qd
      Settled x.w [iS d] →
      (ctxActive x ≠ 0 → qdDepth qd ≠ 0 → (qEntry s x.c l q.toNat e).popped = false →
        exec (.qpop d q) s = .next (advance (issueLong (putQd (modQEntry s x.c l q.toNat e (fun v => { v with popped := true }))
          x.c l q.toNat (setField qd 47 40 ((e + 1) % qdDepth qd))) x [iS d] (.qpop d q.toNat e) [] [] [] none).2 x .seq))
      ∧ (ctxActive x = 0 → exec (.qpop d q) s = .next (advance (markPending s x [iS d]) x .seq)))
    ∧ (let qd := qdOf s x.c l q.toNat
      let e := field (sReg x.w b) 39 32
      let full := e < qdDepth qd ∧ (qEntry s x.c l q.toNat e).state = .full ∧ (qEntry s x.c l q.toNat e).popped = true
      Settled x.w [iS b] →
      (full → exec (.qrel q b) s = .next (advance (modQEntry (modCl s x.c l (fun h => setFull h
        ((List.range (qdEsize qd)).map (fun g => qdBase qd + e * qdEsize qd + g)) false)) x.c l q.toNat e
        (fun _ => ⟨.empty, false⟩)) x .seq))
      ∧ (¬ full → exec (.qrel q b) s = .next (trapped s x cQueueState (tv e))))
    ∧ (let r := startOp u x.pn x.c l (some i) .feedgo
      let regs : Vector DWord 64 := ((Vector.replicate 64 0).set 0 (sRun x.w a 1)).set 1
        (tv (if x.w.resp.isSome then 0xFFFFFFFF else x.w.lwarp))
      let entry := sRun x.w a 0
      Settled x.w (iSRun a 2 ++ [iS d]) →
      (keptBack s x true = false → takeFuture s x.c l 10 = .ok (i, h, u) → (clOf s x.c l).feed = none →
        let t := modCl r.2 x.c l (fun q => { q with
          feed := some ⟨r.1, entry.setWidth 57, entry.setWidth 57, regs, [], none, false, none⟩ })
        exec (.feedgo d a) s = .next (engineDone (if entry.toNat < 2 ^ 57 then t
          else endOp t x.c r.1 .failed cBadTarget 0) x d h))
      ∧ ((clOf s x.c l).feed.isSome → exec (.feedgo d a) s = .next (trapped s x cFeedBusy 0)))

/-- QPOST and QPOST.AT post a work entry that its checks pass, once no set-aside access of the path touches it (R205, R217, R238,
R243); CTRADD adds to a counter of the tenant once the core's stores are visible and CTRWAIT holds the path's next span (R242);
CABORT starts the abort of a tree at this rank, or takes the bitmap of one that has ended (R244); LAUNCH hands a record to the
dispatcher (R246). -/
def Obligations.CollectiveWords : Prop :=
  ∀ (s u v : State) (x : Ctx) (d a b : BitVec 6) (cnt : BitVec 8) (i : Nat) (h : DWord), ctxOf s = some x →
    let l := x.w.launch
    (let off := sReg x.w a
      let w := dwordsOf ((scratchRead (clOf s x.c l) off.toNat 64).map (·.1)) 8
      let r := rteOf x.w (postRte w)
      let checked := off.toNat + 64 ≤ scratchBytes x.l ∧ off.toNat % 16 = 0 ∧ postBad w = false
        ∧ treeOk s (partOf s x.pn) (postTree w) x.l.tenant = true ∧ (postSrc w).toNat % 16 = 0 ∧ (postRoff w).toNat % 16 = 0
        ∧ rteValid r = true ∧ (postArmv w = true → (counterOf (partOf s x.pn) (postArmcnt w)).2 = x.l.tenant)
        ∧ (postDonev w = true → (counterOf (partOf s x.pn) (postDonecnt w)).2 = x.l.tenant)
        ∧ ownLines u x.pn x.c x.l.tenant (pieces 128 (postSrc w).toNat (postLen w)) [] = .ok v
      let posts (time : Option DWord) (late : Bool) : State :=
        (startOp (takeFree v).2 x.pn x.c l (some i) (.post ⟨w, r, time, late, v.stamp, false, 0⟩)).2
      checked → waitRuns s x [(off.toNat, 64)] = .ok () → keptBack s x true = false →
      (Settled x.w [iS a, iS d] → takeFuture s x.c l 14 = .ok (i, h, u) →
        exec (.qpost d a) s = .next (engineDone (posts none false) x d h))
      ∧ (Settled x.w [iS a, iS b, iS d] → takeFuture s x.c l 15 = .ok (i, h, u) →
        ∃ late, exec (.qpostAt d a b) s = .next (engineDone (posts (some (sReg x.w b)) late) x d h)))
    ∧ (Settled x.w [iS d] →
      ((counterOf (partOf s x.pn) cnt.toNat).2 = x.l.tenant →
        (keptBack s x false = false → storesDone s x.pn x.c = true →
          exec (.ctradd d cnt) s = .next (advance (counterAdd s x.pn cnt.toNat ((sReg x.w d).setWidth 32)) x .seq))
        ∧ (LastWord x → exec (.ctrwait d cnt) s = .next (warpDone s x (fun w => modPath w x.sp.sec (fun p =>
          { p with wait := .counter cnt.toNat ((sReg x.w d).setWidth 32) })))))
      ∧ ((counterOf (partOf s x.pn) cnt.toNat).2 ≠ x.l.tenant →
        exec (.ctradd d cnt) s = .next (trapped s x cCtrForeign (tv cnt.toNat))))
    ∧ (let t := field (sReg x.w a) 7 0
      let at_ := (sReg x.w b).toNat
      let r := startOp u x.pn x.c l (some i) (.cabort t at_)
      let w := modOp r.2 x.c r.1 (fun e => { e with passed := true })
      Settled x.w [iS a, iS b, iS d] → treeOk s (partOf s x.pn) t x.l.tenant = true → at_ % 16 = 0 →
      at_ + ceilDiv (treeSize s (partOf s x.pn) t) 8 ≤ scratchBytes x.l → keptBack s x true = false →
      takeFuture s x.c l 19 = .ok (i, h, u) →
      ((treeOf (partOf s x.pn) t).bitmap = none → exec (.cabort d a b) s = .next (engineDone
        (startAbort (modTree w x.pn t (fun q => { q with issuers := q.issuers ++ [(x.c, r.1)] })) x.pn t) x d h))
      ∧ (∀ bits, (treeOf (partOf s x.pn) t).bitmap = some bits →
        exec (.cabort d a b) s = .next (engineDone (writeBitmap w x.c r.1 bits) x d h)))
    ∧ (let va := sReg x.w a
      let r := startOp v x.pn x.c l (some i) (.launch none)
      Settled x.w [iS a, iS d] → va.toNat % 128 = 0 → keptBack s x true = false → takeFuture s x.c l 20 = .ok (i, h, u) →
      ownLines u x.pn x.c x.l.tenant [va.toNat / 128] [] = .ok v →
      exec (.launch d a) s = .next (engineDone (modPart r.2 x.pn (fun p => { p with
        pending := p.pending ++ [⟨va.toNat, x.l.tenant, 0, .child x.c r.1, none⟩] })) x d h))

/-! ## Events of a core -/

/-- The first span of a path that a free issue slot chooses starts: its block is fetched, its marks are cleared, its words are in
issue (R41, R46, R309, R310), and a path whose block has still to come stands where it is (R294); a ready path is promoted (R310);
what a long-latency word waited for lands and its flag counts it no more (R17, R45, R172, R236); a warp that BKPT stopped is let
go on (R279), which waits until its issue slot runs no other span (notes/assumptions/59.md). A gang whose members have all arrived
takes the effect of its MMA when its checks pass and no fill that was issued before it holds its tile (R148, R157, R160;
notes/assumptions/39.md); where a member is missing, every arrived one traps with that (R158); a member in no span enters trap
mode with its deferred trap (R273). A path of a launch that has been asked to stop stops at a safe point or where it waits, with
its live mask, and its arrival is withdrawn (R155, R357); a scan test alone stops it at safe points only (R380); that an unmet
start condition counts as waiting is DEDUCED (notes/assumptions/50.md); with the last path of the launch on the core the dead
state there is discarded (R358); once the budget has passed, it stops at its next boundary (R357). -/
def Obligations.WarpEvents : Prop :=
  (∀ (s : State) (c n k : Nat) (sec : Bool) (w : Warp),
    (∀ e cr sv, slotBusy s c (n % 4) = false → (coreOf s c).fenced = false →
      choosePath (refreshAges s c) c (n % 4) = some (e, cr, sv) →
      let t := modCore (refreshAges s c) c (fun q => { q with credits := cr, served := sv })
      warpOf? t c e.1 = some w →
      let pn := partOfCore t c
      let tenant := (launchOf t w.launch).tenant
      let p := pathOf w e.2
      let who := askPath c e.1 e.2
      let u := prepBlock t pn c (launchOf t w.launch).id who tenant p.pc.toNat
      let sp := nextSpan u c pn tenant w e.2
      fetchCause u (partOf u pn) c tenant p.pc.toNat = none → p.unchecked = false →
      (blockAway u (partOf u pn) c who tenant p.pc.toNat = true → exec (.spanIssue c n false) s = .next u)
      ∧ (blockAway u (partOf u pn) c who tenant p.pc.toNat = false →
      headerFaulty sp.hword (sp.header.toNat % 128 / 4) = false →
      ∃ v, exec (.spanIssue c n false) s = .next v ∧ warpOf? v c e.1 = some (modPath (modPath { w with
          span := some sp, pend := w.pend.filter (fun q => !clearsPend e.2 (headerWait sp.hword) q) } e.2 (fun p =>
        { p with wait := .none, state := .ready, promoted := false, readySince := 0, unchecked := false, eret := false, handler := false }))
          (!e.2) (fun p => { p with readySince := 0 }))))
    ∧ (pathReady s c n sec = true → ∃ t, exec (.pathPromotion c n sec) s = .next t
      ∧ ∀ v, warpOf? t c n = some v → (pathOf v sec).promoted = true)
    ∧ (warpOf? s c n = some w →
      (slotBusy s c (n % 4) = false →
        ∃ t, exec (.debugResume c n) s = .next t ∧ warpOf? t c n = some { w with bkptStop := false })
      ∧ ∀ o, longOf w k = some o → o.kill = none →
        let done (t : State) (names : List NameWrite) (scalars : List (Nat × DWord)) : Prop :=
          exec (.longLatencyComplete c n k) s
            = .next (dropLong (landWrites t c n { o with names := names, scalars := scalars }) c n o.id)
        (o.kind = .value → (∀ l ∈ o.lines, lineFetching (partOf s (partOfCore s c)) l.1 l.2 = false) →
          done s o.names o.scalars)
        ∧ (∀ names act e, o.kind = .vpop names act → popsBefore w o = false →
          (coreOf s c).drainQ.find? (fun e => e.warp == n && e.launch == w.launch) = some e →
          done (modCore s c (fun q => { q with drainQ := q.drainQ.erase e })) (popWrites names act e) o.scalars)
        ∧ (∀ d q i, o.kind = .qpop d q i → (qEntry s c w.launch q i).state = .full →
          done s o.names [(d.toNat, tv (i * 2 ^ 32
            + 16 * (qdBase (qdOf s c w.launch q) + i * qdEsize (qdOf s c w.launch q))))])))
  ∧ (∀ (s u : State) (c n : Nat) (w : Warp) (a : Arrival) (fw : Word), warpOf? s c n = some w →
    (w.arrival = some a →
      (∀ ms, gangMembers s c n w = .ok ms → (∀ m ∈ ms, ∀ v, m.2 = some v → v.arrival.isSome) →
        let arrived : List Member := ms.map (fun m => ⟨m.1, m.2.bind (fun v => v.arrival.map (fun a => (v, a)))⟩)
        let acc := ((arrived.findSome? (·.w)).map (fun m => m.2.acc)).getD 0
        u = restoreTile s c (fwTile fw) (launchOf s w.launch).tenant w.launch →
        referenceWord s c arrived = some fw →
        (tileHolds s c (fwTile fw) arrived = true → exec (.gangRelease c n) s = .next s)
        ∧ (tileHolds s c (fwTile fw) arrived = false →
        gangCheck s c w.launch arrived acc = none → tileCheck u c w.launch fw = none →
        exec (.gangRelease c n) s = .next (takeGangFree (mmaEffect u c w.launch arrived acc fw) arrived)))
      ∧ (∀ k, gangMembers s c n w = .error k → exec (.gangRelease c n) s = .next ((gangSlots w n).foldl (fun s m =>
          match warpOf? s c m with
          | some v => if v.launch = w.launch then gangTrap s c m cGangLost (tv k) else s
          | none => s) s)))
    ∧ (∀ cause sec, w.deferred = some (cause, sec) → w.span = none → exec (.gangTrapDeferredEntry c n) s
      = .next (trapEnter s c n sec ((pathOf w sec).pc + 4) cause.code cause.tval)))
  ∧ (∀ (s : State) (c n l : Nat) (sec : Bool) (w : Warp) (r : StopReq) (lw : Word),
    (warpOf? s c n = some w → (launchOf s w.launch).stop = some r → (launchOf s w.launch).status = .halting →
      (pathOf w sec).stopped = none →
      w.deferred = none → (w.span.map (·.sec)) ≠ some sec →
      ((pathOf w sec).state = .vacant ∧ lw = 0
        ∨ (pathOf w sec).state ≠ .vacant ∧ (pathOf w sec).atSafePoint = some lw
        ∨ (pathOf w sec).state ≠ .vacant ∧ (pathOf w sec).atSafePoint = none ∧ r.firm = true
          ∧ (r.overdue = true ∨ pathWaits s c n w sec = true) ∧ lw = 0xFFFFFFFF) →
      let v := modPath w sec (fun p => { p with stopped := some lw })
      let t := setWarp s c n { v with arrival := v.arrival.filter (fun a => a.sec != sec) }
      ((∀ e ∈ warpsOn t c w.launch, warpStopped e.2 = true) →
        exec (.pathStop c n sec) s = .next (haltIfStopped (discardDead t c w.launch) w.launch))
      ∧ ((∃ e ∈ warpsOn t c w.launch, warpStopped e.2 = false) →
        exec (.pathStop c n sec) s = .next (haltIfStopped t w.launch)))
    ∧ (exec (.preemptBudgetExpire l) s = .next (modLaunch s l (fun v =>
        { v with stop := v.stop.map (fun r => { r with overdue := r.overdue || r.firm }) }))))

/-- An engine operation that copies rows writes one of its units, whose source lines it has then read (R216, R217, R218,
R231), and a fill one of its tile's (R151, R164); each completes once all are written (R218, R164, R235). The next row of
a drain goes to the drain queue, to memory, to the scratchpad or into a packet, and the last one that has arrived ends
the drain (R170, R171). -/
def Obligations.EngineEvents : Prop :=
  (∀ (s : State) (c k u : Nat) (op : EngineOp), fget? (coreOf s c).engines k = some op → op.failed = none →
    let pn := partOfCore s c
    (setMem (opUnits c op) u = true → setMem op.done u = false →
      (∀ d src dst, opPlaces c op = some (d, src, dst) → (∀ q i d, op.kind ≠ .queueFill q i d false) →
        let stays := match op.kind with
          | .move _ _ _ _ _ _ => true
          | _ => false
        let run := match dst with
          | .memory => (128 * u, 128)
          | .scratch _ => (16 * (u / 256), 16)
        let parts := coveredBytes d run.1 run.2
        let from_ (e : Nat × Nat × Nat) : Nat := tileSrc d e.2.1 + e.2.2
        let lines := match src with
          | .memory => parts.foldl (fun l e => setAdd l (from_ e / 128)) []
          | .scratch _ => []
        let fresh := lines.filter (fun l => !op.read.any (fun e => e.1 == l))
        let who : Who := some (c, (launchOf s op.launch).id)
        let s₁ := prepRuns s pn who op.tenant .read (fresh.map (fun l => (128 * l, 1)))
        let s₂ := match dst with
          | .memory => prepRange s₁ pn who op.tenant .write run.1 1
          | .scratch _ => s₁
        let s₃ := opTouch s₂ pn c op fresh (match dst with
          | .memory => [u]
          | .scratch _ => [])
        let op' := match src with
          | .memory => keepLines s₃ pn op lines
          | .scratch cs => keepGranules s₃ (cs.headD c) op (parts.foldl (fun l e => setAdd l (from_ e / 16)) [])
        let s₄ := dropAnswers s₃ pn (askOp op'.order)
        let byte (e : Nat × Nat × Nat) : Byte × Bool := match src with
          | .memory => (opLine s₄ pn op' (from_ e / 128)).getD (from_ e % 128) (0, false)
          | .scratch _ => (((op'.read.find? (fun r => r.1 == from_ e / 16)).map (·.2)).getD []).getD (from_ e % 16) (0, false)
        let bs := markedBytes (parts.map (fun e => (e.1, byte e)))
        let t := modOp s₄ c k (fun _ => { op' with
          done := setAdd op'.done u, passed := op'.passed || !stays })
        (∀ l ∈ fresh, runFault s₂ pn op.tenant (128 * l) 1 0 .read = none ∧ opLineHeld s₃ pn c op l false = false) →
        (dst = .memory → runFault s₂ pn op.tenant run.1 1 0 .write = none → opLineHeld s₃ pn c op u true = false →
          exec (.engineLineWrite c k u) s = .next (engineStore t pn c op' u bs))
        ∧ (∀ cs, dst = .scratch cs → exec (.engineLineWrite c k u) s = .next (modCl t (u % 256) op'.launch (fun h =>
            setFull (scratchWrite h (bs.map (fun e => (run.1 + e.1, e.2)))) [u / 256] true))))
      ∧ (∀ n col side stride fmt key, op.kind = .fill n col side stride fmt key false →
        let slot := key.map (fun k => fget (partOf s pn).keys k ⟨false, 0, 0, 0, 0⟩)
        let va := (fillRun col side stride u).1
        let s₂ := prepRange s pn (some (c, (launchOf s op.launch).id)) op.tenant .read va 128
        let lines := pieces 128 va 128
        let fresh := lines.filter (fun l => !op.read.any (fun e => e.1 == l))
        let s₃ := opTouch s₂ pn c op fresh []
        let op' := keepLines s₃ pn op lines
        let s₄ := dropAnswers s₃ pn (askOp op'.order)
        let all := lines.flatMap (fun l => fillLine slot l (opLine s₄ pn op' l))
        let bs := (all.drop (va % 128)).take 128
        (tileOf (coreOf s c) n).fills.head? = some k → va < 2 ^ 57 →
        fillFault s₂ pn op slot va (fillRun col side stride u).2 = none →
        (∀ l ∈ fresh, opLineHeld s₃ pn c op l false = false) → (∀ b ∈ bs, b.2 = false) →
        exec (.engineLineWrite c k u) s = .next (modCore (modOp s₄ c k (fun _ => { op' with
          done := setAdd op'.done u, passed := true })) c (fun q => setTile q n
            (if u < 256 then tileWrite (tileOf q n) (128 * u) (bs.map (·.1))
             else sideWrite (tileOf q n) (64 * (u - 256)) (bs.map (·.1)))))))
    ∧ (allWritten c op = true →
      (∀ d src dst, op.kind = .tile d src dst → opVisible s pn c op d dst = true → unreadFault s pn op d src = none →
        exec (.tileTransferComplete c k) s = .next (endOp s c k .done 0 0))
      ∧ (∀ n col side stride fmt key, op.kind = .fill n col side stride fmt key false →
        let t := tileOf (coreOf s c) n
        exec (.bfillComplete c k) s = .next (endOp (modCore s c (fun q => setTile q n { t with
          fills := setDel t.fills k
          state := if (setDel t.fills k).isEmpty then (if key.isSome then .sealed else .valid) else .filling
          tenant := op.tenant, launch := op.launch, fmt := fmt, scales := side != 0 })) c k .done 0 0))
      ∧ (∀ q i d, op.kind = .queueFill q i d true → exec (.qfeedFillComplete c k) s
        = .next (endOp (modQEntry s c op.launch q i (fun v => { v with state := .full })) c k .done 0 0))))
  ∧ (∀ (s : State) (c n k : Nat) (op : EngineOp) (lo : Nat) (sec : Bool) (dest base stride : Nat) (route : DWord)
    (rows : List DrainRow), fget? (coreOf s c).engines k = some op →
    op.kind = .drain n lo sec dest base stride route rows →
    let pn := partOfCore s c
    (rows = [] → drainArrived s pn c k op = true → exec (.drainRowDeliver c n k) s = .next (endDrain s c n k lo))
    ∧ (∀ r rest, rows = r :: rest →
      let marked := r.bytes.mapIdx (fun i b => (i, (b, setMem r.poison (i / (r.bytes.length / 256)))))
      let va := (base + r.m * stride) % 2 ^ 64
      let at_ := base + r.m * stride
      let goes (t : State) (lines : List Nat) : Prop :=
        let op' := { op with kind := .drain n lo sec dest base stride route rest, done := lines.foldl setAdd op.done }
        let t := modOp t c k (fun _ => op')
        exec (.drainRowDeliver c n k) s
          = .next (if rest.isEmpty && drainArrived t pn c k op' then endDrain t c n k lo else t)
      (dest = 0 → ((launchWarp? s c op.launch n).bind (fun w => longOf w lo)).isSome →
        queueBehind (coreOf s c) op.order = false → (coreOf s c).drainQ.length < 64 →
        goes (modCore s c (fun q => { q with
          drainQ := q.drainQ ++ ([⟨n, op.launch, wordsOf r.bytes, r.poison⟩] : List DrainEntry) })) [])
      ∧ (dest = 1 → (∀ l ∈ pieces 128 va r.bytes.length, opLineHeld s pn c op l true = false) →
        goes ((pieces 128 va r.bytes.length).foldl (fun s l => engineStore s pn c op l (markedBytes
          ((marked.filter (fun e => (va + e.1) / 128 == l)).map (fun e => ((va + e.1) % 128, e.2))))) s)
          (pieces 128 va r.bytes.length))
      ∧ (dest = 2 → goes (modCl s c op.launch (fun h => setFull (scratchWrite h
          ((markedBytes marked).map (fun e => (at_ + e.1, e.2)))) (pieces 16 at_ r.bytes.length) true)) [])
      ∧ (dest = 3 → r.poison = [] → peerFenced s (partOf s pn) (routeRank (partOf s pn) route) = false →
        goes (sendPacket s pn { packetTo (partOf s pn) .data (routeRank (partOf s pn) route)
          (BitVec.ofNat 32 (rteQp route)) with
            first := true, last := true, roff := BitVec.ofNat 64 at_, payload := r.bytes } (some (c, k))) [])))

/-- A feed program's next span runs with the launch's feed registers, and the program goes on, ends, or stands before a word that must
wait, from which it goes on later (R232, R233, R312); its block may have to come first (R294). A
posted entry that may fire is sent as packets of its chunk, its source read once, its future marked late or skewed; on an
aborted tree, to a fenced peer, or from a source that fails, it ends with that (R217, R225, R229, R239, R243, R244). -/
def Obligations.FeedsAndPosts : Prop :=
  (∀ (s : State) (c l : Nat) (f : Feed), (clOf s c l).feed = some f →
    let v := launchOf s l
    let pn := partOfCore s c
    let who := askOp f.op
    let w : Warp := { warpReset l 0 f.pc 0 0 (Vector.replicate 4 0) with s := f.s, tags := f.tags }
    let s₁ := prepBlock s pn c v.id who v.tenant f.pc.toNat
    let sp := nextSpan s₁ c pn v.tenant w false
    let away := blockAway s₁ (partOf s₁ pn) c who v.tenant f.pc.toNat
    let go (o : State) : Prop := exec (.feedSpanIssue c l) s = .next o
    -- what the words of a span leave, from a state on
    let runs (z : State) (sp : Span) : Prop :=
      let s₂ := modLaunch (modOp (setWarp { z with cur := (c, feedSlot) } c feedSlot { w with
        span := some sp, tvec := f.pc }) c f.op (fun e => { e with passed := true })) l (fun v => { v with term := none })
      let back (t : State) : State := { modLaunch (clearFeedSlot t c) l (fun q => { q with term := v.term }) with cur := z.cur }
      let put (t : State) (g : Feed) : State := modCl (back t) c l (fun h => { h with feed := some g })
      (∀ t, runFeed c 32 s₂ = .exited t → go (endOp (back t) c f.op .done 0 0))
      ∧ (∀ t cause pc, runFeed c 32 s₂ = .failed t cause pc → go (failFeed (back t) c f cause pc))
      ∧ (∀ t r, runFeed c 32 s₂ = .waits t r → go (put t { f with
          s := r.s, tags := r.tags, started := true, span := r.span.map (fun sp => { sp with parked := false }) }))
      ∧ (∀ t r, runFeed c 32 s₂ = .go t r → go (put t { f with
          pc := r.prim.pc, s := r.s, tags := r.tags, started := true, span := none
          wait := match r.prim.wait with
            | .future h => some h
            | _ => none }))
    (∀ sp, f.span = some sp → v.status = .running ∨ v.status = .halting → runs s sp)
    ∧ (f.span = none → v.status = .running → v.stop = none → (∀ h, f.wait = some h → handleComplete s h = true) →
      (∀ code, fetchCause s₁ (partOf s₁ pn) c v.tenant f.pc.toNat = some code → go (failFeed s₁ c f code f.pc))
      ∧ (fetchCause s₁ (partOf s₁ pn) c v.tenant f.pc.toNat = none → f.pc.toNat % 4 = 0 →
        (away = true → go s₁)
        ∧ (away = false → walkReaches sp.words (f.pc.toNat % 128 / 4) 33 0 = true →
          headerFaulty sp.hword (f.pc.toNat % 128 / 4) = false → tagsHold (dropAnswers s₁ pn who) w sp 1 = false →
          runs (dropAnswers s₁ pn who) sp))))
  ∧ (∀ (s : State) (c k : Nat) (op : EngineOp) (q : Posted) (time : DWord),
    fget? (coreOf s c).engines k = some op → op.kind = .post q → q.fired = false →
    let pn := partOfCore s c
    let p := partOf s pn
    let src := (postSrc q.w).toNat
    let n := postLen q.w
    let dst := if rteRank q.route = 0xFFFF then field (reg p .netRank) 15 0 else rteRank q.route
    let s₁ := prepRange s pn (some (c, (launchOf s op.launch).id)) op.tenant .read src n
    let lines := pieces 128 src n
    let s₂ := opTouch s₁ pn c op lines []
    let bs := ((lines.flatMap (fun l => opLine s₂ pn op l)).drop (src % 128)).take n
    let t := dropAnswers s₂ pn (askOp op.order)
    let fires : State := firePost s pn c k op q time
    mayFire s pn q time = true →
    exec (.postedEntryFire c k time (postTree q.w)) s = .next fires
    ∧ ((treeOf p (postTree q.w)).aborted = true → fires = endOp s c k .aborted cAborted 0)
    ∧ ((treeOf p (postTree q.w)).aborted = false → peerFenced s p dst = true → fires = endOp s c k .failed cAborted 0)
    ∧ ((treeOf p (postTree q.w)).aborted = false → peerFenced s p dst = false →
      (∀ f, runFault s₁ pn op.tenant src n 0 .read = some f → fires = endOp s₁ c k .failed f.2.1 0)
      ∧ (runFault s₁ pn op.tenant src n 0 .read = none → (∀ l ∈ lines, opLineHeld s₂ pn c op l false = false) →
        ((∃ b ∈ bs, b.2 = true) → fires = endOp t c k .failed cRelUe 0)
        ∧ ((∀ b ∈ bs, b.2 = false) →
          let late := q.lateAtIssue || (q.time.map (fun t => decide (time.toNat > t.toNat + postSlot q.w))).getD false
          let skew := q.time.isSome && decide (2 * (fget t.ptpOffset (octOf c) 0).toInt.natAbs > postSlot q.w)
          let v := markFuture t c op.future late skew
          let v := if skew then modPart v pn (fun p => { p with skewCount := p.skewCount + 1 }) else v
          fires = chunkPackets (modOp v c k (fun e => { e with
            passed := true, kind := .post { q with fired := true, unacked := ceilDiv n 8192 } })) pn c k q (bs.map (·.1))))))

/-! ## Salken Collective Transport (R240 to R244, R312, R340 to R347) -/

/-- A packet of another version or length is dropped, one from no peer or from a fenced one is dropped and counted (R340,
R344); one that is next in its stream is taken and acknowledged, or refused for now, as all are while the partition migrates
(R367), or for good; after a gap the number awaited is refused once, and one taken before is acknowledged again (R312,
R341). A DATA packet that fits its window is stored at its place, combined with the local operand where its KIND says so,
and bumps the window's counter with the last packet of a chunk of which every packet was stored (R240, R341). A launch
from the network that its tenant's launch table entry lets in waits for the dispatcher under a number of its own; one that
it does not is dropped, and NETREJ says why (R307, R347). Whether its millisecond has ended is a free value. That a wrong LEN is
dropped without a count, and how the payload of a STATE packet lies, are the model's choices (log 15). -/
def Obligations.StreamPackets : Prop :=
  (∀ (s u : State) (n : Nat) (k : SctPacket),
    let own := k.src = ownRank (partOf s n)
    let s₀ := if own then modPart s n (fun p => { p with wire := p.wire.erase k }) else s
    let p := partOf s₀ n
    let st := streamIn p (inKey k)
    let streams : List Instr := [.sctData n k, .sctLaunch n k, .sctAbort n k, .sctState n k]
    let events : List Instr := streams ++ [.sctAck n k, .sctNak n k, .sctLineReq n k, .sctLineRsp n k]
    let good := k.ver = 1 ∧ (k.type = .data → 16 ≤ k.payload.length ∧ k.payload.length ≤ 8192 ∧ k.payload.length % 16 = 0)
    let takes (o : Host.Outcome State Fault Refusal) (v : State) : Prop := o = .next (sendAck (modIn v n (inKey k) (fun i =>
      { i with expect := i.expect + 1, refusing := false, broken := i.broken && !(k.first || k.last) })) n k)
    let busy (t : State) : State := sendNak (modIn t n (inKey k) (fun i => { i with refusing := true })) n k k.seq false cPerm
    (¬ good → ∀ e ∈ events, exec e s = .next s)
    ∧ (good → fromPeer s (partOf s n) k = false → ∀ e ∈ events, exec e s = .next (modPart s n (fun p =>
        setReg p .netRxdrop 0 (tv (satAdd (reg p .netRxdrop).toNat 1 (2 ^ 48 - 1))))))
    ∧ (good → fromPeer s (partOf s n) k = true →
      (k.seq = st.expect → migrating p = true → ∀ e ∈ streams, exec e s = .next (busy s₀))
      ∧ (k.seq = st.expect → migrating p = false →
        (takeData s₀ n k = .done u → takes (exec (.sctData n k) s) u)
        ∧ (takeData s₀ n k = .busy u → exec (.sctData n k) s = .next (busy u))
        ∧ (∀ c, takeData s₀ n k = .refused u c → exec (.sctData n k) s = .next (sendNak (modIn u n (inKey k) (fun i =>
            { i with expect := i.expect + 1, refusing := false, held := [], broken := !k.last })) n k k.seq true c))
        ∧ (p.restart = none → peerLok s₀ p k.src = true → 136 ≤ k.payload.length → leNat (k.payload.take 8) < 256 →
          takes (exec (.sctLaunch n k) s) (checkNet s₀ n (leNat (k.payload.take 8)) ((k.payload.drop 8).take 128)))
        ∧ takes (exec (.sctAbort n k) s) (takeAbort s₀ n k.tree k.src)
        ∧ (let v := touchTree s₀ n k.tree
          let head := (k.payload.headD 0).toNat
          ((treeRanks v (partOf v n) k.tree).head? = some (ownRank (partOf v n)) →
            (head.testBit 1 = false → takes (exec (.sctState n k) s) (reportState v n k.tree k.src (head.testBit 0) false))
            ∧ (head.testBit 1 = true → takes (exec (.sctState n k) s)
              (reportState v n k.tree (leNat ((k.payload.drop 2).take 2)) (head.testBit 0) true)))
          ∧ ((treeRanks v (partOf v n) k.tree).head? ≠ some (ownRank (partOf v n)) →
            let bits := bitmapOf (treeSize v (partOf v n) k.tree) k.payload
            takes (exec (.sctState n k) s) ((treeOf (partOf v n) k.tree).issuers.foldl (fun s e => writeBitmap s e.1 e.2 bits)
              (modTree v n k.tree (fun a => { a with bitmap := some bits, issuers := [] }))))))
      ∧ ((k.seq - st.expect).toNat ≥ 2 ^ 31 → exec (.sctData n k) s = .next (sendAck s₀ n k))
      ∧ (k.seq ≠ st.expect → (k.seq - st.expect).toNat < 2 ^ 31 →
        (st.refusing = true → exec (.sctData n k) s = .next s₀)
        ∧ (st.refusing = false → exec (.sctData n k) s
          = .next (sendNak (modIn s₀ n (inKey k) (fun i => { i with refusing := true })) n k st.expect false cPerm))))
    ∧ (let e := windowEntry s (partOf s n) (k.qp.toNat % 4096)
    let va := winBase e + k.roff.toNat
    let lines := pieces 128 va k.payload.length
    let v := prepRange s n none (winTenant e) .write va k.payload.length
    let w := if k.kind = 2 then lines.foldl (fun s l => llcNow s n ((asidFor (partOf v n) (winTenant e) va).getD 0) l) v else v
    ∀ asid bs, k.qp.toNat < 0xFFF → k.kind ≤ 2 → k.final = false → (k.kind ≠ 0 → (treeOf (partOf s n) k.tree).aborted = false) →
      (k.kind = 2 → k.op ≠ 3 ∧ k.etype ≠ 3 ∧ slotsHeld (partOf v n) (inKey k) < 512) →
      (e.getD 0 0).getLsbD 63 = true → k.roff.toNat + k.payload.length ≤ winLen e →
      asidFor (partOf v n) (winTenant e) va = some asid → ingressFault v n (winTenant e) va k = none →
      (∀ l ∈ lines, peerOf v (partOf v n) asid (128 * l) = none ∧ ingressHeld v (partOf v n) n (inKey k) asid l = false) →
      (k.kind < 2 → bs = k.payload) →
      (k.kind = 2 → let l := homeReadN w (partOf w n) asid va k.payload.length
        (∀ b ∈ l, b.2 = false) ∧ bs = combineBytes k.etype k.op (l.map (·.1)) k.payload) →
      let stored := ingressWrite w n asid va bs
      let whole := k.last = true ∧ ((streamIn (partOf v n) (inKey k)).broken = false ∨ k.first = true)
        ∧ (e.getD 0 0).getLsbD 40 = true
      (whole → takeData s n k = .done (counterAdd stored n (field (e.getD 0 0) 39 32) 1))
      ∧ (¬ whole → takeData s n k = .done stored)))
  ∧ (∀ (s t u : State) (n tn : Nat) (bs : List Byte) (e : List DWord),
    let r := dwordsOf bs 16
    let let_in : Prop := (e.getD 3 0).getLsbD 0 = true ∧ inCode e (field (r.getD 0 0) 56 0) = true
      ∧ (field (r.getD 1 0) 56 0 = 0 ∨ inCode e (field (r.getD 1 0) 56 0) = true) ∧ inCode e (r.getD 9 0).toNat = true
      ∧ field (r.getD 2 0) 63 32 ≤ field (e.getD 2 0) 63 32
    let ended := (Config.freeDWord (takeFree t).1).getLsbD 0
    (launchEntry s n tn = (none, t) → checkNet s n tn bs = dropNet t n tn 1)
    ∧ (launchEntry s n tn = (some e, t) →
      ((e.getD 3 0).getLsbD 0 = false → checkNet s n tn bs = dropNet t n tn 1)
      ∧ (let_in →
        u = (if ended then modPart (takeFree t).2 n (fun p => { p with netWindow := [] }) else (takeFree t).2) →
        let count := fget (partOf u n).netWindow tn 0
        (count ≥ field (e.getD 2 0) 31 0 → checkNet s n tn bs = dropNet u n tn 4)
        ∧ (count < field (e.getD 2 0) 31 0 → checkNet s n tn bs = modPart u n (fun p => { p with
          netWindow := fput p.netWindow tn (count + 1), netCount := p.netCount + 1
          pending := p.pending
            ++ [⟨0, tn, BitVec.ofNat 32 (2 ^ 31 + (partOf u n).netCount % 2 ^ 30), .net, some bs⟩] })))))

/-- An acknowledgment takes off what it covers and completes the entries that waited for it (R241, R340); a refusal for
now backs off and replays, doubling, and one for good ends the operation (R312, R341, R346); a stream without an answer
is replayed RETRY times, and line requests without one with it, and then its peer is fenced (R345). A line request is
answered with the line, or refused: for good where its translation fails or it is uncorrectable, for now while it is held or
the partition migrates (R346, R367). An answer is kept, and so is that a line is not to be had (R346). That line requests go
by QP 0xFFF with FIRST on their refusal, that a refusal's payload gives its cause, and that they are replayed with the stream
of QP 7 is the model's choice (log 15). -/
def Obligations.AnswersAndReplays : Prop :=
  ∀ (s : State) (n : Nat) (k : SctPacket),
    let s₀ := if k.src = ownRank (partOf s n) then modPart s n (fun p => { p with wire := p.wire.erase k }) else s
    let p := partOf s₀ n
    let key := inKey k
    let o := streamOf p key
    (k.ver = 1 → lenOk k = true → fromPeer s (partOf s n) k = true →
      (let l := ackedBy o k.seq
      l ≠ [] → exec (.sctAck n k) s = .next (pumpStream (forwardsDone
        (l.foldl (fun s u => packetDone s n u.2) (modPart s₀ n (fun q => { q with out := fput q.out key { o with
          unacked := o.unacked.drop l.length, sent := o.sent - l.length, retries := 0 } })))
        n key (l.map (·.1.seq))) n key))
      ∧ (∀ i u, k.first = false → (o.unacked.take o.sent).findIdx? (fun u => u.1.seq == k.seq) = some i →
        (o.unacked.take o.sent).find? (fun u => u.1.seq == k.seq) = some u →
        (k.err = false →
          let wait := match o.nak with
            | some (q, m) =>
              if q = k.seq then min (2 * m) (field (reg p .schNakcfg) 63 48) else field (reg p .schNakcfg) 31 16
            | none => field (reg p .schNakcfg) 31 16
          exec (.sctNak n k) s = .next (modPart s₀ n (fun p => { p with out := fput p.out key { o with
            sent := i, backoff := some wait, nak := some (k.seq, wait) } })))
        ∧ (k.err = true → exec (.sctNak n k) s = .next (pumpStream (packetRefused
          (modPart s₀ n (fun p => { p with out := fput p.out key { o with
            unacked := o.unacked.eraseIdx i, sent := o.sent - 1, retries := 0 } })) n key u
          (if k.payload.isEmpty then cPerm else leNat (k.payload.take 2))) n key)))
      ∧ (let answered (rsp : Option (List Byte)) : State := modPart s₀ n (fun q => { q with
          peerLines := q.peerLines.filterMap (fun l =>
            if l.rank = k.src ∧ 128 * l.line = k.roff.toNat ∧ l.rsp = none then l.who.map (fun _ => { l with rsp := some rsp })
            else some l)
          out := fput q.out (streamKey k.src 7) { streamOf q (streamKey k.src 7) with retries := 0 } })
        exec (.sctLineRsp n k) s = .next (answered (if k.payload.length = 128 then some k.payload else none))
        ∧ (k.first = true → k.err = true → exec (.sctNak n k) s = .next (answered none))
        ∧ (k.first = true → k.err = false → (∃ l ∈ p.peerLines, l.rank = k.src ∧ 128 * l.line = k.roff.toNat ∧ l.rsp = none) →
          exec (.sctNak n k) s = .next (sendLoose s₀ n { packetTo p .lineReq k.src 0xFFF with roff := k.roff })))
      ∧ (let line := k.roff.toNat / 128
        let nak (err : Bool) : SctPacket := { packetTo p .nak k.src 0xFFF with first := true, err := err, roff := k.roff }
        let v := prepLine0 s₀ n .read line
        let q := partOf v n
        let t := llcNow v n 0 line
        let l := homeReadN t (partOf t n) 0 (128 * line) 128
        (migrating p = true → exec (.sctLineReq n k) s = .next (sendLoose s₀ n (nak false)))
        ∧ (migrating p = false → line < 2 ^ 50 →
          ((lineCause v q 0 0 line .read).isSome → exec (.sctLineReq n k) s = .next (sendLoose v n (nak true)))
          ∧ (lineCause v q 0 0 line .read = none → peerOf v q 0 (128 * line) = none →
            (lineHeldByOthers v n 0 line = true ∨ lineUnread v q 0 line = true →
              exec (.sctLineReq n k) s = .next (sendLoose v n (nak false)))
            ∧ (lineHeldByOthers v n 0 line = false → lineUnread v q 0 line = false →
              ((∃ b ∈ l, b.2 = true) → exec (.sctLineReq n k) s = .next (sendLoose t n (nak true)))
              ∧ ((∀ b ∈ l, b.2 = false) →
                exec (.sctLineReq n k) s = .next (sendLoose t n { packetTo q .lineRsp k.src 0xFFF with
                  roff := k.roff, payload := l.map (·.1) })))))))
    ∧ (∀ dst qp c op,
      let p := partOf s n
      let key := streamKey dst qp
      let o := streamOf p key
      let asks := p.peerLines.filter (fun l => l.rank == dst && l.rsp.isNone && qp % 8 == 7)
      exec (.nakBackoffExpire n (.sct dst qp)) s = .next (pumpStream (modPart s n (fun p => { p with
        out := fput p.out key { streamOf p key with backoff := none } })) n key)
      ∧ exec (.nakBackoffExpire n (.census c)) s = .next (modCore s c (fun k => { k with refusing := false }))
      ∧ exec (.nakBackoffExpire n (.feedFill c op)) s = .next (retryFills s n c op)
      ∧ exec (.nakBackoffExpire n (.asker c op)) s = .next (resendToRoot s n c op)
      ∧ (o.sent ≠ 0 ∨ asks ≠ [] →
        (o.retries ≥ field (reg p .netSctcfg) 39 32 → exec (.sctAckTimeout n dst qp) s = .next (fencePeer s n dst))
        ∧ (o.retries < field (reg p .netSctcfg) 39 32 → exec (.sctAckTimeout n dst qp) s
          = .next (pumpStream (asks.foldl (fun s l => sendLoose s n { packetTo p .lineReq dst 0xFFF with
            roff := BitVec.ofNat 64 (128 * l.line) }) (modPart s n (fun p => { p with
            out := fput p.out key { o with sent := 0, retries := o.retries + 1 } }))) n key))))

/-! ## Census (R249 to R265, R330) -/

/-- TREG makes a directory entry whose handle it gives, and takes a reference to each row of a ROWS tile (R252); TUNREG takes the
entry back (R253); TMOVE starts a move of a scratchpad tile with a new entry at its destination (R264), once the path's set-aside
accesses to what it copies have performed (R217). SOLICIT sends its question to the root (R254), CENSUS counts a question's answers
(R263), REPLY and REPLYV give a responder's answer (R257, R260). -/
def Obligations.CensusWords : Prop :=
  (∀ (s t u : State) (x : Ctx) (d a b : BitVec 6) (v : BitVec 7) (i f : Nat) (h : DWord) (rows : List Nat), ctxOf s = some x →
    let tile := sReg x.w a
    let e := dirOf (coreOf s x.c) (tileIndex tile)
    (let desc := sRun x.w a 1
    let base := sRun x.w a 2
    let space := field desc 63 62
    let len := field desc 31 0
    let names := if space = 1 then winRun x.w v len else []
    Settled x.w (iSRun a 3 ++ [iS d] ++ iNames names) → tregFaulty s x desc base v = none → Mapped x.w names →
    reloadNames s x names = .ok t → takeRefs t x names = .ok (u, rows) →
    (space = 1 → field desc 61 56 < recHos x.l.record) →
    (space = 0 → base.toNat % 16 = 0 ∧ base.toNat + len ≤ scratchBytes x.l) → freeDir (coreOf u x.c) = some i →
    let gen := (dirOf (coreOf u x.c) i).gen + 1
    exec (.treg d a v) s = .next (scalarDone (putDir u x.c i ⟨.valid, gen, sRun x.w a 0, space, base.toNat, len,
      field desc 61 56, rows, x.w.launch, false, none⟩) x d (tileHandle x.c i gen)))
    ∧ (Settled x.w [iS a] → tileBad s x.c x.w.launch tile = false → isMoving e = false →
      exec (.tunreg a) s = .next (advance (freeTileEntry (putDir s x.c (tileIndex tile)
        { e with state := .shadow, expired := true }) x.c (tileIndex tile)) x .seq))
    ∧ (let dst := sRun x.w b 0
      let off := (sRun x.w b 1).toNat
      let dc := field dst 7 0
      Settled x.w (iS a :: iSRun b 2 ++ iSRun d 2) → tileBad s x.c x.w.launch tile = false → isMoving e = false →
      e.state ≠ .shadow → e.space = 0 → field dst 63 8 = 0 → coreIn (partOf s x.pn) dc = true →
      (fget? (coreOf s dc).launches x.w.launch).isSome → scratchBytes x.l ≠ 0 → off % 16 = 0 →
      off + e.len ≤ scratchBytes x.l → freeDir (coreOf s dc) = some i →
      waitRuns s x ((e.base, e.len) :: (if dc = x.c then [(off, e.len)] else [])) = .ok () →
      takeFuture s x.c x.w.launch 27 = .ok (f, h, u) →
      let r := startOp u x.pn x.c x.w.launch (some f)
        (.move ⟨e.base, off, 1, e.len, 0, 0, [], false⟩ (tileIndex tile) dc i false false)
      let w := putDir r.2 x.c (tileIndex tile) { e with state := .moving, moveOp := some r.1 }
      let gen := (dirOf (coreOf w dc) i).gen + 1
      exec (.tmove d a b) s = .next (warpDone (putDir w dc i { e with
          state := .shadow, gen := gen, base := off, expired := false, moveOp := none, rows := [] }) x (fun w =>
        setS { setS w d h with tags := fput (setS w d h).tags d.toNat h } (d + 1) (tileHandle dc i gen)))))
  ∧ (∀ (s u : State) (x : Ctx) (d a b : BitVec 6) (f g : Nat) (h : DWord) (r : Responder), ctxOf s = some x →
    (let v := sRun x.w b 0
    let scope := field v 5 4
    let po := field (sRun x.w b 1) 31 0
    let ro := field (sRun x.w b 1) 63 32
    let plen := field v 23 17
    Settled x.w (iSRun a 4 ++ iSRun b 2 ++ [iS d]) → solicitBad v = false →
    (if scope = 0 then groupOf x (BitVec.ofNat 2 (field v 7 6)) else .ok 0) = .ok g → po % 16 = 0 → ro % 16 = 0 →
    po + 16 * plen ≤ scratchBytes x.l → ro + 16 + valueLen (field v 3 0) (field v 16 8) ≤ scratchBytes x.l →
    keptBack s x false = false → storesDone s x.pn x.c = true →
    waitRuns s x [(po, 16 * plen), (ro, 16 + valueLen (field v 3 0) (field v 16 8))] = .ok () →
    takeFuture s x.c x.w.launch 26 = .ok (f, h, u) →
    let q : Solicit := ⟨0, sRun x.w a 0, sRun x.w a 1, sRun x.w a 2, sRun x.w a 3, field v 3 0, field v 16 8,
      scratchRead (clOf s x.c x.w.launch) po (16 * plen), plen, ro, scopeCores s x scope g, x.w.launch, x.c, 0⟩
    let o := startOp u x.pn x.c x.w.launch (some f) (.solicit q false)
    exec (.solicit d a b) s = .next (engineDone (toRoot (modOp o.2 x.c o.1 (fun e =>
      { e with kind := .solicit { q with askOp := o.1 } false })) x.pn (.solicit x.c o.1)) x d h))
    ∧ (let h := sReg x.w a
      let f := futOf (coreOf s (field h 62 55)) (field h 54 45)
      Settled x.w [iS a, iS d] → handleBad s x.pn x.w.launch h = false → field h 44 40 = 26 →
      exec (.census d a) s = .next (scalarDone s x d
        (if f.gen ≠ h.extractLsb' 0 40 ∨ f.state = .running then 0
         else tv (2 ^ 63 + f.census.1 % 2 ^ 8 * 2 ^ 48 + f.census.2.1 % 2 ^ 24 * 2 ^ 24 + f.census.2.2 % 2 ^ 24))))
    ∧ (Settled x.w [iS a] → x.w.resp = some r → r.reply = none → keptBack s x false = false →
      let v := sReg x.w a
      let bs := scratchRead (clOf s x.c x.w.launch) v.toNat (valueLen r.op r.vw)
      let answers (t : State) (y : Reply) : Host.Outcome State Fault Refusal :=
        .next (warpDone t x (fun w => { w with resp := some { r with reply := some y } }))
      (r.vw = 0 → exec (.reply a) s = answers s ⟨some
        (if r.op = 1 ∨ r.op = 2 ∨ r.op = 3 then [v.extractLsb' 0 32]
         else if r.op = 5 then [if v = 0 then 0 else 1, 0]
         else [v.extractLsb' 0 32, v.extractLsb' 32 32]), true⟩)
      ∧ (r.vw ≠ 0 → v.toNat % 4 = 0 → v.toNat + valueLen r.op r.vw ≤ scratchBytes x.l →
        (bs.findIdx? (·.2) = none →
          exec (.replyv a) s = answers s ⟨some (wordsOf (bs.map (·.1))), true⟩)
        ∧ (∀ i, bs.findIdx? (·.2) = some i →
          exec (.replyv a) s = answers (coreUe s x.c x.l.id (v.toNat + i) 2) ⟨none, false⟩)))
    ∧ (Settled x.w [iS a] → x.w.resp = none → exec (.reply a) s = .next (trapped s x cNotResponder 0)
      ∧ exec (.replyv a) s = .next (trapped s x cNotResponder 0)))

/-- The root numbers the first solicitation or switch, of those first from their cores, and sends it down, or refuses it (R255,
R330, R335), once the replay window of every core that it goes to has room (R312); a core accepts a solicitation in order, with its
match set, or refuses it and every later message until they are replayed, counting each (R256, R312); a responder starts in the
lowest free slot (R259); a core reports once its responders have ended, and the last report ends the question (R261, R262); a move's
switch goes up and is applied at both ends (R264). -/
def Obligations.CensusEvents : Prop :=
  ∀ (s : State) (n c k : Nat),
    (∀ m, (rootHeads (partOf s n).rootInbox).find? (fun m => !isArrive m) = some m → inboxOpen s n (rootScope s m) = true →
      let t := modPart s n (fun p => { p with rootInbox := p.rootInbox.erase m })
      (∀ o e q, m = .solicit c o → fget? (coreOf t c).engines o = some e → e.kind = .solicit q false →
        let full := (partOf t n).rootSlots.length ≥ 256 ∨ rootRefuses t n c o = true
        (full → exec (.rootSequence n) s = .next (countSref t n))
        ∧ (¬ full →
          let r := { q with seq := (partOf t n).rootSeq }
          let u := modPart (sendDown (modOp t c o (fun e =>
            { e with kind := .solicit r true, passed := true })) n q.cores (.solicit r)) n
              (fun p => { p with rootSlots := p.rootSlots ++ [⟨r, []⟩] })
          (q.cores ≠ [] → exec (.rootSequence n) s = .next u)
          ∧ (q.cores = [] → exec (.rootSequence n) s = .next (finishSolicit u n ⟨r, []⟩))))
      ∧ (∀ o e d se dc de sent at_, m = .switch c o → fget? (coreOf t c).engines o = some e →
        e.kind = .move d se dc de sent at_ → rootRefuses t n c o = false →
        exec (.rootSequence n) s = .next (sendDown (modOp t c o (fun e => { e with passed := true })) n
          (if c = dc then [c] else [c, dc]) (.switch c se dc de o))))
    ∧ ((coreOf s c).refusing = false → ∀ m rest, (coreOf s c).inbox = m :: rest →
      let t := modCore s c (fun k => { k with inbox := rest })
      (∀ q, m = .solicit q →
        let ms := matchSet (coreOf s c) q
        let full := (coreOf s c).accepted.length ≥ 64 ∨ (q.plen ≠ 0 ∧ freeLanding s c q.launch = none)
        (ms = [] → exec (.solicitAccept c) s = .next (reportCore t (partOfCore s c) c q.seq none 0 0))
        ∧ (ms ≠ [] → full → exec (.solicitAccept c) s
          = .next (countNaks (modCore s c (fun k => { k with refusing := true })) (partOfCore s c) c (rest.length + 1)))
        ∧ (ms ≠ [] → ¬ full →
          let slot := if q.plen = 0 then none else freeLanding s c q.launch
          let u := modCore t c (fun k => { k with accepted := k.accepted ++ [⟨q, ms, ms, slot, []⟩] })
          exec (.solicitAccept c) s = .next (match slot with
            | some i => landPayload u c i q
            | none => u)))
      ∧ (∀ sc se dc de o, m = .switch sc se dc de o →
        (c ≠ sc → c = dc → exec (.tmoveSwitchApply c) s = .next (applyDest t sc se dc de o))
        ∧ (c = sc →
          let u := if c = dc then applyDest t sc se dc de o else t
          exec (.tmoveSwitchApply c) s = .next (freeTileEntry
            (putDir u sc se { dirOf (coreOf u sc) se with state := .shadow, expired := true }) sc se))))
    ∧ (∀ a i rest w, (coreOf s c).accepted.find? (spawnReady s c) = some a → a.unspawned = i :: rest →
      freeSlot (coreOf s c) = some w →
      let l := launchOf s a.q.launch
      let e := dirOf (coreOf s c) i
      ∃ t, exec (.responderSpawn c) s = .next t ∧ (a.q.handler.toNat < 2 ^ 57 →
        warpOf? t c w = some { warpReset a.q.launch 0xFFFFFFFF (a.q.handler.setWidth 57)
            (tv (recDsbase l.record + (recNwarps l.record + 64 * c + w) * stackStride l.record)) (recTvec l.record)
            (Vector.replicate 4 0) with
          s := responderRegs l a.q e a.landing, resp := some ⟨a.q.seq, i, a.q.op, a.q.vw, none⟩ }
        ∧ (e.space = 1 → fget (clOf t c a.q.launch).hslots e.hslot [] = fget (clOf s c a.q.launch).hslots e.hslot [] ++ e.rows)))
    ∧ (∀ a, (coreOf s c).accepted.find? (fun a => a.q.seq == k) = some a → running (coreOf s c) a.q.seq = 0 →
      (a.unspawned = [] ∨ (launchOf s a.q.launch).term.isSome ∨ (launchOf s a.q.launch).status = .ended) →
      storesDone s (partOfCore s c) c = true →
      let t := modCl (modCore s c (fun q => { q with accepted := q.accepted.filter (fun b => b.q.seq != k) })) c a.q.launch
        (fun h => { h with landing := h.landing.filter (fun e => e.2 != k) })
      let u := a.unspawned.foldl (fun s i => freeTileEntry s c i) t
      exec (.coreReport c k) s = .next (reportCore u (partOfCore u c) c k (coreResult a) a.matchSet.length
        (a.replies.filter (fun r => r.2.counted)).length))
    ∧ (∀ e d se dc de at_, fget? (coreOf s c).engines k = some e → e.kind = .move d se dc de false at_ →
      allWritten c e = true → exec (.tmoveSwitchSend c k) s = .next (toRoot (modOp s c k (fun e =>
        { e with kind := .move d se dc de true at_ })) (partOfCore s c) (.switch c k)))

/-! ## The dispatcher (R230, R283, R284, R299 to R311, R356 to R363) -/

/-- Entries are taken in ring order, each record is checked in full once what is read of it is there (R294), and then it waits to be
placed, or its refusal goes back to where it came from (R246, R302, R303, R307, R308, R311). The dispatcher places the launch it has
chosen, whole, which spends its tenant's credit, or asks victims to stop for it (R304 to R306, R356). A launch whose warps have gone
tells its parent, and ends with its last operation, when the dispatcher writes its record (R230, R246, R250, R266, R284, R308);
Ryukel's termination stops its operations and retires its warps (R283); a tenant's tear-down closes its context, refuses its records
and terminates its launches (R247, R311). DEDUCED: an entry that has not fired ends with ENG_CANCELLED (log 43), a tear-down refuses
the records that are still to be checked (log 47), a terminated launch's waiting warps retire in the step that terminates it, and
what a launch holds is given back at LAUNCH_END (log 53). -/
def Obligations.LaunchEvents : Prop :=
  (∀ (s u : State) (n c : Nat) (v : BitVec 32) (q : PendingRecord) (src : RecordSource),
    exec (.submissionRingTail n c v) s = .next (modPart s n (fun p =>
      setReg p .schSqi (c % 4) (setField (reg p .schSqi (c % 4)) 63 32 v.toNat)))
    ∧ exec (.completionRingHead n v) s = .next (flushCompletions (modPart s n (fun p =>
      setReg p .schCqi 0 (setField (reg p .schCqi) 31 0 v.toNat))) n)
    ∧ ((match src with
        | .ring cls => takeRing s n (cls % 4)
        | .launchInstr => takePending s n true
        | .net => takePending s n false) = some (q, u) →
      let runs := recordRuns u n q
      let w := touchRecord u n q
      (runs.any (runAway u (partOf u n) q.tenant) = true →
        exec (.recordCheck n src) s = .next (runs.foldl (fun s r => askRun s n q.tenant r) s))
      ∧ (runs.any (runAway u (partOf u n) q.tenant) = false →
      (∀ r g, checkRecord w n q = .ok (r, g) →
        let v := touchRun (takeStamp w).2 n q.tenant (recCbase r) (recClen r + recAlen r)
        ∃ t, exec (.recordCheck n src) s = .next t
        ∧ let l := launchOf t v.nextLaunch
          l.status = .queued ∧ l.record = r ∧ l.groups = g ∧ l.tenant = q.tenant ∧ l.id = q.id ∧ l.part = n
          ∧ l.source = q.source ∧ l.term = none ∧ l.measure = measureOf v (partOf v n) l.asid r)
      ∧ (∀ cause a, checkRecord w n q = .error (cause, a) → exec (.recordCheck n src) s = .next (match q.source with
          | .ring => pushCompletion (dropAnswers w n askDisp) n (termWords q.id (plainTerm cause false (tv a)))
          | .child c o => endOp (dropAnswers w n askDisp) c o .failed cause q.id
          | .net => dropNet (dropAnswers w n askDisp) n q.tenant 5)))))
  ∧ (∀ (s t : State) (n k : Nat) (cr : FMap Int), dispatchStopped s n = false →
    ((partOf s n).choice.filter (fun n' => (candidates s n).any (fun e => e.1 == n')) = some k ∧ cr = (partOf s n).credits
      ∨ (partOf s n).choice.filter (fun n' => (candidates s n).any (fun e => e.1 == n')) = none
        ∧ chooseLaunch s n = some (k, cr)) →
    let u := modPart s n (fun p => { p with choice := some k, credits := cr })
    (placeLaunch u k = some t →
      let l := launchOf t k
      let at_ := 256 * classOf l + l.tenant
      exec (.dispatchPlace n) s = .next (modPart t n (fun p => { p with
        credits := fput p.credits at_ (fget p.credits at_ 0 - recNwarps l.record)
        served := fput p.served (classOf l) l.tenant, choice := none })))
    ∧ (placeLaunch u k = none → exec (.dispatchPlace n) s
      = .next (requestVictims k (takeFree u).1 (takeFree u).2.launches.length (takeFree u).2))
    ∧ (∀ l, fget? u.launches k = some l → l.status = .queued → placeLaunch u k = some t →
      (launchOf t k).status = .running ∧ (launchOf t k).record = l.record))
  ∧ (∀ (s : State) (n l : Nat),
    let v := launchOf s l
    (v.status ≠ .ended → warpsGone s l = true → (v.status = .queued → v.term.isSome) →
      let u := reportChild s l
      let w := (opsOf u l).foldl (fun s o => match o.2.2.kind with
        | .post q => if q.fired then s else endOp s o.1 o.2.1 .cancelled cCancelled 0
        | _ => s) u
      (opsOf w l ≠ [] → exec (.launchEnd l) s = .next w)
      ∧ (opsOf w l = [] →
        let x := (w.cores.map (·.1)).foldl (fun s c => leaveCore s l c) w
        let pn := (launchOf w l).part
        let y := modLaunch (modPart (dropWhole x pn l) pn (fun p => { p with
          keys := p.keys.filter (fun e => e.2.launch != l)
          rootBarriers := p.rootBarriers.filter (fun b => b.1.1 != l)
          choice := if p.choice = some l then none else p.choice })) l
            (fun v => { v with status := .ended, stop := none, placedOn := [] })
        exec (.launchEnd l) s = .next (match (launchOf w l).source with
          | .ring => pushCompletion y pn (termWords (launchOf w l).id
            ((launchOf w l).term.getD (plainTerm 0 false 0)))
          | _ => y)))
    ∧ (v.term = none → v.status ≠ .ended →
      let u := retireStanding (terminateOps (modLaunch s l (fun v => { v with term := some (kernelTerm s l) })) l) l
      exec (.terminationByRyukel l) s = .next (if v.status = .halted then retireSaved u l else u))
    ∧ (1 ≤ l → l ≤ 255 →
      let s₁ := modPart s n (fun p => setReg p .schTctl l (reg p .schTctl l &&& ~~~1#64))
      let flying := (partOf s₁ n).pending.filter (fun q => q.tenant == l)
      let s₂ := flying.foldl (fun s q => refuseRecord (numberChild s n q).2 n (numberChild s n q).1 cCtxGone 0)
        (modPart s₁ n (fun p => { p with pending := p.pending.filter (fun q => q.tenant != l) }))
      exec (.tenantTeardown n l) s = .next (s₂.launches.foldl (fun s e =>
        if e.2.part = n ∧ e.2.tenant = l then terminate s e.1 (kernelTerm s e.1) else s) s₂)))

/-! ## Partitions (R351 to R354, R361, R364 to R367) -/

/-- What steps 2 and 3 of a MERGE or SPLIT leave of a partition that goes on with other octants, from `n` as number `k` (R352, R353):
its octants, its interleave with the fold given, its other registers, its keys and its launches, with no translation or line kept; of
cores and frames only what a shoot-down changes; and memory, unless lines stood in the slices under keys that have changed. -/
def Rewritten (s t : State) (n k octs : Nat) (fold : DWord) : Prop :=
  let q := partOf t k
  octMask q = octs ∧ reg q .parInterleave = setField fold 7 0 octs ∧ reg q .netPortst = portStatus t q
  ∧ (∀ r i, r ∉ ([.parNetBoundary, .parInterleave, .netPortst, .parCmdst] : List RegName) →
    reg q r i = reg (partOf s n) r i)
  ∧ q.memKeys = (partOf s n).memKeys ∧ q.tlb = [] ∧ q.walkCache = [] ∧ q.llc = []
  ∧ (∀ l e, fget? s.launches l = some e →
    fget? t.launches l = some { e with part := if e.part = n then k else e.part })
  ∧ (∀ c, let h := coreOf t c
    h = { coreOf s c with l1 := h.l1, invals := h.invals, icache := h.icache }
    ∧ (coreIn q c = true → partOfCore t c = k → h.l1 = [] ∧ h.icache = []))
  ∧ (∀ f, let e := frameOf t f
    e = { frameOf s f with
      tlbref := e.tlbref, keyid := e.keyid, troy := e.troy, tag := e.tag, wr := e.wr, multi := e.multi })
  ∧ ((∀ e ∈ (partOf s n).llc, e.dirty = true ∨ e.oldKeys = []) → t.mem = s.mem)

/-- A command that may start is in its drain with every launch asked to stop, and one that may not ends at once with its
result (R351 to R353, R364); while a command runs, another is refused (R351). The drain done, a MERGE or SPLIT rewrites
the masks and shoots everything down, a migration streams (R353, R364); its time over, the command ends BUSY (R354). A
migration's image holds the OWNED frames and the tables of its partition, its registers, keys and live launches, no key slot and no
sealed tile; the destination takes them up under its own octants, and the source then is empty and scrubbed, or, its peer fenced,
stays stopped in doubt (R365 to R367). A save area takes CLEAN frames of the partition for a tenant without halted state, and the old
area's frames are FREE again; any other write is refused (R361). That acceptance and octants of another module come with the event,
PAR_BAD of a PAR_ACCEPT, and when the operating system stands stopped are DEDUCED (log 24); that an image is one value between the
partitions, and the activation of a destination here its acknowledgment, is the model's choice (log 65). -/
def Obligations.PartitionEvents : Prop :=
  (∀ (s : State) (n m octs rank : Nat) (acc : Bool),
    let p := partOf s n
    let word (op rank other octs : Nat) : State := modPart s n (fun p => setReg p .parCmd 0 (cmdWord op rank other octs))
    let drains (t : State) (op other octs rank : Nat) : State := stopAll (modPart t n (fun p =>
      { setReg p .parCmdst 0 (tv (2 ^ 63 + 16)) with cmd := some ⟨op, .drain, other, octs, rank, none, none⟩ })) n
    let ended (t : State) (r : DWord) : State := modPart t n (fun p => { setReg p .parCmdst 0 r with cmd := none })
    (p.cmd = none →
      (let t := word 1 0 m 0
      let good := n ≠ m ∧ (partOf t m).yieldTo = some n ∧ isEmptyPart t m = true
      (good → exec (.parMerge n m) s = .next (drains t 1 m 0 0))
        ∧ (¬ good → exec (.parMerge n m) s = .next (ended t 2)))
      ∧ exec (.parYield n m) s = .next (ended (modPart (word 2 0 m 0) n (fun p => { p with yieldTo := some m })) 0)
      ∧ (let t := word 3 0 0 octs
        (splitOk t (partOf t n) octs = true → exec (.parSplit n octs) s = .next (drains t 3 0 octs 0))
        ∧ (splitOk t (partOf t n) octs = false → exec (.parSplit n octs) s = .next (ended t 2)))
      ∧ (let t := word 4 rank 0 0
        let here := localDest t n rank
        let peer := isPeer t (partOf t n) rank && (acc || here.isSome)
        let room := (here.map (fun d => (octsOf (partOf t d)).length)).getD octs
        (peer = false → exec (.parMigrate n rank acc octs) s = .next (ended t 4))
        ∧ (peer = true → room < (octsOf (partOf t n)).length → exec (.parMigrate n rank acc octs) s = .next (ended t 2))
        ∧ (peer = true → (octsOf (partOf t n)).length ≤ room →
          exec (.parMigrate n rank acc octs) s = .next (drains t 4 0 0 rank)))
      ∧ (let t := word 5 rank 0 0
        (isEmptyPart t n = true → exec (.parAccept n rank) s
          = .next (ended (modPart t n (fun p => { p with acceptFrom := some rank })) 0))
        ∧ (isEmptyPart t n = false → exec (.parAccept n rank) s = .next (ended t 2))))
    ∧ (p.cmd.isSome → ∀ e ∈ ([(.parMerge n m, cmdWord 1 0 m 0), (.parYield n m, cmdWord 2 0 m 0),
        (.parSplit n octs, cmdWord 3 0 0 octs), (.parMigrate n rank acc octs, cmdWord 4 rank 0 0),
        (.parAccept n rank, cmdWord 5 rank 0 0)] : List (Instr × DWord)),
      exec e.1 s = .next (refuseWrite s n e.2))
    ∧ (∀ c, p.cmd = some c → c.step = .drain →
      (drained s n = true →
        (c.op = 1 → drained s c.other = true → n ≠ c.other → (fkeys s.parts).Pairwise (· < ·) →
          (fkeys s.frames).Pairwise (· < ·) →
          ∃ t, exec (.handshakeDrainDone n) s = .next t ∧ fget? t.parts (max n c.other) = none
          ∧ Rewritten s t n (min n c.other) (octMask p ||| octMask (partOf s c.other)) (c.fold.getD (reg p .parInterleave))
          ∧ reg (partOf t (min n c.other)) .parCmdst = 0 ∧ (partOf t (min n c.other)).cmd = none)
        ∧ (c.op = 3 → splitOk s p c.octs = true → (fkeys s.frames).Pairwise (· < ·) →
          let rest := octMask p - c.octs
          let new := numberOf c.octs
          ∃ t, exec (.handshakeDrainDone n) s = .next t
          ∧ Rewritten s t n (numberOf rest) rest (c.fold.getD (reg p .parInterleave))
          ∧ reg (partOf t (numberOf rest)) .parCmdst = 0 ∧ (partOf t (numberOf rest)).cmd = none
          ∧ octMask (partOf t new) = c.octs
          ∧ reg (partOf t new) .parInterleave = setField (reg (partOf t (numberOf rest)) .parInterleave) 7 0 c.octs
          ∧ (∀ r i, r ∉ ([.parNetBoundary, .parInterleave, .netPortst] : List RegName) →
            reg (partOf t new) r i = regReset ⟨r, i⟩)
          ∧ (partOf t new).exists_ = true ∧ (partOf t new).osStopped = true ∧ (partOf t new).cmd = none
          ∧ (partOf t new).memKeys = [] ∧ (partOf t new).tlb = [] ∧ (partOf t new).llc = [])
        ∧ (c.op = 4 → exec (.handshakeDrainDone n) s = .next (modPart (modPart s n (fun p =>
            { setReg p .parCmdst 0 (tv (2 ^ 63 + 64)) with cmd := some { c with step := .stream } })) n
          (fun p => { p with osStopped := true }))))
      ∧ (let t := goOn (modPart s n (fun p => { setReg p .parCmdst 0 1 with cmd := none })) n
        exec (.handshakeTimeout n) s
          = .next (if c.op = 1 then modPart t c.other (fun p => { p with yieldTo := none }) else t))))
  ∧ (∀ (s : State) (n : Nat),
    (∀ c, (partOf s n).cmd = some c → c.step = .stream →
      (let t := match localDest s n c.rank with
        | some d => { s with inbound := fput s.inbound d (captureImage s n) }
        | none => s
      exec (.migrationCommitSend n true) s = .next (modPart t n (fun p =>
        { setReg p .parCmdst 0 (tv (2 ^ 63 + 80)) with cmd := some { c with
          step := .commit, dest := localDest s n c.rank } })))
      ∧ (∀ d, localDest s n c.rank = some d → (fkeys s.frames).Pairwise (· < ·) →
        let p := partOf s n
        ∃ t i, exec (.migrationCommitSend n true) s = .next t ∧ fget? t.inbound d = some i
          ∧ i.octs = octsOf p ∧ (∀ r j, reg i.part r j = reg p r j) ∧ i.part.memKeys = p.memKeys ∧ i.part.keys = []
          ∧ i.launches = s.launches.filter (fun e => e.2.part == n && e.2.status != .ended)
          ∧ (∀ f, (fget? i.frames f).isSome → frameIn p f = true)
          ∧ (∀ f e, fget? s.frames f = some e → frameIn p f = true → e.state = 3 →
            ∃ g, fget? i.frames f = some g ∧ g.state = 3 ∧ g.tenant = e.tenant ∧ g.save = e.save)
          ∧ (∀ q k, fget? i.cores q = some k → coreIn p q = true ∧ k.l1 = [] ∧ k.icache = []
            ∧ ∀ b ∈ k.tiles, b.2.state ≠ .sealed))
      ∧ exec (.migrationCommitSend n false) s = .next (modPart (modPart s n (fun p =>
        { setReg p .parCmdst 0 1 with cmd := none })) n (fun p => { p with osStopped := false })))
    ∧ (∀ r src, (partOf s n).acceptFrom = some r →
      (fget? s.inbound n = some src ∨ fget? s.inbound n = none ∧ fget? s.arrivals n = some src) →
      let p := partOf s n
      let rf := moveFrame src.octs (octsOf p)
      let rc := moveCore src.octs (octsOf p)
      let moved (v : DWord) : DWord := if v = 0 then v else setField v 45 12 (rf (field v 45 12))
      (fkeys src.launches).Nodup → (fkeys src.frames).Nodup →
      (∀ f ∈ fkeys src.frames, ∀ g ∈ fkeys src.frames, rf f = rf g → f = g) →
      ∃ t, exec (.migrationCommitReceive n) s = .next t
        ∧ (let q := partOf t n
          q.acceptFrom = none ∧ q.osStopped = false ∧ q.memKeys = src.part.memKeys ∧ q.keys = []
          ∧ (∀ r ∈ ([.parNetBoundary, .parInterleave, .parCmd, .parCmdst] : List RegName), reg q r = reg p r)
          ∧ reg q .netPortst = portStatus t q
          ∧ (∀ r ∈ ([.llcRootbase, .netRwinbase, .netTreebase, .netPeerbase, .llcMigring] : List RegName),
            reg q r = moved (reg src.part r))
          ∧ reg q .aszRkbase = (if reg src.part .aszRklen = 0 then reg src.part .aszRkbase
            else tv (rf (reg src.part .aszRkbase).toNat))
          ∧ (∀ i, let v := reg src.part .parSave i
            reg q .parSave i = if field v 63 44 = 0 then v else setField v 33 0 (rf (field v 33 0)))
          ∧ (∀ r i, r ∉ ([.parNetBoundary, .parInterleave, .parCmd, .parCmdst, .netPortst, .llcRootbase, .netRwinbase,
            .netTreebase, .netPeerbase, .llcMigring, .aszRkbase, .parSave] : List RegName) → reg q r i = reg src.part r i))
        ∧ (∀ l e, fget? src.launches l = some e → fget? t.launches (s.nextLaunch + l) = some (moveLaunch rc n e))
        ∧ (∀ f e, fget? src.frames f = some e → fget? t.frames (rf f) = some { e with tlbref := 0 })
        ∧ (∀ g, (∀ f ∈ fkeys src.frames, rf f ≠ g) → frameOf t g = frameOf s g))
    ∧ (∀ c, (partOf s n).cmd = some c → c.step = .commit →
      ((∀ d, c.dest = some d → fget? s.inbound d = none) →
        let p := partOf s n
        ∃ t, exec (.migrationCommitAck n true) s = .next t
          ∧ (let q := partOf t n
            octMask q = octMask p ∧ q.exists_ = true ∧ q.osStopped = true ∧ q.cmd = none ∧ reg q .parCmdst = 0
            ∧ reg q .parInterleave = setField (reg p .parInterleave) 7 0 (octMask p)
            ∧ q.memKeys = [] ∧ q.keys = [] ∧ q.log = p.log ∧ q.logCount = p.logCount
            ∧ (∀ r i, r ∉ ([.parNetBoundary, .parInterleave, .netPortst, .parCmdst] : List RegName) →
              reg q r i = regReset ⟨r, i⟩))
          ∧ (∀ f, frameIn p f = true → frameOf t f = { frameReset with state := 2 })
          ∧ (∀ e ∈ t.mem, frameIn p (e.1 / 4096) = false)
          ∧ (∀ q, coreIn p q = true → (coreOf t q).warps = [] ∧ (coreOf t q).launches = [] ∧ (coreOf t q).rows = []
            ∧ (coreOf t q).tiles = [])
          ∧ (∀ l e, fget? s.launches l = some e → e.part = n → ∃ v, fget? t.launches l = some v ∧ v.status = .ended))
      ∧ ((∃ d, c.dest = some d ∧ (fget? s.inbound d).isSome) → exec (.migrationCommitAck n true) s = .next s)
      ∧ (peerFenced s (partOf s n) c.rank = true →
        exec (.migrationCommitAck n false) s = .next (modPart (modPart s n (fun p =>
          { setReg p .parCmdst 0 3 with cmd := none })) n (fun p => { p with stoppedForGood := true })))
      ∧ (peerFenced s (partOf s n) c.rank = false → exec (.migrationCommitAck n false) s = .next s)))
  ∧ (∀ (s : State) (n tenant : Nat) (v : DWord),
    let p := partOf s n
    let good := 1 ≤ tenant ∧ tenant ≤ 255 ∧ hasHalted s n tenant = false
      ∧ ∀ f ∈ saveFrames v, frameIn p f = true ∧ (frameOf s f).state = 2
    (good →
      let s₁ := (saveFrames (reg p .parSave tenant)).foldl (fun s f =>
        modFrame s f (fun e => { e with state := 0, tenant := 0, save := false })) s
      let s₂ := (saveFrames v).foldl (fun s f => modFrame s f (fun e => { e with state := 3, tenant := 0, save := true })) s₁
      exec (.parSaveWrite n tenant v) s
        = .next (modPart s₂ n (fun p => setReg p .parSave tenant (setField v 43 34 0))))
    ∧ (¬ good → exec (.parSaveWrite n tenant v) s = .next (refuseWrite s n v)))

/-! ## Errors and their containment (R368 to R380) -/

/-- What an error makes of the structure that holds it, and the event that it raises (R368 to R370, R374): a row's word, an
accumulator's word, a granule, a memory unit or a side word is poisoned, an L1 copy is dropped, a tile is lost. A corrected one
leaves every other structure as it was. An uncorrectable error in a warp's state terminates its launch, and one in a frame of Ryukel
restarts it (R377). Ryukel's watchdog restarts it while EN is set, and THAW lets dispatch go on with the restart's record first
(R376, R377). A write to ASZ_RKPET changes nothing that the model holds, which has no clock (notes/assumptions/2.md). A failed
router fences what no route reaches; a failed link is fenced, what was on it comes back uncorrectable, minimal routes take the place
of those over it, which the table gives before that, and an octant that it cut off is fenced, each with its event (R334, R378,
R379); a scan test takes its core out of placement, stops its launches at safe points, and gives the core back or fences it (R378,
R380). The code of a structure that R374 does not list, what a failed router or link loses of what was under way, when a scan test
ends, and what an error in a frame of Ryukel does before the restart are the model's choices (log 25), and so is what fencing a
cut-off octant takes away (log 67). -/
def Obligations.ReliabilityEvents : Prop :=
  (∀ (s : State) (p c r l n q : Nat),
    let bad (e : EccSite) (t : State) : Prop := exec (.eccError e false) s = .next t
    let good (e : EccSite) (t : State) : Prop := exec (.eccError e true) s = .next t
    (let t := if rowFree (coreOf s c) r then s else modCore s c (fun k => setRow k r
        { rowOf k r with poison := (rowOf k r).poison ||| (1#32 <<< (l % 32)) })
     bad (.row c r l) (coreError t c false (rowLaunch t c r) r 1))
    ∧ (let mark (a : AccSlot) : AccSlot := { a with poison := setAdd a.poison (256 * r + q) }
      bad (.accumulator c l n r q) (coreError (modCl s c l (fun h =>
        { h with accs := fput h.accs n (mark (fget h.accs n accReset)) })) c false (launchOf s l).id n 1))
    ∧ bad (.scratch c l n) (coreError (modCl s c l (fun h => { h with spoison := setAdd h.spoison n })) c false
      (launchOf s l).id (16 * n) 2)
    ∧ (let asid := ((coreOf s c).l1.find? (fun v => v.line == n)).map (·.asid)
      let t := coreError (modCore s c (fun k => { k with l1 := k.l1.filter (fun v => v.line != n) })) c true 0
        (lineAddr s c (asid.getD 0) (128 * n)) 3
      bad (.l1 c n) t ∧ good (.l1 c n) t)
    ∧ (let asid := ((coreOf s c).icache.find? (fun v => v.block == n)).map (·.asid)
      let t := coreError (modCore s c (fun k => { k with icache := k.icache.filter (fun v => v.block != n) })) c true 0
        (lineAddr s c (asid.getD 0) (128 * n)) 8
      bad (.icache c n) t ∧ good (.icache c n) t)
    ∧ bad (.llc p n) (raiseUe (poisonUnit s n) p (lineOct (partOf s p) (n / 8)) (16 * n) 4)
    ∧ bad (.hbm p n) (hbmUe (poisonUnit (poisonUnit s (n / 2 * 2)) (n / 2 * 2 + 1)) p (32 * (n / 2)))
    ∧ bad (.sideWord p n) (raiseUe { s with sidePoison := setAdd s.sidePoison n } p (lineOct (partOf s p) n) (128 * n) 4)
    ∧ bad (.scale c n) (coreError (modCore s c (fun k => { k with scale := fput k.scale n 0x007F })) c false 0 n 7)
    ∧ (let t := coreError s c false (tileLaunch s c n) n 6
      bad (.btile c n none) (coreEvent (modCore ((tileOf (coreOf t c) n).fills.foldl
        (fun s o => endOp s c o .failed cRelUe 0) t) c (fun k =>
          setTile k n { tileOf k n with state := .invalid, fills := [] })) 0x0907 c (tileLaunch t c n) (BitVec.ofNat 64 n) 0))
    ∧ (∀ w, warpOf? s c n = some w →
      let y := freeStructure s
      bad (.warpState c n) (terminate (coreError y.2 c false (launchOf y.2 w.launch).id 0 y.1) w.launch
        { kernelTerm y.2 w.launch with byKernel := false }))
    ∧ (let t := hbmUe (poisonUnit (poisonUnit s (n / 32 * 2)) (n / 32 * 2 + 1)) p n
      (setMem (kernelFrames (partOf s p)) (n / 4096) = true → bad (.kernelFrame p n) (triggerRestart t p))
      ∧ (setMem (kernelFrames (partOf s p)) (n / 4096) = false → bad (.kernelFrame p n) t))
    ∧ bad (.fabric p) (raiseUe s p 0xFF 0 9)
    ∧ good (.row c r l) (coreError s c true (rowLaunch s c r) r 1) ∧ good (.accumulator c l n r q) (coreError s c true (launchOf s l).id n 1)
    ∧ good (.scratch c l n) (coreError s c true (launchOf s l).id (16 * n) 2) ∧ good (.llc p n)
      (raiseCe s p (lineOct (partOf s p) (n / 8)) (16 * n) 4)
    ∧ good (.hbm p n) (raiseCe s p (n / 256 / Config.framesPerOctant) (32 * (n / 2)) 5)
    ∧ good (.sideWord p n) (raiseCe s p (lineOct (partOf s p) n) (128 * n) 4)
    ∧ good (.btile c n none) (coreError s c true (tileLaunch s c n) n 6) ∧ good (.scale c n) (coreError s c true 0 n 7)
    ∧ good (.fabric p) (raiseCe s p 0xFF 0 9))
  ∧ (∀ (s : State) (n : Nat),
    let p := partOf s n
    exec (.rkpetWrite n) s = .next s
    ∧ ((reg p .aszRkctl).getLsbD 63 = true → exec (.watchdogExpire n) s = .next (triggerRestart s n))
    ∧ ((reg p .aszRkctl).getLsbD 63 = false → exec (.watchdogExpire n) s = .next s)
    ∧ (∀ r, p.restart = some r → r.ran = true → p.kernelDown = false →
      exec (.thaw n) s = .next (flushCompletions (flushEvents (restartRecord
        (modPart s n (fun p => { p with restart := none })) n) n) n)))
  ∧ (∀ (s : State) (a b : Nat), a < 8 → b < 8 → s.routes = [] →
    let d := (b + 8 - a) % 8
    (d = 1 ∨ d = 4 ∨ d = 7 → routeOf s a b = [b]) ∧ (d = 2 → routeOf s a b = [(a + 1) % 8, b])
    ∧ (d = 6 → routeOf s a b = [(a + 7) % 8, b]) ∧ (d = 3 ∨ d = 5 → routeOf s a b = [(a + 4) % 8, b]))
  ∧ (∀ (s : State) (o col row a b c : Nat) (cores slices : List Nat) (port pass : Bool) (t : ScanTest),
    (o < 8 → col < 8 → row < 6 → (o, col, row) ∉ s.routersDown →
      let s₁ := loseInFlight { s with routersDown := s.routersDown ++ [(o, col, row)] } o
      let s₂ := cores.foldl (fun s c =>
        if c < Config.coresPerOctant then fenceCore s (Config.coresPerOctant * o + c) else s) s₁
      let s₃ := { s₂ with
        slicesDown := s₂.slicesDown ++ ((slices.filter (fun n => decide (n < 16))).map (fun n => (o, n)))
        portsDown := if port then setAdd s₂.portsDown o else s₂.portsDown }
      exec (.routerFailure o col row cores slices port) s
        = .next (postEvent (refreshPorts s₃) (partOfOct s₃ o) 0x0909 o 0xFF 0 0 (tv (256 * col + row))))
    ∧ (isLink a b = true → (min a b, max a b) ∉ s.linksDown →
      let l := (min a b, max a b)
      let t := (octsOver s l).foldl loseInFlight s
      let v := loadRoutes { t with linksDown := t.linksDown ++ [l] }
      let u := (v.parts.flatMap (fun e => cutOff v e.2)).foldl fenceOct v
      (∀ x y, x < 8 → y < 8 → ∀ e ∈ routeLinks x (routeOf v x y), linkAlive v e.1 e.2 = true)
      ∧ exec (.linkFailure a b) s = .next ((setAdd [partOfOct u l.1] (partOfOct u l.2)).foldl
        (fun s p => postEvent s p 0x090A 0xFF 0xFF 0 0 (tv (256 * l.1 + l.2))) (refreshPorts u)))
    ∧ (c < Config.cores → (reg (partOf s (partOfCore s c)) .aszScanctl).getLsbD 63 = true → (coreOf s c).fenced = false →
      (∀ u ∈ s.scans, octOf u.core ≠ octOf c) →
      let mine := ((coreOf s c).warps.foldl (fun l w => setAdd l w.2.launch) []).filter
        (fun l => (launchOf s l).term.isNone)
      exec (.scanTestStart c) s = .next (mine.foldl (fun s l => requestStop s l .scan)
        { modCore s c (fun k => { k with testing := true }) with scans := s.scans ++ [⟨c, mine⟩] }))
    ∧ (s.scans.find? (fun t => t.core == c) = some t →
      exec (.scanDeferExpire c) s = .next (coreEvent (endScan s t) 0x090C c 0 0
        (tv (field (reg (partOf s (partOfCore s c)) .aszScanctl) 15 0)))
      ∧ (scanDeferred s c = false → exec (.scanTestComplete c pass) s
        = .next (endScan (if pass then s else fenceCore s c) t))))

/-! ## The module and its registers (R9, R336 to R348, R375, R382 to R391) -/

/-- Boot runs each stage only if it verifies, and stops with its octants held at the first that does not; a module that
has booted, or holds octants, boots no more before a reset (R382, R383); each Assize that runs has the seed of its die,
and octant 0's certifies the others' public keys (R384). A report goes 64 bytes above the nonce that it signs, and never
outside the partition's frames (R375, R385); a key request is verified while BUSY is set, and loads the slot with a token
that opens and passes every check (R266, R387, R388). Management reads what it may and stages firmware, and no more
(R390); at the power limit the arrays are held and nothing else changes (R391); a debug read of a Troy page returns poison and is
logged (R270, R375). One boot only, the octants held, the bytes of a failure report and of a digest, and the answers of management are
the model's choices (log 26), so are a free octant and agent in the violation log (log 49) and the page that the event of a debug read
names (log 63); signatures and key derivation are opaque (log 6). -/
def Obligations.PlatformEvents : Prop :=
  (∀ (s : State) (i : BootImage),
    let verifies (key : List Byte) (m : List Byte × List Byte) : Bool := Config.mlDsaVerify key (sha3 m.1) m.2
    let root (m : List Byte × List Byte) : Bool := decide (sha3 i.rootKey = Config.romDigest) && verifies i.rootKey m
    let good := (List.range 8).filter (fun o => (i.assize[o]?).any root)
    let s₁ := deriveKeys (holdOctants { s with
        meas := good.foldl (fun m o => fput m o (sha3 ((i.assize[o]?).getD ([], [])).1)) s.meas }
      ((List.range 8).filter (fun o => !good.contains o)) 0) good
    let octs := freeOcts s₁
    let s₂ := i.fencedCores.foldl fenceAtDelivery { setMeas s₁ 1 (sha3 i.config.1) with
      configSeq := i.seq, operatorKey := i.operatorKey }
    (∀ o ∈ good, fget s₁.seeds o 0 = sha3 (Config.puf o))
    ∧ (0 ∈ good → ∀ o ∈ good, o ≠ 0 →
      fget s₁.certs o [] = Config.certificate (sha3 (Config.puf 0)) (publicKeys (sha3 (Config.puf o))))
    ∧ (s.booted = true ∨ s.octHeld ≠ [] → exec (.moduleBoot i) s = .next s)
    ∧ (s.booted = false → s.octHeld = [] →
      (octs = [] → exec (.moduleBoot i) s = .next s₁)
      ∧ (octs ≠ [] → (root i.config = false ∨ i.seq.toNat < s₁.configSeq.toNat) →
        exec (.moduleBoot i) s = .next (holdOctants s₁ octs 1))
      ∧ (octs ≠ [] → root i.config = true → s₁.configSeq.toNat ≤ i.seq.toNat →
        (verifies i.operatorKey i.monitor = false → exec (.moduleBoot i) s = .next (holdOctants s₂ octs 2))
        ∧ (verifies i.operatorKey i.monitor = true → exec (.moduleBoot i) s
          = .next (refreshPorts { bootParts i i.octmasks 0 (setMeas s₂ 2 (sha3 i.monitor.1)) with booted := true }))))
    ∧ (∀ n e, i.os.find? (fun e => e.1 == n) = some e → osImage i n = (e.2.1, verifies i.operatorKey e.2))
    ∧ (∀ mask mac bs, let p := bootPart mask mac bs true
      mask < 256 → octMask p = mask ∧ p.exists_ = true ∧ p.osStopped = false ∧ p.kernelImage = bs ∧ p.meas3 = sha3 bs
        ∧ (bootPart mask mac bs false).osStopped = true))
  ∧ (∀ (s : State) (n : Nat) (pa v : DWord),
    let p := partOf s n
    (let r := reportMeasure s n
    exec (.attestRequest n pa) s
      = .next (putReport r.2 n pa (reportBytes r.2 n (physRead r.2 (partOf r.2 n) 0 pa.toNat 32) r.1)))
    ∧ (∀ bs : List Byte,
      ((∀ f ∈ pieces 4096 pa.toNat (64 + bs.length), frameIn p f = true) → putReport s n pa bs
        = physStore (modPart s n (fun p => setReg p .aszAttreq 0 pa)) n (pa.toNat + 64) (placed bs))
      ∧ ((∃ f ∈ pieces 4096 pa.toNat (64 + bs.length), frameIn p f = false) → ∃ oct agent,
        putReport s n pa bs = modPart (logViolation (takeFree s).2 n 2 oct agent 0 pa) n (fun p => { p with gpcErr := true })))
    ∧ (∀ nonce m, let bs := reportBytes s n nonce m
      bs.take 4 = [1, 0, 0, 0] ∧ (nonce.length = 32 → (bs.drop 8).take 32 = nonce)
      ∧ (nonce.length = 32 → (bs.drop 204).take 2420 = (List.range 2420).map (Config.mlDsaSign
        (fget s.seeds (lowestOct p) 0) (bs.take 204)) ∧ bs.drop 2624 = fget s.certs (lowestOct p) [] ++ Config.deviceCertificate))
    ∧ (p.keyBusy.isSome → exec (.keyRequest n v) s = .next (refuseWrite s n v))
    ∧ (p.keyBusy = none →
      let t := modPart s n (fun p => setReg p .aszKreq 0 (v &&& 0x000F0000FFFFFFFF))
      (v.getLsbD 63 = false → exec (.keyRequest n v) s = .next t)
      ∧ (v.getLsbD 63 = true → exec (.keyRequest n v) s = .next (modPart t n (fun p =>
        { setReg p .aszKrst 0 (1#64 <<< 63) with keyBusy := some (v, launchById t n (field v 31 0)) }))))
    ∧ (∀ l, p.keyBusy = some (v, l) →
      exec (.keyVerifyComplete n (field v 51 48)) s = .next (keyVerified s n (field v 51 48) l (readToken s n)))
    ∧ (∀ slot l token,
      let r := keyResult s n slot l token
      let u := match gpcOutside p (reg p .aszKreqa).toNat 1236 with
        | some f => gpcRefuse s n f
        | none => s
      let t := modPart u n (fun p => { setReg p .aszKrst 0 (tv r) with keyBusy := none })
      (r ≠ 0 → keyVerified s n slot l token = t)
      ∧ (∀ k, r = 0 → token = some k → keyVerified s n slot l token = modPart t n (fun p => { p with
        keys := fput p.keys slot ⟨true, k.key, k.tbase.toNat, k.tlen.toNat, l.getD 0⟩, tokenSeq := k.seq }))
      ∧ (r = 0 → fget? p.keys slot = none ∧ ∃ k i, token = some k ∧ l = some i ∧ p.tokenSeq.toNat < k.seq.toNat
        ∧ k.measurement = (launchOf s i).measure ∧ (launchOf s i).status ≠ .ended ∧ codeReadOnly s p (launchOf s i) = true)))
  ∧ (∀ (s : State) (o n pa : Nat) (held : Bool) (r : MctpRequest) (bs : List Byte),
    (∃ out ctr, exec (.mctpMessage o r) s = .next { s with
        mgmtOut := s.mgmtOut ++ [(o, out)], freeCtr := ctr
        staged := match r with
          | .stageFirmware bs => fput s.staged o bs
          | _ => s.staged })
    ∧ exec (.mctpMessage o .readFenced) s = .next { s with
        mgmtOut := s.mgmtOut ++ [(o, bytesOf64 (fget s.fencedMask o 0))] }
    ∧ exec (.mctpMessage o (.stageFirmware bs)) s = .next { s with
        staged := fput s.staged o bs, mgmtOut := s.mgmtOut ++ [(o, [])] }
    ∧ exec (.powerReachesTdp held) s = .next { s with tdpHeld := held }
    ∧ (let f := frameOf s (pa / 4096)
      let isTroy := frameIn (partOf s n) (pa / 4096) = true ∧ (f.tlbref = 0 ∨ f.troy = true)
      (isTroy → ∃ oct agent, exec (.troyDebugRead n pa) s = .next (modPart (modPart (logViolation (takeFree s).2 n 5 oct agent 0 (tv pa)) n
        (fun p => { p with gpcErr := true })) n (fun p => { p with debugSeen := [(0, true)] })))
      ∧ (¬ isTroy → exec (.troyDebugRead n pa) s = .next s)))

/-- A frame that reaches a port of the partition's group goes to the clock, to SCT, or to a queue pair of the operating
system's device (R336, R339, R340, R348), and one goes out only past the source filter (R337, R338); a packet of SCT goes
out in its stream's order, on its stream's port, to its peer's address (R340, R344); a port whose link changes joins or
leaves its group (R348). A register
write by an agent that may not make it, out of a register's limits, or with a reserved bit of an identity register set,
is refused, logged with the core that made it, and leaves the register as it was (R9, R311, R338, R375); another writes its agent's bits
and keeps the rest. Any write clears the counters of R196, R307, R332, R338 and R373. PRESUMED: the network device, its header, its
buffers and its features, and a free pair for a frame (log 69). The number of a register in the violation log and the octant and core
of events that name none are free (log 49), the entry of a frame that the source filter drops is log 26, and NEXT beside the header and
the stream's port are log 15. -/
def Obligations.PortsAndRegisters : Prop :=
  (∀ (s : State) (o : Nat) (f : EthFrame) (up : Bool),
    let n := partOfOct s o
    let p := partOf s n
    let live := p.exists_ = true ∧ (octMask p).testBit o = true ∧ setMem s.linkUp o = true ∧ setMem s.portsDown o = false
      ∧ setMem s.octHeld o = false ∧ f.bytes.length ≤ 9216
    let mine := f.dstMac = (reg p .netMacaddr).setWidth 48 ∨ f.multicastJoined = true
    let sct := f.udp = true ∧ f.udpPort = some (field (reg p .netSctcfg) 63 48)
    let key (k : SctPacket) : Nat := streamKey k.dst k.qp.toNat
    let passes := f.srcMac = (reg p .netMacaddr).setWidth 48
      ∧ (∀ a, f.srcIp4 = some a → (reg p .netIpv4).getLsbD 32 = true ∧ a = (reg p .netIpv4).setWidth 32)
      ∧ (∀ a, f.srcIp6 = some a → a ≠ 0
        ∧ a = ((reg p .netIpv6h).setWidth 128 <<< 64 ||| (reg p .netIpv6l).setWidth 128))
    let leaves (t : State) : Prop :=
      (passes → exec (.ethFrameTransmit o f) s = .next { t with sent := t.sent ++ [(o, .frame f)] })
      ∧ (¬ passes → exec (.ethFrameTransmit o f) s = .next (logViolation t n 4 o 0xFF 0 (f.srcMac.setWidth 64)))
    (¬ (live ∧ mine) → exec (.ethFrameReceive o f) s = .next s)
    ∧ (live → mine → f.ptp = true → exec (.ethFrameReceive o f) s = .next (ptpSync s n o f.ptpOffset))
    ∧ (live → mine → f.ptp = false →
      (∀ k, sct → decodeSct f.datagram f.next = some k → exec (.ethFrameReceive o f) s = exec (match k.type with
        | .data => .sctData n k
        | .ack => .sctAck n k
        | .nak => .sctNak n k
        | .launch => .sctLaunch n k
        | .abort => .sctAbort n k
        | .state => .sctState n k
        | .lineReq => .sctLineReq n k
        | .lineRsp => .sctLineRsp n k) s)
      ∧ (sct → decodeSct f.datagram f.next = none → exec (.ethFrameReceive o f) s = .next s)
      ∧ (¬ sct → ∃ pair, pair < max 1 p.netDev.pairs ∧ exec (.ethFrameReceive o f) s
        = .next (netDeliver (modPart (takeFree s).2 n (fun p => { p with osFrames := p.osFrames ++ [(pair, f)] })) n)))
    ∧ (∀ pair a len rest, let body := f.bytes.take (f.bytes.length - 4)
      p.osFrames = [(pair, f)] →
      (fget p.netDev.ready pair [] = (a, len) :: rest → 12 + body.length ≤ len →
        ∃ valid : Bool, (virtioGuestCsum ∉ p.netDev.features → valid = false)
        ∧ netDeliver s n = modPart (modPart (physStore (takeFree s).2 n a (placed
            ((if valid then 2 else 0) :: List.replicate 9 0 ++ [1, 0] ++ body))) n (fun p => { p with netDev := { p.netDev with
              ready := fput p.netDev.ready pair rest
              used := fput p.netDev.used pair (fget p.netDev.used pair [] ++ [(a, 12 + body.length)]) } })) n
            (fun p => { p with osFrames := [] }))
      ∧ (((fget p.netDev.ready pair []).map (·.2)).sum < 12 + body.length →
        netDeliver s n = modPart s n (fun p => p)))
    ∧ (¬ live → exec (.ethFrameTransmit o f) s = .next s)
    ∧ (live → (sct → decodeSct f.datagram f.next = none) → leaves s)
    ∧ (∀ k, live → sct → decodeSct f.datagram f.next = some k →
      let mayGo := p.wire.find? (fun q => key q == key k) = some k ∧ streamPortOf s p (key k) = some o
        ∧ toPeer s p k.dst f = true
      (k ∉ p.wire → leaves s)
      ∧ (k ∈ p.wire → mayGo → leaves (modPart s n (fun p => { p with wire := p.wire.erase k })))
      ∧ (k ∈ p.wire → ¬ mayGo → exec (.ethFrameTransmit o f) s = .next s))
    ∧ (o < 8 → exec (.portLinkChange o up) s = .next (refreshPorts { s with
        linkUp := if up then setAdd s.linkUp o else setDel s.linkUp o
        ptpLock := if up then s.ptpLock else setDel s.ptpLock o })))
  ∧ (∀ (s : State) (n i m : Nat) (who : Agent) (r : HReg) (v : DWord),
    let u := modPart { s with writer := some (who.oct, who.core) } n (fun p => { p with gpcErr := false })
    let p := partOf u n
    let write := exec (.registerWrite n who r v) s
    let leaves (t : State) : Prop := write = .next { t with writer := none }
    let runs (i : Instr) : Prop := ∀ t, exec i u = .next t → leaves t
    let goes : Prop := (partOf s n).kernelDown = false ∨ who.role ≠ .ryukel
    let refuses : Prop := ∃ reg, reg < 2 ^ 32 ∧ leaves (modPart (logViolation (takeFree (takeFree u).2).2 n 1 who.oct who.core reg v) n
      (fun p => { p with gpcErr := true }))
    exec (.netrejWrite n) s = .next (modPart s n (fun p => setReg p .schNetrej 0 (setField (reg p .schNetrej) 47 0 0)))
    ∧ exec (.cenStatWrite n) s = .next (modPart s n (fun p => setReg p .cenStat 0 (setField (reg p .cenStat) 31 0 0)))
    ∧ exec (.evlostWrite n) s = .next (modPart s n (fun p => setReg p .aszEvlost 0 0))
    ∧ exec (.rxdropWrite n) s = .next (modPart s n (fun p => setReg p .netRxdrop 0 0))
    ∧ (i < 16 → exec (.stalePairWrite n i v) s = .next (modPart s n (fun p =>
      setReg p .llcStalePair i (setField (setField v 62 56 0) 39 0 0))))
    ∧ (¬ goes → write = .next s)
    ∧ (goes → writeMask r.name who.role = none → refuses)
    ∧ (goes → writeMask r.name who.role = some m →
      let new := (regOf p r &&& ~~~(BitVec.ofNat 64 m)) ||| (v &&& BitVec.ofNat 64 m)
      let put : State := modPart u n (fun p => setReg p r.name r.idx new)
      let refused := regCount r.name ≤ r.idx ∨ limitOk p r new = false
        ∨ strictReserved r.name = true ∧ v &&& ~~~(BitVec.ofNat 64 m) ≠ 0
      (refused → refuses)
      ∧ (¬ refused → r.name ∈ [.llcRootbase, .llcTasid, .llcShootva, .llcFsarg, .llcMigctl, .llcMigring, .llcMigfi, .llcMigci,
          .llcWbctl, .llcTqos, .llcAtomq, .schSq, .schSqi, .schTctl, .schLtbase, .schNakcfg, .parTiming, .netMacaddr, .netIpv4,
          .netIpv6h, .netIpv6l, .netRank, .netTxcap, .netRwinbase, .netPeerbase, .netSctcfg, .aszRkbase, .aszRklen,
          .aszScanctl, .aszKreqa] → leaves put)
      ∧ (¬ refused →
        (r.name ∈ [.schCq, .schCqi] → leaves (flushCompletions put n))
        ∧ (r.name ∈ [.aszEvq, .aszEvqi] → leaves (flushEvents put n))
        ∧ (r.name = .netTreebase → leaves (modPart put n (fun p => { p with trees := [] })))
        ∧ (r.name = .ctrTenant → leaves (modPart put n (fun p => { p with
          counters := fput p.counters r.idx ((counterOf p r.idx).1, field new 7 0) })))
        ∧ (r.name = .parInterleave → leaves (modPart u n (fun p => { p with cmd := p.cmd.map (fun c => { c with fold := some new }) })))
        ∧ (r.name = .memKey → leaves (setMemKey u n (r.idx / 8) (r.idx % 8) v))
        ∧ (r.name = .aszRkctl → (who.role ≠ .ryukel → leaves (modPart u n (fun p => setReg p .aszRkctl 0 new)))
          ∧ (who.role = .ryukel → (v.getLsbD 62 = true → runs (.thaw n)) ∧ (v.getLsbD 62 = false → leaves u)))
        ∧ (r.name = .llcShoot → runs (.shootdown n v))
        ∧ (r.name = .schTdown → runs (.tenantTeardown n (field v 7 0)))
        ∧ (r.name = .parSave → runs (.parSaveWrite n r.idx v))
        ∧ (r.name = .aszKreq → runs (.keyRequest n (new &&& v)))
        ∧ (r.name = .aszAttreq → runs (.attestRequest n v)))))
  ∧ (∀ (s : State) (n oct core pa k port : Nat) (bits : List Nat) (f : EthFrame),
    let u : State := { s with writer := some (oct, core) }
    let p := partOf s n
    let acts (d : NetDevAccess) (t : State) : Prop :=
      exec (.homeSliceWrite (.gpc n oct core pa (.netDev d))) s = .next { t with writer := none }
    let body := f.bytes.take (f.bytes.length - 4)
    p.kernelDown = false →
    acts .config (modPart u n (fun q => { q with gpcErr := false, gpcSeen := netDevConfig s p }))
    ∧ acts (.features bits) (modPart u n (fun q => { q with gpcErr := false, netDev := ⟨virtioFeatures.filter bits.contains, 1, [], []⟩ }))
    ∧ (1 ≤ k → k ≤ 8 → virtioMq ∈ p.netDev.features →
      acts (.pairs k) (modPart u n (fun q => { q with gpcErr := false, netDev := { q.netDev with pairs := k } })))
    ∧ ((∀ g ∈ pieces 4096 pa k, frameIn p g = true) → acts (.buffer port k) (netDeliver (modPart u n (fun q => { q with
        gpcErr := false
        netDev := { q.netDev with ready := fput q.netDev.ready port (fget q.netDev.ready port [] ++ [(pa, k)]) } })) n))
    ∧ (partOfOct s port = n → portCarries s n port f = true → egressOk p f = true → acts (.send port none f)
      (modPart { u with sent := u.sent ++ [(port, .frame { f with bytes := body ++ leBytes 4 (frameCrc body).toNat })] } n
        (fun q => { q with gpcErr := false }))))

/-! ## Words, steps and the whole machine -/

/-- Worked words of the spec's chapters 02, 04, 06 to 08 and 10 to 12, from every family that has some, decode to the
instructions that they are given for. -/
def Obligations.DecodedWords : Prop :=
  ∀ e ∈ ([(0x0C050185, .iadd 20 3 5), (0x0601027D, .saddImm 4 4 0x7D), (0x0A410064, .sldi 4 100), (0xA5200000, .exit),
    (0x00050000, .map 20), (0x00C50181, .rotn 20 3 1), (0x00A58B80, .swpn 22 23), (0x01214A80, .give 5 21),
    (0x01478280, .take 30 5), (0x01A00002, .wbase 2), (0x14020082, .fadd 8 1 2), (0x15208082, .fcmpLt 2 1 2),
    (0x1C428200, .fcvt 2 10 4 0), (0x3001101E, .mma 4 32 30), (0x30D0040B, .mdrain 1 0 8 2 3),
    (0x2825054C, .stg 20 10 4 1 4), (0x28478614, .lds 30 12 2 4), (0x2B4C0307, .rowadd 48 6 7), (0x2B80001C, .fence 3 4),
    (0x34E28601, .tmcast 10 12 1), (0x36010011, .ctradd 4 17), (0x38628814, .solicit 10 16 20), (0x3A000005, .trap 5),
    (0x3A40C180, .srd 3 3)] : List (Word × Instr)), decodeWord e.1 0 = some e.2

/-- Every well-formed instruction decodes from its own words, with any end and safe-point bits that it may carry, and
every word that decodes is the encoding of what it decodes to, so that no operand bit is dropped and no reserved bit is
passed over (R36, R37, R39, R54). The bytes of the words in memory order decode the same way (R4). -/
def Obligations.RoundTrip : Prop :=
  (∀ (i : Instr) (f : Fields) (e s : Bool) (lit : Word), encodeFields i = some f → i.wf = true →
    (isPrefixOp f.op = true → e = false ∧ s = false) → (∀ v, f.lit = some v → lit = v) →
    decodeWord (mkWord e s f.op f.d f.a f.b) lit = some i
      ∧ ∀ rest, decodeBytes ((encode e s i).flatMap wordBytes ++ rest) = some (i, rest))
  ∧ ∀ (w lit : Word) (i : Instr), decodeWord w lit = some i →
    encode (wordE w) (wordS w) i = w :: (if takesLiteral (wordOp w) then [lit] else []) ∧ i.wf = true

/-- A step whose turn is a word of a span in issue runs exactly what the word at that place decodes to (R43, R47, R49,
R54): `exec` of the instruction where the word is legal and fits its span; else the trap that R47 puts first,
ENC_ILLEGAL, ENC_PREFIX or ENC_SPAN. A step whose turn is an event runs the event. After either the ages of the paths are
brought up to date, and one moment has passed (R309, R223). The words of a span are those of its
block as memory held it (see WarpEvents). -/
def Obligations.StepRunsTheWord : Prop :=
  ∀ (s : State) (c n : Nat) (x : Ctx) (rest : List Turn),
    let after : Host.Outcome State Fault Refusal → Host.Outcome State Fault Refusal
      | .next t => .next { t.cores.foldl (fun s e => refreshAges s e.1) t with moment := t.moment + 1 }
      | o => o
    (let t := { s with agenda := rest, cur := (c, n) }
    let w := spanWord x.sp x.sp.idx
    let trap (pc : PC) (code : Nat) : Host.Outcome State Fault Refusal :=
      after (.next (trapEnter t x.c x.slot x.sp.sec pc code (w.setWidth 64)))
    s.agenda = .word c n :: rest → ctxOf t = some x → x.w.bkptStop = false →
      (∀ i, isPrefixOp (wordOp w) = true → decodeWord w 0 = some i → step s = after (exec i t))
      ∧ (isPrefixOp (wordOp w) = true → decodeWord w 0 = none → step s = trap (wordAddr x.sp x.sp.idx) cPrefix)
      ∧ (isPrefixOp (wordOp w) = false →
        let badLive := wordS w = true ∧ x.sp.idx + 1 ≤ spanLen x.sp.hword ∧ liveBad (spanWord x.sp (x.sp.idx + 1)) = true
        (decodeWord w (literalOf x.sp) = none → step s = trap (trapAddr x.sp) cIllegal)
        ∧ ∀ i, decodeWord w (literalOf x.sp) = some i →
          (badLive → step s = trap (trapAddr x.sp) cIllegal)
          ∧ (¬ badLive → structureBad x.sp = true → step s = trap (trapAddr x.sp) cSpan)
          ∧ (¬ badLive → structureBad x.sp = false → step s = after (exec i t))))
    ∧ (∀ e, s.agenda = .event e :: rest → encodeFields e = none →
      step s = after (exec e { s with agenda := rest }))

/-- From every state a step goes on: it meets no fault and no refusal. -/
def Obligations.EveryStepGoesOn : Prop := ∀ s, StepSafe s

/-- Memory keeps its canonical form at every step: addresses strictly rising, and no entry at the value that an unlisted
address reads as. -/
def Obligations.MemoryStaysCanonical : Prop :=
  ∀ s t, Memory.wf s.mem = true → step s = .next t → Memory.wf t.mem = true

/-- After reset nothing has booted, no launch is there and memory lists nothing, in its canonical form; the registers
that a reset column gives a value other than 0 have it (R296, R297, R311, R312, R327, R328, R338, R340, R354, R356, R376,
R380), as the tables of chapters 13 to 18 say; and a warp of a launch starts as R34 says, at the record's entry, with the
state that R306 gives it. -/
def Obligations.ResetState : Prop :=
  State.reset.booted = false ∧ State.reset.launches = [] ∧ State.reset.cores = [] ∧ State.reset.parts = []
  ∧ State.reset.mem = [] ∧ Memory.wf State.reset.mem = true ∧ State.reset.linksDown = [] ∧ State.reset.routes = []
  ∧ (∀ n, let p := partOf State.reset n
    (∀ t, reg p .schTctl t = 0x10300) ∧ reg p .schNakcfg = 0x1000004000400010 ∧ (∀ t, reg p .llcTqos t = 0x10000)
    ∧ reg p .llcMigctl = 0xFFFF ∧ reg p .llcWbctl = 1000 ∧ reg p .llcAtomq = 16 ∧ reg p .parTiming = 0x03E8000007D00014
    ∧ reg p .netTxcap = 160 ∧ reg p .netSctcfg = 0x4C38000800000032 ∧ reg p .aszRkctl = 0x0000006400000000
    ∧ reg p .aszScanctl = 0x00000E1000000032)
  ∧ ∀ (l : Launch) (n m : Nat),
    let w := launchWarp l n m
    w.launch = n ∧ w.lwarp = m ∧ (∀ k, nameOf w k = .unmapped) ∧ (∀ a, sReg w a = 0) ∧ w.p = Vector.replicate 16 0
    ∧ w.prim.state = .ready ∧ w.prim.pc = recEntry l.record ∧ w.prim.exec = 0xFFFFFFFF ∧ w.seco.state = .vacant
    ∧ w.ops = [] ∧ w.pend = [] ∧ w.dead = 0 ∧ w.wb = 0 ∧ w.fpsr = 0 ∧ w.gang = 0 ∧ (∀ k, rteOf w k = 0)
    ∧ w.g = groupRegs l.groups m ∧ w.tvec = recTvec l.record
    ∧ w.dstk = tv (recDsbase l.record + m * stackStride l.record) ∧ w.epi = 0 ∧ w.mstat = 0 ∧ w.trapMode = false
end

