-- ==== Sys2Proof/Laws/Finite.lean ====
section
/-! SUPPORT. Laws of the finite maps. -/

namespace Sys2Proof.Machine

open Sys2Proof

@[simp] theorem fget?_nil {α : Type} (n : Nat) : fget? ([] : FMap α) n = none := rfl

@[simp] theorem fget?_fput_same {α : Type} (m : FMap α) (n : Nat) (v : α) : fget? (fput m n v) n = some v := by
  induction m with
  | nil => simp [fput, fget?]
  | cons e m ih =>
    obtain ⟨k, u⟩ := e
    unfold fput
    split
    · simp [fget?]
    · split
      · simp [fget?]
      · simp [fget?, *]

theorem fget?_fput_other {α : Type} (m : FMap α) {n k : Nat} (v : α) (h : k ≠ n) :
    fget? (fput m n v) k = fget? m k := by
  induction m with
  | nil => simp [fput, fget?, h]
  | cons e m ih =>
    obtain ⟨j, u⟩ := e
    unfold fput
    split
    · simp [fget?, h]
    · split
      · rename_i hj; subst hj; simp [fget?, h]
      · simp [fget?, ih]

theorem fget?_fput {α : Type} (m : FMap α) (n k : Nat) (v : α) :
    fget? (fput m n v) k = if k = n then some v else fget? m k := by
  split
  · rename_i h; subst h; simp
  · rename_i h; exact fget?_fput_other m v h

@[simp] theorem fget_fput_same {α : Type} (m : FMap α) (n : Nat) (v d : α) : fget (fput m n v) n d = v := by simp [fget]

theorem fget_fput_other {α : Type} (m : FMap α) {n k : Nat} (v d : α) (h : k ≠ n) : fget (fput m n v) k d = fget m k d := by
  simp [fget, fget?_fput_other m v h]

theorem fget?_fdel_other {α : Type} (m : FMap α) {n k : Nat} (h : k ≠ n) : fget? (fdel m n) k = fget? m k := by
  induction m with
  | nil => rfl
  | cons e m ih =>
    obtain ⟨j, u⟩ := e
    unfold fdel
    split
    · rename_i hj; subst hj; simp [fget?, h]
    · simp [fget?, ih]

/-- A second value for a number replaces the first. -/
@[simp] theorem fput_fput {α : Type} (m : FMap α) (n : Nat) (u v : α) : fput (fput m n u) n v = fput m n v := by
  induction m with
  | nil => simp [fput]
  | cons e m ih =>
    obtain ⟨k, w⟩ := e
    by_cases h1 : n < k
    · simp [fput, h1]
    · by_cases h2 : n = k
      · simp [fput, h2]
      · simp [fput, h1, h2, ih]

theorem fget?_fset_other {α : Type} [DecidableEq α] (m : FMap α) {n k : Nat} (v d : α) (h : k ≠ n) :
    fget? (fset m n v d) k = fget? m k := by
  unfold fset
  split
  · exact fget?_fdel_other m h
  · exact fget?_fput_other m v h

theorem fget_fset_other {α : Type} [DecidableEq α] (m : FMap α) {n k : Nat} (v d e : α) (h : k ≠ n) :
    fget (fset m n v d) k e = fget m k e := by simp [fget, fget?_fset_other m v d h]

/-- The numbers of a map are at least `lo` and rise. -/
def Rising {α : Type} (lo : Nat) : FMap α → Prop
  | [] => True
  | e :: m => lo ≤ e.1 ∧ Rising (e.1 + 1) m

theorem Rising.mono {α : Type} {lo lo' : Nat} {m : FMap α} (h : Rising lo m) (hl : lo' ≤ lo) : Rising lo' m := by
  cases m with
  | nil => trivial
  | cons e m => exact ⟨Nat.le_trans hl h.1, h.2⟩

theorem fget?_below {α : Type} {lo n : Nat} {m : FMap α} (h : Rising lo m) (hn : n < lo) : fget? m n = none := by
  induction m generalizing lo with
  | nil => rfl
  | cons e m ih =>
    obtain ⟨k, u⟩ := e
    have hk : lo ≤ k := h.1
    have : n ≠ k := by omega
    simp only [fget?, this, if_false]
    exact ih h.2 (by omega)

theorem fget?_fdel_same {α : Type} {lo : Nat} {m : FMap α} (h : Rising lo m) (n : Nat) : fget? (fdel m n) n = none := by
  induction m generalizing lo with
  | nil => rfl
  | cons e m ih =>
    obtain ⟨k, u⟩ := e
    unfold fdel
    split
    · rename_i hn; subst hn; exact fget?_below h.2 (Nat.lt_succ_self n)
    · rename_i hn; simp only [fget?, hn, if_false]; exact ih h.2

theorem Rising.fput {α : Type} {lo : Nat} {m : FMap α} (h : Rising lo m) (n : Nat) (v : α) (hn : lo ≤ n) :
    Rising lo (fput m n v) := by
  induction m generalizing lo with
  | nil => exact ⟨hn, trivial⟩
  | cons e m ih =>
    obtain ⟨k, u⟩ := e
    unfold Machine.fput
    split
    · rename_i hk; exact ⟨hn, hk, h.2⟩
    · split
      · rename_i hk; subst hk; exact ⟨hn, h.2⟩
      · rename_i h1 h2
        have hk : lo ≤ k := h.1
        exact ⟨hk, ih h.2 (by omega)⟩

theorem Rising.fdel {α : Type} {lo : Nat} {m : FMap α} (h : Rising lo m) (n : Nat) : Rising lo (fdel m n) := by
  induction m generalizing lo with
  | nil => trivial
  | cons e m ih =>
    obtain ⟨k, u⟩ := e
    have hk : lo ≤ k := h.1
    unfold Machine.fdel
    split
    · exact h.2.mono (by omega)
    · exact ⟨hk, ih h.2⟩

end Sys2Proof.Machine
end

