-- ==== Sys2Proof/Laws/Access.lean ====
section
/-! SUPPORT. What the accessors read after the named updates. -/

namespace Sys2Proof.Machine

open Sys2Proof

@[simp] theorem coreOf_setCore_same (s : State) (c : Nat) (k : Core) : coreOf (setCore s c k) c = k := by simp [coreOf]

theorem coreOf_setCore_other (s : State) {c e : Nat} (k : Core) (h : e ≠ c) : coreOf (setCore s c k) e = coreOf s e := by
  simp [coreOf, fget_fput_other _ _ _ h]

@[simp] theorem coreOf_modCore_same (s : State) (c : Nat) (f : Core → Core) : coreOf (modCore s c f) c = f (coreOf s c) := by
  simp [modCore]

theorem coreOf_modCore_other (s : State) {c e : Nat} (f : Core → Core) (h : e ≠ c) :
    coreOf (modCore s c f) e = coreOf s e := coreOf_setCore_other s _ h

@[simp] theorem setCore_setCore (s : State) (c : Nat) (k j : Core) : setCore (setCore s c k) c j = setCore s c j := by
  simp [setCore]

@[simp] theorem warpOf?_setWarp_same (s : State) (c w : Nat) (v : Warp) : warpOf? (setWarp s c w v) c w = some v := by
  simp [warpOf?, setWarp]

theorem warpOf?_setWarp_other_core (s : State) {c e : Nat} (w j : Nat) (v : Warp) (h : e ≠ c) :
    warpOf? (setWarp s c w v) e j = warpOf? s e j := by simp [warpOf?, setWarp, coreOf_modCore_other s _ h]

theorem warpOf?_setWarp_other (s : State) (c : Nat) {w j : Nat} (v : Warp) (h : j ≠ w) :
    warpOf? (setWarp s c w v) c j = warpOf? s c j := by simp [warpOf?, setWarp, fget?_fput_other _ _ h]

@[simp] theorem setWarp_setWarp (s : State) (c w : Nat) (u v : Warp) : setWarp (setWarp s c w u) c w v = setWarp s c w v := by
  simp [setWarp, modCore]

/-- A warp that stands in its slot is changed there. -/
theorem modWarp_at {s : State} {c w : Nat} {v : Warp} (h : warpOf? s c w = some v) (f : Warp → Warp) :
    modWarp s c w f = setWarp s c w (f v) := by simp [modWarp, h]

@[simp] theorem launchOf_setWarp (s : State) (c w l : Nat) (v : Warp) : launchOf (setWarp s c w v) l = launchOf s l := rfl

@[simp] theorem partOf_setWarp (s : State) (c w p : Nat) (v : Warp) : partOf (setWarp s c w v) p = partOf s p := rfl

@[simp] theorem partOfCore_setWarp (s : State) (c w e : Nat) (v : Warp) : partOfCore (setWarp s c w v) e = partOfCore s e := rfl

@[simp] theorem launchOf_modCore (s : State) (c l : Nat) (f : Core → Core) : launchOf (modCore s c f) l = launchOf s l := rfl

@[simp] theorem partOf_modCore (s : State) (c p : Nat) (f : Core → Core) : partOf (modCore s c f) p = partOf s p := rfl

@[simp] theorem coreOf_takeStamp (s : State) (c : Nat) : coreOf (takeStamp s).2 c = coreOf s c := rfl

@[simp] theorem warpOf?_takeStamp (s : State) (c w : Nat) : warpOf? (takeStamp s).2 c w = warpOf? s c w := rfl

@[simp] theorem launchOf_takeStamp (s : State) (l : Nat) : launchOf (takeStamp s).2 l = launchOf s l := rfl

@[simp] theorem coreOf_takeFree (s : State) (c : Nat) : coreOf (takeFree s).2 c = coreOf s c := rfl

@[simp] theorem warpOf?_takeFree (s : State) (c w : Nat) : warpOf? (takeFree s).2 c w = warpOf? s c w := rfl

@[simp] theorem partOf_setPart_same (s : State) (p : Nat) (v : Partition) : partOf (setPart s p v) p = v := by simp [partOf]

theorem partOf_setPart_other (s : State) {p q : Nat} (v : Partition) (h : q ≠ p) : partOf (setPart s p v) q = partOf s q := by
  simp [partOf, fget_fput_other _ _ _ h]

@[simp] theorem partOf_modPart_same (s : State) (p : Nat) (f : Partition → Partition) :
    partOf (modPart s p f) p = f (partOf s p) := by simp [modPart]

theorem partOf_modPart_other (s : State) {p q : Nat} (f : Partition → Partition) (h : q ≠ p) :
    partOf (modPart s p f) q = partOf s q := partOf_setPart_other s _ h

@[simp] theorem coreOf_modPart (s : State) (p c : Nat) (f : Partition → Partition) : coreOf (modPart s p f) c = coreOf s c := rfl

@[simp] theorem clOf_setCl_same (s : State) (c l : Nat) (v : CoreLaunch) : clOf (setCl s c l v) c l = v := by
  simp [clOf, setCl]

@[simp] theorem clOf_modCl_same (s : State) (c l : Nat) (f : CoreLaunch → CoreLaunch) :
    clOf (modCl s c l f) c l = f (clOf s c l) := by simp [modCl]

/-! ## Registers of a warp -/

@[simp] theorem sReg_setS_same (w : Warp) (k : BitVec 6) (v : DWord) : sReg (setS w k v) k = v := by simp [sReg, setS]

theorem sReg_setS_other (w : Warp) {k j : BitVec 6} (v : DWord) (h : j ≠ k) : sReg (setS w k v) j = sReg w j := by
  have : k.toNat ≠ j.toNat := fun e => h (BitVec.eq_of_toNat_eq e.symm)
  simp [sReg, setS, Vector.getElem_set_ne _ _ this]

@[simp] theorem pReg_setP_same (w : Warp) (k : BitVec 4) (v : Mask) : pReg (setP w k v) k = v := by simp [pReg, setP]

theorem pReg_setP_other (w : Warp) {k j : BitVec 4} (v : Mask) (h : j ≠ k) : pReg (setP w k v) j = pReg w j := by
  have : k.toNat ≠ j.toNat := fun e => h (BitVec.eq_of_toNat_eq e.symm)
  simp [pReg, setP, Vector.getElem_set_ne _ _ this]

@[simp] theorem pReg_setS (w : Warp) (k : BitVec 6) (j : BitVec 4) (v : DWord) : pReg (setS w k v) j = pReg w j := rfl

@[simp] theorem sReg_setP (w : Warp) (k : BitVec 4) (j : BitVec 6) (v : Mask) : sReg (setP w k v) j = sReg w j := rfl

theorem regOf_setReg_same (p : Partition) (n : RegName) (i : Nat) (v : DWord) : reg (setReg p n i v) n i = v := by
  simp [reg, regOf, setReg]

theorem lane_mkRow (f : Nat → Word) (l : Nat) (h : l < 32) : lane (mkRow f) l = f l := by
  simp [lane, mkRow, Nat.mod_eq_of_lt h]

end Sys2Proof.Machine
end

