-- ==== Sys2Proof/Laws/Operands.lean ====
section
/-! SUPPORT. What the shared operations of Machine/Ops.lean and Machine/Operands.lean do, said once. -/

namespace Sys2Proof.Machine

open Sys2Proof

/-! ## Checks -/

theorem checkPending_ok {w : Warp} {l : List PendItem} (h : Settled w l) : checkPending w l = .ok () := by
  have : l.find? (isPending w) = none := by
    rw [List.find?_eq_none]; intro i hi; simp [h i hi]
  simp [checkPending, this]

theorem settled_of_checkPending {w : Warp} {l : List PendItem} (h : checkPending w l = .ok ()) : Settled w l := by
  intro i hi
  unfold checkPending at h
  split at h
  · simp [raise] at h
  · rename_i hn; simpa using List.find?_eq_none.1 hn i hi

theorem checkMapped_ok {w : Warp} {l : List Nat} (h : Mapped w l) : checkMapped w l = .ok () := by
  have : l.find? (fun n => nameOf w n == .unmapped) = none := by
    rw [List.find?_eq_none]; intro i hi; simpa using h i hi
  simp [checkMapped, this]

theorem settled_nil (w : Warp) : Settled w [] := by intro i hi; cases hi

theorem settled_append {w : Warp} {a b : List PendItem} : Settled w (a ++ b) ↔ Settled w a ∧ Settled w b := by
  simp only [Settled, List.mem_append]
  exact ⟨fun h => ⟨fun i hi => h i (.inl hi), fun i hi => h i (.inr hi)⟩, fun h i hi => hi.elim (h.1 i) (h.2 i)⟩

theorem mapped_append {w : Warp} {a b : List Nat} : Mapped w (a ++ b) ↔ Mapped w a ∧ Mapped w b := by
  simp only [Mapped, List.mem_append]
  exact ⟨fun h => ⟨fun i hi => h i (.inl hi), fun i hi => h i (.inr hi)⟩, fun h i hi => hi.elim (h.1 i) (h.2 i)⟩

theorem raiseIf_false (code : Nat) (v : DWord) : raiseIf false code v = .ok () := rfl

theorem raiseIf_true (code : Nat) (v : DWord) : raiseIf true code v = .error (.trap code v) := rfl

/-! ## The end of a word -/

theorem finish_ok (s t : State) (x : Ctx) (a : After) : finish s x (.ok (t, a)) = .next (advance t x a) := rfl

theorem finish_trap (s : State) (x : Ctx) (code : Nat) (v : DWord) :
    finish s x (.error (.trap code v)) = .next (trapped s x code v) := rfl

theorem runWord_at {s : State} {x : Ctx} (h : ctxOf s = some x) (f : Ctx → Except Stop (State × After)) :
    runWord s f = finish s x (f x) := by simp [runWord, h]

theorem runMem_at {s : State} {x : Ctx} (h : ctxOf s = some x) (p : Ctx → State)
    (f : Ctx → State → Except Stop (State × After)) : runMem s p f = finish (p x) x (f x (p x)) := by simp [runMem, h]

/-- The meaning of a word ends in a next state wherever a span is in issue. -/
theorem runWord_next {s : State} {x : Ctx} (h : ctxOf s = some x) (f : Ctx → Except Stop (State × After)) :
    ∃ t, runWord s f = .next t := by
  rw [runWord_at h]
  match f x with
  | .ok (t, a) => exact ⟨_, rfl⟩
  | .error (.trap c v) => exact ⟨_, rfl⟩
  | .error .wait => exact ⟨_, rfl⟩
  | .error (.park _) => exact ⟨_, rfl⟩

theorem runMem_next {s : State} {x : Ctx} (h : ctxOf s = some x) (p : Ctx → State)
    (f : Ctx → State → Except Stop (State × After)) : ∃ t, runMem s p f = .next t := by
  rw [runMem_at h]
  match f x (p x) with
  | .ok (t, a) => exact ⟨_, rfl⟩
  | .error (.trap c v) => exact ⟨_, rfl⟩
  | .error .wait => exact ⟨_, rfl⟩
  | .error (.park _) => exact ⟨_, rfl⟩

/-! ## Words of each kind -/

theorem scalarWord_next {s : State} {x : Ctx} (h : ctxOf s = some x) {items : List PendItem} (hp : Settled x.w items)
    (f : Warp → Warp) : runWord s (fun x => scalarWord x s items f) = .next (warpDone s x f) := by
  rw [runWord_at h]
  simp [scalarWord, checkPending_ok hp, warpDone, finish, bind, Except.bind]

theorem narrowed_sub {x : Ctx} (h : narrowed x ≠ 0) : ctxActive x ≠ 0 := by
  intro h0
  apply h
  unfold narrowed
  split
  · exact h0
  · split
    · exact h0
    · rw [h0]; exact BitVec.zero_and

/-- A lane check that passes (R46, R86). -/
theorem laneCheck_ok {s t u : State} {x : Ctx} {scalars : List PendItem} {srcs dsts : List Nat} {preds dpreds : List PendItem}
    (h : LaneReady s x scalars srcs dsts preds dpreds t u) :
    laneCheck s x scalars srcs dsts preds dpreds = .ok (t, laneInOf t x srcs) := by
  have ha := narrowed_sub h.lanes
  unfold laneCheck
  simp only [h.lanes, ha, if_false, checkPending_ok h.settled, checkMapped_ok h.mapped, h.loaded, bind, Except.bind]
  rfl

/-- The write of name destinations (R52, R87). -/
theorem writeNames_ok {s t u : State} {x : Ctx} {scalars : List PendItem} {srcs dsts : List Nat}
    {preds dpreds : List PendItem} (h : LaneReady s x scalars srcs dsts preds dpreds t u) {outs : List (Nat × Row)}
    (ho : outs.map (·.1) = dsts) :
    writeNames t x (laneInOf t x srcs) outs = .ok (lanePut u x (laneInOf t x srcs) outs) := by
  have hm : (laneInOf t x srcs).nar ||| (laneInOf t x srcs).zero ≠ 0 := by
    intro h0
    apply h.lanes
    have : narrowed x ||| zeroLanes x = 0 := h0
    exact (BitVec.or_eq_zero_iff.1 this).1
  unfold writeNames
  simp only [hm, if_false, ho, bind, Except.bind]
  have : splitNames t x ((laneInOf t x srcs).nar ||| (laneInOf t x srcs).zero) dsts = .ok u := h.split
  rw [this]
  rfl

/-- A lane-wise word with one destination. -/
theorem laneWord_next {s t u : State} {x : Ctx} {scalars : List PendItem} {srcs : List Nat} {preds : List PendItem}
    {dst : Nat} (h : LaneReady s x scalars srcs [dst] preds [] t u) (f : LaneIn → Nat → Word) :
    finish s x (laneWord x s scalars srcs preds dst f)
      = .next (laneDone u x (laneInOf t x srcs) [(dst, mkRow (f (laneInOf t x srcs)))]) := by
  unfold laneWord
  simp only [laneCheck_ok h, bind, Except.bind]
  rw [writeNames_ok h (by rfl)]
  rfl

/-- A lane-wise word with a predicate destination. -/
theorem predWord_next {s t u : State} {x : Ctx} {srcs : List Nat} {d : BitVec 4}
    (h : LaneReady s x [] srcs [] [] [.pred d.toNat] t u) (f : LaneIn → Nat → Bool) :
    finish s x (predWord x s srcs d f) = .next (predDone t x (laneInOf t x srcs) d (f (laneInOf t x srcs))) := by
  have hm : (laneInOf t x srcs).nar ||| (laneInOf t x srcs).zero ≠ 0 := by
    intro h0
    exact h.lanes (BitVec.or_eq_zero_iff.1 h0).1
  unfold predWord putPLanes
  simp only [laneCheck_ok h, bind, Except.bind, hm, if_false]
  rfl

/-! ## Waits and stop requests -/

@[simp] theorem waitIf_false : waitIf false = .ok () := rfl
@[simp] theorem waitIf_true : waitIf true = .error .wait := rfl
@[simp] theorem parkIf_false : parkIf false = .ok () := rfl
@[simp] theorem parkIf_true : parkIf true = .error (.park none) := rfl

/-- What waiting in place does to a warp of a launch that runs on: nothing. -/
theorem waitHere_runs {s : State} {c slot : Nat} {w : Warp} (hw : warpOf? s c slot = some w)
    (ht : (launchOf s w.launch).term = none) : waitHere s c slot = s := by simp [waitHere, hw, ht]

/-- What a wait that lets the issue slot go does to a warp of a launch that runs on: its span is parked. -/
theorem parkHere_runs {s : State} {c slot : Nat} {w : Warp} (hw : warpOf? s c slot = some w)
    (ht : (launchOf s w.launch).term = none) :
    parkHere s c slot = setWarp s c slot { w with span := w.span.map (fun sp => { sp with parked := true }) } := by
  unfold parkHere
  rw [modWarp_at hw]
  exact waitHere_runs (warpOf?_setWarp_same s c slot _) (by simpa using ht)

/-- A request is firm as long as one asker other than a scan test asks (R380). -/
theorem stopReq_firm (r : StopReq) : r.firm = false ↔ r.victim = false ∧ r.shake = false ∧ r.freeze = false := by
  simp [StopReq.firm, and_assoc]

/-- An asker that withdraws leaves the others' requests as they are (R354). -/
theorem stopReq_put_other (r : StopReq) :
    ((r.put .shake false).freeze, (r.put .shake false).victim, (r.put .shake false).scan) = (r.freeze, r.victim, r.scan) := rfl

end Sys2Proof.Machine
end

