-- ==== Sys2Proof/Laws/Words.lean ====
section
/-! SUPPORT. The place of a word, and the move past it. -/

namespace Sys2Proof.Machine

open Sys2Proof

/-- What the context of the current word is made of. -/
theorem ctxOf_eq {s : State} {x : Ctx} (h : ctxOf s = some x) :
    x.c = s.cur.1 ∧ x.slot = s.cur.2 ∧ warpOf? s x.c x.slot = some x.w ∧ x.w.span = some x.sp
      ∧ x.l = launchOf s x.w.launch ∧ x.pn = partOfCore s x.c := by
  unfold ctxOf at h
  split at h
  · cases h
  · rename_i w hw
    split at h
    · cases h
    · rename_i sp hs
      cases h
      exact ⟨rfl, rfl, hw, hs, rfl, rfl⟩

theorem ctxOf_warp {s : State} {x : Ctx} (h : ctxOf s = some x) : warpOf? s x.c x.slot = some x.w := (ctxOf_eq h).2.2.1

/-- A change of the current word's warp. -/
theorem modW_at {s : State} {x : Ctx} (h : ctxOf s = some x) (f : Warp → Warp) :
    modW s x f = setWarp s x.c x.slot (f x.w) := modWarp_at (ctxOf_warp h) f

theorem warpDone_congr {s : State} {x : Ctx} (h : ctxOf s = some x) {f g : Warp → Warp} (e : f x.w = g x.w) :
    warpDone s x f = warpDone s x g := by simp [warpDone, modW_at h, e]

/-- A scalar operation on two registers. -/
theorem scalarRR_next {s : State} {x : Ctx} (h : ctxOf s = some x) {d a b : BitVec 6} (hp : Settled x.w [iS a, iS b, iS d])
    (f : DWord → DWord → DWord) {v : DWord} (e : f (sReg x.w a) (sReg x.w b) = v) :
    scalarRR s d a b f = .next (scalarDone s x d v) := by
  unfold scalarRR
  rw [scalarWord_next h hp, scalarDone, warpDone_congr h]
  simp [e]

/-- A scalar operation on a register and a value. -/
theorem scalarRI_next {s : State} {x : Ctx} (h : ctxOf s = some x) {d a : BitVec 6} (hp : Settled x.w [iS a, iS d])
    (y : DWord) (f : DWord → DWord → DWord) {v : DWord} (e : f (sReg x.w a) y = v) :
    scalarRI s d a y f = .next (scalarDone s x d v) := by
  unfold scalarRI
  rw [scalarWord_next h hp, scalarDone, warpDone_congr h]
  simp [e]

/-- A lane operation on two names. -/
theorem laneRR_next {s t u : State} {x : Ctx} {d a b : BitVec 7}
    (h : LaneReady s x [] [winName x.w a, winName x.w b] [winName x.w d] [] [] t u) (f : Ctx → Word → Word → Word) :
    let i := laneInOf t x [winName x.w a, winName x.w b]
    laneRR s d a b f = .next (laneDone u x i [(winName x.w d, mkRow (fun l => f x (i.src 0 l) (i.src 1 l)))]) := by
  unfold laneRR
  rw [runWord_at h.at_, laneWord_next h]

/-- A lane operation on a name and a value. -/
theorem laneRI_next {s t u : State} {x : Ctx} {d a : BitVec 7}
    (h : LaneReady s x [] [winName x.w a] [winName x.w d] [] [] t u) (v : Word) (f : Ctx → Word → Word → Word) :
    let i := laneInOf t x [winName x.w a]
    laneRI s d a v f = .next (laneDone u x i [(winName x.w d, mkRow (fun l => f x (i.src 0 l) v))]) := by
  unfold laneRI
  rw [runWord_at h.at_, laneWord_next h]

/-- A lane operation on one name. -/
theorem laneR_next {s t u : State} {x : Ctx} {d a : BitVec 7}
    (h : LaneReady s x [] [winName x.w a] [winName x.w d] [] [] t u) (f : Ctx → Word → Word) :
    let i := laneInOf t x [winName x.w a]
    laneR s d a f = .next (laneDone u x i [(winName x.w d, mkRow (fun l => f x (i.src 0 l)))]) := by
  unfold laneR
  rw [runWord_at h.at_, laneWord_next h]

/-- A lane operation with a third source. -/
theorem laneRRC_next {s t u : State} {x : Ctx} {d a b : BitVec 7}
    (h : LaneReady s x [] [winName x.w a, winName x.w b, winName x.w (thirdSource x d)] [winName x.w d] [] [] t u)
    (f : Ctx → Word → Word → Word → Word) :
    let i := laneInOf t x [winName x.w a, winName x.w b, winName x.w (thirdSource x d)]
    laneRRC s d a b f
      = .next (laneDone u x i [(winName x.w d, mkRow (fun l => f x (i.src 0 l) (i.src 1 l) (i.src 2 l)))]) := by
  unfold laneRRC
  rw [runWord_at h.at_, laneWord_next h]

/-- A word in the middle of its span: the next word of the span is next. -/
theorem advance_mid {s : State} {x : Ctx} {w : Warp} (h : warpOf? s x.c x.slot = some w)
    (he : wordE (spanWord x.sp x.sp.idx) = false) : advance s x .seq = setWarp (takeStamp s).2 x.c x.slot { w with
      span := some { x.sp with
        idx := x.sp.idx + 1 + dataWords (spanWord x.sp x.sp.idx), pfxa := none, pfxb := none, pfxAt := none, parked := false } } := by
  simp [advance, h, he]

/-- The last word of a span, in a launch that nothing has terminated: the path stands at the continuation. -/
theorem advance_last {s : State} {x : Ctx} {w : Warp} (h : warpOf? s x.c x.slot = some w)
    (he : wordE (spanWord x.sp x.sp.idx) = true) (hl : (launchOf s w.launch).term = none) :
    advance s x .seq = setWarp (takeStamp s).2 x.c x.slot
      (leaveSpan w x.sp (continuation x.sp) false (liveWord x.sp) s.stamp) := by
  simp [advance, h, he, afterSpan, hl]

/-- A transfer out of a span, in a launch that nothing has terminated. -/
theorem advance_jump {s : State} {x : Ctx} {w : Warp} (h : warpOf? s x.c x.slot = some w) (pc : PC) (u : Bool)
    (hl : (launchOf s w.launch).term = none) : advance s x (.jump pc u) = setWarp (takeStamp s).2 x.c x.slot
      (leaveSpan w x.sp pc u (liveWord x.sp) s.stamp) := by
  simp [advance, h, afterSpan, hl]

end Sys2Proof.Machine
end

