-- ==== Sys2Proof/Laws/Accesses.lean ====
section
/-! SUPPORT. The checks of a memory access that pass, and the end of a word that kills lanes. -/

namespace Sys2Proof.Machine

open Sys2Proof

/-- Where no access raises a cause there is no first cause (R180). -/
theorem firstCause_none {l : List (Nat × Option (Nat × Nat))} (h : ∀ e ∈ l, e.2 = none) : firstCause l = none := by
  induction l with
  | nil => rfl
  | cons e l ih =>
    have he := h e (by simp)
    obtain ⟨a, o⟩ := e
    subst he
    exact ih (fun e he => h e (by simp [he]))

/-- Accesses that raise no cause pass (R180). -/
theorem checkAccs_ok {s : State} {x : Ctx} {accs : List (Nat × Nat)} {n : Nat} {al : Bool} {k : Acc}
   (h : ∀ e ∈ accs, accCause s x e.2 n al k = none) : checkAccs s x accs n al k = .ok () := by
  unfold checkAccs raiseCause
  rw [firstCause_none]
  intro e he
  obtain ⟨f, hf, rfl⟩ := List.mem_map.1 he
  exact h f hf

/-- Free lines are not waited for. -/
theorem waitLines_ok {s x ls} (h : LinesFree s x ls) : waitLines s x ls = .ok () := by
  unfold waitLines parkIf
  have : ls.any (fun l => lineHeld s x l.1 l.2) = false := by
    rw [List.any_eq_false]; intro l hl; simp [h l hl]
  simp [this]

/-- GROUP scope with a group passes (R179). -/
theorem checkScope_ok {x : Ctx} {sc : Nat} (h : groupMissing x.w sc = false) : checkScope x sc = .ok () := by
  simp [checkScope, h, raiseIf]

/-- The lanes of LDG once its names are ready. -/
theorem ldgLanes_ok {s t u x d a scope sz} (hg : groupMissing x.w (BitVec.toNat scope) = false)
   (h : LaneReady s x [] (winRun x.w a 2) (winRun x.w d (szNames sz)) [] [] t u) :
   ldgLanes s x d a scope sz = .ok (t, accsOf t x (winRun x.w a 2)) := by
  unfold ldgLanes longCheck
  have hn : narrowed x ≠ 0#32 := h.lanes
  simp [hn, checkScope_ok hg, laneCheck_ok h, bind, Except.bind, accsOf]

/-- The lanes of STG once its names are ready. -/
theorem stgLanes_ok {s t u x d a scope sz} (hg : groupMissing x.w (BitVec.toNat scope) = false)
   (h : LaneReady s x [] (winRun x.w a 2 ++ winRun x.w d (szNames sz)) [] [] [] t u) :
   stgLanes s x d a scope sz = .ok (t, accsOf t x (winRun x.w a 2 ++ winRun x.w d (szNames sz))) := by
  unfold stgLanes
  have hn : narrowed x ≠ 0#32 := h.lanes
  simp [hn, checkScope_ok hg, laneCheck_ok h, bind, Except.bind, accsOf]

/-- The lanes of ATOM once its names are ready. -/
theorem atomLanes_ok {s t u x op ty d a scope} (hg : groupMissing x.w (BitVec.toNat scope) = false)
   (h : LaneReady s x [] (winRun x.w a (2 + atomWords ty * (if op = 7 then 2 else 1))) (winRun x.w d (atomWords ty)) [] [] t u) :
   atomLanes s x op ty d a scope = .ok (t, accsOf t x (winRun x.w a (2 + atomWords ty * (if op = 7 then 2 else 1)))) := by
  unfold atomLanes longCheck
  have hn : narrowed x ≠ 0 := h.lanes
  simp only [hn, checkScope_ok hg, laneCheck_ok h, bind, Except.bind, accsOf, if_false, ne_eq, not_false_eq_true, if_true]

/-- A word that ends with kills. -/
theorem finish_done (s u : State) (x : Ctx) (k : Mask) : finish s x (.ok (killLanes u x k .seq)) = .next (killDone u x k) := by
  cases h : killLanes u x k .seq; simp [finish, killDone, h]

/-- A release that need not wait. -/
theorem release_ok {ord : BitVec 1} {b : Bool} (h : ord = 1 → b = false) : parkIf (ord == 1 && b) = .ok () := by
  unfold parkIf; by_cases ho : ord = 1
  · simp [h ho]
  · have : (ord == 1) = false := by simpa using ho
    rw [this]; rfl

end Sys2Proof.Machine
end

