-- ==== Sys2Proof/Laws/Exec.lean ====
section
/-! SUPPORT. What `exec` answers for each constructor: its meaning. -/

namespace Sys2Proof.Machine

open Sys2Proof

@[simp] theorem exec_map d (s : State) : exec (.map d) s = execMap d s := rfl
@[simp] theorem exec_mapr d n (s : State) : exec (.mapr d n) s = execMapr d n s := rfl
@[simp] theorem exec_unmap d (s : State) : exec (.unmap d) s = execUnmap d s := rfl
@[simp] theorem exec_unmapm a (s : State) : exec (.unmapm a) s = execUnmapm a s := rfl
@[simp] theorem exec_movn d a (s : State) : exec (.movn d a) s = execMovn d a s := rfl
@[simp] theorem exec_swpn d a (s : State) : exec (.swpn d a) s = execSwpn d a s := rfl
@[simp] theorem exec_rotn d n k (s : State) : exec (.rotn d n k) s = execRotn d n k s := rfl
@[simp] theorem exec_aliasN d a (s : State) : exec (.aliasN d a) s = execAliasN d a s := rfl
@[simp] theorem exec_copyn d a (s : State) : exec (.copyn d a) s = execCopyn d a s := rfl
@[simp] theorem exec_give h a (s : State) : exec (.give h a) s = execGive h a s := rfl
@[simp] theorem exec_take d h (s : State) : exec (.take d h) s = execTake d h s := rfl
@[simp] theorem exec_takeq d h p (s : State) : exec (.takeq d h p) s = execTakeq d h p s := rfl
@[simp] theorem exec_ismap d a (s : State) : exec (.ismap d a) s = execIsmap d a s := rfl
@[simp] theorem exec_wbase b (s : State) : exec (.wbase b) s = execWbase b s := rfl
@[simp] theorem exec_mapq d a (s : State) : exec (.mapq d a) s = execMapq d a s := rfl
@[simp] theorem exec_sadd d a b (s : State) : exec (.sadd d a b) s = execSadd d a b s := rfl
@[simp] theorem exec_ssub d a b (s : State) : exec (.ssub d a b) s = execSsub d a b s := rfl
@[simp] theorem exec_smul d a b (s : State) : exec (.smul d a b) s = execSmul d a b s := rfl
@[simp] theorem exec_smulh d a b (s : State) : exec (.smulh d a b) s = execSmulh d a b s := rfl
@[simp] theorem exec_sand d a b (s : State) : exec (.sand d a b) s = execSand d a b s := rfl
@[simp] theorem exec_sor d a b (s : State) : exec (.sor d a b) s = execSor d a b s := rfl
@[simp] theorem exec_sxor d a b (s : State) : exec (.sxor d a b) s = execSxor d a b s := rfl
@[simp] theorem exec_sshl d a b (s : State) : exec (.sshl d a b) s = execSshl d a b s := rfl
@[simp] theorem exec_sshr d a b (s : State) : exec (.sshr d a b) s = execSshr d a b s := rfl
@[simp] theorem exec_ssra d a b (s : State) : exec (.ssra d a b) s = execSsra d a b s := rfl
@[simp] theorem exec_smin d a b (s : State) : exec (.smin d a b) s = execSmin d a b s := rfl
@[simp] theorem exec_smax d a b (s : State) : exec (.smax d a b) s = execSmax d a b s := rfl
@[simp] theorem exec_saddImm d a imm (s : State) : exec (.saddImm d a imm) s = execSaddImm d a imm s := rfl
@[simp] theorem exec_ssubImm d a imm (s : State) : exec (.ssubImm d a imm) s = execSsubImm d a imm s := rfl
@[simp] theorem exec_smulImm d a imm (s : State) : exec (.smulImm d a imm) s = execSmulImm d a imm s := rfl
@[simp] theorem exec_smulhImm d a imm (s : State) : exec (.smulhImm d a imm) s = execSmulhImm d a imm s := rfl
@[simp] theorem exec_sandImm d a imm (s : State) : exec (.sandImm d a imm) s = execSandImm d a imm s := rfl
@[simp] theorem exec_sorImm d a imm (s : State) : exec (.sorImm d a imm) s = execSorImm d a imm s := rfl
@[simp] theorem exec_sxorImm d a imm (s : State) : exec (.sxorImm d a imm) s = execSxorImm d a imm s := rfl
@[simp] theorem exec_sshlImm d a imm (s : State) : exec (.sshlImm d a imm) s = execSshlImm d a imm s := rfl
@[simp] theorem exec_sshrImm d a imm (s : State) : exec (.sshrImm d a imm) s = execSshrImm d a imm s := rfl
@[simp] theorem exec_ssraImm d a imm (s : State) : exec (.ssraImm d a imm) s = execSsraImm d a imm s := rfl
@[simp] theorem exec_sminImm d a imm (s : State) : exec (.sminImm d a imm) s = execSminImm d a imm s := rfl
@[simp] theorem exec_smaxImm d a imm (s : State) : exec (.smaxImm d a imm) s = execSmaxImm d a imm s := rfl
@[simp] theorem exec_scmp cc d a b (s : State) : exec (.scmp cc d a b) s = execScmp cc d a b s := rfl
@[simp] theorem exec_scmpImm cc d a imm (s : State) : exec (.scmpImm cc d a imm) s = execScmpImm cc d a imm s := rfl
@[simp] theorem exec_ssel d a b (s : State) : exec (.ssel d a b) s = execSsel d a b s := rfl
@[simp] theorem exec_smov d a (s : State) : exec (.smov d a) s = execSmov d a s := rfl
@[simp] theorem exec_sldi d imm (s : State) : exec (.sldi d imm) s = execSldi d imm s := rfl
@[simp] theorem exec_slit d h lit (s : State) : exec (.slit d h lit) s = execSlit d h lit s := rfl
@[simp] theorem exec_iadd d a b (s : State) : exec (.iadd d a b) s = execIadd d a b s := rfl
@[simp] theorem exec_isub d a b (s : State) : exec (.isub d a b) s = execIsub d a b s := rfl
@[simp] theorem exec_imul d a b (s : State) : exec (.imul d a b) s = execImul d a b s := rfl
@[simp] theorem exec_imulh d a b (s : State) : exec (.imulh d a b) s = execImulh d a b s := rfl
@[simp] theorem exec_iand d a b (s : State) : exec (.iand d a b) s = execIand d a b s := rfl
@[simp] theorem exec_ior d a b (s : State) : exec (.ior d a b) s = execIor d a b s := rfl
@[simp] theorem exec_ixor d a b (s : State) : exec (.ixor d a b) s = execIxor d a b s := rfl
@[simp] theorem exec_ishl d a b (s : State) : exec (.ishl d a b) s = execIshl d a b s := rfl
@[simp] theorem exec_ishr d a b (s : State) : exec (.ishr d a b) s = execIshr d a b s := rfl
@[simp] theorem exec_isra d a b (s : State) : exec (.isra d a b) s = execIsra d a b s := rfl
@[simp] theorem exec_imin d a b (s : State) : exec (.imin d a b) s = execImin d a b s := rfl
@[simp] theorem exec_imax d a b (s : State) : exec (.imax d a b) s = execImax d a b s := rfl
@[simp] theorem exec_iaddImm d a imm (s : State) : exec (.iaddImm d a imm) s = execIaddImm d a imm s := rfl
@[simp] theorem exec_isubImm d a imm (s : State) : exec (.isubImm d a imm) s = execIsubImm d a imm s := rfl
@[simp] theorem exec_imulImm d a imm (s : State) : exec (.imulImm d a imm) s = execImulImm d a imm s := rfl
@[simp] theorem exec_imulhImm d a imm (s : State) : exec (.imulhImm d a imm) s = execImulhImm d a imm s := rfl
@[simp] theorem exec_iandImm d a imm (s : State) : exec (.iandImm d a imm) s = execIandImm d a imm s := rfl
@[simp] theorem exec_iorImm d a imm (s : State) : exec (.iorImm d a imm) s = execIorImm d a imm s := rfl
@[simp] theorem exec_ixorImm d a imm (s : State) : exec (.ixorImm d a imm) s = execIxorImm d a imm s := rfl
@[simp] theorem exec_ishlImm d a imm (s : State) : exec (.ishlImm d a imm) s = execIshlImm d a imm s := rfl
@[simp] theorem exec_ishrImm d a imm (s : State) : exec (.ishrImm d a imm) s = execIshrImm d a imm s := rfl
@[simp] theorem exec_israImm d a imm (s : State) : exec (.israImm d a imm) s = execIsraImm d a imm s := rfl
@[simp] theorem exec_iminImm d a imm (s : State) : exec (.iminImm d a imm) s = execIminImm d a imm s := rfl
@[simp] theorem exec_imaxImm d a imm (s : State) : exec (.imaxImm d a imm) s = execImaxImm d a imm s := rfl
@[simp] theorem exec_imad d a b (s : State) : exec (.imad d a b) s = execImad d a b s := rfl
@[simp] theorem exec_iabs d a (s : State) : exec (.iabs d a) s = execIabs d a s := rfl
@[simp] theorem exec_popc d a (s : State) : exec (.popc d a) s = execPopc d a s := rfl
@[simp] theorem exec_clz d a (s : State) : exec (.clz d a) s = execClz d a s := rfl
@[simp] theorem exec_brev d a (s : State) : exec (.brev d a) s = execBrev d a s := rfl
@[simp] theorem exec_bfe d a b (s : State) : exec (.bfe d a b) s = execBfe d a b s := rfl
@[simp] theorem exec_bfi d a b (s : State) : exec (.bfi d a b) s = execBfi d a b s := rfl
@[simp] theorem exec_iaddc d a b (s : State) : exec (.iaddc d a b) s = execIaddc d a b s := rfl
@[simp] theorem exec_icmp cc d a b (s : State) : exec (.icmp cc d a b) s = execIcmp cc d a b s := rfl
@[simp] theorem exec_icmpImm cc d a imm (s : State) : exec (.icmpImm cc d a imm) s = execIcmpImm cc d a imm s := rfl
@[simp] theorem exec_lea d u a b (s : State) : exec (.lea d u a b) s = execLea d u a b s := rfl
@[simp] theorem exec_mov d a (s : State) : exec (.mov d a) s = execMov d a s := rfl
@[simp] theorem exec_movs d h a (s : State) : exec (.movs d h a) s = execMovs d h a s := rfl
@[simp] theorem exec_lit d lit (s : State) : exec (.lit d lit) s = execLit d lit s := rfl
@[simp] theorem exec_pand d a b (s : State) : exec (.pand d a b) s = execPand d a b s := rfl
@[simp] theorem exec_por d a b (s : State) : exec (.por d a b) s = execPor d a b s := rfl
@[simp] theorem exec_pxor d a b (s : State) : exec (.pxor d a b) s = execPxor d a b s := rfl
@[simp] theorem exec_pnot d a (s : State) : exec (.pnot d a) s = execPnot d a s := rfl
@[simp] theorem exec_pset d a (s : State) : exec (.pset d a) s = execPset d a s := rfl
@[simp] theorem exec_pmov d a (s : State) : exec (.pmov d a) s = execPmov d a s := rfl
@[simp] theorem exec_fadd d a b (s : State) : exec (.fadd d a b) s = execFadd d a b s := rfl
@[simp] theorem exec_fsub d a b (s : State) : exec (.fsub d a b) s = execFsub d a b s := rfl
@[simp] theorem exec_fmul d a b (s : State) : exec (.fmul d a b) s = execFmul d a b s := rfl
@[simp] theorem exec_ffma d a b (s : State) : exec (.ffma d a b) s = execFfma d a b s := rfl
@[simp] theorem exec_fmin d a b (s : State) : exec (.fmin d a b) s = execFmin d a b s := rfl
@[simp] theorem exec_fmax d a b (s : State) : exec (.fmax d a b) s = execFmax d a b s := rfl
@[simp] theorem exec_fabs d a (s : State) : exec (.fabs d a) s = execFabs d a s := rfl
@[simp] theorem exec_fneg d a (s : State) : exec (.fneg d a) s = execFneg d a s := rfl
@[simp] theorem exec_fcmpEq d a b (s : State) : exec (.fcmpEq d a b) s = execFcmpEq d a b s := rfl
@[simp] theorem exec_fcmpLt d a b (s : State) : exec (.fcmpLt d a b) s = execFcmpLt d a b s := rfl
@[simp] theorem exec_fcmpLe d a b (s : State) : exec (.fcmpLe d a b) s = execFcmpLe d a b s := rfl
@[simp] theorem exec_fcmpGt d a b (s : State) : exec (.fcmpGt d a b) s = execFcmpGt d a b s := rfl
@[simp] theorem exec_fcmpGe d a b (s : State) : exec (.fcmpGe d a b) s = execFcmpGe d a b s := rfl
@[simp] theorem exec_fcmpNe d a b (s : State) : exec (.fcmpNe d a b) s = execFcmpNe d a b s := rfl
@[simp] theorem exec_fcmpOrd d a b (s : State) : exec (.fcmpOrd d a b) s = execFcmpOrd d a b s := rfl
@[simp] theorem exec_fcmpUno d a b (s : State) : exec (.fcmpUno d a b) s = execFcmpUno d a b s := rfl
@[simp] theorem exec_fcmpEqu d a b (s : State) : exec (.fcmpEqu d a b) s = execFcmpEqu d a b s := rfl
@[simp] theorem exec_fcmpLtu d a b (s : State) : exec (.fcmpLtu d a b) s = execFcmpLtu d a b s := rfl
@[simp] theorem exec_fcmpLeu d a b (s : State) : exec (.fcmpLeu d a b) s = execFcmpLeu d a b s := rfl
@[simp] theorem exec_fcmpGtu d a b (s : State) : exec (.fcmpGtu d a b) s = execFcmpGtu d a b s := rfl
@[simp] theorem exec_fcmpGeu d a b (s : State) : exec (.fcmpGeu d a b) s = execFcmpGeu d a b s := rfl
@[simp] theorem exec_fcmpNeu d a b (s : State) : exec (.fcmpNeu d a b) s = execFcmpNeu d a b s := rfl
@[simp] theorem exec_hadd2 d a b (s : State) : exec (.hadd2 d a b) s = execHadd2 d a b s := rfl
@[simp] theorem exec_hmul2 d a b (s : State) : exec (.hmul2 d a b) s = execHmul2 d a b s := rfl
@[simp] theorem exec_hfma2 d a b (s : State) : exec (.hfma2 d a b) s = execHfma2 d a b s := rfl
@[simp] theorem exec_fcvt dst d a src (s : State) : exec (.fcvt dst d a src) s = execFcvt dst d a src s := rfl
@[simp] theorem exec_frcp d a (s : State) : exec (.frcp d a) s = execFrcp d a s := rfl
@[simp] theorem exec_frsq d a (s : State) : exec (.frsq d a) s = execFrsq d a s := rfl
@[simp] theorem exec_fsqrt d a (s : State) : exec (.fsqrt d a) s = execFsqrt d a s := rfl
@[simp] theorem exec_fex2 d a (s : State) : exec (.fex2 d a) s = execFex2 d a s := rfl
@[simp] theorem exec_flg2 d a (s : State) : exec (.flg2 d a) s = execFlg2 d a s := rfl
@[simp] theorem exec_ftanh d a (s : State) : exec (.ftanh d a) s = execFtanh d a s := rfl
@[simp] theorem exec_shfl2 d a b (s : State) : exec (.shfl2 d a b) s = execShfl2 d a b s := rfl
@[simp] theorem exec_shfl4 d a b (s : State) : exec (.shfl4 d a b) s = execShfl4 d a b s := rfl
@[simp] theorem exec_shfl8 d a b (s : State) : exec (.shfl8 d a b) s = execShfl8 d a b s := rfl
@[simp] theorem exec_shfl16 d a b (s : State) : exec (.shfl16 d a b) s = execShfl16 d a b s := rfl
@[simp] theorem exec_shfl32 d a b (s : State) : exec (.shfl32 d a b) s = execShfl32 d a b s := rfl
@[simp] theorem exec_voteAny d neg p (s : State) : exec (.voteAny d neg p) s = execVoteAny d neg p s := rfl
@[simp] theorem exec_voteAll d neg p (s : State) : exec (.voteAll d neg p) s = execVoteAll d neg p s := rfl
@[simp] theorem exec_voteBal d neg p (s : State) : exec (.voteBal d neg p) s = execVoteBal d neg p s := rfl
@[simp] theorem exec_matchAny d a (s : State) : exec (.matchAny d a) s = execMatchAny d a s := rfl
@[simp] theorem exec_matchAll d a (s : State) : exec (.matchAll d a) s = execMatchAll d a s := rfl
@[simp] theorem exec_redux d a op (s : State) : exec (.redux d a op) s = execRedux d a op s := rfl
@[simp] theorem exec_fredux d a op (s : State) : exec (.fredux d a op) s = execFredux d a op s := rfl
@[simp] theorem exec_scan d a ex op (s : State) : exec (.scan d a ex op) s = execScan d a ex op s := rfl
@[simp] theorem exec_bcast d a b (s : State) : exec (.bcast d a b) s = execBcast d a b s := rfl
@[simp] theorem exec_elect d a (s : State) : exec (.elect d a) s = execElect d a s := rfl
@[simp] theorem exec_bra off (s : State) : exec (.bra off) s = execBra off s := rfl
@[simp] theorem exec_bru neg sr off (s : State) : exec (.bru neg sr off) s = execBru neg sr off s := rfl
@[simp] theorem exec_brp neg p off (s : State) : exec (.brp neg p off) s = execBrp neg p off s := rfl
@[simp] theorem exec_jpoint off (s : State) : exec (.jpoint off) s = execJpoint off s := rfl
@[simp] theorem exec_join (s : State) : exec (.join) s = execJoin s := rfl
@[simp] theorem exec_jmpr a (s : State) : exec (.jmpr a) s = execJmpr a s := rfl
@[simp] theorem exec_call d off (s : State) : exec (.call d off) s = execCall d off s := rfl
@[simp] theorem exec_callr d a (s : State) : exec (.callr d a) s = execCallr d a s := rfl
@[simp] theorem exec_ret a (s : State) : exec (.ret a) s = execRet a s := rfl
@[simp] theorem exec_exit (s : State) : exec (.exit) s = execExit s := rfl
@[simp] theorem exec_nop (s : State) : exec (.nop) s = execNop s := rfl
@[simp] theorem exec_yield (s : State) : exec (.yield) s = execYield s := rfl
@[simp] theorem exec_ldg d a scope ord sz (s : State) : exec (.ldg d a scope ord sz) s = execLdg d a scope ord sz s := rfl
@[simp] theorem exec_stg d a scope ord sz (s : State) : exec (.stg d a scope ord sz) s = execStg d a scope ord sz s := rfl
@[simp] theorem exec_lds d a fe sz (s : State) : exec (.lds d a fe sz) s = execLds d a fe sz s := rfl
@[simp] theorem exec_sts d a fe sz (s : State) : exec (.sts d a fe sz) s = execSts d a fe sz s := rfl
@[simp] theorem exec_ldu d a scope ord sz (s : State) : exec (.ldu d a scope ord sz) s = execLdu d a scope ord sz s := rfl
@[simp] theorem exec_stu d a scope ord sz (s : State) : exec (.stu d a scope ord sz) s = execStu d a scope ord sz s := rfl
@[simp] theorem exec_atom op d a ar ty scope (s : State) : exec (.atom op d a ar ty scope) s = execAtom op d a ar ty scope s := rfl
@[simp] theorem exec_atoms op d a ty (s : State) : exec (.atoms op d a ty) s = execAtoms op d a ty s := rfl
@[simp] theorem exec_rowld d a h n (s : State) : exec (.rowld d a h n) s = execRowld d a h n s := rfl
@[simp] theorem exec_rowst d a n (s : State) : exec (.rowst d a n) s = execRowst d a n s := rfl
@[simp] theorem exec_rowadd d a n (s : State) : exec (.rowadd d a n) s = execRowadd d a n s := rfl
@[simp] theorem exec_pref a llc (s : State) : exec (.pref a llc) s = execPref a llc s := rfl
@[simp] theorem exec_fence kind scope (s : State) : exec (.fence kind scope) s = execFence kind scope s := rfl
@[simp] theorem exec_gbar g (s : State) : exec (.gbar g) s = execGbar g s := rfl
@[simp] theorem exec_garv d g (s : State) : exec (.garv d g) s = execGarv d g s := rfl
@[simp] theorem exec_gwait g b (s : State) : exec (.gwait g b) s = execGwait g b s := rfl
@[simp] theorem exec_mma acc a b (s : State) : exec (.mma acc a b) s = execMma acc a b s := rfl
@[simp] theorem exec_mzero acc n (s : State) : exec (.mzero acc n) s = execMzero acc n s := rfl
@[simp] theorem exec_bfill d a (s : State) : exec (.bfill d a) s = execBfill d a s := rfl
@[simp] theorem exec_bfills d a key (s : State) : exec (.bfills d a key) s = execBfills d a key s := rfl
@[simp] theorem exec_scld a b (s : State) : exec (.scld a b) s = execScld a b s := rfl
@[simp] theorem exec_mepi a (s : State) : exec (.mepi a) s = execMepi a s := rfl
@[simp] theorem exec_mdrain own acc a rte dest (s : State) : exec (.mdrain own acc a rte dest) s = execMdrain own acc a rte dest s := rfl
@[simp] theorem exec_vpop d (s : State) : exec (.vpop d) s = execVpop d s := rfl
@[simp] theorem exec_mburst n (s : State) : exec (.mburst n) s = execMburst n s := rfl
@[simp] theorem exec_mstat d (s : State) : exec (.mstat d) s = execMstat d s := rfl
@[simp] theorem exec_accsv acc a (s : State) : exec (.accsv acc a) s = execAccsv acc a s := rfl
@[simp] theorem exec_accld int acc a (s : State) : exec (.accld int acc a) s = execAccld int acc a s := rfl
@[simp] theorem exec_fwait a (s : State) : exec (.fwait a) s = execFwait a s := rfl
@[simp] theorem exec_ftest d a (s : State) : exec (.ftest d a) s = execFtest d a s := rfl
@[simp] theorem exec_fstat d a (s : State) : exec (.fstat d a) s = execFstat d a s := rfl
@[simp] theorem exec_fcancel d a (s : State) : exec (.fcancel d a) s = execFcancel d a s := rfl
@[simp] theorem exec_tld d a (s : State) : exec (.tld d a) s = execTld d a s := rfl
@[simp] theorem exec_tst d a (s : State) : exec (.tst d a) s = execTst d a s := rfl
@[simp] theorem exec_tcpy d a (s : State) : exec (.tcpy d a) s = execTcpy d a s := rfl
@[simp] theorem exec_tmcast d a g (s : State) : exec (.tmcast d a g) s = execTmcast d a g s := rfl
@[simp] theorem exec_gath d a b (s : State) : exec (.gath d a b) s = execGath d a b s := rfl
@[simp] theorem exec_scat d a b (s : State) : exec (.scat d a b) s = execScat d a b s := rfl
@[simp] theorem exec_feedgo d a (s : State) : exec (.feedgo d a) s = execFeedgo d a s := rfl
@[simp] theorem exec_qfeed d a q (s : State) : exec (.qfeed d a q) s = execQfeed d a q s := rfl
@[simp] theorem exec_qpop d q (s : State) : exec (.qpop d q) s = execQpop d q s := rfl
@[simp] theorem exec_qrel q b (s : State) : exec (.qrel q b) s = execQrel q b s := rfl
@[simp] theorem exec_qpost d a (s : State) : exec (.qpost d a) s = execQpost d a s := rfl
@[simp] theorem exec_qpostAt d a b (s : State) : exec (.qpostAt d a b) s = execQpostAt d a b s := rfl
@[simp] theorem exec_ctradd d cnt (s : State) : exec (.ctradd d cnt) s = execCtradd d cnt s := rfl
@[simp] theorem exec_ctrwait d cnt (s : State) : exec (.ctrwait d cnt) s = execCtrwait d cnt s := rfl
@[simp] theorem exec_rteset rte a (s : State) : exec (.rteset rte a) s = execRteset rte a s := rfl
@[simp] theorem exec_cabort d a b (s : State) : exec (.cabort d a b) s = execCabort d a b s := rfl
@[simp] theorem exec_launch d a (s : State) : exec (.launch d a) s = execLaunch d a s := rfl
@[simp] theorem exec_treg d a b (s : State) : exec (.treg d a b) s = execTreg d a b s := rfl
@[simp] theorem exec_tunreg a (s : State) : exec (.tunreg a) s = execTunreg a s := rfl
@[simp] theorem exec_tmove d a b (s : State) : exec (.tmove d a b) s = execTmove d a b s := rfl
@[simp] theorem exec_solicit d a b (s : State) : exec (.solicit d a b) s = execSolicit d a b s := rfl
@[simp] theorem exec_reply a (s : State) : exec (.reply a) s = execReply a s := rfl
@[simp] theorem exec_replyv a (s : State) : exec (.replyv a) s = execReplyv a s := rfl
@[simp] theorem exec_census d a (s : State) : exec (.census d a) s = execCensus d a s := rfl
@[simp] theorem exec_trap imm (s : State) : exec (.trap imm) s = execTrap imm s := rfl
@[simp] theorem exec_eret (s : State) : exec (.eret) s = execEret s := rfl
@[simp] theorem exec_srd d spec (s : State) : exec (.srd d spec) s = execSrd d spec s := rfl
@[simp] theorem exec_swr spec b (s : State) : exec (.swr spec b) s = execSwr spec b s := rfl
@[simp] theorem exec_bkpt imm (s : State) : exec (.bkpt imm) s = execBkpt imm s := rfl
@[simp] theorem exec_gettime d cyc (s : State) : exec (.gettime d cyc) s = execGettime d cyc s := rfl
@[simp] theorem exec_srdV d spec (s : State) : exec (.srdV d spec) s = execSrdV d spec s := rfl
@[simp] theorem exec_pfxa pred neg pol c cv (s : State) : exec (.pfxa pred neg pol c cv) s = execPfxa pred neg pol c cv s := rfl
@[simp] theorem exec_pfxb rm sat ty (s : State) : exec (.pfxb rm sat ty) s = execPfxb rm sat ty s := rfl
@[simp] theorem exec_spanIssue core slot refetch (s : State) : exec (.spanIssue core slot refetch) s = execSpanIssue core slot refetch s := rfl
@[simp] theorem exec_longLatencyComplete core warp op (s : State) : exec (.longLatencyComplete core warp op) s = execLongLatencyComplete core warp op s := rfl
@[simp] theorem exec_pathPromotion core warp sec (s : State) : exec (.pathPromotion core warp sec) s = execPathPromotion core warp sec s := rfl
@[simp] theorem exec_gangRelease core warp (s : State) : exec (.gangRelease core warp) s = execGangRelease core warp s := rfl
@[simp] theorem exec_gangTrapDeferredEntry core warp (s : State) : exec (.gangTrapDeferredEntry core warp) s = execGangTrapDeferredEntry core warp s := rfl
@[simp] theorem exec_launchEnd launch (s : State) : exec (.launchEnd launch) s = execLaunchEnd launch s := rfl
@[simp] theorem exec_engineLineWrite core op line (s : State) : exec (.engineLineWrite core op line) s = execEngineLineWrite core op line s := rfl
@[simp] theorem exec_tileTransferComplete core op (s : State) : exec (.tileTransferComplete core op) s = execTileTransferComplete core op s := rfl
@[simp] theorem exec_bfillComplete core op (s : State) : exec (.bfillComplete core op) s = execBfillComplete core op s := rfl
@[simp] theorem exec_qfeedFillComplete core op (s : State) : exec (.qfeedFillComplete core op) s = execQfeedFillComplete core op s := rfl
@[simp] theorem exec_drainRowDeliver core warp op (s : State) : exec (.drainRowDeliver core warp op) s = execDrainRowDeliver core warp op s := rfl
@[simp] theorem exec_scratchWaitPerform core launch op (s : State) : exec (.scratchWaitPerform core launch op) s = execScratchWaitPerform core launch op s := rfl
@[simp] theorem exec_feedSpanIssue core launch (s : State) : exec (.feedSpanIssue core launch) s = execFeedSpanIssue core launch s := rfl
@[simp] theorem exec_postedEntryFire core op time tree (s : State) : exec (.postedEntryFire core op time tree) s
    = execPostedEntryFire core op time tree s := rfl
@[simp] theorem exec_sctData part p (s : State) : exec (.sctData part p) s = execSctData part p s := rfl
@[simp] theorem exec_sctAck part p (s : State) : exec (.sctAck part p) s = execSctAck part p s := rfl
@[simp] theorem exec_sctNak part p (s : State) : exec (.sctNak part p) s = execSctNak part p s := rfl
@[simp] theorem exec_sctLaunch part p (s : State) : exec (.sctLaunch part p) s = execSctLaunch part p s := rfl
@[simp] theorem exec_sctAbort part p (s : State) : exec (.sctAbort part p) s = execSctAbort part p s := rfl
@[simp] theorem exec_sctState part p (s : State) : exec (.sctState part p) s = execSctState part p s := rfl
@[simp] theorem exec_sctLineReq part p (s : State) : exec (.sctLineReq part p) s = execSctLineReq part p s := rfl
@[simp] theorem exec_sctLineRsp part p (s : State) : exec (.sctLineRsp part p) s = execSctLineRsp part p s := rfl
@[simp] theorem exec_nakBackoffExpire part who (s : State) : exec (.nakBackoffExpire part who) s = execNakBackoffExpire part who s := rfl
@[simp] theorem exec_sctAckTimeout part dst qp (s : State) : exec (.sctAckTimeout part dst qp) s = execSctAckTimeout part dst qp s := rfl
@[simp] theorem exec_rootSequence part (s : State) : exec (.rootSequence part) s = execRootSequence part s := rfl
@[simp] theorem exec_solicitAccept core (s : State) : exec (.solicitAccept core) s = execSolicitAccept core s := rfl
@[simp] theorem exec_responderSpawn core (s : State) : exec (.responderSpawn core) s = execResponderSpawn core s := rfl
@[simp] theorem exec_coreReport core id (s : State) : exec (.coreReport core id) s = execCoreReport core id s := rfl
@[simp] theorem exec_tmoveSwitchSend core op (s : State) : exec (.tmoveSwitchSend core op) s = execTmoveSwitchSend core op s := rfl
@[simp] theorem exec_tmoveSwitchApply core (s : State) : exec (.tmoveSwitchApply core) s = execTmoveSwitchApply core s := rfl
@[simp] theorem exec_barrierArriveSend core launch group (s : State) : exec (.barrierArriveSend core launch group) s = execBarrierArriveSend core launch group s := rfl
@[simp] theorem exec_barrierArriveCount part (s : State) : exec (.barrierArriveCount part) s = execBarrierArriveCount part s := rfl
@[simp] theorem exec_barrierComplete core (s : State) : exec (.barrierComplete core) s = execBarrierComplete core s := rfl
@[simp] theorem exec_submissionRingTail part cls tail (s : State) : exec (.submissionRingTail part cls tail) s = execSubmissionRingTail part cls tail s := rfl
@[simp] theorem exec_recordCheck part src (s : State) : exec (.recordCheck part src) s = execRecordCheck part src s := rfl
@[simp] theorem exec_dispatchPlace part (s : State) : exec (.dispatchPlace part) s = execDispatchPlace part s := rfl
@[simp] theorem exec_pathStop core warp sec (s : State) : exec (.pathStop core warp sec) s = execPathStop core warp sec s := rfl
@[simp] theorem exec_preemptBudgetExpire launch (s : State) : exec (.preemptBudgetExpire launch) s = execPreemptBudgetExpire launch s := rfl
@[simp] theorem exec_completionRingHead part head (s : State) : exec (.completionRingHead part head) s = execCompletionRingHead part head s := rfl
@[simp] theorem exec_tenantTeardown part tenant (s : State) : exec (.tenantTeardown part tenant) s = execTenantTeardown part tenant s := rfl
@[simp] theorem exec_homeSliceWrite src (s : State) : exec (.homeSliceWrite src) s = execHomeSliceWrite src s := rfl
@[simp] theorem exec_l1Invalidate core line (s : State) : exec (.l1Invalidate core line) s = execL1Invalidate core line s := rfl
@[simp] theorem exec_lineFetchComplete part idx (s : State) : exec (.lineFetchComplete part idx) s = execLineFetchComplete part idx s := rfl
@[simp] theorem exec_fileBlockRead part frame data (s : State) : exec (.fileBlockRead part frame data) s = execFileBlockRead part frame data s := rfl
@[simp] theorem exec_pageWalk part asid vpn store (s : State) : exec (.pageWalk part asid vpn store) s = execPageWalk part asid vpn store s := rfl
@[simp] theorem exec_shootdown part v (s : State) : exec (.shootdown part v) s = execShootdown part v s := rfl
@[simp] theorem exec_shootdownComplete part (s : State) : exec (.shootdownComplete part) s = execShootdownComplete part s := rfl
@[simp] theorem exec_fsRead part frame (s : State) : exec (.fsRead part frame) s = execFsRead part frame s := rfl
@[simp] theorem exec_fsRelease part frame (s : State) : exec (.fsRelease part frame) s = execFsRelease part frame s := rfl
@[simp] theorem exec_fsScrub part frame (s : State) : exec (.fsScrub part frame) s = execFsScrub part frame s := rfl
@[simp] theorem exec_scrubComplete part frame (s : State) : exec (.scrubComplete part frame) s = execScrubComplete part frame s := rfl
@[simp] theorem exec_fsSetfile part frame arg (s : State) : exec (.fsSetfile part frame arg) s = execFsSetfile part frame arg s := rfl
@[simp] theorem exec_fsReadcnt part frame (s : State) : exec (.fsReadcnt part frame) s = execFsReadcnt part frame s := rfl
@[simp] theorem exec_hardwareMigration part frame (s : State) : exec (.hardwareMigration part frame) s = execHardwareMigration part frame s := rfl
@[simp] theorem exec_writebackScanVisit part frame (s : State) : exec (.writebackScanVisit part frame) s = execWritebackScanVisit part frame s := rfl
@[simp] theorem exec_snapshotRead part frame (s : State) : exec (.snapshotRead part frame) s = execSnapshotRead part frame s := rfl
@[simp] theorem exec_flashWriteComplete part frame ok (s : State) : exec (.flashWriteComplete part frame ok) s = execFlashWriteComplete part frame ok s := rfl
@[simp] theorem exec_parMerge part other (s : State) : exec (.parMerge part other) s = execParMerge part other s := rfl
@[simp] theorem exec_parYield part other (s : State) : exec (.parYield part other) s = execParYield part other s := rfl
@[simp] theorem exec_parSplit part octs (s : State) : exec (.parSplit part octs) s = execParSplit part octs s := rfl
@[simp] theorem exec_parMigrate part rank accepted octants (s : State) : exec (.parMigrate part rank accepted octants) s = execParMigrate part rank accepted octants s := rfl
@[simp] theorem exec_parAccept part rank (s : State) : exec (.parAccept part rank) s = execParAccept part rank s := rfl
@[simp] theorem exec_handshakeDrainDone part (s : State) : exec (.handshakeDrainDone part) s = execHandshakeDrainDone part s := rfl
@[simp] theorem exec_handshakeTimeout part (s : State) : exec (.handshakeTimeout part) s = execHandshakeTimeout part s := rfl
@[simp] theorem exec_migrationCommitSend part ok (s : State) : exec (.migrationCommitSend part ok) s = execMigrationCommitSend part ok s := rfl
@[simp] theorem exec_migrationCommitReceive part (s : State) : exec (.migrationCommitReceive part) s = execMigrationCommitReceive part s := rfl
@[simp] theorem exec_migrationCommitAck part acked (s : State) : exec (.migrationCommitAck part acked) s = execMigrationCommitAck part acked s := rfl
@[simp] theorem exec_parSaveWrite part tenant v (s : State) : exec (.parSaveWrite part tenant v) s = execParSaveWrite part tenant v s := rfl
@[simp] theorem exec_rkpetWrite part (s : State) : exec (.rkpetWrite part) s = execRkpetWrite part s := rfl
@[simp] theorem exec_watchdogExpire part (s : State) : exec (.watchdogExpire part) s = execWatchdogExpire part s := rfl
@[simp] theorem exec_thaw part (s : State) : exec (.thaw part) s = execThaw part s := rfl
@[simp] theorem exec_keyRequest part v (s : State) : exec (.keyRequest part v) s = execKeyRequest part v s := rfl
@[simp] theorem exec_keyVerifyComplete part slot (s : State) : exec (.keyVerifyComplete part slot) s
    = execKeyVerifyComplete part slot s := rfl
@[simp] theorem exec_attestRequest part pa (s : State) : exec (.attestRequest part pa) s = execAttestRequest part pa s := rfl
@[simp] theorem exec_scanTestStart core (s : State) : exec (.scanTestStart core) s = execScanTestStart core s := rfl
@[simp] theorem exec_scanDeferExpire core (s : State) : exec (.scanDeferExpire core) s = execScanDeferExpire core s := rfl
@[simp] theorem exec_scanTestComplete core pass (s : State) : exec (.scanTestComplete core pass) s = execScanTestComplete core pass s := rfl
@[simp] theorem exec_routerFailure oct col row lostCores lostSlices lostPort (s : State) : exec (.routerFailure oct col row lostCores lostSlices lostPort) s = execRouterFailure oct col row lostCores lostSlices lostPort s := rfl
@[simp] theorem exec_linkFailure a b (s : State) : exec (.linkFailure a b) s = execLinkFailure a b s := rfl
@[simp] theorem exec_eccError site correctable (s : State) : exec (.eccError site correctable) s = execEccError site correctable s := rfl
@[simp] theorem exec_moduleBoot image (s : State) : exec (.moduleBoot image) s = execModuleBoot image s := rfl
@[simp] theorem exec_ethFrameReceive oct frame (s : State) : exec (.ethFrameReceive oct frame) s = execEthFrameReceive oct frame s := rfl
@[simp] theorem exec_ethFrameTransmit oct frame (s : State) : exec (.ethFrameTransmit oct frame) s = execEthFrameTransmit oct frame s := rfl
@[simp] theorem exec_mctpMessage oct req (s : State) : exec (.mctpMessage oct req) s = execMctpMessage oct req s := rfl
@[simp] theorem exec_troyDebugRead part pa (s : State) : exec (.troyDebugRead part pa) s = execTroyDebugRead part pa s := rfl
@[simp] theorem exec_debugResume core warp (s : State) : exec (.debugResume core warp) s = execDebugResume core warp s := rfl
@[simp] theorem exec_stalePairWrite part idx v (s : State) : exec (.stalePairWrite part idx v) s = execStalePairWrite part idx v s := rfl
@[simp] theorem exec_netrejWrite part (s : State) : exec (.netrejWrite part) s = execNetrejWrite part s := rfl
@[simp] theorem exec_cenStatWrite part (s : State) : exec (.cenStatWrite part) s = execCenStatWrite part s := rfl
@[simp] theorem exec_evlostWrite part (s : State) : exec (.evlostWrite part) s = execEvlostWrite part s := rfl
@[simp] theorem exec_rxdropWrite part (s : State) : exec (.rxdropWrite part) s = execRxdropWrite part s := rfl
@[simp] theorem exec_registerWrite part who reg v (s : State) : exec (.registerWrite part who reg v) s = execRegisterWrite part who reg v s := rfl
@[simp] theorem exec_portLinkChange oct up (s : State) : exec (.portLinkChange oct up) s = execPortLinkChange oct up s := rfl
@[simp] theorem exec_terminationByRyukel launch (s : State) : exec (.terminationByRyukel launch) s = execTerminationByRyukel launch s := rfl
@[simp] theorem exec_powerReachesTdp held (s : State) : exec (.powerReachesTdp held) s = execPowerReachesTdp held s := rfl

end Sys2Proof.Machine
end

