-- ==== Sys2Proof/Tests/Small.lean ====
section
/-! SUPPORT. The small states of the tests, and what turns a check that the kernel evaluates into the hypotheses that a
statement of the obligations makes. -/

namespace Sys2Proof.Tests

open Sys2Proof Sys2Proof.Machine

/-! ## States -/

/-- A leaf that maps a page to a frame with every right (R316). -/
def leafTo (frame : Nat) : DWord := BitVec.ofNat 64 (2 ^ 63 + frame * 2 ^ 12 + 7)

/-- Partition 0 of octant 0, in which tenant 1 has ASID 1, and page 0 of ASID 1 and of ASID 0 is in the TLB (R313, R319). -/
def part1 : Partition := { partReset with
  exists_ := true
  regs := [(⟨.parNetBoundary, 0⟩, 1), (⟨.parInterleave, 0⟩, 1), (⟨.llcTasid, 1⟩, 1), (⟨.netMacaddr, 0⟩, 5)]
  tlb := [⟨0, 1, 0, 1, leafTo 16, 8⟩, ⟨0, 0, 0, 1, leafTo 17, 16⟩] }

/-- A launch record with 8 units of rows, 2 of scratchpad, 4 accumulator slots, 2 hand-off slots and 4 stack entries. -/
def record1 : LaunchRec :=
  (((Vector.replicate 16 (0#64)).set 2 0x0000000100010001#64).set 3 0x0000000002010108#64).set 5 0x0000100000000000#64

/-- Warp 0 of core 0, of a launch of tenant 1, with a word and its literal in issue; window registers v0 to v9 have rows 0
to 9 of zeros, and frames 16 and 17 are theirs. -/
def base (w : Word) (lit : Word := 0) (f : State → State := id) : State :=
  let s := placeWord State.reset w lit
  let s := modLaunch s 0 (fun l => { l with record := record1 })
  let s := { s with parts := [(0, part1)], frames := [(16, { frameReset with state := 3, tenant := 1, tlbref := 1 })] }
  let s := modCore s 0 (fun k => { k with rows := (List.range 10).map (fun r => (r, ⟨zeroRow, 1, 1, 0⟩)) })
  f (modWarp s 0 0 (fun v => { v with names := (List.range 10).map (fun r => (r, .resident r)) }))

/-- NOP, and NOP that ends its span, as `base` takes them. -/
def nop (f : State → State := id) : State := base nopWord 0 f
def last (f : State → State := id) : State := base nopEnd 0 f

/-- A change of the warp. -/
def onWarp (f : Warp → Warp) (s : State) : State := modWarp s 0 0 f

/-- A change of partition 0. -/
def onPart (f : Partition → Partition) (s : State) : State := modPart s 0 f

/-- A change of what the launch holds on core 0. -/
def onCl (f : CoreLaunch → CoreLaunch) (s : State) : State := modCl s 0 0 f

/-- The context of a state's word. -/
def xOf (s : State) : Ctx :=
  (ctxOf s).getD ⟨0, 0, warpReset 0 0 0 0 0 (Vector.replicate 4 0), ⟨false, 0, 0, [], 0, none, none, none, false⟩, launchNone, 0⟩

/-- The state that an outcome goes on with. -/
def after (o : Host.Outcome State Fault Refusal) : State := match o with
  | .next t => t
  | _ => State.reset

/-- Warp 0 of core 0 after an outcome. -/
def warpAfter (o : Host.Outcome State Fault Refusal) : Warp :=
  (warpOf? (after o) 0 0).getD (warpReset 0 0 0 0 0 (Vector.replicate 4 0))

/-- The row of a name of warp 0 of core 0 after an outcome, lane by lane. -/
def laneAfter (o : Host.Outcome State Fault Refusal) (n l : Nat) : Word :=
  match nameOf (warpAfter o) n with
  | .resident r => lane (rowOf (coreOf (after o) 0) r).words l
  | _ => 0

/-- A change of the span in issue. -/
def onSpan (f : Span → Span) : State → State := onWarp (fun w => { w with span := w.span.map f })

/-! ## Checks -/

/-- Whether an outcome goes on. -/
def goesOn : Host.Outcome State Fault Refusal → Bool
  | .next _ => true
  | _ => false

theorem next_of {o : Host.Outcome State Fault Refusal} (h : goesOn o = true) : o = .next (after o) := by
  cases o <;> simp_all [goesOn, after]

/-- What a check gives, where it gives a value. -/
def okOf {α : Type} (r : Except Stop α) (d : α) : α := match r with
  | .ok v => v
  | .error _ => d

theorem ok_of {α : Type} {r : Except Stop α} {d : α} (h : r.toBool = true) : r = .ok (okOf r d) := by
  cases r <;> simp_all [okOf, Except.toBool]

theorem some_of {α : Type} {r : Option α} {d : α} (h : r.isSome = true) : r = some (r.getD d) := by
  cases r <;> simp_all

theorem ctx_of {s : State} (h : (ctxOf s).isSome = true) : ctxOf s = some (xOf s) := by
  unfold xOf
  cases hc : ctxOf s with
  | none => simp [hc] at h
  | some x => rfl

theorem settled_of {w : Warp} {l : List PendItem} (h : l.all (fun i => !isPending w i) = true) : Settled w l := by
  simpa [Settled] using h

theorem settled_all {w : Warp} (h : w.pend.isEmpty = true) (l : List PendItem) : Settled w l := by
  have : w.pend = [] := by simpa using h
  simp [Settled, isPending, this]

theorem mapped_of {w : Warp} {l : List Nat} (h : l.all (fun n => nameOf w n != .unmapped) = true) : Mapped w l := by
  simpa [Mapped] using h

/-- The two states of `LaneReady`, where it holds. -/
def lane? (s : State) (scalars : List PendItem) (srcs dsts : List Nat) (preds dpreds : List PendItem) :
    Option (State × State) :=
  let x := xOf s
  if (ctxOf s).isSome && narrowed x != 0
      && (guardItems x ++ scalars ++ iNames srcs ++ preds ++ iNames dsts ++ dpreds).all (fun i => !isPending x.w i)
      && (srcs ++ dsts).all (fun n => nameOf x.w n != .unmapped) then
    match reloadNames s x (srcs ++ dsts) with
    | .ok t => match splitNames t x (narrowed x ||| zeroLanes x) dsts with
      | .ok u => some (t, u)
      | .error _ => none
    | .error _ => none
  else none

theorem lane_of {s t u : State} {scalars : List PendItem} {srcs dsts : List Nat} {preds dpreds : List PendItem}
    (h : lane? s scalars srcs dsts preds dpreds = some (t, u)) : LaneReady s (xOf s) scalars srcs dsts preds dpreds t u := by
  unfold lane? at h
  dsimp only at h
  split at h
  · next hc =>
    simp only [Bool.and_eq_true, bne_iff_ne, ne_eq] at hc
    split at h
    · next t' ht =>
      split at h
      · next u' hu =>
        cases h
        exact ⟨ctx_of hc.1.1.1, hc.1.1.2, settled_of hc.1.2, mapped_of hc.2, ht, hu⟩
      · cases h
    · cases h
  · cases h

theorem lane_ready {s : State} {scalars : List PendItem} {srcs dsts : List Nat} {preds dpreds : List PendItem}
    (h : (lane? s scalars srcs dsts preds dpreds).isSome = true) :
    ∃ t u, LaneReady s (xOf s) scalars srcs dsts preds dpreds t u := by
  obtain ⟨⟨t, u⟩, hp⟩ := Option.isSome_iff_exists.mp h
  exact ⟨t, u, lane_of hp⟩

/-- The two states of `AccessReady`, where it holds. -/
def access? (s : State) (srcs dsts : List Nat) (n : Nat) (aligned : Bool) (k : Acc) (ask home : Bool) :
    Option (State × State) :=
  match lane? s [] srcs dsts [] [] with
  | none => none
  | some (t₀, _) =>
    let p := prepAccs s (xOf s) (accsOf t₀ (xOf s) srcs).accs n aligned k ask home
    if xOf p = xOf s then
      match lane? p [] srcs dsts [] [] with
      | none => none
      | some (t, u) =>
        if (accsOf t (xOf s) srcs).accs.all (fun e => (accCause t (xOf s) e.2 n aligned k).isNone) then some (t, u) else none
    else none

theorem access_of {s t u : State} {srcs dsts : List Nat} {n : Nat} {aligned : Bool} {k : Acc} {ask home : Bool}
    (h : access? s srcs dsts n aligned k ask home = some (t, u)) : AccessReady s (xOf s) srcs dsts n aligned k ask home t u := by
  unfold access? at h
  split at h
  · cases h
  · next t₀ u₀ h₀ =>
    dsimp only at h
    split at h
    · next hx =>
      split at h
      · cases h
      · next t' u' h₁ =>
        split at h
        · next ha =>
          cases h
          refine ⟨⟨t₀, u₀, lane_of h₀, ?_⟩, ?_⟩
          · have := lane_of h₁
            rw [hx] at this
            exact this
          · intro e he
            have := List.all_eq_true.mp ha e he
            simpa using this
        · cases h
    · cases h

end Sys2Proof.Tests
end

