-- ==== Sys2Proof/Tests/Slice0.lean ====
section
/-! SUPPORT. Tests: the checks of WellFormed, the decoding of words written out from the encoding tables of chapters 02 to
12, and small results that the spec states or that follow by hand from its tables. -/

-- One theorem after another: the kernel evaluates each, and many at once need many threads.
set_option Elab.async false

namespace Sys2Proof.Tests

open Sys2Proof Sys2Proof.Machine

/-! ## Well-formedness (R33, R37, R59, R89, R130, R159, R178, R179, R187, R226, R251) -/

/-- One ill-formed term for each check. -/
theorem test_ill_formed : ∀ i ∈ ([.mapr 127 1, .rotn 127 1 0, .rotn 0 1 2, .wbase 25, .lea 127 0 0 0, .jmpr 127, .callr 0 127,
    .fcvt 0 1 2 8, .fcvt 1 1 2 1, .fredux 0 0 3] : List Instr), i.wf = false := by decide +kernel

theorem test_ill_formed_memory : ∀ i ∈ ([.ldg 0 0 6 1 4, .ldg 0 0 1 0 4, .ldg 0 0 0 0 7, .ldg 127 0 0 0 5, .ldg 0 127 0 0 4,
    .stg 0 0 7 1 4, .stg 0 0 0 0 1, .stg 0 0 0 0 3, .stg 0 0 0 0 7, .stg 125 0 0 0 6, .stg 0 127 0 0 4, .lds 0 0 3 4,
    .lds 0 0 0 7, .lds 126 0 0 6, .sts 0 0 3 4, .sts 0 0 0 1, .sts 0 0 0 3, .sts 0 0 0 7, .sts 126 0 0 6, .ldu 0 0 6 1 4,
    .ldu 0 0 1 0 4, .ldu 0 0 0 0 6, .stu 0 0 1 0 4, .stu 0 0 0 0 1, .stu 0 0 0 0 3, .stu 0 0 0 0 6, .atom 3 0 0 0 4 0,
    .atom 0 0 0 0 5 0, .atom 0 0 0 0 0 6, .atom 0 127 0 0 2 0, .atom 0 0 126 0 0 0, .atom 7 0 125 0 0 0, .atoms 5 0 0 4,
    .atoms 0 0 0 5, .atoms 0 127 0 2, .atoms 7 0 126 0, .rowld 125 0 0 7, .rowld 0 63 0 0, .rowst 125 0 7, .rowadd 125 0 7,
    .pref 127 0, .fence 0 0, .fence 1 6] : List Instr), i.wf = false := by decide +kernel

theorem test_ill_formed_others : ∀ i ∈ ([.mma 0 97 0, .bfill 0 62, .bfills 0 62 0, .mdrain 0 0 61 0 0, .mdrain 0 0 0 1 2, .vpop 121,
    .tld 0 61, .tst 0 61, .tcpy 0 61, .tmcast 0 61 0, .gath 0 61 0, .scat 0 61 0, .feedgo 0 63, .qfeed 0 63 0, .treg 0 62 0,
    .tmove 63 0 0, .tmove 0 0 63, .solicit 0 61 0, .solicit 0 0 63, .srd 0 0x14, .srd 0 0x0B, .srd 0 0x2B, .swr 0x36 0,
    .srdV 0 0x42, .pfxa 0 0 3 0 0, .pfxb 6 0 15, .pfxb 0 0 9, .pfxb 0 0 14] : List Instr), i.wf = false := by decide +kernel

/-- Their legal neighbours. -/
theorem test_well_formed : ∀ i ∈ ([.mapr 127 0, .mapr 96 31, .rotn 126 1 1, .wbase 24, .lea 126 0 0 0, .jmpr 126, .callr 0 126,
    .fcvt 0 1 2 7, .fredux 0 0 2, .ldg 124 126 5 1 6, .stg 126 0 0 0 5, .lds 124 0 2 6, .sts 126 0 2 5, .ldu 63 63 5 1 5,
    .stu 0 0 0 0 2, .atom 7 0 124 1 0 5, .atom 6 126 122 0 3 0, .atoms 7 0 125 4, .rowld 124 62 1 7, .fence 1 5, .mma 63 96 127,
    .bfill 63 61, .mdrain 1 63 60 7 3, .vpop 120, .tld 0 60, .feedgo 0 62, .treg 0 61 127, .tmove 62 0 62, .solicit 0 60 62,
    .srd 0 0x13, .srd 0 0x2A, .srd 0 0x41, .swr 0x35 0, .srdV 0 0x0B, .pfxa 0 0 2 0 0, .pfxb 5 0 15, .pfxb 0 0 8] : List Instr),
    i.wf = true := by decide +kernel

/-! ## Decoding: words of E, OPCODE, D, A and B as the encoding tables lay them out, with their literal -/

theorem test_decode_map : ∀ e ∈ ([
    (0x00050000, 0x0, .map 20), (0x0028001F, 0x0, .mapr 32 31), (0x805FC000, 0x0, .unmap 127),
    (0x00601F80, 0x0, .unmapm 63), (0x00804100, 0x0, .movn 1 2), (0x00A58B80, 0x0, .swpn 22 23),
    (0x00C50181, 0x0, .rotn 20 3 1), (0x00E60A00, 0x0, .aliasN 24 20), (0x01190280, 0x0, .copyn 100 5),
    (0x01214A80, 0x0, .give 5 21), (0x01478280, 0x0, .take 30 5), (0x0167828E, 0x0, .takeq 30 5 14),
    (0x01837180, 0x0, .ismap 13 99), (0x01A00018, 0x0, .wbase 24), (0x01CA6680, 0x0, .mapq 41 77)] : List (Word × Word × Instr)),
    decodeWord e.1 e.2.1 = some e.2.2 ∧ (encode (wordE e.1) false e.2.2).head? = some e.1 := by decide +kernel

theorem test_decode_scalar : ∀ e ∈ ([
    (0x040A1080, 0x0, .sadd 40 33 0), (0x060A10E4, 0x0, .saddImm 40 33 100), (0x842A5081, 0x0, .ssub 41 33 1),
    (0x062A50E5, 0x0, .ssubImm 41 33 101), (0x044A9082, 0x0, .smul 42 33 2), (0x064A90E6, 0x0, .smulImm 42 33 102),
    (0x846AD083, 0x0, .smulh 43 33 3), (0x066AD0E7, 0x0, .smulhImm 43 33 103), (0x048B1084, 0x0, .sand 44 33 4),
    (0x068B10E8, 0x0, .sandImm 44 33 104), (0x84AB5085, 0x0, .sor 45 33 5), (0x06AB50E9, 0x0, .sorImm 45 33 105),
    (0x04CB9086, 0x0, .sxor 46 33 6), (0x06CB90EA, 0x0, .sxorImm 46 33 106), (0x84EBD087, 0x0, .sshl 47 33 7),
    (0x06EBD0EB, 0x0, .sshlImm 47 33 107), (0x050C1088, 0x0, .sshr 48 33 8), (0x070C10EC, 0x0, .sshrImm 48 33 108),
    (0x852C5089, 0x0, .ssra 49 33 9), (0x072C50ED, 0x0, .ssraImm 49 33 109), (0x054C908A, 0x0, .smin 50 33 10),
    (0x074C90EE, 0x0, .sminImm 50 33 110), (0x856CD08B, 0x0, .smax 51 33 11), (0x076CD0EF, 0x0, .smaxImm 51 33 111),
    (0x0800C205, 0x0, .scmp 0 3 4 5), (0x0900C27F, 0x0, .scmpImm 0 3 4 127), (0x08E0C205, 0x0, .scmp 7 3 4 5),
    (0x09E0C27F, 0x0, .scmpImm 7 3 4 127), (0x0A004103, 0x0, .ssel 1 2 3), (0x0A225F80, 0x0, .smov 9 63),
    (0x0A412064, 0x0, .sldi 4 0x2064), (0x0A61C000, 0xDEADBEEF, .slit 7 0 0xDEADBEEF),
    (0x8A61C080, 0xDEADBEEF, .slit 7 1 0xDEADBEEF)] : List (Word × Word × Instr)),
    decodeWord e.1 e.2.1 = some e.2.2 ∧ (encode (wordE e.1) false e.2.2).head? = some e.1 := by decide +kernel

theorem test_decode_vector : ∀ e ∈ ([
    (0x0C101080, 0x0, .iadd 64 33 0), (0x0E1010E4, 0x0, .iaddImm 64 33 100), (0x0C305081, 0x0, .isub 65 33 1),
    (0x8E3050E5, 0x0, .isubImm 65 33 101), (0x0C509082, 0x0, .imul 66 33 2), (0x0E5090E6, 0x0, .imulImm 66 33 102),
    (0x0C70D083, 0x0, .imulh 67 33 3), (0x8E70D0E7, 0x0, .imulhImm 67 33 103), (0x0C911084, 0x0, .iand 68 33 4),
    (0x0E9110E8, 0x0, .iandImm 68 33 104), (0x0CB15085, 0x0, .ior 69 33 5), (0x8EB150E9, 0x0, .iorImm 69 33 105),
    (0x0CD19086, 0x0, .ixor 70 33 6), (0x0ED190EA, 0x0, .ixorImm 70 33 106), (0x0CF1D087, 0x0, .ishl 71 33 7),
    (0x8EF1D0EB, 0x0, .ishlImm 71 33 107), (0x0D121088, 0x0, .ishr 72 33 8), (0x0F1210EC, 0x0, .ishrImm 72 33 108),
    (0x0D325089, 0x0, .isra 73 33 9), (0x8F3250ED, 0x0, .israImm 73 33 109), (0x0D52908A, 0x0, .imin 74 33 10),
    (0x0F5290EE, 0x0, .iminImm 74 33 110), (0x0D72D08B, 0x0, .imax 75 33 11), (0x8F72D0EF, 0x0, .imaxImm 75 33 111),
    (0x0D804103, 0x0, .imad 1 2 3), (0x0DBE0300, 0x0, .iabs 120 6), (0x0DDE0300, 0x0, .popc 120 6),
    (0x0DFE0300, 0x0, .clz 120 6), (0x0F9E0300, 0x0, .brev 120 6), (0x0FA04103, 0x0, .bfe 1 2 3),
    (0x0FC04103, 0x0, .bfi 1 2 3), (0x0FE04103, 0x0, .iaddc 1 2 3), (0x1003C205, 0x0, .icmp 0 15 4 5),
    (0x1103C27F, 0x0, .icmpImm 0 15 4 127), (0x10E3C205, 0x0, .icmp 7 15 4 5),
    (0x11E3C27F, 0x0, .icmpImm 7 15 4 127), (0x121F9F85, 0x0, .lea 126 0 63 5), (0x121FBF85, 0x0, .lea 126 1 63 5),
    (0x12220480, 0x0, .mov 8 9), (0x12420480, 0x0, .movs 8 0 9), (0x12422480, 0x0, .movs 8 1 9),
    (0x12620000, 0x80000001, .lit 8 0x80000001)] : List (Word × Word × Instr)),
    decodeWord e.1 e.2.1 = some e.2.2 ∧ (encode (wordE e.1) false e.2.2).head? = some e.1 := by decide +kernel

theorem test_decode_predicate : ∀ e ∈ ([
    (0x1280410F, 0x0, .pand 1 2 15), (0x12A0410F, 0x0, .por 1 2 15), (0x12C0410F, 0x0, .pxor 1 2 15),
    (0x12E3C180, 0x0, .pnot 15 3), (0x1303DF80, 0x0, .pset 15 63), (0x132FC780, 0x0, .pmov 63 15)] : List (Word × Word × Instr)),
    decodeWord e.1 e.2.1 = some e.2.2 ∧ (encode (wordE e.1) false e.2.2).head? = some e.1 := by decide +kernel

theorem test_decode_float : ∀ e ∈ ([
    (0x14020082, 0x0, .fadd 8 1 2), (0x14220083, 0x0, .fsub 8 1 3), (0x14420084, 0x0, .fmul 8 1 4),
    (0x14620085, 0x0, .ffma 8 1 5), (0x14820086, 0x0, .fmin 8 1 6), (0x14A20087, 0x0, .fmax 8 1 7),
    (0x14C20080, 0x0, .fabs 8 1), (0x14E20080, 0x0, .fneg 8 1), (0x15000082, 0x0, .fcmpEq 0 1 2),
    (0x15204082, 0x0, .fcmpLt 1 1 2), (0x15408082, 0x0, .fcmpLe 2 1 2), (0x1560C082, 0x0, .fcmpGt 3 1 2),
    (0x15810082, 0x0, .fcmpGe 4 1 2), (0x15A14082, 0x0, .fcmpNe 5 1 2), (0x15C18082, 0x0, .fcmpOrd 6 1 2),
    (0x15E1C082, 0x0, .fcmpUno 7 1 2), (0x16020082, 0x0, .fcmpEqu 8 1 2), (0x16224082, 0x0, .fcmpLtu 9 1 2),
    (0x16428082, 0x0, .fcmpLeu 10 1 2), (0x1662C082, 0x0, .fcmpGtu 11 1 2), (0x16830082, 0x0, .fcmpGeu 12 1 2),
    (0x16A34082, 0x0, .fcmpNeu 13 1 2), (0x17020082, 0x0, .hadd2 8 1 2), (0x17220082, 0x0, .hmul2 8 1 2),
    (0x17420082, 0x0, .hfma2 8 1 2), (0x1C428200, 0x0, .fcvt 2 10 4 0), (0x1C028207, 0x0, .fcvt 0 10 4 7),
    (0x1CE28206, 0x0, .fcvt 7 10 4 6), (0x1E020080, 0x0, .frcp 8 1), (0x1E220080, 0x0, .frsq 8 1),
    (0x1E420080, 0x0, .fsqrt 8 1), (0x1E620080, 0x0, .fex2 8 1), (0x1E820080, 0x0, .flg2 8 1),
    (0x1EA20080, 0x0, .ftanh 8 1)] : List (Word × Word × Instr)),
    decodeWord e.1 e.2.1 = some e.2.2 ∧ (encode (wordE e.1) false e.2.2).head? = some e.1 := by decide +kernel

theorem test_decode_crosslane : ∀ e ∈ ([
    (0x20020082, 0x0, .shfl2 8 1 2), (0x20220082, 0x0, .shfl4 8 1 2), (0x20420082, 0x0, .shfl8 8 1 2),
    (0x20620082, 0x0, .shfl16 8 1 2), (0x20820082, 0x0, .shfl32 8 1 2), (0x20A20480, 0x0, .voteAny 8 0 9),
    (0x20A20C80, 0x0, .voteAny 8 1 9), (0x20C20480, 0x0, .voteAll 8 0 9), (0x20C20C80, 0x0, .voteAll 8 1 9),
    (0x20E20480, 0x0, .voteBal 8 0 9), (0x20E20C80, 0x0, .voteBal 8 1 9), (0x21020080, 0x0, .matchAny 8 1),
    (0x21220080, 0x0, .matchAll 8 1), (0x21420087, 0x0, .redux 8 1 7), (0x21620082, 0x0, .fredux 8 1 2),
    (0x21820085, 0x0, .scan 8 1 0 5), (0x2182008D, 0x0, .scan 8 1 1 5), (0x21A200BF, 0x0, .bcast 8 1 63),
    (0x21C25F80, 0x0, .elect 9 63)] : List (Word × Word × Instr)),
    decodeWord e.1 e.2.1 = some e.2.2 ∧ (encode (wordE e.1) false e.2.2).head? = some e.1 := by decide +kernel

theorem test_decode_control : ∀ e ∈ ([
    (0xA4003FFF, 0x0, .bra 0x3FFF), (0xA420400E, 0x0, .bru 0 1 14), (0xA430400E, 0x0, .bru 1 1 14),
    (0xA440C081, 0x0, .brp 0 3 0x81), (0xA444C081, 0x0, .brp 1 3 0x81), (0x24600081, 0x0, .jpoint 0x81),
    (0xA4800000, 0x0, .join), (0xA4A03F00, 0x0, .jmpr 126), (0xA4CFC081, 0x0, .call 63 0x81),
    (0xA4EFFF00, 0x0, .callr 63 126), (0xA5001F80, 0x0, .ret 63), (0xA5200000, 0x0, .exit), (0x25400000, 0x0, .nop),
    (0xA5600000, 0x0, .yield)] : List (Word × Word × Instr)),
    decodeWord e.1 e.2.1 = some e.2.2 ∧ (encode (wordE e.1) false e.2.2).head? = some e.1 := by decide +kernel

theorem test_decode_memory : ∀ e ∈ ([
    (0x28050504, 0x0, .ldg 20 10 0 0 4), (0x2805055E, 0x0, .ldg 20 10 5 1 6), (0x2825054C, 0x0, .stg 20 10 4 1 4),
    (0x28478614, 0x0, .lds 30 12 2 4), (0x2867860D, 0x0, .sts 30 12 1 5), (0x2881433D, 0x0, .ldu 5 6 3 1 5),
    (0x28A14338, 0x0, .stu 5 6 3 1 0), (0x290A0C4A, 0x0, .atom 0 40 24 1 1 2), (0x2A0A0C18, 0x0, .atoms 0 40 24 3),
    (0x29EA0C4A, 0x0, .atom 7 40 24 1 1 2), (0x2AEA0C18, 0x0, .atoms 7 40 24 3), (0x2B0C030F, 0x0, .rowld 48 6 1 7),
    (0x2B2C0307, 0x0, .rowst 48 6 7), (0x2B4C0307, 0x0, .rowadd 48 6 7), (0x2B600480, 0x0, .pref 9 0),
    (0x2B600481, 0x0, .pref 9 1), (0x2B80001C, 0x0, .fence 3 4), (0xABA00080, 0x0, .gbar 1),
    (0x2BCFC180, 0x0, .garv 63 3), (0xABE001BF, 0x0, .gwait 3 63)] : List (Word × Word × Instr)),
    decodeWord e.1 e.2.1 = some e.2.2 ∧ (encode (wordE e.1) false e.2.2).head? = some e.1 := by decide +kernel

theorem test_decode_matrix : ∀ e ∈ ([
    (0x300FF01E, 0x0, .mma 63 96 30), (0x30210007, 0x0, .mzero 4 7), (0x30428600, 0x0, .bfill 10 12),
    (0x3062860F, 0x0, .bfills 10 12 15), (0x30800082, 0x0, .scld 1 2), (0x30A01F80, 0x0, .mepi 63),
    (0x30C10417, 0x0, .mdrain 0 4 8 5 3), (0x30D10401, 0x0, .mdrain 1 4 8 0 1), (0x30FE0000, 0x0, .vpop 120),
    (0x31003FFF, 0x0, .mburst 0x3FFF), (0x312FC000, 0x0, .mstat 63), (0x314FC080, 0x0, .accsv 63 1),
    (0x316FC080, 0x0, .accld 0 63 1), (0x317FC080, 0x0, .accld 1 63 1)] : List (Word × Word × Instr)),
    decodeWord e.1 e.2.1 = some e.2.2 ∧ (encode (wordE e.1) false e.2.2).head? = some e.1 := by decide +kernel

theorem test_decode_engine : ∀ e ∈ ([
    (0xB4000500, 0x0, .fwait 10), (0x3422C500, 0x0, .ftest 11 10), (0x3442C500, 0x0, .fstat 11 10),
    (0x3462C500, 0x0, .fcancel 11 10), (0x3482C500, 0x0, .tld 11 10), (0x34A2C500, 0x0, .tst 11 10),
    (0x34C2C500, 0x0, .tcpy 11 10), (0x34E28603, 0x0, .tmcast 10 12 3), (0x35004103, 0x0, .gath 1 2 3),
    (0x35204103, 0x0, .scat 1 2 3), (0x35405F00, 0x0, .feedgo 1 62), (0x35605F07, 0x0, .qfeed 1 62 7),
    (0x35818100, 0x0, .qpop 6 2), (0x35A00106, 0x0, .qrel 2 6), (0x35C20A00, 0x0, .qpost 8 20),
    (0x35E20A15, 0x0, .qpostAt 8 20 21), (0x360100FF, 0x0, .ctradd 4 255), (0xB6210011, 0x0, .ctrwait 4 17),
    (0x3641DF80, 0x0, .rteset 7 63), (0x36604103, 0x0, .cabort 1 2 3), (0x3680C100, 0x0, .launch 3 2)] : List (Word × Word × Instr)),
    decodeWord e.1 e.2.1 = some e.2.2 ∧ (encode (wordE e.1) false e.2.2).head? = some e.1 := by decide +kernel

theorem test_decode_census : ∀ e ∈ ([
    (0x38010800, 0x0, .treg 4 16 0), (0x3801087F, 0x0, .treg 4 16 127), (0x38200200, 0x0, .tunreg 4),
    (0x38420214, 0x0, .tmove 8 4 20), (0x38628814, 0x0, .solicit 10 16 20), (0x38800380, 0x0, .reply 7),
    (0x38A00380, 0x0, .replyv 7), (0x38C2C500, 0x0, .census 11 10)] : List (Word × Word × Instr)),
    decodeWord e.1 e.2.1 = some e.2.2 ∧ (encode (wordE e.1) false e.2.2).head? = some e.1 := by decide +kernel

theorem test_decode_system : ∀ e ∈ ([
    (0x3A003FFF, 0x0, .trap 0x3FFF), (0xBA200000, 0x0, .eret), (0x3A40E080, 0x0, .srd 3 0x41),
    (0x3A600183, 0x0, .swr 3 3), (0x3A800001, 0x0, .bkpt 1), (0x3AA18000, 0x0, .gettime 6 0),
    (0x3AA18001, 0x0, .gettime 6 1), (0x3AC20580, 0x0, .srdV 8 11)] : List (Word × Word × Instr)),
    decodeWord e.1 e.2.1 = some e.2.2 ∧ (encode (wordE e.1) false e.2.2).head? = some e.1 := by decide +kernel

theorem test_decode_prefix : ∀ e ∈ ([
    (0x3E048000, 0x0, .pfxa 2 0 2 0 0), (0x3E1F7FC0, 0x0, .pfxa 15 1 1 127 1), (0x3E37E000, 0x0, .pfxb 5 1 15),
    (0x3E250000, 0x0, .pfxb 1 0 8)] : List (Word × Word × Instr)),
    decodeWord e.1 e.2.1 = some e.2.2 ∧ (encode (wordE e.1) false e.2.2).head? = some e.1 := by decide +kernel

/-- The codes that R58 reserves, the two relations that R128 does not list, and a nonzero must-be-zero field (R36). -/
theorem test_reserved_words :
    (∀ op ∈ ([0x00F, 0x01F, 0x02C, 0x02F, 0x03C, 0x03F, 0x054, 0x05F, 0x09A, 0x09F, 0x0B6, 0x0B7, 0x0BB, 0x0DF, 0x0E9, 0x0EF,
      0x0F6, 0x0FF, 0x10F, 0x11F, 0x12C, 0x13F, 0x146, 0x147, 0x160, 0x17F, 0x18C, 0x19F, 0x1B5, 0x1BF, 0x1C7, 0x1CF, 0x1D7,
      0x1EF, 0x1F2, 0x1FF] : List Nat), decodeWord (BitVec.ofNat 32 (op * 2 ^ 21)) 0 = none)
    ∧ ([0x00050001, 0x00050080, 0x04100000, 0x05202000, 0xA5200001, 0x2B9FC009, 0x3E000001, 0x3E200001] : List Word).all
      (fun w => (decodeWord w 0).isNone) = true := by decide +kernel

/-! ## What the host asks -/

/-- The step after reset runs the placed word; a placed event word is none. -/
theorem test_placed_word : decodeTableWord 32 0x0601027D = some (.saddImm 4 4 0x7D)
    ∧ sReg (warpAfter (step (State.reset.withFetchWord 32 0x0601027D))) 4 = 0xFFFFFFFFFFFFFFFD
    ∧ (warpAfter (step (State.reset.withFetchWord 32 0xA5200000))).launch = 0
    ∧ (warpOf? (after (step (State.reset.withFetchWord 32 0xA5200000))) 0 0).isNone = true := by decide +kernel

/-! ## Results -/

/-- A warp with a value in s1 and s2. -/
def scal (a b : DWord) : State := nop (onWarp (fun w => setS (setS w 1 a) 2 b))

/-- A warp whose names 0, 1 and 2 hold a word in every lane. -/
def vec (a b c : Word) (f : State → State := id) : State := nop (fun s => f (modCore s 0 (fun k =>
  { k with rows := [(0, ⟨mkRow (fun _ => a), 1, 1, 0⟩), (1, ⟨mkRow (fun _ => b), 1, 1, 0⟩), (2, ⟨mkRow (fun _ => c), 1, 1, 0⟩)] })))

/-- What an instruction leaves in s3, and in lane 31 of name 2. -/
def s3 (i : Instr) (s : State) : DWord := sReg (warpAfter (exec i s)) 3
def v2 (i : Instr) (s : State) : Word := laneAfter (exec i s) 2 31

theorem test_scalar_arithmetic : s3 (.sadd 3 1 2) (scal 0xFFFFFFFFFFFFFFFF 2) = 1 ∧ s3 (.ssub 3 1 2) (scal 1 2) = 0xFFFFFFFFFFFFFFFF
    ∧ s3 (.smulh 3 1 2) (scal 0xFFFFFFFFFFFFFFFF 5) = 0xFFFFFFFFFFFFFFFF ∧ s3 (.smul 3 1 2) (scal 0x8000000000000001 2) = 2
    ∧ s3 (.smin 3 1 2) (scal 0x8000000000000000 1) = 0x8000000000000000 := by decide +kernel

theorem test_scalar_shifts : s3 (.sshl 3 1 2) (scal 1 64) = 0 ∧ s3 (.sshl 3 1 2) (scal 1 63) = 0x8000000000000000
    ∧ s3 (.sshr 3 1 2) (scal 0x8000000000000000 63) = 1 ∧ s3 (.ssra 3 1 2) (scal 0x8000000000000000 64) = 0xFFFFFFFFFFFFFFFF := by
  decide +kernel

theorem test_scalar_compare : s3 (.scmp 2 3 1 2) (scal 0xFFFFFFFFFFFFFFFF 0) = 1 ∧ s3 (.scmp 6 3 1 2) (scal 0xFFFFFFFFFFFFFFFF 0) = 0
    ∧ s3 (.scmpImm 7 3 1 127) (scal 0xFFFFFFFFFFFFFFFF 0) = 1 ∧ s3 (.scmp 1 3 1 2) (scal 3 3) = 0 := by decide +kernel

theorem test_vector_arithmetic : v2 (.iadd 2 0 1) (vec 0xFFFFFFFF 2 0) = 1 ∧ v2 (.imulh 2 0 1) (vec 0x80000000 0x80000000 0) = 0x40000000
    ∧ v2 (.isra 2 0 1) (vec 0x80000000 32 0) = 0xFFFFFFFF ∧ v2 (.imad 2 0 1) (vec 3 5 7) = 22
    ∧ v2 (.iabs 2 0) (vec 0x80000000 0 0) = 0x80000000 := by decide +kernel

theorem test_bit_fields : v2 (.bfe 2 0 1) (vec 0xABCD1234 0x0808 0) = 0x12 ∧ v2 (.bfi 2 0 1) (vec 0xFF 0x0808 0x11223344) = 0x1122FF44
    ∧ v2 (.clz 2 0) (vec 0 0 0) = 32 ∧ v2 (.popc 2 0) (vec 0xF0F00001 0 0) = 9 ∧ v2 (.brev 2 0) (vec 0x00000006 0 0) = 0x60000000 := by
  decide +kernel

theorem test_float : v2 (.fadd 2 0 1) (vec 0x3F800000 0x40000000 0) = 0x40400000 ∧ v2 (.fmul 2 0 1) (vec 0x3FC00000 0x3FC00000 0) = 0x40100000
    ∧ v2 (.ffma 2 0 1) (vec 0x3F800000 0x3F800000 0xBF800000) = 0 ∧ v2 (.fmin 2 0 1) (vec 0xFFC00001 0x3F800000 0) = 0x7FC00000
    ∧ v2 (.fneg 2 0) (vec 0x3F800000 0 0) = 0xBF800000 := by decide +kernel

theorem test_conversions : v2 (.fcvt 2 2 0 0) (vec 0x3F808000 0 0) = 0x3F80 ∧ v2 (.fcvt 1 2 0 0) (vec 0x477FF000 0 0) = 0x7C00
    ∧ v2 (.fcvt 7 2 0 0) (vec 0xBFC00000 0 0) = 0xFFFFFFFE ∧ v2 (.fcvt 0 2 0 1) (vec 0x0001 0 0) = 0x33800000 := by decide +kernel

theorem test_special_functions : v2 (.frcp 2 0) (vec 0x40000000 0 0) = 0x3F000000 ∧ v2 (.fsqrt 2 0) (vec 0x40800000 0 0) = 0x40000000
    ∧ v2 (.frcp 2 0) (vec 0 0 0) = 0x7F800000 ∧ v2 (.fex2 2 0) (vec 0 0 0) = 0x3F800000 ∧ v2 (.flg2 2 0) (vec 0x3F800000 0 0) = 0 := by
  decide +kernel

/-- A division by zero sets its sticky flag and counts its 32 lanes (R78, R80, R133). -/
theorem test_flags : (warpAfter (exec (.frcp 2 0) (vec 0 0 0))).fpsr.getLsbD 9 = true
    ∧ (coreOf (after (exec (.frcp 2 0) (vec 0 0 0))) 0).xcnt[1] = 32 := by decide +kernel

theorem test_cross_lane : s3 (.voteBal 3 0 1) (nop (onWarp (fun w => setP w 1 0x0000F00F))) = 0xF00F
    ∧ s3 (.redux 3 0 0) (vec 2 0 0) = 64 ∧ s3 (.fredux 3 0 0) (vec 0x3F800000 0 0) = 0x42000000
    ∧ laneAfter (exec (.scan 2 0 0 0) (vec 1 0 0)) 2 5 = 6 ∧ laneAfter (exec (.scan 2 0 1 0) (vec 1 0 0)) 2 5 = 5
    ∧ v2 (.matchAny 2 0) (vec 7 0 0) = 0xFFFFFFFF := by decide +kernel

/-- An ALIAS shares the row (R92), and a MOVN moves it (R91). -/
theorem test_alias_and_move :
    nameOf (warpAfter (exec (.aliasN 3 0) (vec 1 2 3))) 3 = .resident 0
    ∧ (rowOf (coreOf (after (exec (.aliasN 3 0) (vec 1 2 3))) 0) 0).count = 2
    ∧ nameOf (warpAfter (exec (.movn 3 0) (vec 1 2 3))) 0 = .unmapped
    ∧ (rowOf (coreOf (after (exec (.movn 3 0) (vec 1 2 3))) 0) 0).count = 1 := by decide +kernel

/-- A pending destination traps with its number in TVAL (R46), and the trap of a warp without a handler ends its launch. -/
theorem test_pending : (launchOf (after (exec (.sadd 3 1 2) (nop (onWarp (fun w =>
    { w with pend := [⟨.scalar 2, false, none, true, false⟩] }))))) 0).term.map (fun r => (r.cause, r.ncause, r.tval))
      = some (0x0809, 0x0201, 0x202) := by decide +kernel

/-- A load binds memory's bytes, and lands with its operation (R45, R178). -/
theorem test_load : (warpAfter (exec (.ldg 2 0 0 0 4) (vec 4 0 0 (fun s => { s with mem := [(65540, 0x78), (65541, 0x56)] })))).ops.map
    (fun o => o.names.map (fun n => (n.name, lane n.words 3))) = [[(2, 0x5678)]] := by decide +kernel

/-- A store waits in the core's queue (R208). -/
theorem test_store : (coreOf (after (exec (.stu 1 2 0 0 2) (scal 0x1234 8))) 0).storeQ.map (fun r => (r.asid, r.line, r.bytes))
    = [(1, 0, [(8, some 0x34), (9, some 0x12)])] := by decide +kernel

/-- Scratchpad stores and the full-empty bit (R25, R185). -/
theorem test_scratchpad : (clOf (after (exec (.sts 1 0 1 4) (vec 32 0xAB 0))) 0 0).scratch = [(32, 0xAB)]
    ∧ (clOf (after (exec (.sts 1 0 1 4) (vec 32 0xAB 0))) 0 0).full = [2]
    ∧ (clOf (after (exec (.sts 1 0 0 4) (vec 32 0xAB 0))) 0 0).full = [] := by decide +kernel

/-- Trap entry and return (R272, R280). -/
theorem test_trap :
    let s := nop (fun s => { onWarp (fun w => { w with tvec := 0x80, wb := 3 }) s with mem := [(65665, 0xF0), (65666, 0x0F)] })
    let t := after (exec (.trap 5) s)
    let w := warpAfter (exec (.trap 5) s)
    w.tcause = 0x0805 ∧ w.tval = 5 ∧ w.tpc = 4 ∧ w.prim.pc = 0x80 ∧ w.trapMode = true ∧ w.span = none
    ∧ (let u := after (exec .eret (modWarp t 0 0 (fun w => { w with tpc := 0x80, span := (xOf last).w.span })))
      ((warpOf? u 0 0).map (fun w => (w.trapMode, w.prim.pc))) = some (false, 0x80)) := by decide +kernel

/-! ## Functions of the standards, on the examples of FIPS 197, FIPS 202, IEEE 1619 and of the GCM specification -/

/-- A number whose bytes the standard prints in order, with the first byte low. -/
def printed (n v : Nat) : Nat := bytesNat (natBytes n v).reverse

theorem test_sha3 : sha3 [] = BitVec.ofNat 256 (printed 32 0xa7ffc6f8bf1ed76651c14756a061d662f580ff4de43b49fa82d80a4b80f8434a) := by
  decide +kernel

theorem test_aes : bytesNat (aesEncrypt (List.range 32) ((List.range 16).map (fun i => 0x11 * i)))
      = printed 16 0x8EA2B7CA516745BFEAFC49904B496089
    ∧ aesDecrypt (List.range 32) (natBytes 16 (printed 16 0x8EA2B7CA516745BFEAFC49904B496089)) = (List.range 16).map (fun i => 0x11 * i) := by
  decide +kernel

/-- Vector 10 of IEEE 1619: the second block of data unit 255, both ways (R266, R267). -/
def xtsKey : BitVec 512 := BitVec.ofNat 512 (printed 32 0x2718281828459045235360287471352662497757247093699959574966967627
  + 2 ^ 256 * printed 32 0x3141592653589793238462643383279502884197169399375105820974944592)

theorem test_xts :
    xtsEncrypt xtsKey 0xFF 1 (BitVec.ofNat 128 (printed 16 0x101112131415161718191a1b1c1d1e1f))
      = BitVec.ofNat 128 (printed 16 0xea00803f5e482357a4ae12d414a3e63b)
    ∧ xtsDecrypt xtsKey 0xFF 1 (BitVec.ofNat 128 (printed 16 0xea00803f5e482357a4ae12d414a3e63b))
      = BitVec.ofNat 128 (printed 16 0x101112131415161718191a1b1c1d1e1f) := by
  decide +kernel

/-- Test cases 13 and 14 of GCM, and a wrong tag (R387). -/
theorem test_gcm :
    let open_ (bs : List Byte) (tag : Nat) : Option (List Byte) :=
      gcmOpen (List.replicate 32 0) (List.replicate 12 0) bs (leBytes 16 (printed 16 tag))
    open_ (leBytes 16 (printed 16 0xcea7403d4d606b6e074ec5d3baf39d18)) 0xd0d1c8a799996bf0265b98b5d48ab919 = some (List.replicate 16 0)
    ∧ open_ [] 0x530f8afbc74536b9a963b4f1c4cb738b = some [] ∧ open_ [1] 0x530f8afbc74536b9a963b4f1c4cb738b = none := by
  decide +kernel

/-! ## Tables of chapters 16 and 19 -/

/-- A walk goes past a capability that it does not know, and ends at NEXT 0 or at one that does not rise (R389). -/
theorem test_capabilities :
    capWalk [1, 3] (fun n => if n = 0 then ⟨1, 0, 16, 32⟩ else if n = 32 then ⟨9, 0, 16, 48⟩ else ⟨3, 0, 16, 0⟩) 9 0 = [1, 3]
    ∧ capWalk [1] (fun _ => ⟨1, 0, 16, 16⟩) 9 16 = [1] := by decide +kernel

/-- The chord comes first for d = 3 and d = 5; without the link 0 to 1 octant 1 is two links from octant 0 (R334). -/
theorem test_routes : routeOf State.reset 0 3 = [4, 3] ∧ routeOf State.reset 7 4 = [3, 4] ∧ routeOf State.reset 6 0 = [7, 0]
    ∧ (after (exec (.linkFailure 0 1) State.reset)).linksDown = [(0, 1)]
    ∧ minimalRoutes { State.reset with linksDown := [(0, 1)] } 0 1 = [[4, 5, 1]] := by decide +kernel

/-- The header of a packet, bit by bit from R340, and its packet. -/
theorem test_sct_header :
    let k : SctPacket := ⟨1, .data, true, false, true, false, 0x1234, 0x5678, 0x9ABCDEF0, 7, 0x80, 3, 2, 1, 2, 0, List.replicate 16 9⟩
    (dwordsOf (encodeSct k) 4) = [0x11A1234567800000, 0x9ABCDEF000000007, 0x80, 0x0000032600000010]
    ∧ decodeSct (encodeSct k) 0 = some k := by decide +kernel

end Sys2Proof.Tests
end

