-- ==== Sys2Proof/Tests/Witness1.lean ====
section
/-! SUPPORT. States and operands that meet the hypotheses of the statements about scalar, vector, predicate, float,
cross-lane and map words, prefixes and control. -/

-- One theorem after another: the kernel evaluates each, and many at once need many threads.
set_option Elab.async false

namespace Sys2Proof.Tests

open Sys2Proof Sys2Proof.Machine

/-- The warp of `nop`, which has nothing pending. -/
abbrev xN : Ctx := xOf nop
abbrev xL : Ctx := xOf last

theorem test_nop_at : ctxOf nop = some xN := ctx_of (by decide +kernel)
theorem test_last_at : ctxOf last = some xL ∧ LastWord xL := ⟨ctx_of (by decide +kernel), by unfold LastWord; decide +kernel⟩
theorem test_nop_settled (l : List PendItem) : Settled xN.w l := settled_all (by decide +kernel) l
theorem test_last_settled (l : List PendItem) : Settled xL.w l := settled_all (by decide +kernel) l

/-! ## Scalar words -/

theorem test_hyps_ScalarOperations : ctxOf nop = some xN ∧ Settled xN.w [iS 1, iS 63, iS 3] ∧ Settled xN.w [iS 1, iS 3] :=
  ⟨test_nop_at, test_nop_settled _, test_nop_settled _⟩

/-- A warp whose s1 carries a future tag. -/
def tagged : State := nop (onWarp (fun w => { w with tags := [(1, 0x8000000000000001)] }))

theorem test_hyps_ScalarComparesAndMoves : ctxOf tagged = some (xOf tagged) ∧ Settled (xOf tagged).w [iS 1, iS 3]
    ∧ fget? (xOf tagged).w.tags (1 : BitVec 6).toNat = some 0x8000000000000001 ∧ fget? (xOf tagged).w.tags (2 : BitVec 6).toNat = none :=
  ⟨ctx_of (by decide +kernel), settled_all (by decide +kernel) _, by decide +kernel⟩

/-- A warp whose s1 is pending. -/
def pending1 : State := nop (onWarp (fun w => { w with pend := [⟨.scalar 1, false, none, true, false⟩] }))

theorem test_hyps_ScalarFrameHolds : ∀ s ∈ [nop, pending1], ctxOf s = some (xOf s) ∧ (launchOf s (xOf s).w.launch).term = none
    ∧ scalarDest (.saddImm 3 1 5) = some 3 ∧ exec (.saddImm 3 1 5) s = .next (after (exec (.saddImm 3 1 5) s)) := by
  intro s hs
  simp only [List.mem_cons, List.not_mem_nil, or_false] at hs
  rcases hs with rfl | rfl
  · exact ⟨ctx_of (by decide +kernel), by decide +kernel, rfl, next_of (by decide +kernel)⟩
  · exact ⟨ctx_of (by decide +kernel), by decide +kernel, rfl, next_of (by decide +kernel)⟩

/-! ## Lane-wise words -/

/-- A warp with PFXB's SAT before its word, and one with a guard that selects no lane. -/
def saturating : State := nop (onSpan (fun sp => { sp with pfxb := some ⟨0, true, 15⟩ }))
def guarded : State := nop (onSpan (fun sp => { sp with pfxa := some ⟨2, false, 1, 0, false⟩ }))
def deadWarp : State := nop (onWarp (fun w => { w with dead := 0xFFFFFFFF }))

theorem test_hyps_VectorIntegerPairs :
    (∃ t u, LaneReady nop xN [] [winName xN.w 0, winName xN.w 1] [winName xN.w 2] [] [] t u) ∧ satOf xN = false
    ∧ (∃ t u, LaneReady saturating (xOf saturating) [] [winName (xOf saturating).w 0, winName (xOf saturating).w 1]
      [winName (xOf saturating).w 2] [] [] t u) ∧ satOf (xOf saturating) = true :=
  ⟨lane_ready (by decide +kernel), by decide +kernel, lane_ready (by decide +kernel), by decide +kernel⟩

theorem test_hyps_VectorIntegerOthers :
    (∃ t u, LaneReady nop xN [] [winName xN.w 0] [winName xN.w 2] [] [] t u)
    ∧ (∃ t u, LaneReady nop xN [] [winName xN.w 0, winName xN.w 1, winName xN.w (thirdSource xN 2)] [winName xN.w 2] [] [] t u)
    ∧ (∃ t u, LaneReady nop xN [iS 5] [] [winName xN.w 2] [] [] t u)
    ∧ (∃ t u, LaneReady nop xN [] [] [winName xN.w 2] [] [] t u)
    ∧ (∃ t u, LaneReady nop xN [iS 5] [winName xN.w 1] [winName xN.w 2, winName xN.w (2 + 1)] [] [] t u) :=
  ⟨lane_ready (by decide +kernel), lane_ready (by decide +kernel), lane_ready (by decide +kernel), lane_ready (by decide +kernel),
    lane_ready (by decide +kernel)⟩

theorem test_hyps_VectorCompareAndCarry :
    (∃ t u, LaneReady nop xN [] [winName xN.w 0, winName xN.w 1] [] [] [.pred 15] t u)
    ∧ (∃ t u, LaneReady nop xN [] [winName xN.w 0] [] [] [.pred 0] t u)
    ∧ (∃ t u, LaneReady nop xN [] [winName xN.w 0, winName xN.w 1] [winName xN.w 2] [.pred 15] [.pred 15] t u) :=
  ⟨lane_ready (by decide +kernel), lane_ready (by decide +kernel), lane_ready (by decide +kernel)⟩

theorem test_hyps_PredicateOperations : ctxOf nop = some xN ∧ ctxActive xN ≠ 0 ∧ Settled xN.w [.pred 0, .pred 15, .pred 1]
    ∧ Settled xN.w [iS 3, .pred 1] ∧ ctxOf deadWarp = some (xOf deadWarp) ∧ ctxActive (xOf deadWarp) = 0 :=
  ⟨test_nop_at, by decide +kernel, test_nop_settled _, test_nop_settled _, ctx_of (by decide +kernel), by decide +kernel⟩

/-- The words of FloatArithmeticAndConversions, FloatSpecialFunctions, FloatComparesAndSelections, LaneTransfers and
MatchScanAndReductions are ready where those of the integer statements are. -/
theorem test_hyps_float_and_lanes :
    (∃ t u, LaneReady nop xN [] [winName xN.w 0, winName xN.w 1] [winName xN.w 2] [] [] t u)
    ∧ (∃ t u, LaneReady nop xN [] [winName xN.w 0, winName xN.w 1] [] [] [.pred 3] t u)
    ∧ (∃ t u, LaneReady nop xN [] [winName xN.w 0, winName xN.w 1] [winName xN.w 2] [] [.pred 14] t u)
    ∧ (∃ t u, LaneReady nop xN [] [winName xN.w 0] [winName xN.w 2] [] [.pred 14] t u) ∧ Settled xN.w [iS 63]
    ∧ (∃ t u, LaneReady nop xN [] [winName xN.w 0] [] [] [] t u) ∧ Settled xN.w (guardItems xN ++ [.name (winName xN.w 0), iS 3]) :=
  ⟨lane_ready (by decide +kernel), lane_ready (by decide +kernel), lane_ready (by decide +kernel), lane_ready (by decide +kernel),
    test_nop_settled _, lane_ready (by decide +kernel), test_nop_settled _⟩

/-- A warp whose lowest active lane is lane 31. -/
def lane31 : State := nop (onWarp (fun w => { w with prim := { w.prim with exec := 0x80000000 } }))

theorem test_hyps_PredicateOperations_votes : ctxOf lane31 = some (xOf lane31) ∧ ctxActive (xOf lane31) ≠ 0
    ∧ Settled (xOf lane31).w (guardItems (xOf lane31) ++ [.pred 15, iS 3]) ∧ Settled (xOf lane31).w (guardItems (xOf lane31) ++ [iS 3, .pred 15])
    ∧ (narrowed (xOf lane31)).getLsbD 31 = true ∧ (∀ l, l < 31 → (narrowed (xOf lane31)).getLsbD l = false) :=
  ⟨ctx_of (by decide +kernel), by decide +kernel, settled_all (by decide +kernel) _, settled_all (by decide +kernel) _,
    by decide +kernel⟩

/-- A guard that selects no lane, before a word on two names and before one that reads a scalar. -/
theorem test_hyps_NoLaneNoEffect : (∃ q, laneUses (xOf guarded) (.iadd 2 0 1) = some q ∧ Settled (xOf guarded).w q.scalars)
    ∧ (∃ q, laneUses (xOf guarded) (.bcast 2 0 5) = some q ∧ Settled (xOf guarded).w q.scalars) ∧ ctxOf guarded = some (xOf guarded) ∧ narrowed (xOf guarded) = 0 ∧ zeroLanes (xOf guarded) = 0
    ∧ Settled (xOf guarded).w (guardItems (xOf guarded))
    ∧ ctxOf deadWarp = some (xOf deadWarp) ∧ narrowed (xOf deadWarp) = 0 ∧ ctxActive (xOf deadWarp) = 0 :=
  ⟨⟨_, rfl, settled_all (by decide +kernel) _⟩, ⟨_, rfl, settled_all (by decide +kernel) _⟩, ctx_of (by decide +kernel), by decide +kernel, by decide +kernel, settled_all (by decide +kernel) _,
    ctx_of (by decide +kernel), by decide +kernel⟩

/-- An integer word, one that raises conditions, and one that writes a scalar. -/
theorem test_hyps_LaneFrame : ∀ i ∈ [.iadd 2 0 1, .fadd 2 0 1, .redux 5 1 0], ∃ q u, laneUses xN i = some q
    ∧ LaneReady nop xN q.scalars q.srcs q.dsts q.preds q.dpreds nop u ∧ Clean (laneInOf nop xN q.srcs)
    ∧ warpOf? u xN.c xN.slot = some xN.w ∧ (launchOf u xN.w.launch).term = none
    ∧ ∀ n ∈ q.dsts, ∃ r, entryOf u xN n = .resident r ∧ r < 24576 := by
  intro i hi
  simp only [List.mem_cons, List.not_mem_nil, or_false] at hi
  rcases hi with rfl | rfl | rfl
  · exact ⟨_, nop, rfl, lane_of (by decide +kernel), by unfold Clean; decide +kernel, by decide +kernel, by decide +kernel,
      fun n hn => ⟨2, by simp at hn; subst hn; decide +kernel⟩⟩
  · exact ⟨_, nop, rfl, lane_of (by decide +kernel), by unfold Clean; decide +kernel, by decide +kernel, by decide +kernel,
      fun n hn => ⟨2, by simp at hn; subst hn; decide +kernel⟩⟩
  · exact ⟨_, nop, rfl, lane_of (by decide +kernel), by unfold Clean; decide +kernel, by decide +kernel, by decide +kernel,
      fun n hn => by simp at hn⟩

/-! ## Map words -/

/-- A core whose pool is given out in units; and a launch whose quota is full. -/
def poolFull : State := nop (onCl (fun h => { h with unitsHeld := 200 }))

def fullQuota : State := nop (fun s => modLaunch s 0 (fun l => { l with record := Vector.replicate 16 0 }))

theorem test_hyps_MapGivesFreshRows :
    (∃ r, allocRows nop xN (winRun xN.w 20 1).length = r ∧ Settled xN.w (iNames (winRun xN.w 20 1)))
    ∧ overQuota nop xN.c xN.w.launch 1 ≤ overQuota nop xN.c xN.w.launch 0
    ∧ ctxOf fullQuota = some (xOf fullQuota)
    ∧ overQuota fullQuota (xOf fullQuota).c (xOf fullQuota).w.launch 1 > overQuota fullQuota (xOf fullQuota).c (xOf fullQuota).w.launch 0
    ∧ ctxOf poolFull = some (xOf poolFull) ∧ Settled (xOf poolFull).w (iNames (winRun (xOf poolFull).w 20 1))
    ∧ allocRows poolFull (xOf poolFull) 1 = (poolFull, [], 1)
    ∧ overQuota poolFull (xOf poolFull).c (xOf poolFull).w.launch 1 ≤ overQuota poolFull (xOf poolFull).c (xOf poolFull).w.launch 0 :=
  ⟨⟨_, rfl, test_nop_settled _⟩, by decide +kernel, ctx_of (by decide +kernel), by decide +kernel, ctx_of (by decide +kernel),
    settled_all (by decide +kernel) _, by decide +kernel⟩

/-- One core of `nop` has free rows, so that AllocRow takes one; row 0 of the second state has two references. -/
def shared : State := nop (fun s => onWarp (fun w => setName w 10 (.resident 0)) (modCore s 0 (fun k => setRow k 0 ⟨zeroRow, 2, 1, 0⟩)))

theorem test_hyps_RowsAreTakenAndReleased : (coreOf nop 0).rows.length < 24576 ∧ (∃ r t, takeRow nop 0 0 zeroRow 0 = some (r, t))
    ∧ (∃ w, warpOf? nop 0 0 = some w ∧ nameOf w 0 = .resident 0 ∧ (rowOf (coreOf nop 0) 0).count ≤ 1)
    ∧ (∃ w, warpOf? shared 0 0 = some w ∧ nameOf w 10 = .resident 0 ∧ (rowOf (coreOf shared 0) 0).count > 1) := by
  refine ⟨by decide +kernel, ⟨_, _, rfl⟩, ⟨xN.w, by decide +kernel⟩,
    ⟨(xOf shared).w, by decide +kernel⟩⟩

theorem test_hyps_MapMovesEntries : ctxOf nop = some xN ∧ Mapped xN.w [winName xN.w 0] ∧ winName xN.w 0 ≠ winName xN.w 1
    ∧ reloadNames nop xN [winName xN.w 0] = .ok nop ∧ reloadNames nop xN [winName xN.w 0, winName xN.w 1] = .ok nop
    ∧ entryOf nop xN (winName xN.w 0) = .resident 0 ∧ (rowOf (coreOf nop xN.c) 0).tag = xN.l.tenant
    ∧ (rowOf (coreOf nop xN.c) 0).count ≠ 4095 ∧ (∃ r u, takeRow nop xN.c xN.w.launch
      (rowOfName nop xN (winName xN.w 0)).words (rowOfName nop xN (winName xN.w 0)).poison = some (r, u))
    ∧ reloadNames nop xN (winRun xN.w 0 4) = .ok nop :=
  ⟨test_nop_at, mapped_of (by decide +kernel), by decide +kernel, by decide +kernel, by decide +kernel, by decide +kernel,
    by decide +kernel, by decide +kernel, ⟨_, _, rfl⟩, by decide +kernel⟩

/-- Hand-off slot 0 with no reference, with one and with eight. -/
def handOff (refs : List Nat) : State := nop (onCl (fun h => { h with hslots := [(0, refs)] }))

theorem test_hyps_HandOffSlots :
    (∀ l ∈ [[], [5], [5, 5, 5, 5, 5, 5, 5, 5]], ctxOf (handOff l) = some (xOf (handOff l)) ∧ 1 < recHos (xOf (handOff l)).l.record
      ∧ (xOf (handOff l)).sp.idx = 1 ∧ slotRefs (handOff l) (xOf (handOff l)) 0 = l)
    ∧ Settled (xOf (handOff [5])).w [.name 0] ∧ Settled (xOf (handOff [5])).w [.pred 3, .name 0]
    ∧ Mapped (xOf (handOff [5])).w [0] ∧ reloadNames (handOff [5]) (xOf (handOff [5])) [0] = .ok (handOff [5])
    ∧ refOfEntry (entryOf (handOff [5]) (xOf (handOff [5])) 0) = some 0
    ∧ (∀ l ∈ [[], [5]], slotTaken (handOff l) 0 0 0 = false)
    ∧ overQuota (putEntry (dropName (setSlot (handOff [5]) (xOf (handOff [5])) 0 []) 0 0 0) (xOf (handOff [5])) 0 (entryOfRef 5)) 0 0 0
      ≤ overQuota (handOff [5]) 0 0 0
    ∧ (refRow (handOff [5]) 0 (xOf (handOff [5])).l.tenant 5).tag = (xOf (handOff [5])).l.tenant
    ∧ (fkeys (clOf (handOff [5]) 0 0).hslots).Pairwise (· < ·) := by
  refine ⟨?_, settled_all (by decide +kernel) _, settled_all (by decide +kernel) _, mapped_of (by decide +kernel), by decide +kernel⟩
  intro l hl
  simp only [List.mem_cons, List.not_mem_nil, or_false] at hl
  rcases hl with rfl | rfl | rfl <;> exact ⟨ctx_of (by decide +kernel), by decide +kernel⟩

/-- Slot 0 with a reference to a row of another tenant; a launch without rows of its own that takes one more; and a started TAKE. -/
def foreignRef : State := nop (fun s => modCore (onCl (fun h => { h with hslots := [(0, [5])] }) s) 0 (fun k => setRow k 5 ⟨zeroRow, 1, 2, 0⟩))
def noQuota : State := nop (fun s => modLaunch (onCl (fun h => { h with hslots := [(0, [20])] }) s) 0 (fun l =>
  { l with record := record1.set 3 0x0000000002010100#64 }))
def takeWord : Word := (encode true false (.take 0 0)).headD 0
def taking : State := base takeWord 0 (onCl (fun h => { h with hslots := [(0, [])] }))
def giveWord : Word := (encode true false (.give 0 0)).headD 0
def giving : State := base giveWord 0 (onCl (fun h => { h with hslots := [(0, [5, 5, 5, 5, 5, 5, 5, 5])] }))

theorem test_hyps_HandOffSlots_held :
    (refRow foreignRef 0 (xOf foreignRef).l.tenant 5).tag ≠ (xOf foreignRef).l.tenant
    ∧ overQuota (putEntry (dropName (setSlot foreignRef (xOf foreignRef) 0 []) 0 0 0) (xOf foreignRef) 0 (entryOfRef 5)) 0 0 0
      ≤ overQuota foreignRef 0 0 0
    ∧ overQuota (putEntry (dropName (setSlot noQuota (xOf noQuota) 0 []) 0 0 10) (xOf noQuota) 10 (entryOfRef 20)) 0 0 0 > overQuota noQuota 0 0 0
    ∧ 0 < recHos (xOf noQuota).l.record ∧ slotRefs noQuota (xOf noQuota) 0 = [20] ∧ slotRefs foreignRef (xOf foreignRef) 0 = [5]
    ∧ slotTaken taking 0 0 0 = true ∧ (pathOf (xOf taking).w false).resume = 0
    ∧ decodeWord (spanWord (xOf taking).sp 1) 0 = some (.take 0 0) ∧ slotRefs taking (xOf taking) 0 = []
    ∧ decodeWord (spanWord (xOf giving).sp 1) 0 = some (.give 0 0) ∧ 8 ≤ (slotRefs giving (xOf giving) 0).length := by
  decide +kernel

theorem test_hyps_MapQueries : ctxOf nop = some xN ∧ Settled xN.w [.name 9, .pred 3] ∧ Settled xN.w [.name 9, iS 3]
    ∧ nameOf xN.w 9 = .resident 9 ∧ nameOf xN.w 10 = .unmapped :=
  ⟨test_nop_at, test_nop_settled _, test_nop_settled _, by decide +kernel⟩

/-! ## Prefixes and control -/

/-- PFXA and PFXB before FADD. -/
def prefixed : State := base 0x3E048000

theorem test_hyps_PrefixesWaitForTheirInstruction : ctxOf prefixed = some (xOf prefixed)
    ∧ prefixTarget (xOf prefixed).sp 32 ((xOf prefixed).sp.idx + 1) = some 0x0A0 ∧ (xOf prefixed).sp.pfxa = none
    ∧ (xOf prefixed).sp.pfxb = none ∧ acceptsA 0x0A0 = true ∧ zeroAllowed 0x0A0 = true ∧ acceptsB 0x0A0 = true
    ∧ honoursRm 0x0A0 = true ∧ honoursSat 0x0A0 = true ∧ honoursType 0x0A0 2 = true ∧ hasThird 0x0A3 = true :=
  ⟨ctx_of (by decide +kernel), by decide +kernel⟩

/-- Code on page 0: headers of one-word spans at 0x80 and 0x88, each with a NOP that ends it. -/
def code : List Host.Cell := [(65665, 0xF0), (65666, 0x0F), (65670, 0x40), (65671, 0xA5), (65673, 0xF0), (65674, 0x0F),
  (65681, 0xF0), (65682, 0x0F), (65793, 0xF0), (65794, 0x0F), (65801, 0xF0), (65802, 0x0F)]

/-- The last word, on code: the span starts at 0x1000, so that word 1 stands at 0x1004, and s1 holds 0x88. -/
def lastOnCode (f : State → State := id) : State := last (fun s => f { onWarp (fun w => setS (setS w 1 0x88) 2 0x1000) s with mem := code })

/-- A branch back by 31 words from 0x104 lands on 0x88, one by 30 words inside its span, and one to page 1 is not fetched. -/
def lastAt (pc : PC) (f : State → State := id) : State := lastOnCode (fun s => f (onSpan (fun sp => { sp with
  header := pc, words := List.replicate (pc.toNat % 128 / 4) 0 ++ sp.words }) s))

abbrev sB : State := lastAt 0x100

theorem test_hyps_Transfers : ctxOf sB = some (xOf sB) ∧ LastWord (xOf sB)
    ∧ wordAddr (xOf sB).sp (xOf sB).sp.idx + (0x3FE1 : BitVec 14).signExtend 57 * 4 = 0x88 ∧ Lands sB (xOf sB) 0x88 false
    ∧ Lands sB (xOf sB) 0x1000 true ∧ landing sB (partOf sB (xOf sB).pn) (xOf sB).c (askPath 0 0 false) (xOf sB).l.tenant 0x84 = .bad
    ∧ Settled (xOf sB).w [iS 1] ∧ sReg (xOf sB).w 1 ≠ 0 ∧ (sReg (xOf sB).w 1).toNat < 2 ^ 57
    ∧ Lands sB (xOf sB) ((sReg (xOf sB).w 1).setWidth 57) false :=
  ⟨ctx_of (by decide +kernel), by unfold LastWord; decide +kernel, by decide +kernel, by unfold Lands; decide +kernel,
    by unfold Lands; decide +kernel, by decide +kernel, settled_all (by decide +kernel) _, by decide +kernel, by decide +kernel,
    by unfold Lands; decide +kernel⟩

/-- The last word with v0 holding 0x88 in every lane and v1 zero. -/
def lastIndirect : State := lastAt 0x100 (fun s => modCore s 0 (fun k => setRow k 0 ⟨mkRow (fun _ => 0x88), 1, 1, 0⟩))

theorem test_hyps_Transfers_indirect :
    let x := xOf lastIndirect
    ∃ t u, LaneReady lastIndirect x [] [winName x.w 0, winName x.w (0 + 1)] [] [] [] t u ∧ LastWord x ∧ Settled x.w [iS 3]
      ∧ (let i := laneInOf t x [winName x.w 0, winName x.w (0 + 1)]
        i.nar.getLsbD 0 = true ∧ (∀ l, l < 32 → i.nar.getLsbD l = true → i.src 1 l ++ i.src 0 l = i.src 1 0 ++ i.src 0 0)
        ∧ (i.src 1 0 ++ i.src 0 0).toNat < 2 ^ 57 ∧ Lands t x ((i.src 1 0 ++ i.src 0 0).setWidth 57) false) := by
  refine ⟨lastIndirect, lastIndirect, lane_of (by decide +kernel), by unfold LastWord; decide +kernel, settled_all (by decide +kernel) _, ?_⟩
  unfold Lands
  decide +kernel

/-- The last word of a warp without an active lane. -/
def lastDead : State := last (onWarp (fun w => { w with dead := 0xFFFFFFFF }))

theorem test_hyps_Transfers_empty : ctxOf lastDead = some (xOf lastDead) ∧ LastWord (xOf lastDead) ∧ (xOf lastDead).sp.pfxa = none
    ∧ ctxActive (xOf lastDead) = 0 ∧ Settled (xOf lastDead).w [iS 5] :=
  ⟨ctx_of (by decide +kernel), by unfold LastWord; decide +kernel, by decide +kernel, by decide +kernel, settled_all (by decide +kernel) _⟩

end Sys2Proof.Tests
end

