-- ==== Sys2Proof/Tests/Witness2.lean ====
section
/-! SUPPORT. States and operands that meet the hypotheses of the statements about divergence, traps, special registers,
memory, rows, barriers, the home and paging. -/

-- One theorem after another: the kernel evaluates each, and many at once need many threads.
set_option Elab.async false

namespace Sys2Proof.Tests

open Sys2Proof Sys2Proof.Machine

/-! ## Divergence -/

/-- A state with entries pushed on the primary path's half, the last one on top; p1 holds the low lanes. -/
def stacked (es : List (BitVec 128)) (f : State → State := id) : State := lastAt 0x100 (fun s => f (onWarp (fun w => { w with
  p := w.p.set 1 0xFFFF, prim := { w.prim with depth := es.length, top := es.reverse } }) s))

abbrev sJ : State := stacked [mkEntry 1 0x88 0xFFFFFFFF]
/-- The same with both paths in use. -/
def bothPaths : State := stacked [mkEntry 1 0x88 0xFFFFFFFF] (onWarp (fun w => { w with
  seco := { w.seco with state := .ready, exec := 0xFF000000 }, prim := { w.prim with exec := 0x00FFFFFF } }))

theorem test_hyps_Divergence_branches :
    ctxOf sJ = some (xOf sJ) ∧ LastWord (xOf sJ) ∧ Lands sJ (xOf sJ) (wordAddr (xOf sJ).sp (xOf sJ).sp.idx
      + (0x3FE1 : BitVec 14).signExtend 57 * 4) false
    ∧ (pushEntry sJ (xOf sJ) (xOf sJ).w false (mkEntry 1 0x88 (curPath (xOf sJ)).exec)).toBool = true
    ∧ Settled (xOf sJ).w [.pred 1] ∧ Settled (xOf sJ).w [.pred 0]
    ∧ ctxActive (xOf sJ) &&& pReg (xOf sJ).w 2 = 0 ∧ ctxActive (xOf sJ) &&& ~~~pReg (xOf sJ).w 2 = ctxActive (xOf sJ)
    ∧ ctxActive (xOf sJ) &&& pReg (xOf sJ).w 1 ≠ 0 ∧ ctxActive (xOf sJ) &&& pReg (xOf sJ).w 1 ≠ ctxActive (xOf sJ)
    ∧ (pathOf (xOf sJ).w true).state = .vacant ∧ topEntry (xOf sJ).w false = some (mkEntry 1 0x88 0xFFFFFFFF)
    ∧ entKind (mkEntry 1 0x88 0xFFFFFFFF) = 1 ∧ entBad (mkEntry 1 0x88 0xFFFFFFFF) = false := by
  refine ⟨ctx_of (by decide +kernel), by unfold LastWord; decide +kernel, by unfold Lands; decide +kernel, by decide +kernel,
    settled_all (by decide +kernel) _, settled_all (by decide +kernel) _, by decide +kernel⟩

theorem test_hyps_Divergence_deferred :
    ctxOf bothPaths = some (xOf bothPaths) ∧ LastWord (xOf bothPaths) ∧ Settled (xOf bothPaths).w [.pred 1]
    ∧ Lands bothPaths (xOf bothPaths) 0x88 false ∧ (pathOf (xOf bothPaths).w true).state ≠ .vacant
    ∧ (pushEntry bothPaths (xOf bothPaths) (xOf bothPaths).w false (mkEntry 2 0x88 0xFFFF)).toBool = true := by
  refine ⟨ctx_of (by decide +kernel), by unfold LastWord; decide +kernel, settled_all (by decide +kernel) _,
    by unfold Lands; decide +kernel, by decide +kernel⟩

/-- A deferred arm on top; a join point whose address is the span's; and a split whose join point is the span. -/
abbrev sArm : State := stacked [mkEntry 2 0x88 0xFF]
abbrev sTop : State := stacked [mkEntry 1 0x100 0xFF]
def splitAt (f : Warp → Warp := id) : State := stacked [] (onWarp (fun w => f { w with split := ⟨true, 0x100, 0xFFFFFFFF⟩ }))

theorem test_hyps_Divergence_joins :
    (∀ e ∈ [(sArm, mkEntry 2 0x88 0xFF), (sTop, mkEntry 1 0x100 0xFF)],
      ctxOf e.1 = some (xOf e.1) ∧ LastWord (xOf e.1) ∧ topEntry (xOf e.1).w (xOf e.1).sp.sec = some e.2 ∧ entBad e.2 = false
      ∧ (popEntry e.1 (xOf e.1) (xOf e.1).w (xOf e.1).sp.sec).toBool = true
      ∧ entMask e.2 &&& ~~~(xOf e.1).w.exited &&& ~~~(xOf e.1).w.dead ≠ 0 ∧ Lands e.1 (xOf e.1) (entPc e.2) false)
    ∧ entKind (mkEntry 2 0x88 0xFF) = 2 ∧ entKind (mkEntry 1 0x100 0xFF) = 1 ∧ entPc (mkEntry 1 0x100 0xFF) = (xOf sTop).sp.header
    ∧ ctxOf splitAt = some (xOf splitAt) ∧ LastWord (xOf splitAt) ∧ topEntry (xOf splitAt).w false = none
    ∧ (xOf splitAt).w.split.valid = true ∧ (xOf splitAt).w.split.addr = (xOf splitAt).sp.header
    ∧ (pathOf (xOf splitAt).w true).state ≠ .joining
    ∧ topEntry xL.w xL.sp.sec = none ∧ xL.w.split.valid = false := by
  refine ⟨?_, by decide +kernel, by decide +kernel, by decide +kernel, ctx_of (by decide +kernel), by unfold LastWord; decide +kernel,
    by decide +kernel⟩
  intro e he
  simp only [List.mem_cons, List.not_mem_nil, or_false] at he
  rcases he with rfl | rfl <;> exact ⟨ctx_of (by decide +kernel), by unfold LastWord; decide +kernel, by decide +kernel,
    by decide +kernel, by decide +kernel, by decide +kernel, by unfold Lands; decide +kernel⟩

/-- The split's other path waits at the join point too: with lanes of both alive, and with every lane dead. -/
def waitsToo (dead : Mask := 0) : State := splitAt (fun w => { w with
  dead := dead, seco := { w.seco with state := .joining, exec := 0xFF000000 }, prim := { w.prim with exec := 0x00FFFFFF } })

theorem test_hyps_Divergence_merges :
    (∀ e ∈ [(waitsToo, true, true), (waitsToo 0xFFFFFFFF, false, false), (waitsToo 0xFF000000, true, false)],
      let x := xOf e.1
      ctxOf e.1 = some x ∧ LastWord x ∧ x.w.split.valid = true ∧ topEntry x.w x.sp.sec = none ∧ x.w.split.addr = x.sp.header
      ∧ (pathOf x.w (!x.sp.sec)).state = .joining
      ∧ (x.w.split.mask &&& ~~~x.w.exited &&& ~~~x.w.dead ≠ 0 ↔ e.2.1 = true)
      ∧ (x.w.split.mask &&& ~~~(x.w.exited ||| (curPath x).exec) &&& ~~~x.w.dead ≠ 0 ↔ e.2.2 = true)
      ∧ fetchCause e.1 (partOf e.1 x.pn) x.c x.l.tenant (x.sp.header).toNat = none
      ∧ blockAway e.1 (partOf e.1 x.pn) x.c (askPath x.c x.slot x.sp.sec) x.l.tenant (x.sp.header).toNat = false
      ∧ asidFor (partOf e.1 x.pn) x.l.tenant (x.sp.header).toNat = some 1
      ∧ Lands e.1 x (x.sp.header + BitVec.ofNat 57 (4 * (spanLen ((codeBlock e.1 (partOf e.1 x.pn) x.c 1 (x.sp.header).toNat).getD
        ((x.sp.header).toNat % 128 / 4) 0) + 1))) false) := by
  intro e he
  simp only [List.mem_cons, List.not_mem_nil, or_false] at he
  rcases he with rfl | rfl | rfl <;>
    refine ⟨ctx_of (by decide +kernel), by unfold LastWord; decide +kernel, ?_⟩ <;> and_intros <;>
    first | decide +kernel | (unfold Lands; decide +kernel)

/-- A path with half of the lanes and one entry. -/
def halfPath (e : BitVec 128) : State := stacked [e] (onWarp (fun w => { w with prim := { w.prim with exec := 0xFFFF } }))
abbrev toJoin : State := halfPath (mkEntry 1 0x88 0xFFFFFFFF)
abbrev toArm : State := halfPath (mkEntry 2 0x88 0xFF0000)

theorem test_hyps_Divergence_exits :
    (∀ e ∈ [(toJoin, mkEntry 1 0x88 0xFFFFFFFF), (toArm, mkEntry 2 0x88 0xFF0000)],
      let x := xOf e.1
      ctxOf e.1 = some x ∧ LastWord x ∧ topEntry x.w x.sp.sec = some e.2 ∧ entBad e.2 = false ∧ Lands e.1 x (entPc e.2) false
      ∧ entMask e.2 &&& ~~~(x.w.exited ||| (curPath x).exec) &&& ~~~x.w.dead ≠ 0
      ∧ (popEntry e.1 x { x.w with exited := x.w.exited ||| (curPath x).exec } x.sp.sec).toBool = true)
    ∧ entKind (mkEntry 1 0x88 0xFFFFFFFF) = 1 ∧ entPc (mkEntry 1 0x88 0xFFFFFFFF) = 0x88 ∧ entKind (mkEntry 2 0x88 0xFF0000) = 2
    ∧ (let x := xOf toJoin
      fetchCause toJoin (partOf toJoin x.pn) x.c x.l.tenant 0x88 = none
      ∧ blockAway toJoin (partOf toJoin x.pn) x.c (askPath x.c x.slot x.sp.sec) x.l.tenant 0x88 = false
      ∧ asidFor (partOf toJoin x.pn) x.l.tenant 0x88 = some 1
      ∧ Lands toJoin x (0x88 + BitVec.ofNat 57 (4 * (spanLen ((codeBlock toJoin (partOf toJoin x.pn) x.c 1 0x88).getD (0x88 % 128 / 4) 0)
        + 1))) false) := by
  refine ⟨?_, by decide +kernel, by decide +kernel, by decide +kernel, by unfold Lands; decide +kernel⟩
  intro e he
  simp only [List.mem_cons, List.not_mem_nil, or_false] at he
  rcases he with rfl | rfl <;> exact ⟨ctx_of (by decide +kernel), by unfold LastWord; decide +kernel, by decide +kernel,
    by decide +kernel, by unfold Lands; decide +kernel, by decide +kernel, by decide +kernel⟩

/-- Entries that no lane is left for, and entries that are none. -/
abbrev gone : State := halfPath (mkEntry 2 0x88 0xFF)
abbrev wrong (kind : Nat) : State := halfPath (mkEntry kind 0x88 0xFF)
/-- A split that joins elsewhere. -/
def splitOff : State := stacked [] (onWarp (fun w => { w with split := ⟨true, 0x108, 0xFFFFFFFF⟩ }))
/-- A path without an entry and with its predicate p1. -/
abbrev sBare : State := stacked []

theorem test_hyps_Divergence_traps :
    ctxOf gone = some (xOf gone) ∧ LastWord (xOf gone) ∧ topEntry (xOf gone).w (xOf gone).sp.sec = some (mkEntry 2 0x88 0xFF)
    ∧ entBad (mkEntry 2 0x88 0xFF) = false ∧ (pathOf (xOf gone).w (xOf gone).sp.sec).depth ≠ 0
    ∧ entMask (mkEntry 2 0x88 0xFF) &&& ~~~((xOf gone).w.exited ||| (curPath (xOf gone)).exec) &&& ~~~(xOf gone).w.dead = 0
    ∧ (popEntry gone (xOf gone) { (xOf gone).w with exited := (xOf gone).w.exited ||| (curPath (xOf gone)).exec } false).toBool = true
    ∧ (∀ n ∈ [0, 3], ctxOf (wrong n) = some (xOf (wrong n)) ∧ LastWord (xOf (wrong n))
      ∧ topEntry (xOf (wrong n)).w (xOf (wrong n)).sp.sec = some (mkEntry n 0x88 0xFF) ∧ entKind (mkEntry n 0x88 0xFF) = n)
    ∧ topEntry (xOf toJoin).w (xOf toJoin).sp.sec = some (mkEntry 1 0x88 0xFFFFFFFF) ∧ (xOf toJoin).sp.header ≠ 0x88
    ∧ ctxOf splitOff = some (xOf splitOff) ∧ LastWord (xOf splitOff) ∧ topEntry (xOf splitOff).w (xOf splitOff).sp.sec = none
    ∧ (xOf splitOff).w.split.valid = true ∧ (xOf splitOff).w.split.addr ≠ (xOf splitOff).sp.header
    ∧ ctxOf sBare = some (xOf sBare) ∧ LastWord (xOf sBare) ∧ topEntry (xOf sBare).w (xOf sBare).sp.sec = none
    ∧ Settled (xOf sBare).w [.pred 1] ∧ (pathOf (xOf sBare).w true).state = .vacant
    ∧ ctxActive (xOf sBare) &&& pReg (xOf sBare).w 1 ≠ 0 ∧ ctxActive (xOf sBare) &&& pReg (xOf sBare).w 1 ≠ ctxActive (xOf sBare) := by
  refine ⟨ctx_of (by decide +kernel), by unfold LastWord; decide +kernel, by decide +kernel, by decide +kernel, by decide +kernel,
    by decide +kernel, by decide +kernel, ?_, by decide +kernel, by decide +kernel, ctx_of (by decide +kernel),
    by unfold LastWord; decide +kernel, by decide +kernel, by decide +kernel, by decide +kernel, ctx_of (by decide +kernel),
    by unfold LastWord; decide +kernel, by decide +kernel, settled_all (by decide +kernel) _, by decide +kernel⟩
  intro n hn
  simp only [List.mem_cons, List.not_mem_nil, or_false] at hn
  rcases hn with rfl | rfl <;> exact ⟨ctx_of (by decide +kernel), by unfold LastWord; decide +kernel, by decide +kernel⟩

/-! ## Traps -/

/-- A warp with a handler at 0x80, on code; in trap mode; and without a handler. -/
def handled (f : Warp → Warp := id) : State := lastAt 0x100 (onWarp (fun w => f { w with tvec := 0x80 }))
/-- The handler stands in a block of a peer that has not answered. -/
def handledFar : State := lastAt 0x100 (fun s => { onWarp (fun w => { w with tvec := 0x1080 }) (onPart (fun p => { p with
  regs := (⟨.netPeerbase, 0⟩, 0x2000) :: p.regs
  tlb := p.tlb ++ ([⟨1, 1, 1, 1, leafTo 5 ||| (1#64 <<< 52), 24⟩] : List TlbEntry) }) s) with mem := (8359, 0x80) :: code })
def inTrap (tpc : DWord) : State := handled (fun w => { w with trapMode := true, tpc := tpc })

theorem test_hyps_TrapEntry :
    (∃ w, warpOf? handled 0 0 = some w ∧ w.trapMode = false ∧ w.tvec ≠ 0 ∧ (launchOf handled w.launch).term = none
      ∧ (let l := launchOf handled w.launch
        let u := prepBlock handled (partOfCore handled 0) 0 l.id (askPath 0 0 false) l.tenant w.tvec.toNat
        warpOf? u 0 0 = some w ∧ (launchOf u w.launch).term = none
        ∧ landing u (partOf u (partOfCore u 0)) 0 (askPath 0 0 false) l.tenant w.tvec = .good))
    ∧ (∃ w, warpOf? handledFar 0 0 = some w ∧ w.trapMode = false ∧ w.tvec ≠ 0 ∧ (launchOf handledFar w.launch).term = none
      ∧ (let l := launchOf handledFar w.launch
        let u := prepBlock handledFar (partOfCore handledFar 0) 0 l.id (askPath 0 0 false) l.tenant w.tvec.toNat
        warpOf? u 0 0 = some w ∧ (launchOf u w.launch).term = none
        ∧ landing u (partOf u (partOfCore u 0)) 0 (askPath 0 0 false) l.tenant w.tvec = .away))
    ∧ (∃ w l, warpOf? (inTrap 0) 0 0 = some w ∧ fget? (inTrap 0).launches w.launch = some l ∧ l.term = none ∧ l.status = .running
      ∧ w.trapMode = true)
    ∧ (∃ w l, warpOf? nop 0 0 = some w ∧ fget? nop.launches w.launch = some l ∧ l.term = none ∧ l.status = .running
      ∧ w.trapMode = false ∧ w.tvec = 0) :=
  ⟨⟨(xOf handled).w, by decide +kernel⟩, ⟨(xOf handledFar).w, by decide +kernel⟩,
    ⟨(xOf (inTrap 0)).w, (xOf (inTrap 0)).l, by decide +kernel⟩,
    ⟨xN.w, xN.l, by decide +kernel⟩⟩

/-- A launch with the debug bit. -/
def debugged : State := nop (fun s => modLaunch s 0 (fun l => { l with record := l.record.set 7 0x800 }))

/-- A span of three words at 0x80, to whose second word ERET goes back. -/
def inTrapAt : State := { inTrap 0x88 with mem := [(65665, 0xF1), (65666, 0x0F), (65670, 0x40), (65671, 0x25), (65674, 0x40),
  (65675, 0x25), (65678, 0x40), (65679, 0xA5)] }

/-- The words of TPC's block, and the place of TPC in it. -/
def tpcBlock (s : State) : List Word := codeBlock s (partOf s 0) 0 1 (((xOf s).w.tpc.setWidth 57 : PC)).toNat
def tpcWord (s : State) : Nat := ((xOf s).w.tpc.setWidth 57 : PC).toNat % 128 / 4
/-- Whether TPC's block can be fetched now. -/
def tpcFetched (s : State) : Bool := (fetchCause s (partOf s 0) 0 (xOf s).l.tenant ((xOf s).w.tpc.setWidth 57 : PC).toNat).isNone
  && !blockAway s (partOf s 0) 0 (askPath 0 0 false) (xOf s).l.tenant ((xOf s).w.tpc.setWidth 57 : PC).toNat
/-- TPC lies in a block of a peer that has not answered. -/
def inTrapFar : State := { handledFar with cores := (inTrap 0x1080).cores }

theorem test_hyps_TrapInstructionsAndReturn :
    ctxOf nop = some xN ∧ recDebug xN.l.record = false
    ∧ ctxOf debugged = some (xOf debugged) ∧ recDebug (xOf debugged).l.record = true
    ∧ ctxOf handled = some (xOf handled) ∧ LastWord (xOf handled) ∧ (xOf handled).w.trapMode = false
    ∧ (∀ s ∈ [inTrap 0x80, inTrap 2, inTrapAt, inTrap 0x84, inTrap 0x40, inTrap 0x1000, inTrapFar],
      ctxOf s = some (xOf s) ∧ LastWord (xOf s) ∧ (xOf s).w.trapMode = true)
    ∧ ((xOf (inTrap 2)).w.tpc.setWidth 57 : PC).toNat % 4 ≠ 0
    ∧ (∀ s ∈ [inTrap 0x80, inTrapAt, inTrap 0x84, inTrap 0x40], tpcFetched s = true
      ∧ asidFor (partOf s 0) (xOf s).l.tenant ((xOf s).w.tpc.setWidth 57 : PC).toNat = some 1)
    ∧ (∀ s ∈ [inTrap 0x1000, inTrapFar], tpcFetched s = false ∧ ((xOf s).w.tpc.setWidth 57 : PC).toNat % 4 = 0)
    ∧ walkReaches (tpcBlock (inTrap 0x80)) (tpcWord (inTrap 0x80)) 33 0 = true
    ∧ (∀ e ∈ [(inTrapAt, some 0), (inTrap 0x84, some 0), (inTrap 0x40, none)],
      walkReaches (tpcBlock e.1) (tpcWord e.1) 33 0 = false ∧ headerOfWord (tpcBlock e.1) (tpcWord e.1) 33 0 = e.2)
    ∧ tpcWord inTrapAt = 2 ∧ tpcWord (inTrap 0x84) = 1 := by
  refine ⟨test_nop_at, by decide +kernel, ctx_of (by decide +kernel), by decide +kernel, ctx_of (by decide +kernel),
    by unfold LastWord; decide +kernel, by decide +kernel, ?_, by decide +kernel, by decide +kernel, by decide +kernel,
    by decide +kernel, by decide +kernel, by decide +kernel, by decide +kernel⟩
  intro s hs
  simp only [List.mem_cons, List.not_mem_nil, or_false] at hs
  rcases hs with rfl | rfl | rfl | rfl | rfl | rfl | rfl <;> exact ⟨ctx_of (by decide +kernel), by unfold LastWord; decide +kernel,
    by decide +kernel⟩

/-! ## Special registers -/

/-- A warp in trap mode whose s1 holds 4 and whose s2 holds an invalid routing value. -/
def inTrap1 : State := nop (onWarp (fun w => { setS w 1 4 with trapMode := true }))

theorem test_hyps_SpecialRegisters :
    ctxOf nop = some xN ∧ Settled xN.w [iS 63] ∧ (∃ t u, LaneReady nop xN [] [] [winName xN.w 5] [] [] t u)
    ∧ specWritable xN.w 0x0D = false ∧ field (sReg xN.w 2) 5 0 = 0 ∧ field (sReg xN.w 2) 63 57 = 0 ∧ xN.w.prim.depth = 0
    ∧ xN.w.seco.depth = 0 ∧ rteBad nop (partOf nop xN.pn) (sReg xN.w 2) = false
    ∧ ctxOf inTrap1 = some (xOf inTrap1) ∧ Settled (xOf inTrap1).w [iS 1] ∧ (xOf inTrap1).w.trapMode = true
    ∧ field (sReg (xOf inTrap1).w 1) 2 0 ≤ 4 ∧ field (sReg (xOf inTrap1).w 1) 63 14 = 0 ∧ field (sReg (xOf inTrap1).w 1) 7 3 = 0
    ∧ field (sReg (xOf inTrap1).w 1) 63 57 = 0 ∧ field (sReg (xOf inTrap1).w 1) 63 16 = 0 := by
  refine ⟨test_nop_at, test_nop_settled _, lane_ready (by decide +kernel), by decide +kernel, by decide +kernel, by decide +kernel,
    by decide +kernel, by decide +kernel, by decide +kernel, ctx_of (by decide +kernel), settled_all (by decide +kernel) _,
    by decide +kernel⟩

/-- A path with an entry on its stack. -/
def deepStack : State := nop (onWarp (fun w => { setS w 1 64 with prim := { w.prim with depth := 1, top := [mkEntry 1 0x88 1] } }))

/-- s1 holds a value that is to be written. -/
def writing (v : DWord) (f : State → State := id) : State := nop (fun s => f (onWarp (fun w => setS w 1 v) s))

theorem test_hyps_SpecialRegisters_values :
    (∀ e ∈ [(writing 0, true), (writing 0x2000000040, true), (writing 0x1000000000, false), (writing 0x2000000000, false)],
      ctxOf e.1 = some (xOf e.1) ∧ Settled (xOf e.1).w [iS 1]
      ∧ (let v := sReg (xOf e.1).w 1
        let n := field v 38 36
        let m (i : Nat) : Nat := field v (6 * i + 5) (6 * i)
        (n ≠ 1 ∧ n ≠ 7 ∧ (∀ i < 6, n ≤ i → m i = 0) ∧ (∀ i < n, ∀ i' < i, m i ≠ m i')
          ∧ (n ≠ 0 → ∃ i < n, m i = (xOf e.1).slot)) ↔ e.2 = true))
    ∧ (∀ v ∈ [(5 : DWord), 8, 0x4000, 0x200000000000000], ctxOf (writing v) = some (xOf (writing v))
      ∧ Settled (xOf (writing v)).w [iS 1])
    ∧ (∀ e ∈ [((5 : DWord), 2, 0), (8, 7, 3), (0x4000, 63, 14), (0x200000000000000, 63, 57), (1, 5, 0), (0x10000, 63, 16)],
      field (sReg (xOf (writing e.1)).w 1) e.2.1 e.2.2 ≠ 0)
    ∧ (xOf deepStack).w.prim.depth ≠ 0 ∧ ctxOf deepStack = some (xOf deepStack) ∧ Settled (xOf deepStack).w [iS 1]
    ∧ rteBad (writing 0xFFFF80000000FFFF) (partOf (writing 0xFFFF80000000FFFF) 0) 0xFFFF80000000FFFF = true
    ∧ rteBad (writing 0) (partOf (writing 0) 0) 0 = false := by
  refine ⟨?_, ?_, by decide +kernel, by decide +kernel, ctx_of (by decide +kernel), settled_all (by decide +kernel) _, by decide +kernel⟩
  · intro e he
    simp only [List.mem_cons, List.not_mem_nil, or_false] at he
    rcases he with rfl | rfl | rfl | rfl <;> exact ⟨ctx_of (by decide +kernel), settled_all (by decide +kernel) _, by decide +kernel⟩
  · intro v hv
    simp only [List.mem_cons, List.not_mem_nil, or_false] at hv
    rcases hv with rfl | rfl | rfl | rfl <;> exact ⟨ctx_of (by decide +kernel), settled_all (by decide +kernel) _⟩

/-- A queue descriptor with one entry of 256 bytes at offset 0, one that reaches one granule beyond scratchpad, and one without entries. -/
abbrev qGood : DWord := 0x0000000101000000
abbrev qLong : DWord := 0x000000010010FFFF
def queueFull : State := writing qGood (onCl (fun h => { h with qent := [(256, ⟨.empty, true⟩)] }))

theorem test_hyps_SpecialRegisters_queues :
    (∀ v ∈ [qGood, 0], ctxOf (writing v) = some (xOf (writing v)) ∧ Settled (xOf (writing v)).w [iS 1]
      ∧ ¬ (qdDepth v ≠ 0 ∧ (qdEsize v = 0 ∨ scratchBytes (xOf (writing v)).l < 16 * (qdBase v + qdEsize v * qdDepth v)))
      ∧ queueHolds (writing v) 0 0 1 = false)
    ∧ (qdDepth qLong ≠ 0 ∧ scratchBytes (xOf (writing qLong)).l < 16 * (qdBase qLong + qdEsize qLong * qdDepth qLong))
    ∧ qdDepth 0x0000000100000000 ≠ 0 ∧ qdEsize 0x0000000100000000 = 0
    ∧ queueHolds queueFull 0 0 1 = true ∧ queueHolds queueFull 0 0 2 = false := by
  refine ⟨?_, by decide +kernel⟩
  intro v hv
  simp only [List.mem_cons, List.not_mem_nil, or_false] at hv
  rcases hv with rfl | rfl <;> exact ⟨ctx_of (by decide +kernel), settled_all (by decide +kernel) _, by decide +kernel⟩

/-! ## Memory -/

/-- v0 and v1 hold the address 64 + 4 l in lane l. -/
def addressed (f : State → State := id) : State := nop (fun s => f (modCore s 0 (fun k =>
  setRow k 0 ⟨mkRow (fun l => BitVec.ofNat 32 (64 + 4 * l)), 1, 1, 0⟩)))
/-- The same with the word at address 64, which s1 holds, and the word after it held as uncorrectable. -/
def poisoned : State := addressed (fun s => { onWarp (fun w => setS w 1 64) s with poison := [4100] })
def clean : State := addressed (onWarp (fun w => setS w 1 64))

/-- The first eight lines of ASID 1 lie in their slices. -/
def atHome (s : State) : State := onPart (fun p => { p with llc := (List.range 8).map (fun l => ⟨homeOf p (128 * l), 1, l, 16, leafTo 16, false, []⟩) }) s
def homed : State := addressed (fun s => atHome (onWarp (fun w => setS w 1 64) s))

theorem access_ready {s : State} {srcs dsts : List Nat} {n : Nat} {al : Bool} {k : Acc} {ask home : Bool} (f : State → State → Bool)
    (h : (access? s srcs dsts n al k ask home).any (fun r => f r.1 r.2) = true) :
    ∃ t u, AccessReady s (xOf s) srcs dsts n al k ask home t u ∧ f t u = true := by
  cases hp : access? s srcs dsts n al k ask home with
  | none => simp [hp] at h
  | some r => exact ⟨r.1, r.2, access_of hp, by simpa [hp] using h⟩

theorem scalar_ready {s : State} {va n : Nat} {k : Acc} {ask : Bool} (f : State → Bool)
    (h : ((ctxOf s).isSome && (accCause (prepAccs s (xOf s) [(0, va)] n false k ask false) (xOf s) va n false k).isNone
      && f (prepAccs s (xOf s) [(0, va)] n false k ask false)) = true) :
    ∃ t, ScalarAccessReady s (xOf s) va n k ask t ∧ f t = true := by
  simp only [Bool.and_eq_true, Option.isNone_iff_eq_none] at h
  exact ⟨_, ⟨ctx_of h.1.1, rfl, h.1.2⟩, h.2⟩

/-- The lines of a word's accesses, and whether they are free. -/
def linesOf (t : State) (x : Ctx) (srcs : List Nat) (n : Nat) : List (Nat × Nat) := accLines t x (accsOf t x srcs).accs n
def free? (t : State) (x : Ctx) (ls : List (Nat × Nat)) : Bool := ls.all (fun l => !lineHeld t x l.1 l.2)

theorem test_hyps_GlobalLoads :
    (∃ t u, AccessReady clean (xOf clean) (winRun (xOf clean).w 0 2) (winRun (xOf clean).w 4 (szNames 4)) (szBytes 4) false .read true false t u
      ∧ (!keptBack t (xOf clean) true && free? t (xOf clean) (linesOf t (xOf clean) (winRun (xOf clean).w 0 2) (szBytes 4))) = true)
    ∧ groupMissing (xOf clean).w 3 = false
    ∧ (∃ t, ScalarAccessReady clean (xOf clean) (sReg (xOf clean).w 1).toNat 4 .read true t
      ∧ (!keptBack t (xOf clean) true && free? t (xOf clean) (accLines t (xOf clean) [(0, (sReg (xOf clean).w 1).toNat)] 4)
        && !anyMarked (viewBytes t (xOf clean) (sReg (xOf clean).w 1).toNat 4)) = true)
    ∧ ctxActive (xOf clean) ≠ 0 ∧ Settled (xOf clean).w [iS 1, iS 3]
    ∧ (∃ t, ScalarAccessReady poisoned (xOf poisoned) (sReg (xOf poisoned).w 1).toNat 4 .read true t
      ∧ (!keptBack t (xOf poisoned) true && free? t (xOf poisoned) (accLines t (xOf poisoned) [(0, (sReg (xOf poisoned).w 1).toNat)] 4)
        && anyMarked (viewBytes t (xOf poisoned) (sReg (xOf poisoned).w 1).toNat 4)) = true)
    ∧ Settled (xOf poisoned).w [iS 1, iS 3] ∧ ctxActive (xOf poisoned) ≠ 0
    ∧ ctxOf deadWarp = some (xOf deadWarp) ∧ ctxActive (xOf deadWarp) = 0 ∧ Settled (xOf deadWarp).w [iS 1, iS 3] :=
  ⟨access_ready (fun t _ => !keptBack t (xOf clean) true && free? t (xOf clean) (linesOf t (xOf clean) (winRun (xOf clean).w 0 2) (szBytes 4))) (by decide +kernel), by decide +kernel,
    scalar_ready (fun t => !keptBack t (xOf clean) true && free? t (xOf clean) (accLines t (xOf clean) [(0, (sReg (xOf clean).w 1).toNat)] 4)
      && !anyMarked (viewBytes t (xOf clean) (sReg (xOf clean).w 1).toNat 4)) (by decide +kernel),
    by decide +kernel, settled_all (by decide +kernel) _,
    scalar_ready (fun t => !keptBack t (xOf poisoned) true && free? t (xOf poisoned) (accLines t (xOf poisoned) [(0, (sReg (xOf poisoned).w 1).toNat)] 4)
      && anyMarked (viewBytes t (xOf poisoned) (sReg (xOf poisoned).w 1).toNat 4)) (by decide +kernel),
    settled_all (by decide +kernel) _, by decide +kernel,
    ctx_of (by decide +kernel), by decide +kernel, settled_all (by decide +kernel) _⟩

theorem test_hyps_GlobalStores :
    (∃ t u, AccessReady clean (xOf clean) (winRun (xOf clean).w 0 2 ++ winRun (xOf clean).w 4 (szNames 4)) [] (szBytes 4) false .write false false t u
      ∧ (!keptBack t (xOf clean) false && !releaseWaits t (xOf clean) 5) = true)
    ∧ (∃ t, ScalarAccessReady clean (xOf clean) (sReg (xOf clean).w 1).toNat 4 .write false t
      ∧ (!keptBack t (xOf clean) false && !releaseWaits t (xOf clean) 5) = true)
    ∧ groupMissing (xOf clean).w 5 = false ∧ Settled (xOf clean).w [iS 1, iS 3] :=
  ⟨access_ready (fun t _ => !keptBack t (xOf clean) false && !releaseWaits t (xOf clean) 5) (by decide +kernel),
    scalar_ready (fun t => !keptBack t (xOf clean) false && !releaseWaits t (xOf clean) 5) (by decide +kernel),
    by decide +kernel, settled_all (by decide +kernel) _⟩

/-- A set-aside access, in two granules, that waits for them to be FULL. -/
def waiting (store : Bool) (fe : Nat) : Armed := ⟨7, 0, false, none, none, [(0, 0), (1, 16)], 4, 4, fe, store, none, [(0, [some 1, some 2, some 3, some 4])]⟩
/-- A path with a set-aside load that makes its granules EMPTY. -/
def aside : State := addressed (onCl (fun h => { h with armed := [waiting false 2] }))
/-- A core with a store that waits. -/
def storing : State := addressed (fun s => modCore s 0 (fun k => { k with storeQ := [⟨1, 0, [(4, some 7)], 1, 0, false, 0, true⟩] }))

theorem test_hyps_AtomicsAndFences :
    (∃ t u, AccessReady homed (xOf homed) (winRun (xOf homed).w 0 3) (winRun (xOf homed).w 4 1) 4 true .write true true t u
      ∧ ((linesOf t (xOf homed) (winRun (xOf homed).w 0 3) 4).all (fun l => !atomHeld t (xOf homed) 3 l)
        && !keptBack t (xOf homed) false && !releaseWaits t (xOf homed) 3) = true)
    ∧ groupMissing (xOf clean).w 3 = false
    ∧ (∃ t u, LaneReady clean (xOf clean) [] (winRun (xOf clean).w 0 2) [] [] [] t u)
    ∧ ctxOf clean = some (xOf clean) ∧ releaseWaits clean (xOf clean) 5 = false ∧ keptBack clean (xOf clean) true = false
    ∧ ctxOf aside = some (xOf aside) ∧ keptBack aside (xOf aside) true = true
    ∧ ctxOf storing = some (xOf storing) ∧ releaseWaits storing (xOf storing) 3 = true ∧ groupMissing (xOf storing).w 3 = false :=
  ⟨access_ready (fun t _ => (linesOf t (xOf homed) (winRun (xOf homed).w 0 3) 4).all (fun l => !atomHeld t (xOf homed) 3 l)
        && !keptBack t (xOf homed) false && !releaseWaits t (xOf homed) 3) (by decide +kernel), by decide +kernel, lane_ready (by decide +kernel),
    ctx_of (by decide +kernel), by decide +kernel, by decide +kernel, ctx_of (by decide +kernel), by decide +kernel,
    ctx_of (by decide +kernel), by decide +kernel⟩

/-- The words of PREF are ready after their pages are walked. -/
theorem test_hyps_AtomicsAndFences_pref : ∃ t₀ u₀ t u, LaneReady clean (xOf clean) [] (winRun (xOf clean).w 0 2) [] [] [] t₀ u₀
    ∧ LaneReady (prepRuns clean (xOf clean).pn (some ((xOf clean).c, (xOf clean).l.id)) (xOf clean).l.tenant .read
      ((accsOf t₀ (xOf clean) (winRun (xOf clean).w 0 2)).accs.map (fun e => (e.2, 1)))) (xOf clean) []
      (winRun (xOf clean).w 0 2) [] [] [] t u := by
  refine ⟨clean, clean, clean, clean, lane_of (by decide +kernel), ?_⟩
  have h : prepRuns clean (xOf clean).pn (some ((xOf clean).c, (xOf clean).l.id)) (xOf clean).l.tenant .read
      ((accsOf clean (xOf clean) (winRun (xOf clean).w 0 2)).accs.map (fun e => (e.2, 1))) = clean := by decide +kernel
  rw [h]
  exact lane_of (by decide +kernel)

/-! ## Scratchpad, rows and barriers -/

def arming : State := addressed (onCl (fun h => { h with armed := [waiting false 1] }))
def armed : State := addressed (onCl (fun h => { h with armed := [waiting false 1], full := [0, 1] }))

theorem test_hyps_ScratchpadAccesses :
    (∃ t u, LaneReady clean (xOf clean) [] [winName (xOf clean).w 0] (winRun (xOf clean).w 4 4) [] [] t u)
    ∧ (∃ t u, LaneReady clean (xOf clean) [] (winName (xOf clean).w 0 :: winRun (xOf clean).w 4 4) [] [] [] t u)
    ∧ (∃ t u, LaneReady clean (xOf clean) [] (winRun (xOf clean).w 0 2) (winRun (xOf clean).w 4 1) [] [] t u)
    ∧ armedAble (clOf clean 0 0) [] (clOf clean 0 0).armed = none
    ∧ (∀ e ∈ (lanesOf (laneInOf clean (xOf clean) [winName (xOf clean).w 0]) 1
        (fun l => ((laneInOf clean (xOf clean) [winName (xOf clean).w 0]).src 0 l).toNat)).accs, e.2 + 16 ≤ scratchBytes (xOf clean).l ∧ e.2 % 4 = 0)
    ∧ armedCondition (clOf clean 0 0) (waiting true 0) = true ∧ armedBehind (clOf clean 0 0).armed (waiting true 0) = false
    ∧ armedCondition (clOf clean 0 0) (waiting false 2) = false ∧ armedBehind (clOf arming 0 0).armed (waiting true 0) = true
    ∧ armedAble (clOf armed 0 0) [] (clOf armed 0 0).armed = some (waiting false 1) :=
  ⟨lane_ready (by decide +kernel), lane_ready (by decide +kernel), lane_ready (by decide +kernel), by decide +kernel⟩

/-- The row at address 0, that the core's L1 holds whole with version 3. -/
def rowHeld : State := nop (fun s => modCore { s with sides := [(16 * 4096 / 128, (3, 1))] } 0 (fun k => { k with
  l1 := [⟨1, 0, 16, List.replicate 128 9, [], some (1, 3)⟩] }))

/-- The lines of rows at address 0 lie in their slices. -/
def rowHome : State := nop atHome

/-- Page 0 lies on the fenced rank 5, whose row at 0 has version 3 among the side words of the home slices. -/
def rowPeer : State := nop (onPart (fun p => { p with tlb := [⟨0, 1, 0, 1, leafTo 5 ||| (1#64 <<< 52), 8⟩], peerSides := [(5 * 2 ^ 64, (3, 1))] }))

theorem row_ready {s : State} {r : RowArg} {k : Acc} (f : State → Bool)
    (h : ((ctxOf s).isSome && ctxActive (xOf s) != 0 && r.names.all (fun n => nameOf (xOf s).w n != .unmapped)
      && (match reloadNames s (xOf s) r.names, reloadNames (prepRow s (xOf s) r k) (xOf s) r.names with
        | .ok _, .ok t => (rowCause t (xOf s) r k).isNone && f t
        | _, _ => false)) = true) : ∃ t, RowReady s (xOf s) r k t ∧ f t = true := by
  simp only [Bool.and_eq_true, bne_iff_ne, ne_eq] at h
  obtain ⟨⟨⟨h1, h2⟩, h3⟩, h4⟩ := h
  split at h4
  · next t₀ t e₀ e =>
    simp only [Bool.and_eq_true, Option.isNone_iff_eq_none] at h4
    exact ⟨t, ⟨ctx_of h1, h2, mapped_of h3, ⟨t₀, e₀, e⟩, h4.1⟩, h4.2⟩
  · cases h4

abbrev row (s : State) (n : BitVec 3) : RowArg := rowArg (xOf s) 4 2 n

theorem test_hyps_RowOperations :
    Settled (xOf rowHeld).w (iSRun 2 2 ++ iNames (row rowHeld 1).names)
    ∧ (∃ t, RowReady rowHeld (xOf rowHeld) (row rowHeld 1) .read t ∧ (!keptBack t (xOf rowHeld) true && (rowLines t (xOf rowHeld) (row rowHeld 1)).all (fun l => !storeWaits t (xOf rowHeld).c l.1 l.2) && rowCopy t (xOf rowHeld) (rowLines t (xOf rowHeld) (row rowHeld 1))
      == some (List.replicate 128 (9, false), 3) && (splitRow t (xOf rowHeld) (row rowHeld 1)).toBool
      && (rowPhys t (xOf rowHeld) (row rowHeld 1)).all (fun pl => (sideOf t pl).1 == 3)) = true)
    ∧ (∃ t, RowReady nop xN (row nop 7) .read t ∧ (!keptBack t xN true && rowCopy t xN (rowLines t xN (row nop 7)) == none && (rowPhys t xN (row nop 7)).any (fun pl => !setMem t.sidePoison pl)
      && (rowLines t xN (row nop 7)).all (fun l => !lineHeld t xN l.1 l.2 && !storeWaits t xN.c l.1 l.2)
      && (splitRow (takeFree t).2 xN (row nop 7)).toBool) = true)
    ∧ (∃ t, RowReady rowPeer (xOf rowPeer) (row rowPeer 7) .read t ∧ (!keptBack t (xOf rowPeer) true
      && rowPhys t (xOf rowPeer) (row rowPeer 7) == none && peerRow t (xOf rowPeer) (row rowPeer 7) == some (5 * 2 ^ 64)
      && fget? (partOf t (xOf rowPeer).pn).peerSides (5 * 2 ^ 64) == some (3, 1)
      && (rowLines t (xOf rowPeer) (row rowPeer 7)).all (fun l => !lineHeld t (xOf rowPeer) l.1 l.2
        && !storeWaits t (xOf rowPeer).c l.1 l.2)
      && (splitRow t (xOf rowPeer) (row rowPeer 7)).toBool) = true)
    ∧ (∃ t, RowReady rowHome (xOf rowHome) (row rowHome 7) .write t ∧ (!keptBack t (xOf rowHome) false
      && (rowLines t (xOf rowHome) (row rowHome 7)).all (fun l => !atomHeld t (xOf rowHome) 2 l)
      && (rowPhys t (xOf rowHome) (row rowHome 7)).isSome
      && (asidFor (partOf t (xOf rowHome).pn) (xOf rowHome).l.tenant (row rowHome 7).va).isSome) = true)
    ∧ Settled (xOf rowHome).w (iS 2 :: iNames (row rowHome 7).names)
    ∧ ctxOf deadWarp = some (xOf deadWarp) ∧ ctxActive (xOf deadWarp) = 0 ∧ Settled (xOf deadWarp).w [iS 2] :=
  ⟨settled_all (by decide +kernel) _, row_ready (fun t => !keptBack t (xOf rowHeld) true && (rowLines t (xOf rowHeld) (row rowHeld 1)).all (fun l => !storeWaits t (xOf rowHeld).c l.1 l.2) && rowCopy t (xOf rowHeld) (rowLines t (xOf rowHeld) (row rowHeld 1))
      == some (List.replicate 128 (9, false), 3) && (splitRow t (xOf rowHeld) (row rowHeld 1)).toBool
      && (rowPhys t (xOf rowHeld) (row rowHeld 1)).all (fun pl => (sideOf t pl).1 == 3)) (by decide +kernel),
    row_ready (fun t => !keptBack t xN true && rowCopy t xN (rowLines t xN (row nop 7)) == none && (rowPhys t xN (row nop 7)).any (fun pl => !setMem t.sidePoison pl)
      && (rowLines t xN (row nop 7)).all (fun l => !lineHeld t xN l.1 l.2 && !storeWaits t xN.c l.1 l.2)
      && (splitRow (takeFree t).2 xN (row nop 7)).toBool) (by decide +kernel),
    row_ready (fun t => !keptBack t (xOf rowPeer) true
      && rowPhys t (xOf rowPeer) (row rowPeer 7) == none && peerRow t (xOf rowPeer) (row rowPeer 7) == some (5 * 2 ^ 64)
      && fget? (partOf t (xOf rowPeer).pn).peerSides (5 * 2 ^ 64) == some (3, 1)
      && (rowLines t (xOf rowPeer) (row rowPeer 7)).all (fun l => !lineHeld t (xOf rowPeer) l.1 l.2
        && !storeWaits t (xOf rowPeer).c l.1 l.2)
      && (splitRow t (xOf rowPeer) (row rowPeer 7)).toBool) (by decide +kernel),
    row_ready (fun t => !keptBack t (xOf rowHome) false
      && (rowLines t (xOf rowHome) (row rowHome 7)).all (fun l => !atomHeld t (xOf rowHome) 2 l)
      && (rowPhys t (xOf rowHome) (row rowHome 7)).isSome
      && (asidFor (partOf t (xOf rowHome).pn) (xOf rowHome).l.tenant (row rowHome 7).va).isSome) (by decide +kernel),
    settled_all (by decide +kernel) _,
    ctx_of (by decide +kernel), by decide +kernel, settled_all (by decide +kernel) _⟩

/-- Group 0 has launch warp 0, and warp 0 holds it in slot 3; the warp's core has its arrival. -/
def grouped (f : State → State := id) : State := last (fun s => f (onWarp (fun w => { w with g := w.g.set 3 0x100 })
  (modLaunch s 0 (fun l => { l with groups := [[0]], slots := [(0, 0, 0)] }))))
def arrived : State := grouped (onCl (fun h => { h with barriers := [(0, ⟨4, [0], none, []⟩)] }))
/-- The root with an ARRIVE for phase 0, of a group on the core and of a group on two cores. -/
def atRoot (slots : List (Nat × Nat × Nat)) : State := grouped (fun s => onPart (fun p => { p with rootInbox := [.arrive 0 0 0 0] })
  (modLaunch s 0 (fun l => { l with groups := [[0, 1]], slots := slots })))
def completing : State := grouped (fun s => modCore s 0 (fun k => { k with inbox := [.complete 0 0 5] }))

/-- The core's stores are done but an access that the arrival comes behind is not; the same once its warp has retired. -/
def behindArmed (retired : Option Nat) : State := grouped (onCl (fun h => { h with
  barriers := [(0, ⟨4, [0], none, [7]⟩)], armed := [{ waiting true 2 with retired := retired }] }))
/-- A report behind a refused message of its core. -/
def behindRefused : State := grouped (fun s => onPart (fun p => { p with rootInbox := [.arrive 0 0 0 0] })
  (modCore (onCl (fun h => { h with barriers := [(0, ⟨0, [0], some 9, []⟩)] }) s) 0 (fun k => { k with
    engines := [(5, ⟨.solicit ⟨9, 5, 0, 0x80, 7, 1, 0, [], 0, 0x300, [0], 0, 0, 5⟩ false, 0, 1, 1, none, 5, false, [], [], [], none⟩)] })))

/-- What a node needs to report. -/
def Ready (s : State) (c l g : Nat) : Prop :=
  (launchOf s l).status ≠ .ended ∧ membersOn (launchOf s l) c g ≠ [] ∧ (nodeOf s c l g).sent = none
  ∧ (∀ i ∈ membersOn (launchOf s l) c g, i ∈ (nodeOf s c l g).arrived ∨ i ∈ (launchOf s l).retired)
  ∧ (∀ a ∈ (clOf s c l).armed, a.id ∈ (nodeOf s c l g).behind → a.retired ≠ none) ∧ storesDone s (partOfCore s c) c = true

theorem test_hyps_GroupBarriers :
    ctxOf grouped = some (xOf grouped) ∧ LastWord (xOf grouped) ∧ Settled (xOf grouped).w [iS 5]
    ∧ (xOf grouped).w.g[(3 : BitVec 2).toNat]? = some 0x100 ∧ (0x100 : DWord).getLsbD 8 = true
    ∧ (xOf grouped).w.g[(0 : BitVec 2).toNat]? = some 0 ∧ (0 : DWord).getLsbD 8 = false
    ∧ Ready arrived 0 0 0 ∧ Ready (behindArmed (some 3)) 0 0 0 ∧ ¬ Ready grouped 0 0 0 ∧ ¬ Ready (behindArmed none) 0 0 0
    ∧ (partOf behindRefused 0).rootInbox = [.arrive 0 0 0 (rootBarrierOf (partOf behindRefused 0) 0 0).completed]
    ∧ (launchOf behindRefused 0).status ≠ .ended
    ∧ rootRefuses (modPart behindRefused 0 (fun p => { p with rootInbox := [] })) 0 0 ((nodeOf behindRefused 0 0 0).sent.getD 0) = true
    ∧ (∀ e ∈ [([(0, 0, 0), (1, 0, 1)], true), ([(0, 0, 0), (1, 1, 0)], false)],
      (partOf (atRoot e.1) 0).rootInbox = [.arrive 0 0 0 (rootBarrierOf (partOf (atRoot e.1) 0) 0 0).completed]
      ∧ (launchOf (atRoot e.1) 0).status ≠ .ended
      ∧ rootRefuses (modPart (atRoot e.1) 0 (fun p => { p with rootInbox := [] })) 0 0 ((nodeOf (atRoot e.1) 0 0 0).sent.getD 0) = false
      ∧ (groupCores (launchOf (atRoot e.1) 0) 0).all (setMem (setAdd (rootBarrierOf (partOf (atRoot e.1) 0) 0 0).reported 0)) = e.2
      ∧ inboxOpen (modPart (atRoot e.1) 0 (fun p => { p with rootInbox := [] })) 0 (groupCores (launchOf (atRoot e.1) 0) 0) = true)
    ∧ (coreOf completing 0).inbox = [.complete 0 0 5] ∧ (coreOf completing 0).refusing = false
    ∧ (fget? (coreOf completing 0).launches 0).isSome := by
  refine ⟨ctx_of (by decide +kernel), by unfold LastWord; decide +kernel, settled_all (by decide +kernel) _, by decide +kernel,
    by decide +kernel, by decide +kernel, by decide +kernel, by unfold Ready; decide +kernel, by unfold Ready; decide +kernel,
    by unfold Ready; decide +kernel, by unfold Ready; decide +kernel, by decide +kernel, by decide +kernel, by decide +kernel, ?_, by decide +kernel⟩
  intro e he
  simp only [List.mem_cons, List.not_mem_nil, or_false] at he
  rcases he with rfl | rfl <;> decide +kernel

end Sys2Proof.Tests
end

