-- ==== Sys2Proof/Tests/Witness3.lean ====
section
/-! SUPPORT. States and operands that meet the hypotheses of the statements about the home, paging, the matrix unit,
engines, queues and collectives. A check that gives a value is written as its `toBool`. -/

-- One theorem after another: the kernel evaluates each, and many at once need many threads.
set_option Elab.async false

namespace Sys2Proof.Tests

open Sys2Proof Sys2Proof.Machine

/-! ## The home and paging -/

theorem test_hyps_MemoryReadAfterWrite : Memory.wf lastOnCode.mem = true ∧ (fkeys lastOnCode.unitKey).Pairwise (· < ·) := by
  decide +kernel

/-- The frames of `base` with frame 16 changed, and frames 18, 20 and 21 OWNED, SCRUBBING and CLEAN. -/
def withFrames (f : FrameEntry → FrameEntry) (s : State) : State := { s with frames :=
  [(16, f { frameReset with state := 3, tenant := 1, tlbref := 1, tag := (1, 0) }), (18, { frameReset with state := 3, tenant := 1 }),
    (20, { frameReset with state := 1 }), (21, { frameReset with state := 2 })] }
def framed (f : FrameEntry → FrameEntry := id) (g : State → State := id) : State := nop (fun s => g (withFrames f s))
/-- A store that has reached its L1, or not yet. -/
def storeAt (early : Bool) (b : Nat := 4) : StoreReq := ⟨1, 0, [(b, some 7)], 1, 0, false, 0, early⟩
def storingOn (f : FrameEntry → FrameEntry) (q : List StoreReq := [storeAt false]) : State :=
  framed f (fun s => atHome (modCore s 0 (fun k => { k with storeQ := q })))
def fetchOf : LlcLine := ⟨1, 1, 0, 16, leafTo 16, false, []⟩
def fetching (f : FrameEntry → FrameEntry := id) : State := framed f (onPart (fun p => { p with fetches := [fetchOf] }))

/-- The state after the translation of a store's line, as HOME_SLICE_WRITE looks at it. -/
def storeRoom (s : State) (r : StoreReq) : State :=
  if (lineKept (partOf s (partOfCore s 0)) r.asid r.line).isSome then s
  else prepPage s (partOfCore s 0) (some (0, (launchOf s r.launch).id)) (ownerOf r.tenant r.asid) r.asid .write (r.line / 32)
/-- A store to a line of page 1, and page 1 on rank 5, whose peer is in the table; and such a store while an engine owns the line. -/
def storeFar (w : Nat := 0) : StoreReq := ⟨1, 32, [(4, some 7)], 1, w, false, 0, false⟩
def farStore (w : Nat) (f : State → State := id) : State := { framed id (fun s => f (onPart (fun p => { p with
  regs := (⟨.netPeerbase, 0⟩, 0x2000) :: p.regs
  tlb := p.tlb ++ ([⟨1, 1, 1, 1, leafTo 5 ||| (1#64 <<< 52), 24⟩] : List TlbEntry) })
  (modCore s 0 (fun k => { k with storeQ := [storeFar w] })))) with mem := [(8359, 0x80)] }
def farOwned (w : Nat) : State := farStore w (fun s => modCore s 0 (fun k => { k with
  engines := [(9, ⟨.tile ⟨0x100, 0x1000, 1, 64, 0, 0, [], false⟩ .memory .memory, 0, 1, 1, none, 9, false, [], [], [], none⟩)] }))

theorem test_hyps_HomeEvents :
    (∀ e ∈ [(storingOn id, false), (storingOn (fun e => { e with wp := true }), true)],
      ∃ r, (coreOf e.1 0).storeQ[0]? = some r ∧ r.early = false ∧ storeBehind (coreOf e.1 0).storeQ 0 r = false
        ∧ (let pn := partOfCore e.1 0
          let t := storeRoom e.1 r
          lineCause t (partOf t pn) (ownerOf r.tenant r.asid) r.asid r.line .write = none
          ∧ peerOf t (partOf t pn) r.asid (128 * r.line) = none ∧ storeHeld t (partOf t pn) pn r = e.2
          ∧ homeLost t (partOf t pn) (128 * r.line) = false))
    ∧ (let s := framed id (fun s => modCore s 0 (fun k => { k with storeQ := [storeFar] }))
      (coreOf s 0).storeQ[0]? = some storeFar ∧ storeBehind (coreOf s 0).storeQ 0 storeFar = false
      ∧ (lineCause (storeRoom s storeFar) (partOf (storeRoom s storeFar) 0) 1 1 32 .write).isSome = true)
    ∧ (∀ e ∈ [(farStore 0, 0, false), (farStore 64, 64, true), (farOwned 0, 0, true)],
      let r := storeFar e.2.1
      let t := storeRoom e.1 r
      (coreOf e.1 0).storeQ[0]? = some r ∧ r.early = false ∧ storeBehind (coreOf e.1 0).storeQ 0 r = false
      ∧ lineCause t (partOf t 0) 1 1 32 .write = none ∧ peerOf t (partOf t 0) 1 (128 * 32) = some 5
      ∧ lineHeldByOthers t 0 1 32 = e.2.2)
    ∧ (coreOf (storingOn id [storeAt true]) 0).storeQ[0]? = some (storeAt true)
    ∧ (∀ e ∈ (coreOf (storingOn id [storeAt true]) 0).storeQ.take 0, e.early = true → e.warp ≠ (storeAt true).warp)
    ∧ (coreOf (storingOn id [storeAt true, storeAt true 5]) 0).storeQ[1]? = some (storeAt true 5)
    ∧ (∃ e ∈ (coreOf (storingOn id [storeAt true, storeAt true 5]) 0).storeQ.take 1, e.early = true ∧ e.warp = (storeAt true 5).warp)
    ∧ (partOf fetching 0).fetches[0]? = some fetchOf
    ∧ ((frameOf (fetching (fun e => { e with fb := true, rd := true })) 16).fb = true
      → (frameOf (fetching (fun e => { e with fb := true, rd := true })) 16).rd = true)
    ∧ (frameOf (fetching (fun e => { e with fb := true })) 16).fb = true ∧ (frameOf (fetching (fun e => { e with fb := true })) 16).rd = false
    ∧ (∀ l ∈ (partOf fetching 0).llc, l.oldKeys = [])
    ∧ frameIn (partOf framed 0) 16 = true ∧ (List.replicate 4096 (7 : Byte)).length = 4096 := by
  refine ⟨?_, ?_⟩
  rotate_left
  · and_intros <;> exact of_decide_eq_true (by decide +kernel)
  intro e he
  simp only [List.mem_cons, List.not_mem_nil, or_false] at he
  rcases he with rfl | rfl <;> exact ⟨storeAt false, by decide +kernel⟩

/-- A general-purpose core's access, as it is looked at: its octant and core are the writer. -/
def gpcAt (f : Partition → Partition := id) : State := { framed id (onPart f) with writer := some (1, 2) }

theorem test_hyps_HomeEvents_gpc :
    (partOf (gpcAt (fun p => { p with kernelDown := true })) 0).kernelDown = true ∧ (partOf gpcAt 0).kernelDown = false
    ∧ (∀ k ∈ [4, 8, 10], ∀ f ∈ pieces 4096 (4096 * 18 + 4090) k, frameIn (partOf gpcAt 0) f = true)
    ∧ (∀ e ∈ [(true, 10), (false, 10), (true, 8), (true, 4)], gpcHeld gpcAt 0 (4096 * 18 + 4090) e.2 e.1 true = false)
    ∧ gpcHeld gpcAt 0 (4096 * 18 + 4090) 10 false false = false
    ∧ capRead (reg (partOf gpcAt 0) .capBase).toNat (4096 * 18 + 4090) 10 = none
    ∧ (capRead (reg (partOf (gpcAt (fun p => setReg p .capBase 0 0x1000)) 0) .capBase).toNat 0x1000 4).isSome = true
    ∧ (∀ k ∈ [4, 8, 10], (pieces 4096 (2 ^ 51 - 4) k).find? (fun f => !frameIn (partOf gpcAt 0) f) = some (2 ^ 39 - 1))
    ∧ capRead (reg (partOf gpcAt 0) .capBase).toNat (2 ^ 51 - 4) 10 = none := by
  and_intros <;> decide +kernel

/-- A second store waits behind one to the same byte, and not behind one to another. -/
theorem test_hyps_HomeEvents_behind :
    storeBehind [storeAt false, storeAt false] 1 (storeAt false) = true
    ∧ storeBehind [storeAt false, storeAt false 5] 1 (storeAt false 5) = false := by decide

def shooting (f : FrameEntry → FrameEntry := id) (fetches : List LlcLine := []) : State := framed f (onPart (fun p => { p with
  fetches := fetches, shooting := some 0x8001000000000000 }))

/-- A store waits for page 1 of ASID 1, whose tables start at frame 32; the entry of the walk is held as uncorrectable or not. -/
def walking (poison : List Nat := []) : State := { framed id (fun s => onPart (fun p => setReg p .llcRootbase 0 0x20000)
  (modCore s 0 (fun k => { k with storeQ := [storeFar] }))) with poison := poison }

theorem test_hyps_WalksAndShootDowns :
    missWaits walking 0 1 1 = true ∧ walkPoison walking (partOf walking 0) 1 1 = none
    ∧ missWaits (walking [8192]) 0 1 1 = true ∧ walkPoison (walking [8192]) (partOf (walking [8192]) 0) 1 1 = some 131080
    ∧ missWaits walking 0 1 2 = false
    ∧ (partOf framed 0).shooting = none ∧ field 0x4000000000000000 63 62 ≠ 0
    ∧ (partOf shooting 0).shooting = some 0x8001000000000000 ∧ (partOf (shooting id [fetchOf]) 0).shooting = some 0x8001000000000000
    ∧ shootPending (shooting id [fetchOf]) 0 (shootMatches 0x8001000000000000 (shootBase (partOf (shooting id [fetchOf]) 0))) = true
    ∧ shootPending shooting 0 (shootMatches 0x8001000000000000 (shootBase (partOf shooting 0))) = false
    ∧ (∀ l ∈ (partOf shooting 0).llc, l.oldKeys = []) := by
  decide +kernel

theorem test_hyps_FrameCommands :
    (∀ f ∈ [16, 18, 19, 20, 21], frameIn (partOf framed 0) f = true) ∧ (frameOf framed 16).tlbref ≠ 0 ∧ (frameOf framed 18).state = 3
    ∧ ¬((frameOf framed 18).tlbref ≠ 0 ∨ (frameOf framed 18).wp = true ∨ (frameOf framed 18).save = true
      ∨ (frameOf framed 18).flashing = true ∨ frameBusy framed 0 18 = true)
    ∧ (frameOf framed 19).state = 0 ∧ (frameOf framed 20).state = 1 ∧ (frameOf framed 21).state = 2 ∧ (frameOf framed 21).tlbref = 0 := by
  decide +kernel

/-- Frame 16 qualifies to migrate, and the free ring of octant 0, at physical address 0, names frame 21. -/
def sMig : State := framed (fun e => { e with accr := 100, accl := 3, fills := [(0, 5)] }) (fun s => { onPart (fun p => { p with
  regs := [(⟨.llcMigctl, 0⟩, 0x8000000000000003), (⟨.llcMigring, 0⟩, 0x4000000000000000), (⟨.llcMigfi, 0⟩, 0x100000000)] ++ p.regs }) s
    with mem := [(0, 21)] })
/-- The same with a full completion ring, and with an empty free ring. -/
def sMigFull : State := onPart (fun p => setReg p .llcMigci 0 0x1000000000) sMig
def sMigEmpty : State := onPart (fun p => setReg p .llcMigfi 0 0) sMig
def scanning (wp : Bool) : State := framed (fun e => { e with fb := true, dirty := !wp, flashing := true, wp := wp }) (onPart (fun p => { p with
  regs := (⟨.llcWbctl, 0⟩, 0x8000000000000000) :: p.regs }))

theorem test_hyps_MigrationAndWriteBack :
    (∀ s ∈ [sMig, sMigFull, sMigEmpty], frameIn (partOf s 0) 16 = true
      ∧ (partOf s 0).tlb.find? (fun t => (t.asid, t.vpn) == (frameOf s 16).tag && t.pages == 1 && leafFrame t.leaf == 16)
        = some ⟨0, 1, 0, 1, leafTo 16, 8⟩
      ∧ busiestOct (partOf s 0) (frameOf s 16) = some 0 ∧ migrates (partOf s 0) (frameOf s 16) = true
      ∧ (frameOf s 16).passedOver = false ∧ framePinned s 0 16 = false ∧ (∀ g ∈ (partOf s 0).fetches, g.frame ≠ 16))
    ∧ migSize (partOf sMigFull 0) ≤ ringUsed (reg (partOf sMigFull 0) .llcMigci)
    ∧ (∀ s ∈ [sMig, sMigEmpty], ringUsed (reg (partOf s 0) .llcMigci) < migSize (partOf s 0))
    ∧ (takeMigFrame sMigEmpty 0 0 (migSize (partOf sMigEmpty 0))).1 = none
    ∧ (takeMigFrame sMig 0 0 (migSize (partOf sMig 0))).1 = some 21
    ∧ (reg (partOf (scanning false) 0) .llcWbctl).getLsbD 63 = true ∧ (frameOf (scanning false) 16).fb = true
    ∧ (frameOf (scanning false) 16).dirty = true ∧ (frameOf (scanning false) 16).wp = false
    ∧ (frameOf (scanning false) 16).flashing = true := by
  decide +kernel

/-! ## The matrix unit -/

/-- 40 names in order over the ten rows, and 2 units of scratchpad; s1 to s3 hold the operands. -/
def matrixy (a b c : DWord) (f : Warp → Warp := id) : State := nop (onWarp (fun w => f { setS (setS (setS w 1 a) 2 b) 3 c with
  names := (List.range 40).map (fun r => (r, .resident (r % 10))) }))
abbrev sM : State := matrixy 32768 0x80003FFF8 0xFF
abbrev xM : Ctx := xOf sM

theorem test_hyps_MatrixWords :
    ctxOf sM = some xM ∧ xM.sp.idx = 1 ∧ Settled xM.w (iNames (winRun xM.w 0 32 ++ [winName xM.w 33])) ∧ ctxActive xM ≠ 0
    ∧ Mapped xM.w (winName xM.w 33 :: winRun xM.w 0 32) ∧ (reloadNames sM xM (winName xM.w 33 :: winRun xM.w 0 32)).toBool
    ∧ (2 : BitVec 6).toNat + (1 : BitVec 3).toNat + 1 ≤ recAccs xM.l.record
    ∧ Settled xM.w [iS 1] ∧ (3 : BitVec 6).toNat < recAccs xM.l.record ∧ (sReg xM.w 1).toNat % 16 = 0
    ∧ (sReg xM.w 1).toNat + 32768 ≤ scratchBytes xM.l ∧ waitRuns sM xM [((sReg xM.w 1).toNat, 32768)] = .ok ()
    ∧ Settled xM.w [iS 1, iS 2] ∧ (sReg xM.w 1).toNat % 2 = 0 ∧ field (sReg xM.w 2) 32 16 ≠ 0
    ∧ field (sReg xM.w 2) 15 0 + field (sReg xM.w 2) 32 16 ≤ 65536
    ∧ (sReg xM.w 1).toNat + 2 * field (sReg xM.w 2) 32 16 ≤ scratchBytes xM.l
    ∧ (∀ e ∈ pieces 512 (field (sReg xM.w 2) 15 0) (field (sReg xM.w 2) 32 16),
      fget? (coreOf sM xM.c).scaleTag e = none)
    ∧ (∀ e ∈ scratchRead (clOf sM xM.c xM.w.launch) (sReg xM.w 1).toNat (2 * field (sReg xM.w 2) 32 16), e.2 = false)
    ∧ Settled xM.w [iS 4] ∧ field (sReg xM.w 4) 63 45 = 0 ∧ field (sReg xM.w 4) 21 0 = 0 ∧ field (sReg xM.w 4) 29 26 < 8
    ∧ field (sReg xM.w 4) 24 22 < 6 ∧ (∃ t u, LaneReady sM xM [] [] (winRun xM.w 0 8) [] [] t u) ∧ xM.sp.pfxa = none := by
  refine ⟨ctx_of (by decide +kernel), by decide +kernel, settled_all (by decide +kernel) _, by decide +kernel,
    mapped_of (by decide +kernel), by decide +kernel, by decide +kernel, settled_all (by decide +kernel) _, by decide +kernel,
    by decide +kernel, by decide +kernel, by decide +kernel, settled_all (by decide +kernel) _, by decide +kernel, by decide +kernel, by decide +kernel,
    by decide +kernel, by decide +kernel, by decide +kernel, settled_all (by decide +kernel) _, by decide +kernel,
    by decide +kernel, by decide +kernel, by decide +kernel, lane_ready (by decide +kernel), by decide +kernel⟩

/-- A warp whose route register 1 is valid, with BV in its epilogue. -/
def draining : State := matrixy 0 0 512 (fun w => { w with rte := w.rte.set 1 0x8000000000000000, epi := 1#64 <<< 44 })

theorem test_hyps_MatrixWords_drain :
    let s := draining
    let x := xOf s
    let slots := drainSlots x false 3
    let base := (sRun x.w 1 2).toNat
    let stride := field (sRun x.w 1 3) 31 0
    let runs := rowRuns base stride 1024 (32 * slots.length)
    let t := prepRuns s x.pn (some (x.c, x.l.id)) x.l.tenant .write runs
    ctxOf s = some x ∧ x.w.pend = [] ∧ slots ≠ [] ∧ slots.headD 0 + slots.length ≤ recAccs x.l.record
    ∧ rteValid (rteOf x.w 1) = true ∧ base % 16 = 0 ∧ stride % 16 = 0
    ∧ (∀ m, m < 32 * slots.length → base + m * stride + 1024 ≤ scratchBytes x.l)
    ∧ 1024 * field x.w.epi 43 32 + 1024 ≤ scratchBytes x.l ∧ elemSize (field x.w.epi 29 26) = 4
    ∧ (runs.all (fun r => accCause t x r.1 1 false .write == none)) = true
    ∧ (ownLines t x.pn x.c x.l.tenant [] ((List.range (32 * slots.length)).foldl (fun l m =>
      (pieces 128 (base + m * stride) 1024).foldl setAdd l) [])).toBool
    ∧ (ownLines s x.pn x.c x.l.tenant [] []).toBool
    ∧ (∀ u ∈ [s, t], keptBack u x true = false)
    ∧ (waitRuns t x [(1024 * field x.w.epi 43 32, 1024)]).toBool
    ∧ (waitRuns s x ((1024 * field x.w.epi 43 32, 1024) :: (List.range (32 * slots.length)).map (fun m => (base + m * stride, 1024)))).toBool := by
  decide +kernel

/-! ## Engines and queues -/

/-- A launch with a future that runs, by an operation that has passed its point of no return or has not. -/
def futureAt (passed done : Bool) : State := lastAt 0x100 (fun s => modCore (onWarp (fun w => setS w 1 (0x8000010000000001)) s) 0 (fun k => { k with
  futures := [(0, ⟨1, 1, 0, done, 0, if done then .done else .running, 0, false, false, 0, (0, 0, 0)⟩)],
  engines := if done then [] else [(5, ⟨.feedgo, 0, 1, 1, some 0, 5, passed, [], [], [], none⟩)] }))

theorem test_hyps_Futures :
    (∀ s ∈ [futureAt true false, futureAt false false, futureAt false true], ctxOf s = some (xOf s) ∧ (xOf s).w.pend = [] ∧ wordE (spanWord (xOf s).sp (xOf s).sp.idx) = true
      ∧ handleBad s (xOf s).pn (xOf s).w.launch (sReg (xOf s).w 1) = false)
    ∧ handleComplete (futureAt false true) (sReg (xOf (futureAt false true)).w 1) = true
    ∧ (∀ b ∈ [true, false], handleComplete (futureAt b false) (sReg (xOf (futureAt b false)).w 1) = false
      ∧ opOfHandle (futureAt b false) (sReg (xOf (futureAt b false)).w 1) = some (5, ⟨.feedgo, 0, 1, 1, some 0, 5, b, [], [], [], none⟩))
    ∧ handleBad (futureAt true false) 0 0 (sReg (xOf (futureAt true false)).w 2) = true
    ∧ (takeFuture nop 0 0 31).toBool = true := by
  decide +kernel

/-- s4 to s7 hold a descriptor of two rows, s8 an index list's offset, group slot 3 a group. -/
def tiling (src : DWord) (c : DWord) : State := grouped (onWarp (fun w => setS (setS (setS (setS (setS w 4 src) 5 0x40) 6 c) 7 0x0000002000000020) 8 0x100))

theorem test_hyps_TileOperations :
    let s := tiling 0x40 0x0000000200000020
    let x := xOf s
    let c := sRun x.w 4 2
    let e := sRun x.w 4 3
    let q : TileDesc := ⟨(sRun x.w 4 0).toNat, (sRun x.w 4 1).toNat, field c 47 32, field c 31 0, field e 31 0, field e 63 32, [], false⟩
    ctxOf s = some x ∧ x.w.pend = [] ∧ field c 63 48 = 0 ∧ q.rows ≠ 0 ∧ q.rowBytes % 16 = 0 ∧ 16 ≤ q.rowBytes ∧ q.rowBytes ≤ 65536
    ∧ q.src % 16 = 0 ∧ q.dst % 16 = 0 ∧ q.dstride % 16 = 0 ∧ q.sstride % 16 = 0
    ∧ q.src + rowsSpan q.rows q.rowBytes q.sstride ≤ scratchBytes x.l ∧ q.dst + rowsSpan q.rows q.rowBytes q.dstride ≤ scratchBytes x.l
    ∧ (sReg x.w 8).toNat % 4 = 0 ∧ (sReg x.w 8).toNat + 4 * q.rows ≤ scratchBytes x.l ∧ (groupOf x 3).toBool
    ∧ keptBack s x true = false ∧ (waitRuns s x (dstRuns q)).toBool ∧ (waitRuns s x (srcRuns q)).toBool
    ∧ (waitRuns s x (((sReg x.w 8).toNat, 4 * q.rows) :: dstRuns q)).toBool ∧ (waitRuns s x (((sReg x.w 8).toNat, 4 * q.rows) :: srcRuns q)).toBool
    ∧ (takeFuture s x.c x.w.launch 8).toBool
    ∧ (ownLines s x.pn x.c x.l.tenant (tileLines q) (tileDstLines q)).toBool
    ∧ (let y := xOf (tiling 0x40 0x0000000200000028)
      ctxOf (tiling 0x40 0x0000000200000028) = some y ∧ y.w.pend = [] ∧ field (sRun y.w 4 2) 31 0 % 16 ≠ 0)
    ∧ (let y := xOf (tiling 0x44 0x0000000200000020)
      ctxOf (tiling 0x44 0x0000000200000020) = some y ∧ y.w.pend = [] ∧ (sRun y.w 4 0).toNat % 16 ≠ 0) := by
  decide +kernel

/-- s4 and s5 hold addresses, s6 a fill of tile 3; the tile is INVALID, another's and VALID, or another's and FILLING. -/
def filling (t : BTile) : State := nop (fun s => modCore (onPart (fun p => { p with keys := [(2, ⟨true, 0, 0, 0, 0⟩)], regs := (⟨.parSave, 2⟩, 0xFFFFF00000000000) :: p.regs })
  (onWarp (fun w => setS (setS (setS w 4 0x80) 5 0) 6 0x0000008000000103) s)) 0 (fun k => setTile k 3 t))

theorem test_hyps_FillsAndQueues_tiles :
    ∀ e ∈ [(tileReset, false), ({ tileReset with state := .valid, tenant := 2 }, false), ({ tileReset with state := .filling, tenant := 2 }, true)],
      let s := filling e.1
      let x := xOf s
      let c := sRun x.w 4 2
      ctxOf s = some x ∧ x.w.pend = [] ∧ field c 31 12 = 0 ∧ c.getLsbD 7 = false ∧ field c 11 8 ∈ [1, 2, 3, 4, 5, 6, 8]
      ∧ (sRun x.w 4 0).toNat % 128 = 0 ∧ field c 63 32 % 128 = 0 ∧ (sRun x.w 4 1).toNat % 2 = 0
      ∧ ((fget? (partOf s x.pn).keys 2).any (fun k => k.loaded && k.launch == x.w.launch)) = true ∧ keptBack s x true = false ∧ (takeFuture s x.c x.w.launch 24).toBool
      ∧ (ownLines s x.pn x.c x.l.tenant (fillLines 0x80 0 128 1) []).toBool
      ∧ decide (claimsBefore s x.c 3 s.stamp = true ∨ (tileForeign (tileOf (coreOf s x.c) 3) x.l.tenant x.w.launch = true
        ∧ ((tileOf (coreOf s x.c) 3).state = .filling ∨ ownerWaits s x.c (tileOf (coreOf s x.c) 3).tenant s.stamp = true))) = e.2
      ∧ tileClaimable s x.c 3 = true := by
  decide +kernel

/-- Queue 1 has two entries of two granules; entry 0 is in a state; s4 and s5 hold a descriptor, s6 the entry's word. -/
def queued (e : QEntry) (f : Warp → Warp := id) (g : CoreLaunch → CoreLaunch := id) : State := nop (fun s => onCl (fun h => g { h with
  qd := h.qd.set 1 0x0000000200200000, qent := [(256, e)] })
  (onWarp (fun w => f (setS (setS (setS w 4 0x40) 5 0x0000001000000010) 6 0)) s))

theorem test_hyps_FillsAndQueues_queues :
    (let s := queued ⟨.empty, false⟩
      let x := xOf s
      let qd := qdOf s x.c x.w.launch 1
      let c := sRun x.w 4 1
      ctxOf s = some x ∧ x.w.pend = [] ∧ qdDepth qd ≠ 0 ∧ field c 31 0 ≠ 0 ∧ field c 31 0 % 16 = 0
      ∧ 16 * qdEsize qd % field c 31 0 = 0 ∧ field c 63 32 % 16 = 0
      ∧ (fillsWaiting s x.c x.w.launch 1).length < field (reg (partOf s x.pn) .schNakcfg) 7 0
      ∧ keptBack s x true = false ∧ (takeFuture s x.c x.w.launch 11).toBool ∧ (ownLines s x.pn x.c x.l.tenant [0] []).toBool
      ∧ ctxActive x ≠ 0 ∧ (qEntry s x.c x.w.launch 1 (qdHead qd)).popped = false
      ∧ (qEntry s x.c x.w.launch 1 0).state ≠ .full
      ∧ (takeFuture s x.c x.w.launch 10).toBool ∧ (clOf s x.c x.w.launch).feed = none ∧ (sRun x.w 4 0).toNat < 2 ^ 57)
    ∧ (let s := queued ⟨.full, true⟩ (fun w => { w with dead := 0xFFFFFFFF }) (fun h => { h with feed := some ⟨0, 0, 0, Vector.replicate 64 0, [], none, false, none⟩ })
      let x := xOf s
      ctxOf s = some x ∧ x.w.pend = [] ∧ ctxActive x = 0 ∧ field (sReg x.w 6) 39 32 < qdDepth (qdOf s x.c x.w.launch 1)
      ∧ (qEntry s x.c x.w.launch 1 0).state = .full ∧ (qEntry s x.c x.w.launch 1 0).popped = true
      ∧ (clOf s x.c x.w.launch).feed.isSome) := by
  decide +kernel

/-! ## Collectives -/

/-- The state in which a check has taken a future. -/
def tookFuture (s : State) (kind : Nat) : State := (okOf (takeFuture s 0 0 kind) (0, 0, s)).2.2

/-- Tree 0 is tenant 1's, at physical address 4096, scratchpad's first 64 bytes hold a work entry of 4096 bytes, counter 3
is tenant 1's, and the word is its span's last. -/
def collective (f : TreeAbort → TreeAbort := id) : State := lastAt 0x100 (fun s => { onPart (fun p => { p with
    regs := (⟨.netTreebase, 0⟩, 0x1000) :: p.regs, counters := [(3, (7, 1))], trees := [(0, f ⟨false, false, [], [], [], none⟩)] })
  (onCl (fun h => { h with scratch := [(0, 1), (17, 0x10)] }) (onWarp (fun w => { setS w 2 0x180 with
    rte := w.rte.set 0 0x8000000000FFFF00 }) s)) with mem := [(4096, 1), (4103, 0x80)] })

theorem test_hyps_CollectiveWords :
    let s := collective
    let x := xOf s
    let w := dwordsOf ((scratchRead (clOf s x.c x.w.launch) (sReg x.w 9).toNat 64).map (·.1)) 8
    ctxOf s = some x ∧ x.w.pend = [] ∧ wordE (spanWord x.sp x.sp.idx) = true ∧ (sReg x.w 9).toNat + 64 ≤ scratchBytes x.l
    ∧ (sReg x.w 9).toNat % 16 = 0 ∧ postBad w = false
    ∧ treeOk s (partOf s x.pn) (postTree w) x.l.tenant = true ∧ (postSrc w).toNat % 16 = 0 ∧ (postRoff w).toNat % 16 = 0
    ∧ rteValid (rteOf x.w (postRte w)) = true ∧ postArmv w = false ∧ postDonev w = false
    ∧ keptBack s x true = false ∧ keptBack s x false = false ∧ (takeFuture s x.c x.w.launch 14).toBool
    ∧ (ownLines (tookFuture s 14) x.pn x.c x.l.tenant (pieces 128 (postSrc w).toNat (postLen w)) []).toBool
    ∧ (takeFuture s x.c x.w.launch 15).toBool
    ∧ (counterOf (partOf s x.pn) 3).2 = x.l.tenant ∧ storesDone s x.pn x.c = true ∧ (counterOf (partOf s x.pn) 4).2 ≠ x.l.tenant
    ∧ treeOk s (partOf s x.pn) (field (sReg x.w 9) 7 0) x.l.tenant = true ∧ (sReg x.w 2).toNat % 16 = 0
    ∧ (sReg x.w 2).toNat + ceilDiv (treeSize s (partOf s x.pn) 0) 8 ≤ scratchBytes x.l ∧ (takeFuture s x.c x.w.launch 19).toBool
    ∧ (treeOf (partOf s x.pn) 0).bitmap = none
    ∧ (sReg x.w 2).toNat % 128 = 0 ∧ (takeFuture s x.c x.w.launch 20).toBool
    ∧ (ownLines (tookFuture s 20) x.pn x.c x.l.tenant [(sReg x.w 2).toNat / 128] []).toBool := by
  decide +kernel

/-- The same with the abort's bitmap, and a work entry that adds to counters of the tenant. -/
theorem test_hyps_CollectiveWords_bitmap :
    let s := collective (fun a => { a with bitmap := some [true] })
    let x := xOf s
    ctxOf s = some x ∧ x.w.pend = [] ∧ treeOk s (partOf s x.pn) (field (sReg x.w 9) 7 0) x.l.tenant = true
    ∧ (sReg x.w 2).toNat % 16 = 0 ∧ (sReg x.w 2).toNat + ceilDiv (treeSize s (partOf s x.pn) 0) 8 ≤ scratchBytes x.l
    ∧ keptBack s x true = false ∧ (takeFuture s x.c x.w.launch 19).toBool ∧ (treeOf (partOf s x.pn) 0).bitmap = some [true] := by
  decide +kernel

/-! ## Events of a core -/

/-- A warp between spans, at 0x80, on code. -/
def between (f : Warp → Warp := id) (g : State → State := id) : State := nop (fun s => g { onWarp (fun w => f { w with
  span := none, prim := { w.prim with pc := 0x80, state := .ready, unchecked := false } }) s with mem := code })

theorem test_hyps_WarpEvents_issue :
    let s := between
    let t := refreshAges s 0
    let w := (warpOf? t 0 0).getD (warpReset 0 0 0 0 0 (Vector.replicate 4 0))
    let u := prepBlock t 0 0 (launchOf t w.launch).id (askPath 0 0 false) (launchOf t w.launch).tenant (pathOf w false).pc.toNat
    let sp := nextSpan u 0 0 (launchOf t w.launch).tenant w false
    slotBusy s 0 0 = false ∧ (coreOf s 0).fenced = false ∧ (choosePath t 0 0).map (·.1) = some (0, false)
    ∧ warpOf? t 0 0 = some w ∧ partOfCore t 0 = 0 ∧ fetchCause u (partOf u 0) 0 (launchOf t w.launch).tenant 0x80 = none
    ∧ (pathOf w false).unchecked = false ∧ headerFaulty sp.hword (sp.header.toNat % 128 / 4) = false
    ∧ blockAway u (partOf u 0) 0 (askPath 0 0 false) (launchOf t w.launch).tenant 0x80 = false
    ∧ pathReady s 0 0 false = true := by
  decide +kernel

/-- The path stands in a block of a peer that has not answered. -/
def betweenFar : State := between (fun w => { w with prim := { w.prim with pc := 0x1080 } }) (fun s => { onPart (fun p => { p with
  regs := (⟨.netPeerbase, 0⟩, 0x2000) :: p.regs
  tlb := p.tlb ++ ([⟨1, 1, 1, 1, leafTo 5 ||| (1#64 <<< 52), 24⟩] : List TlbEntry) }) s with mem := [] })

theorem test_hyps_WarpEvents_away :
    let s := { betweenFar with mem := (8359, 0x80) :: code }
    let t := refreshAges s 0
    let w := (warpOf? t 0 0).getD (warpReset 0 0 0 0 0 (Vector.replicate 4 0))
    let u := prepBlock t 0 0 (launchOf t w.launch).id (askPath 0 0 false) (launchOf t w.launch).tenant (pathOf w false).pc.toNat
    slotBusy s 0 0 = false ∧ (coreOf s 0).fenced = false ∧ (choosePath t 0 0).map (·.1) = some (0, false)
    ∧ warpOf? t 0 0 = some w ∧ partOfCore t 0 = 0 ∧ fetchCause u (partOf u 0) 0 (launchOf t w.launch).tenant 0x1080 = none
    ∧ (pathOf w false).unchecked = false
    ∧ blockAway u (partOf u 0) 0 (askPath 0 0 false) (launchOf t w.launch).tenant (pathOf w false).pc.toNat = true := by
  decide +kernel

/-- Three long-latency operations of a warp: a value, a VPOP with its entry, a QPOP with a FULL entry. -/
def landingOps : State := between (fun w => { w with ops := [⟨3, false, none, true, false, .value, [⟨2, 0xF, zeroRow, 0⟩], [(5, 9)], [(1, 0)], 0x84, none⟩,
    ⟨4, false, none, true, false, .vpop [0, 1] 0xF, [], [], [], 0x84, none⟩, ⟨6, false, none, true, false, .qpop 3 1 0, [], [], [], 0x84, none⟩] })
  (fun s => modCore (onCl (fun h => { h with qd := h.qd.set 1 0x0000000200200000, qent := [(256, ⟨.full, true⟩)] }) s) 0 (fun k => { k with
    drainQ := [⟨0, 0, List.replicate 256 5, []⟩] }))

theorem test_hyps_WarpEvents_landing :
    let s := landingOps
    ∃ w o₁ o₂ o₃, warpOf? s 0 0 = some w ∧ longOf w 3 = some o₁ ∧ longOf w 4 = some o₂ ∧ longOf w 6 = some o₃
    ∧ o₁.kind = .value ∧ (∀ l ∈ o₁.lines, lineFetching (partOf s (partOfCore s 0)) l.1 l.2 = false)
    ∧ o₂.kind = .vpop [0, 1] 0xF ∧ popsBefore w o₂ = false ∧ o₃.kind = .qpop 3 1 0
    ∧ (coreOf s 0).drainQ.find? (fun e => e.warp == 0 && e.launch == w.launch) = some ⟨0, 0, List.replicate 256 5, []⟩
    ∧ (qEntry s 0 w.launch 1 0).state = .full ∧ o₁.kill = none ∧ o₂.kill = none ∧ o₃.kill = none := by
  refine ⟨(warpOf? landingOps 0 0).getD (warpReset 0 0 0 0 0 (Vector.replicate 4 0)), ?_⟩
  refine ⟨_, _, _, by decide +kernel, rfl, rfl, rfl, ?_⟩
  decide +kernel

/-- A warp that has arrived at an MMA: names v0 to v31 for A, the format word in v0, tile 0 VALID. -/
def arrivedAt (gang : DWord) (w : Warp) : Warp := { w with
  gang := gang
  names := (List.range 40).map (fun r => (r, .resident (r % 10)))
  arrival := some ⟨0, false, 0xFFFFFFFF, 1, List.range 32, 0, 0x84, none⟩
  prim := { w.prim with state := .waiting } }
def ganged (gang : DWord) : State := between (arrivedAt gang) (fun s => modCore s 0 (fun k =>
  setTile (setRow k 0 ⟨mkRow (fun _ => 0x400011), 1, 1, 0⟩) 0 { tileReset with state := .valid, tenant := 1, fmt := 1 }))
def members (ms : List (Nat × Option Warp)) : List Member :=
  ms.map (fun m => ⟨m.1, m.2.bind (fun v => v.arrival.map (fun a => (v, a)))⟩)

theorem test_hyps_WarpEvents_gang :
    (let s := ganged 0
      let w := (warpOf? s 0 0).getD (warpReset 0 0 0 0 0 (Vector.replicate 4 0))
      let ms := (gangMembers s 0 0 w).toOption.getD []
      let fw := (referenceWord s 0 (members ms)).getD 0
      warpOf? s 0 0 = some w ∧ w.arrival.isSome ∧ (gangMembers s 0 0 w).toBool ∧ (ms.all (fun m => m.2.all (fun v => v.arrival.isSome))) = true
      ∧ referenceWord s 0 (members ms) = some fw ∧ tileHolds s 0 (fwTile fw) (members ms) = false
      ∧ (gangCheck s 0 w.launch (members ms) 1).isNone
      ∧ (tileCheck (restoreTile s 0 (fwTile fw) (launchOf s w.launch).tenant w.launch) 0 w.launch fw).isNone)
    ∧ (let s := ganged 0x2000000140
      let w := (warpOf? s 0 0).getD (warpReset 0 0 0 0 0 (Vector.replicate 4 0))
      warpOf? s 0 0 = some w ∧ w.arrival.isSome ∧ (gangMembers s 0 0 w).toBool = false)
    -- a fill of the tile is under way
    ∧ (let s := modCore (ganged 0) 0 (fun k => setTile k 0 { tileReset with state := .filling, tenant := 1, fmt := 1 })
      let w := (warpOf? s 0 0).getD (warpReset 0 0 0 0 0 (Vector.replicate 4 0))
      let ms := (gangMembers s 0 0 w).toOption.getD []
      let fw := (referenceWord s 0 (members ms)).getD 0
      warpOf? s 0 0 = some w ∧ w.arrival.isSome ∧ (gangMembers s 0 0 w).toBool ∧ (ms.all (fun m => m.2.all (fun v => v.arrival.isSome))) = true
      ∧ referenceWord s 0 (members ms) = some fw ∧ tileHolds s 0 (fwTile fw) (members ms) = true) := by
  decide +kernel

/-- A warp at an MMA of types F16 and INT8, with a format word of its own, whose A rows are zero but for that of the word. -/
def ganged' (fmt ty : Nat) : State := between (arrivedAt 0) (fun s => modCore s 0 (fun k =>
  setTile (setRow k 0 ⟨mkRow (fun _ => BitVec.ofNat 32 fmt), 1, 1, 0⟩) 0 { tileReset with state := .valid, tenant := 1, fmt := ty }))

/-- Nothing marks the rows of the MMA's names, its bytes but those of the format word's row are zero, and no byte is a marker. -/
theorem test_hyps_MatrixProducts :
    ∀ e ∈ [(0x400011, 1, false), (0x400055, 5, true)],
      let s := ganged' e.1 e.2.1
      let w := (warpOf? s 0 0).getD (warpReset 0 0 0 0 0 (Vector.replicate 4 0))
      let ms := (gangMembers s 0 0 w).toOption.getD []
      let fw := (referenceWord s 0 (members ms)).getD 0
      let u := restoreTile s 0 (fwTile fw) (launchOf s w.launch).tenant w.launch
      warpOf? s 0 0 = some w ∧ w.arrival.isSome ∧ (gangMembers s 0 0 w).toBool ∧ (ms.all (fun m => m.2.all (fun v => v.arrival.isSome))) = true
      ∧ referenceWord s 0 (members ms) = some fw ∧ tileHolds s 0 (fwTile fw) (members ms) = false
      ∧ (gangCheck s 0 w.launch (members ms) 1).isNone ∧ (tileCheck u 0 w.launch fw).isNone ∧ fwInt fw = e.2.2
      ∧ (∀ m ∈ members ms, ∀ b ∈ m.w, ∀ k ∈ b.2.fName :: b.2.aNames, ((match nameOf b.1 k with
        | .resident r => decide (r < 24576) && (rowOf (coreOf u 0) r).poison &&& b.2.active == 0
        | _ => false) = true))
      ∧ (clOf u 0 w.launch).accs = [] ∧ (tileOf (coreOf u 0) (fwTile fw)).bytes = []
      ∧ (members ms).length = 1 ∧ (∀ m ∈ members ms, m.w.any (fun b => b.2.aNames.length == 32 && b.2.aNames.getD 1 0 == 1) = true)
      ∧ nameOf w 1 = .resident 1 ∧ (rowOf (coreOf u 0) 1).words = zeroRow ∧ fwAse fw = false ∧ fwBse fw = false ∧ fwZf fw = true := by
  decide +kernel

/-- An exact zero is rounded to itself, so that the blocks of zeros are summed to zero. -/
theorem test_rne_zero : Rne 0 0 := by
  refine ⟨(0, Flags.none), ⟨fun _ => rfl, fun h => absurd rfl h⟩, by decide, ?_⟩
  have : codeNum .f32 0 = 0 := by decide +kernel
  rw [this, Rat.cast_zero]

theorem test_tree_zero (n i : Nat) : TreeRne (fun _ => 0) n i 0 := by
  induction n generalizing i with
  | zero => rfl
  | succ n ih => exact ⟨0, 0, ih _, ih _, by rw [add_zero]; exact test_rne_zero⟩

theorem test_hyps_MatrixProducts_blocks (n : Nat) : BlocksRne (fun _ => 0) (fun _ => 0) (fun _ => 1) (fun _ => 1) n (fun _ => 0) := by
  intro i _
  refine ⟨0, 0, ?_, ?_, ?_⟩
  · have h : (fun k : Nat => ((fun _ => 0 : Nat → ℝ) (32 * i + k)) * ((fun _ => 0 : Nat → ℝ) (32 * i + k))) = fun _ => 0 := by
      funext k
      exact mul_zero _
    rw [h]
    exact test_tree_zero 5 0
  · rw [zero_mul]
    exact test_rne_zero
  · rw [add_zero]
    exact test_rne_zero

/-- The numbers of the zero codes, and an element of a NaN's code. -/
theorem test_hyps_MatrixProducts_codes : codeNum .f16 0 = 0 ∧ codeNan .f16 0 = false ∧ codeInf .f16 0 = false
    ∧ codeNan .f16 (elemCode 1 (fun _ => 0x7F) 3) = true ∧ (∀ q, q < 128 → ((0 : Byte).toNat % 16 ≠ 8 ∧ (0 : Byte).toNat / 16 ≠ 8))
    ∧ codeInf .f32 0 = false ∧ codeNan .f32 0 = false := by
  decide +kernel

/-- A launch that is asked to stop; its warp at a safe point, or waiting for a future, or with a deferred trap. -/
def stopping (r : StopReq) (f : Warp → Warp) : State := between f (fun s => modLaunch s 0 (fun l => { l with status := .halting, stop := some r }))

theorem test_hyps_WarpEvents_stop :
    (∀ e ∈ [(stopping { stopNone with shake := true } (fun w => { w with prim := { w.prim with atSafePoint := some 3 } }), false, 3),
        (stopping { stopNone with freeze := true } (fun w => { w with prim := { w.prim with wait := .counter 3 5 } }), false, 0xFFFFFFFF),
        (stopping { stopNone with overdue := true, victim := true } id, false, 0xFFFFFFFF), (stopping { stopNone with overdue := true, victim := true } id, true, 0)],
      let w := (warpOf? e.1 0 0).getD (warpReset 0 0 0 0 0 (Vector.replicate 4 0))
      let r := (launchOf e.1 w.launch).stop.getD stopNone
      warpOf? e.1 0 0 = some w ∧ (launchOf e.1 w.launch).stop = some r ∧ (launchOf e.1 w.launch).status = .halting ∧ (pathOf w e.2.1).stopped = none ∧ w.deferred = none
      ∧ (w.span.map (·.sec)) ≠ some e.2.1
      ∧ ((pathOf w e.2.1).state = .vacant ∧ e.2.2 = 0
        ∨ (pathOf w e.2.1).state ≠ .vacant ∧ (pathOf w e.2.1).atSafePoint = some e.2.2
        ∨ (pathOf w e.2.1).state ≠ .vacant ∧ (pathOf w e.2.1).atSafePoint = none ∧ r.firm = true
          ∧ (r.overdue = true ∨ pathWaits e.1 0 0 w e.2.1 = true) ∧ e.2.2 = (0xFFFFFFFF : Word)))
    ∧ (let s := between (fun w => { w with deferred := some (⟨0x0402, 5⟩, false) })
      ∃ w, warpOf? s 0 0 = some w ∧ w.deferred = some (⟨0x0402, 5⟩, false) ∧ w.span = none) := by
  refine ⟨by decide +kernel, (warpOf? (between (fun w => { w with deferred := some (⟨0x0402, 5⟩, false) })) 0 0).getD
    (warpReset 0 0 0 0 0 (Vector.replicate 4 0)), ?_⟩
  decide +kernel

/-- With its second path stopped too the warp has stopped, and so have the launch's warps on the core; with it not asked
yet they have not. -/
theorem test_hyps_WarpEvents_discard : ∀ b ∈ [true, false],
    let s := stopping { stopNone with shake := true } (fun w => { w with
      prim := { w.prim with atSafePoint := some 3 }, seco := { w.seco with state := .ready, stopped := if b then some 0 else none } })
    let w := (warpOf? s 0 0).getD (warpReset 0 0 0 0 0 (Vector.replicate 4 0))
    let v := modPath w false (fun p => { p with stopped := some 3 })
    let t := setWarp s 0 0 { v with arrival := v.arrival.filter (fun a => a.sec != false) }
    warpOf? s 0 0 = some w ∧ (pathOf w false).stopped = none ∧ (pathOf w false).atSafePoint = some 3
    ∧ (warpsOn t 0 w.launch).all (fun e => warpStopped e.2) = b := by
  decide +kernel

end Sys2Proof.Tests
end

