-- ==== Sys2Proof/Tests/Witness4.lean ====
section
/-! SUPPORT. States and operands that meet the hypotheses of the statements about engine operations, feed programs, posted
entries, streams and the census. -/

-- One theorem after another: the kernel evaluates each, and many at once need many threads.
set_option Elab.async false

namespace Sys2Proof.Tests

open Sys2Proof Sys2Proof.Machine

/-! ## Engine operations -/

/-- Operation 5 of core 0, of launch 0. -/
def opOf (kind : EngineKind) (done : List Nat) : EngineOp := ⟨kind, 0, 1, 1, some 0, 5, false, done, [], [], none⟩
def engine (kind : EngineKind) (done : List Nat := []) (f : State → State := id) : State := nop (fun s => f (modCore s 0 (fun k => { k with
  futures := [(0, ⟨1, 1, 0, false, 0, .running, 0, false, false, 0, (0, 0, 0)⟩)], engines := [(5, opOf kind done)] })))

/-- Two rows of 32 bytes from offset or address 64 to offset or address 128. -/
def rows2 : TileDesc := ⟨64, 128, 2, 32, 32, 32, [], false⟩

theorem test_hyps_EngineEvents_tile :
    (let s := engine (.tile rows2 (.scratch [0]) .memory) [] atHome
      let op := opOf (.tile rows2 (.scratch [0]) .memory) []
      let s₂ := prepRange s (partOfCore s 0) (some (0, (launchOf s op.launch).id)) op.tenant .write 128 1
      fget? (coreOf s 0).engines 5 = some op ∧ op.failed = none ∧ setMem (opUnits 0 op) 1 = true ∧ setMem op.done 1 = false
      ∧ opPlaces 0 op = some (rows2, .scratch [0], .memory)
      ∧ runFault s₂ (partOfCore s 0) op.tenant 128 1 0 .write = none
      ∧ opLineHeld (opTouch s₂ (partOfCore s 0) 0 op [] [1]) (partOfCore s 0) 0 op 1 true = false)
    ∧ (let s := engine (.tile rows2 .memory (.scratch [0])) [] atHome
      let op := opOf (.tile rows2 .memory (.scratch [0])) []
      let s₁ := prepRuns s (partOfCore s 0) (some (0, (launchOf s op.launch).id)) op.tenant .read [(0, 1)]
      fget? (coreOf s 0).engines 5 = some op ∧ setMem (opUnits 0 op) (256 * 8) = true ∧ setMem op.done (256 * 8) = false
      ∧ opPlaces 0 op = some (rows2, .memory, .scratch [0])
      ∧ (coveredBytes rows2 (16 * 8) 16).foldl (fun l e => setAdd l ((tileSrc rows2 e.2.1 + e.2.2) / 128)) [] = [0]
      ∧ runFault s₁ (partOfCore s 0) op.tenant 0 1 0 .read = none
      ∧ opLineHeld (opTouch s₁ (partOfCore s 0) 0 op [0] []) (partOfCore s 0) 0 op 0 false = false) := by
  decide +kernel

/-- A fill of tile 3 by operation 5, and a fill of queue 1's entry 0 that has reached it. -/
def fill3 : EngineKind := .fill 3 0 0 0 1 none false
def filled (done : List Nat) : State := engine fill3 done (fun s => atHome (modCore s 0 (fun k =>
  setTile k 3 { tileReset with state := .filling, tenant := 1, fills := [5] })))

theorem test_hyps_EngineEvents_fill :
    let s := filled []
    let op := opOf fill3 []
    let pn := partOfCore s 0
    let s₂ := prepRange s pn (some (0, (launchOf s op.launch).id)) op.tenant .read 0 128
    let s₃ := opTouch s₂ pn 0 op [0] []
    let op' := keepLines s₃ pn op [0]
    fget? (coreOf s 0).engines 5 = some op ∧ setMem (opUnits 0 op) 0 = true ∧ setMem op.done 0 = false ∧ (fillRun 0 0 0 0).1 = 0
    ∧ (tileOf (coreOf s 0) 3).fills.head? = some 5 ∧ fillFault s₂ pn op none 0 (fillRun 0 0 0 0).2 = none
    ∧ pieces 128 0 128 = [0] ∧ opLineHeld s₃ pn 0 op 0 false = false
    ∧ (((fillLine none 0 (opLine (dropAnswers s₃ pn (askOp op'.order)) pn op' 0)).drop 0).take 128).all
      (fun b => !b.2) = true := by
  decide +kernel

theorem test_hyps_EngineEvents_complete :
    (let s := engine (.tile rows2 .memory .memory) [1]
      let op : EngineOp := { opOf (.tile rows2 .memory .memory) [1] with read := [(0, []), (1, [])] }
      allWritten 0 op = true ∧ opVisible s (partOfCore s 0) 0 op rows2 .memory = true ∧ unreadFault s (partOfCore s 0) op rows2 .memory = none)
    ∧ allWritten 0 (opOf fill3 (List.range 256)) = true
    ∧ (let op := opOf (.queueFill 1 0 ⟨64, 0, 2, 16, 16, 16, [], false⟩ true) [0, 256]
      fget? (coreOf (engine op.kind op.done) 0).engines 5 = some op ∧ op.failed = none ∧ allWritten 0 op = true) := by
  decide +kernel

/-- A drain with no row left, and one with a row of BF16 elements for a destination. -/
def drain (dest : Nat) (rows : List DrainRow) : EngineKind := .drain 0 3 false dest 256 512 0 rows
def drainRow : DrainRow := ⟨0, List.replicate 512 7, []⟩
def drainTo (dest : Nat) (rows : List DrainRow) : State := engine (drain dest rows) [] (onWarp (fun w => { w with
  ops := [⟨3, false, none, true, false, .drain, [], [], [], 0x84, none⟩] }))

theorem test_hyps_EngineEvents_drain :
    fget? (coreOf (drainTo 1 []) 0).engines 5 = some (opOf (drain 1 []) [])
    ∧ drainArrived (drainTo 1 []) (partOfCore (drainTo 1 []) 0) 0 5 (opOf (drain 1 []) []) = true
    ∧ (∀ d ∈ [0, 1, 2, 3], fget? (coreOf (drainTo d [drainRow]) 0).engines 5 = some (opOf (drain d [drainRow]) []))
    ∧ ((launchWarp? (drainTo 0 [drainRow]) 0 0 0).bind (fun w => longOf w 3)).isSome
    ∧ queueBehind (coreOf (drainTo 0 [drainRow]) 0) 5 = false ∧ (coreOf (drainTo 0 [drainRow]) 0).drainQ.length < 64
    ∧ (∀ l ∈ pieces 128 256 512, opLineHeld (drainTo 1 [drainRow]) (partOfCore (drainTo 1 [drainRow]) 0) 0 (opOf (drain 1 [drainRow]) []) l true = false)
    ∧ drainRow.poison = []
    ∧ peerFenced (drainTo 3 [drainRow]) (partOf (drainTo 3 [drainRow]) 0) (routeRank (partOf (drainTo 3 [drainRow]) 0) 0) = false := by
  decide +kernel

/-! ## Feed programs and posted entries -/

/-- A feed program at 0x80, whose span is `w`; at a page that is not mapped; and one that runs on after FWAIT's future has
completed. -/
def feedAt (pc : PC) (w : Nat) (wait : Option DWord := none) (g : State → State := id) (r : Vector DWord 64 := Vector.replicate 64 0) :
    State := nop (fun s => g { onCl (fun h => { h with
  feed := some ⟨5, pc, 0x80, r, [], wait, false, none⟩ }) (modCore s 0 (fun k => { k with engines := [(5, opOf .feedgo [])] }))
  with mem := [(65665, 0xF0), (65666, 0x0F), (65668, BitVec.ofNat 8 w), (65669, BitVec.ofNat 8 (w / 2 ^ 8)),
    (65670, BitVec.ofNat 8 (w / 2 ^ 16)), (65671, BitVec.ofNat 8 (w / 2 ^ 24))].filter (fun e => e.2 != 0) })
/-- A feed program whose QFEED finds no room in its queue's window (R312). -/
def feedFull : State := feedAt 0x80 (((encode true false (.qfeed 5 0 1)).getD 0 0).toNat) none
  (fun s => onPart (fun p => setReg p .schNakcfg 0 0) (onCl (fun h => { h with qd := h.qd.set 1 0x0000000200200000 }) s))
  ((Vector.replicate 64 0).set 1 0x0000001000000010)

/-- The state in which a feed program's next block is looked at, and the span that it starts. -/
def feedRoom (s : State) (f : Feed) : State := prepBlock s 0 0 (launchOf s 0).id (askOp f.op) (launchOf s 0).tenant f.pc.toNat
def feedSpan (s : State) (f : Feed) : Span := nextSpan (feedRoom s f) 0 0 (launchOf s 0).tenant
  { warpReset 0 0 f.pc 0 0 (Vector.replicate 4 0) with s := f.s, tags := f.tags } false

/-- How the words of a feed program's span end from a state on: 0 go on, 1 exit, 2 fail, 3 wait. -/
def feedWords (s z : State) (f : Feed) (sp : Span) : Nat :=
  match runFeed 0 32 (modLaunch (modOp (setWarp { z with cur := (0, feedSlot) } 0 feedSlot { warpReset 0 0 f.pc 0 0 (Vector.replicate 4 0) with
    s := f.s, tags := f.tags, span := some sp, tvec := f.pc }) 0 f.op (fun e => { e with passed := true })) 0 (fun v => { v with term := none })) with
  | .go _ _ => 0
  | .exited _ => 1
  | .failed _ _ _ => 2
  | .waits _ _ => if (launchOf s 0).status = .running then 3 else 4
  | .stuck => 5

/-- How a feed program's next span ends, where it starts. -/
def feedEnd (s : State) : Option Nat :=
  match (clOf s 0 0).feed with
  | none => none
  | some f =>
    let v := launchOf s 0
    let s₁ := feedRoom s f
    let sp := feedSpan s f
    if f.span = none ∧ v.status = .running ∧ v.stop = none ∧ fetchCause s₁ (partOf s₁ 0) 0 v.tenant f.pc.toNat = none ∧ f.pc.toNat % 4 = 0
      ∧ blockAway s₁ (partOf s₁ 0) 0 (askOp f.op) v.tenant f.pc.toNat = false
      ∧ walkReaches sp.words (f.pc.toNat % 128 / 4) 33 0 = true ∧ headerFaulty sp.hword (f.pc.toNat % 128 / 4) = false
      ∧ tagsHold (dropAnswers s₁ 0 (askOp f.op)) { warpReset 0 0 f.pc 0 0 (Vector.replicate 4 0) with s := f.s, tags := f.tags } sp 1 = false then
      some (feedWords s (dropAnswers s₁ 0 (askOp f.op)) f sp)
    else none

/-- The same program before the word that waits. -/
def feedParked : State := match (clOf feedFull 0 0).feed with
  | some f => onCl (fun h => { h with feed := some { f with span := some (feedSpan feedFull f) } }) feedFull
  | none => feedFull

/-- A feed program in a block of a peer that has not answered. -/
def feedFar : State := { feedAt 0x1080 0 none (onPart (fun p => { p with
  regs := (⟨.netPeerbase, 0⟩, 0x2000) :: p.regs
  tlb := p.tlb ++ ([⟨1, 1, 1, 1, leafTo 5 ||| (1#64 <<< 52), 24⟩] : List TlbEntry) })) with mem := [(8359, 0x80)] }

theorem test_hyps_FeedsAndPosts_feed :
    feedEnd (feedAt 0x80 0xA5400000) = some 0 ∧ feedEnd (feedAt 0x80 0xA5200000) = some 1 ∧ feedEnd (feedAt 0x80 0x80050000) = some 2
    ∧ feedEnd feedFull = some 3
    ∧ (clOf feedParked 0 0).feed.any (fun f => f.span.any (fun sp => feedWords feedParked feedParked f sp == 3)) = true
    ∧ handleComplete (feedAt 0x80 0xA5400000 (some 0x8000000000000005)) 0x8000000000000005 = true
    ∧ (let s := feedAt 0x3000 0
      (clOf s 0 0).feed.any (fun f => f.span.isNone && (fetchCause (feedRoom s f) (partOf (feedRoom s f) 0) 0 1 0x3000).isSome) = true)
    ∧ (let s := feedFar
      (clOf s 0 0).feed.any (fun f => (fetchCause (feedRoom s f) (partOf (feedRoom s f) 0) 0 1 0x1080).isNone
        && blockAway (feedRoom s f) (partOf (feedRoom s f) 0) 0 (askOp f.op) 1 0x1080) = true) := by
  decide +kernel

/-- An entry posted on tree 0 for 4096 bytes, due at 100, to a rank. -/
def posted (src : DWord) : Posted := ⟨[1, src, 0x1000, 0, 0, 0, 0, 0], 0x8000000000FFFF00, some 100, false, 5, false, 0⟩
def posting (q : Posted) (f : TreeAbort → TreeAbort := id) (g : State → State := id) : State :=
  engine (.post q) [] (fun s => g { onPart (fun p => { p with
    regs := (⟨.netTreebase, 0⟩, 0x1000) :: (⟨.netPeerbase, 0⟩, 0x2000) :: p.regs
    trees := [(0, f ⟨false, false, [], [], [], none⟩)] }) s with mem := [(4096, 1), (4103, 0x80)] })
def fencedPeer (s : State) : State := { s with mem := [(4096, 1), (4103, 0x80), (8199, 0xC0)] }

theorem test_hyps_FeedsAndPosts_post :
    (∀ s ∈ [posting (posted 0x40), posting (posted 0x40) (fun a => { a with aborted := true }), posting (posted 0x40) id fencedPeer,
        posting (posted 0x2000), posting (posted 0x40) id (fun s => { s with poison := [4100] })],
      ∃ q, fget? (coreOf s 0).engines 5 = some (opOf (.post q) []) ∧ q.fired = false ∧ mayFire s (partOfCore s 0) q 100 = true)
    ∧ (treeOf (partOf (posting (posted 0x40)) 0) 0).aborted = false ∧ peerFenced (posting (posted 0x40)) (partOf (posting (posted 0x40)) 0) 0 = false
    ∧ (treeOf (partOf (posting (posted 0x40) (fun a => { a with aborted := true })) 0) 0).aborted = true
    ∧ peerFenced (posting (posted 0x40) id fencedPeer) (partOf (posting (posted 0x40) id fencedPeer) 0) 0 = true
    ∧ (runFault (prepRange (posting (posted 0x2000)) 0 (some (0, 0)) 1 .read 0x2000 4096) 0 1 0x2000 4096 0 .read).isSome := by
  refine ⟨?_, by decide +kernel⟩
  intro s hs
  simp only [List.mem_cons, List.not_mem_nil, or_false] at hs
  rcases hs with rfl | rfl | rfl | rfl | rfl
  · exact ⟨posted 0x40, by decide +kernel⟩
  · exact ⟨posted 0x40, by decide +kernel⟩
  · exact ⟨posted 0x40, by decide +kernel⟩
  · exact ⟨posted 0x2000, by decide +kernel⟩
  · exact ⟨posted 0x40, by decide +kernel⟩

/-- A source of one page, whose lines are at home, clean or with a mark. -/
theorem test_hyps_FeedsAndPosts_source : ∀ e ∈ [([], true), ([4100], false)],
    let s := posting (posted 0) id (fun s => onPart (fun p => { p with
      llc := (List.range 32).map (fun l => ⟨homeOf p (128 * l), 1, l, 16, leafTo 16, false, []⟩) }) { s with poison := e.1 })
    let op := opOf (.post (posted 0)) []
    let s₁ := prepRange s 0 (some (0, (launchOf s op.launch).id)) op.tenant .read 0 4096
    let s₂ := opTouch s₁ 0 0 op (pieces 128 0 4096) []
    runFault s₁ 0 op.tenant 0 4096 0 .read = none ∧ (pieces 128 0 4096).all (fun l => !opLineHeld s₂ 0 0 op l false) = true
    ∧ (((pieces 128 0 4096).flatMap (fun l => opLine s₂ 0 op l)).all (fun b => !b.2)) = e.2 := by
  decide +kernel

end Sys2Proof.Tests
end

