-- ==== Sys2Proof/Tests/Witness5.lean ====
section
/-! SUPPORT. States and operands that meet the hypotheses of the statements about streams and the census. -/

-- One theorem after another: the kernel evaluates each, and many at once need many threads.
set_option Elab.async false

namespace Sys2Proof.Tests

open Sys2Proof Sys2Proof.Machine

/-! ## Streams -/

/-- Rank 3 is a peer of partition 0 whose launches are accepted; window 0 is tenant 1's first 4096 bytes; tenant 1 has a
launch table entry with a limit of launches in a millisecond and 4 warps. -/
def netted (limit : Byte) (f : Partition → Partition := id) (g : State → State := id) : State := nop (fun s => g { onPart (fun p => f { p with
    regs := (⟨.netTreebase, 0⟩, 0x1000) :: (⟨.netPeerbase, 0⟩, 0x2000) :: (⟨.netRwinbase, 0⟩, 0x3000) :: p.regs }) s with
  mem := ([(4096, 1), (4103, 0x80), (8295, 0xA0), (12294, 1), (12295, 0x80), (12305, 0x10), (69664, 0x80), (69673, 0x10),
    (69680, limit), (69684, 4), (69688, 1)] : List Host.Cell).filter (fun e => e.2 != 0) })

/-- A packet of rank 3. -/
def pk (seq : BitVec 32 := 0) (src : Nat := 3) (kind : Nat := 0) : SctPacket :=
  ⟨1, .data, false, true, false, false, src, 0, seq, 0, 64, 0, kind, 0, 0, 0, List.replicate 16 7⟩

/-- What a DATA packet meets: taken, refused for now, refused for good. -/
def meets (s : State) (k : SctPacket) : Nat := match takeData s 0 k with
  | .done _ => 0
  | .busy _ => 1
  | .refused _ _ => 2

/-- The same while the write-back scanner holds the frame, and while the partition migrates. -/
def scanned : State := netted 4 id (fun s => { s with frames := [(16, { frameReset with state := 3, tenant := 1, tlbref := 1, wp := true })] })
def moving : State := netted 4 (fun p => { p with cmd := some ⟨4, .stream, 0, 0, 3, none, none⟩ })

theorem test_hyps_StreamPackets :
    ({ pk with ver := 2 } : SctPacket).ver ≠ 1 ∧ (pk).ver = 1
    ∧ ¬(16 ≤ ({ pk with payload := [] } : SctPacket).payload.length)
    ∧ fromPeer (netted 4) (partOf (netted 4) 0) (pk 0 5) = false ∧ fromPeer (netted 4) (partOf (netted 4) 0) pk = true
    ∧ (pk).seq = (streamIn (partOf (netted 4) 0) (inKey pk)).expect ∧ migrating (partOf (netted 4) 0) = false
    ∧ meets (netted 4) pk = 0 ∧ meets scanned pk = 1 ∧ fromPeer scanned (partOf scanned 0) pk = true
    ∧ migrating (partOf moving 0) = true ∧ fromPeer moving (partOf moving 0) pk = true ∧ (pk).seq = (streamIn (partOf moving 0) (inKey pk)).expect
    ∧ lenOk pk = true ∧ (pk).type = .data ∧ (pk).payload.length = 16
    ∧ meets (netted 4) (pk 0 3 5) = 2 ∧ (partOf (netted 4) 0).restart = none ∧ peerLok (netted 4) (partOf (netted 4) 0) 3 = true
    ∧ (List.replicate 136 (0 : Byte)).length = 136 ∧ leNat ((List.replicate 136 (0 : Byte)).take 8) < 256
    ∧ (treeRanks (netted 4) (partOf (netted 4) 0) 0).head? = some (ownRank (partOf (netted 4) 0))
    ∧ ((pk 0xFFFFFFFF).seq - (streamIn (partOf (netted 4) 0) (inKey pk)).expect).toNat ≥ 2 ^ 31
    ∧ (pk 1).seq ≠ (streamIn (partOf (netted 4) 0) (inKey pk)).expect ∧ ((pk 1).seq - (streamIn (partOf (netted 4) 0) (inKey pk)).expect).toNat < 2 ^ 31
    ∧ (streamIn (partOf (netted 4) 0) (inKey pk)).refusing = false
    ∧ (streamIn (partOf (netted 4 (fun p => { p with inn := [(24, ⟨0, true, [], false⟩)] })) 0) (inKey pk)).refusing = true := by
  decide +kernel

/-- The partition's rank is 2, while its tree's root is rank 0. -/
theorem test_hyps_StreamPackets_window :
    (treeRanks (netted 4) (partOf (netted 4) 0) 0).head?
      ≠ some (ownRank (partOf (netted 4 (fun p => { p with regs := (⟨.netRank, 0⟩, 2) :: p.regs })) 0))
    ∧ (∀ b ∈ [(false, true, 0), (true, true, 0), (true, false, 0), (false, true, 2)], let s := netted 4 (fun p => { p with inn := [(24, ⟨0, false, [], b.1⟩)] })
      let p := partOf s 0
      let k : SctPacket := { pk 0 3 b.2.2 with last := true, first := !b.1 && b.2.1 }
      let e := windowEntry s p (k.qp.toNat % 4096)
      let va := winBase e + k.roff.toNat
      let v := prepRange s 0 none (winTenant e) .write va k.payload.length
      let w := (pieces 128 va k.payload.length).foldl (fun s l => llcNow s 0 ((asidFor (partOf v 0) (winTenant e) va).getD 0) l) v
      k.qp.toNat < 0xFFF ∧ k.kind = b.2.2 ∧ k.kind ≤ 2 ∧ k.final = false ∧ (treeOf p k.tree).aborted = false
      ∧ k.op ≠ 3 ∧ k.etype ≠ 3 ∧ slotsHeld (partOf v 0) (inKey k) < 512
      ∧ (e.getD 0 0).getLsbD 63 = true ∧ k.roff.toNat + k.payload.length ≤ winLen e
      ∧ asidFor (partOf v 0) (winTenant e) va = some 1 ∧ ingressFault v 0 (winTenant e) va k = none
      ∧ (pieces 128 va k.payload.length).all (fun l => peerOf v (partOf v 0) 1 (128 * l) == none
        && !ingressHeld v (partOf v 0) 0 (inKey k) 1 l) = true
      ∧ (homeReadN w (partOf w 0) 1 va k.payload.length).all (fun b => !b.2) = true
      ∧ (streamIn (partOf v 0) (inKey k)).broken = b.1) := by
  decide +kernel

/-- The last packet of a chunk whose window counts. -/
theorem test_hyps_StreamPackets_counted :
    let s := netted 4 id (fun s => { s with mem := (s.mem.filter (fun e => e.1 < 12293)) ++ (12293, 1) :: s.mem.filter (fun e => e.1 > 12293) })
    let k : SctPacket := { pk with last := true }
    let e := windowEntry s (partOf s 0) (k.qp.toNat % 4096)
    let va := winBase e + k.roff.toNat
    let v := prepRange s 0 none (winTenant e) .write va k.payload.length
    k.last = true ∧ (streamIn (partOf v 0) (inKey k)).broken = false ∧ (e.getD 0 0).getLsbD 40 = true ∧ (e.getD 0 0).getLsbD 63 = true
    ∧ k.roff.toNat + k.payload.length ≤ winLen e ∧ asidFor (partOf v 0) (winTenant e) va = some 1
    ∧ ingressFault v 0 (winTenant e) va k = none
    ∧ (pieces 128 va k.payload.length).all (fun l => peerOf v (partOf v 0) 1 (128 * l) == none
      && !ingressHeld v (partOf v 0) 0 (inKey k) 1 l) = true := by
  decide +kernel

/-- A record with its entry and its code range at 0x80, no TVEC and one warp. -/
def netRecord : List Byte := bytesOf64 0x80 ++ bytesOf64 0 ++ bytesOf64 0x100000000 ++ List.replicate 48 0 ++ bytesOf64 0x80 ++ List.replicate 48 0

theorem test_hyps_StreamPackets_launches :
    (∀ limit ∈ [(0 : Byte), 4], ∃ e, (launchEntry (netted limit) 0 1).1 = some e
      ∧ (let r := dwordsOf netRecord 16
        (e.getD 3 0).getLsbD 0 = true ∧ inCode e (field (r.getD 0 0) 56 0) = true ∧ field (r.getD 1 0) 56 0 = 0
        ∧ inCode e (r.getD 9 0).toNat = true ∧ field (r.getD 2 0) 63 32 ≤ field (e.getD 2 0) 63 32 ∧ field (e.getD 2 0) 31 0 = limit.toNat))
    ∧ (∀ ended : Bool, let t := (launchEntry (netted 4) 0 1).2
      fget (partOf (if ended then modPart (takeFree t).2 0 (fun p => { p with netWindow := [] }) else (takeFree t).2) 0).netWindow 1 0 = 0)
    ∧ (∃ e, (launchEntry (netted 4) 0 2).1 = some e ∧ (e.getD 3 0).getLsbD 0 = false)
    ∧ (launchEntry (nop (onPart (fun p => { p with tlb := [] }))) 0 1).1 = none := by
  refine ⟨?_, by decide +kernel, ⟨((launchEntry (netted 4) 0 2).1).getD [], by decide +kernel⟩, by decide +kernel⟩
  intro limit h
  exact ⟨((launchEntry (netted limit) 0 1).1).getD [], by
    simp only [List.mem_cons, List.not_mem_nil, or_false] at h
    rcases h with rfl | rfl <;> decide +kernel⟩

/-- A stream to rank 3 with two packets sent and a refusal met before. -/
def streaming (retries : Nat) (nak : Option (BitVec 32 × Nat) := none) (f : Partition → Partition := id) : State := netted 4 (fun p => f { p with
  out := [(24, ⟨2, [(pk 0, none), (pk 1, none)], 2, retries, none, nak⟩)] })

/-- A line asked of rank 3 and not yet answered. -/
def asked : State := netted 4 (fun p => { p with peerLines := [⟨some 0, 1, 3, 1, none⟩] })

theorem test_hyps_AnswersAndReplays :
    let s := streaming 7 (some (1, 40))
    let o := streamOf (partOf s 0) (inKey (pk 1))
    (pk 1).ver = 1 ∧ fromPeer s (partOf s 0) (pk 1) = true ∧ ackedBy o (pk 1).seq ≠ [] ∧ (pk 1).first = false
    ∧ (o.unacked.take o.sent).findIdx? (fun u => u.1.seq == (pk 1).seq) = some 1
    ∧ (o.unacked.take o.sent).find? (fun u => u.1.seq == (pk 1).seq) = some (pk 1, none)
    ∧ (pk 1).err = false ∧ ({ pk 1 with err := true } : SctPacket).err = true ∧ ({ pk 1 with first := true } : SctPacket).first = true
    ∧ lenOk (pk 1) = true ∧ migrating (partOf s 0) = false ∧ migrating (partOf moving 0) = true ∧ fromPeer moving (partOf moving 0) (pk 1) = true
    ∧ (let line := (pk 1).roff.toNat / 128
      let v := prepLine0 s 0 .read line
      let q := partOf v 0
      let t := llcNow v 0 0 line
      line < 2 ^ 50 ∧ lineCause v q 0 0 line .read = none ∧ peerOf v q 0 (128 * line) = none ∧ lineHeldByOthers v 0 0 line = false
      ∧ lineUnread v q 0 line = false ∧ ((homeReadN t (partOf t 0) 0 (128 * line) 128).all (fun b => !b.2)) = true)
    ∧ (let v := prepLine0 s 0 .read 100
      (lineCause v (partOf v 0) 0 0 100 .read).isSome)
    ∧ (∃ l ∈ (partOf asked 0).peerLines, l.rank = (pk 1).src ∧ 128 * l.line = ({ pk 1 with roff := 128 } : SctPacket).roff.toNat ∧ l.rsp = none)
    ∧ (partOf asked 0).peerLines.filter (fun l => l.rank == 3 && l.rsp.isNone && 0xFFF % 8 == 7) ≠ []
    ∧ o.sent ≠ 0 ∧ o.retries < field (reg (partOf s 0) .netSctcfg) 39 32
    ∧ (streamOf (partOf (streaming 8) 0) (streamKey 3 0)).sent ≠ 0
    ∧ (streamOf (partOf (streaming 8) 0) (streamKey 3 0)).retries ≥ field (reg (partOf (streaming 8) 0) .netSctcfg) 39 32 := by
  decide +kernel

/-- The line at 0x40's place held by an engine, not read from its file, and with a mark: rank 3 asks for line 3 of ASID 0, on frame 17. -/
def lineAsked (f : State → State) : State := netted 4 id f
def lineHeldNow : State := lineAsked (fun s => modCore s 0 (fun k => { k with
  engines := [(9, { opOf (.tile ⟨0x100, 0x80, 1, 64, 0, 0, [], false⟩ .memory .memory) [] with asid := 0 })] }))
def lineOnFile : State := lineAsked (fun s => { s with frames := fput s.frames 17 { frameReset with state := 3, fb := true } })
def lineMarked : State := lineAsked (fun s => { s with poison := [4352 + 8] })

/-- What rank 3 meets with its request for a line: 0 is held, 1 has a mark, 2 is sent. -/
def lineMeets (s : State) (line : Nat) : Option Nat :=
  let v := prepLine0 s 0 .read line
  let q := partOf v 0
  let t := llcNow v 0 0 line
  if line < 2 ^ 50 ∧ migrating (partOf s 0) = false ∧ lineCause v q 0 0 line .read = none ∧ peerOf v q 0 (128 * line) = none then
    some (if lineHeldByOthers v 0 0 line || lineUnread v q 0 line then 0
      else if (homeReadN t (partOf t 0) 0 (128 * line) 128).any (·.2) then 1 else 2)
  else none

theorem test_hyps_AnswersAndReplays_lines :
    lineMeets (netted 4) 1 = some 2 ∧ lineMeets lineHeldNow 1 = some 0 ∧ lineMeets lineOnFile 1 = some 0
    ∧ lineMeets lineMarked 1 = some 1 := by
  decide +kernel

/-! ## Census -/

/-- Entry 2 of core 0's tile directory, of 64 bytes of scratchpad; s4 to s6 describe a tile, s8 and s9 a place, s10 holds
entry 2's handle, s11 a future's, s12 and s13 a solicitation's words; names v0 to v9 are mapped. -/
def entry2 : TileEntry := ⟨.valid, 1, 5, 0, 0x100, 64, 0, [], 0, false, none⟩
def tiled (desc : DWord) (e : TileEntry := entry2) (f : Warp → Warp := id) (g : State → State := id) : State := grouped (fun s => g (modCore
  (onWarp (fun w => f (setS (setS (setS (setS (setS (setS w 5 desc) 9 0x200) 10 0x8000800000000001) 11 0x80001A0000000001) 12 0x4C0)
    13 0x0000040000000300)) s) 0 (fun k => { k with
  dir := [(2, e)], futures := [(0, ⟨1, 26, 0, true, 0, .done, 0, false, false, 0, (3, 2, 1)⟩)] })))

theorem test_hyps_CensusWords_treg : ∀ e ∈ [((0x40 : DWord), ([] : List Nat)), (0x4100000000000002, [0, 1])],
    let s := tiled e.1
    let x := xOf s
    let names := if field (sRun x.w 4 1) 63 62 = 1 then winRun x.w 0 (field (sRun x.w 4 1) 31 0) else []
    ctxOf s = some x ∧ x.w.pend = [] ∧ names = e.2 ∧ tregFaulty s x (sRun x.w 4 1) (sRun x.w 4 2) 0 = none
    ∧ names.all (fun n => nameOf x.w n != .unmapped) = true ∧ reloadNames s x names = .ok s ∧ (takeRefs s x names).toBool
    ∧ field (sRun x.w 4 1) 61 56 < recHos x.l.record ∧ (sRun x.w 4 2).toNat % 16 = 0
    ∧ (sRun x.w 4 2).toNat + field (sRun x.w 4 1) 31 0 ≤ scratchBytes x.l
    ∧ freeDir (coreOf (okOf (takeRefs s x names) (s, [])).1 x.c) = some 0 := by
  decide +kernel

theorem test_hyps_CensusWords_moves :
    let s := tiled 0x40
    let x := xOf s
    ctxOf s = some x ∧ x.w.pend = [] ∧ tileBad s x.c x.w.launch (sReg x.w 10) = false ∧ tileIndex (sReg x.w 10) = 2
    ∧ isMoving entry2 = false ∧ entry2.state ≠ .shadow ∧ entry2.space = 0 ∧ dirOf (coreOf s x.c) 2 = entry2
    ∧ field (sRun x.w 8 0) 63 8 = 0 ∧ coreIn (partOf s x.pn) (field (sRun x.w 8 0) 7 0) = true
    ∧ (fget? (coreOf s (field (sRun x.w 8 0) 7 0)).launches x.w.launch).isSome ∧ scratchBytes x.l ≠ 0
    ∧ (sRun x.w 8 1).toNat % 16 = 0 ∧ (sRun x.w 8 1).toNat + entry2.len ≤ scratchBytes x.l
    ∧ freeDir (coreOf s 0) = some 0 ∧ (waitRuns s x [(entry2.base, entry2.len), ((sRun x.w 8 1).toNat, entry2.len)]).toBool
    ∧ (takeFuture s x.c x.w.launch 27).toBool := by
  decide +kernel

/-- A responder whose operator is SUM over a width. -/
def responding (vw : Nat) (poison : List Nat := []) (reply : Option Reply := none) : State := tiled 0x40 entry2
  (fun w => { w with resp := some ⟨1, 2, 1, vw, reply⟩ }) (onCl (fun h => { h with spoison := poison }))

theorem test_hyps_CensusWords_answers :
    (∀ v ∈ [0, 0x10], let s := tiled 0x40 entry2 (fun w => setS w 12 (BitVec.ofNat 64 (v + 0x400C0)))
      let x := xOf s
      let scope := field (sRun x.w 12 0) 5 4
      ctxOf s = some x ∧ x.w.pend = [] ∧ solicitBad (sRun x.w 12 0) = false ∧ (scope = 0 ∨ scope = 1)
      ∧ (groupOf x (BitVec.ofNat 2 (field (sRun x.w 12 0) 7 6))).toBool ∧ field (sRun x.w 12 1) 31 0 % 16 = 0
      ∧ field (sRun x.w 12 1) 63 32 % 16 = 0
      ∧ field (sRun x.w 12 1) 31 0 + 16 * field (sRun x.w 12 0) 23 17 ≤ scratchBytes x.l
      ∧ field (sRun x.w 12 1) 63 32 + 16 + valueLen (field (sRun x.w 12 0) 3 0) (field (sRun x.w 12 0) 16 8) ≤ scratchBytes x.l
      ∧ (waitRuns s x [(field (sRun x.w 12 1) 31 0, 16 * field (sRun x.w 12 0) 23 17), (field (sRun x.w 12 1) 63 32,
        16 + valueLen (field (sRun x.w 12 0) 3 0) (field (sRun x.w 12 0) 16 8))]).toBool
      ∧ keptBack s x false = false ∧ storesDone s x.pn x.c = true ∧ (takeFuture s x.c x.w.launch 26).toBool)
    ∧ (let s := tiled 0x40
      let x := xOf s
      handleBad s x.pn x.w.launch (sReg x.w 11) = false ∧ field (sReg x.w 11) 44 40 = 26 ∧ x.w.resp = none)
    ∧ (∀ e ∈ [(0, ([] : List Nat)), (4, []), (4, [48])], let s := responding e.1 e.2
      let x := xOf s
      ctxOf s = some x ∧ x.w.pend = [] ∧ keptBack s x false = false ∧ x.w.resp = some ⟨1, 2, 1, e.1, none⟩ ∧ (sReg x.w 13 &&& 0xFFFF).toNat % 4 = 0
      ∧ 0x300 + valueLen 1 e.1 ≤ scratchBytes x.l
      ∧ ((scratchRead (clOf s x.c x.w.launch) 0x300 (valueLen 1 e.1)).findIdx? (·.2)) = (if e.2 = [] then none else some 0)) := by
  decide +kernel

/-- A solicitation by operation 5, for every tile of the launch, with a payload of one granule or none. -/
def ask (plen : Nat) (key : DWord := 5) : Solicit := ⟨9, key, 0xFFFFFFFFFFFFFFFF, 0x80, 7, 1, 0, List.replicate (16 * plen) (3, false), plen, 0x300, [0], 0, 0, 5⟩
def asking (k : EngineKind) (m : RootMsg) (f : Partition → Partition := id) : State := tiled 0x40 entry2 id (fun s => onPart (fun p => f { p with rootInbox := [m] })
  (modCore s 0 (fun c => { c with engines := [(5, opOf k [])] })))
def moveKind (sent : Bool) : EngineKind := .move ⟨0x100, 0x200, 1, 64, 0, 0, [], false⟩ 2 0 3 sent false

theorem test_hyps_CensusEvents_root :
    (∀ e ∈ [(asking (.solicit (ask 1) false) (.solicit 0 5), false),
        (asking (.solicit (ask 1) false) (.solicit 0 5) (fun p => { p with rootSlots := List.replicate 256 ⟨ask 0, []⟩ }), true)],
      (rootHeads (partOf e.1 0).rootInbox).find? (fun m => !isArrive m) = some (.solicit 0 5)
      ∧ inboxOpen e.1 0 (rootScope e.1 (.solicit 0 5)) = true
      ∧ (let t := modPart e.1 0 (fun p => { p with rootInbox := p.rootInbox.erase (.solicit 0 5) })
        fget? (coreOf t 0).engines 5 = some (opOf (.solicit (ask 1) false) [])
        ∧ decide ((partOf t 0).rootSlots.length ≥ 256 ∨ rootRefuses t 0 0 5 = true) = e.2) ∧ (ask 1).cores ≠ [])
    ∧ (let s := asking (moveKind true) (.switch 0 5)
      let t := modPart s 0 (fun p => { p with rootInbox := p.rootInbox.erase (.switch 0 5) })
      (rootHeads (partOf s 0).rootInbox).find? (fun m => !isArrive m) = some (.switch 0 5)
      ∧ inboxOpen s 0 (rootScope s (.switch 0 5)) = true
      ∧ fget? (coreOf t 0).engines 5 = some (opOf (moveKind true) []) ∧ rootRefuses t 0 0 5 = false)
    ∧ (let s := asking (moveKind false) (.switch 0 5)
      let op := { opOf (moveKind false) [] with done := opUnits 0 (opOf (moveKind false) []) }
      fget? (coreOf s 0).engines 5 = some (opOf (moveKind false) []) ∧ allWritten 0 op = true) := by
  decide +kernel

/-- A message for core 0, with questions that the core has accepted. -/
def told (m : CensusMsg) (accepted : List Accepted := []) (f : State → State := id) : State := tiled 0x40 entry2 id (fun s => f (modCore s 0 (fun k => { k with
  inbox := [m], accepted := accepted })))
def accepted (unspawned : List Nat) : Accepted := ⟨ask 0, [2], unspawned, none, []⟩

theorem test_hyps_CensusEvents_core :
    (∀ e ∈ [(ask 0 6, ([] : List Accepted), true, false), (ask 0, [], false, false), (ask 1, [], false, true), (ask 0, List.replicate 64 (accepted []), false, true)],
      let s := told (.solicit e.1) e.2.1
      (coreOf s 0).refusing = false ∧ (coreOf s 0).inbox = [.solicit e.1] ∧ (matchSet (coreOf s 0) e.1).isEmpty = e.2.2.1
      ∧ decide ((coreOf s 0).accepted.length ≥ 64 ∨ (e.1.plen ≠ 0 ∧ freeLanding s 0 e.1.launch = none)) = e.2.2.2)
    ∧ (coreOf (told (.switch 0 2 0 3 5)) 0).inbox = [.switch 0 2 0 3 5] ∧ (coreOf (told (.switch 1 2 0 3 5)) 0).inbox = [.switch 1 2 0 3 5]
    ∧ (let s := told (.solicit (ask 0)) [accepted [2]]
      (coreOf s 0).accepted.find? (spawnReady s 0) = some (accepted [2]) ∧ freeSlot (coreOf s 0) = some 1)
    ∧ (let s := told (.solicit (ask 0)) [accepted []]
      (coreOf s 0).accepted.find? (fun a => a.q.seq == 9) = some (accepted []) ∧ running (coreOf s 0) 9 = 0
      ∧ storesDone s (partOfCore s 0) 0 = true) := by
  decide +kernel

end Sys2Proof.Tests
end

