-- ==== Sys2Proof/Tests/Witness6.lean ====
section
/-! SUPPORT. States and operands that meet the hypotheses of the statements about the dispatcher, partitions, errors, the
platform, registers and the step. -/

-- One theorem after another: the kernel evaluates each, and many at once need many threads.
set_option Elab.async false

namespace Sys2Proof.Tests

open Sys2Proof Sys2Proof.Machine

/-! ## The dispatcher -/

/-- The bytes of a record with no groups, for a class. -/
def recordBytes (cls : Nat) : List Byte :=
  ((record1.set 2 (BitVec.ofNat 64 (0x0000000100010001 + cls * 2 ^ 24))).toList).flatMap bytesOf64
def netPending (bs : List Byte) : PendingRecord := ⟨0, 1, 0x80000000, .net, some bs⟩

/-- The context of tenant 1 is open, with best class 1; ring 0 has an entry, and a child's and a network's record wait. -/
def dispatching (cls : Nat) : State := nop (onPart (fun p => { p with
  regs := (⟨.schTctl, 1⟩, 0x10101) :: (⟨.schSq, 0⟩, 0x4000000000000000) :: (⟨.schSqi, 0⟩, 0x100000000) :: p.regs
  pending := [netPending (recordBytes cls), ⟨0x80, 1, 0, .child 0 5, none⟩] }))

/-- What is read of a record that is checked, where it has come, and whether the checks pass. -/
def checkedAt (s : State) (r : Option (PendingRecord × State)) : Option (Bool × Bool) := r.map (fun e =>
  ((recordRuns e.2 0 e.1).any (runAway e.2 (partOf e.2 0) e.1.tenant), (checkRecord (touchRecord e.2 0 e.1) 0 e.1).toBool && s.parts.length == 1))

/-- The record that ring 0 names lies in a page of a peer that has not answered. -/
def ringFar : State := onPart (fun p => { p with
  regs := (⟨.schSq, 0⟩, 0x4000000000000000) :: (⟨.schSqi, 0⟩, 0x100000000) :: (⟨.netPeerbase, 0⟩, 0x2000) :: p.regs
  pending := [⟨0x1080, 1, 0, .child 0 5, none⟩]
  tlb := p.tlb ++ ([⟨1, 1, 1, 1, leafTo 5 ||| (1#64 <<< 52), 24⟩] : List TlbEntry) }) { dispatching 1 with mem := [(8359, 0x80)] }

theorem test_hyps_LaunchEvents_records :
    (takeRing (dispatching 1) 0 0).isSome ∧ (takePending (dispatching 1) 0 true).isSome
    ∧ (takePending (dispatching 1) 0 false).map (·.1) = some (netPending (recordBytes 1))
    ∧ checkedAt (dispatching 1) (takePending (dispatching 1) 0 false) = some (false, true)
    ∧ checkedAt (dispatching 0) (takePending (dispatching 0) 0 false) = some (false, false)
    ∧ (checkedAt ringFar (takePending ringFar 0 true)).map (·.1) = some true := by
  decide +kernel

/-- A launch that waits for room, in octant 0 or nowhere. -/
def placing (octs : Nat) (choice : Option Nat := none) : State := nop (fun s => onPart (fun p => { p with choice := choice }) { s with
  launches := s.launches ++ [(1, { launchNone with part := 0, tenant := 1, asid := 1, status := .queued
                                                   record := record1.set 2 (BitVec.ofNat 64 (0x0000000100010000 + octs)) })] })

theorem test_hyps_LaunchEvents_placing :
    dispatchStopped (placing 1) 0 = false
    ∧ (partOf (placing 1) 0).choice.filter (fun n' => (candidates (placing 1) 0).any (fun e => e.1 == n')) = none
    ∧ (chooseLaunch (placing 1) 0).map (·.1) = some 1
    ∧ (partOf (placing 1 (some 1)) 0).choice.filter (fun n' => (candidates (placing 1 (some 1)) 0).any (fun e => e.1 == n')) = some 1
    ∧ (placeLaunch (placing 1) 1).isSome ∧ (placeLaunch (placing 2) 1).isNone
    ∧ (fget? (placing 1).launches 1).map (·.status) = some .queued := by
  decide +kernel

/-- A launch without warps, with an operation that goes on or none. -/
def ending (ops : FMap EngineOp) : State := nop (fun s => modCore s 0 (fun k => { k with warps := [], engines := ops }))

theorem test_hyps_LaunchEvents_end :
    (∀ ops ∈ [([] : FMap EngineOp), [(5, opOf .feedgo [])]], (launchOf (ending ops) 0).status ≠ .ended ∧ warpsGone (ending ops) 0 = true
      ∧ (launchOf (ending ops) 0).status ≠ .queued)
    ∧ opsOf (reportChild (ending []) 0) 0 = [] ∧ opsOf (reportChild (ending [(5, opOf .feedgo [])]) 0) 0 ≠ []
    ∧ (launchOf nop 0).term = none ∧ (launchOf nop 0).status ≠ .ended := by
  decide +kernel

/-! ## Partitions -/

/-- A second, empty partition that yields to the first, and a peer of rank 3. -/
def two (f : Partition → Partition := id) : State := nop (fun s => { s with
  parts := [(0, f { part1 with regs := (⟨.netPeerbase, 0⟩, 0x2000) :: part1.regs }),
    (1, { part1 with osStopped := true, yieldTo := some 0, acceptFrom := some 0, regs := [(⟨.parNetBoundary, 0⟩, 2), (⟨.netRank, 0⟩, 3)] })]
  mem := [(8295, 0xA0)] })
def commanded (op : Nat) (step : CmdStep) (f : State → State := id) (rank : Nat := 3) (dest : Option Nat := some 1) : State :=
  f { two (fun p => { p with cmd := some ⟨op, step, 1, 1, rank, dest, none⟩ }) with launches := [], cores := [] }
/-- A partition of two octants, one of which may split off. -/
def wide (f : Partition → Partition := id) : State := two (fun p => f { p with regs := (⟨.parNetBoundary, 0⟩, 5) :: p.regs })

theorem test_hyps_PartitionEvents_start :
    (partOf wide 0).cmd = none ∧ (partOf two 0).cmd = none
    ∧ (let t := modPart two 0 (fun p => setReg p .parCmd 0 (cmdWord 1 0 1 0))
      0 ≠ 1 ∧ (partOf t 1).yieldTo = some 0 ∧ isEmptyPart t 1 = true ∧ isEmptyPart t 0 = false)
    ∧ (let t := modPart wide 0 (fun p => setReg p .parCmd 0 (cmdWord 3 0 0 4))
      splitOk t (partOf t 0) 4 = true ∧ splitOk t (partOf t 0) 5 = false ∧ splitOk t (partOf t 0) 0 = false)
    ∧ (∀ e ∈ [(two, 3, some 1), (wide, 3, some 1), (two, 4, none)], let t := modPart e.1 0 (fun p => setReg p .parCmd 0 (cmdWord 4 e.2.1 0 0))
      localDest t 0 e.2.1 = e.2.2)
    ∧ isPeer two (partOf two 0) 3 = true ∧ isPeer two (partOf two 0) 4 = false
    ∧ (octsOf (partOf two 0)).length = 1 ∧ (octsOf (partOf wide 0)).length = 2 ∧ (octsOf (partOf two 1)).length = 1
    ∧ (partOf two 1).cmd = none ∧ isEmptyPart two 1 = true
    ∧ (partOf (commanded 1 .drain) 0).cmd.isSome := by
  decide +kernel

/-- A SPLIT of octant 2 of two octants. -/
def splitting : State := { wide (fun p => { p with cmd := some ⟨3, .drain, 0, 4, 0, none, some 0x10000⟩ }) with launches := [], cores := [] }

theorem test_hyps_PartitionEvents_drain : (∀ op ∈ [1, 3, 4], (partOf (commanded op .drain) 0).cmd = some ⟨op, .drain, 1, 1, 3, some 1, none⟩
      ∧ drained (commanded op .drain) 0 = true ∧ drained (commanded op .drain) 1 = true)
    ∧ (fkeys (commanded 1 .drain).parts).Pairwise (· < ·) ∧ (fkeys (commanded 1 .drain).frames).Pairwise (· < ·)
    ∧ (partOf splitting 0).cmd = some ⟨3, .drain, 0, 4, 0, none, some 0x10000⟩ ∧ drained splitting 0 = true
    ∧ splitOk splitting (partOf splitting 0) 4 = true ∧ (fkeys splitting.frames).Pairwise (· < ·)
    ∧ (∀ e ∈ (partOf (commanded 1 .drain) 0).llc, e.dirty = true ∨ e.oldKeys = []) := by
  decide +kernel

theorem test_hyps_PartitionEvents_migration :
    (partOf (commanded 4 .stream) 0).cmd = some ⟨4, .stream, 1, 1, 3, some 1, none⟩ ∧ localDest (commanded 4 .stream) 0 3 = some 1
    ∧ (partOf (commanded 4 .stream id 9) 0).cmd = some ⟨4, .stream, 1, 1, 9, some 1, none⟩ ∧ localDest (commanded 4 .stream id 9) 0 9 = none
    ∧ (fkeys (commanded 4 .stream).frames).Pairwise (· < ·)
    ∧ (∀ s ∈ [{ two with inbound := [(1, captureImage two 0)] }, { two with arrivals := [(1, captureImage two 0)] }],
      (partOf s 1).acceptFrom = some 0
      ∧ (let src := captureImage two 0
        (fget? s.inbound 1 = some src ∨ fget? s.inbound 1 = none ∧ fget? s.arrivals 1 = some src)
        ∧ (fkeys src.launches).Nodup ∧ (fkeys src.frames).Nodup
        ∧ (∀ f ∈ fkeys src.frames, ∀ g ∈ fkeys src.frames, moveFrame src.octs (octsOf (partOf s 1)) f
          = moveFrame src.octs (octsOf (partOf s 1)) g → f = g)))
    -- the acknowledgment: of a destination here that has activated, of one that has not, of one elsewhere, and of a fenced peer
    ∧ (∀ e ∈ [(commanded 4 .commit, some 1), (commanded 4 .commit id 3 none, none)],
      (partOf e.1 0).cmd = some ⟨4, .commit, 1, 1, 3, e.2, none⟩ ∧ ∀ d, e.2 = some d → fget? e.1.inbound d = none)
    ∧ (let s := commanded 4 .commit (fun s => { s with inbound := [(1, captureImage two 0)] })
      (partOf s 0).cmd = some ⟨4, .commit, 1, 1, 3, some 1, none⟩ ∧ (fget? s.inbound 1).isSome)
    ∧ peerFenced (commanded 4 .commit) (partOf (commanded 4 .commit) 0) 3 = false
    ∧ (let s := commanded 4 .commit (fun s => { s with mem := [(8295, 0xE0)] })
      (partOf s 0).cmd = some ⟨4, .commit, 1, 1, 3, some 1, none⟩ ∧ peerFenced s (partOf s 0) 3 = true) := by
  decide +kernel

theorem test_hyps_PartitionEvents_save :
    let s := framed
    hasHalted s 0 2 = false ∧ saveFrames 0x100000000015 = [21] ∧ frameIn (partOf s 0) 21 = true ∧ (frameOf s 21).state = 2
    ∧ (frameOf s 18).state ≠ 2 := by
  decide +kernel

/-! ## Errors -/

theorem test_hyps_ReliabilityEvents :
    rowFree (coreOf nop 0) 3 = false
    ∧ (reg (partOf (nop (onPart (fun p => { p with regs := (⟨.aszRkctl, 0⟩, 0x8000006400000000) :: p.regs }))) 0) .aszRkctl).getLsbD 63 = true
    ∧ (reg (partOf nop 0) .aszRkctl).getLsbD 63 = false
    ∧ (let s := nop (onPart (fun p => { p with restart := some ⟨true⟩ }))
      (partOf s 0).restart = some ⟨true⟩ ∧ (partOf s 0).kernelDown = false)
    ∧ (7, 7, 5) ∉ nop.routersDown ∧ isLink 7 0 = true ∧ isLink 3 7 = true ∧ (0, 7) ∉ nop.linksDown
    ∧ (let s := nop (onPart (fun p => { p with regs := (⟨.aszScanctl, 0⟩, 0x80000E1000000032) :: p.regs }))
      (reg (partOf s (partOfCore s 0)) .aszScanctl).getLsbD 63 = true ∧ (coreOf s 0).fenced = false ∧ s.scans = [])
    ∧ (let p := partOf (nop (onPart (fun p => { p with regs := (⟨.aszRkbase, 0⟩, 16) :: (⟨.aszRklen, 0⟩, 2) :: p.regs }))) 0
      setMem (kernelFrames p) (0x11000 / 4096) = true ∧ setMem (kernelFrames p) (0x12000 / 4096) = false)
    ∧ State.reset.routes = [] ∧ (warpOf? nop 0 0).isSome
    ∧ (let s := { ending [] with scans := [⟨0, [0]⟩] }
      s.scans.find? (fun t => t.core == 0) = some ⟨0, [0]⟩ ∧ scanDeferred s 0 = false) := by
  decide +kernel

/-! ## The platform and its registers -/

/-- A boot image with a key and a sequence number, whose images all carry one signature. -/
def image (root op sig : List Byte) (seq : BitVec 32) : BootImage :=
  ⟨root, List.replicate 8 ([1], sig), ([2], sig), ([3], sig), [(0, [9], sig)], seq, [(0, 1)], [(0, 5)], op, [3]⟩
def token : KeyToken := ⟨9, 1, 0x8000, 0x1000, 5⟩
/-- A key request for launch 0 of partition 0, whose code pages are read-only. -/
def requesting (seq : DWord) : State := nop (fun s => { onPart (fun p => { p with keyBusy := some (0x8000000000000000, some 0), tokenSeq := seq }) s with
  launches := s.launches.map (fun e => (e.1, { e.2 with measure := 9 })) })

theorem test_hyps_PlatformEvents :
    ({ nop with booted := true } : State).booted = true ∧ State.reset.booted = false ∧ State.reset.octHeld = []
    ∧ ({ nop with octHeld := [0] } : State).octHeld ≠ []
    ∧ (partOf (requesting 4) 0).keyBusy = some (0x8000000000000000, some 0) ∧ (partOf nop 0).keyBusy = none
    ∧ keyResult (requesting 4) 0 0 (some 0) (some token) = 0 ∧ keyResult (requesting 5) 0 0 (some 0) (some token) = 5
    ∧ keyResult (requesting 4) 0 0 (some 0) none = 3
    ∧ (∀ f ∈ pieces 4096 0x10000 (64 + (List.replicate 4000 (0 : Byte)).length), frameIn (partOf nop 0) f = true)
    ∧ (∃ f ∈ pieces 4096 0x10000000000000 (64 + (List.replicate 4000 (0 : Byte)).length), frameIn (partOf nop 0) f = false)
    ∧ (frameOf (framed (fun e => { e with troy := true })) (0x10000 / 4096)).troy = true ∧ (frameOf framed (0x10000 / 4096)).troy = false
    ∧ (List.replicate 32 (7 : Byte)).length = 32 ∧ (image [] [] [] 3).os.find? (fun e => e.1 == 0) = some (0, [9], []) := by
  decide +kernel

/-- Signatures are opaque (log 6), so what the stages of a boot meet is said of keys whose signatures verify, or do not: with the root
key in ROM every Assize runs, and the configuration's sequence number and the monitor's signature decide. -/
theorem test_hyps_PlatformEvents_boot (root op sig : List Byte) (hr : sha3 root = Config.romDigest)
    (hv : ∀ d, Config.mlDsaVerify root d sig = true) (seq : BitVec 32) :
    let i := image root op sig seq
    let verifies (key : List Byte) (m : List Byte × List Byte) : Bool := Config.mlDsaVerify key (sha3 m.1) m.2
    let rootOk (m : List Byte × List Byte) : Bool := decide (sha3 i.rootKey = Config.romDigest) && verifies i.rootKey m
    (List.range 8).filter (fun o => (i.assize[o]?).any rootOk) = List.range 8 ∧ rootOk i.config = true := by
  refine ⟨List.filter_eq_self.mpr (fun o ho => ?_), by simp [image, hr, hv]⟩
  have : o < 8 := by simpa using ho
  interval_cases o <;> simp [image, hr, hv]

/-- With a key that is not in ROM none runs. -/
theorem test_hyps_PlatformEvents_held (root op sig : List Byte) (hr : sha3 root ≠ Config.romDigest) (seq : BitVec 32) :
    let i := image root op sig seq
    let verifies (key : List Byte) (m : List Byte × List Byte) : Bool := Config.mlDsaVerify key (sha3 m.1) m.2
    let rootOk (m : List Byte × List Byte) : Bool := decide (sha3 i.rootKey = Config.romDigest) && verifies i.rootKey m
    (List.range 8).filter (fun o => (i.assize[o]?).any rootOk) = [] ∧ rootOk i.config = false := by
  simp [image, hr]

/-- The octants that are not held take the next stages, and there are some, or none. -/
theorem test_hyps_PlatformEvents_octants : freeOcts (holdOctants State.reset [] 0) = List.range 8
    ∧ freeOcts (holdOctants State.reset (List.range 8) 0) = []
    ∧ (3 : BitVec 32).toNat < ({ State.reset with configSeq := 4 } : State).configSeq.toNat
    ∧ ({ State.reset with configSeq := 3 } : State).configSeq.toNat ≤ (3 : BitVec 32).toNat := by
  decide +kernel

/-- A frame to the partition, from its own address. -/
def frame (dst : BitVec 48) (ptp udp : Bool) (sct : Option SctPacket) : EthFrame := 
  ⟨dst, 5, false, ptp, none, none, none, none, some 0x4C38, udp, 3, (sct.map encodeSct).getD [], 0, []⟩

/-- The registers that the statement names, and whether a write to one is refused. -/
def named : List RegName := [.llcRootbase, .llcTasid, .llcShootva, .llcFsarg, .llcMigctl, .llcMigring, .llcMigfi, .llcMigci,
  .llcWbctl, .llcTqos, .llcAtomq, .schSq, .schSqi, .schTctl, .schLtbase, .schNakcfg, .parTiming, .netMacaddr, .netIpv4,
  .netIpv6h, .netIpv6l, .netRank, .netTxcap, .netRwinbase, .netPeerbase, .netSctcfg, .aszRkbase, .aszRklen,
  .aszScanctl, .aszKreqa, .schCq, .schCqi, .aszEvq, .aszEvqi, .netTreebase, .ctrTenant, .aszRkctl, .aszKreq, .memKey, .llcShoot, .schTdown, .parSave, .aszAttreq]
def refused (p : Partition) (r : HReg) (v : DWord) (m : Nat) : Bool := decide (regCount r.name ≤ r.idx)
  || !limitOk p r ((regOf p r &&& ~~~(BitVec.ofNat 64 m)) ||| (v &&& BitVec.ofNat 64 m))
  || (strictReserved r.name && v &&& ~~~(BitVec.ofNat 64 m) != 0)

/-- A packet to rank 3, the first on the wire, in the frame that takes it there. -/
def pkOut : SctPacket := { pk with dst := 3 }
def linked (wire : List SctPacket := []) : State := { netted 4 (fun p => { p with wire := wire }) with linkUp := [0] }
def frameOut : EthFrame := { frame 0 false true (some pkOut) with dstIp4 := some 0 }

theorem test_hyps_PortsAndRegisters_frames :
    (let s := linked
      let p := partOf s (partOfOct s 0)
      p.exists_ = true ∧ (octMask p).testBit 0 = true ∧ setMem s.linkUp 0 = true ∧ setMem s.portsDown 0 = false ∧ setMem s.octHeld 0 = false
      ∧ (frame 5 true false none).bytes.length ≤ 9216 ∧ setMem nop.linkUp 0 = false
      ∧ (frame 5 true false none).dstMac = (reg p .netMacaddr).setWidth 48 ∧ (frame 6 false false none).dstMac ≠ (reg p .netMacaddr).setWidth 48
      ∧ (frame 6 false false none).multicastJoined = false ∧ (frame 5 false true (some pk)).udp = true
      ∧ (frame 5 false true (some pk)).udpPort = some (field (reg p .netSctcfg) 63 48) ∧ (frame 5 false false none).udp = false
      ∧ decodeSct (frame 5 false true (some pk)).datagram 0 = some pk ∧ decodeSct (frame 5 false true none).datagram 0 = none
      ∧ (frame 5 false true none).srcMac = (reg p .netMacaddr).setWidth 48
      ∧ ({ frame 5 false true none with srcMac := 6 } : EthFrame).srcMac ≠ (reg p .netMacaddr).setWidth 48)
    ∧ (let s := linked [pkOut]
      let p := partOf s (partOfOct s 0)
      decodeSct frameOut.datagram frameOut.next = some pkOut ∧ pkOut ∈ p.wire ∧ pkOut ∉ (partOf linked 0).wire
      ∧ p.wire.find? (fun q => streamKey q.dst q.qp.toNat == streamKey pkOut.dst pkOut.qp.toNat) = some pkOut
      ∧ lagPorts s p = [0] ∧ toPeer s p pkOut.dst frameOut = true ∧ toPeer s p pkOut.dst (frame 5 false true (some pkOut)) = false) := by
  decide +kernel

/-- With one port every stream leaves on it. -/
theorem test_hyps_PortsAndRegisters_port :
    streamPortOf (linked [pkOut]) (partOf (linked [pkOut]) 0) (streamKey pkOut.dst pkOut.qp.toNat) = some 0 := by
  have h : lagPorts (linked [pkOut]) (partOf (linked [pkOut]) 0) = [0] := by decide +kernel
  simp [streamPortOf, h, Nat.mod_one]

theorem test_hyps_PortsAndRegisters :
    writeMask .llcRootbase .monitor = none ∧ (writeMask .llcRootbase .ryukel).isSome
    ∧ named.all (fun n => [Role.ryukel, .monitor].any (fun who => (writeMask n who).any (fun m =>
      !refused (partOf nop 0) ⟨n, regCount n - 1⟩ (regOf (partOf nop 0) ⟨n, regCount n - 1⟩ &&& BitVec.ofNat 64 m) m))) = true
    ∧ refused (partOf (commanded 1 .drain) 0) ⟨.parInterleave, 0⟩ 1 (bitsMask 16 16 + bitsMask 7 0) = false
    ∧ refused (partOf nop 0) ⟨.parInterleave, 0⟩ 1 (bitsMask 16 16 + bitsMask 7 0) = true
    ∧ refused (partOf nop 0) ⟨.schSq, 4⟩ 0 0 = true ∧ refused (partOf nop 0) ⟨.llcAtomq, 0⟩ 65 (bitsMask 6 0) = true
    ∧ refused (partOf nop 0) ⟨.netRank, 0⟩ 0x10000 (bitsMask 15 0) = true := by
  decide +kernel

/-- A network device with one buffer, of 64 bytes or too small, and a frame of 20 bytes that waits for it. -/
def device (len : Nat) (features : List Nat) : State := nop (onPart (fun p => { p with
  netDev := ⟨features, 1, [(0, [(0x10000, len)])], []⟩, osFrames := [(0, { frame 5 false false none with bytes := List.replicate 20 7 })] }))

theorem test_hyps_PortsAndRegisters_device :
    (∀ e ∈ [(64, [virtioGuestCsum], true), (28, [], true), (27, [], false)],
      let d := (partOf (device e.1 e.2.1) 0).netDev
      (partOf (device e.1 e.2.1) 0).osFrames = [(0, { frame 5 false false none with bytes := List.replicate 20 7 })]
      ∧ fget d.ready 0 [] = (0x10000, e.1) :: [] ∧ (virtioGuestCsum ∈ d.features ↔ e.2.1 ≠ [])
      ∧ (12 + ((List.replicate 20 (7 : Byte)).take (20 - 4)).length ≤ e.1 ↔ e.2.2 = true)
      ∧ (((fget d.ready 0 []).map (·.2)).sum < 12 + ((List.replicate 20 (7 : Byte)).take (20 - 4)).length ↔ e.2.2 = false))
    ∧ virtioMq ∈ (partOf (device 64 [virtioMq]) 0).netDev.features
    ∧ (∀ g ∈ pieces 4096 0x10000 64, frameIn (partOf nop 0) g = true)
    ∧ (let s := linked
      partOfOct s 0 = 0 ∧ (partOf s 0).kernelDown = false ∧ portCarries s 0 0 (frame 6 false false none) = true
      ∧ egressOk (partOf s 0) (frame 6 false false none) = true) := by
  decide +kernel

theorem test_hyps_PortsAndRegisters_kernel :
    (partOf (nop (onPart (fun p => { p with kernelDown := true }))) 0).kernelDown = true ∧ (partOf nop 0).kernelDown = false := by
  decide +kernel

/-! ## Words and steps -/

theorem test_hyps_RoundTrip :
    (encodeFields (.saddImm 4 4 0x7D)).isSome ∧ (Instr.saddImm 4 4 0x7D).wf = true
    ∧ ((encodeFields (.saddImm 4 4 0x7D)).map (fun f => (isPrefixOp f.op, f.lit))) = some (false, none)
    ∧ ((encodeFields (.pfxa 2 0 3 1 0)).map (fun f => isPrefixOp f.op)) = some true
    ∧ decodeWord 0x0601027D 0 = some (.saddImm 4 4 0x7D) := by
  decide +kernel

/-- A turn for the word of a state's warp. -/
def turn (s : State) : State := { s with agenda := [.word 0 0] }
/-- The word at the current place, of a span of its own words. -/
def spanned (hword w next : Word) : State := turn (nop (onSpan (fun sp => { sp with
  hword := hword, words := List.replicate (sp.header.toNat % 128 / 4) 0 ++ [hword, w, next] })))

theorem test_hyps_StepRunsTheWord :
    (∀ s ∈ [turn nop, turn prefixed, turn (base 0x3E04BFFF), turn (base 0x1C000000), spanned 0x000FF080 0xE5400000 0, spanned 0x000FF080 0xA5400000 0],
      s.agenda = [.word 0 0] ∧ (ctxOf { s with agenda := [], cur := (0, 0) }).isSome
      ∧ (ctxOf { s with agenda := [], cur := (0, 0) }).all (fun x => !x.w.bkptStop) = true) := by
  decide +kernel

theorem test_hyps_StepRunsTheWord_words :
    (let x := xOf nop
    isPrefixOp (wordOp (spanWord x.sp x.sp.idx)) = false ∧ (decodeWord (spanWord x.sp x.sp.idx) (literalOf x.sp)).isSome
      ∧ wordS (spanWord x.sp x.sp.idx) = false ∧ structureBad x.sp = false)
    ∧ (let x := xOf prefixed
      isPrefixOp (wordOp (spanWord x.sp x.sp.idx)) = true ∧ (decodeWord (spanWord x.sp x.sp.idx) 0).isSome)
    ∧ (let x := xOf (base 0x3E04BFFF)
      isPrefixOp (wordOp (spanWord x.sp x.sp.idx)) = true ∧ (decodeWord (spanWord x.sp x.sp.idx) 0).isNone)
    ∧ (let x := xOf (base 0x1C000000)
      isPrefixOp (wordOp (spanWord x.sp x.sp.idx)) = false ∧ (decodeWord (spanWord x.sp x.sp.idx) (literalOf x.sp)).isNone)
    ∧ (let x := xOf (spanned 0x000FF080 0xE5400000 0xFFFFFFFF)
      isPrefixOp (wordOp (spanWord x.sp x.sp.idx)) = false ∧ (decodeWord (spanWord x.sp x.sp.idx) (literalOf x.sp)).isSome
      ∧ wordS (spanWord x.sp x.sp.idx) = true ∧ x.sp.idx + 1 ≤ spanLen x.sp.hword ∧ liveBad (spanWord x.sp (x.sp.idx + 1)) = true)
    ∧ (let x := xOf (spanned 0x000FF080 0xA5400000 0)
      isPrefixOp (wordOp (spanWord x.sp x.sp.idx)) = false ∧ (decodeWord (spanWord x.sp x.sp.idx) (literalOf x.sp)).isSome
      ∧ wordS (spanWord x.sp x.sp.idx) = false ∧ structureBad x.sp = true) := by
  decide +kernel

/-- An event turn. -/
theorem test_hyps_StepRunsTheWord_event :
    ({ nop with agenda := [.event (.rkpetWrite 0)] } : State).agenda = [.event (.rkpetWrite 0)] ∧ encodeFields (.rkpetWrite 0) = none := by
  decide +kernel

theorem test_hyps_MemoryStaysCanonical : Memory.wf (turn (lastOnCode)).mem = true ∧ step (turn nop) = .next (after (step (turn nop))) :=
  ⟨by decide +kernel, next_of (by decide +kernel)⟩

end Sys2Proof.Tests
end

/-! SUPPORT. The encoder's table and the decoder's are each other's inverse (O56). -/

namespace Sys2Proof

open BitVec

/-! ## Fields put together and cut apart -/

theorem append_fields {m n : Nat} (x : BitVec m) (y : BitVec n) :
    (x ++ y).extractLsb' n m = x ∧ (x ++ y).extractLsb' 0 n = y := ⟨extractLsb'_append_eq_left, extractLsb'_append_eq_right⟩

theorem append_append_fields {k m n : Nat} (x : BitVec k) (y : BitVec m) (z : BitVec n) :
    (x ++ y ++ z).extractLsb' (n + m) k = x ∧ (x ++ y ++ z).extractLsb' n m = y ∧ (x ++ y ++ z).extractLsb' 0 n = z := by
  refine ⟨?_, ?_, extractLsb'_append_eq_right⟩
  · rw [extractLsb'_append_eq_of_le (by omega), Nat.add_sub_cancel_left, extractLsb'_append_eq_left]
  · rw [extractLsb'_append_eq_of_le (by omega), Nat.sub_self, extractLsb'_append_eq_right]

theorem append_of_extractLsb' {m n : Nat} {z : BitVec (m + n)} {x : BitVec m} (h : z.extractLsb' n m = x) :
    x ++ z.extractLsb' 0 n = z := by
  rw [← h, extractLsb'_append_extractLsb'_eq_extractLsb' (by omega), extractLsb'_eq_self]

theorem append_append_of_extractLsb' {k m n : Nat} {z : BitVec (k + m + n)} {x : BitVec k} (h : z.extractLsb' (n + m) k = x) :
    x ++ z.extractLsb' n m ++ z.extractLsb' 0 n = z := by
  rw [← h, extractLsb'_append_extractLsb'_eq_extractLsb' (by omega), append_of_extractLsb' rfl]

/-! ## The layouts of the encoding tables -/

@[simp] theorem fields_1_6 (x : BitVec 1) (y : BitVec 6) :
    (x ++ y).extractLsb' 6 1 = x ∧ (x ++ y).extractLsb' 0 6 = y := append_fields x y
@[simp] theorem fields_2_5 (x : BitVec 2) (y : BitVec 5) :
    (x ++ y).extractLsb' 5 2 = x ∧ (x ++ y).extractLsb' 0 5 = y := append_fields x y
@[simp] theorem fields_3_4 (x : BitVec 3) (y : BitVec 4) :
    (x ++ y).extractLsb' 4 3 = x ∧ (x ++ y).extractLsb' 0 4 = y := append_fields x y
@[simp] theorem fields_4_3 (x : BitVec 4) (y : BitVec 3) :
    (x ++ y).extractLsb' 3 4 = x ∧ (x ++ y).extractLsb' 0 3 = y := append_fields x y
@[simp] theorem fields_5_2 (x : BitVec 5) (y : BitVec 2) :
    (x ++ y).extractLsb' 2 5 = x ∧ (x ++ y).extractLsb' 0 2 = y := append_fields x y
@[simp] theorem fields_6_1 (x : BitVec 6) (y : BitVec 1) :
    (x ++ y).extractLsb' 1 6 = x ∧ (x ++ y).extractLsb' 0 1 = y := append_fields x y
@[simp] theorem fields_6_3 (x : BitVec 6) (y : BitVec 3) :
    (x ++ y).extractLsb' 3 6 = x ∧ (x ++ y).extractLsb' 0 3 = y := append_fields x y
@[simp] theorem fields_2_1_4 (x : BitVec 2) (y : BitVec 1) (z : BitVec 4) : (x ++ y ++ z).extractLsb' 5 2 = x
    ∧ (x ++ y ++ z).extractLsb' 4 1 = y ∧ (x ++ y ++ z).extractLsb' 0 4 = z := append_append_fields x y z
@[simp] theorem fields_3_1_3 (x : BitVec 3) (y : BitVec 1) (z : BitVec 3) : (x ++ y ++ z).extractLsb' 4 3 = x
    ∧ (x ++ y ++ z).extractLsb' 3 1 = y ∧ (x ++ y ++ z).extractLsb' 0 3 = z := append_append_fields x y z
@[simp] theorem fields_2_2_3 (x : BitVec 2) (y : BitVec 2) (z : BitVec 3) : (x ++ y ++ z).extractLsb' 5 2 = x
    ∧ (x ++ y ++ z).extractLsb' 3 2 = y ∧ (x ++ y ++ z).extractLsb' 0 3 = z := append_append_fields x y z
@[simp] theorem fields_1_3_3 (x : BitVec 1) (y : BitVec 3) (z : BitVec 3) : (x ++ y ++ z).extractLsb' 6 1 = x
    ∧ (x ++ y ++ z).extractLsb' 3 3 = y ∧ (x ++ y ++ z).extractLsb' 0 3 = z := append_append_fields x y z
@[simp] theorem fields_2_3_2 (x : BitVec 2) (y : BitVec 3) (z : BitVec 2) : (x ++ y ++ z).extractLsb' 5 2 = x
    ∧ (x ++ y ++ z).extractLsb' 2 3 = y ∧ (x ++ y ++ z).extractLsb' 0 2 = z := append_append_fields x y z
@[simp] theorem fields_4_1_2 (x : BitVec 4) (y : BitVec 1) (z : BitVec 2) : (x ++ y ++ z).extractLsb' 3 4 = x
    ∧ (x ++ y ++ z).extractLsb' 2 1 = y ∧ (x ++ y ++ z).extractLsb' 0 2 = z := append_append_fields x y z

@[simp] theorem fields_7_7 (x y : BitVec 7) :
    (x ++ y).extractLsb' 7 7 = x ∧ (x ++ y).extractLsb' 0 7 = y := append_fields x y
@[simp] theorem fields_1_7 (x : BitVec 1) (y : BitVec 7) :
    (x ++ y).extractLsb' 7 1 = x ∧ (x ++ y).extractLsb' 0 7 = y := append_fields x y
@[simp] theorem fields_3_1 (x : BitVec 3) (y : BitVec 1) :
    (x ++ y).extractLsb' 1 3 = x ∧ (x ++ y).extractLsb' 0 1 = y := append_fields x y

@[simp] theorem append_1_6 {x : BitVec 7} {y : BitVec 1} (h : x.extractLsb' 6 1 = y) : y ++ x.extractLsb' 0 6 = x :=
  append_of_extractLsb' h
@[simp] theorem append_2_5 {x : BitVec 7} {y : BitVec 2} (h : x.extractLsb' 5 2 = y) : y ++ x.extractLsb' 0 5 = x :=
  append_of_extractLsb' h
@[simp] theorem append_3_4 {x : BitVec 7} {y : BitVec 3} (h : x.extractLsb' 4 3 = y) : y ++ x.extractLsb' 0 4 = x :=
  append_of_extractLsb' h
@[simp] theorem append_4_3 {x : BitVec 7} {y : BitVec 4} (h : x.extractLsb' 3 4 = y) : y ++ x.extractLsb' 0 3 = x :=
  append_of_extractLsb' h
@[simp] theorem append_5_2 {x : BitVec 7} {y : BitVec 5} (h : x.extractLsb' 2 5 = y) : y ++ x.extractLsb' 0 2 = x :=
  append_of_extractLsb' h
@[simp] theorem append_6_1 {x : BitVec 7} {y : BitVec 6} (h : x.extractLsb' 1 6 = y) : y ++ x.extractLsb' 0 1 = x :=
  append_of_extractLsb' h
@[simp] theorem append_6_3 {x : BitVec 9} {y : BitVec 6} (h : x.extractLsb' 3 6 = y) : y ++ x.extractLsb' 0 3 = x :=
  append_of_extractLsb' h
@[simp] theorem append_7_7 (x : BitVec 14) : x.extractLsb' 7 7 ++ x.extractLsb' 0 7 = x := append_of_extractLsb' rfl
@[simp] theorem append_1_7 (x : BitVec 8) : x.extractLsb' 7 1 ++ x.extractLsb' 0 7 = x := append_of_extractLsb' rfl
@[simp] theorem append_3_1 (x : BitVec 4) : x.extractLsb' 1 3 ++ x.extractLsb' 0 1 = x := append_of_extractLsb' rfl
@[simp] theorem append_2_1_4 {x : BitVec 7} {y : BitVec 2} (h : x.extractLsb' 5 2 = y) :
    y ++ x.extractLsb' 4 1 ++ x.extractLsb' 0 4 = x := append_append_of_extractLsb' h
@[simp] theorem append_3_1_3 {x : BitVec 7} {y : BitVec 3} (h : x.extractLsb' 4 3 = y) :
    y ++ x.extractLsb' 3 1 ++ x.extractLsb' 0 3 = x := append_append_of_extractLsb' h
@[simp] theorem append_2_2_3 {x : BitVec 7} {y : BitVec 2} (h : x.extractLsb' 5 2 = y) :
    y ++ x.extractLsb' 3 2 ++ x.extractLsb' 0 3 = x := append_append_of_extractLsb' h
@[simp] theorem append_2_3_2 {x : BitVec 7} {y : BitVec 2} (h : x.extractLsb' 5 2 = y) :
    y ++ x.extractLsb' 2 3 ++ x.extractLsb' 0 2 = x := append_append_of_extractLsb' h
@[simp] theorem append_4_1_2 {x : BitVec 7} {y : BitVec 4} (h : x.extractLsb' 3 4 = y) :
    y ++ x.extractLsb' 2 1 ++ x.extractLsb' 0 2 = x := append_append_of_extractLsb' h
@[simp] theorem append_low_1_6 {x : BitVec 7} {y : BitVec 6} (h : x.extractLsb' 0 6 = y) : x.extractLsb' 6 1 ++ y = x := by
  subst h
  exact append_of_extractLsb' rfl

@[simp] theorem append_low_1_3_3 {x : BitVec 7} {y : BitVec 1} {z : BitVec 3} (hy : x.extractLsb' 6 1 = y)
    (hz : x.extractLsb' 0 3 = z) : y ++ x.extractLsb' 3 3 ++ z = x := by
  subst hz
  exact append_append_of_extractLsb' hy

/-! ## The fields of a word (R36) -/

theorem ofBool_getLsbD {w : Nat} (x : BitVec w) (i : Nat) : ofBool (x.getLsbD i) = x.extractLsb' i 1 := by
  ext j hj
  simp [show j = 0 by omega]

theorem mkWord_word (w : Word) : mkWord (wordE w) (wordS w) (wordOp w) (wordD w) (wordA w) (wordB w) = w := by
  simp only [mkWord, wordE, wordS, wordOp, wordD, wordA, wordB, ofBool_getLsbD]
  iterate 5 rw [extractLsb'_append_extractLsb'_eq_extractLsb' (by omega)]
  exact extractLsb'_eq_self

@[simp] theorem wordOfBytes_wordByte (w : Word) : wordOfBytes (wordByte w 0) (wordByte w 1) (wordByte w 2) (wordByte w 3) = w := by
  simp only [wordOfBytes, wordByte]
  iterate 3 rw [extractLsb'_append_extractLsb'_eq_extractLsb' (by omega)]
  exact extractLsb'_eq_self

@[simp] theorem wordB_mkWord (e s : Bool) (op : BitVec 9) (d a b : BitVec 7) : wordB (mkWord e s op d a b) = b :=
  extractLsb'_append_eq_right
@[simp] theorem wordA_mkWord (e s : Bool) (op : BitVec 9) (d a b : BitVec 7) : wordA (mkWord e s op d a b) = a :=
  (append_append_fields _ a b).2.1
@[simp] theorem wordD_mkWord (e s : Bool) (op : BitVec 9) (d a b : BitVec 7) : wordD (mkWord e s op d a b) = d := by
  unfold mkWord wordD
  rw [extractLsb'_append_eq_of_le (by omega)]
  exact (append_append_fields _ d a).2.1
@[simp] theorem wordOp_mkWord (e s : Bool) (op : BitVec 9) (d a b : BitVec 7) : wordOp (mkWord e s op d a b) = op := by
  unfold mkWord wordOp
  rw [extractLsb'_append_eq_of_le (by omega), extractLsb'_append_eq_of_le (by omega)]
  exact (append_append_fields _ op d).2.1
@[simp] theorem wordS_mkWord (e s : Bool) (op : BitVec 9) (d a b : BitVec 7) : wordS (mkWord e s op d a b) = s := by
  simp only [mkWord, wordS, getLsbD_append]
  simp
@[simp] theorem wordE_mkWord (e s : Bool) (op : BitVec 9) (d a b : BitVec 7) : wordE (mkWord e s op d a b) = e := by
  simp only [mkWord, wordE, getLsbD_append]
  simp

/-- The decoder's table gives back the instruction whose row of the encoder's table it reads. An event has no row; in any other
case the opcode selects the decoder's arm, whose fields are those put together in the row. -/
theorem decodeFields_of_encodeFields {i : Instr} {f : Fields} {lit : Word} (h : encodeFields i = some f)
    (hl : ∀ v, f.lit = some v → lit = v) : decodeFields f.op f.d f.a f.b lit = some i := by
  cases i
  all_goals cases h
  all_goals simp [decodeFields, decodeMap, decodeScalar, decodeScalarTwo, decodeVector, decodeVectorTwo, decodeFloat, decodeSfu,
    decodeCross, decodeControl, decodeMemory, decodeMatrix, decodeEngine, decodeCensus, decodePrefix, hl]

/-- An opcode is the one whose number it has. -/
theorem opcode_eq_iff {op : BitVec 9} {n : Nat} : BitVec.ofNat 9 n = op ↔ op.toNat = n % 2 ^ 9 := by
  rw [← BitVec.toNat_inj, BitVec.toNat_ofNat, eq_comm]

/-- The opcodes that take a literal, by number (R39). -/
theorem takesLiteral_eq (op : BitVec 9) : takesLiteral op = (op.toNat == 0x053 || op.toNat == 0x093) := by
  simp [takesLiteral, Bool.beq_eq_decide_eq, ← BitVec.toNat_inj]

/-- The literal word of an opcode that takes one (R39). -/
def literalFor (op : BitVec 9) (lit : Word) : Option Word := if takesLiteral op then some lit else none

/-- The opcodes that hold a condition, a type or an operation in their low bits take no literal. -/
theorem literalFor_eq_none {op : BitVec 9} {c : BitVec 6} (h : op.extractLsb' 3 6 = c) (lit : Word)
    (hc : c ≠ 0x0a#6 ∧ c ≠ 0x12#6) : literalFor op lit = none := by
  subst h
  have hop : takesLiteral op = false := by
    rw [takesLiteral, Bool.or_eq_false_iff, beq_eq_false_iff_ne, beq_eq_false_iff_ne]
    constructor <;> rintro rfl
    · exact hc.1 rfl
    · exact hc.2 rfl
  simp [literalFor, hop]

/-- The encoder's row of an instruction that the decoder's table gives holds the fields that the table read. Each arm of the table
fixes the opcode, checks the bits that must be zero, and cuts the others into operands; the row puts them together again. -/
theorem encodeFields_of_decodeFields {op : BitVec 9} {D A B : BitVec 7} {lit : Word} {i : Instr}
    (h : decodeFields op D A B lit = some i) : encodeFields i = some ⟨op, D, A, B, literalFor op lit⟩ := by
  unfold decodeFields at h
  iterate 7
    split at h
    · try split at h
      all_goals cases h
      refine congrArg some ?_
      simp [literalFor_eq_none ‹op.extractLsb' 3 6 = _› lit (by decide), *]
  unfold decodeMap decodeScalar decodeScalarTwo decodeVector decodeVectorTwo decodeFloat decodeSfu decodeCross decodeControl
    decodeMemory decodeMatrix decodeEngine decodeCensus decodePrefix at h
  split at h
  any_goals split at h
  any_goals split at h
  all_goals cases h
  all_goals refine congrArg some ?_
  all_goals simp [opcode_eq_iff, literalFor, takesLiteral_eq, *]

/-! ## Words and bytes -/

theorem decodeWord_eq_some_iff {w lit : Word} {i : Instr} : decodeWord w lit = some i ↔
    prefixBitsOk w = true ∧ decodeFields (wordOp w) (wordD w) (wordA w) (wordB w) lit = some i ∧ i.wf = true := by
  simp [decodeWord, Option.filter_eq_some_iff]

theorem decodeWord_mkWord {i : Instr} {f : Fields} {e s : Bool} {lit : Word} (h : encodeFields i = some f) (hwf : i.wf = true)
    (hp : isPrefixOp f.op = true → e = false ∧ s = false) (hl : ∀ v, f.lit = some v → lit = v) :
    decodeWord (mkWord e s f.op f.d f.a f.b) lit = some i := by
  have hb : prefixBitsOk (mkWord e s f.op f.d f.a f.b) = true := by
    cases hop : isPrefixOp f.op
    · simp [prefixBitsOk, hop]
    · simp [prefixBitsOk, hp hop]
  simpa [decodeWord_eq_some_iff, hb, hwf] using decodeFields_of_encodeFields h hl

theorem decodeBytes_wordBytes {w : Word} (h : takesLiteral (wordOp w) = false) (rest : List Byte) :
    decodeBytes (wordBytes w ++ rest) = (decodeWord w 0).map (·, rest) := by
  simp [wordBytes, decodeBytes, h]

theorem decodeBytes_wordBytes_literal {w : Word} (h : takesLiteral (wordOp w) = true) (lit : Word) (rest : List Byte) :
    decodeBytes (wordBytes w ++ (wordBytes lit ++ rest)) = (decodeWord w lit).map (·, rest) := by
  simp [wordBytes, decodeBytes, h]

/-- A word carries a literal exactly where its opcode takes one (R39). -/
theorem lit_eq_literalFor {i : Instr} {f : Fields} {lit : Word} (h : encodeFields i = some f) (hl : ∀ v, f.lit = some v → lit = v) :
    f.lit = literalFor f.op lit := by
  have := encodeFields_of_decodeFields (decodeFields_of_encodeFields h hl)
  rw [h] at this
  exact congrArg Fields.lit (Option.some.inj this)

theorem decodeBytes_encode {i : Instr} {f : Fields} {e s : Bool} {lit : Word} (h : encodeFields i = some f) (hwf : i.wf = true)
    (hp : isPrefixOp f.op = true → e = false ∧ s = false) (hl : ∀ v, f.lit = some v → lit = v) (rest : List Byte) :
    decodeBytes ((encode e s i).flatMap wordBytes ++ rest) = some (i, rest) := by
  have hlit := lit_eq_literalFor h hl
  cases ht : takesLiteral f.op
  · have hnone : f.lit = none := by simp [hlit, literalFor, ht]
    have hdec := decodeWord_mkWord (lit := 0#32) h hwf hp (by simp [hnone])
    simp [encode, h, hnone, decodeBytes_wordBytes, ht, hdec]
  · have hsome : f.lit = some lit := by simp [hlit, literalFor, ht]
    have hdec := decodeWord_mkWord h hwf hp hl
    simp [encode, h, hsome, decodeBytes_wordBytes_literal, ht, hdec]

theorem encode_of_decodeWord {w lit : Word} {i : Instr} (h : decodeWord w lit = some i) :
    encode (wordE w) (wordS w) i = w :: (if takesLiteral (wordOp w) then [lit] else []) := by
  obtain ⟨-, hdec, -⟩ := decodeWord_eq_some_iff.1 h
  simp only [encode, encodeFields_of_decodeFields hdec, mkWord_word, literalFor]
  split <;> rfl

/-- Settles O56: each table of the decoder inverts the encoder's table, and the encoder the decoder's. -/
theorem roundTrip : Obligations.RoundTrip := by
  unfold Obligations.RoundTrip
  exact ⟨fun _ _ _ _ _ h hwf hp hl => ⟨decodeWord_mkWord h hwf hp hl, decodeBytes_encode h hwf hp hl⟩,
    fun _ _ _ h => ⟨encode_of_decodeWord h, (decodeWord_eq_some_iff.1 h).2.2⟩⟩

end Sys2Proof

section
/-! PROOF. What a write in physical memory leaves to be read (O32). -/

namespace Sys2Proof.Machine

open Sys2Proof

/-! ## Maps with rising numbers, sets and runs of bytes -/

theorem rising_iff_pairwise {α : Type} (lo : Nat) (m : FMap α) :
    Rising lo m ↔ (∀ k ∈ fkeys m, lo ≤ k) ∧ (fkeys m).Pairwise (· < ·) := by
  induction m generalizing lo with
  | nil => simp [Rising, fkeys]
  | cons e m ih =>
    rw [Rising, ih]
    simp only [fkeys, List.map_cons, List.mem_cons, List.pairwise_cons, forall_eq_or_imp]
    constructor
    · rintro ⟨he, hm, hp⟩
      exact ⟨⟨he, fun k hk => by have := hm k hk; omega⟩, fun k hk => hm k hk, hp⟩
    · rintro ⟨⟨he, _⟩, hm, hp⟩
      exact ⟨he, fun k hk => hm k hk, hp⟩

theorem Rising.fset {α : Type} [DecidableEq α] {m : FMap α} (h : Rising 0 m) (n : Nat) (v d : α) :
    Rising 0 (fset m n v d) := by
  unfold Machine.fset
  split
  · exact h.fdel n
  · exact h.fput n v (Nat.zero_le n)

theorem fget_fset_same {α : Type} [DecidableEq α] {m : FMap α} (h : Rising 0 m) (n : Nat) (v d : α) :
    fget (fset m n v d) n d = v := by
  unfold fset
  split
  next hv => simp [fget, fget?_fdel_same h, hv]
  next => simp

theorem mem_setAdd {l : List Nat} {n k : Nat} : k ∈ setAdd l n ↔ k = n ∨ k ∈ l := by
  induction l with
  | nil => simp [setAdd]
  | cons j l ih =>
    unfold setAdd
    split
    · simp
    · split
      next hj => simp [hj]
      next => simp only [List.mem_cons, ih]; tauto

theorem setMem_iff {l : List Nat} {n : Nat} : setMem l n = true ↔ n ∈ l := by simp [setMem]

theorem setMem_setDel_same (l : List Nat) (n : Nat) : setMem (setDel l n) n = false := by
  simp [setMem, setDel]

theorem setMem_setDel_other (l : List Nat) {n k : Nat} (h : k ≠ n) : setMem (setDel l n) k = setMem l k := by
  rw [Bool.eq_iff_iff, setMem_iff, setMem_iff]
  simp [setDel, h]

theorem setMem_setDel_of_false {l : List Nat} {k : Nat} (h : setMem l k = false) (n : Nat) :
    setMem (setDel l n) k = false := by
  by_cases hk : k = n
  · rw [hk]; exact setMem_setDel_same l n
  · rw [setMem_setDel_other l hk]; exact h

theorem length_leBytes (n v : Nat) : (leBytes n v).length = n := by
  induction n generalizing v with
  | zero => rfl
  | succ n ih => simp [leBytes, ih]

theorem leBytes_zero (n : Nat) : leBytes n 0 = List.replicate n 0 := by
  induction n with
  | zero => rfl
  | succ n ih => simp [leBytes, ih, List.replicate_succ]

theorem length_cellsRead (m : List Host.Cell) (a n : Nat) : (cellsRead m a n).length = n := by
  induction n generalizing a with
  | zero => rfl
  | succ n ih => simp [cellsRead, ih]

theorem cellsRead_congr {m m' : List Host.Cell} {a n : Nat} (h : ∀ i < n, cellRead m (a + i) = cellRead m' (a + i)) :
    cellsRead m a n = cellsRead m' a n := by
  induction n generalizing a with
  | zero => rfl
  | succ n ih =>
    have h0 := h 0 (Nat.succ_pos n)
    have hrest : cellsRead m (a + 1) n = cellsRead m' (a + 1) n := ih fun i hi => by
      have := h (i + 1) (by omega)
      rwa [show a + 1 + i = a + (i + 1) by omega]
    simp only [cellsRead, hrest]
    simpa using h0

theorem length_unitRead (s : State) (p : Partition) (key u : Nat) : (unitRead s p key u).length = 16 := by
  unfold unitRead
  split
  · exact length_leBytes 16 _
  · split
    · exact length_cellsRead _ _ 16
    · exact length_leBytes 16 _

/-! ## One byte -/

/-- The form of memory and of the list of unit keys that the operations on physical memory rest on. -/
structure PhysForm (s : State) : Prop where
  mem : Memory.wf s.mem = true
  keys : Rising 0 s.unitKey

/-- What a byte reads as depends on its line's zero mark, its unit's key and its unit's bytes only. -/
theorem physByte_congr {s t : State} {p : Partition} {key a : Nat}
    (hz : setMem t.zeroLines (a / 128) = setMem s.zeroLines (a / 128))
    (hk : fget t.unitKey (a / 16) 0 = fget s.unitKey (a / 16) 0)
    (hm : ∀ k, k / 16 = a / 16 → cellRead t.mem k = cellRead s.mem k) : physByte t p key a = physByte s p key a := by
  have hu : unitBytes t (a / 16) = unitBytes s (a / 16) := cellsRead_congr fun i hi => hm _ (by omega)
  have hl : a / 16 / 8 = a / 128 := by omega
  simp only [physByte, unitRead, hl, hz, hk, hu, hm a rfl]

/-- A byte of a unit under the key of the read, outside the lines marked zero, is the cell. -/
theorem physByte_of_key {s : State} {p : Partition} {key a : Nat} (hz : setMem s.zeroLines (a / 128) = false)
    (hk : fget s.unitKey (a / 16) 0 = key) : physByte s p key a = cellRead s.mem a := by
  simp [physByte, hz, hk]

/-- The units of a line, as the removal of a zero mark keys them. -/
def keyLine (m : FMap Nat) (key line n : Nat) : FMap Nat :=
  (List.range n).foldl (fun m i => fset m (8 * line + i) key 0) m

theorem keyLine_succ (m : FMap Nat) (key line n : Nat) :
    keyLine m key line (n + 1) = fset (keyLine m key line n) (8 * line + n) key 0 := by
  simp [keyLine, List.range_succ]

theorem keyLine_rising {m : FMap Nat} (h : Rising 0 m) (key line n : Nat) : Rising 0 (keyLine m key line n) := by
  induction n with
  | zero => exact h
  | succ n ih => rw [keyLine_succ]; exact ih.fset _ _ _

theorem fget_keyLine {m : FMap Nat} (h : Rising 0 m) (key line n u : Nat) :
    fget (keyLine m key line n) u 0 = if 8 * line ≤ u ∧ u < 8 * line + n then key else fget m u 0 := by
  induction n with
  | zero => rw [if_neg (by omega)]; rfl
  | succ n ih =>
    rw [keyLine_succ]
    by_cases hu : u = 8 * line + n
    · subst hu; rw [fget_fset_same (keyLine_rising h key line n), if_pos (by omega)]
    · rw [fget_fset_other _ _ _ _ hu, ih]
      congr 1
      exact propext (by omega)

theorem unmarkZero_of_marked {s : State} {line : Nat} (h : setMem s.zeroLines line = true) (key : Nat) :
    unmarkZero s key line = { s with
      zeroLines := setDel s.zeroLines line
      unitKey := keyLine s.unitKey key line 8
      mem := cellsWrite s.mem (128 * line) (List.replicate 128 0) } := by
  rw [unmarkZero, if_pos h, leBytes_zero]; rfl

theorem unmarkZero_of_unmarked {s : State} {line : Nat} (h : setMem s.zeroLines line = false) (key : Nat) :
    unmarkZero s key line = s := by
  rw [unmarkZero, if_neg (by simp [h])]

theorem unmarkZero_mem_of_marked {s : State} {line : Nat} (h : setMem s.zeroLines line = true) (key : Nat) :
    (unmarkZero s key line).mem = cellsWrite s.mem (128 * line) (List.replicate 128 0) := by
  rw [unmarkZero_of_marked h]

theorem unmarkZero_unmarked (s : State) (key line : Nat) : setMem (unmarkZero s key line).zeroLines line = false := by
  by_cases h : setMem s.zeroLines line = true
  · rw [unmarkZero_of_marked h]; exact setMem_setDel_same _ _
  · rw [Bool.not_eq_true] at h; rw [unmarkZero_of_unmarked h]; exact h

theorem unmarkZero_form {s : State} (h : PhysForm s) (key line : Nat) : PhysForm (unmarkZero s key line) := by
  refine ⟨unmarkZero_wf h.mem key line, ?_⟩
  by_cases hz : setMem s.zeroLines line = true
  · rw [unmarkZero_of_marked hz]; exact keyLine_rising h.keys _ _ _
  · rw [Bool.not_eq_true] at hz; rw [unmarkZero_of_unmarked hz]; exact h.keys

theorem cellRead_unmarkZero_other (s : State) (key : Nat) {line a : Nat} (ha : a / 128 ≠ line) :
    cellRead (unmarkZero s key line).mem a = cellRead s.mem a := by
  by_cases hz : setMem s.zeroLines line = true
  · rw [unmarkZero_mem_of_marked hz, cellRead_cellsWrite_other _ _ (by rw [List.length_replicate]; omega)]
  · rw [Bool.not_eq_true] at hz; rw [unmarkZero_of_unmarked hz]

/-- Taking a zero mark away changes no byte as read under the key that the line's units come under (R324). -/
theorem physByte_unmarkZero {s : State} (h : PhysForm s) (p : Partition) (key line a : Nat) :
    physByte (unmarkZero s key line) p key a = physByte s p key a := by
  by_cases hz : setMem s.zeroLines line = true
  case neg => rw [Bool.not_eq_true] at hz; rw [unmarkZero_of_unmarked hz]
  by_cases ha : a / 128 = line
  · have hkey : fget (unmarkZero s key line).unitKey (a / 16) 0 = key := by
      rw [unmarkZero_of_marked hz]
      exact (fget_keyLine h.keys key line 8 (a / 16)).trans (if_pos (by omega))
    have hcell : cellRead (unmarkZero s key line).mem a = 0 := by
      rw [unmarkZero_mem_of_marked hz]
      have := cellRead_cellsWrite_same h.mem (128 * line) (List.replicate 128 0) (a - 128 * line)
        (by rw [List.length_replicate]; omega)
      rwa [show 128 * line + (a - 128 * line) = a by omega, List.getElem_replicate] at this
    have hbefore : physByte s p key a = 0 := by simp [physByte, ha, hz]
    rw [physByte_of_key (by rw [ha]; exact unmarkZero_unmarked s key line) hkey, hcell, hbefore]
  · refine physByte_congr ?_ ?_ fun k hk => cellRead_unmarkZero_other s key (by omega)
    · rw [unmarkZero_of_marked hz]; exact setMem_setDel_other _ ha
    · rw [unmarkZero_of_marked hz]
      exact (fget_keyLine h.keys key line 8 (a / 16)).trans (if_neg (by omega))

@[simp] theorem rekeyUnit_zeroLines (s : State) (p : Partition) (key u : Nat) :
    (rekeyUnit s p key u).zeroLines = s.zeroLines := by
  unfold rekeyUnit; split <;> rfl

theorem rekeyUnit_form {s : State} (h : PhysForm s) (p : Partition) (key u : Nat) : PhysForm (rekeyUnit s p key u) := by
  refine ⟨rekeyUnit_wf h.mem p key u, ?_⟩
  unfold rekeyUnit
  split
  · exact h.keys
  · exact h.keys.fset _ _ _

theorem rekeyUnit_key {s : State} (h : PhysForm s) (p : Partition) (key u : Nat) :
    fget (rekeyUnit s p key u).unitKey u 0 = key := by
  unfold rekeyUnit
  split
  next hk => exact hk
  next => exact fget_fset_same h.keys _ _ _

theorem cellRead_rekeyUnit_other (s : State) (p : Partition) (key : Nat) {u a : Nat} (ha : a / 16 ≠ u) :
    cellRead (rekeyUnit s p key u).mem a = cellRead s.mem a := by
  unfold rekeyUnit
  split
  · rfl
  · exact cellRead_cellsWrite_other _ _ (by rw [length_unitRead]; omega)

/-- Bringing a unit under a key changes no byte as read under that key (R317). -/
theorem physByte_rekeyUnit {s : State} (h : PhysForm s) (p : Partition) (key u a : Nat)
    (hz : setMem s.zeroLines (u / 8) = false) : physByte (rekeyUnit s p key u) p key a = physByte s p key a := by
  by_cases hk : fget s.unitKey u 0 = key
  case pos => rw [rekeyUnit, if_pos hk]
  by_cases ha : a / 16 = u
  · subst ha
    have hline : a / 16 / 8 = a / 128 := by omega
    rw [hline] at hz
    have hcell : cellRead (rekeyUnit s p key (a / 16)).mem a = (unitRead s p key (a / 16)).getD (a % 16) 0 := by
      have hlen : a % 16 < (unitRead s p key (a / 16)).length := by rw [length_unitRead]; omega
      have := cellRead_cellsWrite_same h.mem (16 * (a / 16)) (unitRead s p key (a / 16)) (a % 16) hlen
      rw [show 16 * (a / 16) + a % 16 = a by omega] at this
      rw [rekeyUnit, if_neg hk, List.getD_eq_getElem _ _ hlen]
      exact this
    rw [physByte_of_key (by rw [rekeyUnit_zeroLines]; exact hz) (rekeyUnit_key h p key _), hcell]
    simp [physByte, hz, hk]
  · refine physByte_congr (by rw [rekeyUnit_zeroLines]) ?_ fun k hk' => cellRead_rekeyUnit_other s p key (by omega)
    rw [rekeyUnit, if_neg hk]
    exact fget_fset_other _ _ _ _ ha

/-- The state in which a byte is put in its place: its line without a zero mark, its unit under the key of the write. -/
def readied (s : State) (p : Partition) (key pa : Nat) : State :=
  rekeyUnit (unmarkZero s key (pa / 128)) p key (pa / 16)

theorem physWriteByte_eq (s : State) (p : Partition) (key pa : Nat) (b : Byte) :
    physWriteByte s p key pa b
      = { readied s p key pa with mem := cellWrite (readied s p key pa).mem pa b } := rfl

theorem readied_form {s : State} (h : PhysForm s) (p : Partition) (key pa : Nat) : PhysForm (readied s p key pa) :=
  rekeyUnit_form (unmarkZero_form h _ _) _ _ _

theorem readied_unmarked (s : State) (p : Partition) (key pa : Nat) :
    setMem (readied s p key pa).zeroLines (pa / 128) = false := by
  rw [readied, rekeyUnit_zeroLines]; exact unmarkZero_unmarked _ _ _

theorem physByte_readied {s : State} (h : PhysForm s) (p : Partition) (key pa a : Nat) :
    physByte (readied s p key pa) p key a = physByte s p key a := by
  have hz := unmarkZero_unmarked s key (pa / 128)
  rw [show pa / 128 = pa / 16 / 8 by omega] at hz
  rw [readied, physByte_rekeyUnit (unmarkZero_form h _ _) p key _ a (by rwa [show pa / 128 = pa / 16 / 8 by omega]),
    physByte_unmarkZero h]

theorem physWriteByte_form {s : State} (h : PhysForm s) (p : Partition) (key pa : Nat) (b : Byte) :
    PhysForm (physWriteByte s p key pa b) :=
  ⟨physWriteByte_wf h.mem p key pa b, (readied_form h p key pa).keys⟩

theorem physByte_physWriteByte_same {s : State} (h : PhysForm s) (p : Partition) (key pa : Nat) (b : Byte) :
    physByte (physWriteByte s p key pa b) p key pa = b := by
  rw [physByte_of_key (s := physWriteByte s p key pa b) (readied_unmarked s p key pa)
    (rekeyUnit_key (unmarkZero_form h _ _) p key _)]
  exact cellRead_cellWrite_same (readied_form h p key pa).mem pa b

theorem physByte_physWriteByte_other {s : State} (h : PhysForm s) (p : Partition) (key : Nat) {pa a : Nat} (b : Byte)
    (ha : a ≠ pa) : physByte (physWriteByte s p key pa b) p key a = physByte s p key a := by
  rw [← physByte_readied h p key pa a]
  by_cases hu : a / 16 = pa / 16
  · have hz := readied_unmarked s p key pa
    rw [show pa / 128 = a / 128 by omega] at hz
    have hk : fget (readied s p key pa).unitKey (a / 16) 0 = key := by
      rw [hu]; exact rekeyUnit_key (unmarkZero_form h _ _) p key _
    rw [physByte_of_key hz hk, physByte_of_key (s := physWriteByte s p key pa b) hz hk]
    exact cellRead_cellWrite_other _ b ha
  · exact physByte_congr rfl rfl fun k hk => cellRead_cellWrite_other _ b (by omega)

theorem cellRead_physWriteByte_other (s : State) (p : Partition) (key : Nat) {pa a : Nat} (b : Byte)
    (ha : pa / 128 ≠ a / 128) : cellRead (physWriteByte s p key pa b).mem a = cellRead s.mem a := by
  rw [physWriteByte_eq, cellRead_cellWrite_other _ b (by omega), readied, cellRead_rekeyUnit_other _ _ _ (by omega),
    cellRead_unmarkZero_other _ _ (by omega)]

/-! ## A run of bytes -/

/-- One place of a run of bytes, as `physWrite` writes it. -/
def writePlace (p : Partition) (key pa : Nat) (s : State) (e : Nat × Option Byte) : State :=
  match e.2 with
  | some b => physWriteByte s p key (pa + e.1) b
  | none => s

/-- The poison mark of a unit after a run of bytes, as `physWrite` sets it. -/
def markUnit (pa : Nat) (bs : List (Nat × Option Byte)) (s : State) (u : Nat) : State :=
  if bs.any (fun e => decide ((pa + e.1) / 16 = u) && e.2.isNone) then poisonUnit s u
  else if (List.range 16).all (fun i => bs.any (fun e => decide (pa + e.1 = 16 * u + i))) then unpoisonUnit s u
  else s

/-- The units that a run of bytes touches. -/
def unitsOf (pa : Nat) (bs : List (Nat × Option Byte)) : List Nat :=
  bs.foldl (fun l e => setAdd l ((pa + e.1) / 16)) []

theorem physWrite_eq (s : State) (p : Partition) (key pa : Nat) (bs : List (Nat × Option Byte)) :
    physWrite s p key pa bs = (unitsOf pa bs).foldl (markUnit pa bs) (bs.foldl (writePlace p key pa) s) := rfl

/-- The marks change nothing that a byte's reading depends on. -/
theorem foldl_markUnit_data (pa : Nat) (bs : List (Nat × Option Byte)) (us : List Nat) (s : State) :
    (us.foldl (markUnit pa bs) s).mem = s.mem ∧ (us.foldl (markUnit pa bs) s).unitKey = s.unitKey
      ∧ (us.foldl (markUnit pa bs) s).zeroLines = s.zeroLines := by
  induction us generalizing s with
  | nil => exact ⟨rfl, rfl, rfl⟩
  | cons u us ih =>
    have hstep : (markUnit pa bs s u).mem = s.mem ∧ (markUnit pa bs s u).unitKey = s.unitKey
        ∧ (markUnit pa bs s u).zeroLines = s.zeroLines := by
      unfold markUnit
      split
      · exact ⟨rfl, rfl, rfl⟩
      · split <;> exact ⟨rfl, rfl, rfl⟩
    obtain ⟨hm, hk, hz⟩ := ih (markUnit pa bs s u)
    exact ⟨hm.trans hstep.1, hk.trans hstep.2.1, hz.trans hstep.2.2⟩

theorem physByte_foldl_markUnit (pa : Nat) (bs : List (Nat × Option Byte)) (us : List Nat) (s : State) (p : Partition)
    (key a : Nat) : physByte (us.foldl (markUnit pa bs) s) p key a = physByte s p key a := by
  obtain ⟨hm, hk, hz⟩ := foldl_markUnit_data pa bs us s
  exact physByte_congr (by rw [hz]) (by rw [hk]) fun k _ => by rw [hm]

/-- The value that a run of bytes leaves at an address, where it writes one. -/
def lastWritten (pa : Nat) (bs : List (Nat × Option Byte)) (a : Nat) (old : Byte) : Byte :=
  match bs.reverse.find? (fun e => pa + e.1 == a && e.2.isSome) with
  | some (_, some b) => b
  | _ => old

theorem lastWritten_cons (pa : Nat) (e : Nat × Option Byte) (bs : List (Nat × Option Byte)) (a : Nat) (old : Byte) :
    lastWritten pa (e :: bs) a old = lastWritten pa bs a (lastWritten pa [e] a old) := by
  simp only [lastWritten, List.reverse_cons, List.find?_append]
  cases hf : bs.reverse.find? (fun e => pa + e.1 == a && e.2.isSome) with
  | none => simp
  | some f =>
    have hsome := List.find?_some hf
    obtain ⟨i, _ | b⟩ := f
    · simp at hsome
    · rfl

theorem physByte_writePlace {s : State} (h : PhysForm s) (p : Partition) (key pa : Nat) (e : Nat × Option Byte) (a : Nat) :
    physByte (writePlace p key pa s e) p key a = lastWritten pa [e] a (physByte s p key a) := by
  obtain ⟨i, _ | b⟩ := e
  · simp [writePlace, lastWritten]
  · by_cases ha : pa + i = a
    · subst ha; simp [writePlace, lastWritten, physByte_physWriteByte_same h]
    · simp [writePlace, lastWritten, ha, physByte_physWriteByte_other h p key b (Ne.symm ha)]

theorem writePlace_form {s : State} (h : PhysForm s) (p : Partition) (key pa : Nat) (e : Nat × Option Byte) :
    PhysForm (writePlace p key pa s e) := by
  obtain ⟨i, _ | b⟩ := e
  · exact h
  · exact physWriteByte_form h p key _ b

theorem physByte_foldl_writePlace {s : State} (h : PhysForm s) (p : Partition) (key pa : Nat)
    (bs : List (Nat × Option Byte)) (a : Nat) :
    physByte (bs.foldl (writePlace p key pa) s) p key a = lastWritten pa bs a (physByte s p key a) := by
  induction bs generalizing s with
  | nil => rfl
  | cons e bs ih =>
    rw [List.foldl_cons, ih (writePlace_form h p key pa e), physByte_writePlace h, ← lastWritten_cons]

theorem cellRead_foldl_writePlace (s : State) (p : Partition) (key pa : Nat) (bs : List (Nat × Option Byte)) (a : Nat)
    (ha : ∀ e ∈ bs, (pa + e.1) / 128 ≠ a / 128) :
    cellRead (bs.foldl (writePlace p key pa) s).mem a = cellRead s.mem a := by
  induction bs generalizing s with
  | nil => rfl
  | cons e bs ih =>
    obtain ⟨he, hbs⟩ := List.forall_mem_cons.1 ha
    rw [List.foldl_cons, ih _ hbs]
    obtain ⟨i, _ | b⟩ := e
    · rfl
    · exact cellRead_physWriteByte_other s p key b he

theorem mem_foldl_setAdd {α : Type} (f : α → Nat) (l : List α) (us : List Nat) {k : Nat}
    (h : k ∈ us ∨ ∃ e ∈ l, f e = k) : k ∈ l.foldl (fun us e => setAdd us (f e)) us := by
  induction l generalizing us with
  | nil => simpa using h
  | cons e l ih =>
    refine ih (setAdd us (f e)) ?_
    rw [mem_setAdd]
    rcases h with h | ⟨d, hd, hk⟩
    · exact .inl (.inr h)
    · rcases List.mem_cons.1 hd with rfl | hd
      · exact .inl (.inl hk.symm)
      · exact .inr ⟨d, hd, hk⟩

/-- A run without poison marks only takes marks away. -/
theorem markUnit_keeps_clear {s : State} {pa : Nat} {bs : List (Nat × Option Byte)} (hdata : ∀ e ∈ bs, e.2.isSome)
    {u : Nat} (hu : setMem s.poison u = false) (v : Nat) : setMem (markUnit pa bs s v).poison u = false := by
  have hno : bs.any (fun e => decide ((pa + e.1) / 16 = v) && e.2.isNone) = false := by
    rw [List.any_eq_false]; intro e he; simp [Option.ne_none_iff_isSome.2 (hdata e he)]
  unfold markUnit
  rw [hno, if_neg Bool.false_ne_true]
  split
  · exact setMem_setDel_of_false hu v
  · exact hu

/-- A unit written whole with data loses its mark (R369). -/
theorem markUnit_whole {s : State} {pa : Nat} {bs : List (Nat × Option Byte)} (hdata : ∀ e ∈ bs, e.2.isSome)
    {u : Nat} (hwhole : ∀ i, i < 16 → ∃ e ∈ bs, pa + e.1 = 16 * u + i) :
    setMem (markUnit pa bs s u).poison u = false := by
  have hno : bs.any (fun e => decide ((pa + e.1) / 16 = u) && e.2.isNone) = false := by
    rw [List.any_eq_false]; intro e he; simp [Option.ne_none_iff_isSome.2 (hdata e he)]
  have hall : (List.range 16).all (fun i => bs.any (fun e => decide (pa + e.1 = 16 * u + i))) = true := by
    simpa using hwhole
  unfold markUnit
  rw [hno, if_neg Bool.false_ne_true, if_pos hall]
  exact setMem_setDel_same _ _

theorem foldl_markUnit_clear {pa : Nat} {bs : List (Nat × Option Byte)} (hdata : ∀ e ∈ bs, e.2.isSome)
    {u : Nat} (hwhole : ∀ i, i < 16 → ∃ e ∈ bs, pa + e.1 = 16 * u + i) (us : List Nat) (s : State)
    (h : u ∈ us ∨ setMem s.poison u = false) : setMem (us.foldl (markUnit pa bs) s).poison u = false := by
  induction us generalizing s with
  | nil => simpa using h
  | cons v us ih =>
    refine ih _ ?_
    by_cases hv : u = v
    · subst hv; exact .inr (markUnit_whole hdata hwhole)
    · exact h.imp (fun hm => (List.mem_cons.1 hm).resolve_left hv) (fun hc => markUnit_keeps_clear hdata hc v)

/-- Settles O32, by induction on the run of bytes: the removal of a zero mark and the change of a unit's key change no byte
as read under the key of the write. -/
theorem memoryReadAfterWrite : Obligations.MemoryReadAfterWrite := by
  intro s p key pa bs hwf hkeys
  have hform : PhysForm s := ⟨hwf, (rising_iff_pairwise 0 _).2 ⟨fun k _ => Nat.zero_le k, hkeys⟩⟩
  refine ⟨physWrite_wf hwf p key pa bs, fun a => ?_, fun a ha => ?_, fun u hdata hwhole => ?_⟩
  · rw [physWrite_eq, physByte_foldl_markUnit, physByte_foldl_writePlace hform]; rfl
  · rw [physWrite_eq, (foldl_markUnit_data pa bs _ _).1, cellRead_foldl_writePlace s p key pa bs a ha]
  · rw [physWrite_eq]
    obtain ⟨e, he, hu⟩ := hwhole 0 (by omega)
    exact foldl_markUnit_clear hdata hwhole _ _ (.inl (mem_foldl_setAdd _ bs [] (.inr ⟨e, he, by omega⟩)))

end Sys2Proof.Machine
end

section
/-! PROOF. Port frames, link changes, register writes by agents and accesses to the network device (O54). -/

namespace Sys2Proof.Machine

open Sys2Proof

/-! ## Frames at a port -/

theorem portCarries_iff (s : State) (n o : Nat) (f : EthFrame) :
    portCarries s n o f = true ↔ (partOf s n).exists_ = true ∧ (octMask (partOf s n)).testBit o = true
      ∧ setMem s.linkUp o = true ∧ setMem s.portsDown o = false ∧ setMem s.octHeld o = false ∧ f.bytes.length ≤ 9216 := by
  simp [portCarries, lagMember, and_assoc]

theorem toSct_iff (p : Partition) (f : EthFrame) :
    toSct p f = true ↔ f.udp = true ∧ f.udpPort = some (field (reg p .netSctcfg) 63 48) := by
  simp [toSct]

theorem egressOk_iff (p : Partition) (f : EthFrame) :
    egressOk p f = true ↔ f.srcMac = (reg p .netMacaddr).setWidth 48
      ∧ (∀ a, f.srcIp4 = some a → (reg p .netIpv4).getLsbD 32 = true ∧ a = (reg p .netIpv4).setWidth 32)
      ∧ (∀ a, f.srcIp6 = some a → a ≠ 0
        ∧ a = ((reg p .netIpv6h).setWidth 128 <<< 64 ||| (reg p .netIpv6l).setWidth 128)) := by
  unfold egressOk
  generalize (reg p .netIpv6h).setWidth 128 <<< 64 ||| (reg p .netIpv6l).setWidth 128 = ip6
  cases h4 : f.srcIp4 <;> cases h6 : f.srcIp6 <;> simp [and_assoc]
  all_goals (intros; subst_vars; simp_all)

/-- A packet may leave in a frame: the first of its stream, on the stream's port, to its peer (R340, R344). -/
theorem carriesPacket_iff (s : State) (p : Partition) (o : Nat) (f : EthFrame) (k : SctPacket) :
    carriesPacket s p o f k = true
      ↔ p.wire.find? (fun q => streamKey q.dst q.qp.toNat == streamKey k.dst k.qp.toNat) = some k
        ∧ streamPortOf s p (streamKey k.dst k.qp.toNat) = some o ∧ toPeer s p k.dst f = true := by
  simp [carriesPacket, and_assoc]

theorem egress_passes {s : State} {n : Nat} {f : EthFrame} (h : egressOk (partOf s n) f = true) (o : Nat) :
    egress s n o f = { s with sent := s.sent ++ [(o, .frame f)] } := by simp [egress, h]

theorem egress_filtered {s : State} {n : Nat} {f : EthFrame} (h : ¬ egressOk (partOf s n) f = true) (o : Nat) :
    egress s n o f = logViolation s n 4 o 0xFF 0 (f.srcMac.setWidth 64) := by simp [egress, h]

/-- A frame that is not carried, or is addressed to another, is dropped. -/
theorem ethFrameReceive_dropped {s : State} {o : Nat} {f : EthFrame}
    (h : ¬ (portCarries s (partOfOct s o) o f = true
      ∧ (f.dstMac = (reg (partOf s (partOfOct s o)) .netMacaddr).setWidth 48 ∨ f.multicastJoined = true))) :
    exec (.ethFrameReceive o f) s = .next s := by
  rw [exec_ethFrameReceive, execEthFrameReceive]
  refine if_pos ?_
  by_cases hc : portCarries s (partOfOct s o) o f = true
  · simp only [hc, true_and, not_or] at h
    simp [hc, h]
  · simp [hc]

/-- A frame that the partition takes, by what it carries. -/
theorem ethFrameReceive_taken {s : State} {o : Nat} {f : EthFrame} (hc : portCarries s (partOfOct s o) o f = true)
    (hm : f.dstMac = (reg (partOf s (partOfOct s o)) .netMacaddr).setWidth 48 ∨ f.multicastJoined = true) :
    exec (.ethFrameReceive o f) s =
      if f.ptp then .next (ptpSync s (partOfOct s o) o f.ptpOffset)
      else if toSct (partOf s (partOfOct s o)) f then
        match decodeSct f.datagram f.next with
        | some k => takeSct s (partOfOct s o) k
        | none => .next s
      else .next (netDeliver (modPart (takeFree s).2 (partOfOct s o) (fun p => { p with
        osFrames := p.osFrames ++ [(Config.freeNat (takeFree s).1 % max 1 (partOf s (partOfOct s o)).netDev.pairs, f)] }))
        (partOfOct s o)) := by
  rw [exec_ethFrameReceive, execEthFrameReceive]
  refine if_neg ?_
  rcases hm with hm | hm <;> simp [hc, hm]

/-- A packet of SCT goes to the rule of its type (R340). -/
theorem takeSct_eq (s : State) (n : Nat) (k : SctPacket) :
    takeSct s n k = exec (match k.type with
      | .data => .sctData n k
      | .ack => .sctAck n k
      | .nak => .sctNak n k
      | .launch => .sctLaunch n k
      | .abort => .sctAbort n k
      | .state => .sctState n k
      | .lineReq => .sctLineReq n k
      | .lineRsp => .sctLineRsp n k) s := by
  unfold takeSct
  cases k.type <;> rfl

theorem ethFrameTransmit_dropped {s : State} {o : Nat} {f : EthFrame} (hc : ¬ portCarries s (partOfOct s o) o f = true) :
    exec (.ethFrameTransmit o f) s = .next s := by
  rw [exec_ethFrameTransmit, execEthFrameTransmit]
  simp [hc]

/-- A frame that carries no packet of SCT goes to the source filter. -/
theorem ethFrameTransmit_plain {s : State} {o : Nat} {f : EthFrame} (hc : portCarries s (partOfOct s o) o f = true)
    (hk : toSct (partOf s (partOfOct s o)) f = true → decodeSct f.datagram f.next = none) :
    exec (.ethFrameTransmit o f) s = .next (egress s (partOfOct s o) o f) := by
  rw [exec_ethFrameTransmit, execEthFrameTransmit]
  by_cases ht : toSct (partOf s (partOfOct s o)) f = true
  · simp [hc, ht, hk ht]
  · simp [hc, ht]

/-- A frame that carries a packet of SCT, by whether SCT has the packet to send and the port may send it now. -/
theorem ethFrameTransmit_packet {s : State} {o : Nat} {f : EthFrame} {k : SctPacket}
    (hc : portCarries s (partOfOct s o) o f = true) (ht : toSct (partOf s (partOfOct s o)) f = true)
    (hk : decodeSct f.datagram f.next = some k) :
    exec (.ethFrameTransmit o f) s =
      if k ∉ (partOf s (partOfOct s o)).wire then .next (egress s (partOfOct s o) o f)
      else if carriesPacket s (partOf s (partOfOct s o)) o f k then
        .next (egress (modPart s (partOfOct s o) (fun p => { p with wire := p.wire.erase k })) (partOfOct s o) o f)
      else .next s := by
  rw [exec_ethFrameTransmit, execEthFrameTransmit]
  simp [hc, ht, hk]

/-! ## Frames to a queue pair of the network device -/

theorem buffersFor_first {merge : Bool} {a len n : Nat} {rest : List (Nat × Nat)} (h : n ≤ len) :
    buffersFor merge ((a, len) :: rest) n = some 1 := by
  simp [buffersFor, List.range_succ_eq_map, h]

theorem buffersFor_none {merge : Bool} {bufs : List (Nat × Nat)} {n : Nat} (h : (bufs.map (·.2)).sum < n) :
    buffersFor merge bufs n = none := by
  unfold buffersFor
  rw [List.find?_eq_none]
  intro k _
  have hk := ((List.take_sublist k bufs).map (·.2)).sum_le_sum fun _ _ => Nat.zero_le _
  have : ¬ n ≤ ((bufs.take k).map (·.2)).sum := by omega
  rw [decide_eq_false this, Bool.and_false]
  exact Bool.false_ne_true

theorem netHeader_one (valid : Bool) :
    netHeader valid 1 = (if valid then 2 else 0) :: List.replicate 9 0 ++ [1, 0] := by
  cases valid <;> rfl

/-- A frame that fits the first buffer goes into it behind its header (R339). -/
theorem netPut_first {s : State} {n pair a len : Nat} {f : EthFrame} {rest : List (Nat × Nat)}
    (hr : fget (partOf s n).netDev.ready pair [] = (a, len) :: rest) (hl : 12 + (frameBody f).length ≤ len) :
    ∃ valid : Bool, (virtioGuestCsum ∉ (partOf s n).netDev.features → valid = false)
      ∧ netPut s n pair f = some (modPart (physStore (takeFree s).2 n a (placed (netHeader valid 1 ++ frameBody f))) n
        (fun p => { p with netDev := { p.netDev with
          ready := fput p.netDev.ready pair rest
          used := fput p.netDev.used pair (fget p.netDev.used pair [] ++ [(a, 12 + (frameBody f).length)]) } })) := by
  refine ⟨hasFeature (partOf s n) virtioGuestCsum && (Config.freeDWord (takeFree s).1).getLsbD 0, ?_, ?_⟩
  · intro h; simp [hasFeature, h]
  · generalize hv : (hasFeature (partOf s n) virtioGuestCsum && (Config.freeDWord (takeFree s).1).getLsbD 0) = valid
    have hlen : (netHeader valid 1 ++ frameBody f).length = 12 + (frameBody f).length := by
      rw [netHeader_one]; simp; omega
    have hcut : cutOver [(a, len)] (netHeader valid 1 ++ frameBody f) = [(a, netHeader valid 1 ++ frameBody f)] := by
      rw [cutOver, List.take_of_length_le (by omega), cutOver]
    simp only [netPut, hr, buffersFor_first hl, hv, List.take_succ_cons, List.take_zero, hcut, List.foldl_cons,
      List.foldl_nil, List.drop_succ_cons, List.drop_zero, List.map_cons, List.map_nil, hlen]

theorem netPut_none {s : State} {n pair : Nat} {f : EthFrame}
    (h : ((fget (partOf s n).netDev.ready pair []).map (·.2)).sum < 12 + (frameBody f).length) :
    netPut s n pair f = none := by
  simp only [netPut, buffersFor_none h]

/-- One waiting frame, as its pair's buffers take it or not. -/
theorem netDeliver_one {s : State} {n pair : Nat} {f : EthFrame} (h : (partOf s n).osFrames = [(pair, f)]) :
    netDeliver s n = match netPut s n pair f with
      | some t => modPart t n (fun p => { p with osFrames := [] })
      | none => modPart s n (fun p => { p with osFrames := [(pair, f)] }) := by
  simp only [netDeliver, h, List.foldl_cons, List.foldl_nil, List.any_nil, Bool.false_eq_true, if_false]
  cases netPut s n pair f <;> rfl

/-- Writing back what a partition holds changes nothing. -/
theorem modPart_congr {s : State} {n : Nat} {f g : Partition → Partition} (h : f (partOf s n) = g (partOf s n)) :
    modPart s n f = modPart s n g := by simp [modPart, h]

/-! ## Register writes -/

theorem asWriter_next {oct core : Nat} {s t : State} {f : State → Host.Outcome State Fault Refusal}
    (h : f { s with writer := some (oct, core) } = .next t) : asWriter oct core s f = .next { t with writer := none } := by
  simp [asWriter, h]

/-- A refused write is logged in the name of the core that writes (R375). -/
theorem refuseWrite_writer {u : State} {oct core : Nat} (h : u.writer = some (oct, core)) (n : Nat) (v : DWord) :
    ∃ reg, reg < 2 ^ 32 ∧ refuseWrite u n v = modPart (logViolation (takeFree (takeFree u).2).2 n 1 oct core reg v) n
      (fun p => { p with gpcErr := true }) := by
  refine ⟨Config.freeNat (takeFree u).1 % 2 ^ 32, Nat.mod_lt _ (by decide), ?_⟩
  have ha (k : Nat) : gpcAgent (takeFree (takeFree u).2).2 n k = (oct, core) := by
    simp [gpcAgent, takeFree, h]
  simp only [refuseWrite, gpcViolation, ha]

/-- The state in which a register write acts: it knows its writer, and no error response stands (R375). -/
def writeState (s : State) (n : Nat) (who : Agent) : State :=
  modPart { s with writer := some (who.oct, who.core) } n (fun p => { p with gpcErr := false })

theorem registerWrite_down {s : State} {n : Nat} {who : Agent} (h : (partOf s n).kernelDown = true ∧ who.role = .ryukel)
    (r : HReg) (v : DWord) : exec (.registerWrite n who r v) s = .next s := by
  rw [exec_registerWrite, execRegisterWrite, if_pos h]

theorem registerWrite_runs {s t : State} {n : Nat} {who : Agent} {r : HReg} {v : DWord}
    (h : (partOf s n).kernelDown = false ∨ who.role ≠ .ryukel)
    (hw : writeRegister (writeState s n who) n who.role r v = .next t) :
    exec (.registerWrite n who r v) s = .next { t with writer := none } := by
  rw [exec_registerWrite, execRegisterWrite, if_neg (by rcases h with h | h <;> simp [h])]
  exact asWriter_next hw

theorem writeRegister_forbidden {s : State} {n : Nat} {who : Role} {r : HReg} (h : writeMask r.name who = none)
    (v : DWord) : writeRegister s n who r v = .next (refuseWrite s n v) := by simp [writeRegister, h]

/-- Why a write that its agent may make is refused: no such register, a limit, or a reserved bit of an identity register. -/
def WriteRefused (p : Partition) (r : HReg) (m : Nat) (v : DWord) : Prop :=
  regCount r.name ≤ r.idx ∨ limitOk p r (mergeBits (regOf p r) v m) = false
    ∨ strictReserved r.name = true ∧ v &&& ~~~(BitVec.ofNat 64 m) ≠ 0

theorem writeRegister_refused {s : State} {n m : Nat} {who : Role} {r : HReg} {v : DWord}
    (hm : writeMask r.name who = some m) (h : WriteRefused (partOf s n) r m v) :
    writeRegister s n who r v = .next (refuseWrite s n v) := by
  simp only [writeRegister, hm]
  exact if_pos (by simpa [WriteRefused] using h)

theorem writeRegister_accepted {s : State} {n m : Nat} {who : Role} {r : HReg} {v : DWord}
    (hm : writeMask r.name who = some m) (h : ¬ WriteRefused (partOf s n) r m v) :
    writeRegister s n who r v = acceptWrite s n r v (mergeBits (regOf (partOf s n) r) v m) who := by
  simp only [writeRegister, hm]
  exact if_neg (by simpa [WriteRefused] using h)

/-- The registers that a write only stores into. -/
def plainRegisters : List RegName :=
  [.llcRootbase, .llcTasid, .llcShootva, .llcFsarg, .llcMigctl, .llcMigring, .llcMigfi, .llcMigci,
    .llcWbctl, .llcTqos, .llcAtomq, .schSq, .schSqi, .schTctl, .schLtbase, .schNakcfg, .parTiming, .netMacaddr, .netIpv4,
    .netIpv6h, .netIpv6l, .netRank, .netTxcap, .netRwinbase, .netPeerbase, .netSctcfg, .aszRkbase, .aszRklen,
    .aszScanctl, .aszKreqa]

theorem acceptWrite_plain {r : HReg} (h : r.name ∈ plainRegisters) (s : State) (n : Nat) (v new : DWord) (who : Role) :
    acceptWrite s n r v new who = .next (modPart s n (fun p => setReg p r.name r.idx new)) := by
  obtain ⟨name, idx⟩ := r
  simp only [plainRegisters, List.mem_cons, List.not_mem_nil, or_false] at h
  rcases h with rfl | rfl | rfl | rfl | rfl | rfl | rfl | rfl | rfl | rfl | rfl | rfl | rfl | rfl | rfl | rfl | rfl | rfl
    | rfl | rfl | rfl | rfl | rfl | rfl | rfl | rfl | rfl | rfl | rfl | rfl <;> rfl

/-! ## Accesses to the network device -/

/-- A driver's access to the network device, in the name of its core. -/
theorem homeSliceWrite_netDev {s t : State} {n oct core pa : Nat} {d : NetDevAccess} (h : (partOf s n).kernelDown = false)
    (hd : netDevAccess { s with writer := some (oct, core) } n pa d = t) :
    exec (.homeSliceWrite (.gpc n oct core pa (.netDev d))) s = .next { t with writer := none } := by
  have hk : (partOf { s with writer := some (oct, core) } n).kernelDown = false := h
  rw [exec_homeSliceWrite, execHomeSliceWrite]
  refine asWriter_next ?_
  simp only [gpcAccess, hk, hd, Bool.false_eq_true, if_false]

theorem gpcOutside_none {p : Partition} {pa k : Nat} (h : ∀ g ∈ pieces 4096 pa k, frameIn p g = true) :
    gpcOutside p pa k = none := by
  rw [gpcOutside, List.find?_eq_none]; intro g hg; simp [h g hg]

/-! ## The obligation -/

/-- Settles O54, frame by frame from the port's tests and write by write from the register's mask and limits. -/
theorem portsAndRegisters : Obligations.PortsAndRegisters := by
  refine ⟨fun s o f up => ?_, fun s n i m who r v => ?_, fun s n oct core pa k port bits f => ?_⟩
  · intro n p live mine sct key passes leaves
    have hlive : portCarries s n o f = true ↔ live := portCarries_iff s n o f
    have hsct : toSct p f = true ↔ sct := toSct_iff p f
    have hleaves {t : State} (ht : egressOk (partOf t n) f = egressOk p f)
        (hx : exec (.ethFrameTransmit o f) s = .next (egress t n o f)) : leaves t := by
      have hpass : egressOk p f = true ↔ passes := egressOk_iff p f
      rw [← ht] at hpass
      exact ⟨fun h => hx.trans (by rw [egress_passes (hpass.2 h)]),
        fun h => hx.trans (by rw [egress_filtered (mt hpass.1 h)])⟩
    refine ⟨fun h => ethFrameReceive_dropped (by rwa [hlive]), fun hl hm hp => ?_, fun hl hm hp => ?_,
      ?_, fun h => ethFrameTransmit_dropped (mt hlive.1 h), fun hl hk => ?_, ?_, fun ho => ?_⟩
    · rw [ethFrameReceive_taken (hlive.2 hl) hm, if_pos hp]
    · have hx := ethFrameReceive_taken (hlive.2 hl) hm
      rw [hp, if_neg Bool.false_ne_true] at hx
      refine ⟨fun k hs hk => ?_, fun hs hk => ?_, fun hs => ?_⟩
      · rw [hx, if_pos (hsct.2 hs), hk]; exact takeSct_eq s n k
      · rw [hx, if_pos (hsct.2 hs), hk]
      · exact ⟨Config.freeNat (takeFree s).1 % max 1 p.netDev.pairs, Nat.mod_lt _ (by omega),
          hx.trans (if_neg (mt hsct.1 hs))⟩
    · intro pair a len rest body hos
      refine ⟨fun hr hl => ?_, fun hl => ?_⟩
      · obtain ⟨valid, hv, hput⟩ := netPut_first hr hl
        refine ⟨valid, hv, ?_⟩
        rw [netDeliver_one hos, hput, netHeader_one]; rfl
      · rw [netDeliver_one hos, netPut_none hl]
        exact modPart_congr (by rw [← hos])
    · exact hleaves rfl (ethFrameTransmit_plain (hlive.2 hl) fun ht => hk (hsct.1 ht))
    · intro k hl hs hk mayGo
      have hx := ethFrameTransmit_packet (hlive.2 hl) (hsct.2 hs) hk
      have hgo : carriesPacket s p o f k = true ↔ mayGo := carriesPacket_iff s p o f k
      refine ⟨fun h => hleaves rfl (hx.trans (if_pos h)), fun h hm => hleaves ?_ (hx.trans ?_), fun h hm => hx.trans ?_⟩
      · rw [partOf_modPart_same]; rfl
      · rw [if_neg (not_not_intro h), if_pos (hgo.2 hm)]
      · rw [if_neg (not_not_intro h), if_neg (mt hgo.1 hm)]
    · rw [exec_portLinkChange, execPortLinkChange, if_neg (by omega)]
  · intro u p write leaves runs goes refuses
    have hrefuses (hg : goes) (hw : writeRegister u n who.role r v = .next (refuseWrite u n v)) : refuses := by
      obtain ⟨reg, hreg, ht⟩ := refuseWrite_writer (u := u) (oct := who.oct) (core := who.core) rfl n v
      exact ⟨reg, hreg, by rw [← ht]; exact registerWrite_runs hg hw⟩
    refine ⟨rfl, rfl, rfl, rfl, fun hi => ?_, fun hg => ?_, fun hg hm => hrefuses hg (writeRegister_forbidden hm v), ?_⟩
    · rw [exec_stalePairWrite, execStalePairWrite, if_neg (by omega)]
    · refine registerWrite_down ?_ r v
      simpa [goes] using hg
    · intro hg hm new put refused
      have haccept {t : State} (hr : ¬ refused) (ha : acceptWrite u n r v new who.role = .next t) : leaves t :=
        registerWrite_runs hg ((writeRegister_accepted hm hr).trans ha)
      refine ⟨fun hr => hrefuses hg (writeRegister_refused hm hr),
        fun hr hp => haccept hr (acceptWrite_plain hp u n v new who.role), fun hr => ?_⟩
      refine ⟨fun h => haccept hr ?_, fun h => haccept hr ?_, fun h => haccept hr ?_, fun h => haccept hr ?_,
        fun h => haccept hr ?_, fun h => haccept hr ?_, fun h => ⟨fun hw => haccept hr ?_, fun hw =>
          ⟨fun hv t ht => haccept hr ?_, fun hv => haccept hr ?_⟩⟩, fun h t ht => haccept hr ?_,
        fun h t ht => haccept hr ?_, fun h t ht => haccept hr ?_, fun h t ht => haccept hr ?_, fun h t ht => haccept hr ?_⟩
      · rcases (by simpa using h : r.name = .schCq ∨ r.name = .schCqi) with h | h
        · simp only [acceptWrite, afterWrite, h, put]
        · simp only [acceptWrite, afterWrite, h, put]
      · rcases (by simpa using h : r.name = .aszEvq ∨ r.name = .aszEvqi) with h | h
        · simp only [acceptWrite, afterWrite, h, put]
        · simp only [acceptWrite, afterWrite, h, put]
      · simp only [acceptWrite, afterWrite, h, put]; rfl
      · simp only [acceptWrite, afterWrite, h, put]
      · simp only [acceptWrite, h]; rfl
      · simp only [acceptWrite, h]
      · simp only [acceptWrite, h, if_neg hw]
      · simp only [acceptWrite, h, if_pos hw, hv, if_true]; exact ht
      · simp only [acceptWrite, h, if_pos hw, hv, Bool.false_eq_true, if_false]
      all_goals (simp only [acceptWrite, h]; exact ht)
  · intro u p acts body hdown
    refine ⟨homeSliceWrite_netDev hdown rfl, homeSliceWrite_netDev hdown rfl, fun h1 h8 hmq => ?_, fun hin => ?_,
      fun hoct hcarry hpass => ?_⟩
    · have hfeature : hasFeature (partOf u n) virtioMq = true := List.contains_iff_mem.2 hmq
      refine homeSliceWrite_netDev hdown (if_neg ?_)
      rintro (h | h | h)
      · omega
      · exact absurd h8 (by rwa [Nat.not_le])
      · exact h hfeature
    · have hout : gpcOutside (partOf u n) pa k = none := gpcOutside_none hin
      exact homeSliceWrite_netDev hdown (by rw [netDevAccess, hout])
    · have hskip : ¬ (partOfOct u port ≠ n ∨ ¬ portCarries u n port f = true
          ∨ ((none : Option (Nat × Nat)).isSome ∧ ¬ hasFeature (partOf u n) virtioCsum = true)) := by
        rintro (h | h | h)
        · exact h hoct
        · exact h hcarry
        · simp at h
      refine homeSliceWrite_netDev hdown ((if_neg hskip).trans ?_)
      rw [egress_passes (show egressOk (partOf u n) (netFrame none f) = true from hpass)]
      rfl

end Sys2Proof.Machine
end

section
/-! PROOF. What never writes memory: what these functions of the model leave of it (O59). -/

namespace Sys2Proof.Machine

open Sys2Proof

theorem foldl_mem {α : Type} {f : State → α → State} (hf : ∀ s a, (f s a).mem = s.mem) (l : List α) (s : State) :
    (l.foldl f s).mem = s.mem := by
  induction l generalizing s with
  | nil => rfl
  | cons a l ih => exact (ih (f s a)).trans (hf s a)

theorem foldl_bind_mem {α : Type} {f : State → α → Option State} (hf : ∀ s a t, f s a = some t → t.mem = s.mem)
    {l : List α}
    {s t : State} (h : l.foldl (fun (u : Option State) a => u.bind (fun u => f u a)) (some s) = some t) :
      t.mem = s.mem := by
  induction l generalizing s with
  | nil => cases h; rfl
  | cons a l ih =>
    cases hs : f s a with
    | none =>
      have hnone : ∀ l : List α, l.foldl (fun (u : Option State) a => u.bind (fun u => f u a)) none = none := by
        intro l; induction l with
        | nil => rfl
        | cons b l ih => exact ih
      simp only [List.foldl_cons, Option.bind_some, hs, hnone] at h
      cases h
    | some u =>
      simp only [List.foldl_cons, Option.bind_some, hs] at h
      exact (ih h).trans (hf s a u hs)

theorem withWarp_mem {f : State → State} (hf : ∀ s, (f s).mem = s.mem) (s : State) (c l slot : Nat) :
    (withWarp s c l slot f).mem = s.mem := by
  unfold withWarp
  split
  · exact hf s
  · dsimp only
    generalize Option.filter _ _ = saved
    cases saved <;> simp [hf]

@[simp] theorem poisonUnit_mem (s : State) (u : Nat) : (poisonUnit s u).mem = s.mem := by rfl

@[simp] theorem unpoisonUnit_mem (s : State) (u : Nat) : (unpoisonUnit s u).mem = s.mem := by rfl

@[simp] theorem logViolation_mem (s : State) (p kind oct agent regNo : Nat) (addr : DWord) :
    (logViolation s p kind oct agent regNo addr).mem = s.mem := by rfl

@[simp] theorem gpcViolation_mem (s : State) (pn kind reg : Nat) (addr : DWord) :
    (gpcViolation s pn kind reg addr).mem = s.mem := by rfl

@[simp] theorem markDirty_mem (s : State) (pn pline : Nat) : (markDirty s pn pline).mem = s.mem := by rfl

@[simp] theorem l1Forget_mem (s : State) (pn asid line : Nat) : (l1Forget s pn asid line).mem = s.mem := by rfl

@[simp] theorem overFrames_mem (s : State) (t : TlbEntry) (f : Nat → FrameEntry → FrameEntry) :
    (overFrames s t f).mem = s.mem := by
  unfold overFrames
  split
  · rfl
  · exact foldl_mem (fun s i => by simp) _ s

@[simp] theorem dropTlb_mem (s : State) (pn : Nat) (f : TlbEntry → Bool) :
    (dropTlb s pn f).mem = s.mem := by simp [dropTlb, foldl_mem]

@[simp] theorem tlbRoom_mem (s : State) (pn slice : Nat) : (tlbRoom s pn slice).mem = s.mem := by
  unfold tlbRoom
  dsimp only
  split
  · rfl
  · split <;> simp

@[simp] theorem invalidateOthers_mem (s : State) (pn : Nat) (writer : Option Nat) (asid line : Nat) :
    (invalidateOthers s pn writer asid line).mem = s.mem := by rfl

@[simp] theorem recallLines_mem (s : State) (pn : Nat) (lines : List (Nat × Nat)) :
    (recallLines s pn lines).mem = s.mem := by rfl

@[simp] theorem llcTouch_mem (s : State) (pn asid line : Nat) : (llcTouch s pn asid line).mem = s.mem := by
  unfold llcTouch
  split <;> simp

@[simp] theorem l1Room_mem (s : State) (c line : Nat) : (l1Room s c line).mem = s.mem := by
  unfold l1Room
  dsimp only
  split
  · rfl
  · split <;> simp

@[simp] theorem l1Fill_mem (s : State) (pn c asid line : Nat) (row : Option (Nat × Word)) :
    (l1Fill s pn c asid line row).mem = s.mem := by simp [l1Fill, apply_ite State.mem]

@[simp] theorem l1Drop_mem (s : State) (c asid line : Nat) : (l1Drop s c asid line).mem = s.mem := by rfl

@[simp] theorem l1Store_mem (s : State) (c asid line : Nat) (bs : List (Nat × Option Byte)) :
    (l1Store s c asid line bs).mem = s.mem := by rfl

@[simp] theorem reachL1_mem (s : State) (c : Nat) (f : StoreReq → Bool) : (reachL1 s c f).mem = s.mem := by
  unfold reachL1
  simp [foldl_mem, apply_ite State.mem]

@[simp] theorem settleStores_mem (s : State) (c slot : Nat) :
    (settleStores s c slot).mem = s.mem := by simp [settleStores]

@[simp] theorem dropAnswers_mem (s : State) (pn who : Nat) :
    (dropAnswers s pn who).mem = s.mem := by simp [dropAnswers, apply_ite State.mem]

@[simp] theorem forgetAsks_mem (s : State) (pn : Nat) (gone : Nat → Bool) :
    (forgetAsks s pn gone).mem = s.mem := by simp [forgetAsks, apply_ite State.mem]

@[simp] theorem counterAdd_mem (s : State) (pn n : Nat) (v : BitVec 32) : (counterAdd s pn n v).mem = s.mem := by rfl

@[simp] theorem pumpStream_mem (s : State) (pn k : Nat) : (pumpStream s pn k).mem = s.mem := by rfl

@[simp] theorem sendPacket_mem (s : State) (pn : Nat) (k : SctPacket) (owner : Option (Nat × Nat)) :
    (sendPacket s pn k owner).mem = s.mem := by rfl

@[simp] theorem sendLoose_mem (s : State) (pn : Nat) (k : SctPacket) : (sendLoose s pn k).mem = s.mem := by rfl

@[simp] theorem askLine_mem (s : State) (pn c who asid line : Nat) : (askLine s pn c who asid line).mem = s.mem := by
  unfold askLine
  dsimp only
  split
  · rfl
  · split <;> simp

@[simp] theorem sendPeerLine_mem (s : State) (pn asid rank line : Nat) (bs : List Byte) :
    (sendPeerLine s pn asid rank line bs).mem = s.mem := by rfl

@[simp] theorem setAnswer_mem (s : State) (pn rank line : Nat) (bs : List (Nat × Option Byte)) :
    (setAnswer s pn rank line bs).mem = s.mem := by rfl

theorem saveItem_mem {s : State} {pn t : Nat} {i : SaveItem} {r : Nat × State} (h : saveItem s pn t i = some r) :
    r.2.mem = s.mem := by
  unfold saveItem at h
  dsimp only at h
  split at h <;> cases h
  rfl

@[simp] theorem unsaveItem_mem (s : State) (pn t k : Nat) : (unsaveItem s pn t k).mem = s.mem := by rfl

@[simp] theorem dropWhole_mem (s : State) (pn l : Nat) : (dropWhole s pn l).mem = s.mem := by rfl

@[simp] theorem setRefRow_mem (s : State) (c tenant ref : Nat) (r : PoolRow) :
    (setRefRow s c tenant ref r).mem = s.mem := by simp [setRefRow, apply_ite State.mem]

@[simp] theorem addRef_mem (s : State) (c tenant ref : Nat) : (addRef s c tenant ref).mem = s.mem := by simp [addRef]

@[simp] theorem dropRef_mem (s : State) (c tenant ref : Nat) : (dropRef s c tenant ref).mem = s.mem := by simp [dropRef]

@[simp] theorem dropEntry_mem (s : State) (c tenant : Nat) (e : MapEntry) : (dropEntry s c tenant e).mem = s.mem := by
  unfold dropEntry
  split <;> simp

@[simp] theorem dropName_mem (s : State) (c slot n : Nat) : (dropName s c slot n).mem = s.mem := by
  unfold dropName
  split <;> simp

@[simp] theorem redirectRefs_mem (s : State) (c l old new : Nat) : (redirectRefs s c l old new).mem = s.mem := by rfl

@[simp] theorem spillRow_mem (s : State) (c l r : Nat) : (spillRow s c l r).mem = s.mem := by
  unfold spillRow
  split
  · rename_i h; simpa using saveItem_mem h
  · rfl

theorem takeRow_mem {s : State} {c l : Nat} {words : Row} {poison : Mask} {r : Nat × State}
    (h : takeRow s c l words poison = some r) : r.2.mem = s.mem := by
  unfold takeRow at h
  dsimp only at h
  split at h
  · cases h; simp
  · split at h <;> cases h
    simp

theorem reloadRef_mem {s t : State} {c l k : Nat} (h : reloadRef s c l k = some t) : t.mem = s.mem := by
  obtain ⟨r, hr, rfl⟩ := Option.map_eq_some_iff.1 h
  simpa using takeRow_mem hr

theorem reloadName_mem {s t : State} {c slot n : Nat} (h : reloadName s c slot n = some t) : t.mem = s.mem := by
  unfold reloadName at h
  split at h
  · cases h; rfl
  · split at h
    · exact reloadRef_mem h
    · cases h; rfl

@[simp] theorem completeFuture_mem (s : State) (c i : Nat) (st : FutState) (cause : Nat) (detail : BitVec 32) :
    (completeFuture s c i st cause detail).mem = s.mem := by rfl

@[simp] theorem undoOp_mem (s : State) (c o : Nat) (e : EngineOp) : (undoOp s c o e).mem = s.mem := by
  unfold undoOp
  repeat' split
  all_goals simp [apply_ite State.mem]

@[simp] theorem endOp_mem (s : State) (c o : Nat) (st : FutState) (cause : Nat) (detail : BitVec 32) :
    (endOp s c o st cause detail).mem = s.mem := by
  unfold endOp
  repeat' split
  all_goals simp

@[simp] theorem freeTileEntry_mem (s : State) (c i : Nat) : (freeTileEntry s c i).mem = s.mem := by
  unfold freeTileEntry
  dsimp only
  split
  · rfl
  · repeat' split
    all_goals simp [foldl_mem]

@[simp] theorem endResponder_mem (s : State) (c l : Nat) (r : Responder) :
    (endResponder s c l r).mem = s.mem := by simp [endResponder]

@[simp] theorem cancelPosts_mem (s : State) (l : Nat) : (cancelPosts s l).mem = s.mem := by
  unfold cancelPosts
  split
  · rfl
  · refine foldl_mem (fun s e => foldl_mem (fun s o => ?_) _ s) _ s
    repeat' split
    all_goals simp

@[simp] theorem retireCore_mem (s : State) (c slot : Nat) (lost : Bool) : (retireCore s c slot lost).mem = s.mem := by
  unfold retireCore
  repeat' split
  all_goals simp [foldl_mem]

@[simp] theorem terminateOps_mem (s : State) (l : Nat) : (terminateOps s l).mem = s.mem := by
  simp [terminateOps, foldl_mem, apply_ite State.mem]

@[simp] theorem retireStanding_mem (s : State) (l : Nat) : (retireStanding s l).mem = s.mem := by
  simp [retireStanding, foldl_mem, apply_ite State.mem]

@[simp] theorem retireSaved_mem (s : State) (l : Nat) : (retireSaved s l).mem = s.mem := by
  unfold retireSaved
  dsimp only
  rw [dropWhole_mem]
  exact foldl_mem (fun s e => foldl_mem (fun s w => withWarp_mem (fun s => by simp) s _ _ _) _ s) _ s

@[simp] theorem terminate_mem (s : State) (l : Nat) (r : TermRecord) :
    (terminate s l r).mem = s.mem := by simp [terminate, apply_ite State.mem]

@[simp] theorem noHandler_mem (s : State) (c slot : Nat) (sec : Bool) (w : Warp) :
    (noHandler s c slot sec w).mem = s.mem := by simp [noHandler]

@[simp] theorem afterSpan_mem (s : State) (c slot : Nat) : (afterSpan s c slot).mem = s.mem := by
  unfold afterSpan
  repeat' split
  all_goals simp

@[simp] theorem waitHere_mem (s : State) (c slot : Nat) : (waitHere s c slot).mem = s.mem := by
  unfold waitHere
  repeat' split
  all_goals simp

@[simp] theorem parkHere_mem (s : State) (c slot : Nat) : (parkHere s c slot).mem = s.mem := by simp [parkHere]

@[simp] theorem advance_mem (s : State) (x : Ctx) (after : After) : (advance s x after).mem = s.mem := by
  unfold advance
  dsimp only
  repeat' split
  all_goals simp

@[simp] theorem countNaks_mem (s : State) (pn c n : Nat) : (countNaks s pn c n).mem = s.mem := by rfl

@[simp] theorem countNak_mem (s : State) (pn c : Nat) : (countNak s pn c).mem = s.mem := by rfl

@[simp] theorem splitName_mem (s : State) (x : Ctx) (touch : Mask) (n : Nat) :
    (splitName s x touch n).1.mem = s.mem := by
  unfold splitName
  split
  · rfl
  · split
    · dsimp only
      split
      · rfl
      · split
        · simp
        · rename_i h; simpa using takeRow_mem h
    · rfl

@[simp] theorem putLanesAt_mem (s : State) (c slot n : Nat) (m : Mask) (v : Row) (bad : Mask) :
    (putLanesAt s c slot n m v bad).mem = s.mem := by
  unfold putLanesAt
  repeat' split
  all_goals simp

@[simp] theorem putLanes_mem (s : State) (x : Ctx) (n : Nat) (m : Mask) (v : Row) (bad : Mask) :
    (putLanes s x n m v bad).mem = s.mem := by simp [putLanes]

@[simp] theorem modW_mem (s : State) (x : Ctx) (f : Warp → Warp) : (modW s x f).mem = s.mem := by simp [modW]

@[simp] theorem putPLanes_mem (s : State) (x : Ctx) (d : BitVec 4) (m v : Mask) :
    (putPLanes s x d m v).mem = s.mem := by simp [putPLanes, apply_ite State.mem]

@[simp] theorem modNode_mem (s : State) (c l g : Nat) (f : NodeBarrier → NodeBarrier) :
    (modNode s c l g f).mem = s.mem := by rfl

@[simp] theorem arrive_mem (s : State) (x : Ctx) (g : Nat) : (arrive s x g).mem = s.mem := by rfl

@[simp] theorem sendDown_mem (s : State) (pn : Nat) (cores : List Nat) (m : CensusMsg) :
    (sendDown s pn cores m).mem = s.mem := by
  simp [sendDown, foldl_mem, apply_ite State.mem]

@[simp] theorem raiseFlags_mem (s : State) (c slot : Nat) (l : List Flags) :
    (raiseFlags s c slot l).mem = s.mem := by simp [raiseFlags, apply_ite State.mem]

@[simp] theorem markPending_mem (s : State) (x : Ctx) (items : List PendItem) :
    (markPending s x items).mem = s.mem := by simp [markPending]

@[simp] theorem issueLong_mem (s : State) (x : Ctx) (items : List PendItem) (kind : LongKind) (names : List NameWrite)
    (scalars : List (Nat × DWord)) (lines : List (Nat × Nat)) (kill : Option PC) :
    (issueLong s x items kind names scalars lines kill).2.mem = s.mem := by simp [issueLong]

@[simp] theorem landWrites_mem (s : State) (c slot : Nat) (op : LongOp) :
    (landWrites s c slot op).mem = s.mem := by simp [landWrites, foldl_mem]

@[simp] theorem dropLong_mem (s : State) (c slot id : Nat) : (dropLong s c slot id).mem = s.mem := by simp [dropLong]

@[simp] theorem touchLines_mem (s : State) (x : Ctx) (lines : List (Nat × Nat)) (fill : Bool) :
    (touchLines s x lines fill).mem = s.mem := by
  simp [touchLines, foldl_mem, apply_ite State.mem]

@[simp] theorem queueStores_mem (s : State) (x : Ctx) (l : List (Nat × List (Option Byte))) :
    (queueStores s x l).mem = s.mem := by rfl

@[simp] theorem performAccess_mem (s : State) (c l : Nat) (a : Armed) : (performAccess s c l a).mem = s.mem := by
  unfold performAccess
  dsimp only
  split <;> simp [withWarp_mem]

@[simp] theorem submitAccess_mem (s : State) (c l : Nat) (a : Armed) :
    (submitAccess s c l a).mem = s.mem := by simp [submitAccess, apply_ite State.mem]

@[simp] theorem startOp_mem (s : State) (pn c l : Nat) (future : Option Nat) (kind : EngineKind) :
    (startOp s pn c l future kind).2.mem = s.mem := by rfl

@[simp] theorem modOp_mem (s : State) (c o : Nat) (f : EngineOp → EngineOp) : (modOp s c o f).mem = s.mem := by
  unfold modOp
  split <;> simp

@[simp] theorem opTouch_mem (s : State) (pn c : Nat) (op : EngineOp) (reads writes : List Nat) :
    (opTouch s pn c op reads writes).mem = s.mem := by simp [opTouch, foldl_mem]

@[simp] theorem failOp_mem (s : State) (c o : Nat) (f : OpFault) : (failOp s c o f).mem = s.mem := by simp [failOp]

@[simp] theorem spillTile_mem (s : State) (c n : Nat) : (spillTile s c n).mem = s.mem := by
  unfold spillTile
  dsimp only
  rw [modCore_mem]
  split
  · split
    · rename_i h; exact saveItem_mem h
    · rfl
  · rfl

@[simp] theorem restoreTile_mem (s : State) (c n tenant l : Nat) : (restoreTile s c n tenant l).mem = s.mem := by
  unfold restoreTile
  dsimp only
  split
  · split <;> simp
  · rfl

@[simp] theorem giveTile_mem (s : State) (c n o tenant l fmt : Nat) (scales : Bool) :
    (giveTile s c n o tenant l fmt scales).mem = s.mem := by
  unfold giveTile
  dsimp only
  repeat' split
  all_goals simp

@[simp] theorem claimTile_mem (s : State) (c o : Nat) (op : EngineOp) : (claimTile s c o op).mem = s.mem := by
  unfold claimTile
  repeat' split
  all_goals simp [apply_ite State.mem]

@[simp] theorem putDir_mem (s : State) (c i : Nat) (e : TileEntry) : (putDir s c i e).mem = s.mem := by rfl

@[simp] theorem toRoot_mem (s : State) (pn : Nat) (m : RootMsg) : (toRoot s pn m).mem = s.mem := by rfl

@[simp] theorem applyDest_mem (s : State) (sc se dc de o : Nat) : (applyDest s sc se dc de o).mem = s.mem := by
  unfold applyDest
  dsimp only
  repeat' split
  all_goals simp

@[simp] theorem captureReply_mem (s : State) (x : Ctx) (r : Responder) (v : Reply) :
    (captureReply s x r v).mem = s.mem := by simp [captureReply]

@[simp] theorem finishSolicit_mem (s : State) (pn : Nat) (r : RootSlot) : (finishSolicit s pn r).mem = s.mem := by
  unfold finishSolicit
  dsimp only
  split <;> simp

@[simp] theorem reportCore_mem (s : State) (pn c seq : Nat) (res : Option (List Word)) (m r : Nat) :
    (reportCore s pn c seq res m r).mem = s.mem := by
  unfold reportCore
  dsimp only
  repeat' split
  all_goals simp

@[simp] theorem countSref_mem (s : State) (pn : Nat) : (countSref s pn).mem = s.mem := by rfl

@[simp] theorem acceptAtRoot_mem (s : State) (pn c op : Nat) (q : Solicit) :
    (acceptAtRoot s pn c op q).mem = s.mem := by simp [acceptAtRoot, apply_ite State.mem]

@[simp] theorem resendToRoot_mem (s : State) (pn c op : Nat) : (resendToRoot s pn c op).mem = s.mem := by
  unfold resendToRoot
  simp [foldl_mem]

@[simp] theorem landPayload_mem (s : State) (c i : Nat) (q : Solicit) : (landPayload s c i q).mem = s.mem := by rfl

@[simp] theorem markFuture_mem (s : State) (c : Nat) (i : Option Nat) (late skew : Bool) :
    (markFuture s c i late skew).mem = s.mem := by
  unfold markFuture
  split <;> simp

@[simp] theorem chunkPackets_mem (s : State) (pn c o : Nat) (q : Posted) (bs : List Byte) :
    (chunkPackets s pn c o q bs).mem = s.mem := by
  unfold chunkPackets
  repeat' split
  all_goals simp [foldl_mem]

@[simp] theorem modTree_mem (s : State) (pn t : Nat) (f : TreeAbort → TreeAbort) :
    (modTree s pn t f).mem = s.mem := by rfl

@[simp] theorem abortHere_mem (s : State) (pn t : Nat) : (abortHere s pn t).mem = s.mem := by
  simp [abortHere, foldl_mem, apply_ite State.mem]

@[simp] theorem writeBitmap_mem (s : State) (c o : Nat) (bits : List Bool) : (writeBitmap s c o bits).mem = s.mem := by
  unfold writeBitmap
  repeat' split
  all_goals simp

@[simp] theorem rootBitmap_mem (s : State) (pn t : Nat) : (rootBitmap s pn t).mem = s.mem := by
  unfold rootBitmap
  simp [foldl_mem, apply_ite State.mem]

@[simp] theorem reportState_mem (s : State) (pn t rank : Nat) (complete fenced : Bool) :
    (reportState s pn t rank complete fenced).mem = s.mem := by simp [reportState]

@[simp] theorem sendState_mem (s : State) (pn t root : Nat) (complete : Bool) (about : Option Nat) :
    (sendState s pn t root complete about).mem = s.mem := by rfl

@[simp] theorem sendReport_mem (s : State) (pn t : Nat) : (sendReport s pn t).mem = s.mem := by
  unfold sendReport
  dsimp only
  repeat' split
  all_goals simp

@[simp] theorem refreshAges_mem (s : State) (c : Nat) : (refreshAges s c).mem = s.mem := by
  unfold refreshAges
  dsimp only
  rw [foldl_mem (fun s e => by simp)]
  split <;> simp

@[simp] theorem takeGangFree_mem (s : State) (ms : List Member) :
    (takeGangFree s ms).mem = s.mem := by simp [takeGangFree, apply_ite State.mem]

@[simp] theorem setQd_mem (s : State) (c l q : Nat) (v : DWord) : (setQd s c l q v).mem = s.mem := by rfl

@[simp] theorem putQd_mem (s : State) (c l q : Nat) (v : DWord) : (putQd s c l q v).mem = s.mem := by rfl

@[simp] theorem modQEntry_mem (s : State) (c l q e : Nat) (f : QEntry → QEntry) :
    (modQEntry s c l q e f).mem = s.mem := by rfl

@[simp] theorem offerFill_mem (s : State) (pn c o : Nat) : (offerFill s pn c o).mem = s.mem := by
  unfold offerFill
  repeat' split
  all_goals simp

@[simp] theorem retryFills_mem (s : State) (pn c o : Nat) : (retryFills s pn c o).mem = s.mem := by
  unfold retryFills
  repeat' split
  all_goals simp [foldl_mem]

@[simp] theorem clearFeedSlot_mem (s : State) (c : Nat) : (clearFeedSlot s c).mem = s.mem := by rfl

@[simp] theorem failFeed_mem (s : State) (c : Nat) (f : Feed) (cause : Nat) (pc : PC) :
    (failFeed s c f cause pc).mem = s.mem := by simp [failFeed]

@[simp] theorem modIn_mem (s : State) (pn k : Nat) (f : StreamIn → StreamIn) : (modIn s pn k f).mem = s.mem := by rfl

@[simp] theorem sendAck_mem (s : State) (pn : Nat) (k : SctPacket) : (sendAck s pn k).mem = s.mem := by rfl

@[simp] theorem sendNak_mem (s : State) (pn : Nat) (k : SctPacket) (seq : BitVec 32) (err : Bool) (cause : Nat) :
    (sendNak s pn k seq err cause).mem = s.mem := by rfl

@[simp] theorem forwardPacket_mem (s : State) (pn : Nat) (k : SctPacket) (bs : List Byte) :
    (forwardPacket s pn k bs).mem = s.mem := by rfl

@[simp] theorem bumpWindow_mem (s : State) (pn : Nat) (e : List DWord) (k : SctPacket) (broken : Bool) :
    (bumpWindow s pn e k broken).mem = s.mem := by simp [bumpWindow, apply_ite State.mem]

theorem receive_mem {f : State → State} (hf : ∀ s, (f s).mem = s.mem) (s : State) (pn : Nat) (k : SctPacket) :
    (receive s pn k f).mem = s.mem := by
  unfold receive
  repeat' split
  all_goals simp [hf]

@[simp] theorem packetDone_mem (s : State) (pn : Nat) (owner : Option (Nat × Nat)) :
    (packetDone s pn owner).mem = s.mem := by
  unfold packetDone
  repeat' split
  all_goals simp

@[simp] theorem forwardsDone_mem (s : State) (pn key : Nat) (seqs : List (BitVec 32)) :
    (forwardsDone s pn key seqs).mem = s.mem := by
  unfold forwardsDone
  simp [foldl_mem]

@[simp] theorem answerLine_mem (s : State) (pn : Nat) (k : SctPacket) (rsp : Option (List Byte)) :
    (answerLine s pn k rsp).mem = s.mem := by rfl

@[simp] theorem lineNak_mem (s : State) (pn : Nat) (k : SctPacket) :
    (lineNak s pn k).mem = s.mem := by simp [lineNak, apply_ite State.mem]

@[simp] theorem dropNet_mem (s : State) (pn tenant reason : Nat) : (dropNet s pn tenant reason).mem = s.mem := by rfl

@[simp] theorem popStore_mem (s : State) (c n : Nat) : (popStore s c n).mem = s.mem := by rfl

@[simp] theorem gpcRefuse_mem (s : State) (pn frame : Nat) : (gpcRefuse s pn frame).mem = s.mem := by rfl

@[simp] theorem discardNames_mem (s : State) (c slot : Nat) (live : Word) :
    (discardNames s c slot live).mem = s.mem := by simp [discardNames, foldl_mem]

@[simp] theorem discardDead_mem (s : State) (c l : Nat) : (discardDead s c l).mem = s.mem := by
  simp [discardDead, foldl_mem, apply_ite State.mem]

@[simp] theorem stopPath_mem (s : State) (c slot : Nat) (sec : Bool) : (stopPath s c slot sec).mem = s.mem := by
  unfold stopPath
  repeat' split
  all_goals rfl

@[simp] theorem stopStanding_mem (s : State) (l : Nat) :
    (stopStanding s l).mem = s.mem := by simp [stopStanding, foldl_mem]

@[simp] theorem releaseLaunch_mem (s : State) (l : Nat) : (releaseLaunch s l).mem = s.mem := by
  unfold releaseLaunch
  dsimp only
  rw [modLaunch_mem]
  exact foldl_mem (fun s e => by simp) _ s

@[simp] theorem withdrawStop_mem (s : State) (l : Nat) (k : StopKind) : (withdrawStop s l k).mem = s.mem := by
  unfold withdrawStop
  repeat' split
  all_goals simp [apply_ite State.mem]

@[simp] theorem askRun_mem (s : State) (pn tenant : Nat) (r : Nat × Nat) : (askRun s pn tenant r).mem = s.mem := by
  refine foldl_mem (fun s l => ?_) _ s
  repeat' split
  all_goals simp

@[simp] theorem numberChild_mem (s : State) (pn : Nat) (q : PendingRecord) : (numberChild s pn q).2.mem = s.mem := by
  unfold numberChild
  split <;> simp

theorem takePending_mem {s : State} {pn : Nat} {child : Bool} {r : PendingRecord × State}
    (h : takePending s pn child = some r) :
    r.2.mem = s.mem := by
  obtain ⟨q, -, rfl⟩ := Option.map_eq_some_iff.1 h
  simp

@[simp] theorem detailChild_mem (s : State) (c o : Nat) (id : BitVec 32) : (detailChild s c o id).mem = s.mem := by
  unfold detailChild
  split <;> simp

@[simp] theorem reportChild_mem (s : State) (l : Nat) : (reportChild s l).mem = s.mem := by
  unfold reportChild
  dsimp only
  repeat' split
  all_goals simp

@[simp] theorem leaveCore_mem (s : State) (l c : Nat) : (leaveCore s l c).mem = s.mem := by simp [leaveCore, foldl_mem]

@[simp] theorem refuseWrite_mem (s : State) (pn : Nat) (v : DWord) : (refuseWrite s pn v).mem = s.mem := by rfl

@[simp] theorem putEntry_mem (s : State) (x : Ctx) (n : Nat) (e : MapEntry) :
    (putEntry s x n e).mem = s.mem := by simp [putEntry]

@[simp] theorem replaceEntry_mem (s : State) (x : Ctx) (n : Nat) (e : MapEntry) :
    (replaceEntry s x n e).mem = s.mem := by simp [replaceEntry]

@[simp] theorem allocRows_mem (s : State) (x : Ctx) (n : Nat) : (allocRows s x n).1.mem = s.mem := by
  induction n with
  | zero => rfl
  | succ n ih =>
    unfold allocRows
    dsimp only
    split
    · rename_i h; exact (takeRow_mem h).trans ih
    · exact ih

@[simp] theorem setSlot_mem (s : State) (x : Ctx) (h : Nat) (l : List Nat) : (setSlot s x h l).mem = s.mem := by rfl

@[simp] theorem fsResult_mem (s : State) (pn : Nat) (v : DWord) : (fsResult s pn v).mem = s.mem := by rfl

@[simp] theorem takeMigFrame_mem (s : State) (pn o n : Nat) : (takeMigFrame s pn o n).2.mem = s.mem := by
  induction n generalizing s with
  | zero => rfl
  | succ n ih => simp [takeMigFrame, apply_ite Prod.snd, apply_ite State.mem, ih]

@[simp] theorem loadRoutes_mem (s : State) : (loadRoutes s).mem = s.mem := by simp [loadRoutes, foldl_mem]

@[simp] theorem refreshPorts_mem (s : State) : (refreshPorts s).mem = s.mem := by
  exact foldl_mem (fun s n => by simp) _ s

theorem claimRegu_mem {s t : State} {c : Nat} (h : claimRegu s c = some t) : t.mem = s.mem := by
  obtain ⟨l, -, hl⟩ := List.exists_of_findSome?_eq_some h
  split at hl <;> cases hl
  simp

theorem claimUnit_mem {s t : State} {c : Nat} (h : claimUnit s c = some t) : t.mem = s.mem := by
  obtain ⟨l, -, hl⟩ := List.exists_of_findSome?_eq_some h
  split at hl
  · cases hl
  · obtain ⟨r, hr, rfl⟩ := Option.map_eq_some_iff.1 hl
    simpa using saveItem_mem hr

theorem claimFifo_mem {s t : State} {c : Nat} (h : claimFifo s c = some t) : t.mem = s.mem := by
  obtain ⟨l, -, hl⟩ := List.exists_of_findSome?_eq_some h
  split at hl
  · cases hl
  · obtain ⟨r, hr, rfl⟩ := Option.map_eq_some_iff.1 hl
    simpa using saveItem_mem hr

theorem claimTimes_mem {f : State → Option State} (hf : ∀ s t, f s = some t → t.mem = s.mem) {n : Nat} {s t : State}
    (h : claimTimes f n s = some t) : t.mem = s.mem := by
  induction n generalizing s with
  | zero => cases h; rfl
  | succ n ih =>
    obtain ⟨u, hu, hn⟩ := Option.bind_eq_some_iff.1 h
    exact (ih hn).trans (hf s u hu)

theorem claimUnits_mem {regu n : Nat} {s t : State} {c : Nat} (h : claimUnits regu n s c = some t) : t.mem = s.mem := by
  induction n generalizing regu s with
  | zero => cases h; rfl
  | succ n ih =>
    unfold claimUnits at h
    split at h
    · rename_i u hu
      split at hu
      · cases hu
      · exact (ih h).trans (claimRegu_mem hu)
    · obtain ⟨u, hu, hn⟩ := Option.bind_eq_some_iff.1 h
      exact (ih hn).trans (claimUnit_mem hu)

theorem claimSlot_mem {s t : State} {c slot : Nat} (h : claimSlot s c slot = some t) : t.mem = s.mem := by
  unfold claimSlot at h
  split at h
  · cases h; rfl
  · split at h
    · cases h
    · obtain ⟨r, hr, rfl⟩ := Option.map_eq_some_iff.1 h
      simpa using saveItem_mem hr

theorem claimRun_mem {s : State} {c g : Nat} {claims : Bool} {r : Nat × State} (h : claimRun s c g claims = some r) :
    r.2.mem = s.mem := by
  obtain ⟨b, -, hb⟩ := List.exists_of_findSome?_eq_some h
  obtain ⟨t, ht, rfl⟩ := Option.map_eq_some_iff.1 hb
  exact foldl_bind_mem (fun _ _ _ => claimSlot_mem) ht

theorem claimRows_mem {c n : Nat} {s t : State} (h : claimRows c n s = some t) : t.mem = s.mem := by
  induction n generalizing s with
  | zero => cases h; rfl
  | succ n ih =>
    obtain ⟨r, -, hr⟩ := Option.bind_eq_some_iff.1 h
    simpa using ih hr

theorem makeRoom_mem {s t : State} {c units regu fifos : Nat} {claims : Bool}
    (h : makeRoom s c units regu fifos claims = some t) :
    t.mem = s.mem := by
  unfold makeRoom at h
  dsimp only at h
  split at h
  · cases h; rfl
  · split at h
    · obtain ⟨u, hu, h⟩ := Option.bind_eq_some_iff.1 h
      obtain ⟨v, hv, h⟩ := Option.bind_eq_some_iff.1 h
      calc t.mem = v.mem := claimRows_mem h
        _ = u.mem := claimTimes_mem (fun _ _ => claimFifo_mem) hv
        _ = s.mem := claimUnits_mem hu
    · cases h

theorem placeOn_mem {s t : State} {n b c : Nat} {claims : Bool} (h : placeOn s n b c claims = some t) :
    t.mem = s.mem := by
  unfold placeOn at h
  dsimp only at h
  split at h
  · cases h
  · obtain ⟨q, hq, rfl⟩ := Option.map_eq_some_iff.1 h
    obtain ⟨u, hu, hrun⟩ := Option.bind_eq_some_iff.1 hq
    have hu : u.mem = s.mem := by
      split at hu
      · exact makeRoom_mem hu
      · cases hu; rfl
    rw [foldl_mem (fun s i => by split <;> simp), modCl_mem, modCore_mem, claimRun_mem hrun, hu]

theorem placeBlock_mem {s t : State} {n b : Nat} (h : placeBlock s n b = some t) : t.mem = s.mem := by
  unfold placeBlock at h
  dsimp only at h
  split at h
  · rename_i hf
    cases h
    obtain ⟨c, -, hc⟩ := List.exists_of_findSome?_eq_some hf
    exact placeOn_mem hc
  · obtain ⟨c, -, hc⟩ := List.exists_of_findSome?_eq_some h
    exact placeOn_mem hc

theorem placeNew_mem {s t : State} {n : Nat} (h : placeNew s n = some t) : t.mem = s.mem := by
  obtain ⟨u, hu, rfl⟩ := Option.map_eq_some_iff.1 h
  simpa using foldl_bind_mem (fun _ _ _ => placeBlock_mem) hu

theorem resumeOn_mem {s t : State} {n c : Nat} (h : resumeOn s n c = some t) : t.mem = s.mem := by
  unfold resumeOn at h
  dsimp only at h
  split at h
  · cases h
  · obtain ⟨v, hv, h⟩ := Option.bind_eq_some_iff.1 h
    obtain ⟨u, hu, hrows⟩ := Option.bind_eq_some_iff.1 hv
    obtain ⟨w, hw, htimes⟩ := Option.bind_eq_some_iff.1 hu
    obtain ⟨q, hq, rfl⟩ := Option.map_eq_some_iff.1 h
    rw [foldl_mem (fun s e => by simp), modCl_mem]
    calc q.mem = v.mem := foldl_bind_mem (fun _ _ _ => claimSlot_mem) hq
      _ = u.mem := claimRows_mem hrows
      _ = w.mem := claimTimes_mem (fun _ _ => claimFifo_mem) htimes
      _ = s.mem := claimUnits_mem hw

theorem resumeLaunch_mem {s t : State} {n : Nat} (h : resumeLaunch s n = some t) : t.mem = s.mem := by
  obtain ⟨u, hu, rfl⟩ := Option.map_eq_some_iff.1 h
  simpa using foldl_bind_mem (fun _ _ _ => resumeOn_mem) hu

theorem placeLaunch_mem {s t : State} {n : Nat} (h : placeLaunch s n = some t) : t.mem = s.mem := by
  unfold placeLaunch at h
  split at h
  · exact resumeLaunch_mem h
  · exact placeNew_mem h

@[simp] theorem spendCredit_mem (s : State) (pn n : Nat) : (spendCredit s pn n).mem = s.mem := by rfl

@[simp] theorem supposeHalted_mem (s : State) : (supposeHalted s).mem = s.mem := by
  simp [supposeHalted, foldl_mem, apply_ite State.mem]

@[simp] theorem setCmd_mem (s : State) (pn : Nat) (c : Cmd) : (setCmd s pn c).mem = s.mem := by rfl

@[simp] theorem endCmd_mem (s : State) (pn result : Nat) : (endCmd s pn result).mem = s.mem := by rfl

@[simp] theorem goOn_mem (s : State) (pn : Nat) : (goOn s pn).mem = s.mem := by simp [goOn, foldl_mem]

@[simp] theorem renumber_mem (s : State) (old new : Nat) :
    (renumber s old new).mem = s.mem := by simp [renumber, apply_ite State.mem]

@[simp] theorem announce_mem (s : State) (pn : Nat) : (announce s pn).mem = s.mem := by rfl

@[simp] theorem dropImage_mem (s : State) (pn : Nat) :
    (dropImage s pn).mem = s.mem := by simp [dropImage, apply_ite State.mem]

@[simp] theorem freeStructure_mem (s : State) : (freeStructure s).2.mem = s.mem := by rfl

@[simp] theorem restartRecord_mem (s : State) (pn : Nat) : (restartRecord s pn).mem = s.mem := by rfl

@[simp] theorem loseInFlight_mem (s : State) (oct : Nat) : (loseInFlight s oct).mem = s.mem := by
  refine foldl_mem (fun s e => ?_) _ s
  dsimp only
  rw [foldl_mem (fun s o => by simp), foldl_mem (fun s w => by simp)]

@[simp] theorem endScan_mem (s : State) (t : ScanTest) : (endScan s t).mem = s.mem := by simp [endScan, foldl_mem]

@[simp] theorem holdOctants_mem (s : State) (octs : List Nat) (stage : Nat) :
    (holdOctants s octs stage).mem = s.mem := by rfl

@[simp] theorem bootParts_mem (image : BootImage) (l : List (Nat × Nat)) (used : Nat) (s : State) :
    (bootParts image l used s).mem = s.mem := by
  induction l generalizing used s with
  | nil => simp [bootParts]
  | cons e l ih =>
    unfold bootParts
    dsimp only
    repeat' split
    all_goals simp [ih]

@[simp] theorem fenceAtDelivery_mem (s : State) (c : Nat) :
    (fenceAtDelivery s c).mem = s.mem := by simp [fenceAtDelivery, apply_ite State.mem]

@[simp] theorem deriveKeys_mem (s : State) (octs : List Nat) : (deriveKeys s octs).mem = s.mem := by
  unfold deriveKeys
  dsimp only
  split <;> rfl

@[simp] theorem bootAssizes_mem (image : BootImage) (s : State) :
    (bootAssizes image s).mem = s.mem := by simp [bootAssizes]

@[simp] theorem setMeas_mem (s : State) (stage : Nat) (d : BitVec 256) : (setMeas s stage d).mem = s.mem := by rfl

@[simp] theorem reportMeasure_mem (s : State) (pn : Nat) : (reportMeasure s pn).2.mem = s.mem := by rfl

@[simp] theorem keyVerified_mem (s : State) (pn slot : Nat) (launch : Option Nat) (token : Option KeyToken) :
    (keyVerified s pn slot launch token).mem = s.mem := by
  unfold keyVerified
  dsimp only
  repeat' split
  all_goals simp

@[simp] theorem mctpAnswer_mem (s : State) (oct : Nat) (r : MctpRequest) : (mctpAnswer s oct r).2.mem = s.mem := by
  cases r <;> rfl

@[simp] theorem ptpSync_mem (s : State) (pn oct : Nat) (ofs : Int) : (ptpSync s pn oct ofs).mem = s.mem := by
  simp [ptpSync, foldl_mem, apply_ite State.mem]

@[simp] theorem egress_mem (s : State) (pn oct : Nat) (frame : EthFrame) :
    (egress s pn oct frame).mem = s.mem := by simp [egress, apply_ite State.mem]

@[simp] theorem holdPrefix_mem (s : State) (x : Ctx) (f : Span → Span) :
    (holdPrefix s x f).mem = s.mem := by simp [holdPrefix]

@[simp] theorem gpcTakes_mem (s : State) (pn : Nat) (bs : List Byte) : (gpcTakes s pn bs).mem = s.mem := by rfl

@[simp] theorem foldWrite_mem (s : State) (pn : Nat) (new : DWord) : (foldWrite s pn new).mem = s.mem := by rfl

@[simp] theorem treesAnew_mem (s : State) (pn : Nat) : (treesAnew s pn).mem = s.mem := by rfl

@[simp] theorem peerSide_mem (s : State) (x : Ctx) (k : Nat) : (peerSide s x k).2.mem = s.mem := by
  unfold peerSide
  split <;> simp

@[simp] theorem countStale_mem (s : State) (pn reader writer : Nat) : (countStale s pn reader writer).mem = s.mem := by
  unfold countStale
  dsimp only
  split <;> simp

@[simp] theorem rowTake_mem (s : State) (x : Ctx) (lines : List (Nat × Nat)) (first : Option Nat) :
    (rowTake s x lines first).mem = s.mem := by
  unfold rowTake
  repeat' split
  all_goals simp [foldl_mem, apply_ite State.mem]

@[simp] theorem placeWord_mem (s : State) (w lit : Word) :
    (placeWord s w lit).mem = s.mem := by simp [placeWord, apply_ite State.mem]

@[simp] theorem State.withFetchWord_mem (s : State) (nbits w : Nat) :
    (State.withFetchWord s nbits w).mem = s.mem := by simp [State.withFetchWord]

end Sys2Proof.Machine

end

section
/-! PROOF. What writes memory in its canonical form: stores, fills, reports and traps (O59). -/

namespace Sys2Proof.Machine

open Sys2Proof

theorem foldl_cellWrite_at_wf {m : List Host.Cell} (h : Memory.wf m = true) (l : List Host.Cell) (f : Nat → Nat) :
    Memory.wf (l.foldl (fun m e => cellWrite m (f e.1) e.2) m) = true := by
  induction l generalizing m with
  | nil => exact h
  | cons e l ih => exact ih (cellWrite_wf h _ _)

theorem foldl_cellWrite_wf {m : List Host.Cell} (h : Memory.wf m = true) (l : List Host.Cell) :
    Memory.wf (l.foldl (fun m e => cellWrite m e.1 e.2) m) = true := foldl_cellWrite_at_wf h l id

theorem foldl_fst_wf {α β : Type} {f : State × β → α → State × β}
    (hf : ∀ r a, Memory.wf r.1.mem = true → Memory.wf (f r a).1.mem = true) (l : List α) {r : State × β}
    (h : Memory.wf r.1.mem = true) : Memory.wf (l.foldl f r).1.mem = true := by
  induction l generalizing r with
  | nil => exact h
  | cons a l ih => exact ih (hf r a h)

theorem withWarp_wf {f : State → State} (hf : ∀ s, Memory.wf s.mem = true → Memory.wf (f s).mem = true) (s : State)
    (c l slot : Nat)
    (h : Memory.wf s.mem = true) : Memory.wf (withWarp s c l slot f).mem = true := by
  unfold withWarp
  split
  · exact hf s h
  · dsimp only
    generalize Option.filter _ _ = saved
    cases saved <;> simp [hf, h]

@[simp] theorem settleLine_wf (s : State) (pn : Nat) (e : LlcLine) (h : Memory.wf s.mem = true) :
    Memory.wf (settleLine s pn e).mem = true := by
  unfold settleLine
  split
  · exact h
  · refine foldl_wf (fun s k hs => foldl_wf (fun s i hs => ?_) _ hs) _ h
    dsimp only
    split
    · exact cellsWrite_wf hs _ _
    · exact hs

@[simp] theorem dropLlc_wf (s : State) (pn : Nat) (f : LlcLine → Bool) (h : Memory.wf s.mem = true) :
    Memory.wf (dropLlc s pn f).mem = true := by
  unfold dropLlc
  simp +contextual [h, foldl_wf]

@[simp] theorem llcRoom_wf (s : State) (pn : Nat) (e : LlcLine) (h : Memory.wf s.mem = true) :
    Memory.wf (llcRoom s pn e).mem = true := by
  unfold llcRoom
  dsimp only
  repeat' split
  all_goals simp [h]

@[simp] theorem lineCame_wf (s : State) (pn : Nat) (e : LlcLine) (h : Memory.wf s.mem = true) :
    Memory.wf (lineCame s pn e).mem = true := by
  simp [lineCame, h]

@[simp] theorem walkLine_wf (s : State) (pn slice pline : Nat) (h : Memory.wf s.mem = true) :
    Memory.wf (walkLine s pn slice pline).mem = true := by
  unfold walkLine
  repeat' split
  all_goals simp +contextual [h]

@[simp] theorem dropFrameLines_wf (s : State) (pn frame : Nat) (h : Memory.wf s.mem = true) :
    Memory.wf (dropFrameLines s pn frame).mem = true := by
  simp [dropFrameLines, h]

@[simp] theorem physStore_wf (s : State) (pn pa : Nat) (bs : List (Nat × Option Byte)) (h : Memory.wf s.mem = true) :
    Memory.wf (physStore s pn pa bs).mem = true := by
  unfold physStore
  refine foldl_wf (fun s l hs => ?_) _ (foldl_wf (fun s f hs => ?_) _ (physWrite_wf h _ _ _ _))
  · rw [foldl_mem (fun s t => by simp), markDirty_mem]
    exact hs
  · split <;> exact hs

@[simp] theorem fillTlb_wf (s : State) (pn : Nat) (who : Option Nat) (tenant asid vpn : Nat) (k : Acc)
    (h : Memory.wf s.mem = true) :
    Memory.wf (fillTlb s pn who tenant asid vpn k).mem = true := by
  unfold fillTlb
  extract_lets p slice r u owner v
  have hu : Memory.wf u.mem = true := foldl_wf (fun s pa hs => walkLine_wf s pn slice (pa / 128) hs) _ h
  have hv : Memory.wf v.mem = true := by simpa [v] using hu
  clear_value u v
  repeat' split
  all_goals simp [h, hu, hv]

@[simp] theorem llcNow_wf (s : State) (pn asid line : Nat) (h : Memory.wf s.mem = true) :
    Memory.wf (llcNow s pn asid line).mem = true := by
  unfold llcNow
  dsimp only
  repeat' split
  all_goals simp [h]

@[simp] theorem homeWriteAt_wf (s : State) (pn : Nat) (writer : Option Nat) (asid line : Nat) (t : Nat × DWord)
    (bs : List (Nat × Option Byte)) (h : Memory.wf s.mem = true) :
    Memory.wf (homeWriteAt s pn writer asid line t bs).mem = true := by
  unfold homeWriteAt
  dsimp only
  rw [invalidateOthers_mem]
  split <;> simp [physWrite_wf h]

@[simp] theorem homeWrite_wf (s : State) (pn : Nat) (writer : Option Nat) (asid line : Nat)
    (bs : List (Nat × Option Byte)) (h : Memory.wf s.mem = true) :
    Memory.wf (homeWrite s pn writer asid line bs).mem = true := by
  unfold homeWrite
  dsimp only
  repeat' split
  all_goals simp [h]

@[simp] theorem sysTouch_wf (s : State) (pn asid va n : Nat) (k : Acc) (h : Memory.wf s.mem = true) :
    Memory.wf (sysTouch s pn asid va n k).1.mem = true := by
  unfold sysTouch
  extract_lets tenant u p lines bad
  have hu : Memory.wf u.mem = true := foldl_wf (fun s v hs => fillTlb_wf s pn none tenant asid v k hs) _ h
  split
  · exact hu
  · exact foldl_wf (fun s l hs => llcNow_wf s pn asid l hs) _ hu

@[simp] theorem sysWrite_wf (s : State) (pn asid va : Nat) (bs : List Byte) (h : Memory.wf s.mem = true) :
    Memory.wf (sysWrite s pn asid va bs).1.mem = true := by
  unfold sysWrite
  dsimp only
  split
  · exact foldl_wf (fun s l hs => homeWrite_wf s pn none asid l _ hs) _ (sysTouch_wf s pn asid va bs.length .write h)
  · exact sysTouch_wf s pn asid va bs.length .write h

@[simp] theorem ringPush_wf (s : State) (pn : Nat) (ring idx : RegName) (recd : List DWord)
    (h : Memory.wf s.mem = true) :
    Memory.wf (ringPush s pn ring idx recd).1.mem = true := by
  unfold ringPush
  dsimp only
  repeat' split
  all_goals simp [h]

@[simp] theorem flushHeld_wf (s : State) (pn : Nat) (ring idx : RegName) (l : List (List DWord))
    (h : Memory.wf s.mem = true) :
    Memory.wf (flushHeld s pn ring idx l).1.mem = true := by
  induction l generalizing s with
  | nil => exact h
  | cons r rs ih =>
    unfold flushHeld
    dsimp only
    split
    · exact ih _ (ringPush_wf s pn ring idx r h)
    · exact ringPush_wf s pn ring idx r h

@[simp] theorem flushEvents_wf (s : State) (pn : Nat) (h : Memory.wf s.mem = true) :
    Memory.wf (flushEvents s pn).mem = true := by
  unfold flushEvents
  split
  · exact h
  · simp [h]

@[simp] theorem postEvent_wf (s : State) (pn code oct core : Nat) (launch : BitVec 32) (addr detail : DWord)
    (h : Memory.wf s.mem = true) :
    Memory.wf (postEvent s pn code oct core launch addr detail).mem = true := by
  unfold postEvent
  dsimp only
  split <;> simp [h]

@[simp] theorem coreEvent_wf (s : State) (code c : Nat) (launch : BitVec 32) (addr detail : DWord)
    (h : Memory.wf s.mem = true) :
    Memory.wf (coreEvent s code c launch addr detail).mem = true := by
  simp [coreEvent, h]

@[simp] theorem raiseUe_wf (s : State) (pn oct addr structure_ : Nat) (h : Memory.wf s.mem = true) :
    Memory.wf (raiseUe s pn oct addr structure_).mem = true := by
  simp [raiseUe, h]

@[simp] theorem coreUe_wf (s : State) (c : Nat) (launch : BitVec 32) (addr structure_ : Nat)
    (h : Memory.wf s.mem = true) :
    Memory.wf (coreUe s c launch addr structure_).mem = true := by
  simp [coreUe, h]

@[simp] theorem hbmUe_wf (s : State) (pn pa : Nat) (h : Memory.wf s.mem = true) :
    Memory.wf (hbmUe s pn pa).mem = true := by
  simp [hbmUe, h]

@[simp] theorem reportLost_wf (s : State) (pn : Nat) (who : Who) (va : Nat) (h : Memory.wf s.mem = true) :
    Memory.wf (reportLost s pn who va).mem = true := by
  unfold reportLost
  dsimp only
  split <;> simp [h]

@[simp] theorem reportWalk_wf (s : State) (pn asid vpn : Nat) (h : Memory.wf s.mem = true) :
    Memory.wf (reportWalk s pn asid vpn).mem = true := by
  unfold reportWalk
  repeat' split
  all_goals simp +contextual [h]

@[simp] theorem prepPage_wf (s : State) (pn : Nat) (who : Who) (tenant asid : Nat) (k : Acc) (vpn : Nat)
    (h : Memory.wf s.mem = true) :
    Memory.wf (prepPage s pn who tenant asid k vpn).mem = true := by
  simp [prepPage, h]

@[simp] theorem reportRun_wf (s : State) (pn : Nat) (who : Who) (va n : Nat) (h : Memory.wf s.mem = true) :
    Memory.wf (reportRun s pn who va n).mem = true := by
  unfold reportRun
  repeat' split
  all_goals simp +contextual [h, foldl_wf]

@[simp] theorem sysReport_wf (s : State) (pn asid va n : Nat) (h : Memory.wf s.mem = true) :
    Memory.wf (sysReport s pn asid va n).mem = true := by
  unfold sysReport
  exact reportRun_wf _ pn none va n (foldl_wf (fun s v hs => reportWalk_wf s pn asid v hs) _ h)

@[simp] theorem prepRuns_wf (s : State) (pn : Nat) (who : Who) (tenant : Nat) (k : Acc) (runs : List (Nat × Nat))
    (h : Memory.wf s.mem = true) :
    Memory.wf (prepRuns s pn who tenant k runs).mem = true := by
  unfold prepRuns
  refine foldl_wf (fun s e hs => prepPage_wf s pn who tenant e.1 k e.2 hs) _ ?_
  split
  · exact h
  · exact foldl_wf (fun s e hs => reportLost_wf s pn who e.2 hs) _ h

@[simp] theorem prepRange_wf (s : State) (pn : Nat) (who : Who) (tenant : Nat) (k : Acc) (va n : Nat)
    (h : Memory.wf s.mem = true) :
    Memory.wf (prepRange s pn who tenant k va n).mem = true := by
  simp [prepRange, h]

@[simp] theorem sysRead_wf (s : State) (pn asid va n : Nat) (h : Memory.wf s.mem = true) :
    Memory.wf (sysRead s pn asid va n).2.mem = true := by
  simp [sysRead, h]

@[simp] theorem prepBlock_wf (s : State) (pn : Nat) (c : Nat) (id : BitVec 32) (who tenant pc : Nat)
    (h : Memory.wf s.mem = true) :
    Memory.wf (prepBlock s pn c id who tenant pc).mem = true := by
  unfold prepBlock
  dsimp only
  repeat' split
  all_goals simp [h]

@[simp] theorem trapEnter_wf (s : State) (c slot : Nat) (sec : Bool) (tpc : PC) (code : Nat) (tval : DWord)
    (h : Memory.wf s.mem = true) :
    Memory.wf (trapEnter s c slot sec tpc code tval).mem = true := by
  unfold trapEnter
  dsimp only
  repeat' split
  all_goals simp [h]

@[simp] theorem gangTrap_wf (s : State) (c slot : Nat) (code : Nat) (tval : DWord) (h : Memory.wf s.mem = true) :
    Memory.wf (gangTrap s c slot code tval).mem = true := by
  unfold gangTrap
  dsimp only
  repeat' split
  all_goals simp [h]

@[simp] theorem gangLost_wf (s : State) (c slot : Nat) (h : Memory.wf s.mem = true) :
    Memory.wf (gangLost s c slot).mem = true := by
  unfold gangLost
  refine foldl_wf (fun s e hs => ?_) _ h
  split <;> simp [hs]

@[simp] theorem retireWarp_wf (s : State) (c slot : Nat) (lost : Bool) (h : Memory.wf s.mem = true) :
    Memory.wf (retireWarp s c slot lost).mem = true := by
  unfold retireWarp
  dsimp only
  split <;> simp [h]

@[simp] theorem killAt_wf (s : State) (c slot : Nat) (pc : PC) (kills : Mask) (h : Memory.wf s.mem = true) :
    Memory.wf (killAt s c slot pc kills).mem = true := by
  unfold killAt
  split
  · exact h
  · extract_lets fresh addr id u v
    have hv : Memory.wf v.mem = true := coreEvent_wf u _ _ _ _ _ h
    repeat' split
    all_goals simp [h, hv]

@[simp] theorem completeLong_wf (s : State) (c slot : Nat) (op : LongOp) (h : Memory.wf s.mem = true) :
    Memory.wf (completeLong s c slot op).mem = true := by
  unfold completeLong
  dsimp only
  split <;> simp [h]

@[simp] theorem completeOp_wf (s : State) (core warp : Nat) (w : Warp) (o : LongOp) (h : Memory.wf s.mem = true) :
    Memory.wf (completeOp s core warp w o).mem = true := by
  unfold completeOp
  dsimp only
  repeat' split
  all_goals simp [h]

@[simp] theorem prepAccs_wf (s : State) (x : Ctx) (accs : List (Nat × Nat)) (n : Nat) (aligned : Bool) (k : Acc)
    (ask home : Bool) (h : Memory.wf s.mem = true) :
    Memory.wf (prepAccs s x accs n aligned k ask home).mem = true := by
  unfold prepAccs
  split
  · exact h
  · have hp := prepRuns_wf s x.pn (some (x.c, x.l.id)) x.l.tenant k (accs.map (fun e => (e.2, n))) h
    dsimp only
    split
    · refine foldl_wf (fun s l hs => ?_) _ hp
      repeat' split
      all_goals simp [hs]
    · exact hp

@[simp] theorem atHome_wf (s : State) (x : Ctx) (asid line : Nat) (bs : List (Nat × Option Byte))
    (h : Memory.wf s.mem = true) :
    Memory.wf (atHome s x asid line bs).mem = true := by
  unfold atHome
  repeat' split
  all_goals simp +contextual [h]

@[simp] theorem peerBack_wf (s : State) (x : Ctx) (writes : List ((Nat × Nat) × Bool)) (h : Memory.wf s.mem = true) :
    Memory.wf (peerBack s x writes).mem = true := by
  unfold peerBack
  refine foldl_wf (fun s l hs => ?_) _ h
  repeat' split
  all_goals simp [hs]

@[simp] theorem atomWrite_wf (s : State) (x : Ctx) (scope va : Nat) (bs : List (Option Byte))
    (h : Memory.wf s.mem = true) :
    Memory.wf (atomWrite s x scope va bs).mem = true := by
  unfold atomWrite
  repeat' split
  all_goals simp +contextual [h]

@[simp] theorem engineStore_wf (s : State) (pn c : Nat) (op : EngineOp) (line : Nat) (bs : List (Nat × Option Byte))
    (h : Memory.wf s.mem = true) :
    Memory.wf (engineStore s pn c op line bs).mem = true := by
  unfold engineStore
  dsimp only
  repeat' split
  all_goals simp [h]

@[simp] theorem copyUnit_wf (s : State) (pn c o u : Nat) (op : EngineOp) (d : TileDesc) (src dst : Place)
    (h : Memory.wf s.mem = true) :
    Memory.wf (copyUnit s pn c o u op d src dst).mem = true := by
  unfold copyUnit
  cases dst with
  | memory =>
    cases src <;>
    · dsimp only
      split
      · simp [h]
      · split
        · simp [h]
        · exact engineStore_wf _ _ _ _ _ _ (by simp [h])
  | scratch cs =>
    cases src <;>
    · dsimp only
      split
      · simp [h]
      · split <;> simp [h]

@[simp] theorem fillUnit_wf (s : State) (pn c o u : Nat) (op : EngineOp) (n col side stride : Nat) (key : Option Nat)
    (h : Memory.wf s.mem = true) :
    Memory.wf (fillUnit s pn c o u op n col side stride key).mem = true := by
  unfold fillUnit
  dsimp only
  repeat' split
  all_goals simp [h]

@[simp] theorem startSpan_wf (s : State) (c slot : Nat) (sec : Bool) (h : Memory.wf s.mem = true) :
    Memory.wf (startSpan s c slot sec).mem = true := by
  unfold startSpan
  dsimp only
  repeat' split
  all_goals simp [h]

@[simp] theorem firePost_wf (s : State) (pn c o : Nat) (e : EngineOp) (q : Posted) (time : DWord)
    (h : Memory.wf s.mem = true) :
    Memory.wf (firePost s pn c o e q time).mem = true := by
  unfold firePost
  dsimp only
  repeat' split
  all_goals simp [h]

@[simp] theorem touchTree_wf (s : State) (pn t : Nat) (h : Memory.wf s.mem = true) :
    Memory.wf (touchTree s pn t).mem = true := by
  unfold touchTree
  dsimp only
  refine foldl_wf (fun s l hs => ?_) _ (prepRange_wf _ _ _ _ _ _ _ h)
  split <;> simp [hs]

@[simp] theorem startAbort_wf (s : State) (pn t : Nat) (h : Memory.wf s.mem = true) :
    Memory.wf (startAbort s pn t).mem = true := by
  unfold startAbort
  simp +contextual [h, foldl_wf]

@[simp] theorem writeEntryMem_wf (s : State) (x : Ctx) (va : Nat) (e : BitVec 128) (h : Memory.wf s.mem = true) :
    Memory.wf (writeEntryMem s x va e).mem = true := by
  unfold writeEntryMem
  have hp := prepRange_wf s x.pn (some (x.c, x.l.id)) x.l.tenant .write va 16 h
  dsimp only
  generalize prepRange _ _ _ _ _ _ _ = u at hp ⊢
  repeat' split
  all_goals simp [hp]

@[simp] theorem mmaEffect_wf (s : State) (c l : Nat) (ms : List Member) (d : Nat) (fw : Word)
    (h : Memory.wf s.mem = true) :
    Memory.wf (mmaEffect s c l ms d fw).mem = true := by
  unfold mmaEffect
  refine foldl_wf (fun s e hs => ?_) _ ?_
  · split <;> simp [hs]
  · rw [foldl_mem (fun s m => by split <;> simp)]
    dsimp only
    split <;> simpa using h

@[simp] theorem gangRun_wf (s : State) (c l : Nat) (ms : List Member) (h : Memory.wf s.mem = true) :
    Memory.wf (gangRun s c l ms).mem = true := by
  unfold gangRun
  dsimp only
  have hfail : ∀ (u : State) (f : GangFail), Memory.wf u.mem = true →
      Memory.wf (ms.foldl (fun s m => gangTrap s c m.slot f.1 (f.2 m.slot)) u).mem = true :=
    fun u f hu => foldl_wf (fun s m hs => gangTrap_wf s c m.slot f.1 (f.2 m.slot) hs) ms hu
  repeat' split
  all_goals simp [h, hfail]

@[simp] theorem checkAtDrain_wf (s : State) (x : Ctx) (n : Nat) (h : Memory.wf s.mem = true) :
    Memory.wf (checkAtDrain s x n).mem = true := by
  unfold checkAtDrain
  dsimp only
  repeat' split
  all_goals simp [h]

@[simp] theorem endDrain_wf (s : State) (c warp o lo : Nat) (h : Memory.wf s.mem = true) :
    Memory.wf (endDrain s c warp o lo).mem = true := by
  unfold endDrain
  dsimp only
  split
  · exact withWarp_wf (fun s hs => completeLong_wf s c warp _ hs) _ _ _ _ (by simpa using h)
  · simpa using h

@[simp] theorem ingressWrite_wf (s : State) (pn asid va : Nat) (bs : List Byte) (h : Memory.wf s.mem = true) :
    Memory.wf (ingressWrite s pn asid va bs).mem = true := by
  unfold ingressWrite
  refine foldl_wf (fun s l hs => homeWrite_wf _ pn none asid l _ (llcNow_wf s pn asid l hs)) _ ?_
  simpa using h

@[simp] theorem prepLine0_wf (s : State) (pn : Nat) (k : Acc) (line : Nat) (h : Memory.wf s.mem = true) :
    Memory.wf (prepLine0 s pn k line).mem = true := by
  unfold prepLine0
  dsimp only
  split <;> simp [h]

@[simp] theorem dropDrain_wf (s : State) (c o : Nat) (e : EngineOp) (h : Memory.wf s.mem = true) :
    Memory.wf (dropDrain s c o e).mem = true := by
  unfold dropDrain
  repeat' split
  all_goals simp +contextual [h]

@[simp] theorem packetRefused_wf (s : State) (pn key : Nat) (u : SctPacket × Option (Nat × Nat)) (cause : Nat)
    (h : Memory.wf s.mem = true) :
    Memory.wf (packetRefused s pn key u cause).mem = true := by
  unfold packetRefused
  dsimp only
  rw [foldl_mem (fun s f => by simp), modPart_mem]
  repeat' split
  all_goals simp [h]

@[simp] theorem streamNak_wf (s : State) (pn : Nat) (k : SctPacket) (h : Memory.wf s.mem = true) :
    Memory.wf (streamNak s pn k).mem = true := by
  unfold streamNak
  dsimp only
  repeat' split
  all_goals simp [h]

@[simp] theorem launchEntry_wf (s : State) (pn t : Nat) (h : Memory.wf s.mem = true) :
    Memory.wf (launchEntry s pn t).2.mem = true := by
  simp [launchEntry, h]

@[simp] theorem checkNet_wf (s : State) (pn t : Nat) (bs : List Byte) (h : Memory.wf s.mem = true) :
    Memory.wf (checkNet s pn t bs).mem = true := by
  unfold checkNet
  dsimp only
  have he := launchEntry_wf s pn t h
  split
  all_goals
    rename_i heq
    rw [heq] at he
    dsimp only at he
  · simp [he]
  · repeat' split
    all_goals simp [he]

@[simp] theorem takeAbort_wf (s : State) (pn t src : Nat) (h : Memory.wf s.mem = true) :
    Memory.wf (takeAbort s pn t src).mem = true := by
  unfold takeAbort
  dsimp only
  repeat' split
  all_goals simp [h]

@[simp] theorem setFenced_wf (s : State) (pn rank : Nat) (h : Memory.wf s.mem = true) :
    Memory.wf (setFenced s pn rank).mem = true := by
  simp [setFenced, h]

@[simp] theorem fenceOp_wf (s : State) (pn c o rank : Nat) (e : EngineOp) (h : Memory.wf s.mem = true) :
    Memory.wf (fenceOp s pn c o rank e).mem = true := by
  unfold fenceOp
  repeat' split
  all_goals simp +contextual [h]

@[simp] theorem fenceTree_wf (s : State) (pn rank t : Nat) (h : Memory.wf s.mem = true) :
    Memory.wf (fenceTree s pn rank t).mem = true := by
  unfold fenceTree
  dsimp only
  repeat' split
  all_goals simp [h]

@[simp] theorem fencePeer_wf (s : State) (pn rank : Nat) (h : Memory.wf s.mem = true) :
    Memory.wf (fencePeer s pn rank).mem = true := by
  unfold fencePeer
  refine foldl_wf (fun s t hs => fenceTree_wf _ pn rank t (touchTree_wf s pn t hs)) _ ?_
  dsimp only
  rw [foldl_mem (fun s f => by simp), modPart_mem]
  refine foldl_wf (fun s e hs => ?_) _ (by simp [h])
  split
  · exact foldl_wf (fun s o hs => fenceOp_wf s pn e.1 o.1 rank o.2 hs) _ hs
  · exact hs

@[simp] theorem peerStore_wf (s : State) (pn c n rank : Nat) (r : StoreReq) (h : Memory.wf s.mem = true) :
    Memory.wf (peerStore s pn c n rank r).mem = true := by
  unfold peerStore
  dsimp only
  repeat' split
  all_goals simp [h]

@[simp] theorem coreStore_wf (s : State) (c n : Nat) (h : Memory.wf s.mem = true) :
    Memory.wf (coreStore s c n).mem = true := by
  unfold coreStore
  split
  · exact h
  · split
    · split <;> simp [h]
    · split
      · exact h
      · extract_lets pn who tenant u p
        have hu : Memory.wf u.mem = true := by
          simp only [u]
          split <;> simp [h]
        clear_value u
        repeat' split
        all_goals simp [hu]

@[simp] theorem restoreFrame_wf (s : State) (pn i : Nat) (h : Memory.wf s.mem = true) :
    Memory.wf (restoreFrame s pn i).mem = true := by
  unfold restoreFrame
  exact physStore_wf _ pn _ _ (scrubFrame_wf (dropFrameLines_wf s pn _ h) _)

@[simp] theorem placeTable_wf (s : State) (pn : Nat) (h : Memory.wf s.mem = true) :
    Memory.wf (placeTable s pn).mem = true := by
  unfold placeTable
  dsimp only
  split <;> simp [h]

@[simp] theorem runRestart_wf (s : State) (pn : Nat) (h : Memory.wf s.mem = true) :
    Memory.wf (runRestart s pn).mem = true := by
  unfold runRestart
  dsimp only
  split
  · exact h
  · split
    · exact h
    · split
      · exact h
      · rw [modPart_mem]
        exact placeTable_wf _ pn (foldl_wf (fun s i hs => restoreFrame_wf s pn i hs) _ h)

@[simp] theorem haltIfStopped_wf (s : State) (l : Nat) (h : Memory.wf s.mem = true) :
    Memory.wf (haltIfStopped s l).mem = true := by
  unfold haltIfStopped
  dsimp only
  split
  · exact h
  · refine runRestart_wf _ _ ?_
    rw [modLaunch_mem, foldl_mem (fun s c => by simp), takeStamp_mem, foldl_mem (fun s c => by simp)]
    exact h

@[simp] theorem requestStop_wf (s : State) (l : Nat) (k : StopKind) (h : Memory.wf s.mem = true) :
    Memory.wf (requestStop s l k).mem = true := by
  unfold requestStop
  dsimp only
  repeat' split
  all_goals simp [h]

@[simp] theorem flushCompletions_wf (s : State) (pn : Nat) (h : Memory.wf s.mem = true) :
    Memory.wf (flushCompletions s pn).mem = true := by
  unfold flushCompletions
  split
  · exact h
  · dsimp only
    rw [modPart_mem]
    refine flushHeld_wf _ _ _ _ _ ?_
    split <;> simp [h]

@[simp] theorem pushCompletion_wf (s : State) (pn : Nat) (r : List DWord) (h : Memory.wf s.mem = true) :
    Memory.wf (pushCompletion s pn r).mem = true := by
  simp [pushCompletion, h]

@[simp] theorem touchRun_wf (s : State) (pn tenant va n : Nat) (h : Memory.wf s.mem = true) :
    Memory.wf (touchRun s pn tenant va n).mem = true := by
  unfold touchRun
  refine foldl_wf (fun s l hs => ?_) _ (prepRange_wf _ _ _ _ _ _ _ h)
  repeat' split
  all_goals simp [hs]

@[simp] theorem touchRecord_wf (s : State) (pn : Nat) (q : PendingRecord) (h : Memory.wf s.mem = true) :
    Memory.wf (touchRecord s pn q).mem = true := by
  unfold touchRecord
  dsimp only
  repeat' split
  all_goals simp [h]

@[simp] theorem refuseRecord_wf (s : State) (pn : Nat) (q : PendingRecord) (cause addr : Nat)
    (h : Memory.wf s.mem = true) :
    Memory.wf (refuseRecord s pn q cause addr).mem = true := by
  unfold refuseRecord
  repeat' split
  all_goals simp +contextual [h]

@[simp] theorem acceptRecord_wf (s : State) (pn : Nat) (q : PendingRecord) (r : LaunchRec) (groups : List (List Nat))
    (h : Memory.wf s.mem = true) :
    Memory.wf (acceptRecord s pn q r groups).mem = true := by
  unfold acceptRecord
  dsimp only
  split <;> simp [h]

@[simp] theorem finishLaunch_wf (s : State) (l : Nat) (h : Memory.wf s.mem = true) :
    Memory.wf (finishLaunch s l).mem = true := by
  unfold finishLaunch
  dsimp only
  split <;> simp [h, foldl_mem]

@[simp] theorem tearDown_wf (s : State) (pn tenant : Nat) (h : Memory.wf s.mem = true) :
    Memory.wf (tearDown s pn tenant).mem = true := by
  unfold tearDown
  dsimp only
  refine foldl_wf (fun s e hs => ?_) _ (foldl_wf (fun s q hs => ?_) _ (by simp [h]))
  · split <;> simp [hs]
  · simp [hs]

@[simp] theorem shootApply_wf (s : State) (pn : Nat) (m : Nat → Nat → Nat → Bool) (h : Memory.wf s.mem = true) :
    Memory.wf (shootApply s pn m).mem = true := by
  simp [shootApply, h]

@[simp] theorem copyFrame_wf (s : State) (old new : Nat) (h : Memory.wf s.mem = true) :
    Memory.wf (copyFrame s old new).mem = true := by
  unfold copyFrame
  exact foldl_cellWrite_wf (scrubFrame_wf h new) _

@[simp] theorem rewriteLeaf_wf (s : State) (pn : Nat) (t : TlbEntry) (new : Nat) (h : Memory.wf s.mem = true) :
    Memory.wf (rewriteLeaf s pn t new).mem = true := by
  simp [rewriteLeaf, h]

@[simp] theorem postMig_wf (s : State) (pn asid vpn old new : Nat) (h : Memory.wf s.mem = true) :
    Memory.wf (postMig s pn asid vpn old new).mem = true := by
  simp [postMig, h]

@[simp] theorem stopAll_wf (s : State) (pn : Nat) (h : Memory.wf s.mem = true) :
    Memory.wf (stopAll s pn).mem = true := by
  unfold stopAll
  simp +contextual [h, foldl_wf]

@[simp] theorem shootAll_wf (s : State) (pn : Nat) (h : Memory.wf s.mem = true) :
    Memory.wf (shootAll s pn).mem = true := by
  simp [shootAll, h]

@[simp] theorem mergeNow_wf (s : State) (pn other : Nat) (h : Memory.wf s.mem = true) :
    Memory.wf (mergeNow s pn other).mem = true := by
  simp [mergeNow, h]

@[simp] theorem splitNow_wf (s : State) (pn octs : Nat) (h : Memory.wf s.mem = true) :
    Memory.wf (splitNow s pn octs).mem = true := by
  simp [splitNow, h]

theorem rewriteEntries_wf (p : Partition) (part : Nat → Nat → Nat) (rf : Nat → Nat) {s : State}
    (h : Memory.wf s.mem = true)
    (l : List (Nat × DWord)) :
    Memory.wf (l.foldl (fun s e => physWrite s p 0 (part 4096 e.1)
      (placed (bytesOf64 (setField e.2 45 12 (rf (leafFrame e.2)))))) s).mem = true :=
  foldl_wf (fun _ _ hs => physWrite_wf hs _ _ _ _) _ h

@[simp] theorem placeMemory_wf (s : State) (src : Image) (dst : List Nat) (h : Memory.wf s.mem = true) :
    Memory.wf (placeMemory s src dst).mem = true := by
  unfold placeMemory
  extract_lets rf old entries u part v
  have hu : Memory.wf u.mem = true := by
    refine foldl_wf (fun s e hs => ?_) _ h
    dsimp only
    exact scrubFrame_wf hs _
  have hv : Memory.wf v.mem = true := by
    dsimp only [v]
    exact foldl_cellWrite_at_wf hu _ _
  exact rewriteEntries_wf src.part part rf hv entries

@[simp] theorem activateImage_wf (s : State) (pn : Nat) (src : Image) (h : Memory.wf s.mem = true) :
    Memory.wf (activateImage s pn src).mem = true := by
  unfold activateImage
  extract_lets dst rc base rl u v t
  have hv : v.mem = u.mem := foldl_mem (fun s e => by simp) _ _
  have ht : t.mem = v.mem := by
    refine foldl_mem (fun s e => ?_) _ _
    rfl
  rw [announce_mem, refreshPorts_mem, modPart_mem, ht, hv]
  exact placeMemory_wf s src _ h

@[simp] theorem emptied_wf (s : State) (pn : Nat) (h : Memory.wf s.mem = true) :
    Memory.wf (emptied s pn).mem = true := by
  unfold emptied
  extract_lets p e0 e1 u v
  have hu : Memory.wf u.mem = true := by
    refine foldl_wf (fun s f hs => ?_) _ (shootAll_wf s pn h)
    rw [modFrame_mem]
    exact scrubFrame_wf hs f
  rw [refreshPorts_mem, setPart_mem]
  exact hu

@[simp] theorem raiseCe_wf (s : State) (pn oct addr structure_ : Nat) (h : Memory.wf s.mem = true) :
    Memory.wf (raiseCe s pn oct addr structure_).mem = true := by
  simp [raiseCe, h]

@[simp] theorem coreError_wf (s : State) (c : Nat) (ok : Bool) (launch : BitVec 32) (addr structure_ : Nat)
    (h : Memory.wf s.mem = true) :
    Memory.wf (coreError s c ok launch addr structure_).mem = true := by
  simp [coreError, h]

@[simp] theorem loseTile_wf (s : State) (c tile : Nat) (mma : Option (Nat × Nat × Nat × List Nat))
    (h : Memory.wf s.mem = true) :
    Memory.wf (loseTile s c tile mma).mem = true := by
  unfold loseTile
  dsimp only
  refine coreEvent_wf _ _ _ _ _ _ ?_
  split
  · rw [modCore_mem, foldl_mem (fun s o => by simp)]
    exact h
  · rw [foldl_mem (fun s i => by simp), modCore_mem, foldl_mem (fun s o => by simp)]
    exact h

@[simp] theorem triggerRestart_wf (s : State) (pn : Nat) (h : Memory.wf s.mem = true) :
    Memory.wf (triggerRestart s pn).mem = true := by
  unfold triggerRestart
  split
  · exact h
  · refine runRestart_wf _ _ (foldl_wf (fun s e hs => ?_) _ (by simpa using h))
    split <;> simp [hs]

@[simp] theorem fenceCore_wf (s : State) (c : Nat) (h : Memory.wf s.mem = true) :
    Memory.wf (fenceCore s c).mem = true := by
  unfold fenceCore
  simp +contextual [h, foldl_wf]

@[simp] theorem fenceOct_wf (s : State) (o : Nat) (h : Memory.wf s.mem = true) :
    Memory.wf (fenceOct s o).mem = true := by
  unfold fenceOct
  extract_lets u
  have hu : Memory.wf u.mem = true := by
    refine foldl_wf (fun s i hs => ?_) _ h
    dsimp only
    split <;> simp [hs]
  dsimp only
  exact hu

@[simp] theorem putReport_wf (s : State) (pn : Nat) (pa : DWord) (bs : List Byte) (h : Memory.wf s.mem = true) :
    Memory.wf (putReport s pn pa bs).mem = true := by
  unfold putReport
  dsimp only
  split <;> simp [h]

theorem netPut_wf {s t : State} {pn pair : Nat} {f : EthFrame} (h : Memory.wf s.mem = true)
    (ht : netPut s pn pair f = some t) :
    Memory.wf t.mem = true := by
  unfold netPut at ht
  dsimp only at ht
  split at ht <;> cases ht
  rw [modPart_mem]
  exact foldl_wf (fun s e hs => physStore_wf s pn e.1 _ hs) _ h

@[simp] theorem netDeliver_wf (s : State) (pn : Nat) (h : Memory.wf s.mem = true) :
    Memory.wf (netDeliver s pn).mem = true := by
  unfold netDeliver
  rw [modPart_mem]
  refine foldl_fst_wf (fun r e hr => ?_) _ h
  split
  · exact hr
  · split
    · rename_i ht; exact netPut_wf hr ht
    · exact hr

@[simp] theorem prefixWord_wf (s : State) (x : Ctx) (bad : Nat → Bool) (f : Span → Span) (h : Memory.wf s.mem = true) :
    Memory.wf (prefixWord s x bad f).mem = true := by
  unfold prefixWord
  dsimp only
  repeat' split
  all_goals simp [h]

@[simp] theorem gpcConsumes_wf (s : State) (pn pa n : Nat) (h : Memory.wf s.mem = true) :
    Memory.wf (gpcConsumes s pn pa n).mem = true := by
  unfold gpcConsumes
  repeat' split
  all_goals simp +contextual [h]

@[simp] theorem netDevAccess_wf (s : State) (pn pa : Nat) (d : NetDevAccess) (h : Memory.wf s.mem = true) :
    Memory.wf (netDevAccess s pn pa d).mem = true := by
  cases d with
  | config => exact h
  | features bits => exact h
  | pairs k =>
    rw [netDevAccess]
    split
    · exact h
    · exact h
  | send oct csum f =>
    rw [netDevAccess]
    split
    · exact h
    · simpa using h
  | buffer pair k =>
    rw [netDevAccess]
    split
    · simpa using h
    · exact netDeliver_wf _ pn h

@[simp] theorem gpcAccess_wf (s : State) (pn pa : Nat) (a : GpcAccess) (h : Memory.wf s.mem = true) :
    Memory.wf (gpcAccess s pn pa a).mem = true := by
  unfold gpcAccess
  split
  · exact h
  · cases a with
    | load n =>
      dsimp only
      repeat' split
      all_goals simp [h]
    | store bs release =>
      dsimp only
      repeat' split
      all_goals simp [h]
    | amo op wide v release =>
      dsimp only
      repeat' split
      all_goals simp [h]
    | netDev d => exact netDevAccess_wf s pn pa d h

@[simp] theorem setMemKey_wf (s : State) (pn id w : Nat) (v : DWord) (h : Memory.wf s.mem = true) :
    Memory.wf (setMemKey s pn id w v).mem = true := by
  unfold setMemKey
  rw [setPart_mem]
  exact foldl_wf (fun s e hs => cellsWrite_wf hs _ _) _ h

@[simp] theorem prepRow_wf (s : State) (x : Ctx) (r : RowArg) (k : Acc) (h : Memory.wf s.mem = true) :
    Memory.wf (prepRow s x r k).mem = true := by
  unfold prepRow
  repeat' split
  all_goals simp +contextual [h]

end Sys2Proof.Machine

end

section
/-! PROOF. The parts of an instruction's meaning: what holds of the state that each gives or parks in (O59). -/

namespace Sys2Proof.Machine

open Sys2Proof

/-- What a stop before an instruction's effect leaves: where it gives a state to park in, memory keeps its form there. -/
def StopWf : Stop → Prop
  | .park (some t) => Memory.wf t.mem = true
  | _ => True

/-- What holds of how a part of an instruction's meaning ends: `P` of its value, or memory keeps its form where it stops. -/
def Gives {α : Type} (P : α → Prop) : Except Stop α → Prop
  | .ok a => P a
  | .error e => StopWf e

@[simp] theorem gives_ok {α : Type} {P : α → Prop} (a : α) : Gives P (.ok a) ↔ P a := .rfl

@[simp] theorem gives_trap {α : Type} {P : α → Prop} (c : Nat) (v : DWord) : Gives P (.error (.trap c v)) ↔ True := .rfl

@[simp] theorem gives_wait {α : Type} {P : α → Prop} : Gives P (.error .wait) ↔ True := .rfl

@[simp] theorem gives_park_none {α : Type} {P : α → Prop} : Gives P (.error (.park none)) ↔ True := .rfl

@[simp] theorem gives_park_some {α : Type} {P : α → Prop} (t : State) :
    Gives P (.error (.park (some t))) ↔ Memory.wf t.mem = true := .rfl

@[simp] theorem gives_raise {α : Type} {P : α → Prop} (c : Nat) (v : DWord) : Gives P (raise c v) ↔ True := .rfl

@[simp] theorem gives_bind {α β : Type} {P : β → Prop} (x : Except Stop α) (f : α → Except Stop β) :
    Gives P (x >>= f) ↔ Gives (fun a => Gives P (f a)) x := by
  cases x <;> rfl

@[simp] theorem gives_ite {α : Type} {P : α → Prop} (c : Prop) [Decidable c] (x y : Except Stop α) :
    Gives P (if c then x else y) ↔ (c → Gives P x) ∧ (¬ c → Gives P y) := by
  split <;> simp [*]

/-- A part whose values all have `K` has `P` where its values that have `K` do. -/
theorem gives_iff {α : Type} {K P : α → Prop} {x : Except Stop α} (h : Gives K x) :
    Gives P x ↔ ∀ a, x = .ok a → K a → P a := by
  cases x with
  | ok a => exact ⟨fun hp b hb _ => by cases hb; exact hp, fun hp => hp a rfl h⟩
  | error e => exact ⟨fun _ b hb => (nomatch hb), fun _ => h⟩

/-- A part that stops in no state of its own. -/
theorem gives_iff_of_quiet {α : Type} {P : α → Prop} {x : Except Stop α} (h : Gives (fun _ => True) x) :
    Gives P x ↔ ∀ a, x = .ok a → P a :=
  (gives_iff h).trans (by simp)

theorem foldl_fst_mem {α β : Type} {f : State × β → α → State × β} (hf : ∀ r a, (f r a).1.mem = r.1.mem) (l : List α)
    (r : State × β) : (l.foldl f r).1.mem = r.1.mem := by
  induction l generalizing r with
  | nil => rfl
  | cons a l ih => exact (ih (f r a)).trans (hf r a)

@[simp] theorem killLanes_wf (s : State) (x : Ctx) (kills : Mask) (after : After) (h : Memory.wf s.mem = true) :
    Memory.wf (killLanes s x kills after).1.mem = true := killAt_wf s x.c x.slot _ kills h

@[simp] theorem settle_wf (s : State) (x : Ctx) (r : Option Warp) (h : Memory.wf s.mem = true) :
    Memory.wf (settle s x r).1.mem = true := by
  cases r with
  | some w => exact h
  | none => exact retireWarp_wf s x.c x.slot false h

@[simp] theorem raiseIf_gives {P : Unit → Prop} (b : Bool) (code : Nat) (tval : DWord) :
    Gives P (raiseIf b code tval) ↔ (raiseIf b code tval = .ok () → P ()) := by
  refine (gives_iff_of_quiet ?_).trans ⟨fun h => h (), fun h a => h⟩
  simp +contextual [raiseIf]

@[simp] theorem waitIf_gives {P : Unit → Prop} (b : Bool) :
    Gives P (waitIf b) ↔ (waitIf b = .ok () → P ()) := by
  refine (gives_iff_of_quiet ?_).trans ⟨fun h => h (), fun h a => h⟩
  simp +contextual [waitIf]

@[simp] theorem parkIf_gives {P : Unit → Prop} (b : Bool) :
    Gives P (parkIf b) ↔ (parkIf b = .ok () → P ()) := by
  refine (gives_iff_of_quiet ?_).trans ⟨fun h => h (), fun h a => h⟩
  simp +contextual [parkIf]

@[simp] theorem needFirst_gives {P : Unit → Prop} (x : Ctx) :
    Gives P (needFirst x) ↔ (needFirst x = .ok () → P ()) := by
  refine (gives_iff_of_quiet ?_).trans ⟨fun h => h (), fun h a => h⟩
  simp +contextual [needFirst]

@[simp] theorem needLast_gives {P : Unit → Prop} (x : Ctx) :
    Gives P (needLast x) ↔ (needLast x = .ok () → P ()) := by
  refine (gives_iff_of_quiet ?_).trans ⟨fun h => h (), fun h a => h⟩
  simp +contextual [needLast]

@[simp] theorem checkPending_gives {P : Unit → Prop} (w : Warp) (l : List PendItem) :
    Gives P (checkPending w l) ↔ (checkPending w l = .ok () → P ()) := by
  refine (gives_iff_of_quiet ?_).trans ⟨fun h => h (), fun h a => h⟩
  unfold checkPending
  repeat' split
  all_goals simp +contextual

@[simp] theorem checkMapped_gives {P : Unit → Prop} (w : Warp) (l : List Nat) :
    Gives P (checkMapped w l) ↔ (checkMapped w l = .ok () → P ()) := by
  refine (gives_iff_of_quiet ?_).trans ⟨fun h => h (), fun h a => h⟩
  unfold checkMapped
  repeat' split
  all_goals simp +contextual

@[simp] theorem reloadNames_gives {P : State → Prop} (s : State) (x : Ctx) (ns : List Nat) :
    Gives P (reloadNames s x ns) ↔ ∀ t, reloadNames s x ns = .ok t → t.mem = s.mem → P t := by
  refine (gives_iff (K := fun r => r.mem = s.mem) ?_).trans .rfl
  induction ns generalizing s with
  | nil => rfl
  | cons n ns ih =>
    unfold reloadNames
    split
    · simp
    · split
      next t ht =>
        rw [← reloadName_mem ht]
        exact ih t
      next => simp

@[simp] theorem checkRows_gives {P : State → Prop} (before s : State) (x : Ctx) (missing : Nat) :
    Gives P (checkRows before s x missing) ↔ ∀ t, checkRows before s x missing = .ok t → t.mem = s.mem → P t := by
  refine gives_iff (K := fun r : State => r.mem = s.mem) ?_
  simp [checkRows]

@[simp] theorem splitNames_gives {P : State → Prop} (s : State) (x : Ctx) (touch : Mask) (ns : List Nat) :
    Gives P (splitNames s x touch ns) ↔ ∀ t, splitNames s x touch ns = .ok t → t.mem = s.mem → P t := by
  refine (gives_iff (K := fun r => r.mem = s.mem) ?_).trans .rfl
  unfold splitNames
  simp +contextual [foldl_fst_mem]

@[simp] theorem laneCheck_gives {P : State × LaneIn → Prop} (s : State) (x : Ctx) (scalars : List PendItem)
    (srcs dsts : List Nat) (preds dpreds : List PendItem) :
    Gives P (laneCheck s x scalars srcs dsts preds dpreds) ↔ ∀ t i,
      laneCheck s x scalars srcs dsts preds dpreds = .ok (t, i) → t.mem = s.mem → P (t, i) := by
  refine (gives_iff (K := fun r => r.1.mem = s.mem) ?_).trans Prod.forall
  simp +contextual [laneCheck]

@[simp] theorem writeNames_gives {P : State → Prop} (s : State) (x : Ctx) (i : LaneIn) (outs : List (Nat × Row)) :
    Gives P (writeNames s x i outs) ↔ ∀ t, writeNames s x i outs = .ok t → t.mem = s.mem → P t := by
  refine (gives_iff (K := fun r => r.mem = s.mem) ?_).trans .rfl
  unfold writeNames
  simp +contextual [foldl_mem]

@[simp] theorem laneWord_gives {P : State × After → Prop} (x : Ctx) (s : State) (scalars : List PendItem)
    (srcs : List Nat) (preds : List PendItem) (dst : Nat)
    (f : LaneIn → Nat → Word) (hm : Memory.wf s.mem = true) :
    Gives P (laneWord x s scalars srcs preds dst f) ↔ ∀ t b, laneWord x s scalars srcs preds dst f = .ok (t, b) →
      Memory.wf t.mem = true → P (t, b) := by
  refine (gives_iff (K := fun r => Memory.wf r.1.mem = true) ?_).trans Prod.forall
  simp +contextual [laneWord, hm]

@[simp] theorem predWord_gives {P : State × After → Prop} (x : Ctx) (s : State) (srcs : List Nat) (d : BitVec 4)
    (f : LaneIn → Nat → Bool) (hm : Memory.wf s.mem = true) :
    Gives P (predWord x s srcs d f) ↔ ∀ t b, predWord x s srcs d f = .ok (t, b) → Memory.wf t.mem = true →
      P (t, b) := by
  refine (gives_iff (K := fun r => Memory.wf r.1.mem = true) ?_).trans Prod.forall
  simp +contextual [predWord, hm]

@[simp] theorem scalarWord_gives {P : State × After → Prop} (x : Ctx) (s : State) (items : List PendItem)
    (f : Warp → Warp) :
    Gives P (scalarWord x s items f) ↔ ∀ t b, scalarWord x s items f = .ok (t, b) → t.mem = s.mem → P (t, b) := by
  refine (gives_iff (K := fun r => r.1.mem = s.mem) ?_).trans Prod.forall
  simp +contextual [scalarWord]

@[simp] theorem groupOf_gives {P : Nat → Prop} (x : Ctx) (g : BitVec 2) :
    Gives P (groupOf x g) ↔ ∀ r, groupOf x g = .ok r → P r := by
  refine gives_iff_of_quiet ?_
  simp +contextual [groupOf]

@[simp] theorem floatWord_gives {P : State × After → Prop} (x : Ctx) (s : State) (srcs : List Nat) (dst : Nat)
    (f : LaneIn → Nat → Nat × Flags) (hm : Memory.wf s.mem = true) :
    Gives P (floatWord x s srcs dst f) ↔ ∀ t b, floatWord x s srcs dst f = .ok (t, b) → Memory.wf t.mem = true →
      P (t, b) := by
  refine (gives_iff (K := fun r => Memory.wf r.1.mem = true) ?_).trans Prod.forall
  simp +contextual [floatWord, hm]

@[simp] theorem checkScope_gives {P : Unit → Prop} (x : Ctx) (scope : Nat) :
    Gives P (checkScope x scope) ↔ (checkScope x scope = .ok () → P ()) := by
  refine (gives_iff_of_quiet ?_).trans ⟨fun h => h (), fun h a => h⟩
  simp +contextual [checkScope]

@[simp] theorem raiseCause_gives {P : Unit → Prop} (l : List (Nat × Option (Nat × Nat))) :
    Gives P (raiseCause l) ↔ (raiseCause l = .ok () → P ()) := by
  refine (gives_iff_of_quiet ?_).trans ⟨fun h => h (), fun h a => h⟩
  unfold raiseCause
  repeat' split
  all_goals simp +contextual

@[simp] theorem checkAccs_gives {P : Unit → Prop} (s : State) (x : Ctx) (accs : List (Nat × Nat)) (n : Nat)
    (aligned : Bool) (k : Acc) :
    Gives P (checkAccs s x accs n aligned k) ↔ (checkAccs s x accs n aligned k = .ok () → P ()) := by
  refine (gives_iff_of_quiet ?_).trans ⟨fun h => h (), fun h a => h⟩
  simp +contextual [checkAccs]

@[simp] theorem waitLines_gives {P : Unit → Prop} (s : State) (x : Ctx) (lines : List (Nat × Nat)) :
    Gives P (waitLines s x lines) ↔ (waitLines s x lines = .ok () → P ()) := by
  refine (gives_iff_of_quiet ?_).trans ⟨fun h => h (), fun h a => h⟩
  simp +contextual [waitLines]

@[simp] theorem longCheck_gives {P : State × LaneIn → Prop} (s : State) (x : Ctx) (srcs dsts : List Nat) :
    Gives P (longCheck s x srcs dsts) ↔ ∀ t i, longCheck s x srcs dsts = .ok (t, i) → t.mem = s.mem → P (t, i) := by
  refine (gives_iff (K := fun r => r.1.mem = s.mem) ?_).trans Prod.forall
  simp +contextual [longCheck]

@[simp] theorem emptyLong_gives {P : State × After → Prop} (s : State) (x : Ctx) (i : LaneIn) (names : List Nat)
    (items : List PendItem) :
    Gives P (emptyLong s x i names items) ↔ ∀ t b, emptyLong s x i names items = .ok (t, b) → t.mem = s.mem →
      P (t, b) := by
  refine (gives_iff (K := fun r => r.1.mem = s.mem) ?_).trans Prod.forall
  simp +contextual [emptyLong]

@[simp] theorem ldgLanes_gives {P : State × LaneAccs → Prop} (s : State) (x : Ctx) (d a : BitVec 7) (scope : BitVec 3)
    (sz : Nat) :
    Gives P (ldgLanes s x d a scope sz) ↔ ∀ t b, ldgLanes s x d a scope sz = .ok (t, b) → t.mem = s.mem → P (t, b) := by
  refine (gives_iff (K := fun r => r.1.mem = s.mem) ?_).trans Prod.forall
  simp +contextual [ldgLanes]

@[simp] theorem stgLanes_gives {P : State × LaneAccs → Prop} (s : State) (x : Ctx) (d a : BitVec 7) (scope : BitVec 3)
    (sz : Nat) :
    Gives P (stgLanes s x d a scope sz) ↔ ∀ t b, stgLanes s x d a scope sz = .ok (t, b) → t.mem = s.mem → P (t, b) := by
  refine (gives_iff (K := fun r => r.1.mem = s.mem) ?_).trans Prod.forall
  simp +contextual [stgLanes]

@[simp] theorem lduCheck_gives {P : Unit → Prop} (x : Ctx) (d a : BitVec 6) (scope : BitVec 3) :
    Gives P (lduCheck x d a scope) ↔ (lduCheck x d a scope = .ok () → P ()) := by
  refine (gives_iff_of_quiet ?_).trans ⟨fun h => h (), fun h a => h⟩
  simp +contextual [lduCheck]

@[simp] theorem stuCheck_gives {P : Unit → Prop} (x : Ctx) (d a : BitVec 6) (scope : BitVec 3) :
    Gives P (stuCheck x d a scope) ↔ (stuCheck x d a scope = .ok () → P ()) := by
  refine (gives_iff_of_quiet ?_).trans ⟨fun h => h (), fun h a => h⟩
  simp +contextual [stuCheck]

@[simp] theorem atomLanes_gives {P : State × LaneAccs → Prop} (s : State) (x : Ctx) (op ty : Nat) (d a : BitVec 7)
    (scope : BitVec 3) :
    Gives P (atomLanes s x op ty d a scope) ↔ ∀ t b, atomLanes s x op ty d a scope = .ok (t, b) → t.mem = s.mem →
      P (t, b) := by
  refine (gives_iff (K := fun r => r.1.mem = s.mem) ?_).trans Prod.forall
  simp +contextual [atomLanes]

@[simp] theorem waitAble_gives {P : Unit → Prop} (s : State) (x : Ctx) :
    Gives P (waitAble s x) ↔ (waitAble s x = .ok () → P ()) := by
  refine (gives_iff_of_quiet ?_).trans ⟨fun h => h (), fun h a => h⟩
  simp +contextual [waitAble]

@[simp] theorem checkOffsets_gives {P : Unit → Prop} (x : Ctx) (accs : List (Nat × Nat)) (n : Nat) (aligned : Bool) :
    Gives P (checkOffsets x accs n aligned) ↔ (checkOffsets x accs n aligned = .ok () → P ()) := by
  refine (gives_iff_of_quiet ?_).trans ⟨fun h => h (), fun h a => h⟩
  simp +contextual [checkOffsets]

@[simp] theorem takeFuture_gives {P : Nat × DWord × State → Prop} (s : State) (c l kind : Nat) :
    Gives P (takeFuture s c l kind) ↔ ∀ a b t, takeFuture s c l kind = .ok (a, b, t) → t.mem = s.mem → P (a, b, t) := by
  refine (gives_iff (K := fun r => r.2.2.mem = s.mem) ?_).trans ⟨fun h a b c => h (a, b, c), fun h r => h r.1 r.2.1 r.2.2⟩
  unfold takeFuture
  repeat' split
  all_goals simp +contextual

@[simp] theorem waitRuns_gives {P : Unit → Prop} (s : State) (x : Ctx) (runs : List (Nat × Nat)) :
    Gives P (waitRuns s x runs) ↔ (waitRuns s x runs = .ok () → P ()) := by
  refine (gives_iff_of_quiet ?_).trans ⟨fun h => h (), fun h a => h⟩
  simp +contextual [waitRuns]

@[simp] theorem ownLines_gives {P : State → Prop} (s : State) (pn c t : Nat) (reads writes : List Nat) :
    Gives P (ownLines s pn c t reads writes) ↔ ∀ u, ownLines s pn c t reads writes = .ok u → u.mem = s.mem → P u := by
  refine (gives_iff (K := fun r => r.mem = s.mem) ?_).trans .rfl
  simp +contextual [ownLines]

@[simp] theorem startFill_gives {P : DWord × State → Prop} (s : State) (pn c l : Nat) (col side desc : DWord)
    (key : Option Nat) :
    Gives P (startFill s pn c l col side desc key) ↔ ∀ a t, startFill s pn c l col side desc key = .ok (a, t) →
      t.mem = s.mem → P (a, t) := by
  refine (gives_iff (K := fun r => r.2.mem = s.mem) ?_).trans Prod.forall
  unfold startFill
  simp +contextual
  intros
  repeat' split
  all_goals simp +contextual [*]

@[simp] theorem checkHandle_gives {P : Unit → Prop} (s : State) (x : Ctx) (h : DWord) :
    Gives P (checkHandle s x h) ↔ (checkHandle s x h = .ok () → P ()) := by
  refine (gives_iff_of_quiet ?_).trans ⟨fun h => h (), fun h a => h⟩
  simp +contextual [checkHandle]

@[simp] theorem checkScratch_gives {P : Unit → Prop} (l : Launch) (start len : Nat) :
    Gives P (checkScratch l start len) ↔ (checkScratch l start len = .ok () → P ()) := by
  refine (gives_iff_of_quiet ?_).trans ⟨fun h => h (), fun h a => h⟩
  simp +contextual [checkScratch]

@[simp] theorem tileDesc_gives {P : TileDesc → Prop} (a b c d : DWord) (idx : List Nat) (idxDst : Bool) :
    Gives P (tileDesc a b c d idx idxDst) ↔ ∀ r, tileDesc a b c d idx idxDst = .ok r → P r := by
  refine gives_iff_of_quiet ?_
  unfold tileDesc
  simp only [gives_bind, raiseIf_gives]
  intro _
  split <;> simp

@[simp] theorem startTile_gives {P : DWord × State → Prop} (s : State) (pn c l kind : Nat) (d : TileDesc)
    (src dst : Place) :
    Gives P (startTile s pn c l kind d src dst) ↔ ∀ a t, startTile s pn c l kind d src dst = .ok (a, t) →
      t.mem = s.mem → P (a, t) := by
  refine (gives_iff (K := fun r => r.2.mem = s.mem) ?_).trans Prod.forall
  simp +contextual [startTile]

@[simp] theorem startTld_gives {P : DWord × State → Prop} (s : State) (pn c l : Nat) (r : List DWord) :
    Gives P (startTld s pn c l r) ↔ ∀ a t, startTld s pn c l r = .ok (a, t) → t.mem = s.mem → P (a, t) := by
  refine (gives_iff (K := fun r => r.2.mem = s.mem) ?_).trans Prod.forall
  simp +contextual [startTld]

@[simp] theorem checkIndexAlign_gives {P : Unit → Prop} (b : DWord) :
    Gives P (checkIndexAlign b) ↔ (checkIndexAlign b = .ok () → P ()) := by
  refine (gives_iff_of_quiet ?_).trans ⟨fun h => h (), fun h a => h⟩
  simp +contextual [checkIndexAlign]

@[simp] theorem takeRefs_gives {P : State × List Nat → Prop} (s : State) (x : Ctx) (ns : List Nat) :
    Gives P (takeRefs s x ns) ↔ ∀ t b, takeRefs s x ns = .ok (t, b) → t.mem = s.mem → P (t, b) := by
  refine (gives_iff (K := fun r => r.1.mem = s.mem) ?_).trans Prod.forall
  induction ns generalizing s with
  | nil => rfl
  | cons n ns ih =>
    unfold takeRefs
    split
    · exact ih s
    · simp only [gives_bind, raiseIf_gives]
      intro _
      rw [← addRef_mem s x.c x.l.tenant]
      exact (gives_iff (ih _)).2 fun r _ hr => hr

@[simp] theorem checkReply_gives {P : Responder → Prop} (x : Ctx) (vector : Bool) :
    Gives P (checkReply x vector) ↔ ∀ r, checkReply x vector = .ok r → P r := by
  refine gives_iff_of_quiet ?_
  unfold checkReply
  repeat' split
  all_goals simp +contextual

@[simp] theorem checkCounter_gives {P : Unit → Prop} (s : State) (pn tenant n : Nat) :
    Gives P (checkCounter s pn tenant n) ↔ (checkCounter s pn tenant n = .ok () → P ()) := by
  refine (gives_iff_of_quiet ?_).trans ⟨fun h => h (), fun h a => h⟩
  simp +contextual [checkCounter]

@[simp] theorem startPost_gives {P : DWord × State → Prop} (s : State) (x : Ctx) (off : DWord) (time : Option DWord) :
    Gives P (startPost s x off time) ↔ ∀ a t, startPost s x off time = .ok (a, t) → t.mem = s.mem → P (a, t) := by
  refine (gives_iff (K := fun r => r.2.mem = s.mem) ?_).trans Prod.forall
  simp +contextual [startPost]

@[simp] theorem checkLanding_gives {P : Bool → Prop} (s : State) (x : Ctx) (pc : PC) (hm : Memory.wf s.mem = true) :
    Gives P (checkLanding s x pc) ↔ ∀ r, checkLanding s x pc = .ok r → P r := by
  refine gives_iff_of_quiet ?_
  unfold checkLanding
  simp +contextual
  repeat' split
  all_goals simp +contextual [*]

@[simp] theorem transferTo_gives {P : After → Prop} (s : State) (x : Ctx) (pc : PC) (hm : Memory.wf s.mem = true) :
    Gives P (transferTo s x pc) ↔ ∀ r, transferTo s x pc = .ok r → P r := by
  refine gives_iff_of_quiet ?_
  unfold transferTo
  simp +contextual
  simp +contextual [*]

@[simp] theorem targetOf_gives {P : PC → Prop} (v : DWord) :
    Gives P (targetOf v) ↔ ∀ r, targetOf v = .ok r → P r := by
  refine gives_iff_of_quiet ?_
  simp +contextual [targetOf]

@[simp] theorem readEntryMem_gives {P : BitVec 128 × State → Prop} (s : State) (x : Ctx) (va : Nat)
    (hm : Memory.wf s.mem = true) :
    Gives P (readEntryMem s x va) ↔ ∀ a t, readEntryMem s x va = .ok (a, t) → Memory.wf t.mem = true → P (a, t) := by
  refine (gives_iff (K := fun r => Memory.wf r.2.mem = true) ?_).trans Prod.forall
  unfold readEntryMem
  simp +contextual
  simp +contextual [*]

@[simp] theorem pushEntry_gives {P : State × Warp → Prop} (s : State) (x : Ctx) (w : Warp) (sec : Bool) (e : BitVec 128)
    (hm : Memory.wf s.mem = true) :
    Gives P (pushEntry s x w sec e) ↔ ∀ t b, pushEntry s x w sec e = .ok (t, b) → Memory.wf t.mem = true →
      P (t, b) := by
  refine (gives_iff (K := fun r => Memory.wf r.1.mem = true) ?_).trans Prod.forall
  unfold pushEntry
  simp +contextual
  intros
  repeat' split
  all_goals simp +contextual [*]

@[simp] theorem popEntry_gives {P : State × Warp → Prop} (s : State) (x : Ctx) (w : Warp) (sec : Bool)
    (hm : Memory.wf s.mem = true) :
    Gives P (popEntry s x w sec) ↔ ∀ t b, popEntry s x w sec = .ok (t, b) → Memory.wf t.mem = true → P (t, b) := by
  refine (gives_iff (K := fun r => Memory.wf r.1.mem = true) ?_).trans Prod.forall
  unfold popEntry
  simp +contextual
  simp +contextual [*]

@[simp] theorem checkEntry_gives {P : Unit → Prop} (x : Ctx) (w : Warp) (sec : Bool) (e : BitVec 128) :
    Gives P (checkEntry x w sec e) ↔ (checkEntry x w sec e = .ok () → P ()) := by
  refine (gives_iff_of_quiet ?_).trans ⟨fun h => h (), fun h a => h⟩
  simp +contextual [checkEntry]

@[simp] theorem joinContinuation_gives {P : PC × Bool → Prop} (s : State) (x : Ctx) (h : PC)
    (hm : Memory.wf s.mem = true) :
    Gives P (joinContinuation s x h) ↔ ∀ r, joinContinuation s x h = .ok r → P r := by
  refine gives_iff_of_quiet ?_
  unfold joinContinuation
  dsimp only
  split
  · trivial
  · split
    · simp [hm]
    · split
      · trivial
      · simp [hm]

@[simp] theorem tryMerge_gives {P : Option Warp → Prop} (s : State) (x : Ctx) (w : Warp) (hm : Memory.wf s.mem = true) :
    Gives P (tryMerge s x w) ↔ ∀ r, tryMerge s x w = .ok r → P r := by
  refine gives_iff_of_quiet ?_
  simp +contextual [tryMerge, hm]

@[simp] theorem joinPath_gives {P : Option Warp → Prop} (s : State) (x : Ctx) (w : Warp) (sec : Bool) (exec : Mask)
    (hm : Memory.wf s.mem = true) :
    Gives P (joinPath s x w sec exec) ↔ ∀ r, joinPath s x w sec exec = .ok r → P r := by
  refine gives_iff_of_quiet ?_
  simp +contextual [joinPath, hm]

@[simp] theorem popLanding_gives {P : Bool → Prop} (s : State) (x : Ctx) (w : Warp) (e : BitVec 128)
    (hm : Memory.wf s.mem = true) :
    Gives P (popLanding s x w e) ↔ ∀ r, popLanding s x w e = .ok r → P r := by
  refine gives_iff_of_quiet ?_
  unfold popLanding
  simp +contextual
  intros
  simp +contextual [*]

@[simp] theorem unwindTarget_gives {P : PC × Bool → Prop} (s : State) (x : Ctx) (w : Warp) (e : BitVec 128)
    (hm : Memory.wf s.mem = true) :
    Gives P (unwindTarget s x w e) ↔ ∀ r, unwindTarget s x w e = .ok r → P r := by
  refine gives_iff_of_quiet ?_
  simp +contextual [unwindTarget, hm]

@[simp] theorem unwind_gives {P : State × Option Warp → Prop} (s : State) (x : Ctx) (sec : Bool) (n : Nat) (v : Warp)
    (hm : Memory.wf s.mem = true) :
    Gives P (unwind s x sec n v) ↔ ∀ t b, unwind s x sec n v = .ok (t, b) → Memory.wf t.mem = true → P (t, b) := by
  refine (gives_iff (K := fun r => Memory.wf r.1.mem = true) ?_).trans Prod.forall
  induction n generalizing s v with
  | zero => exact hm
  | succ n ih =>
    unfold unwind
    split
    · simp +contextual [hm, ih]
    · split <;> simp [hm]

@[simp] theorem unwindNow_gives {P : State × After → Prop} (s : State) (x : Ctx) (w : Warp) (sec : Bool)
    (hm : Memory.wf s.mem = true) :
    Gives P (unwindNow s x w sec) ↔ ∀ t b, unwindNow s x w sec = .ok (t, b) → Memory.wf t.mem = true → P (t, b) := by
  refine (gives_iff (K := fun r => Memory.wf r.1.mem = true) ?_).trans Prod.forall
  simp +contextual [unwindNow, hm]

@[simp] theorem transfer_gives {P : State × After → Prop} (x : Ctx) (s : State) (a : Nat) (idx : Option Nat) (dst : Nat)
    (from_ : LaneIn → Nat → Nat) (hm : Memory.wf s.mem = true) :
    Gives P (transfer x s a idx dst from_) ↔ ∀ t b, transfer x s a idx dst from_ = .ok (t, b) → Memory.wf t.mem = true →
      P (t, b) := by
  refine (gives_iff (K := fun r => Memory.wf r.1.mem = true) ?_).trans Prod.forall
  simp +contextual [transfer, hm]

@[simp] theorem checkAcc_gives {P : Unit → Prop} (l : Launch) (d n : Nat) :
    Gives P (checkAcc l d n) ↔ (checkAcc l d n = .ok () → P ()) := by
  refine (gives_iff_of_quiet ?_).trans ⟨fun h => h (), fun h a => h⟩
  simp +contextual [checkAcc]

@[simp] theorem checkAccMove_gives {P : Unit → Prop} (x : Ctx) (acc : BitVec 6) (off : DWord) :
    Gives P (checkAccMove x acc off) ↔ (checkAccMove x acc off = .ok () → P ()) := by
  refine (gives_iff_of_quiet ?_).trans ⟨fun h => h (), fun h a => h⟩
  simp +contextual [checkAccMove]

@[simp] theorem raiseLowest_gives {P : Unit → Prop} (l : List (Nat × Option (Nat × Nat))) :
    Gives P (raiseLowest l) ↔ (raiseLowest l = .ok () → P ()) := by
  refine (gives_iff_of_quiet ?_).trans ⟨fun h => h (), fun h a => h⟩
  unfold raiseLowest
  repeat' split
  all_goals simp +contextual

@[simp] theorem specWrite_gives {P : State → Prop} (s : State) (x : Ctx) (k : Nat) (v : DWord) :
    Gives P (specWrite s x k v) ↔ ∀ t, specWrite s x k v = .ok t → t.mem = s.mem → P t := by
  refine (gives_iff (K := fun r => r.mem = s.mem) ?_).trans .rfl
  unfold specWrite
  repeat' split
  all_goals simp +contextual

@[simp] theorem startQfeed_gives {P : DWord × State → Prop} (s : State) (pn c l q : Nat) (a b : DWord) :
    Gives P (startQfeed s pn c l q a b) ↔ ∀ v t, startQfeed s pn c l q a b = .ok (v, t) → t.mem = s.mem → P (v, t) := by
  refine (gives_iff (K := fun r => r.2.mem = s.mem) ?_).trans Prod.forall
  simp +contextual [startQfeed]

@[simp] theorem mapRun_gives {P : State × After → Prop} (s : State) (x : Ctx) (ns : List Nat) :
    Gives P (mapRun s x ns) ↔ ∀ t b, mapRun s x ns = .ok (t, b) → t.mem = s.mem → P (t, b) := by
  refine (gives_iff (K := fun r => r.1.mem = s.mem) ?_).trans Prod.forall
  unfold mapRun
  simp +contextual [foldl_mem]

@[simp] theorem checkTags_gives {P : Unit → Prop} (s : State) (x : Ctx) (ns : List Nat) :
    Gives P (checkTags s x ns) ↔ (checkTags s x ns = .ok () → P ()) := by
  refine (gives_iff_of_quiet ?_).trans ⟨fun h => h (), fun h a => h⟩
  unfold checkTags
  repeat' split
  all_goals simp +contextual

@[simp] theorem checkSlot_gives {P : Unit → Prop} (x : Ctx) (h : Nat) :
    Gives P (checkSlot x h) ↔ (checkSlot x h = .ok () → P ()) := by
  refine (gives_iff_of_quiet ?_).trans ⟨fun h => h (), fun h a => h⟩
  simp +contextual [checkSlot]

@[simp] theorem takeHead_gives {P : State → Prop} (s : State) (x : Ctx) (h nd : Nat) :
    Gives P (takeHead s x h nd) ↔ ∀ t, takeHead s x h nd = .ok t → t.mem = s.mem → P t := by
  refine (gives_iff (K := fun r => r.mem = s.mem) ?_).trans .rfl
  unfold takeHead
  repeat' split
  all_goals simp +contextual

@[simp] theorem rowldCheck_gives {P : State → Prop} (s : State) (x : Ctx) (r : RowArg) (a : BitVec 6) :
    Gives P (rowldCheck s x r a) ↔ ∀ t, rowldCheck s x r a = .ok t → t.mem = s.mem → P t := by
  refine (gives_iff (K := fun r => r.mem = s.mem) ?_).trans .rfl
  simp +contextual [rowldCheck]

@[simp] theorem splitRow_gives {P : State → Prop} (s : State) (x : Ctx) (r : RowArg) :
    Gives P (splitRow s x r) ↔ ∀ t, splitRow s x r = .ok t → t.mem = s.mem → P t := by
  refine (gives_iff (K := fun r => r.mem = s.mem) ?_).trans .rfl
  unfold splitRow
  dsimp only
  refine (checkRows_gives ..).2 fun t _ ht => ht.trans (foldl_fst_mem (fun q e => ?_) _ _)
  split <;> simp

@[simp] theorem rowstCheck_gives {P : State → Prop} (s : State) (x : Ctx) (r : RowArg) (a : BitVec 6) :
    Gives P (rowstCheck s x r a) ↔ ∀ t, rowstCheck s x r a = .ok t → t.mem = s.mem → P t := by
  refine (gives_iff (K := fun r => r.mem = s.mem) ?_).trans .rfl
  simp +contextual [rowstCheck]

@[simp] theorem rowUpdate_gives {P : State × After → Prop} (s : State) (x : Ctx) (r : RowArg) (add : Bool)
    (hm : Memory.wf s.mem = true) :
    Gives P (rowUpdate s x r add) ↔ ∀ t b, rowUpdate s x r add = .ok (t, b) → Memory.wf t.mem = true → P (t, b) := by
  refine (gives_iff (K := fun r => Memory.wf r.1.mem = true) ?_).trans Prod.forall
  unfold rowUpdate
  extract_lets ls rows kills old word bs asid phys peer lineBytes t u v
  have hu : Memory.wf u.mem = true := foldl_wf (fun s l hs => atHome_wf _ _ _ _ _ hs) _ (by simp [t, hm])
  have hv : Memory.wf v.mem = true := by
    dsimp only [v]
    clear_value u phys peer
    cases phys with
    | some pl => exact hu
    | none =>
      cases peer with
      | some k => exact peerBack_wf _ _ _ (by simpa using hu)
      | none => exact hu
  clear_value v
  simp [hv]

end Sys2Proof.Machine

end

section
/-! PROOF. Instructions, events and steps keep memory's canonical form (O59). -/

namespace Sys2Proof.Machine

open Sys2Proof

/-- The state that an outcome goes on with keeps memory's form. -/
def OutWf : Host.Outcome State Fault Refusal → Prop
  | .next t => Memory.wf t.mem = true
  | _ => True

@[simp] theorem outWf_next (t : State) : OutWf (.next t) ↔ Memory.wf t.mem = true := .rfl

@[simp] theorem outWf_fault (e : Fault) : OutWf (.fault e) ↔ True := .rfl

@[simp] theorem outWf_ite (c : Prop) [Decidable c] (x y : Host.Outcome State Fault Refusal) :
    OutWf (if c then x else y) ↔ (c → OutWf x) ∧ (¬ c → OutWf y) := by
  split <;> simp [*]

theorem finish_wf {s : State} {x : Ctx} {r : Except Stop (State × After)} (h : Memory.wf s.mem = true)
    (hr : Gives (fun r => Memory.wf r.1.mem = true) r) : OutWf (finish s x r) := by
  match r, hr with
  | .ok (t, a), hr => simpa [finish] using hr
  | .error (.trap c v), _ => exact trapEnter_wf s _ _ _ _ _ _ h
  | .error .wait, _ => simpa [finish] using h
  | .error (.park none), _ => simpa [finish] using h
  | .error (.park (some t)), hr => simpa [finish] using hr

/-- A word keeps memory's form where every part of its meaning does. -/
@[simp] theorem runWord_wf {s : State} {f : Ctx → Except Stop (State × After)} (h : Memory.wf s.mem = true)
    (hf : ∀ x, Gives (fun r => Memory.wf r.1.mem = true) (f x)) : OutWf (runWord s f) := by
  unfold runWord
  split
  · trivial
  · exact finish_wf h (hf _)

@[simp] theorem runMem_wf {s : State} {p : Ctx → State} {f : Ctx → State → Except Stop (State × After)}
    (hp : ∀ x, Memory.wf (p x).mem = true)
    (hf : ∀ x t, Memory.wf t.mem = true → Gives (fun r => Memory.wf r.1.mem = true) (f x t)) :
      OutWf (runMem s p f) := by
  unfold runMem
  split
  · trivial
  · exact finish_wf (hp _) (hf _ _ (hp _))

theorem asWriter_wf {oct core : Nat} {s : State} {f : State → Host.Outcome State Fault Refusal}
    (h : Memory.wf s.mem = true)
    (hf : ∀ t, Memory.wf t.mem = true → OutWf (f t)) : OutWf (asWriter oct core s f) := by
  have := hf { s with writer := some (oct, core) } h
  unfold asWriter
  split
  next heq => rwa [heq] at this
  next => exact this

@[simp] theorem execBarrierArriveSend_wf (core launch group : Nat) (s : State) (hm : Memory.wf s.mem = true) :
    OutWf (execBarrierArriveSend core launch group s) := by
  simp +contextual [execBarrierArriveSend, hm]

@[simp] theorem execBarrierArriveCount_wf (part : Nat) (s : State) (hm : Memory.wf s.mem = true) :
    OutWf (execBarrierArriveCount part s) := by
  unfold execBarrierArriveCount
  dsimp only
  repeat' split
  all_goals simp +contextual [hm]

@[simp] theorem execBarrierComplete_wf (core : Nat) (s : State) (hm : Memory.wf s.mem = true) :
    OutWf (execBarrierComplete core s) := by
  unfold execBarrierComplete
  repeat' split
  all_goals simp +contextual [hm]

@[simp] theorem scalarRR_wf (s : State) (d a b : BitVec 6) (f : DWord → DWord → DWord) (hm : Memory.wf s.mem = true) :
    OutWf (scalarRR s d a b f) := by
  simp +contextual [scalarRR, hm]

@[simp] theorem scalarRI_wf (s : State) (d a : BitVec 6) (v : DWord) (f : DWord → DWord → DWord)
    (hm : Memory.wf s.mem = true) :
    OutWf (scalarRI s d a v f) := by
  simp +contextual [scalarRI, hm]

@[simp] theorem laneRR_wf (s : State) (d a b : BitVec 7) (f : Ctx → Word → Word → Word) (hm : Memory.wf s.mem = true) :
    OutWf (laneRR s d a b f) := by
  simp +contextual [laneRR, hm]

@[simp] theorem laneRI_wf (s : State) (d a : BitVec 7) (v : Word) (f : Ctx → Word → Word → Word)
    (hm : Memory.wf s.mem = true) :
    OutWf (laneRI s d a v f) := by
  simp +contextual [laneRI, hm]

@[simp] theorem laneR_wf (s : State) (d a : BitVec 7) (f : Ctx → Word → Word) (hm : Memory.wf s.mem = true) :
    OutWf (laneR s d a f) := by
  simp +contextual [laneR, hm]

@[simp] theorem laneRRC_wf (s : State) (d a b : BitVec 7) (f : Ctx → Word → Word → Word → Word)
    (hm : Memory.wf s.mem = true) :
    OutWf (laneRRC s d a b f) := by
  simp +contextual [laneRRC, hm]

@[simp] theorem predLane_wf (s : State) (d : BitVec 4) (reads : List PendItem) (f : Warp → Mask)
    (hm : Memory.wf s.mem = true) :
    OutWf (predLane s d reads f) := by
  simp +contextual [predLane, hm]

@[simp] theorem floatR_wf (s : State) (d a : BitVec 7) (f : Ctx → Nat → Nat × Flags) (hm : Memory.wf s.mem = true) :
    OutWf (floatR s d a f) := by
  simp +contextual [floatR, hm]

@[simp] theorem floatRR_wf (s : State) (d a b : BitVec 7) (f : Ctx → Fmt → Nat → Nat → Nat × Flags)
    (hm : Memory.wf s.mem = true) :
    OutWf (floatRR s d a b f) := by
  simp +contextual [floatRR, hm]

@[simp] theorem packedRR_wf (s : State) (d a b : BitVec 7) (f : Ctx → Fmt → Nat → Nat → Nat × Flags)
    (hm : Memory.wf s.mem = true) :
    OutWf (packedRR s d a b f) := by
  simp +contextual [packedRR, hm]

@[simp] theorem floatCmp_wf (s : State) (cc : Nat) (d : BitVec 4) (a b : BitVec 7) (hm : Memory.wf s.mem = true) :
    OutWf (floatCmp s cc d a b) := by
  simp +contextual [floatCmp, hm]

@[simp] theorem execLongLatencyComplete_wf (core warp op : Nat) (s : State) (hm : Memory.wf s.mem = true) :
    OutWf (execLongLatencyComplete core warp op s) := by
  unfold execLongLatencyComplete
  split
  · exact hm
  · split
    · exact hm
    · exact withWarp_wf (fun s hs => completeOp_wf s core warp _ _ hs) _ _ _ _ hm

@[simp] theorem execLdg_wf (d a : BitVec 7) (scope : BitVec 3) (_ord : BitVec 1) (sz : BitVec 3) (s : State)
    (hm : Memory.wf s.mem = true) :
    OutWf (execLdg d a scope _ord sz s) := by
  unfold execLdg
  refine runMem_wf (fun x => ?_) fun x t ht => ?_
  · repeat' split
    all_goals simp [hm]
  · simp +contextual [ht]

@[simp] theorem execStg_wf (d a : BitVec 7) (scope : BitVec 3) (ord : BitVec 1) (sz : BitVec 3) (s : State)
    (hm : Memory.wf s.mem = true) :
    OutWf (execStg d a scope ord sz s) := by
  unfold execStg
  refine runMem_wf (fun x => ?_) fun x t ht => ?_
  · repeat' split
    all_goals simp [hm]
  · simp +contextual [ht]

@[simp] theorem execLdu_wf (d a : BitVec 6) (scope : BitVec 3) (_ord : BitVec 1) (sz : BitVec 3) (s : State)
    (hm : Memory.wf s.mem = true) :
    OutWf (execLdu d a scope _ord sz s) := by
  unfold execLdu
  refine runMem_wf (fun x => ?_) fun x t ht => ?_
  · repeat' split
    all_goals simp [hm]
  · simp +contextual [ht]

@[simp] theorem execStu_wf (d a : BitVec 6) (scope : BitVec 3) (ord : BitVec 1) (sz : BitVec 3) (s : State)
    (hm : Memory.wf s.mem = true) :
    OutWf (execStu d a scope ord sz s) := by
  unfold execStu
  refine runMem_wf (fun x => ?_) fun x t ht => ?_
  · repeat' split
    all_goals simp [hm]
  · simp +contextual [ht]

@[simp] theorem execAtom_wf (op : BitVec 3) (d a : BitVec 7) (ar : BitVec 1) (ty scope : BitVec 3) (s : State)
    (hm : Memory.wf s.mem = true) :
    OutWf (execAtom op d a ar ty scope s) := by
  unfold execAtom
  extract_lets n
  refine runMem_wf (fun x => ?_) fun x s hs => ?_
  · split <;> simp [hm]
  · rw [gives_bind, atomLanes_gives]
    intro t q _ ht
    dsimp only
    rw [gives_ite]
    refine ⟨fun _ => by simp +contextual [ht, hs], fun _ => ?_⟩
    simp only [gives_bind, checkAccs_gives, parkIf_gives, splitNames_gives]
    intro _ _ u _ hu
    generalize hr : List.foldl _ (settleStores u x.c x.slot, [], []) _ = r
    have hwf : Memory.wf r.1.mem = true := by
      rw [← hr]
      refine foldl_fst_wf (fun r e hr => ?_) _ (by simpa [hu, ht] using hs)
      split
      · exact atomWrite_wf _ _ _ _ _ hr
      · exact hr
    rw [gives_ok]
    refine killLanes_wf _ _ _ _ ?_
    rw [issueLong_mem]
    split <;> simp [foldl_mem, hwf]

@[simp] theorem execPref_wf (a : BitVec 7) (llc : BitVec 1) (s : State) (hm : Memory.wf s.mem = true) :
    OutWf (execPref a llc s) := by
  unfold execPref
  refine runMem_wf (fun x => ?_) fun x t ht => ?_
  · dsimp only
    split <;> simp [hm]
  · simp only [gives_bind, laneCheck_gives, gives_ok]
    intro u i _ hu
    refine foldl_wf (fun s l hs => ?_) _ (by rwa [hu])
    repeat' split
    all_goals simp [hs]

@[simp] theorem execFence_wf (kind : BitVec 2) (scope : BitVec 3) (s : State) (hm : Memory.wf s.mem = true) :
    OutWf (execFence kind scope s) := by
  unfold execFence
  repeat' split
  all_goals simp +contextual [hm]

@[simp] theorem execScratchWaitPerform_wf (core launch op : Nat) (s : State) (hm : Memory.wf s.mem = true) :
    OutWf (execScratchWaitPerform core launch op s) := by
  unfold execScratchWaitPerform
  repeat' split
  all_goals simp +contextual [hm]

@[simp] theorem engineWord_wf {s : State} {items : List PendItem} {d : BitVec 6} {f : Ctx → Except Stop (DWord × State)}
    (hm : Memory.wf s.mem = true) (hf : ∀ x, Gives (fun r => Memory.wf r.2.mem = true) (f x)) :
    OutWf (engineWord s items d f) := by
  unfold engineWord
  refine runWord_wf hm fun x => ?_
  simp only [gives_bind, checkPending_gives]
  intro _
  refine (gives_iff (hf x)).2 fun r _ hr => ?_
  simp [hr]

@[simp] theorem execBfillComplete_wf (core op : Nat) (s : State) (hm : Memory.wf s.mem = true) :
    OutWf (execBfillComplete core op s) := by
  unfold execBfillComplete
  repeat' split
  all_goals simp +contextual [hm]

@[simp] theorem execFcancel_wf (d a : BitVec 6) (s : State) (hm : Memory.wf s.mem = true) :
    OutWf (execFcancel d a s) := by
  unfold execFcancel
  refine runWord_wf hm fun x => ?_
  simp +contextual
  intros
  repeat' split
  all_goals simp +contextual [*]

@[simp] theorem execEngineLineWrite_wf (core op line : Nat) (s : State) (hm : Memory.wf s.mem = true) :
    OutWf (execEngineLineWrite core op line s) := by
  unfold execEngineLineWrite
  repeat' split
  all_goals simp +contextual [hm]

@[simp] theorem execTileTransferComplete_wf (core op : Nat) (s : State) (hm : Memory.wf s.mem = true) :
    OutWf (execTileTransferComplete core op s) := by
  unfold execTileTransferComplete
  dsimp only
  repeat' split
  all_goals simp +contextual [hm]

@[simp] theorem execTreg_wf (d a : BitVec 6) (b : BitVec 7) (s : State) (hm : Memory.wf s.mem = true) :
    OutWf (execTreg d a b s) := by
  unfold execTreg
  refine runWord_wf hm fun x => ?_
  simp only [gives_bind, checkPending_gives]
  intro _
  split
  · simp
  · simp +contextual
    intros
    split
    · simp
    · simp [*]

@[simp] theorem execTmove_wf (d a b : BitVec 6) (s : State) (hm : Memory.wf s.mem = true) :
    OutWf (execTmove d a b s) := by
  unfold execTmove
  refine runWord_wf hm fun x => ?_
  simp +contextual
  intros
  repeat' split
  all_goals simp +contextual [*]

@[simp] theorem execTmoveSwitchSend_wf (core op : Nat) (s : State) (hm : Memory.wf s.mem = true) :
    OutWf (execTmoveSwitchSend core op s) := by
  unfold execTmoveSwitchSend
  repeat' split
  all_goals simp +contextual [hm]

@[simp] theorem execTmoveSwitchApply_wf (core : Nat) (s : State) (hm : Memory.wf s.mem = true) :
    OutWf (execTmoveSwitchApply core s) := by
  unfold execTmoveSwitchApply
  repeat' split
  all_goals simp +contextual [hm]

@[simp] theorem execReplyv_wf (a : BitVec 6) (s : State) (hm : Memory.wf s.mem = true) :
    OutWf (execReplyv a s) := by
  unfold execReplyv
  refine runWord_wf hm fun x => ?_
  simp +contextual
  intros
  repeat' split
  all_goals simp +contextual [*]

@[simp] theorem execRootSequence_wf (part : Nat) (s : State) (hm : Memory.wf s.mem = true) :
    OutWf (execRootSequence part s) := by
  unfold execRootSequence
  dsimp only
  repeat' split
  all_goals simp +contextual [hm]

@[simp] theorem execSolicitAccept_wf (core : Nat) (s : State) (hm : Memory.wf s.mem = true) :
    OutWf (execSolicitAccept core s) := by
  unfold execSolicitAccept
  dsimp only
  repeat' split
  all_goals simp +contextual [hm]

@[simp] theorem execResponderSpawn_wf (core : Nat) (s : State) (hm : Memory.wf s.mem = true) :
    OutWf (execResponderSpawn core s) := by
  unfold execResponderSpawn
  split
  · exact hm
  · split
    · extract_lets l e w u dstk v t z
      have hu : u.mem = s.mem := by
        dsimp only [u, w]
        split
        · simp [foldl_mem]
        · rfl
      have hz : Memory.wf z.mem = true := by simpa [z, t, hu] using hm
      split
      · exact hz
      · exact trapEnter_wf _ _ _ _ _ _ _ hz
    · exact hm

@[simp] theorem execCoreReport_wf (core id : Nat) (s : State) (hm : Memory.wf s.mem = true) :
    OutWf (execCoreReport core id s) := by
  unfold execCoreReport
  split
  · exact hm
  · dsimp only
    split
    · exact hm
    · rw [outWf_next, reportCore_mem, foldl_mem (fun s i => by simp)]
      exact hm

@[simp] theorem execPostedEntryFire_wf (core op : Nat) (time : DWord) (tree : Nat) (s : State)
    (hm : Memory.wf s.mem = true) :
    OutWf (execPostedEntryFire core op time tree s) := by
  unfold execPostedEntryFire
  repeat' split
  all_goals simp +contextual [hm]

@[simp] theorem execCabort_wf (d a b : BitVec 6) (s : State) (hm : Memory.wf s.mem = true) :
    OutWf (execCabort d a b s) := by
  unfold execCabort
  refine engineWord_wf hm fun x => ?_
  simp +contextual
  intros
  split <;> simp [*]

@[simp] theorem execSpanIssue_wf (core slot : Nat) (refetch : Bool) (s : State) (hm : Memory.wf s.mem = true) :
    OutWf (execSpanIssue core slot refetch s) := by
  unfold execSpanIssue
  dsimp only
  repeat' split
  all_goals simp +contextual [hm]

@[simp] theorem indirect_wf (s : State) (a : BitVec 7) (d : Option (BitVec 6)) (hm : Memory.wf s.mem = true) :
    OutWf (indirect s a d) := by
  unfold indirect
  refine runWord_wf hm fun x => ?_
  simp +contextual
  intros
  repeat' split
  all_goals simp +contextual [*]

@[simp] theorem execBrp_wf (neg : BitVec 1) (p : BitVec 4) (off : BitVec 14) (s : State) (hm : Memory.wf s.mem = true) :
    OutWf (execBrp neg p off s) := by
  unfold execBrp
  refine runWord_wf hm fun x => ?_
  simp +contextual [hm]
  intros
  repeat' split
  all_goals simp +contextual [*]

@[simp] theorem execJoin_wf (s : State) (hm : Memory.wf s.mem = true) :
    OutWf (execJoin s) := by
  unfold execJoin
  refine runWord_wf hm fun x => ?_
  simp +contextual
  intros
  repeat' split
  all_goals simp +contextual [*]

@[simp] theorem shuffle_wf (s : State) (w : Nat) (d a b : BitVec 7) (hm : Memory.wf s.mem = true) :
    OutWf (shuffle s w d a b) := by
  simp +contextual [shuffle, hm]

@[simp] theorem vote_wf (s : State) (d : BitVec 6) (neg : BitVec 1) (p : BitVec 4) (f : Mask → Mask → DWord)
    (hm : Memory.wf s.mem = true) :
    OutWf (vote s d neg p f) := by
  simp +contextual [vote, hm]

@[simp] theorem execElect_wf (d : BitVec 4) (a : BitVec 6) (s : State) (hm : Memory.wf s.mem = true) :
    OutWf (execElect d a s) := by
  unfold execElect
  refine runWord_wf hm fun x => ?_
  simp +contextual
  intros
  repeat' split
  all_goals simp +contextual [*]

@[simp] theorem execMma_wf (acc : BitVec 6) (a b : BitVec 7) (s : State) (hm : Memory.wf s.mem = true) :
    OutWf (execMma acc a b s) := by
  unfold execMma
  split
  · trivial
  · extract_lets an fn ns r arr
    have hr : Gives (fun t => t.mem = s.mem) r := by
      dsimp only [r]
      simp +contextual
    clear_value r
    cases r with
    | ok t => simpa [show t.mem = s.mem from hr] using hm
    | error e => exact finish_wf hm hr

@[simp] theorem execGangRelease_wf (core warp : Nat) (s : State) (hm : Memory.wf s.mem = true) :
    OutWf (execGangRelease core warp s) := by
  unfold execGangRelease
  split
  · exact hm
  · split
    · exact hm
    · split
      · refine foldl_wf (fun s n hs => ?_) _ hm
        repeat' split
        all_goals simp [hs]
      · split
        · exact hm
        · exact gangRun_wf _ _ _ _ hm

@[simp] theorem execGangTrapDeferredEntry_wf (core warp : Nat) (s : State) (hm : Memory.wf s.mem = true) :
    OutWf (execGangTrapDeferredEntry core warp s) := by
  unfold execGangTrapDeferredEntry
  repeat' split
  all_goals simp +contextual [hm]

@[simp] theorem execScld_wf (a b : BitVec 6) (s : State) (hm : Memory.wf s.mem = true) :
    OutWf (execScld a b s) := by
  unfold execScld
  refine runWord_wf hm fun x => ?_
  simp +contextual
  intros
  repeat' split
  all_goals simp +contextual [*]

@[simp] theorem execMdrain_wf (own : BitVec 1) (acc a : BitVec 6) (rte : BitVec 3) (dest : BitVec 2) (s : State)
    (hm : Memory.wf s.mem = true) :
    OutWf (execMdrain own acc a rte dest s) := by
  unfold execMdrain
  extract_lets runsOf
  refine runMem_wf (fun x => ?_) fun x s hs => ?_
  · split <;> simp [hm]
  · rw [gives_bind, checkPending_gives]
    intro _
    extract_lets slots base stride e size lines start waits bias
    have hchecked : ∀ v, v.mem = s.mem → Memory.wf (slots.foldl (fun s n => checkAtDrain s x n) v).mem = true :=
      fun v hv => foldl_wf (fun t n ht => checkAtDrain_wf t x n ht) _ (by rwa [hv])
    have hstart : ∀ u, Gives (fun r => Memory.wf r.1.mem = true) (start u) := by
      intro u
      simp +contextual [start, hchecked]
    have hwaits : ∀ u, Gives (fun r => Memory.wf r.1.mem = true) (waits u) := by
      intro u
      simp [waits, hstart]
    have hbias : ∀ u, Gives (fun r => Memory.wf r.1.mem = true) (bias u) := by
      intro u
      simp [bias, hwaits]
    clear_value bias
    simp only [gives_bind, gives_ite, checkAcc_gives, raiseIf_gives]
    intro _ _ _ _
    refine ⟨fun _ => ?_, fun _ => hbias ()⟩
    split
    · simp [hbias]
    · exact hbias ()

/-- A row of a drain, delivered or given up, leaves memory in its form. -/
theorem deliverRow_wf {s : State} {pn c o : Nat} {op : EngineOp} {warp lo dest base stride : Nat} {route : DWord}
    {r : DrainRow} {e : Except State State} (hm : Memory.wf s.mem = true)
    (h : deliverRow s pn c o op warp lo dest base stride route r = some e) :
    ∀ t, (e = .ok t ∨ e = .error t) → Memory.wf t.mem = true := by
  unfold deliverRow at h
  dsimp only at h
  repeat' split at h
  all_goals
    cases h
  all_goals
    rintro t (h | h) <;> cases h
  any_goals simp [hm]
  exact foldl_wf (fun s l hs => engineStore_wf _ _ _ _ _ _ hs) _ hm

@[simp] theorem execDrainRowDeliver_wf (core warp op : Nat) (s : State) (hm : Memory.wf s.mem = true) :
    OutWf (execDrainRowDeliver core warp op s) := by
  unfold execDrainRowDeliver
  split
  · exact hm
  · split
    · dsimp only
      split
      · exact hm
      · split
        · split
          · exact endDrain_wf _ _ _ _ _ hm
          · exact hm
        · split
          · exact hm
          · rename_i ht
            exact endDrain_wf _ _ _ _ _ (deliverRow_wf hm ht _ (.inr rfl))
          · rename_i ht
            have hu := deliverRow_wf hm ht _ (.inl rfl)
            rw [outWf_next]
            repeat' split
            all_goals simp [hu]
    · exact hm

@[simp] theorem execEret_wf (s : State) (hm : Memory.wf s.mem = true) :
    OutWf (execEret s) := by
  unfold execEret
  refine runWord_wf hm fun x => ?_
  simp +contextual
  intros
  repeat' split
  all_goals simp +contextual [*]

@[simp] theorem execQfeedFillComplete_wf (core op : Nat) (s : State) (hm : Memory.wf s.mem = true) :
    OutWf (execQfeedFillComplete core op s) := by
  unfold execQfeedFillComplete
  repeat' split
  all_goals simp +contextual [hm]

@[simp] theorem execFeedgo_wf (d a : BitVec 6) (s : State) (hm : Memory.wf s.mem = true) :
    OutWf (execFeedgo d a s) := by
  unfold execFeedgo
  refine engineWord_wf hm fun x => ?_
  simp +contextual
  intros
  split <;> simp [*]

/-- An instruction of the feed engine's program means there what it means in a warp's span. -/
theorem feedMeaning_wf {i : Instr} {f : State → Host.Outcome State Fault Refusal} {s : State}
    (h : feedMeaning i = some f)
    (hm : Memory.wf s.mem = true) : OutWf (f s) := by
  cases i with
  | sadd | ssub | smul | smulh | sand | sor | sxor | sshl | sshr | ssra | smin | smax =>
    cases h
    simp [execSadd, execSsub, execSmul, execSmulh, execSand, execSor, execSxor, execSshl, execSshr, execSsra,
      execSmin, execSmax, hm]
  | saddImm | ssubImm | smulImm | smulhImm | sandImm | sorImm | sxorImm | sshlImm | sshrImm | ssraImm | sminImm |
    smaxImm =>
    cases h
    simp [execSaddImm, execSsubImm, execSmulImm, execSmulhImm, execSandImm, execSorImm, execSxorImm, execSshlImm,
      execSshrImm, execSsraImm, execSminImm, execSmaxImm, hm]
  | scmp | scmpImm | ssel | smov | sldi | slit | bra | bru | nop | bfill | bfills | fwait | tld | qfeed =>
    cases h
    simp +contextual [execScmp, execScmpImm, execSsel, execSmov, execSldi, execSlit, execBra, execBru, execNop,
      execBfill, execBfills, execFwait, execTld, execQfeed, hm]
  | _ => exact nomatch h

/-- The state in which a run of the feed engine's program ends keeps memory's form. -/
def FeedRunWf : FeedRun → Prop
  | .go s _ => Memory.wf s.mem = true
  | .waits s _ => Memory.wf s.mem = true
  | .exited s => Memory.wf s.mem = true
  | .failed s _ _ => Memory.wf s.mem = true
  | .stuck => True

theorem runFeed_wf (c n : Nat) {s : State} (hm : Memory.wf s.mem = true) : FeedRunWf (runFeed c n s) := by
  induction n generalizing s with
  | zero => trivial
  | succ n ih =>
    unfold runFeed
    split
    · trivial
    · dsimp only
      split
      · exact hm
      · split
        · exact hm
        · split
          · split <;> exact hm
          · split
            · exact hm
            · rename_i f hf
              have ht := feedMeaning_wf hf hm
              split
              · rename_i t heq
                rw [heq] at ht
                split
                · exact hm
                · trivial
                · split
                  · exact ht
                  · split
                    · exact ht
                    · exact ih ht
              · trivial

@[simp] theorem feedSpan_wf (s : State) (c launch : Nat) (f : Feed) (sp : Span) (hm : Memory.wf s.mem = true) :
    Memory.wf (feedSpan s c launch f sp).mem = true := by
  unfold feedSpan
  extract_lets l w z u v back put
  have hv : v.mem = s.mem := by simp only [v, u, z, modLaunch_mem, modOp_mem, setWarp_mem]
  clear_value v
  have hrun := runFeed_wf (s := v) c 32 (hv ▸ hm)
  generalize runFeed c 32 v = r at hrun ⊢
  cases r with
  | stuck => exact hm
  | go t w => simpa [put, back, FeedRunWf] using hrun
  | waits t w => simpa [put, back, FeedRunWf] using hrun
  | exited t => simpa [back, FeedRunWf] using hrun
  | failed t cause pc => simpa [back, FeedRunWf] using hrun

@[simp] theorem execFeedSpanIssue_wf (core launch : Nat) (s : State) (hm : Memory.wf s.mem = true) :
    OutWf (execFeedSpanIssue core launch s) := by
  unfold execFeedSpanIssue
  dsimp only
  repeat' split
  all_goals simp +contextual [hm]

/-- The state that a packet's taking leaves keeps memory's form. -/
def TakenWf : Taken → Prop
  | .done s => Memory.wf s.mem = true
  | .busy s => Memory.wf s.mem = true
  | .refused s _ => Memory.wf s.mem = true

@[simp] theorem takenWf_done (s : State) : TakenWf (.done s) ↔ Memory.wf s.mem = true := .rfl

@[simp] theorem takenWf_busy (s : State) : TakenWf (.busy s) ↔ Memory.wf s.mem = true := .rfl

@[simp] theorem takenWf_refused (s : State) (c : Nat) : TakenWf (.refused s c) ↔ Memory.wf s.mem = true := .rfl

theorem storePackets_wf {s t : State} {pn asid : Nat} {e : List DWord} {ks : List SctPacket}
    (hm : Memory.wf s.mem = true)
    (h : storePackets s pn asid e ks = .ok t) : Memory.wf t.mem = true := by
  induction ks generalizing s with
  | nil => cases h; exact hm
  | cons k ks ih =>
    unfold storePackets at h
    extract_lets va u at h
    have hu : Memory.wf u.mem = true := by
      dsimp only [u]
      split
      · exact foldl_wf (fun s l hs => llcNow_wf s pn asid l hs) _ hm
      · exact hm
    clear_value u
    split at h
    · cases h
    · split at h
      · split at h
        · cases h
        · exact ih (by simp [hu]) h
      · exact ih (by simp [hu]) h

theorem takeWindow_wf (s : State) (pn : Nat) (k : SctPacket) (hm : Memory.wf s.mem = true) :
    TakenWf (takeWindow s pn k) := by
  unfold takeWindow
  extract_lets p e t va u p' key broken lines all
  have hu : Memory.wf u.mem = true := prepRange_wf _ _ _ _ _ _ _ hm
  clear_value u
  split
  · exact hm
  · split
    · exact hu
    · exact hu
    · split
      · exact hu
      · split
        · exact hu
        · split
          · simpa using hu
          · split
            · exact hu
            · rename_i hs
              have hv := storePackets_wf hu hs
              rw [takenWf_done, bumpWindow_mem]
              split <;> simp [hv]

theorem takePeerStore_wf (s : State) (pn : Nat) (k : SctPacket) (hm : Memory.wf s.mem = true) :
    TakenWf (takePeerStore s pn k) := by
  unfold takePeerStore
  dsimp only
  repeat' split
  all_goals simp [hm]

theorem takeData_wf (s : State) (pn : Nat) (k : SctPacket) (hm : Memory.wf s.mem = true) :
    TakenWf (takeData s pn k) := by
  unfold takeData
  split
  · exact hm
  · split
    · exact takePeerStore_wf s pn k hm
    · split
      · exact hm
      · exact takeWindow_wf s pn k hm

theorem receive_wf {f : State → State} {s : State} (hm : Memory.wf s.mem = true)
    (hf : ∀ t, Memory.wf t.mem = true → Memory.wf (f t).mem = true) (pn : Nat) (k : SctPacket) :
    Memory.wf (receive s pn k f).mem = true := by
  unfold receive
  split
  · exact hm
  · split
    · apply hf
      split <;> simp [hm]
    · exact hm

theorem inSequence_wf {s : State} {pn : Nat} {k : SctPacket} {f : State → Taken} (hm : Memory.wf s.mem = true)
    (hf : TakenWf (f s)) : Memory.wf (inSequence s pn k f).mem = true := by
  unfold inSequence
  extract_lets key st
  split
  · repeat' split
    all_goals simp [hm]
  · have ht : TakenWf (if migrating (partOf s pn) then .busy s else f s) := by
      split
      · exact hm
      · exact hf
    split
    all_goals
      rename_i heq
      rw [heq] at ht
      simpa using ht

@[simp] theorem execSctData_wf (part : Nat) (p : SctPacket) (s : State) (hm : Memory.wf s.mem = true) :
    OutWf (execSctData part p s) := by
  exact receive_wf hm (fun t ht => inSequence_wf ht (takeData_wf t part p ht)) part p

@[simp] theorem execSctAck_wf (part : Nat) (p : SctPacket) (s : State) (hm : Memory.wf s.mem = true) :
    OutWf (execSctAck part p s) := by
  refine receive_wf hm (fun t ht => ?_) part p
  dsimp only
  split
  · exact ht
  · simp [foldl_mem, ht]

@[simp] theorem execSctNak_wf (part : Nat) (p : SctPacket) (s : State) (hm : Memory.wf s.mem = true) :
    OutWf (execSctNak part p s) := by
  refine receive_wf hm (fun t ht => ?_) part p
  split <;> simp [ht]

@[simp] theorem execSctLaunch_wf (part : Nat) (p : SctPacket) (s : State) (hm : Memory.wf s.mem = true) :
    OutWf (execSctLaunch part p s) := by
  refine receive_wf hm (fun t ht => inSequence_wf ht ?_) part p
  dsimp only
  repeat' split
  all_goals simp [ht]

@[simp] theorem execSctAbort_wf (part : Nat) (p : SctPacket) (s : State) (hm : Memory.wf s.mem = true) :
    OutWf (execSctAbort part p s) := by
  refine receive_wf hm (fun t ht => inSequence_wf ht ?_) part p
  simp [ht]

@[simp] theorem execSctState_wf (part : Nat) (p : SctPacket) (s : State) (hm : Memory.wf s.mem = true) :
    OutWf (execSctState part p s) := by
  refine receive_wf hm (fun t ht => inSequence_wf ht ?_) part p
  extract_lets u q head bits a v
  have hu : Memory.wf u.mem = true := touchTree_wf t part p.tree ht
  clear_value u
  split
  · split <;> simp [hu]
  · simp [foldl_mem, v, hu]

@[simp] theorem execSctLineReq_wf (part : Nat) (p : SctPacket) (s : State) (hm : Memory.wf s.mem = true) :
    OutWf (execSctLineReq part p s) := by
  refine receive_wf hm (fun t ht => ?_) part p
  extract_lets line nak w u q v l
  have hu : Memory.wf u.mem = true := by
    dsimp only [u, w]
    split <;> simp [ht]
  clear_value u
  repeat' split
  all_goals simp [ht, hu, v]

@[simp] theorem execSctLineRsp_wf (part : Nat) (p : SctPacket) (s : State) (hm : Memory.wf s.mem = true) :
    OutWf (execSctLineRsp part p s) := by
  refine receive_wf hm (fun t ht => ?_) part p
  simp [ht]

@[simp] theorem execNakBackoffExpire_wf (part : Nat) (who : Sender) (s : State) (hm : Memory.wf s.mem = true) :
    OutWf (execNakBackoffExpire part who s) := by
  unfold execNakBackoffExpire
  repeat' split
  all_goals simp +contextual [hm]

@[simp] theorem execSctAckTimeout_wf (part dst qp : Nat) (s : State) (hm : Memory.wf s.mem = true) :
    OutWf (execSctAckTimeout part dst qp s) := by
  simp +contextual [execSctAckTimeout, hm, foldl_mem]

@[simp] theorem execL1Invalidate_wf (core line : Nat) (s : State) (hm : Memory.wf s.mem = true) :
    OutWf (execL1Invalidate core line s) := by
  simp +contextual [execL1Invalidate, hm]

@[simp] theorem execLineFetchComplete_wf (part idx : Nat) (s : State) (hm : Memory.wf s.mem = true) :
    OutWf (execLineFetchComplete part idx s) := by
  unfold execLineFetchComplete
  repeat' split
  all_goals simp +contextual [hm]

@[simp] theorem execFileBlockRead_wf (part frame : Nat) (data : List Byte) (s : State) (hm : Memory.wf s.mem = true) :
    OutWf (execFileBlockRead part frame data s) := by
  unfold execFileBlockRead
  dsimp only
  split
  · exact hm
  · exact physWrite_wf hm _ _ _ _

@[simp] theorem execPathStop_wf (core warp : Nat) (sec : Bool) (s : State) (hm : Memory.wf s.mem = true) :
    OutWf (execPathStop core warp sec s) := by
  unfold execPathStop
  repeat' split
  all_goals simp +contextual [hm]

theorem takeRing_wf {s t : State} {pn cls : Nat} {q : PendingRecord} (hm : Memory.wf s.mem = true)
    (h : takeRing s pn cls = some (q, t)) : Memory.wf t.mem = true := by
  unfold takeRing at h
  extract_lets p v i at h
  split at h
  · cases h
  · cases h
    exact sysRead_wf s pn 0 _ 16 hm

@[simp] theorem execRecordCheck_wf (part : Nat) (src : RecordSource) (s : State) (hm : Memory.wf s.mem = true) :
    OutWf (execRecordCheck part src s) := by
  unfold execRecordCheck
  extract_lets taken
  have htaken : ∀ q t, taken = some (q, t) → Memory.wf t.mem = true := by
    intro q t ht
    cases src with
    | ring cls => exact takeRing_wf hm ht
    | launchInstr => exact (takePending_mem ht).symm ▸ hm
    | net => exact (takePending_mem ht).symm ▸ hm
  clear_value taken
  split
  · exact hm
  · rename_i q t
    have ht := htaken q t rfl
    extract_lets runs v
    have hv : Memory.wf v.mem = true := touchRecord_wf t part q ht
    clear_value v
    split
    · exact foldl_wf (fun s r hs => (askRun_mem s part q.tenant r).symm ▸ hs) _ hm
    · split <;> simp [hv]

@[simp] theorem execLaunchEnd_wf (launch : Nat) (s : State) (hm : Memory.wf s.mem = true) :
    OutWf (execLaunchEnd launch s) := by
  unfold execLaunchEnd
  extract_lets v u t
  split
  · exact hm
  · have ht : Memory.wf t.mem = true := by
      refine foldl_wf (fun s o hs => ?_) _ (by simp [u, hm])
      repeat' split
      all_goals simp [hs]
    split
    · exact finishLaunch_wf _ _ ht
    · exact ht

@[simp] theorem execTenantTeardown_wf (part tenant : Nat) (s : State) (hm : Memory.wf s.mem = true) :
    OutWf (execTenantTeardown part tenant s) := by
  simp +contextual [execTenantTeardown, hm]

@[simp] theorem mapWord_wf {s : State} {items : Ctx → List PendItem} {f : Ctx → Except Stop (State × After)}
    (hm : Memory.wf s.mem = true) (hf : ∀ x, Gives (fun r => Memory.wf r.1.mem = true) (f x)) :
    OutWf (mapWord s items f) := by
  unfold mapWord
  refine runWord_wf hm fun x => ?_
  simp only [gives_bind, checkPending_gives]
  exact fun _ => hf x

@[simp] theorem execUnmapm_wf (a : BitVec 6) (s : State) (hm : Memory.wf s.mem = true) :
    OutWf (execUnmapm a s) := by
  refine mapWord_wf hm fun x => ?_
  rw [gives_ok]
  exact foldl_wf (fun s n hs => (dropName_mem s x.c x.slot n).symm ▸ hs) _ hm

@[simp] theorem execRotn_wf (d : BitVec 7) (n k : BitVec 5) (s : State) (hm : Memory.wf s.mem = true) :
    OutWf (execRotn d n k s) := by
  unfold execRotn
  refine mapWord_wf hm fun x => ?_
  simp +contextual [hm, foldl_mem]

@[simp] theorem execAliasN_wf (d a : BitVec 7) (s : State) (hm : Memory.wf s.mem = true) :
    OutWf (execAliasN d a s) := by
  unfold execAliasN
  refine mapWord_wf hm fun x => ?_
  simp +contextual
  intros
  split <;> simp +contextual [*]

@[simp] theorem execCopyn_wf (d a : BitVec 7) (s : State) (hm : Memory.wf s.mem = true) :
    OutWf (execCopyn d a s) := by
  unfold execCopyn
  refine mapWord_wf hm fun x => ?_
  simp only [gives_bind, checkMapped_gives, reloadNames_gives]
  intro _ t _ ht
  split
  · rename_i u hr
    have hu : u.mem = s.mem := (takeRow_mem hr).trans ht
    simp +contextual [hu, hm]
  · simp +contextual [ht, hm]

@[simp] theorem execGive_wf (h : BitVec 6) (a : BitVec 7) (s : State) (hm : Memory.wf s.mem = true) :
    OutWf (execGive h a s) := by
  unfold execGive
  refine runWord_wf hm fun x => ?_
  simp +contextual
  intros
  repeat' split
  all_goals simp +contextual [*]

@[simp] theorem execShootdown_wf (part : Nat) (v : DWord) (s : State) (hm : Memory.wf s.mem = true) :
    OutWf (execShootdown part v s) := by
  simp +contextual [execShootdown, hm]

@[simp] theorem execShootdownComplete_wf (part : Nat) (s : State) (hm : Memory.wf s.mem = true) :
    OutWf (execShootdownComplete part s) := by
  unfold execShootdownComplete
  repeat' split
  all_goals simp +contextual [hm]

theorem fsCommand_wf {s : State} {pn frame : Nat} {f : State → State} (hm : Memory.wf s.mem = true)
    (hf : Memory.wf (f s).mem = true) : Memory.wf (fsCommand s pn frame f).mem = true := by
  unfold fsCommand
  split
  · exact hf
  · simp [hm]

@[simp] theorem execFsRead_wf (part frame : Nat) (s : State) (hm : Memory.wf s.mem = true) :
    OutWf (execFsRead part frame s) := by
  exact fsCommand_wf hm (by simp [hm])

@[simp] theorem execFsRelease_wf (part frame : Nat) (s : State) (hm : Memory.wf s.mem = true) :
    OutWf (execFsRelease part frame s) := by
  refine fsCommand_wf hm ?_
  dsimp only
  split <;> simp [hm]

@[simp] theorem execFsScrub_wf (part frame : Nat) (s : State) (hm : Memory.wf s.mem = true) :
    OutWf (execFsScrub part frame s) := by
  refine fsCommand_wf hm ?_
  split <;> simp [hm]

@[simp] theorem execScrubComplete_wf (part frame : Nat) (s : State) (hm : Memory.wf s.mem = true) :
    OutWf (execScrubComplete part frame s) := by
  unfold execScrubComplete
  split
  · exact hm
  · exact scrubFrame_wf (dropFrameLines_wf s part frame hm) frame

@[simp] theorem execFsSetfile_wf (part frame : Nat) (arg : DWord) (s : State) (hm : Memory.wf s.mem = true) :
    OutWf (execFsSetfile part frame arg s) := by
  refine fsCommand_wf hm ?_
  dsimp only
  split <;> simp [hm]

@[simp] theorem execFsReadcnt_wf (part frame : Nat) (s : State) (hm : Memory.wf s.mem = true) :
    OutWf (execFsReadcnt part frame s) := by
  exact fsCommand_wf hm (by simp [hm])

@[simp] theorem execHardwareMigration_wf (part frame : Nat) (s : State) (hm : Memory.wf s.mem = true) :
    OutWf (execHardwareMigration part frame s) := by
  unfold execHardwareMigration
  dsimp only
  split
  · split
    · exact hm
    · split
      · exact hm
      · rename_i t o _ _ _ _
        have hmig : (takeMigFrame s part o (migSize (partOf s part))).2.mem = s.mem := takeMigFrame_mem _ _ _ _
        split
        all_goals
          rename_i heq
          rw [heq] at hmig
          dsimp only at hmig
        · simpa [hmig] using hm
        · rw [outWf_next]
          refine postMig_wf _ _ _ _ _ _ ?_
          rw [modFrame_mem]
          refine shootApply_wf _ _ _ (rewriteLeaf_wf _ _ _ _ ?_)
          rw [modFrame_mem]
          exact copyFrame_wf _ _ _ (by rwa [hmig])
  · exact hm

theorem requestVictims_wf (n k m : Nat) {s : State} (hm : Memory.wf s.mem = true) :
    Memory.wf (requestVictims n k m s).mem = true := by
  induction m generalizing s with
  | zero => exact hm
  | succ m ih =>
    unfold requestVictims
    split
    · exact hm
    · split
      · exact hm
      · exact ih (by simp [hm])

@[simp] theorem execDispatchPlace_wf (part : Nat) (s : State) (hm : Memory.wf s.mem = true) :
    OutWf (execDispatchPlace part s) := by
  unfold execDispatchPlace
  extract_lets p chosen
  clear_value chosen
  split
  · exact hm
  · split
    · exact hm
    · dsimp only
      split
      · rename_i ht
        simpa [placeLaunch_mem ht] using hm
      · exact requestVictims_wf _ _ _ hm

theorem parCommand_wf {s : State} {pn : Nat} {w : DWord} {f : State → State} (hm : Memory.wf s.mem = true)
    (hf : ∀ t, Memory.wf t.mem = true → Memory.wf (f t).mem = true) : Memory.wf (parCommand s pn w f).mem = true := by
  unfold parCommand
  split
  · simp [hm]
  · exact hf _ (by simp [hm])

@[simp] theorem execParMerge_wf (part other : Nat) (s : State) (hm : Memory.wf s.mem = true) :
    OutWf (execParMerge part other s) := by
  refine parCommand_wf hm fun t ht => ?_
  split <;> simp [ht]

@[simp] theorem execParYield_wf (part other : Nat) (s : State) (hm : Memory.wf s.mem = true) :
    OutWf (execParYield part other s) := by
  refine parCommand_wf hm fun t ht => ?_
  simp [ht]

@[simp] theorem execParSplit_wf (part octs : Nat) (s : State) (hm : Memory.wf s.mem = true) :
    OutWf (execParSplit part octs s) := by
  refine parCommand_wf hm fun t ht => ?_
  split <;> simp [ht]

@[simp] theorem execParMigrate_wf (part rank : Nat) (accepted : Bool) (octants : Nat) (s : State)
    (hm : Memory.wf s.mem = true) :
    OutWf (execParMigrate part rank accepted octants s) := by
  refine parCommand_wf hm fun t ht => ?_
  dsimp only
  repeat' split
  all_goals simp [ht]

@[simp] theorem execParAccept_wf (part rank : Nat) (s : State) (hm : Memory.wf s.mem = true) :
    OutWf (execParAccept part rank s) := by
  refine parCommand_wf hm fun t ht => ?_
  split <;> simp [ht]

@[simp] theorem execHandshakeDrainDone_wf (part : Nat) (s : State) (hm : Memory.wf s.mem = true) :
    OutWf (execHandshakeDrainDone part s) := by
  unfold execHandshakeDrainDone
  repeat' split
  all_goals simp +contextual [hm]

@[simp] theorem execHandshakeTimeout_wf (part : Nat) (s : State) (hm : Memory.wf s.mem = true) :
    OutWf (execHandshakeTimeout part s) := by
  unfold execHandshakeTimeout
  repeat' split
  all_goals simp +contextual [hm]

@[simp] theorem execMigrationCommitSend_wf (part : Nat) (ok : Bool) (s : State) (hm : Memory.wf s.mem = true) :
    OutWf (execMigrationCommitSend part ok s) := by
  unfold execMigrationCommitSend
  dsimp only
  repeat' split
  all_goals simp +contextual [hm]

@[simp] theorem execMigrationCommitReceive_wf (part : Nat) (s : State) (hm : Memory.wf s.mem = true) :
    OutWf (execMigrationCommitReceive part s) := by
  unfold execMigrationCommitReceive
  repeat' split
  all_goals simp +contextual [hm]

@[simp] theorem execMigrationCommitAck_wf (part : Nat) (acked : Bool) (s : State) (hm : Memory.wf s.mem = true) :
    OutWf (execMigrationCommitAck part acked s) := by
  unfold execMigrationCommitAck
  repeat' split
  all_goals simp +contextual [hm]

@[simp] theorem execParSaveWrite_wf (part tenant : Nat) (v : DWord) (s : State) (hm : Memory.wf s.mem = true) :
    OutWf (execParSaveWrite part tenant v s) := by
  simp +contextual [execParSaveWrite, hm, foldl_wf]

theorem uncorrectable_wf (s : State) (e : EccSite) (hm : Memory.wf s.mem = true) :
    Memory.wf (uncorrectable s e).mem = true := by
  cases e with
  | row c r l =>
    dsimp only [uncorrectable]
    refine coreError_wf _ _ _ _ _ _ ?_
    split <;> simp [hm]
  | warpState c w =>
    dsimp only [uncorrectable]
    split <;> simp [hm]
  | _ => simp [uncorrectable, hm]

theorem correctable_wf (s : State) (e : EccSite) (hm : Memory.wf s.mem = true) :
    Memory.wf (correctable_ s e).mem = true := by
  cases e <;> simp [correctable_, hm, uncorrectable_wf]

@[simp] theorem execEccError_wf (site : EccSite) (correctable : Bool) (s : State) (hm : Memory.wf s.mem = true) :
    OutWf (execEccError site correctable s) := by
  have hu := uncorrectable_wf s site hm
  unfold execEccError
  split
  · exact correctable_wf s site hm
  · split
    · split
      · exact triggerRestart_wf _ _ hu
      · exact hu
    · exact hu

@[simp] theorem execRkpetWrite_wf (_part : Nat) (s : State) (hm : Memory.wf s.mem = true) :
    OutWf (execRkpetWrite _part s) := by
  simp +contextual [execRkpetWrite, hm]

@[simp] theorem execThaw_wf (part : Nat) (s : State) (hm : Memory.wf s.mem = true) :
    OutWf (execThaw part s) := by
  unfold execThaw
  repeat' split
  all_goals simp +contextual [hm]

@[simp] theorem execRouterFailure_wf (oct col row : Nat) (lostCores lostSlices : List Nat) (lostPort : Bool) (s : State)
    (hm : Memory.wf s.mem = true) :
    OutWf (execRouterFailure oct col row lostCores lostSlices lostPort s) := by
  unfold execRouterFailure
  split
  · exact hm
  · extract_lets t u v
    have ht : Memory.wf t.mem = true := by simpa [t] using hm
    have hu : Memory.wf u.mem = true := by
      refine foldl_wf (fun s c hs => ?_) _ ht
      split <;> simp [hs]
    have hv : v.mem = u.mem := by dsimp only [v]
    rw [← hv] at hu
    simp [hu]

@[simp] theorem execLinkFailure_wf (a b : Nat) (s : State) (hm : Memory.wf s.mem = true) :
    OutWf (execLinkFailure a b s) := by
  unfold execLinkFailure
  extract_lets l t u v ps
  split
  · exact hm
  · have ht : Memory.wf t.mem = true := foldl_wf (fun s o hs => (loseInFlight_mem s o).symm ▸ hs) _ hm
    have hv : Memory.wf v.mem = true := foldl_wf (fun s o hs => fenceOct_wf s o hs) _ (by simpa [u] using ht)
    exact foldl_wf (fun s p hs => postEvent_wf _ _ _ _ _ _ _ _ hs) _ (by simpa using hv)

@[simp] theorem execScanTestStart_wf (core : Nat) (s : State) (hm : Memory.wf s.mem = true) :
    OutWf (execScanTestStart core s) := by
  simp +contextual [execScanTestStart, hm, foldl_wf]

@[simp] theorem execScanDeferExpire_wf (core : Nat) (s : State) (hm : Memory.wf s.mem = true) :
    OutWf (execScanDeferExpire core s) := by
  unfold execScanDeferExpire
  repeat' split
  all_goals simp +contextual [hm]

@[simp] theorem execScanTestComplete_wf (core : Nat) (pass : Bool) (s : State) (hm : Memory.wf s.mem = true) :
    OutWf (execScanTestComplete core pass s) := by
  unfold execScanTestComplete
  repeat' split
  all_goals simp +contextual [hm]

@[simp] theorem execModuleBoot_wf (image : BootImage) (s : State) (hm : Memory.wf s.mem = true) :
    OutWf (execModuleBoot image s) := by
  simp +contextual [execModuleBoot, hm, foldl_mem]

@[simp] theorem execAttestRequest_wf (part : Nat) (pa : DWord) (s : State) (hm : Memory.wf s.mem = true) :
    OutWf (execAttestRequest part pa s) := by
  simp +contextual [execAttestRequest, hm]

@[simp] theorem execKeyRequest_wf (part : Nat) (v : DWord) (s : State) (hm : Memory.wf s.mem = true) :
    OutWf (execKeyRequest part v s) := by
  simp +contextual [execKeyRequest, hm]

@[simp] theorem execKeyVerifyComplete_wf (part slot : Nat) (s : State) (hm : Memory.wf s.mem = true) :
    OutWf (execKeyVerifyComplete part slot s) := by
  unfold execKeyVerifyComplete
  repeat' split
  all_goals simp +contextual [hm]

@[simp] theorem takeSct_wf (s : State) (pn : Nat) (k : SctPacket) (hm : Memory.wf s.mem = true) :
    OutWf (takeSct s pn k) := by
  unfold takeSct
  repeat' split
  all_goals simp +contextual [hm]

@[simp] theorem execEthFrameReceive_wf (oct : Nat) (frame : EthFrame) (s : State) (hm : Memory.wf s.mem = true) :
    OutWf (execEthFrameReceive oct frame s) := by
  unfold execEthFrameReceive
  dsimp only
  repeat' split
  all_goals simp +contextual [hm]

@[simp] theorem execEthFrameTransmit_wf (oct : Nat) (frame : EthFrame) (s : State) (hm : Memory.wf s.mem = true) :
    OutWf (execEthFrameTransmit oct frame s) := by
  unfold execEthFrameTransmit
  dsimp only
  repeat' split
  all_goals simp +contextual [hm]

@[simp] theorem execPfxa_wf (pred : BitVec 4) (neg : BitVec 1) (pol : BitVec 2) (c : BitVec 7) (cv : BitVec 1)
    (s : State) (hm : Memory.wf s.mem = true) :
    OutWf (execPfxa pred neg pol c cv s) := by
  unfold execPfxa
  repeat' split
  all_goals simp +contextual [hm]

@[simp] theorem execPfxb_wf (rm : BitVec 3) (sat : BitVec 1) (ty : BitVec 4) (s : State) (hm : Memory.wf s.mem = true) :
    OutWf (execPfxb rm sat ty s) := by
  unfold execPfxb
  repeat' split
  all_goals simp +contextual [hm]

@[simp] theorem execHomeSliceWrite_wf (src : WriteSource) (s : State) (hm : Memory.wf s.mem = true) :
    OutWf (execHomeSliceWrite src s) := by
  cases src with
  | core c n => exact coreStore_wf s c n hm
  | gpc pn oct core pa a =>
    rw [execHomeSliceWrite]
    exact asWriter_wf hm fun t ht => gpcAccess_wf t pn pa a ht

@[simp] theorem execNetrejWrite_wf (part : Nat) (s : State) (hm : Memory.wf s.mem = true) :
    OutWf (execNetrejWrite part s) := by
  simp +contextual [execNetrejWrite, hm]

@[simp] theorem execCenStatWrite_wf (part : Nat) (s : State) (hm : Memory.wf s.mem = true) :
    OutWf (execCenStatWrite part s) := by
  simp +contextual [execCenStatWrite, hm]

@[simp] theorem execEvlostWrite_wf (part : Nat) (s : State) (hm : Memory.wf s.mem = true) :
    OutWf (execEvlostWrite part s) := by
  simp +contextual [execEvlostWrite, hm]

@[simp] theorem execRxdropWrite_wf (part : Nat) (s : State) (hm : Memory.wf s.mem = true) :
    OutWf (execRxdropWrite part s) := by
  simp +contextual [execRxdropWrite, hm]

@[simp] theorem execStalePairWrite_wf (part idx : Nat) (v : DWord) (s : State) (hm : Memory.wf s.mem = true) :
    OutWf (execStalePairWrite part idx v s) := by
  simp +contextual [execStalePairWrite, hm]

@[simp] theorem fsWrite_wf (s : State) (pn : Nat) (v : DWord) (hm : Memory.wf s.mem = true) :
    OutWf (fsWrite s pn v) := by
  unfold fsWrite
  repeat' split
  all_goals simp +contextual [hm]

@[simp] theorem cmdWrite_wf (s : State) (pn : Nat) (v : DWord) (hm : Memory.wf s.mem = true) :
    OutWf (cmdWrite s pn v) := by
  unfold cmdWrite
  split
  · exact parCommand_wf hm fun t ht => ht
  all_goals simp [hm]

@[simp] theorem afterWrite_wf (s : State) (pn : Nat) (r : HReg) (v : DWord) (hm : Memory.wf s.mem = true) :
    OutWf (afterWrite s pn r v) := by
  unfold afterWrite
  repeat' split
  all_goals simp +contextual [hm]

@[simp] theorem acceptWrite_wf (s : State) (pn : Nat) (r : HReg) (v new : DWord) (who : Role)
    (hm : Memory.wf s.mem = true) :
    OutWf (acceptWrite s pn r v new who) := by
  unfold acceptWrite
  repeat' split
  all_goals simp +contextual [hm]

@[simp] theorem writeRegister_wf (s : State) (pn : Nat) (who : Role) (r : HReg) (v : DWord)
    (hm : Memory.wf s.mem = true) :
    OutWf (writeRegister s pn who r v) := by
  unfold writeRegister
  repeat' split
  all_goals simp +contextual [hm]

@[simp] theorem execRegisterWrite_wf (part : Nat) (who : Agent) (r : HReg) (v : DWord) (s : State)
    (hm : Memory.wf s.mem = true) :
    OutWf (execRegisterWrite part who r v s) := by
  unfold execRegisterWrite
  split
  · exact hm
  · exact asWriter_wf hm fun t ht => writeRegister_wf _ _ _ _ _ (by simpa using ht)

@[simp] theorem execRowld_wf (d : BitVec 7) (a : BitVec 6) (h : BitVec 1) (n : BitVec 3) (s : State)
    (hm : Memory.wf s.mem = true) :
    OutWf (execRowld d a h n s) := by
  unfold execRowld
  refine runMem_wf (fun x => ?_) fun x s hs => ?_
  · repeat' split
    all_goals simp [hm]
  · dsimp only
    rw [gives_bind, rowldCheck_gives]
    intro t _ ht
    rw [gives_ite]
    refine ⟨fun _ => by simp [ht, hs], fun _ => ?_⟩
    rw [← ht] at hs
    simp only [gives_bind, raiseCause_gives, parkIf_gives]
    intro _ _
    split
    · simp only [gives_bind, splitRow_gives]
      intro u _ hu
      rw [gives_ok, issueLong_mem]
      repeat' split
      all_goals simp [hu, hs]
    · rw [gives_bind, parkIf_gives]
      intro _
      split <;> simp +contextual [hs]

@[simp] theorem execRowst_wf (d : BitVec 7) (a : BitVec 6) (n : BitVec 3) (s : State) (hm : Memory.wf s.mem = true) :
    OutWf (execRowst d a n s) := by
  unfold execRowst
  refine runMem_wf (fun x => ?_) fun x t ht => ?_
  · repeat' split
    all_goals simp [hm]
  · simp +contextual [ht]

@[simp] theorem execRowadd_wf (d : BitVec 7) (a : BitVec 6) (n : BitVec 3) (s : State) (hm : Memory.wf s.mem = true) :
    OutWf (execRowadd d a n s) := by
  unfold execRowadd
  refine runMem_wf (fun x => ?_) fun x t ht => ?_
  · repeat' split
    all_goals simp [hm]
  · simp +contextual [ht]

/-- Every instruction and event keeps memory's form: by the lemma of its function, or of the shape of word that it is. -/
theorem exec_wf (i : Instr) {s : State} (hm : Memory.wf s.mem = true) : OutWf (exec i s) := by
  cases i with
  | sadd | ssub | smul | smulh | sand | sor | sxor | sshl | sshr | ssra | smin | smax =>
    simp [execSadd, execSsub, execSmul, execSmulh, execSand, execSor, execSxor, execSshl, execSshr, execSsra,
      execSmin, execSmax, hm]
  | saddImm | ssubImm | smulImm | smulhImm | sandImm | sorImm | sxorImm | sshlImm | sshrImm | ssraImm | sminImm |
    smaxImm =>
    simp [execSaddImm, execSsubImm, execSmulImm, execSmulhImm, execSandImm, execSorImm, execSxorImm, execSshlImm,
      execSshrImm, execSsraImm, execSminImm, execSmaxImm, hm]
  | iadd | isub | imul | imulh | iand | ior | ixor | ishl | ishr | isra | imin | imax | bfe =>
    simp [execIadd, execIsub, execImul, execImulh, execIand, execIor, execIxor, execIshl, execIshr, execIsra,
      execImin, execImax, execBfe, hm]
  | iaddImm | isubImm | imulImm | imulhImm | iandImm | iorImm | ixorImm | ishlImm | ishrImm | israImm | iminImm |
    imaxImm =>
    simp [execIaddImm, execIsubImm, execImulImm, execImulhImm, execIandImm, execIorImm, execIxorImm, execIshlImm,
      execIshrImm, execIsraImm, execIminImm, execImaxImm, hm]
  | imad | bfi =>
    simp [execImad, execBfi, hm]
  | iabs | popc | clz | brev | mov =>
    simp [execIabs, execPopc, execClz, execBrev, execMov, hm]
  | pand | por | pxor | pnot =>
    simp [execPand, execPor, execPxor, execPnot, hm]
  | fadd | fsub | fmul | fmin | fmax =>
    simp [execFadd, execFsub, execFmul, execFmin, execFmax, hm]
  | fabs | fneg | fcvt | frcp | frsq | fsqrt | fex2 | flg2 | ftanh =>
    simp [execFabs, execFneg, execFcvt, execFrcp, execFrsq, execFsqrt, execFex2, execFlg2, execFtanh, hm]
  | fcmpEq | fcmpLt | fcmpLe | fcmpGt | fcmpGe | fcmpNe | fcmpOrd | fcmpUno | fcmpEqu | fcmpLtu | fcmpLeu | fcmpGtu |
    fcmpGeu =>
    simp [execFcmpEq, execFcmpLt, execFcmpLe, execFcmpGt, execFcmpGe, execFcmpNe, execFcmpOrd, execFcmpUno,
      execFcmpEqu, execFcmpLtu, execFcmpLeu, execFcmpGtu, execFcmpGeu, hm]
  | fcmpNeu =>
    simp [execFcmpNeu, hm]
  | hadd2 | hmul2 =>
    simp [execHadd2, execHmul2, hm]
  | shfl2 | shfl4 | shfl8 | shfl16 | shfl32 =>
    simp [execShfl2, execShfl4, execShfl8, execShfl16, execShfl32, hm]
  | voteAny | voteAll | voteBal =>
    simp [execVoteAny, execVoteAll, execVoteBal, hm]
  | jmpr | callr =>
    simp [execJmpr, execCallr, hm]
  | map | mapr | unmap | movn | swpn | take | takeq | ismap | wbase | mapq | scmp | scmpImm | ssel =>
    simp +contextual [execMap, execMapr, execUnmap, execMovn, execSwpn, execTake, execTakeq, execIsmap, execWbase,
      execMapq, execScmp, execScmpImm, execSsel, hm]
  | smov | sldi | slit | iaddc | icmp | icmpImm | lea | movs | lit | pset | pmov | ffma | hfma2 =>
    simp +contextual [execSmov, execSldi, execSlit, execIaddc, execIcmp, execIcmpImm, execLea, execMovs, execLit,
      execPset, execPmov, execFfma, execHfma2, hm]
  | matchAny | matchAll | redux | fredux | scan | bcast | bra | bru | jpoint | call | ret | exit | nop =>
    simp +contextual [execMatchAny, execMatchAll, execRedux, execFredux, execScan, execBcast, execBra, execBru,
      execJpoint, execCall, execRet, execExit, execNop, hm]
  | yield | lds | sts | atoms | gbar | garv | gwait | mzero | bfill | bfills | mepi | vpop | mburst =>
    simp +contextual [execYield, execLds, execSts, execAtoms, execGbar, execGarv, execGwait, execMzero, execBfill,
      execBfills, execMepi, execVpop, execMburst, hm]
  | mstat | accsv | accld | fwait | ftest | fstat | tld | tst | tcpy | tmcast | gath | scat | qfeed =>
    simp +contextual [execMstat, execAccsv, execAccld, execFwait, execFtest, execFstat, execTld, execTst, execTcpy,
      execTmcast, execGath, execScat, execQfeed, hm]
  | qpop | qrel | qpost | qpostAt | ctradd | ctrwait | rteset | launch | tunreg | solicit | reply | census | trap =>
    simp +contextual [execQpop, execQrel, execQpost, execQpostAt, execCtradd, execCtrwait, execRteset, execLaunch,
      execTunreg, execSolicit, execReply, execCensus, execTrap, hm]
  | srd | swr | bkpt | gettime | srdV | pathPromotion | submissionRingTail | preemptBudgetExpire |
    completionRingHead | pageWalk | writebackScanVisit | snapshotRead | flashWriteComplete =>
    simp +contextual [execSrd, execSwr, execBkpt, execGettime, execSrdV, execPathPromotion, execSubmissionRingTail,
      execPreemptBudgetExpire, execCompletionRingHead, execPageWalk, execWritebackScanVisit, execSnapshotRead,
      execFlashWriteComplete, hm]
  | watchdogExpire | mctpMessage | troyDebugRead | debugResume | portLinkChange | terminationByRyukel |
    powerReachesTdp =>
    simp +contextual [execWatchdogExpire, execMctpMessage, execTroyDebugRead, execDebugResume, execPortLinkChange,
      execTerminationByRyukel, execPowerReachesTdp, hm]
  | unmapm | rotn | aliasN | copyn | give | elect | brp | join | ldg | stg | ldu | stu | atom | rowld | rowst |
    rowadd | pref | fence | mma | scld | mdrain | fcancel | feedgo | cabort | treg | tmove | replyv | eret | pfxa |
    pfxb | spanIssue | longLatencyComplete | gangRelease | gangTrapDeferredEntry | launchEnd | engineLineWrite |
    tileTransferComplete | bfillComplete | qfeedFillComplete | drainRowDeliver | scratchWaitPerform | feedSpanIssue |
    postedEntryFire | sctData | sctAck | sctNak | sctLaunch | sctAbort | sctState | sctLineReq | sctLineRsp |
    nakBackoffExpire | sctAckTimeout | rootSequence | solicitAccept | responderSpawn | coreReport | tmoveSwitchSend |
    tmoveSwitchApply | barrierArriveSend | barrierArriveCount | barrierComplete | recordCheck | dispatchPlace |
    pathStop | tenantTeardown | homeSliceWrite | l1Invalidate | lineFetchComplete | fileBlockRead | shootdown |
    shootdownComplete | fsRead | fsRelease | fsScrub | scrubComplete | fsSetfile | fsReadcnt | hardwareMigration |
    parMerge | parYield | parSplit | parMigrate | parAccept | handshakeDrainDone | handshakeTimeout |
    migrationCommitSend | migrationCommitReceive | migrationCommitAck | parSaveWrite | rkpetWrite | thaw |
    keyRequest | keyVerifyComplete | attestRequest | scanTestStart | scanDeferExpire | scanTestComplete |
    routerFailure | linkFailure | eccError | moduleBoot | ethFrameReceive | ethFrameTransmit | stalePairWrite |
    netrejWrite | cenStatWrite | evlostWrite | rxdropWrite | registerWrite => simp [hm]

/-! ## Turns and steps -/

theorem readWord_wf {s t : State} {x : Ctx} (hm : Memory.wf s.mem = true) (h : readWord s x = .done t) :
    Memory.wf t.mem = true := by
  have htrap (pc : PC) (code : Nat) {u : State} (hu : wordTrap s x pc code = .done u) : Memory.wf u.mem = true := by
    cases hu
    exact trapEnter_wf s _ _ _ _ _ _ hm
  unfold readWord at h
  dsimp only at h
  split at h
  · cases h; exact hm
  · split at h
    · split at h
      · cases h
      · exact htrap _ _ h
    · split at h
      · exact htrap _ _ h
      · split at h
        · exact htrap _ _ h
        · split at h
          · exact htrap _ _ h
          · cases h

@[simp] theorem stepWord_wf (core slot : Nat) (s : State) (hm : Memory.wf s.mem = true) :
    OutWf (stepWord core slot s) := by
  unfold stepWord
  dsimp only
  split
  · exact hm
  · split
    · exact exec_wf _ hm
    · rename_i h
      exact readWord_wf (s := { s with cur := (core, slot) }) hm h

/-- An act that keeps memory's form. -/
def Keeps (f : Act) : Prop := ∀ s, Memory.wf s.mem = true → OutWf (f s)

theorem placeNow_keeps (n : Nat) : Keeps (placeNow n) := by
  intro s hm
  have h := execDispatchPlace_wf n s hm
  unfold placeNow
  split
  next t heq =>
    rw [heq] at h
    split
    · exact h
    · exact hm
  next => exact h

theorem warpEvents_keep (c w : Nat) (v : Warp) : ∀ f ∈ warpEvents c w v, Keeps f := by
  simp +contextual [warpEvents, Keeps, or_imp]

theorem engineEvents_keep (c o : Nat) (e : EngineOp) : ∀ f ∈ engineEvents c o e, Keeps f := by
  unfold engineEvents
  split
  all_goals simp +contextual [Keeps, or_imp]

theorem holdingEvents_keep (s : State) (c l : Nat) (h : CoreLaunch) : ∀ f ∈ holdingEvents s c l h, Keeps f := by
  simp +contextual [holdingEvents, Keeps, or_imp, forall_and]

theorem coreEvents_keep (s : State) (c : Nat) (k : Core) : ∀ f ∈ coreEvents s c k, Keeps f := by
  simp only [coreEvents, List.forall_mem_append, List.forall_mem_flatMap, List.forall_mem_map]
  refine ⟨⟨⟨⟨⟨⟨fun w _ => warpEvents_keep c w.1 w.2, ?_⟩, fun i _ t ht => execL1Invalidate_wf c i.2 t ht⟩,
    fun e _ => engineEvents_keep c e.1 e.2⟩, fun h _ => holdingEvents_keep s c h.1 h.2⟩, ?_⟩,
    fun a _ t ht => execCoreReport_wf c a.q.seq t ht⟩
  all_goals simp +contextual [Keeps, or_imp]

theorem partEvents_keep (n : Nat) (p : Partition) : ∀ f ∈ partEvents n p, Keeps f := by
  unfold partEvents
  split
  all_goals simp +contextual [Keeps, or_imp]

theorem ownEvents_keep (s : State) : ∀ f ∈ ownEvents s, Keeps f := by
  simp only [ownEvents, List.forall_mem_append, List.forall_mem_flatMap, List.forall_mem_map]
  exact ⟨⟨⟨⟨fun e _ => coreEvents_keep s e.1 e.2, fun e _ => partEvents_keep e.1 e.2⟩,
    fun f _ t ht => execScrubComplete_wf _ _ t ht⟩, fun e _ t ht => execLaunchEnd_wf _ t ht⟩, fun n _ => placeNow_keeps n⟩

theorem warpTurns_keep (s : State) : ∀ f ∈ warpTurns s, Keeps f := by
  simp only [warpTurns, List.forall_mem_append, List.forall_mem_map]
  exact ⟨fun e _ t ht => stepWord_wf _ _ t ht, fun e _ t ht => execSpanIssue_wf _ _ _ t ht⟩

theorem defaultActs_keep (s : State) : ∀ f ∈ defaultActs s, Keeps f := by
  simp only [defaultActs, List.forall_mem_append, List.forall_mem_map]
  exact ⟨⟨ownEvents_keep s, warpTurns_keep s⟩, fun n _ t ht => execDispatchPlace_wf n t ht⟩

theorem takeFirst_wf {s : State} {l : List Act} (hm : Memory.wf s.mem = true) (hl : ∀ f ∈ l, Keeps f) :
    OutWf (takeFirst s l) := by
  induction l with
  | nil => exact hm
  | cons f fs ih =>
    obtain ⟨hf, hfs⟩ := List.forall_mem_cons.1 hl
    have h := hf s hm
    unfold takeFirst
    split
    next t heq =>
      rw [heq] at h
      split
      · exact ih hfs
      · exact h
    next => exact h

theorem takeTurn_wf {s : State} (hm : Memory.wf s.mem = true) (t : Turn) : OutWf (takeTurn s t) := by
  cases t with
  | word core slot => exact stepWord_wf core slot s hm
  | event e =>
    rw [takeTurn]
    split
    · exact exec_wf e hm
    · exact hm

theorem tick_wf {o : Host.Outcome State Fault Refusal} (h : OutWf o) : OutWf (tick o) := by
  cases o with
  | next t =>
    have hages : (t.cores.foldl (fun s e => refreshAges s e.1) t).mem = t.mem := foldl_mem (fun s e => by simp) _ t
    rw [tick, outWf_next]
    dsimp only
    rw [hages]
    exact h
  | _ => trivial

/-- Settles O59, by cases on the turn that the step takes: a word, an event, or the first of the default turns that
changes the state. -/
theorem memoryStaysCanonical : Obligations.MemoryStaysCanonical := by
  intro s t hm h
  have hstep : OutWf (step s) := by
    unfold step
    apply tick_wf
    split
    · rename_i t rest _
      exact takeTurn_wf (s := { s with agenda := rest }) hm t
    · exact takeFirst_wf hm (defaultActs_keep s)
  rwa [h] at hstep

end Sys2Proof.Machine

end

section
/-! PROOF. The divergence stack, joins and exits (O22). -/

namespace Sys2Proof.Machine

open Sys2Proof

/-! ## The checks of a control word -/

theorem needLast_ok {x : Ctx} (h : LastWord x) : needLast x = .ok () := by
  have he : wordE (spanWord x.sp x.sp.idx) = true := h
  rw [needLast, he]
  rfl

/-- A transfer that can be made passes its landing check (R56). -/
theorem checkLanding_ok {s : State} {x : Ctx} {pc : PC} {u : Bool} (h : Lands s x pc u) : checkLanding s x pc = .ok u := by
  unfold Lands at h
  simp only [checkLanding, h]
  cases u <;> rfl

theorem checkEntry_ok {x : Ctx} {w : Warp} {sec : Bool} {e : BitVec 128} (h : entBad e = false) :
    checkEntry x w sec e = .ok () := by simp [checkEntry, h, raiseIf_false]

theorem entKind_of_good {e : BitVec 128} (h : entBad e = false) : entKind e ≠ 0 ∧ entKind e ≠ 3 := by
  simp only [entBad, Bool.or_eq_false_iff, beq_eq_false_iff_ne] at h
  exact ⟨h.1.1.1, h.1.1.2⟩

/-- An entry with a live lane sends its path where its landing check allows (R122). -/
theorem popLanding_live {s : State} {x : Ctx} {w : Warp} {e : BitVec 128} {u : Bool} (hb : entBad e = false)
    (hm : entMask e &&& ~~~w.exited &&& ~~~w.dead ≠ 0) (hl : Lands s x (entPc e) u) : popLanding s x w e = .ok u := by
  obtain ⟨h0, h3⟩ := entKind_of_good hb
  rw [popLanding, if_neg (by rintro (h | h | h) <;> contradiction), checkLanding_ok hl]

/-- An entry of no kind, or one whose lanes are all gone, sends its path nowhere (R122). -/
theorem popLanding_nowhere {s : State} {x : Ctx} {w : Warp} {e : BitVec 128}
    (h : entKind e = 0 ∨ entKind e = 3 ∨ entMask e &&& ~~~w.exited &&& ~~~w.dead = 0) : popLanding s x w e = .ok true :=
  if_pos h

/-- Where an unwinding path goes from a deferred arm, or from an entry that sends it nowhere: to the entry's address (R117). -/
theorem unwindTarget_entry {s : State} {x : Ctx} {w : Warp} {e : BitVec 128} {u : Bool} (hl : popLanding s x w e = .ok u)
    (hk : entKind e ≠ 1 ∨ u = true) : unwindTarget s x w e = .ok (entPc e, u) := by
  simp only [unwindTarget, hl, bind, Except.bind, if_pos hk]

/-- The continuation of a join span whose block can be read (R115). -/
theorem joinContinuation_ok {s : State} {x : Ctx} {h : PC} {asid : Nat} {un : Bool}
    (hf : fetchCause s (partOf s x.pn) x.c x.l.tenant h.toNat = none)
    (hb : blockAway s (partOf s x.pn) x.c (askPath x.c x.slot x.sp.sec) x.l.tenant h.toNat = false)
    (ha : asidFor (partOf s x.pn) x.l.tenant h.toNat = some asid) :
    let k := h + BitVec.ofNat 57 (4 * (spanLen ((codeBlock s (partOf s x.pn) x.c asid h.toNat).getD (h.toNat % 128 / 4) 0) + 1))
    Lands s x k un → joinContinuation s x h = .ok (k, un) := by
  intro k hk
  simp only [joinContinuation, hf, hb, ha, Option.isSome_none, Bool.false_eq_true, if_false, checkLanding_ok hk, bind,
    Except.bind, k]

/-- The lanes that BRP takes (R114). -/
theorem xor_neg_mask (m : Mask) (neg : BitVec 1) :
    m ^^^ (if neg = 1#1 then 0xFFFFFFFF#32 else 0#32) = if neg = 1 then ~~~m else m := by
  by_cases h : neg = 1#1
  · simp only [h, if_true]
    exact BitVec.xor_allOnes
  · simp [h]

/-! ## Paths -/

@[simp] theorem pathOf_setPath_same (w : Warp) (sec : Bool) (p : Path) : pathOf (setPath w sec p) sec = p := by
  cases sec <;> rfl

@[simp] theorem pathOf_setPath_other (w : Warp) (sec : Bool) (p : Path) :
    pathOf (setPath w sec p) (!sec) = pathOf w (!sec) := by cases sec <;> rfl

@[simp] theorem exited_setPath (w : Warp) (sec : Bool) (p : Path) : (setPath w sec p).exited = w.exited := by cases sec <;> rfl

@[simp] theorem dead_setPath (w : Warp) (sec : Bool) (p : Path) : (setPath w sec p).dead = w.dead := by cases sec <;> rfl

@[simp] theorem split_setPath (w : Warp) (sec : Bool) (p : Path) : (setPath w sec p).split = w.split := by cases sec <;> rfl

/-- A pop changes the path of its half only, whose depth falls by one (R113). -/
theorem popEntry_path {s t : State} {x : Ctx} {w v : Warp} {sec : Bool} (h : popEntry s x w sec = .ok (t, v)) :
    ∃ p, v = setPath w sec p ∧ p.depth = (pathOf w sec).depth - 1 := by
  simp only [popEntry] at h
  split at h
  · cases he : readEntryMem s x (entryAddr x w sec ((pathOf w sec).depth - 1 - ((pathOf w sec).top.drop 1).length - 1)) with
    | error e => simp only [he, bind, Except.bind, reduceCtorEq] at h
    | ok r =>
      simp only [he, bind, Except.bind, Except.ok.injEq, Prod.mk.injEq] at h
      exact ⟨_, h.2.symm, rfl⟩
  · simp only [Except.ok.injEq, Prod.mk.injEq] at h
    exact ⟨_, h.2.symm, rfl⟩

/-! ## Merging and unwinding (R116, R117) -/

/-- The warp of two merged paths, on the primary one (R17, R116). -/
def mergedWarp (v : Warp) (k : PC) (live : Mask) (un : Bool) : Warp :=
  sendPath { v with
    seco := { v.seco with state := .vacant, exec := 0, atSafePoint := none }
    split := ⟨false, 0, 0⟩
    ops := v.ops.map (fun o => { o with sec := false, onP := o.onP || o.onS, onS := false })
    pend := v.pend.map (fun q => { q with sec := false, onP := q.onP || q.onS, onS := false }) } false k live un

/-- The warp one of whose paths has come to the join point of the split (R115). -/
def joiningWarp (w : Warp) (sec : Bool) (exec : Mask) : Warp :=
  modPath w sec (fun p => { p with state := .joining, exec := exec })

theorem joiningWarp_both {w : Warp} {sec : Bool} (exec : Mask) :
    ((joiningWarp w sec exec).prim.state = .joining ∧ (joiningWarp w sec exec).seco.state = .joining)
      ↔ (pathOf w (!sec)).state = .joining := by
  cases sec <;> simp [joiningWarp, modPath, setPath, pathOf]

/-- Two paths at the join point merge if a lane is left (R116). -/
theorem tryMerge_merges {s : State} {x : Ctx} {w : Warp} {k : PC} {un : Bool}
    (h : w.prim.state = .joining ∧ w.seco.state = .joining) (hm : w.split.mask &&& ~~~w.exited &&& ~~~w.dead ≠ 0)
    (hk : joinContinuation s x w.split.addr = .ok (k, un)) :
    tryMerge s x w = .ok (some (mergedWarp w k (w.split.mask &&& ~~~w.exited) un)) := by
  simp only [tryMerge, if_pos h, hk, bind, Except.bind]
  rw [if_neg hm]
  rfl

/-- A path that is the first at the split's join point waits there (R115). -/
theorem joinPath_waits {s : State} {x : Ctx} {w : Warp} {sec : Bool} {exec : Mask} (h : (pathOf w (!sec)).state ≠ .joining) :
    joinPath s x w sec exec = .ok (some (joiningWarp w sec exec)) := by
  show tryMerge s x (joiningWarp w sec exec) = _
  rw [tryMerge, if_neg (mt (joiningWarp_both exec).1 h)]

@[simp] theorem split_joiningWarp (w : Warp) (sec : Bool) (exec : Mask) : (joiningWarp w sec exec).split = w.split :=
  split_setPath ..

@[simp] theorem exited_joiningWarp (w : Warp) (sec : Bool) (exec : Mask) : (joiningWarp w sec exec).exited = w.exited :=
  exited_setPath ..

@[simp] theorem dead_joiningWarp (w : Warp) (sec : Bool) (exec : Mask) : (joiningWarp w sec exec).dead = w.dead :=
  dead_setPath ..

/-- The path that is the second at the join point merges with the other if a lane is left (R116). -/
theorem joinPath_merges {s : State} {x : Ctx} {w : Warp} {sec : Bool} {exec : Mask} {k : PC} {un : Bool}
    (h : (pathOf w (!sec)).state = .joining) (hm : w.split.mask &&& ~~~w.exited &&& ~~~w.dead ≠ 0)
    (hk : joinContinuation s x w.split.addr = .ok (k, un)) :
    joinPath s x w sec exec = .ok (some (mergedWarp (joiningWarp w sec exec) k (w.split.mask &&& ~~~w.exited) un)) := by
  show tryMerge s x (joiningWarp w sec exec) = _
  rw [tryMerge_merges ((joiningWarp_both exec).2 h) (by simpa using hm) (by simpa using hk), split_joiningWarp,
    exited_joiningWarp]

/-- Where no lane is left at the join point the warp retires (R116). -/
theorem joinPath_retires {s : State} {x : Ctx} {w : Warp} {sec : Bool} {exec : Mask}
    (h : (pathOf w (!sec)).state = .joining) (hm : w.split.mask &&& ~~~w.exited &&& ~~~w.dead = 0) :
    joinPath s x w sec exec = .ok none := by
  show tryMerge s x (joiningWarp w sec exec) = _
  rw [tryMerge, if_pos ((joiningWarp_both exec).2 h)]
  exact if_pos (by simpa using hm)

/-- A path without an entry unwinds to the join point of the split (R117). -/
theorem unwind_split {s : State} {x : Ctx} {w : Warp} {sec : Bool} {n : Nat} {r : Option Warp} (h : topEntry w sec = none)
    (hv : w.split.valid = true) (hj : joinPath s x w sec 0 = .ok r) : unwind s x sec (n + 1) w = .ok (s, r) := by
  simp only [unwind, h, hv, if_true, hj, bind, Except.bind]

/-- A path without an entry, of a warp that is not split, retires the warp (R117). -/
theorem unwind_retires {s : State} {x : Ctx} {w : Warp} {sec : Bool} {n : Nat} (h : topEntry w sec = none)
    (hv : w.split.valid = false) : unwind s x sec (n + 1) w = .ok (s, none) := by
  simp only [unwind, h, hv, Bool.false_eq_true, if_false]

/-- An unwinding path goes to its top entry where that has a live lane (R117). -/
theorem unwind_sends {s t : State} {x : Ctx} {w v : Warp} {sec : Bool} {n : Nat} {e : BitVec 128} {k : PC} {un : Bool}
    (h : topEntry w sec = some e) (hk : unwindTarget s x w e = .ok (k, un)) (hb : entBad e = false)
    (hp : popEntry s x w sec = .ok (t, v)) (hm : entMask e &&& ~~~w.exited &&& ~~~w.dead ≠ 0) :
    unwind s x sec (n + 1) w = .ok (t, some (sendPath v sec k (entMask e &&& ~~~w.exited) un)) := by
  obtain ⟨p, rfl, -⟩ := popEntry_path hp
  simp only [unwind, h, hk, checkEntry_ok hb, hp, bind, Except.bind, dead_setPath]
  rw [if_neg hm]

/-- An unwinding path drops its top entry where that has no live lane (R117). -/
theorem unwind_drops {s t : State} {x : Ctx} {w v : Warp} {sec : Bool} {n : Nat} {e : BitVec 128}
    (h : topEntry w sec = some e) (hb : entBad e = false) (hp : popEntry s x w sec = .ok (t, v))
    (hm : entMask e &&& ~~~w.exited &&& ~~~w.dead = 0) : unwind s x sec (n + 1) w = unwind t x sec n v := by
  obtain ⟨p, rfl, -⟩ := popEntry_path hp
  have hk := unwindTarget_entry (popLanding_nowhere (s := s) (x := x) (.inr (.inr hm))) (.inr rfl)
  simp only [unwind, h, hk, checkEntry_ok hb, hp, bind, Except.bind, dead_setPath]
  rw [if_pos hm]

/-- An unwinding path traps on a top entry of no kind (R113, R117). -/
theorem unwind_corrupt {s : State} {x : Ctx} {w : Warp} {sec : Bool} {n : Nat} {e : BitVec 128}
    (h : topEntry w sec = some e) (hk : entKind e = 0 ∨ entKind e = 3) :
    unwind s x sec (n + 1) w = .error (.trap cStackCorrupt (tv (entryAddr x w sec ((pathOf w sec).depth - 1)))) := by
  have ht := unwindTarget_entry (popLanding_nowhere (s := s) (x := x) (w := w) (e := e)
    (hk.elim .inl fun h => .inr (.inl h))) (.inr rfl)
  have hb : entBad e = true := by rcases hk with h | h <;> simp [entBad, h]
  simp only [unwind, h, ht, checkEntry, hb, raiseIf_true, bind, Except.bind]

theorem finish_settle_some (s t : State) (x : Ctx) (w : Warp) :
    finish s x (.ok (settle t x (some w))) = .next (advance (setWarp t x.c x.slot w) x .placed) := rfl

theorem finish_settle_none (s t : State) (x : Ctx) :
    finish s x (.ok (settle t x none)) = .next (advance (retireWarp t x.c x.slot false) x .placed) := rfl

/-! ## JPOINT and BRP (R113, R114) -/

theorem execJpoint_pushes {s t : State} {x : Ctx} {w : Warp} {off : BitVec 14} {u : Bool} (h : ctxOf s = some x)
    (hl : Lands s x (offTarget x off) u)
    (hp : pushEntry s x x.w x.sp.sec (mkEntry 1 (offTarget x off) (curPath x).exec) = .ok (t, w)) :
    execJpoint off s = .next (advance (setWarp t x.c x.slot w) x .seq) := by
  simp only [execJpoint, runWord_at h, checkLanding_ok hl, hp, bind, Except.bind, finish_ok]

/-- The active lanes in which BRP's predicate, inverted with NEG, is 1 (R114). -/
def takenLanes (x : Ctx) (neg : BitVec 1) (p : BitVec 4) : Mask :=
  ctxActive x &&& (if neg = 1 then ~~~pReg x.w p else pReg x.w p)

section
variable {s t : State} {x : Ctx} {w : Warp} {neg : BitVec 1} {p : BitVec 4} {off : BitVec 14} {u : Bool} (h : ctxOf s = some x)
  (hl : LastWord x) (hp : Settled x.w (if ctxActive x = 0 then [] else [.pred p.toNat]))
include h hl hp

/-- BRP without a lane taken goes on (R114). -/
theorem execBrp_stays (ht : takenLanes x neg p = 0) : execBrp neg p off s = .next (advance s x .seq) := by
  have ht : ctxActive x &&& (if neg = 1 then ~~~pReg x.w p else pReg x.w p) = 0 := ht
  simp only [execBrp, runWord_at h, needLast_ok hl, checkPending_ok hp, xor_neg_mask, bind, Except.bind]
  rw [if_pos ht, finish_ok]

variable (ht : takenLanes x neg p ≠ 0) (hland : Lands s x (offTarget x off) u)
include ht hland

/-- BRP with every active lane taken jumps (R114). -/
theorem execBrp_jumps (ha : takenLanes x neg p = ctxActive x) :
    execBrp neg p off s = .next (advance s x (.jump (offTarget x off) u)) := by
  unfold takenLanes at ht ha
  simp only [execBrp, runWord_at h, needLast_ok hl, checkPending_ok hp, xor_neg_mask, bind, Except.bind, checkLanding_ok hland]
  rw [if_neg ht, if_pos ha, finish_ok]

variable (ha : takenLanes x neg p ≠ ctxActive x)
include ha

/-- BRP with some lanes taken splits its path, and the top join point becomes the split record (R114). -/
theorem execBrp_splits (hv : (pathOf x.w (!x.sp.sec)).state = .vacant) {e : BitVec 128} (he : topEntry x.w x.sp.sec = some e)
    (hk : entKind e = 1) (hb : entBad e = false) (hpop : popEntry s x x.w x.sp.sec = .ok (t, w)) :
    execBrp neg p off s = .next (advance (setWarp t x.c x.slot
      (splitPaths w e (takenLanes x neg p) (offTarget x off) u (liveWord x.sp))) x .seq) := by
  unfold takenLanes at ht ha
  simp only [execBrp, runWord_at h, needLast_ok hl, checkPending_ok hp, xor_neg_mask, bind, Except.bind, checkLanding_ok hland]
  rw [if_neg ht, if_neg ha, if_pos hv]
  simp only [he, if_pos hk, checkEntry_ok hb, hpop, finish_ok, takenLanes]

/-- A split without a join point on top traps (R114). -/
theorem execBrp_noJoin (hv : (pathOf x.w (!x.sp.sec)).state = .vacant)
    (hk : ∀ e, topEntry x.w x.sp.sec = some e → entKind e ≠ 1) : execBrp neg p off s = .next (trapped s x cNoJoin 0) := by
  unfold takenLanes at ht ha
  simp only [execBrp, runWord_at h, needLast_ok hl, checkPending_ok hp, xor_neg_mask, bind, Except.bind, checkLanding_ok hland]
  rw [if_neg ht, if_neg ha, if_pos hv]
  cases he : topEntry x.w x.sp.sec with
  | none => exact finish_trap ..
  | some e =>
    simp only [if_neg (hk e he)]
    exact finish_trap ..

/-- BRP with some lanes taken, both paths in use, pushes those as a deferred arm (R114). -/
theorem execBrp_defers (hv : (pathOf x.w (!x.sp.sec)).state ≠ .vacant)
    (hpush : pushEntry s x x.w x.sp.sec (mkEntry 2 (offTarget x off) (takenLanes x neg p)) = .ok (t, w)) :
    execBrp neg p off s = .next (advance (setWarp t x.c x.slot (modPath w x.sp.sec (fun q =>
      { q with exec := q.exec &&& ~~~takenLanes x neg p }))) x .seq) := by
  unfold takenLanes at ht ha hpush
  simp only [execBrp, runWord_at h, needLast_ok hl, checkPending_ok hp, xor_neg_mask, bind, Except.bind, checkLanding_ok hland]
  rw [if_neg ht, if_neg ha, if_neg hv]
  simp only [hpush, finish_ok, takenLanes]

end

/-! ## JOIN (R115, R116) -/

section
variable {s t : State} {x : Ctx} {w : Warp} (h : ctxOf s = some x) (hl : LastWord x)
include h hl

/-- JOIN at the join point of the split (R115). -/
theorem execJoin_split {r : Option Warp} (he : topEntry x.w x.sp.sec = none) (hv : x.w.split.valid = true)
    (ha : x.w.split.addr = x.sp.header) (hj : joinPath s x x.w x.sp.sec (curPath x).exec = .ok r) :
    execJoin s = finish s x (.ok (settle s x r)) := by
  simp only [execJoin, runWord_at h, needLast_ok hl, he, hv, ha, and_self, if_true, hj, bind, Except.bind]

/-- JOIN at its join point, or with a deferred arm on top, whose lanes are not all gone (R115). -/
theorem execJoin_pops {e : BitVec 128} {un : Bool} (he : topEntry x.w x.sp.sec = some e)
    (hpop : popEntry s x x.w x.sp.sec = .ok (t, w)) (hb : entBad e = false)
    (hm : entMask e &&& ~~~x.w.exited &&& ~~~x.w.dead ≠ 0) (hland : Lands s x (entPc e) un) :
    (entKind e = 2 → execJoin s = .next (advance (setWarp t x.c x.slot
      (sendPath w x.sp.sec (entPc e) (entMask e &&& ~~~x.w.exited) un)) x .placed))
    ∧ (entKind e = 1 → entPc e = x.sp.header → execJoin s = .next (advance (setWarp t x.c x.slot
      (sendPath w x.sp.sec (continuation x.sp) (entMask e &&& ~~~x.w.exited) false)) x .placed)) := by
  obtain ⟨p, rfl, -⟩ := popEntry_path hpop
  constructor
  · intro hk
    simp only [execJoin, runWord_at h, needLast_ok hl, he, if_pos (Or.inl hk), popLanding_live hb hm hland,
      checkEntry_ok hb, hpop, bind, Except.bind, exited_setPath, dead_setPath]
    rw [if_neg hm, if_pos hk]
    rfl
  · intro hk hpc
    have h2 : entKind e ≠ 2 := by omega
    have hor : entKind e = 2 ∨ (entKind e = 1 ∧ entPc e = x.sp.header) := .inr ⟨hk, hpc⟩
    simp only [execJoin, runWord_at h, needLast_ok hl, he, if_pos hor,
      popLanding_live hb hm hland, checkEntry_ok hb, hpop, bind, Except.bind, exited_setPath, dead_setPath]
    rw [if_neg hm, if_neg h2]
    rfl

/-- JOIN at any other place traps (R115). -/
theorem execJoin_mismatch
    (hk : ∀ e, topEntry x.w x.sp.sec = some e → entKind e ≠ 2 ∧ (entKind e = 1 → entPc e ≠ x.sp.header))
    (hs : topEntry x.w x.sp.sec = none → x.w.split.valid = true → x.w.split.addr ≠ x.sp.header) :
    execJoin s = .next (trapped s x cJoinMismatch (x.sp.header.setWidth 64)) := by
  simp only [execJoin, runWord_at h, needLast_ok hl, bind, Except.bind]
  cases he : topEntry x.w x.sp.sec with
  | none =>
    have hn : ¬(x.w.split.valid = true ∧ x.w.split.addr = x.sp.header) := fun hc => hs he hc.1 hc.2
    simp only [if_neg hn]
    exact finish_trap ..
  | some e =>
    obtain ⟨h2, h1⟩ := hk e he
    have hn : ¬(entKind e = 2 ∨ (entKind e = 1 ∧ entPc e = x.sp.header)) := by
      rintro (hc | ⟨hc, hpc⟩)
      · exact h2 hc
      · exact h1 hc hpc
    simp only [if_neg hn]
    exact finish_trap ..

end

/-! ## EXIT, NOP and YIELD (R117, R120) -/

/-- A warp whose path's lanes have left by EXIT (R117). -/
def exitedWarp (x : Ctx) : Warp := { x.w with exited := x.w.exited ||| (curPath x).exec }

section
variable {s : State} {x : Ctx} (h : ctxOf s = some x) (hl : LastWord x)
include h hl

theorem execExit_unwinds : execExit s = finish s x (unwindNow s x (exitedWarp x) x.sp.sec) := by
  simp only [execExit, runWord_at h, needLast_ok hl, bind, Except.bind, exitedWarp]

/-- EXIT whose unwind sends the path on, or leaves it at the split's join point. -/
theorem execExit_sends {t : State} {w : Warp}
    (hu : ∀ n, unwind s x x.sp.sec (n + 1) (exitedWarp x) = .ok (t, some w)) :
    execExit s = .next (advance (setWarp t x.c x.slot w) x .placed) := by
  simp only [execExit_unwinds h hl, unwindNow, hu, bind, Except.bind, finish_settle_some]

/-- EXIT whose unwind retires the warp. -/
theorem execExit_retires {t : State} (hu : ∀ n, unwind s x x.sp.sec (n + 1) (exitedWarp x) = .ok (t, none)) :
    execExit s = .next (advance (retireWarp t x.c x.slot false) x .placed) := by
  simp only [execExit_unwinds h hl, unwindNow, hu, bind, Except.bind, finish_settle_none]

/-- EXIT with a top entry of no kind traps (R113, R117). -/
theorem execExit_corrupt {e : BitVec 128} (he : topEntry x.w x.sp.sec = some e) (hk : entKind e = 0 ∨ entKind e = 3) :
    execExit s = .next (trapped s x cStackCorrupt
      (BitVec.ofNat 64 (entryAddr x x.w x.sp.sec ((pathOf x.w x.sp.sec).depth - 1)))) := by
  have hu := unwind_corrupt (s := s) (x := x) (w := exitedWarp x) (n := (pathOf (exitedWarp x) x.sp.sec).depth + 1) he hk
  simp only [execExit_unwinds h hl, unwindNow, hu, bind, Except.bind]
  exact finish_trap ..

/-- EXIT drops a top entry without a live lane and unwinds on from the next (R117). -/
theorem execExit_drops {t : State} {w : Warp} {e : BitVec 128} (he : topEntry x.w x.sp.sec = some e) (hb : entBad e = false)
    (hpop : popEntry s x (exitedWarp x) x.sp.sec = .ok (t, w))
    (hm : entMask e &&& ~~~(exitedWarp x).exited &&& ~~~x.w.dead = 0) (hd : (pathOf x.w x.sp.sec).depth ≠ 0) :
    execExit s = finish s x (unwindNow t x w x.sp.sec) := by
  have hdep : (pathOf w x.sp.sec).depth + 1 = (pathOf (exitedWarp x) x.sp.sec).depth := by
    obtain ⟨p, rfl, hp⟩ := popEntry_path hpop
    rw [pathOf_setPath_same, hp]
    exact Nat.sub_add_cancel (Nat.pos_of_ne_zero hd)
  rw [execExit_unwinds h hl, unwindNow, ← hdep, unwind_drops (w := exitedWarp x) he hb hpop hm]
  rfl

end

theorem execNop_goesOn {s : State} {x : Ctx} (h : ctxOf s = some x) : execNop s = .next (advance s x .seq) := by
  rw [execNop, runWord_at h, finish_ok]

/-- YIELD sends its path behind every ready path (R120). -/
theorem execYield_yields {s : State} {x : Ctx} (h : ctxOf s = some x) (hl : LastWord x) :
    let t := takeStamp (refreshAges s x.c)
    execYield s = .next (advance (modW t.2 x (fun w => modPath w x.sp.sec (fun p =>
      { p with readySince := t.1 + 1, promoted := false }))) x .seq) := by
  simp only [execYield, runWord_at h, needLast_ok hl, bind, Except.bind, finish_ok]

/-- Settles O22, word by word: each clause is one of the cases above. -/
theorem divergenceAndReconvergence : Obligations.DivergenceAndReconvergence := by
  simp only [Obligations.DivergenceAndReconvergence, exec_jpoint, exec_brp, exec_join, exec_exit, exec_nop, exec_yield]
  refine ⟨?_, ?_, ?_, ?_⟩
  · intro s t x w neg p off u h
    refine ⟨execJpoint_pushes h, fun hl hp => ⟨execBrp_stays h hl hp, fun ht hland => ⟨execBrp_jumps h hl hp ht hland,
      fun ha hv => ⟨?_, execBrp_noJoin h hl hp ht hland ha hv⟩, fun ha hv => execBrp_defers h hl hp ht hland ha hv⟩⟩⟩
    intro e he hk hb hpop
    exact execBrp_splits h hl hp ht hland ha hv he hk hb hpop
  · intro s t x w j asid un h hf hb ha hland hl
    have hcont := joinContinuation_ok hf hb ha hland
    refine ⟨fun he hv hj hh ho => ⟨fun hm => ?_, fun hm => ?_⟩, fun he hv hj ho => ⟨fun hm => ?_, fun hm => ?_⟩, ?_⟩
    · exact (execJoin_split h hl he hv (hj.trans hh.symm) (joinPath_merges ho hm (hj ▸ hcont))).trans (finish_settle_some ..)
    · exact (execJoin_split h hl he hv (hj.trans hh.symm) (joinPath_retires ho hm)).trans (finish_settle_none ..)
    · exact execExit_sends h hl fun n => unwind_split (w := exitedWarp x) he hv
        (joinPath_merges (w := exitedWarp x) ho hm (hj ▸ hcont : joinContinuation s x x.w.split.addr = _))
    · exact execExit_retires h hl fun n => unwind_split (w := exitedWarp x) he hv (joinPath_retires (w := exitedWarp x) ho hm)
    · intro e he hk hpc hbad hl0 hm hpop
      refine execExit_sends h hl fun n => unwind_sends (w := exitedWarp x) he ?_ hbad hpop hm
      have hpl : popLanding s x (exitedWarp x) e = .ok false := popLanding_live hbad hm (hpc ▸ hl0)
      simp only [unwindTarget, hpl, hk, bind, Except.bind]
      simpa [hpc] using hcont
  · intro s t x w h hl
    refine ⟨fun e he hpop hb un hm hland => execJoin_pops h hl he hpop hb hm hland, ?_, execJoin_mismatch h hl, ?_, ?_, ?_⟩
    · intro he hv ha ho
      exact (execJoin_split h hl he hv ha (joinPath_waits ho)).trans (finish_settle_some ..)
    · intro e he
      refine ⟨execExit_corrupt h hl he,
        fun hb hpop => ⟨fun un hk hm hland => ?_, fun hm hd => execExit_drops h hl he hb hpop hm hd⟩⟩
      exact execExit_sends h hl fun n => unwind_sends (w := exitedWarp x) he
        (unwindTarget_entry (popLanding_live hb hm hland) (.inl (by omega))) hb hpop hm
    · intro he hv ho
      exact execExit_sends h hl fun n => unwind_split (w := exitedWarp x) he hv (joinPath_waits (w := exitedWarp x) ho)
    · intro he hv
      exact execExit_retires h hl fun n => unwind_retires (w := exitedWarp x) he hv
  · exact fun s x h => ⟨execNop_goesOn h, execYield_yields h⟩

end Sys2Proof.Machine
end

section
/-! PROOF. The special registers (O25). -/

namespace Sys2Proof.Machine

open Sys2Proof

theorem tv_toNat {n : Nat} (k : BitVec n) : tv k.toNat = k.setWidth 64 := BitVec.ofNat_toNat 64 k

/-! ## SRD and SRD.V (R281) -/

theorem execSrd_reads {s : State} {x : Ctx} {d : BitVec 6} {k : BitVec 7} {z : DWord} (h : ctxOf s = some x)
    (hp : Settled x.w [iS d]) (hz : specRead s x k.toNat = z) : execSrd d k s = .next (scalarDone s x d z) := by
  simp only [execSrd, runWord_at h, scalarWord, checkPending_ok hp, hz, bind, Except.bind, finish_ok]
  rfl

/-- Whether the issuing path is the secondary one, and whether the other is in use (R32). -/
theorem specRead_paths (s : State) (x : Ctx) : specRead s x 0x0A
    = (if x.sp.sec then 1 else 0) + (if (pathOf x.w (!x.sp.sec)).state = .vacant then 0 else 2) := by
  show tv _ = _
  split <;> split <;> rfl

theorem specRead_lwarp {s : State} {x : Ctx} (h : x.w.resp = none) : specRead s x 0x0E = BitVec.ofNat 64 x.w.lwarp := by
  simp [specRead, h, tv]

theorem specRead_responder {s : State} {x : Ctx} (h : x.w.resp ≠ none) : specRead s x 0x0E = 0xFFFFFFFF := by
  simp [specRead, Option.isSome_iff_ne_none.2 h, tv]

section
variable {s t u : State} {x : Ctx} {v : BitVec 7} (h : LaneReady s x [] [] [winName x.w v] [] [] t u)
include h

theorem execSrdV_laneid : execSrdV v 0x0B s
    = .next (laneDone u x (laneInOf t x []) [(winName x.w v, mkRow (fun l => BitVec.ofNat 32 l))]) := by
  rw [execSrdV, runWord_at h.at_, laneWord_next h]
  rfl

theorem execSrdV_others {n : BitVec 7} (hn : n ≠ 0x0B) : execSrdV v n s = .next (laneDone u x (laneInOf t x [])
    [(winName x.w v, mkRow (fun _ => (specRead s x n.toNat).extractLsb' 0 32))]) := by
  have hk : n.toNat ≠ 0x0B := fun e => hn (BitVec.eq_of_toNat_eq e)
  rw [execSrdV, runWord_at h.at_, laneWord_next h]
  simp only [if_neg hk]

end

/-! ## GETTIME (R282) -/

theorem le_laterOf (a b : DWord) : a.toNat ≤ (laterOf a b).toNat := by
  unfold laterOf
  split
  next hab => exact hab
  next => exact Nat.le_refl _

section
variable {s : State} {x : Ctx} {d : BitVec 6} (h : ctxOf s = some x) (hp : Settled x.w [iS d])
include h hp

theorem execGettime_path : ∃ v : DWord, (curPath x).time.toNat ≤ v.toNat ∧ execGettime d 0 s
    = .next (warpDone (takeFree s).2 x (fun w => setS (modPath w x.sp.sec (fun p => { p with time := v })) d v)) := by
  refine ⟨_, le_laterOf _ (Config.freeDWord (takeFree s).1), ?_⟩
  simp only [execGettime, runWord_at h, checkPending_ok hp, bind, Except.bind]
  rfl

theorem execGettime_core : ∃ v : DWord, (coreOf s x.c).cycles.toNat ≤ v.toNat ∧ execGettime d 1 s
    = .next (scalarDone (modCore (takeFree s).2 x.c (fun k => { k with cycles := v })) x d v) := by
  refine ⟨_, le_laterOf _ (Config.freeDWord (takeFree s).1), ?_⟩
  simp only [execGettime, runWord_at h, checkPending_ok hp, bind, Except.bind]
  rfl

end

/-! ## SWR (R33, R281) -/

section
variable {s : State} {x : Ctx} {k : BitVec 7} {b : BitVec 6} (h : ctxOf s = some x) (hp : Settled x.w [iS b])
include h hp

theorem execSwr_readOnly (hw : specWritable x.w k.toNat = false) :
    execSwr k b s = .next (trapped s x cSpecialRo (k.setWidth 64)) := by
  simp only [execSwr, runWord_at h, checkPending_ok hp, hw, Bool.not_false, raiseIf_true, bind, Except.bind, finish_trap,
    tv_toNat]

theorem execSwr_writes {t : State} (hw : specWritable x.w k.toNat = true) (ht : specWrite s x k.toNat (sReg x.w b) = .ok t) :
    execSwr k b s = .next (advance t x .seq) := by
  simp only [execSwr, runWord_at h, checkPending_ok hp, hw, Bool.not_true, raiseIf_false, ht, bind, Except.bind, finish_ok]

theorem execSwr_traps {code : Nat} {v : DWord} (hw : specWritable x.w k.toNat = true)
    (ht : specWrite s x k.toNat (sReg x.w b) = .error (.trap code v)) : execSwr k b s = .next (trapped s x code v) := by
  simp only [execSwr, runWord_at h, checkPending_ok hp, hw, Bool.not_true, raiseIf_false, ht, bind, Except.bind, finish_trap]

end

/-- A check that passes where `P` holds. -/
theorem raiseIf_bind {α : Type} {b : Bool} {P : Prop} [Decidable P] (hb : b = false ↔ P) (code : Nat) (z : DWord)
    (r : Except Stop α) : (raiseIf b code z >>= fun _ => r) = if P then r else .error (.trap code z) := by
  by_cases hP : P
  · rw [if_pos hP, hb.2 hP]; rfl
  · rw [if_neg hP, eq_true_of_ne_false (mt hb.1 hP)]; rfl

section
variable {s : State} {x : Ctx} {k : BitVec 7} {b : BitVec 6} (h : ctxOf s = some x) (hp : Settled x.w [iS b])
  (hw : specWritable x.w k.toNat = true)
include h hp hw

/-- SWR of a register with one check. -/
theorem execSwr_checked {t : State} {code : Nat} {z : DWord} {P : Prop} [Decidable P]
    (ht : specWrite s x k.toNat (sReg x.w b) = if P then .ok t else .error (.trap code z)) :
    if P then execSwr k b s = .next (advance t x .seq) else execSwr k b s = .next (trapped s x code z) := by
  split
  next hP => exact execSwr_writes h hp hw (ht.trans (if_pos hP))
  next hP => exact execSwr_traps h hp hw (ht.trans (if_neg hP))

/-- SWR of a register with two checks. -/
theorem execSwr_checked_twice {t : State} {code code' : Nat} {z z' : DWord} {P Q : Prop} [Decidable P] [Decidable Q]
    (ht : specWrite s x k.toNat (sReg x.w b)
      = if P then .error (.trap code z) else if Q then .error (.trap code' z') else .ok t) :
    if P then execSwr k b s = .next (trapped s x code z)
    else if Q then execSwr k b s = .next (trapped s x code' z')
    else execSwr k b s = .next (advance t x .seq) := by
  split
  next hP => exact execSwr_traps h hp hw (ht.trans (if_pos hP))
  next hP =>
    rw [if_neg hP] at ht
    split
    next hQ => exact execSwr_traps h hp hw (ht.trans (if_pos hQ))
    next hQ => exact execSwr_writes h hp hw (ht.trans (if_neg hQ))

end

/-- GANG takes 0, or 2 to 6 different slots among which its own (R21). -/
def gangGood (slot : Nat) (v : DWord) : Prop :=
  let n := field v 38 36
  let m (i : Nat) : Nat := field v (6 * i + 5) (6 * i)
  n ≠ 1 ∧ n ≠ 7 ∧ (∀ i < 6, n ≤ i → m i = 0) ∧ (∀ i < n, ∀ i' < i, m i ≠ m i') ∧ (n ≠ 0 → ∃ i < n, m i = slot)

theorem gangBad_iff (slot : Nat) (v : DWord) : gangBad slot v = false ↔ gangGood slot v := by
  have hn : field v 38 36 < 8 := Nat.mod_lt _ (by decide)
  simp only [gangBad, gangGood, Bool.or_eq_false_iff, beq_eq_false_iff_ne, List.any_eq_false, List.mem_range, and_assoc,
    Bool.and_eq_true, decide_eq_true_eq, bne_iff_ne, List.any_eq_true, beq_iff_eq, Bool.and_eq_false_iff, bne_eq_false_iff_eq,
    Bool.not_eq_false']
  refine and_congr_right fun _ => and_congr_right fun h7 => ?_
  have h6 : field v 38 36 ≤ 6 := by omega
  refine and_congr (by simp only [not_and, not_not, ge_iff_le, ne_eq]) (and_congr
    ⟨fun h i hi j hj e => h i (by omega) ⟨j, hj, hi, e.symm⟩, fun h i _ ⟨j, hj, hi, e⟩ => h i hi j hj e.symm⟩ ?_)
  rw [or_iff_not_imp_left]
  exact imp_congr_right fun _ => exists_congr fun i => ⟨fun h => h.2, fun h => ⟨h.1.trans_le h6, h⟩⟩

section
variable (s : State) (x : Ctx) (v : DWord)

theorem specWrite_fpsr : specWrite s x 0x03 v =
    if field v 2 0 ≤ 4 ∧ field v 63 14 = 0 ∧ field v 7 3 = 0 then .ok (modW s x (fun w => { w with fpsr := v }))
    else .error (.trap cSpecialValue 0x03) := by
  refine raiseIf_bind ?_ _ _ _
  simp only [Bool.or_eq_false_iff, decide_eq_false_iff_not, bne_eq_false_iff_eq]
  omega

theorem specWrite_gang : specWrite s x 0x04 v =
    if gangBad x.slot v = false then .ok (modW s x (fun w => { w with gang := BitVec.ofNat 64 (field v 38 0) }))
    else .error (.trap cSpecialValue 0x04) := raiseIf_bind Iff.rfl _ _ _

theorem specWrite_tpc : specWrite s x 0x28 v =
    if field v 63 57 = 0 then .ok (modW s x (fun w => { w with tpc := v })) else .error (.trap cSpecialValue 0x28) :=
  raiseIf_bind bne_eq_false_iff_eq _ _ _

theorem specWrite_tcause : specWrite s x 0x29 v =
    if field v 63 16 = 0 then .ok (modW s x (fun w => { w with tcause := v.setWidth 16 }))
    else .error (.trap cSpecialValue 0x29) := raiseIf_bind bne_eq_false_iff_eq _ _ _

theorem specWrite_dstk : specWrite s x 0x09 v =
    if field v 5 0 ≠ 0 ∨ field v 63 57 ≠ 0 then .error (.trap cSpecialValue 0x09)
    else if x.w.prim.depth ≠ 0 ∨ x.w.seco.depth ≠ 0 then .error (.trap cSpecialBusy 0x09)
    else .ok (modW s x (fun w => { w with dstk := v })) := by
  refine (raiseIf_bind (P := ¬(field v 5 0 ≠ 0 ∨ field v 63 57 ≠ 0)) ?_ _ _ _).trans ?_
  · simp
  · rw [ite_not]
    congr 1
    exact (raiseIf_bind (P := ¬(x.w.prim.depth ≠ 0 ∨ x.w.seco.depth ≠ 0)) (by simp) _ _ _).trans (ite_not ..)

theorem specWrite_rte {k : Nat} (h : 0x18 ≤ k ∧ k ≤ 0x1F) : specWrite s x k v =
    if rteBad s (partOf s x.pn) v = true then .error (.trap cRouteBad v)
    else .ok (modW s x (fun w => setRte w (k - 0x18) v)) := by
  rw [specWrite, if_neg (by omega), if_neg (by omega), if_neg (by omega), if_pos h.2]
  exact (raiseIf_bind (P := ¬rteBad s (partOf s x.pn) v = true) (by simp) _ _ _).trans (ite_not ..)

theorem specWrite_qd {k : Nat} (h : 0x20 ≤ k ∧ k ≤ 0x27) : specWrite s x k v =
    if qdDepth v ≠ 0 ∧ (qdEsize v = 0 ∨ scratchBytes x.l < 16 * (qdBase v + qdEsize v * qdDepth v)) then
      .error (.trap cSpecialValue (tv k))
    else if queueHolds s x.c x.w.launch (k - 0x20) = true then .error (.trap 0x0505 (tv (k - 0x20)))
    else .ok (setQd s x.c x.w.launch (k - 0x20) v) := by
  rw [specWrite, if_neg (by omega), if_neg (by omega), if_neg (by omega), if_neg (by omega), if_pos h.2]
  refine (raiseIf_bind (P := ¬(qdDepth v ≠ 0 ∧ (qdEsize v = 0 ∨ scratchBytes x.l < 16 * (qdBase v + qdEsize v * qdDepth v))))
    ?_ _ _ _).trans ?_
  · simp [qdBad]
  · rw [ite_not]
    congr 1
    exact (raiseIf_bind (P := ¬queueHolds s x.c x.w.launch (k - 0x20) = true) (by simp) _ _ _).trans (ite_not ..)

end

theorem specWritable_range (w : Warp) {k : Nat} (h : 0x18 ≤ k ∧ k ≤ 0x27) : specWritable w k = true := by
  simp [specWritable, h.1, h.2]

theorem specWritable_trap {w : Warp} (h : w.trapMode = true) {k : Nat} (hk : 0x28 ≤ k ∧ k ≤ 0x2A) : specWritable w k = true := by
  simp [specWritable, h, hk.1, hk.2]

/-- RTESET checks as SWR does (R245). -/
theorem execRteset_checked {s : State} {x : Ctx} {j : BitVec 3} {b : BitVec 6} (h : ctxOf s = some x) (hp : Settled x.w [iS b]) :
    (rteBad s (partOf s x.pn) (sReg x.w b) = true → execRteset j b s = .next (trapped s x cRouteBad (sReg x.w b)))
    ∧ (¬rteBad s (partOf s x.pn) (sReg x.w b) = true →
      execRteset j b s = .next (warpDone s x (fun w => setRte w j.toNat (sReg x.w b)))) := by
  simp only [execRteset, runWord_at h, checkPending_ok hp, bind, Except.bind]
  constructor <;> intro hb
  · simp only [hb, raiseIf_true, finish_trap]
  · simp only [eq_false_of_ne_true hb, raiseIf_false, finish_ok]
    rfl

section
variable {s : State} {x : Ctx} {k : BitVec 7} {b : BitVec 6} {j : Nat} (h : ctxOf s = some x)
  (hp : Settled x.w [iS b]) (hj : j < 8)
include h hp hj

theorem execSwr_rte (hk : k.toNat = 0x18 + j) :
    (rteBad s (partOf s x.pn) (sReg x.w b) = true → execSwr k b s = .next (trapped s x cRouteBad (sReg x.w b)))
    ∧ (¬rteBad s (partOf s x.pn) (sReg x.w b) = true →
      execSwr k b s = .next (warpDone s x (fun w => setRte w j (sReg x.w b)))) := by
  have hw := specWritable_range x.w (k := k.toNat) (by omega)
  have hs := specWrite_rte s x (sReg x.w b) (k := k.toNat) (by omega)
  have hn : k.toNat - 0x18 = j := by omega
  rw [hn] at hs
  exact ⟨fun hb => execSwr_traps h hp hw (hs.trans (if_pos hb)), fun hb => execSwr_writes h hp hw (hs.trans (if_neg hb))⟩

theorem execSwr_qd (hk : k.toNat = 0x20 + j) : let v := sReg x.w b
    if qdDepth v ≠ 0 ∧ (qdEsize v = 0 ∨ scratchBytes x.l < 16 * (qdBase v + qdEsize v * qdDepth v)) then
      execSwr k b s = .next (trapped s x cSpecialValue (k.setWidth 64))
    else if queueHolds s x.c x.w.launch j = true then execSwr k b s = .next (trapped s x 0x0505 (tv j))
    else execSwr k b s = .next (advance (setQd s x.c x.w.launch j v) x .seq) := by
  have hw := specWritable_range x.w (k := k.toNat) (by omega)
  have hs := specWrite_qd s x (sReg x.w b) (k := k.toNat) (by omega)
  have hn : k.toNat - 0x20 = j := by omega
  rw [hn, tv_toNat] at hs
  exact execSwr_checked_twice h hp hw hs

end

/-- A queue descriptor of the eight (R27). -/
theorem setQd_lt {q : Nat} (hq : q < 8) (s : State) (c l : Nat) (v : DWord) : setQd s c l q v = modCl s c l (fun h => { h with
    qd := h.qd.set q (BitVec.ofNat 64 (field v 39 0)), qent := h.qent.filter (fun e => e.1 / 256 != q) }) := by
  simp only [setQd, Nat.mod_eq_of_lt hq]

/-- Settles O25: the table of reads, the two clocks, and each writable register with its checks. -/
theorem specialRegisters : Obligations.SpecialRegisters := by
  simp only [Obligations.SpecialRegisters, exec_srd, exec_srdV, exec_gettime, exec_swr, exec_rteset]
  refine ⟨⟨?_, fun s x d h hp => ⟨execGettime_path h hp, execGettime_core h hp⟩⟩, ?_⟩
  · intro s t u x d v n h hp
    have reads {k : BitVec 7} {z : DWord} (hz : specRead s x k.toNat = z) := execSrd_reads (d := d) h hp hz
    refine ⟨reads rfl, reads rfl, reads rfl, reads rfl, reads rfl, reads rfl, reads rfl, reads rfl, reads rfl, reads rfl,
      reads (specRead_paths s x), reads rfl, reads rfl, fun hr => reads (specRead_lwarp hr),
      fun hr => reads (specRead_responder hr), ?_⟩
    refine ⟨reads rfl, reads rfl, reads rfl, reads rfl, reads rfl, reads rfl, reads rfl, reads rfl, reads rfl, reads rfl,
      reads rfl, reads rfl, reads rfl, ?_⟩
    refine ⟨reads rfl, reads rfl, reads rfl, reads rfl, reads rfl, reads rfl, reads rfl, reads rfl, reads rfl, reads rfl,
      reads rfl, ?_⟩
    exact ⟨reads rfl, reads rfl, reads rfl, reads rfl, reads rfl, reads rfl, reads rfl, reads rfl,
      fun hr => ⟨execSrdV_laneid hr, execSrdV_others hr⟩⟩
  · intro s x k b j h hp
    have hrte : (0x18 + j.setWidth 7).toNat = 0x18 + j.toNat := by bv_omega
    have hqd : (0x20 + j.setWidth 7).toNat = 0x20 + j.toNat := by bv_omega
    refine ⟨execSwr_readOnly h hp, execSwr_checked h hp rfl (specWrite_fpsr s x _), ⟨fun hg => ?_, fun hg => ?_⟩,
      execSwr_checked_twice h hp rfl (specWrite_dstk s x _), fun ht => ⟨?_, ?_, ?_⟩, ?_, ?_⟩
    · exact execSwr_writes h hp rfl ((specWrite_gang s x _).trans (if_pos ((gangBad_iff ..).2 hg)))
    · exact execSwr_traps h hp rfl ((specWrite_gang s x _).trans (if_neg (mt (gangBad_iff ..).1 hg)))
    · exact execSwr_checked h hp (specWritable_trap ht (by decide)) (specWrite_tpc s x _)
    · exact execSwr_checked h hp (specWritable_trap ht (by decide)) (specWrite_tcause s x _)
    · exact execSwr_writes h hp (specWritable_trap ht (by decide)) rfl
    · obtain ⟨hbad, hgood⟩ := execSwr_rte h hp j.isLt hrte
      obtain ⟨hbad', hgood'⟩ := execRteset_checked (j := j) h hp
      split
      next hb => exact ⟨hbad hb, hbad' hb⟩
      next hb => exact ⟨hgood hb, hgood' hb⟩
    · have hq := execSwr_qd h hp j.isLt hqd
      simp only [setQd_lt j.isLt, tv_toNat] at hq
      exact hq

end Sys2Proof.Machine
end

section
/-! PROOF. Scratchpad accesses (O29). -/

namespace Sys2Proof.Machine

open Sys2Proof

/-! ## The checks of a scratchpad access (R180, R185) -/

/-- Accesses inside scratchpad, aligned where they must be, pass (R180, R189). -/
theorem checkOffsets_ok {x : Ctx} {accs : List (Nat × Nat)} {n : Nat} {aligned : Bool}
    (hin : ∀ e ∈ accs, e.2 + n ≤ scratchBytes x.l) (hal : aligned = true → ∀ e ∈ accs, e.2 % n = 0) :
    checkOffsets x accs n aligned = .ok () := by
  unfold checkOffsets raiseCause
  rw [firstCause_none]
  intro e he
  obtain ⟨f, hf, rfl⟩ := List.mem_map.1 he
  have h1 : (aligned && f.2 % n != 0) = false := by
    cases aligned with
    | false => rfl
    | true => simp [hal rfl f hf]
  simp only [h1, Bool.false_eq_true, if_false, if_neg (Nat.not_lt.2 (hin f hf)), gt_iff_lt]

theorem waitAble_ok {s : State} {x : Ctx}
    (h : armedAble (clOf s x.c x.w.launch) [] (clOf s x.c x.w.launch).armed = none) : waitAble s x = .ok () := by
  simp only [waitAble, h, Option.isSome_none, waitIf_false]

theorem longCheck_ok {s t u : State} {x : Ctx} {srcs dsts : List Nat} (h : LaneReady s x [] srcs dsts [] [] t u) :
    longCheck s x srcs dsts = .ok (t, laneInOf t x srcs) := by
  simp only [longCheck, if_neg h.lanes, laneCheck_ok h]

/-! ## LDS, STS and ATOMS (R185, R189) -/

/-- The lanes of a scratchpad access on a state: their offsets are the words of its first source (R185). -/
def offsetsOf (t : State) (x : Ctx) (srcs : List Nat) : LaneAccs :=
  lanesOf (laneInOf t x srcs) 1 (fun l => ((laneInOf t x srcs).src 0 l).toNat)

section
variable {s t u : State} {x : Ctx} {d a : BitVec 7} {sz : BitVec 3}
  (hw : armedAble (clOf t x.c x.w.launch) [] (clOf t x.c x.w.launch).armed = none)
include hw

theorem execLds_submits {fe : BitVec 2} {names : List Nat} (hnames : names = winRun x.w d (szNames sz.toNat))
    (h : LaneReady s x [] [winName x.w a] names [] [] t u)
    (hin : ∀ e ∈ (offsetsOf t x [winName x.w a]).accs, e.2 + szBytes sz.toNat ≤ scratchBytes x.l) :
    let q := offsetsOf t x [winName x.w a]
    let r := issueLong u x (iNames names) .armed (laneWrites names q.i q.addrBad (fun _ => [])) [] [] none
    execLds d a fe sz s = .next (killDone (submitAccess r.2 x.c x.w.launch
      (newAccess x r.1 (some r.1) q.accs (szBytes sz.toNat) sz.toNat fe.toNat false none [])) x q.addrBad) := by
  subst hnames
  have hnar : (laneInOf t x [winName x.w a]).nar ≠ 0 := h.lanes
  have hsplit : splitNames t x ((laneInOf t x [winName x.w a]).nar ||| (laneInOf t x [winName x.w a]).zero) _ = .ok u := h.split
  have hc := checkOffsets_ok (aligned := false) hin nofun
  simp only [offsetsOf] at hc
  simp only [execLds, runWord_at h.at_, longCheck_ok h, if_neg hnar, hc, waitAble_ok hw, hsplit, bind, Except.bind, finish_done]
  rfl

theorem execSts_submits {fe : BitVec 2} {srcs : List Nat} (hsrcs : srcs = winName x.w a :: winRun x.w d (szNames sz.toNat))
    (h : LaneReady s x [] srcs [] [] [] t u)
    (hin : ∀ e ∈ (offsetsOf t x srcs).accs, e.2 + szBytes sz.toNat ≤ scratchBytes x.l) :
    let q := offsetsOf t x srcs
    let r := takeStamp t
    execSts d a fe sz s = .next (killDone (submitAccess r.2 x.c x.w.launch
      (newAccess x r.1 none q.accs (szBytes sz.toNat) sz.toNat fe.toNat true none (q.accs.map (fun e => (e.1,
        if q.dataBad.getLsbD e.1 then List.replicate (szBytes sz.toNat) none else (storeBytes q.i 1 sz.toNat e.1).map some)))))
      x (q.addrBad ||| q.dataBad)) := by
  have hnar : (laneInOf t x srcs).nar ≠ 0 := h.lanes
  have hc := checkOffsets_ok (aligned := false) hin nofun
  simp only [offsetsOf] at hc
  simp only [execSts, runWord_at h.at_, ← hsrcs, laneCheck_ok h, if_neg hnar, hc, waitAble_ok hw, bind, Except.bind, finish_done]
  rfl

theorem execAtoms_submits {op ty : BitVec 3} {srcs names : List Nat} (hnames : names = winRun x.w d (atomWords ty.toNat))
    (hsrcs : srcs = winRun x.w a (1 + atomWords ty.toNat * (if op.toNat = 7 then 2 else 1)))
    (h : LaneReady s x [] srcs names [] [] t u)
    (hin : ∀ e ∈ (offsetsOf t x srcs).accs, e.2 + 4 * atomWords ty.toNat ≤ scratchBytes x.l)
    (hal : ∀ e ∈ (offsetsOf t x srcs).accs, e.2 % (4 * atomWords ty.toNat) = 0) :
    let k := atomWords ty.toNat
    let q := offsetsOf t x srcs
    let bad := q.addrBad ||| q.dataBad
    let data := q.accs.map (fun e => (e.1, if q.dataBad.getLsbD e.1 then List.replicate (4 * k) none
      else ((List.range (srcs.length - 1)).flatMap (fun j => bytesOf32 (q.i.src (1 + j) e.1))).map some))
    let r := issueLong u x (iNames names) .armed (laneWrites names q.i bad (fun _ => [])) [] [] none
    execAtoms op d a ty s = .next (killDone (submitAccess r.2 x.c x.w.launch
      (newAccess x r.1 (some r.1) q.accs (4 * k) 6 0 false (some (op.toNat, ty.toNat)) data)) x bad) := by
  have hnar : (laneInOf t x srcs).nar ≠ 0 := h.lanes
  have hsplit : splitNames t x ((laneInOf t x srcs).nar ||| (laneInOf t x srcs).zero) names = .ok u := h.split
  have hlen : (laneInOf t x srcs).srcs.length = srcs.length := List.length_map ..
  have hc := checkOffsets_ok (aligned := true) hin (fun _ => hal)
  simp only [offsetsOf] at hc
  simp only [execAtoms, runWord_at h.at_, ← hsrcs, ← hnames, longCheck_ok h, if_neg hnar, hc, waitAble_ok hw, hsplit, hlen, bind,
    Except.bind, finish_done]
  rfl

end

/-! ## Accesses that are set aside (R186) -/

/-- The state in which an access is issued: a write of scratchpad shows the warp's earlier stores (R203, R211). -/
def shownStores (s : State) (c : Nat) (a : Armed) : State :=
  if a.store || a.atomic.isSome then settleStores s c a.warp else s

section
variable {s : State} {c l : Nat} {a : Armed}

theorem submitAccess_eq (s : State) (c l : Nat) (a : Armed) :
    let t := shownStores s c a
    submitAccess s c l a =
      if (armedCondition (clOf t c l) a && !armedBehind (clOf t c l).armed a) = true then performAccess t c l a
      else modCl t c l (fun h => { h with armed := h.armed ++ [a] }) := rfl

theorem submitAccess_performs (hc : armedCondition (clOf (shownStores s c a) c l) a = true)
    (hb : armedBehind (clOf (shownStores s c a) c l).armed a = false) :
    submitAccess s c l a = performAccess (shownStores s c a) c l a := by
  rw [submitAccess_eq, hc, hb]
  rfl

theorem submitAccess_setsAside
    (h : armedCondition (clOf (shownStores s c a) c l) a = false ∨ armedBehind (clOf (shownStores s c a) c l).armed a = true) :
    submitAccess s c l a = modCl (shownStores s c a) c l (fun h => { h with armed := h.armed ++ [a] }) := by
  rw [submitAccess_eq, if_neg]
  rcases h with h | h <;> simp [h]

theorem execScratchWaitPerform_performs (h : armedAble (clOf s c l) [] (clOf s c l).armed = some a) :
    execScratchWaitPerform c l a.id s = .next (performAccess (modCl s c l (fun h =>
      { h with armed := h.armed.filter (fun b => b.id != a.id) })) c l a) := by
  simp only [execScratchWaitPerform, h, ne_eq, not_true_eq_false, if_false]

end

/-! ## What an access does to the scratchpad (R25, R185) -/

theorem setMem_setAdd (l : List Nat) (n k : Nat) : setMem (setAdd l n) k = (setMem l k || k == n) := by
  rw [Bool.eq_iff_iff, Bool.or_eq_true, setMem_iff, setMem_iff, mem_setAdd, beq_iff_eq, or_comm]

theorem setMem_setDel (l : List Nat) (n k : Nat) : setMem (setDel l n) k = (setMem l k && k != n) := by
  by_cases hk : k = n
  · simp [hk, setMem_setDel_same]
  · simp [hk, setMem_setDel_other]

/-- Granules set FULL (R25). -/
theorem setMem_setFull_true (h : CoreLaunch) (gs : List Nat) (g : Nat) :
    setMem (setFull h gs true).full g = (setMem h.full g || setMem gs g) := by
  show setMem (gs.foldl setAdd h.full) g = _
  generalize h.full = l
  induction gs generalizing l with
  | nil => simp [setMem]
  | cons n gs ih =>
    rw [List.foldl_cons, ih, setMem_setAdd, Bool.or_assoc, BEq.comm (a := g)]
    rfl

/-- Granules set EMPTY (R25). -/
theorem setMem_setFull_false (h : CoreLaunch) (gs : List Nat) (g : Nat) :
    setMem (setFull h gs false).full g = (setMem h.full g && !setMem gs g) := by
  show setMem (gs.foldl setDel h.full) g = _
  generalize h.full = l
  induction gs generalizing l with
  | nil => simp [setMem]
  | cons n gs ih =>
    rw [List.foldl_cons, ih, setMem_setDel, Bool.and_assoc, bne, BEq.comm (a := g), ← Bool.not_or]
    rfl

/-- The writes of the first `n` bytes of a lane's store (R181). -/
def runWrites (off : Nat) (bs : List Byte) (n : Nat) : List (Nat × Option Byte) :=
  (List.range n).map (fun i => (off + i, (bs.map some).getD i none))

theorem runWrites_succ {off n : Nat} {bs : List Byte} (h : n < bs.length) :
    runWrites off bs (n + 1) = runWrites off bs n ++ [(off + n, some (bs.getD n 0))] := by
  simp [runWrites, List.range_succ, h]

theorem orderWrites_one (off : Nat) (bs : List Byte) : orderWrites [(off, bs.map some)] = runWrites off bs bs.length := by
  simp [orderWrites, orderWrite, runWrites]

theorem scratch_scratchWrite_append (h : CoreLaunch) (l : List (Nat × Option Byte)) (a : Nat) (b : Byte) :
    (scratchWrite h (l ++ [(a, some b)])).scratch = fset (scratchWrite h l).scratch a b 0 := by
  simp [scratchWrite, List.foldl_append]

/-- Bytes written at offsets that rise from `off`: there they stand, and every other byte is as before (R185). -/
theorem scratchWrite_run {h : CoreLaunch} (hr : Rising 0 h.scratch) (off : Nat) {bs : List Byte} {n : Nat} (hn : n ≤ bs.length) :
    Rising 0 (scratchWrite h (runWrites off bs n)).scratch
    ∧ ∀ b, fget (scratchWrite h (runWrites off bs n)).scratch b 0
      = if off ≤ b ∧ b < off + n then bs.getD (b - off) 0 else fget h.scratch b 0 := by
  induction n with
  | zero => exact ⟨hr, fun b => (if_neg (by omega)).symm⟩
  | succ n ih =>
    obtain ⟨hrise, hread⟩ := ih (by omega)
    rw [runWrites_succ hn, scratch_scratchWrite_append]
    refine ⟨hrise.fset _ _ _, fun b => ?_⟩
    by_cases hb : b = off + n
    · rw [hb, fget_fset_same hrise, if_pos (by omega), Nat.add_sub_cancel_left]
    · rw [fget_fset_other _ _ _ _ hb, hread]
      congr 1
      simp only [eq_iff_iff]
      omega

section
variable {h : CoreLaunch} {a : Armed} (ha : a.atomic = none)
include ha

/-- A load changes the full-empty bits only, and those with .W.C only (R25, R185). -/
theorem armedPerform_load (hs : a.store = false) :
    (armedPerform h a).1 = if a.fe = 2 then setFull h (armedGranules a) false else h := by
  by_cases hf : a.fe = 2 <;> simp [armedPerform, ha, hs, hf]

/-- A store writes its bytes, and with .F or .E fills its granules (R25, R185). -/
theorem armedPerform_store (hs : a.store = true) :
    let h' := scratchWrite h (orderWrites (a.offsets.map (fun e =>
      (e.2, ((a.data.find? (fun d => d.1 == e.1)).map (·.2)).getD []))))
    (armedPerform h a).1 = if a.fe = 0 then h' else setFull h' (armedGranules a) true := by
  by_cases hf : a.fe = 0 <;> simp [armedPerform, ha, hs, hf]

theorem armedPerform_store_lane (hs : a.store = true) (hr : Rising 0 h.scratch) {l off : Nat} {bs : List Byte}
    (ho : a.offsets = [(l, off)]) (hd : a.data = [(l, bs.map some)]) (b : Nat) :
    fget (armedPerform h a).1.scratch b 0
      = if off ≤ b ∧ b < off + bs.length then bs.getD (b - off) 0 else fget h.scratch b 0 := by
  have hw : (armedPerform h a).1.scratch = (scratchWrite h (runWrites off bs bs.length)).scratch := by
    rw [armedPerform_store ha hs, ← orderWrites_one]
    split <;> simp [ho, hd, setFull]
  rw [hw]
  exact (scratchWrite_run hr off le_rfl).2 b

end

/-- Settles O29: the three words with their names ready, the accesses that are set aside, and what an access does. -/
theorem scratchpadAccesses : Obligations.ScratchpadAccesses := by
  simp only [Obligations.ScratchpadAccesses, exec_lds, exec_sts, exec_atoms, exec_scratchWaitPerform]
  refine ⟨⟨?_, ?_⟩, ?_⟩
  · intro s t u x d a fe sz op ty hw
    exact ⟨execLds_submits hw rfl, execSts_submits hw rfl, execAtoms_submits hw rfl rfl⟩
  · exact fun s c l a => ⟨submitAccess_performs, submitAccess_setsAside, execScratchWaitPerform_performs⟩
  · intro h a g ha
    have hload (hs : a.store = false) := armedPerform_load (h := h) ha hs
    have hstore (hs : a.store = true) := armedPerform_store (h := h) ha hs
    refine ⟨fun hs => ?_, fun hs hf => ?_, fun hs hf => ?_, fun hs hf => ?_, fun hs hsorted l off bs ho hd => ?_, fun hs hf => ?_⟩
    · rw [hload hs]
      split <;> exact ⟨rfl, rfl⟩
    · rw [hload hs, if_neg hf]
    · rw [hload hs, if_pos hf, setMem_setFull_false]
    · rw [hstore hs, if_pos hf]
      rfl
    · have hread := armedPerform_store_lane ha hs ((rising_iff_pairwise 0 _).2 ⟨fun _ _ => Nat.zero_le _, hsorted⟩) ho hd
      refine ⟨fun i hi => ?_, fun b hb => ?_⟩
      · rw [hread, if_pos (by omega), Nat.add_sub_cancel_left]
      · rw [hread, if_neg (by omega)]
    · rw [hstore hs, if_neg hf, setMem_setFull_true]
      rfl

end Sys2Proof.Machine
end

section
/-! PROOF. The events of a warp (O43). -/

namespace Sys2Proof.Machine

open Sys2Proof

/-! ## The start of a span (R41, R309, R310) -/

@[simp] theorem warpOf?_dropAnswers (s : State) (pn who c w : Nat) : warpOf? (dropAnswers s pn who) c w = warpOf? s c w := by
  unfold dropAnswers
  split <;> rfl

theorem settled_of_checked {q : Path} (h : q.unchecked = false) (s : State) (c pn tenant : Nat) :
    settled s c pn tenant q = q := by
  simp only [settled, h, Bool.false_and, Bool.false_eq_true, if_false]

theorem modPath_of_fixed {w : Warp} {sec : Bool} {f : Path → Path} (h : f (pathOf w sec) = pathOf w sec) :
    modPath w sec f = w := by
  unfold modPath
  rw [h]
  cases sec <;> rfl

section
variable {s : State} {c slot : Nat} {sec : Bool} {w : Warp} (hw : warpOf? s c slot = some w)
  (hu : (pathOf w sec).unchecked = false)
include hw hu

/-- A path whose block has still to come asks for it and stands where it is (R294). -/
theorem startSpan_away :
    let pn := partOfCore s c
    let tenant := (launchOf s w.launch).tenant
    let u := prepBlock s pn c (launchOf s w.launch).id (askPath c slot sec) tenant (pathOf w sec).pc.toNat
    fetchCause u (partOf u pn) c tenant (pathOf w sec).pc.toNat = none →
    blockAway u (partOf u pn) c (askPath c slot sec) tenant (pathOf w sec).pc.toNat = true → startSpan s c slot sec = u := by
  dsimp only
  intro hf hb
  simp only [startSpan, hw, hu, Bool.false_eq_true, false_and, if_false, hf, hb, if_true]

/-- A path whose block is there and whose header is sound has its next span in issue (R41, R46). -/
theorem startSpan_issues :
    let pn := partOfCore s c
    let tenant := (launchOf s w.launch).tenant
    let u := prepBlock s pn c (launchOf s w.launch).id (askPath c slot sec) tenant (pathOf w sec).pc.toNat
    let sp := nextSpan u c pn tenant w sec
    fetchCause u (partOf u pn) c tenant (pathOf w sec).pc.toNat = none →
    blockAway u (partOf u pn) c (askPath c slot sec) tenant (pathOf w sec).pc.toNat = false →
    headerFaulty sp.hword (sp.header.toNat % 128 / 4) = false →
    warpOf? (startSpan s c slot sec) c slot = some (issueSpan w sec sp) := by
  dsimp only
  intro hf hb hh
  have hs := modPath_of_fixed (w := w) (sec := sec) (settled_of_checked hu
    (prepBlock s (partOfCore s c) c (launchOf s w.launch).id (askPath c slot sec) (launchOf s w.launch).tenant
      (pathOf w sec).pc.toNat) c (partOfCore s c) (launchOf s w.launch).tenant)
  simp only [startSpan, hw, hu, Bool.false_eq_true, false_and, if_false, hf, hb, hs, hh, warpOf?_dropAnswers,
    warpOf?_setWarp_same]

end

/-- A free issue slot of a core in service starts the next span of the path it chooses (R309, R310). -/
theorem execSpanIssue_starts {s : State} {c n : Nat} {e : Nat × Bool} {cr : FMap Int} {sv : FMap Nat}
    (hb : slotBusy s c (n % 4) = false) (hf : (coreOf s c).fenced = false)
    (hc : choosePath (refreshAges s c) c (n % 4) = some (e, cr, sv)) : execSpanIssue c n false s
      = .next (startSpan (modCore (refreshAges s c) c (fun q => { q with credits := cr, served := sv })) c e.1 e.2) := by
  simp only [execSpanIssue, Bool.false_eq_true, if_false, hb, hf, Bool.or_self, hc]

/-- A ready path is promoted (R310). -/
theorem execPathPromotion_promotes {s : State} {c n : Nat} {sec : Bool} (h : pathReady s c n sec = true) :
    ∃ t, execPathPromotion c n sec s = .next t ∧ ∀ v, warpOf? t c n = some v → (pathOf v sec).promoted = true := by
  refine ⟨_, if_pos h, fun v hv => ?_⟩
  cases hw : warpOf? (refreshAges s c) c n with
  | none => simp [modWarp, hw] at hv
  | some w =>
    rw [modWarp_at hw, warpOf?_setWarp_same, Option.some.injEq] at hv
    rw [← hv]
    cases sec <;> rfl

/-- The warp that BKPT stopped goes on once its issue slot is free (R279). -/
theorem execDebugResume_resumes {s : State} {c n : Nat} {w : Warp} (hw : warpOf? s c n = some w)
    (hb : slotBusy s c (n % 4) = false) :
    ∃ t, execDebugResume c n s = .next t ∧ warpOf? t c n = some { w with bkptStop := false } := by
  refine ⟨_, if_neg (by rw [hb]; decide), ?_⟩
  rw [modWarp_at hw, warpOf?_setWarp_same]

/-! ## The end of a long-latency word (R17, R45, R172, R236) -/

theorem completeLong_lands {o : LongOp} (hk : o.kill = none) (s : State) (c n : Nat) :
    completeLong s c n o = dropLong (landWrites s c n o) c n o.id := by
  simp only [completeLong, hk]

section
variable {s : State} {c n : Nat} {w : Warp} {o : LongOp}

/-- The operation of a warp that stands in its slot completes there. -/
theorem execLongLatencyComplete_here {k : Nat} (hw : warpOf? s c n = some w) (ho : longOf w k = some o) :
    execLongLatencyComplete c n k s = .next (completeOp s c n w o) := by
  have hf : (slotWarps s c n).find? (fun w => (longOf w k).isSome) = some w := by simp [slotWarps, hw, ho]
  simp [execLongLatencyComplete, hf, ho, withWarp, hw]

theorem completeOp_value (hk : o.kind = .value)
    (hl : ∀ l ∈ o.lines, lineFetching (partOf s (partOfCore s c)) l.1 l.2 = false) :
    completeOp s c n w o = completeLong s c n o := by
  have hany : o.lines.any (fun l => lineFetching (partOf s (partOfCore s c)) l.1 l.2) = false := by
    rw [List.any_eq_false]; exact fun l hm => by simp [hl l hm]
  simp only [completeOp, hk, hany, Bool.false_eq_true, if_false]

theorem completeOp_vpop {names : List Nat} {act : Mask} {e : DrainEntry} (hk : o.kind = .vpop names act)
    (hp : popsBefore w o = false) (he : (coreOf s c).drainQ.find? (fun e => e.warp == n && e.launch == w.launch) = some e) :
    completeOp s c n w o = completeLong (modCore s c (fun q => { q with drainQ := q.drainQ.erase e })) c n
      { o with names := popWrites names act e } := by
  simp only [completeOp, hk, hp, Bool.false_eq_true, if_false, he]

theorem completeOp_qpop {d : BitVec 6} {q i : Nat} (hk : o.kind = .qpop d q i)
    (hf : (qEntry s c w.launch q i).state = .full) : completeOp s c n w o = completeLong s c n { o with
      scalars := [(d.toNat, tv (i * 2 ^ 32
        + 16 * (qdBase (qdOf s c w.launch q) + i * qdEsize (qdOf s c w.launch q))))] } := by
  have hf : (fget (clOf s c w.launch).qent (256 * q + i) ⟨.empty, false⟩).state = .full := hf
  simp only [completeOp, hk, hf, if_true]
  rfl

end

/-! ## Gangs (R148, R155 to R158, R160, R273) -/

/-- A gang whose members have all arrived takes the effect of its MMA once nothing holds its tile and its checks pass (R157). -/
theorem gangRun_takesEffect {s : State} {c l : Nat} {ms : List Member} {fw : Word} (hr : referenceWord s c ms = some fw)
    (hh : tileHolds s c (fwTile fw) ms = false)
    (hg : gangCheck s c l ms (((ms.findSome? (·.w)).map (fun m => m.2.acc)).getD 0) = none)
    (ht : tileCheck (restoreTile s c (fwTile fw) (launchOf s l).tenant l) c l fw = none) :
    gangRun s c l ms = takeGangFree (mmaEffect (restoreTile s c (fwTile fw) (launchOf s l).tenant l) c l ms
      (((ms.findSome? (·.w)).map (fun m => m.2.acc)).getD 0) fw) ms := by
  simp only [gangRun, hr, hh, hg, ht, Option.isSome_none, Bool.false_and, Bool.false_eq_true, if_false]

/-- A gang waits while its tile is held (R148, R157). -/
theorem gangRun_waits {s : State} {c l : Nat} {ms : List Member} {fw : Word} (hr : referenceWord s c ms = some fw)
    (hh : tileHolds s c (fwTile fw) ms = true) : gangRun s c l ms = s := by
  simp only [gangRun, hr, hh, if_true]

section
variable {s : State} {c n : Nat} {w : Warp} {a : Arrival} (hw : warpOf? s c n = some w) (ha : w.arrival = some a)
include hw ha

theorem execGangRelease_runs {ms : List (Nat × Option Warp)} (hm : gangMembers s c n w = .ok ms)
    (harr : ∀ m ∈ ms, ∀ v, m.2 = some v → v.arrival.isSome) :
    execGangRelease c n s = .next (gangRun s c w.launch (ms.map (fun m =>
      ⟨m.1, m.2.bind (fun v => v.arrival.map (fun a => (v, a)))⟩))) := by
  simp only [execGangRelease, hw, ha, Option.isNone_some, Bool.false_eq_true, if_false, hm]
  refine if_neg ?_
  simp only [Bool.not_eq_true, List.any_eq_false]
  rintro ⟨j, o⟩ hj
  cases o with
  | none => simp
  | some v => simpa using harr _ hj v rfl

theorem execGangRelease_lost {k : Nat} (hm : gangMembers s c n w = .error k) : execGangRelease c n s
    = .next ((gangSlots w n).foldl (fun s m => match warpOf? s c m with
      | some v => if v.launch = w.launch then gangTrap s c m cGangLost (tv k) else s
      | none => s) s) := by
  simp only [execGangRelease, hw, ha, Option.isNone_some, Bool.false_eq_true, if_false, hm] <;> rfl

end

theorem execGangTrapDeferredEntry_traps {s : State} {c n : Nat} {w : Warp} {cause : Cause} {sec : Bool}
    (hw : warpOf? s c n = some w) (hd : w.deferred = some (cause, sec)) (hs : w.span = none) :
    execGangTrapDeferredEntry c n s = .next (trapEnter s c n sec ((pathOf w sec).pc + 4) cause.code cause.tval) := by
  simp only [execGangTrapDeferredEntry, hw, hd, hs, Option.isSome_none, Bool.false_eq_true, if_false]

/-! ## Stops (R155, R357, R358) -/

/-- A path that can stop supplies its live mask, and its arrival is withdrawn (R155, R357). -/
theorem stopPath_stops {s : State} {c n : Nat} {sec : Bool} {w : Warp} {r : StopReq} {lw : Word} (hw : warpOf? s c n = some w)
    (hr : (launchOf s w.launch).stop = some r) (hs : (pathOf w sec).stopped = none) (hl : stopWord s c n w sec r = some lw) :
    stopPath s c n sec = setWarp s c n { modPath w sec (fun p => { p with stopped := some lw }) with
      arrival := (modPath w sec (fun p => { p with stopped := some lw })).arrival.filter (fun a => a.sec != sec) } := by
  simp only [stopPath, hw, hr, hs, Option.isSome_none, Bool.false_eq_true, if_false, hl]

/-- A path stops at a safe point or, where the request is firm, where it waits or the budget has passed (R357, R380). -/
theorem stopWord_due {s : State} {c n : Nat} {w : Warp} {sec : Bool} {r : StopReq} {lw : Word} (hd : w.deferred = none)
    (hs : w.span.map (·.sec) ≠ some sec)
    (h : (pathOf w sec).state = .vacant ∧ lw = 0
      ∨ (pathOf w sec).state ≠ .vacant ∧ (pathOf w sec).atSafePoint = some lw
      ∨ (pathOf w sec).state ≠ .vacant ∧ (pathOf w sec).atSafePoint = none ∧ r.firm = true
        ∧ (r.overdue = true ∨ pathWaits s c n w sec = true) ∧ lw = 0xFFFFFFFF) : stopWord s c n w sec r = some lw := by
  have h0 : (w.deferred.isSome || w.span.map (·.sec) == some sec) = false := by
    rw [hd, beq_eq_false_iff_ne.2 hs]; rfl
  simp only [stopWord, h0, Bool.false_eq_true, if_false]
  rcases h with ⟨hv, rfl⟩ | ⟨hv, hp⟩ | ⟨hv, hp, hf, hor, rfl⟩
  · exact if_pos hv
  · rw [if_neg hv, hp]
  · rw [if_neg hv, hp]
    exact if_pos (by simp [hf, hor])

/-- While a warp of the launch runs on the core, no state of it is discarded there (R358). -/
theorem discardDead_running {s : State} {c l : Nat} (h : ∃ e ∈ warpsOn s c l, warpStopped e.2 = false) :
    discardDead s c l = s := by
  obtain ⟨e, he, hs⟩ := h
  refine if_pos ?_
  have : (warpsOn s c l).all (fun e => warpStopped e.2) = false := List.all_eq_false.2 ⟨e, he, by simp [hs]⟩
  simp [this]

theorem execPathStop_stops {s : State} {c n : Nat} {sec : Bool} {w : Warp} {r : StopReq} (hw : warpOf? s c n = some w)
    (hr : (launchOf s w.launch).stop = some r) (hh : (launchOf s w.launch).status = .halting) :
    execPathStop c n sec s = .next (haltIfStopped (discardDead (stopPath s c n sec) c w.launch) w.launch) := by
  simp [execPathStop, hw, hr, hh]

/-- Settles O43, event by event. -/
theorem warpEvents_hold : Obligations.WarpEvents := by
  simp only [Obligations.WarpEvents, exec_spanIssue, exec_pathPromotion, exec_debugResume, exec_longLatencyComplete,
    exec_gangRelease, exec_gangTrapDeferredEntry, exec_pathStop, exec_preemptBudgetExpire]
  refine ⟨?_, ?_, ?_⟩
  · intro s c n k sec w
    refine ⟨?_, execPathPromotion_promotes, fun hw => ⟨execDebugResume_resumes hw, fun o ho hkill => ?_⟩⟩
    · intro e cr sv hb hf hc hw hfetch hu
      rw [execSpanIssue_starts hb hf hc]
      exact ⟨fun ha => congrArg _ (startSpan_away hw hu hfetch ha), fun ha hh => ⟨_, rfl, startSpan_issues hw hu hfetch ha hh⟩⟩
    · rw [execLongLatencyComplete_here hw ho]
      refine ⟨fun hk hl => ?_, fun names act e hk hp he => ?_, fun d q i hk hf => ?_⟩
      · rw [completeOp_value hk hl, completeLong_lands hkill]
      · rw [completeOp_vpop hk hp he, completeLong_lands]
        exact hkill
      · rw [completeOp_qpop hk hf, completeLong_lands]
        exact hkill
  · intro s u c n w a fw hw
    refine ⟨fun ha => ⟨fun ms hm harr hu hr => ?_, fun k => execGangRelease_lost hw ha⟩,
      fun cause sec => execGangTrapDeferredEntry_traps hw⟩
    subst hu
    rw [execGangRelease_runs hw ha hm harr]
    exact ⟨fun hh => congrArg _ (gangRun_waits hr hh), fun hh hg ht => congrArg _ (gangRun_takesEffect hr hh hg ht)⟩
  · intro s c n l sec w r lw
    refine ⟨fun hw hr hh hs hd hspan hdue => ?_, rfl⟩
    rw [execPathStop_stops hw hr hh, stopPath_stops hw hr hs (stopWord_due hd hspan hdue)]
    exact ⟨fun _ => rfl, fun hrun => by rw [discardDead_running hrun]⟩

end Sys2Proof.Machine
end

section
/-! PROOF. The frame of the lane-wise words fails on a row list that names a row twice (O14). -/

namespace Sys2Proof.Machine

open Sys2Proof

/-- A warp whose name 0 has row 0, on a core that lists row 0 twice: as a free row, which is the one that is read, and with one
reference behind it. -/
def rowListedTwice : State :=
  let s := modCore (placeWord State.reset nopWord 0) 0 (fun k =>
    { k with rows := [(0, freeRow), (0, { freeRow with count := 1 })] })
  modWarp s 0 0 (fun w => { w with names := [(0, .resident 0)] })

theorem rowListedTwice_inSpan : (ctxOf rowListedTwice).isSome = true := by decide +kernel

/-- The place of its word. -/
def rowListedTwiceCtx : Ctx := (ctxOf rowListedTwice).get rowListedTwice_inSpan

/-- LIT into name 0 can take its effect there, with nothing to reload or to split off. -/
theorem rowListedTwice_ready :
    LaneReady rowListedTwice rowListedTwiceCtx [] [] [winName rowListedTwiceCtx.w 0] [] [] rowListedTwice rowListedTwice where
  at_ := (Option.some_get _).symm
  lanes := by decide +kernel
  settled := by unfold Settled; decide +kernel
  mapped := by unfold Mapped; decide +kernel
  loaded := by decide +kernel
  split := by decide +kernel

/-- The references of row 0 of core 0 after a word. -/
def row0Count : Host.Outcome State Fault Refusal → Nat
  | .next t => (rowOf (coreOf t 0) 0).count
  | _ => 0

/-- Zeros written to the row make it a free one, whose place in the list is given up: what the list says of row 0 from then on is
its second entry. -/
theorem row0Count_lit : row0Count (exec (.lit 0 0) rowListedTwice) = 1 := by decide +kernel

/-- Refutes O14: on a core whose row list names row 0 twice, LIT of 0 into a name whose row has no count takes the first entry off
the list, and the count that the list then gives the row is not the one that it had. The statement does not ask that the numbers
of the list rise, as they do wherever `setRow` has built it. -/
theorem not_laneFrame : ¬ Obligations.LaneFrame := by
  intro h
  have hrow : entryOf rowListedTwice rowListedTwiceCtx (winName rowListedTwiceCtx.w 0) = .resident 0 := by decide +kernel
  obtain ⟨v, w, hv, -, -, -, -, -, -, hrows, -⟩ := h (.lit 0 0) rowListedTwice rowListedTwice rowListedTwice rowListedTwiceCtx
    _ rowListedTwiceCtx.w rfl rowListedTwice_ready rfl (by decide +kernel) (by decide +kernel)
    (fun n hn => ⟨0, by rw [List.mem_singleton.1 hn, hrow], by decide⟩)
  have hcount := (hrows _ (List.mem_singleton.2 rfl) 0 hrow).1
  have hlit := row0Count_lit
  rw [hv] at hlit
  have hc : rowListedTwiceCtx.c = 0 := by decide +kernel
  have hbefore : (rowOf (coreOf rowListedTwice 0) 0).count = 0 := by decide +kernel
  rw [hc, hbefore] at hcount
  exact absurd (hlit.symm.trans hcount) (by decide)

end Sys2Proof.Machine
end

section
/-! PROOF. Every step goes on: no instruction, event or turn ends in a fault or a refusal (O58). -/

namespace Sys2Proof.Machine

open Sys2Proof

/-- An outcome that is a next state. -/
def GoesOn : Host.Outcome State Fault Refusal → Prop
  | .next _ => True
  | _ => False

@[simp] theorem goesOn_next (t : State) : GoesOn (.next t) ↔ True := .rfl

theorem goesOn_iff {o : Host.Outcome State Fault Refusal} : GoesOn o ↔ ∃ t, o = .next t := by
  cases o <;> simp [GoesOn]

@[simp] theorem goesOn_ite (c : Prop) [Decidable c] (x y : Host.Outcome State Fault Refusal) :
    GoesOn (if c then x else y) ↔ (c → GoesOn x) ∧ (¬ c → GoesOn y) := by
  split <;> simp [*]

/-! ## Instruction words, where a span is in issue -/

theorem finish_goesOn (s : State) (x : Ctx) (r : Except Stop (State × After)) : GoesOn (finish s x r) := by
  match r with
  | .ok _ => trivial
  | .error (.trap _ _) => trivial
  | .error .wait => trivial
  | .error (.park _) => trivial

@[simp] theorem runWord_goesOn {s : State} {f : Ctx → Except Stop (State × After)} (h : (ctxOf s).isSome = true) :
    GoesOn (runWord s f) := by
  obtain ⟨x, hx⟩ := Option.isSome_iff_exists.1 h
  rw [runWord_at hx]
  exact finish_goesOn ..

@[simp] theorem runMem_goesOn {s : State} {p : Ctx → State} {f : Ctx → State → Except Stop (State × After)}
    (h : (ctxOf s).isSome = true) : GoesOn (runMem s p f) := by
  obtain ⟨x, hx⟩ := Option.isSome_iff_exists.1 h
  rw [runMem_at hx]
  exact finish_goesOn ..

@[simp] theorem execMma_goesOn (acc : BitVec 6) (a b : BitVec 7) {s : State} (h : (ctxOf s).isSome = true) :
    GoesOn (execMma acc a b s) := by
  obtain ⟨x, hx⟩ := Option.isSome_iff_exists.1 h
  simp only [execMma, hx]
  split
  · trivial
  · exact finish_goesOn ..

@[simp] theorem execPfxa_goesOn (pred : BitVec 4) (neg : BitVec 1) (pol : BitVec 2) (c : BitVec 7) (cv : BitVec 1) {s : State}
    (h : (ctxOf s).isSome = true) : GoesOn (execPfxa pred neg pol c cv s) := by
  obtain ⟨x, hx⟩ := Option.isSome_iff_exists.1 h
  simp [execPfxa, hx]

@[simp] theorem execPfxb_goesOn (rm : BitVec 3) (sat : BitVec 1) (ty : BitVec 4) {s : State} (h : (ctxOf s).isSome = true) :
    GoesOn (execPfxb rm sat ty s) := by
  obtain ⟨x, hx⟩ := Option.isSome_iff_exists.1 h
  simp [execPfxb, hx]

/-! ## Events -/

/-- An event in the name of an agent goes on where the event does. -/
theorem asWriter_goesOn {oct core : Nat} {s : State} {f : State → Host.Outcome State Fault Refusal}
    (h : ∀ t, GoesOn (f t)) : GoesOn (asWriter oct core s f) := by
  obtain ⟨t, ht⟩ := goesOn_iff.1 (h { s with writer := some (oct, core) })
  simp [asWriter, ht]

@[simp] theorem execHomeSliceWrite_goesOn (src : WriteSource) (s : State) : GoesOn (execHomeSliceWrite src s) := by
  unfold execHomeSliceWrite
  split
  · trivial
  · exact asWriter_goesOn fun _ => trivial

@[simp] theorem takeSct_goesOn (s : State) (pn : Nat) (k : SctPacket) : GoesOn (takeSct s pn k) := by
  unfold takeSct
  split <;> trivial

@[simp] theorem execEthFrameReceive_goesOn (oct : Nat) (frame : EthFrame) (s : State) :
    GoesOn (execEthFrameReceive oct frame s) := by
  simp only [execEthFrameReceive, goesOn_ite, goesOn_next, implies_true, true_and]
  intro _ _
  exact ⟨fun _ => by split <;> simp, trivial⟩

@[simp] theorem execEthFrameTransmit_goesOn (oct : Nat) (frame : EthFrame) (s : State) :
    GoesOn (execEthFrameTransmit oct frame s) := by
  simp only [execEthFrameTransmit, goesOn_ite, goesOn_next, implies_true, true_and]
  intro _
  split <;> simp

@[simp] theorem fsWrite_goesOn (s : State) (pn : Nat) (v : DWord) : GoesOn (fsWrite s pn v) := by
  unfold fsWrite
  dsimp only
  split <;> trivial

@[simp] theorem cmdWrite_goesOn (s : State) (pn : Nat) (v : DWord) : GoesOn (cmdWrite s pn v) := by
  unfold cmdWrite
  split <;> trivial

@[simp] theorem afterWrite_goesOn (s : State) (pn : Nat) (r : HReg) (v : DWord) : GoesOn (afterWrite s pn r v) := by
  unfold afterWrite
  split <;> trivial

@[simp] theorem execThaw_goesOn (part : Nat) (s : State) : GoesOn (execThaw part s) := by
  unfold execThaw
  split
  · trivial
  · split <;> trivial

@[simp] theorem acceptWrite_goesOn (s : State) (pn : Nat) (r : HReg) (v new : DWord) (who : Role) :
    GoesOn (acceptWrite s pn r v new who) := by
  unfold acceptWrite
  split <;> simp [execShootdown, execStalePairWrite, execTenantTeardown, execNetrejWrite, execParSaveWrite, execRxdropWrite,
    execCenStatWrite, execEvlostWrite, execRkpetWrite, execAttestRequest, execKeyRequest]

@[simp] theorem execRegisterWrite_goesOn (part : Nat) (who : Agent) (r : HReg) (v : DWord) (s : State) :
    GoesOn (execRegisterWrite part who r v s) := by
  simp only [execRegisterWrite, goesOn_ite, goesOn_next, implies_true, true_and]
  refine fun _ => asWriter_goesOn fun t => ?_
  unfold writeRegister
  split <;> simp

/-- An event goes on from every state. -/
theorem exec_goesOn_of_event {i : Instr} (h : isEvent i = true) (s : State) : GoesOn (exec i s) := by
  cases i with
  | pathPromotion | launchEnd | sctData | sctAck | sctNak | sctLaunch | sctAbort | sctState | sctLineReq | sctLineRsp |
    sctAckTimeout | barrierArriveSend | submissionRingTail | preemptBudgetExpire | completionRingHead | tenantTeardown |
    l1Invalidate | fileBlockRead | pageWalk | shootdown | fsRead | fsRelease | fsScrub | scrubComplete | fsSetfile |
    fsReadcnt | writebackScanVisit | snapshotRead | flashWriteComplete | parMerge | parYield | parSplit | parMigrate |
    parAccept | parSaveWrite | rkpetWrite | watchdogExpire | keyRequest | attestRequest | scanTestStart | linkFailure |
    moduleBoot | mctpMessage | troyDebugRead | debugResume | stalePairWrite | netrejWrite | cenStatWrite | evlostWrite |
    rxdropWrite | portLinkChange | terminationByRyukel | powerReachesTdp =>
    simp [execPathPromotion, execLaunchEnd, execSctData, execSctAck, execSctNak, execSctLaunch, execSctAbort, execSctState,
      execSctLineReq, execSctLineRsp, execSctAckTimeout, execBarrierArriveSend, execSubmissionRingTail,
      execPreemptBudgetExpire, execCompletionRingHead, execTenantTeardown, execL1Invalidate, execFileBlockRead, execPageWalk,
      execShootdown, execFsRead, execFsRelease, execFsScrub, execScrubComplete, execFsSetfile, execFsReadcnt,
      execWritebackScanVisit, execSnapshotRead, execFlashWriteComplete, execParMerge, execParYield, execParSplit,
      execParMigrate, execParAccept, execParSaveWrite, execRkpetWrite, execWatchdogExpire, execKeyRequest, execAttestRequest,
      execScanTestStart, execLinkFailure, execModuleBoot, execMctpMessage, execTroyDebugRead, execDebugResume,
      execStalePairWrite, execNetrejWrite, execCenStatWrite, execEvlostWrite, execRxdropWrite, execPortLinkChange,
      execTerminationByRyukel, execPowerReachesTdp]
  | spanIssue | longLatencyComplete | gangRelease | gangTrapDeferredEntry | engineLineWrite | tileTransferComplete |
    bfillComplete | qfeedFillComplete | drainRowDeliver | scratchWaitPerform | feedSpanIssue | postedEntryFire |
    nakBackoffExpire | rootSequence | solicitAccept | responderSpawn | coreReport | tmoveSwitchSend | tmoveSwitchApply |
    barrierArriveCount | barrierComplete | recordCheck | dispatchPlace | pathStop | lineFetchComplete | shootdownComplete |
    hardwareMigration | handshakeDrainDone | handshakeTimeout | migrationCommitSend | migrationCommitReceive |
    migrationCommitAck | keyVerifyComplete | scanDeferExpire | scanTestComplete | routerFailure | eccError =>
    dsimp only [exec, execSpanIssue, execLongLatencyComplete, execGangRelease, execGangTrapDeferredEntry,
      execEngineLineWrite, execTileTransferComplete, execBfillComplete, execQfeedFillComplete, execDrainRowDeliver,
      execScratchWaitPerform, execFeedSpanIssue, execPostedEntryFire, execNakBackoffExpire, execRootSequence,
      execSolicitAccept, execResponderSpawn, execCoreReport, execTmoveSwitchSend, execTmoveSwitchApply,
      execBarrierArriveCount, execBarrierComplete, execRecordCheck, execDispatchPlace, execPathStop, execLineFetchComplete,
      execShootdownComplete, execHardwareMigration, execHandshakeDrainDone, execHandshakeTimeout, execMigrationCommitSend,
      execMigrationCommitReceive, execMigrationCommitAck, execKeyVerifyComplete, execScanDeferExpire,
      execScanTestComplete, execRouterFailure, execEccError]
    repeat' split
    all_goals trivial
  | homeSliceWrite | thaw | ethFrameReceive | ethFrameTransmit | registerWrite => simp
  | _ => cases h

/-- Where a span is in issue, whatever its word stands for goes on. -/
theorem exec_goesOn_of_span (i : Instr) {s : State} (h : (ctxOf s).isSome = true) : GoesOn (exec i s) := by
  cases i with
  | map | mapr | unmap | unmapm | movn | swpn | rotn | aliasN | copyn | give | take | takeq | ismap | wbase | mapq | sadd |
    ssub | smul | smulh | sand | sor | sxor | sshl | sshr | ssra | smin | smax | saddImm | ssubImm | smulImm | smulhImm |
    sandImm | sorImm | sxorImm | sshlImm | sshrImm | ssraImm | sminImm | smaxImm | scmp | scmpImm | ssel | smov | sldi |
    slit | iadd | isub | imul | imulh | iand | ior | ixor | ishl | ishr | isra | imin | imax | iaddImm | isubImm |
    imulImm | imulhImm | iandImm | iorImm | ixorImm | ishlImm | ishrImm | israImm | iminImm | imaxImm | imad | iabs |
    popc | clz | brev | bfe | bfi | iaddc | icmp | icmpImm | lea | mov | movs | lit | pand | por | pxor | pnot | pset |
    pmov | fadd | fsub | fmul | ffma | fmin | fmax | fabs | fneg | fcmpEq | fcmpLt | fcmpLe | fcmpGt | fcmpGe | fcmpNe |
    fcmpOrd | fcmpUno | fcmpEqu | fcmpLtu | fcmpLeu | fcmpGtu | fcmpGeu | fcmpNeu | hadd2 | hmul2 | hfma2 | fcvt | frcp |
    frsq | fsqrt | fex2 | flg2 | ftanh | shfl2 | shfl4 | shfl8 | shfl16 | shfl32 | voteAny | voteAll | voteBal | matchAny |
    matchAll | redux | fredux | scan | bcast | elect | bra | bru | brp | jpoint | join | jmpr | call | callr | ret | exit |
    nop | yield | lds | sts | atoms | fence | gbar | garv | gwait | mzero | bfill | bfills | scld | mepi | vpop | mburst |
    mstat | accsv | accld | fwait | ftest | fstat | fcancel | tld | tst | tcpy | tmcast | gath | scat | feedgo | qfeed |
    qpop | qrel | qpost | qpostAt | ctradd | ctrwait | rteset | cabort | launch | treg | tunreg | tmove | solicit | reply |
    replyv | census | trap | eret | srd | swr | bkpt | gettime | srdV =>
    exact runWord_goesOn h
  | ldg | stg | ldu | stu | atom | rowld | rowst | rowadd | pref | mdrain =>
    simp [execLdg, execStg, execLdu, execStu, execAtom, execRowld, execRowst, execRowadd, execPref, execMdrain, h]
  | mma => exact execMma_goesOn _ _ _ h
  | pfxa => exact execPfxa_goesOn _ _ _ _ _ h
  | pfxb => exact execPfxb_goesOn _ _ _ h
  | _ => exact exec_goesOn_of_event rfl s

/-! ## Turns and steps -/

@[simp] theorem stepWord_goesOn (core slot : Nat) (s : State) : GoesOn (stepWord core slot s) := by
  unfold stepWord
  dsimp only
  split
  · trivial
  · rename_i x hx
    split
    · exact exec_goesOn_of_span _ (Option.isSome_of_eq_some hx)
    · trivial

theorem takeTurn_goesOn (s : State) (t : Turn) : GoesOn (takeTurn s t) := by
  cases t with
  | word core slot => exact stepWord_goesOn core slot s
  | event e =>
    rw [takeTurn, goesOn_ite]
    exact ⟨fun he => exec_goesOn_of_event he s, fun _ => trivial⟩

/-- An act that goes on from every state. -/
def AlwaysGoesOn (f : Act) : Prop := ∀ s, GoesOn (f s)

/-- What an event of the model does is an act that goes on. -/
theorem event_alwaysGoesOn {i : Instr} (h : isEvent i = true) : AlwaysGoesOn (exec i) := fun s => exec_goesOn_of_event h s

theorem placeNow_goesOn (n : Nat) : AlwaysGoesOn (placeNow n) := by
  intro s
  obtain ⟨t, ht⟩ : ∃ t, execDispatchPlace n s = .next t := goesOn_iff.1 (event_alwaysGoesOn (i := .dispatchPlace n) rfl s)
  simp [placeNow, ht]

theorem warpEvents_goOn (c w : Nat) (v : Warp) : ∀ f ∈ warpEvents c w v, AlwaysGoesOn f := by
  simp only [warpEvents, List.forall_mem_append, List.forall_mem_map, List.forall_mem_cons]
  exact ⟨fun o _ => event_alwaysGoesOn (i := .longLatencyComplete c w o.id) rfl,
    event_alwaysGoesOn (i := .gangRelease c w) rfl, event_alwaysGoesOn (i := .gangTrapDeferredEntry c w) rfl,
    event_alwaysGoesOn (i := .pathStop c w false) rfl, event_alwaysGoesOn (i := .pathStop c w true) rfl, nofun⟩

theorem engineEvents_goOn (c o : Nat) (e : EngineOp) : ∀ f ∈ engineEvents c o e, AlwaysGoesOn f := by
  simp only [engineEvents, List.forall_mem_append, List.forall_mem_map]
  refine ⟨fun l _ => event_alwaysGoesOn (i := .engineLineWrite c o l) rfl, ?_⟩
  split
  · exact List.forall_mem_singleton.2 (event_alwaysGoesOn (i := .tileTransferComplete c o) rfl)
  · exact List.forall_mem_singleton.2 (event_alwaysGoesOn (i := .bfillComplete c o) rfl)
  · exact List.forall_mem_singleton.2 (event_alwaysGoesOn (i := .qfeedFillComplete c o) rfl)
  · exact List.forall_mem_singleton.2 (event_alwaysGoesOn (i := .drainRowDeliver c _ o) rfl)
  · exact List.forall_mem_singleton.2 (event_alwaysGoesOn (i := .tmoveSwitchSend c o) rfl)
  · nofun

theorem holdingEvents_goOn (s : State) (c l : Nat) (h : CoreLaunch) : ∀ f ∈ holdingEvents s c l h, AlwaysGoesOn f := by
  simp only [holdingEvents, List.forall_mem_append, List.forall_mem_map, List.forall_mem_cons]
  exact ⟨⟨event_alwaysGoesOn (i := .feedSpanIssue c l) rfl,
    fun a _ => event_alwaysGoesOn (i := .scratchWaitPerform c l a.id) rfl⟩,
    fun g _ => event_alwaysGoesOn (i := .barrierArriveSend c l g) rfl⟩

theorem coreEvents_goOn (s : State) (c : Nat) (k : Core) : ∀ f ∈ coreEvents s c k, AlwaysGoesOn f := by
  simp only [coreEvents, List.forall_mem_append, List.forall_mem_flatMap, List.forall_mem_map, List.forall_mem_cons]
  exact ⟨⟨⟨⟨⟨⟨fun w _ => warpEvents_goOn c w.1 w.2, event_alwaysGoesOn (i := .homeSliceWrite (.core c 0)) rfl, nofun⟩,
    fun i _ => event_alwaysGoesOn (i := .l1Invalidate c i.2) rfl⟩, fun e _ => engineEvents_goOn c e.1 e.2⟩,
    fun h _ => holdingEvents_goOn s c h.1 h.2⟩,
    event_alwaysGoesOn (i := .solicitAccept c) rfl, event_alwaysGoesOn (i := .responderSpawn c) rfl,
    event_alwaysGoesOn (i := .tmoveSwitchApply c) rfl, event_alwaysGoesOn (i := .barrierComplete c) rfl, nofun⟩,
    fun a _ => event_alwaysGoesOn (i := .coreReport c a.q.seq) rfl⟩

theorem partEvents_goOn (n : Nat) (p : Partition) : ∀ f ∈ partEvents n p, AlwaysGoesOn f := by
  simp only [partEvents, List.forall_mem_append, List.forall_mem_map, List.forall_mem_cons]
  refine ⟨⟨⟨event_alwaysGoesOn (i := .lineFetchComplete n 0) rfl, event_alwaysGoesOn (i := .rootSequence n) rfl,
    event_alwaysGoesOn (i := .barrierArriveCount n) rfl, event_alwaysGoesOn (i := .shootdownComplete n) rfl,
    event_alwaysGoesOn (i := .handshakeDrainDone n) rfl, nofun⟩,
    fun c _ => event_alwaysGoesOn (i := .recordCheck n (.ring c)) rfl⟩, ?_⟩
  split
  · nofun
  · simp only [List.forall_mem_cons]
    exact ⟨event_alwaysGoesOn (i := .recordCheck n .launchInstr) rfl, event_alwaysGoesOn (i := .recordCheck n .net) rfl, nofun⟩

theorem ownEvents_goOn (s : State) : ∀ f ∈ ownEvents s, AlwaysGoesOn f := by
  simp only [ownEvents, List.forall_mem_append, List.forall_mem_flatMap, List.forall_mem_map]
  exact ⟨⟨⟨⟨fun e _ => coreEvents_goOn s e.1 e.2, fun e _ => partEvents_goOn e.1 e.2⟩,
    fun f _ => event_alwaysGoesOn (i := .scrubComplete _ f.1) rfl⟩,
    fun e _ => event_alwaysGoesOn (i := .launchEnd e.1) rfl⟩, fun n _ => placeNow_goesOn n⟩

theorem warpTurns_goOn (s : State) : ∀ f ∈ warpTurns s, AlwaysGoesOn f := by
  simp only [warpTurns, List.forall_mem_append, List.forall_mem_map]
  exact ⟨fun e _ => stepWord_goesOn e.1 e.2, fun e _ => event_alwaysGoesOn (i := .spanIssue e.1 e.2 false) rfl⟩

theorem defaultActs_goOn (s : State) : ∀ f ∈ defaultActs s, AlwaysGoesOn f := by
  simp only [defaultActs, List.forall_mem_append, List.forall_mem_map]
  exact ⟨⟨ownEvents_goOn s, warpTurns_goOn s⟩, fun n _ => event_alwaysGoesOn (i := .dispatchPlace n) rfl⟩

/-- Of acts that all go on, the first that changes the state does. -/
theorem takeFirst_goesOn {s : State} {l : List Act} (hl : ∀ f ∈ l, AlwaysGoesOn f) : GoesOn (takeFirst s l) := by
  induction l with
  | nil => trivial
  | cons f fs ih =>
    obtain ⟨hf, hfs⟩ := List.forall_mem_cons.1 hl
    obtain ⟨t, ht⟩ := goesOn_iff.1 (hf s)
    simp only [takeFirst, ht, goesOn_ite, goesOn_next, implies_true, and_true]
    exact fun _ => ih hfs

theorem tick_goesOn {o : Host.Outcome State Fault Refusal} (h : GoesOn o) : GoesOn (tick o) := by
  obtain ⟨t, rfl⟩ := goesOn_iff.1 h
  trivial

/-- Settles O58, by cases on the turn that the step takes: a word runs only where a span is in issue, and an event or a default
turn goes on from every state. -/
theorem everyStepGoesOn : Obligations.EveryStepGoesOn := by
  intro s
  refine goesOn_iff.1 (tick_goesOn ?_)
  split
  · exact takeTurn_goesOn ..
  · exact takeFirst_goesOn (defaultActs_goOn s)

end Sys2Proof.Machine
end

section
/-! PROOF. The frame of the scalar instructions (O3). -/

namespace Sys2Proof.Machine

open Sys2Proof

/-- A change of a warp that writes one scalar and its future tag, and nothing else. -/
def WritesScalar (d : BitVec 6) (f : Warp → Warp) : Prop :=
  ∀ w, f w = { w with s := (f w).s, tags := (f w).tags }
    ∧ ∀ k, k ≠ d → sReg (f w) k = sReg w k ∧ fget? (f w).tags k.toNat = fget? w.tags k.toNat

theorem fget?_fdel_scalar {α : Type} (m : FMap α) {d k : BitVec 6} (h : k ≠ d) :
    fget? (fdel m d.toNat) k.toNat = fget? m k.toNat :=
  fget?_fdel_other m fun e => h (BitVec.eq_of_toNat_eq e)

theorem setS_writesScalar (d : BitVec 6) (v : Warp → DWord) : WritesScalar d (fun w => setS w d (v w)) :=
  fun w => ⟨rfl, fun _ hk => ⟨sReg_setS_other w _ hk, fget?_fdel_scalar w.tags hk⟩⟩

/-- SMOV carries the future tag along (R224). -/
theorem smov_writesScalar (d a : BitVec 6) : WritesScalar d (fun w =>
    let v := setS w d (sReg w a)
    match fget? w.tags a.toNat with
    | some h => { v with tags := fput v.tags d.toNat h }
    | none => v) := by
  intro w
  dsimp only
  split
  · refine ⟨rfl, fun k hk => ⟨sReg_setS_other w _ hk, ?_⟩⟩
    rw [fget?_fput_other _ _ fun e => hk (BitVec.eq_of_toNat_eq e)]
    exact fget?_fdel_scalar w.tags hk
  · exact setS_writesScalar d (fun w => sReg w a) w

/-- The end of a span leaves everything of a warp but its paths and the span. -/
theorem leaveSpan_eq (w : Warp) (sp : Span) (pc : PC) (u : Bool) (live : Option Word) (k : Nat) :
    ∃ p q, leaveSpan w sp pc u live k = { w with span := none, prim := p, seco := q } := by
  unfold leaveSpan modPath setPath
  split
  · exact ⟨w.prim, _, rfl⟩
  · exact ⟨_, w.seco, rfl⟩

/-- The move past a word in a launch that nothing has terminated, from a warp that has the word's paths (R42, R43). -/
theorem advance_seq_moves {s : State} {x : Ctx} {w : Warp} (h : warpOf? s x.c x.slot = some w)
    (hl : (launchOf s w.launch).term = none) :
    ∃ v, advance s x .seq = setWarp (takeStamp s).2 x.c x.slot v ∧ MovedPast x s.stamp w v
      ∧ v = { w with prim := v.prim, seco := v.seco, span := v.span } := by
  by_cases he : wordE (spanWord x.sp x.sp.idx) = true
  · refine ⟨_, advance_last h he hl, ?_, ?_⟩
    · simp only [MovedPast, he, if_true]
      exact ⟨pathOf_modPath_other .., leaveSpan_span .., pathOf_modPath ..⟩
    · obtain ⟨p, q, hv⟩ := leaveSpan_eq w x.sp (continuation x.sp) false (liveWord x.sp) s.stamp
      rw [hv]
  · rw [Bool.not_eq_true] at he
    exact ⟨_, advance_mid h he, by simp [MovedPast, he, pathOf], rfl⟩

/-- A word that writes one scalar keeps its frame. -/
theorem warpDone_scalarFrame {s : State} {x : Ctx} {d : BitVec 6} {f : Warp → Warp} (h : ctxOf s = some x)
    (hl : (launchOf s x.w.launch).term = none) (hf : WritesScalar d f) : ScalarFrame s (warpDone s x f) x d := by
  obtain ⟨hrest, hother⟩ := hf x.w
  have hpaths (sec : Bool) : pathOf (f x.w) sec = pathOf x.w sec := by rw [hrest]; rfl
  have hp : (f x.w).p = x.w.p := by rw [hrest]
  have hlaunch : (f x.w).launch = x.w.launch := by rw [hrest]
  obtain ⟨v, hv, hm, hkeep⟩ := advance_seq_moves (x := x) (warpOf?_setWarp_same s x.c x.slot (f x.w))
    (by rw [launchOf_setWarp, hlaunch]; exact hl)
  have ht : warpDone s x f = { setWarp s x.c x.slot v with stamp := s.stamp + 1 } := by
    rw [warpDone, modW_at h, hv]
    exact congrArg (fun u => { u with stamp := s.stamp + 1 }) (setWarp_setWarp s x.c x.slot (f x.w) v)
  rw [ht]
  refine ⟨⟨v, rfl⟩, fun _ => rfl, v, warpOf?_setWarp_same s x.c x.slot v, ?_, ?_, ?_, ?_⟩
  · rw [KeepsRest, hkeep, hrest]
  · rw [hkeep, hp]
  · simpa [MovedPast, hpaths] using hm
  · intro k hk
    rw [hkeep]
    exact hother k hk

/-- A scalar word traps on the first of its items that is pending, or else has its effect (R46, R99). -/
theorem scalarWord_frame {s t : State} {x : Ctx} {d : BitVec 6} {items : List PendItem} {f : Warp → Warp} (h : ctxOf s = some x)
    (hl : (launchOf s x.w.launch).term = none) (hf : WritesScalar d f)
    (ht : runWord s (fun x => scalarWord x s items f) = .next t) :
    (∃ p, isPending x.w p = true ∧ t = trapped s x cPending (pendVal p)) ∨ ScalarFrame s t x d := by
  cases hi : items.find? (isPending x.w) with
  | some p =>
    rw [runWord_at h, scalarWord, checkPending, hi] at ht
    cases ht
    exact .inl ⟨p, by simpa using List.find?_some hi, rfl⟩
  | none =>
    have hs : Settled x.w items := fun i hm => by simpa using List.find?_eq_none.1 hi i hm
    rw [scalarWord_next h hs] at ht
    cases ht
    exact .inr (warpDone_scalarFrame h hl hf)

/-- Settles O3: each scalar instruction is a scalar word that writes one scalar. -/
theorem scalarFrameHolds : Obligations.ScalarFrameHolds := by
  intro i d s t x hd h hl ht
  cases i with
  | smov e a =>
    cases hd
    exact scalarWord_frame h hl (smov_writesScalar d a) ht
  | sadd | ssub | smul | smulh | sand | sor | sxor | sshl | sshr | ssra | smin | smax | scmp | saddImm | ssubImm | smulImm |
    smulhImm | sandImm | sorImm | sxorImm | sshlImm | sshrImm | ssraImm | sminImm | smaxImm | scmpImm | ssel | sldi | slit |
    pmov =>
    cases hd
    exact scalarWord_frame h hl (setS_writesScalar d _) ht
  | _ => cases hd

end Sys2Proof.Machine
end

section
/-! PROOF. The integer operations on one word, as R105 to R107 give them. -/

namespace Sys2Proof.Machine

open Sys2Proof

theorem clamp32_eq (v : Int) : clamp32 v = BitVec.ofInt 32 (max (-2147483648) (min 2147483647 v)) := by
  unfold clamp32
  congr 1
  split
  · omega
  · split <;> omega

theorem mulHigh32_eq (p q : Word) : mulHigh32 p q = (p.signExtend 64 * q.signExtend 64).extractLsb' 32 32 := by
  have hz : p.signExtend 64 * q.signExtend 64 = BitVec.ofInt 64 (p.toInt * q.toInt) := (BitVec.ofInt_mul ..).symm
  rw [hz]
  refine BitVec.eq_of_toNat_eq ?_
  simp only [mulHigh32, BitVec.extractLsb'_toNat, BitVec.toNat_ofInt, Nat.shiftRight_eq_div_pow]
  omega

theorem sra32_eq (p q : Word) : sra32 p q = p.sshiftRight q.toNat := by
  unfold sra32
  rcases Nat.le_total q.toNat 32 with h | h
  · rw [Nat.min_eq_left h]
  · rw [Nat.min_eq_right h]
    ext i hi
    simp [BitVec.getElem_sshiftRight, show ¬ 32 + i < 32 by omega, show ¬ q.toNat + i < 32 by omega]

theorem min32_eq (p q : Word) : min32 p q = if p.sle q then p else q := by simp [min32, BitVec.sle]

theorem max32_eq (p q : Word) : max32 p q = if p.sle q then q else p := by simp [max32, BitVec.sle]

theorem abs32_eq (p : Word) : abs32 p = if p.slt 0 then 0 - p else p := by
  have : p.getLsbD 31 = p.slt 0 := (BitVec.msb_eq_getLsbD_last p).symm.trans BitVec.slt_zero_eq_msb.symm
  rw [abs32, this]

theorem bitCount_eq_countP (n v : Nat) : bitCount n v = (List.range n).countP v.testBit := by
  induction n generalizing v with
  | zero => rfl
  | succ n ih =>
    rw [bitCount, ih, List.range_succ_eq_map, List.countP_cons, List.countP_map, Nat.add_comm]
    congr 1
    · exact List.countP_congr fun i _ => by simp [Nat.testBit_succ]
    · rcases Nat.mod_two_eq_zero_or_one v with h | h <;> simp [Nat.testBit_zero, h]

theorem popc32_eq (p : Word) : popc32 p = BitVec.ofNat 32 ((List.range 32).countP (fun j => p.getLsbD j)) := by
  simp only [popc32, bitCount_eq_countP, BitVec.getLsbD]

/-- The first set bit from the top is the one of the logarithm. -/
theorem find?_leadingOne {p : Word} (h : p ≠ 0) :
    (List.range 32).find? (fun i => p.getLsbD (31 - i)) = some (31 - Nat.log2 p.toNat) := by
  have h0 : p.toNat ≠ 0 := fun e => h (BitVec.eq_of_toNat_eq e)
  have hl : Nat.log2 p.toNat < 32 := (Nat.log2_lt h0).2 p.isLt
  rw [List.find?_range_eq_some]
  refine ⟨?_, by rw [List.mem_range]; omega, fun j hj => ?_⟩
  · rw [show 31 - (31 - Nat.log2 p.toNat) = Nat.log2 p.toNat by omega]
    exact Nat.testBit_log2 h0
  · have : p.toNat.testBit (31 - j) = false := Nat.testBit_lt_two_pow ((Nat.log2_lt h0).1 (by omega))
    simpa [BitVec.getLsbD] using this

theorem clz32_eq (p : Word) : clz32 p = if p = 0 then 32 else BitVec.ofNat 32 (31 - Nat.log2 p.toNat) := by
  split
  · subst p; rfl
  · rename_i h
    rw [clz32, find?_leadingOne h, Option.getD_some]

/-! ## Words that apply an operation lane by lane -/

section

variable {s t u : State} {x : Ctx} {d a b : BitVec 7}

/-- LEA (R109) once its names are ready. -/
theorem execLea_applies {u' : BitVec 1} {k : BitVec 6}
    (h : LaneReady s x [iS k] [winName x.w b] [winName x.w d, winName x.w (d + 1)] [] [] t u) :
    execLea d u' k b s = .next (laneDone u x (laneInOf t x [winName x.w b])
      [(winName x.w d, mkRow (fun l => (leaValue u' (sReg x.w k) ((laneInOf t x [winName x.w b]).src 0 l)).extractLsb' 0 32)),
        (winName x.w (d + 1), mkRow (fun l => (leaValue u' (sReg x.w k) ((laneInOf t x [winName x.w b]).src 0 l)).extractLsb' 32 32))]) := by
  unfold execLea
  rw [runWord_at h.at_]
  simp only [laneCheck_ok h, bind, Except.bind]
  rw [writeNames_ok h rfl]
  exact finish_done ..

end

/-- Settles O5: each word runs its lane operation, whose value is the one of R105 to R109. -/
theorem vectorIntegerOthers : Obligations.VectorIntegerOthers := by
  refine ⟨fun s t u x d a imm h => ?_, fun s t u x d a b k lit => ?_⟩
  · refine ⟨fun hs => ?_, fun hs => ?_, ?_⟩
    · simp [execIaddImm, execIsubImm, laneRI_next h, hs, add32, sub32, imm32s]
    · simp [execIaddImm, execIsubImm, laneRI_next h, hs, add32, sub32, imm32s, clamp32_eq]
    · simp [execImulImm, execImulhImm, execIandImm, execIorImm, execIxorImm, execIshlImm, execIshrImm, execIsraImm, execIminImm,
        execImaxImm, laneRI_next h, mulHigh32_eq, shl32, shr32, sra32_eq, min32_eq, max32_eq, imm32s, imm32z]
  · refine ⟨fun h => ?_, fun h => ?_, fun h => ?_, fun h => ?_, fun h => ⟨?_, ?_⟩⟩
    · simp [execIabs, execPopc, execClz, execBrev, execMov, laneR_next h, abs32_eq, popc32_eq, clz32_eq, brev32]
    · simp [execImad, execBfi, laneRRC_next h, bfi32]
    · simp [execMovs, runWord_at h.at_, laneWord_next h]
    · simp [execLit, runWord_at h.at_, laneWord_next h]
    · exact execLea_applies h
    · exact execLea_applies h

end Sys2Proof.Machine
end

section
/-! PROOF. A lane-wise word of which no lane is selected and none is zeroed (O13). -/

namespace Sys2Proof.Machine

open Sys2Proof

/-- A word of which no lane is selected, and none zeroed, with its guard and the scalars that it checks not pending (R46, R121). -/
structure NoLane (s : State) (x : Ctx) : Prop where
  at_ : ctxOf s = some x
  narrowed : narrowed x = 0
  zero : zeroLanes x = 0
  guard : Settled x.w (if ctxActive x = 0 then [] else guardItems x)

/-- What such a word works on: nothing. -/
def noLanes : LaneIn := ⟨0, 0, [], 0⟩

section

variable {s : State} {x : Ctx}

theorem NoLane.laneCheck (h : NoLane s x) {scalars : List PendItem} (hs : Settled x.w scalars) (srcs dsts : List Nat)
    (preds dpreds : List PendItem) : laneCheck s x scalars srcs dsts preds dpreds = .ok (s, noLanes) := by
  have hp : Settled x.w ((if ctxActive x = 0 then [] else guardItems x) ++ scalars ++ iNames [] ++ []) := by
    simpa [iNames] using settled_append.2 ⟨h.guard, hs⟩
  simp only [Machine.laneCheck, h.narrowed, h.zero, if_true, checkPending_ok hp, checkMapped, List.find?_nil, reloadNames, bind,
    Except.bind]
  rfl

theorem writeNames_noLanes (outs : List (Nat × Row)) : writeNames s x noLanes outs = .ok s := by
  simp [writeNames, noLanes]

theorem killLanes_none (h : ctxOf s = some x) : killLanes s x 0 .seq = (s, .seq) := by
  simp [killLanes, killAt, ctxOf_warp h]

/-- Lanes that are not selected raise nothing. -/
theorem raiseFlags_noLanes {α : Type} (c slot : Nat) (f : Nat → α × Flags) (a : α) :
    raiseFlags s c slot ((lanes.map (fun l => if (noLanes.nar &&& ~~~noLanes.kills).getLsbD l then f l else (a, Flags.none))).map
      (·.2)) = s := by
  have : (lanes.map (fun l => if (noLanes.nar &&& ~~~noLanes.kills).getLsbD l then f l else (a, Flags.none))).map (·.2)
      = List.replicate 32 Flags.none := by simp [noLanes, lanes]
  rw [this, raiseFlags, if_pos (by decide)]

/-- A predicate destination of which no lane is written. -/
theorem putPLanes_noLanes (d : BitVec 4) (v : Mask) : putPLanes s x d (noLanes.nar ||| noLanes.zero) v = s := by
  simp [putPLanes, noLanes]

theorem laneWord_noLane (h : NoLane s x) {scalars : List PendItem} (hs : Settled x.w scalars) (srcs : List Nat)
    (preds : List PendItem) (dst : Nat) (f : LaneIn → Nat → Word) :
    laneWord x s scalars srcs preds dst f = .ok (s, .seq) := by
  simp only [laneWord, h.laneCheck hs, writeNames_noLanes, bind, Except.bind]
  exact congrArg _ (killLanes_none h.at_)

theorem predWord_noLane (h : NoLane s x) (srcs : List Nat) (d : BitVec 4) (f : LaneIn → Nat → Bool) :
    predWord x s srcs d f = .ok (s, .seq) := by
  simp only [predWord, h.laneCheck (settled_nil _), putPLanes_noLanes, bind, Except.bind]
  exact congrArg _ (killLanes_none h.at_)

theorem floatWord_noLane (h : NoLane s x) (srcs : List Nat) (dst : Nat) (f : LaneIn → Nat → Nat × Flags) :
    floatWord x s srcs dst f = .ok (s, .seq) := by
  simp only [floatWord, h.laneCheck (settled_nil _), writeNames_noLanes, raiseFlags_noLanes, bind, Except.bind]
  exact congrArg _ (killLanes_none h.at_)

theorem mkMask_noLanes (f : Nat → Bool) : mkMask (fun l => noLanes.nar.getLsbD l && f l) = 0 := rfl

theorem transfer_noLane (h : NoLane s x) (a : Nat) (idx : Option Nat) (dst : Nat) (from_ : LaneIn → Nat → Nat) :
    transfer x s a idx dst from_ = .ok (s, .seq) := by
  simp only [transfer, h.laneCheck (settled_nil _), mkMask_noLanes, bind, Except.bind]
  simp only [noLanes, writeNames, putPLanes, BitVec.or_self, if_true, killLanes_none h.at_]

/-- A lane-wise word of which each part does nothing. -/
theorem runWord_noEffect (h : NoLane s x) {f : Ctx → Except Stop (State × After)} (hf : f x = .ok (s, .seq)) :
    runWord s f = .next (advance s x .seq) := by
  rw [runWord_at h.at_, hf, finish_ok]

/-- What a cross-lane word with a scalar destination checks is not pending where its scalar is not (R46). -/
theorem crossItems_settled (h : NoLane s x) {k : BitVec 6} (hk : Settled x.w [iS k]) (read : List PendItem) :
    Settled x.w (crossItems x read k) := by
  rw [crossItems, if_pos h.narrowed, List.append_nil]
  exact settled_append.2 ⟨h.guard, hk⟩

theorem floatCmp_noLane (h : NoLane s x) (cc : Nat) (d : BitVec 4) (a b : BitVec 7) :
    floatCmp s cc d a b = .next (advance s x .seq) := by
  refine runWord_noEffect h ?_
  simp only [h.laneCheck (settled_nil _), putPLanes_noLanes, raiseFlags_noLanes, bind, Except.bind]
  exact congrArg _ (killLanes_none h.at_)

theorem execIaddc_noLane (h : NoLane s x) (d a b : BitVec 7) : execIaddc d a b s = .next (advance s x .seq) := by
  refine runWord_noEffect h ?_
  simp only [h.laneCheck (settled_nil _), writeNames_noLanes, putPLanes_noLanes, bind, Except.bind]
  exact congrArg _ (killLanes_none h.at_)

theorem execLea_noLane (h : NoLane s x) {k : BitVec 6} (hk : Settled x.w [iS k]) (d : BitVec 7) (u : BitVec 1) (b : BitVec 7) :
    execLea d u k b s = .next (advance s x .seq) := by
  refine runWord_noEffect h ?_
  simp only [h.laneCheck hk, writeNames_noLanes, bind, Except.bind]
  exact congrArg _ (killLanes_none h.at_)

theorem execBcast_noLane (h : NoLane s x) {k : BitVec 6} (hk : Settled x.w [iS k]) (d a : BitVec 7) :
    execBcast d a k s = .next (advance s x .seq) := by
  refine runWord_noEffect h ?_
  have hp := crossItems_settled h hk [.name (winName x.w a)]
  rw [crossItems] at hp
  simp only [checkPending_ok hp, bind, Except.bind]
  exact transfer_noLane h ..

theorem execRedux_noLane (h : NoLane s x) {k : BitVec 6} (hk : Settled x.w [iS k]) (a : BitVec 7) (op : BitVec 3) :
    execRedux k a op s = .next (advance s x .seq) := by
  refine runWord_noEffect h ?_
  simp only [checkPending_ok (crossItems_settled h hk _), h.laneCheck (settled_nil _), bind, Except.bind]
  rfl

theorem execFredux_noLane (h : NoLane s x) {k : BitVec 6} (hk : Settled x.w [iS k]) (a : BitVec 7) (op : BitVec 2) :
    execFredux k a op s = .next (advance s x .seq) := by
  refine runWord_noEffect h ?_
  simp only [checkPending_ok (crossItems_settled h hk _), h.laneCheck (settled_nil _), bind, Except.bind]
  exact if_pos rfl

theorem execElect_noLane (h : NoLane s x) {k : BitVec 6} (hk : Settled x.w [iS k]) (d : BitVec 4) :
    execElect d k s = .next (advance s x .seq) := by
  refine runWord_noEffect h ?_
  have hp : Settled x.w ((if ctxActive x = 0 then [] else guardItems x) ++ [iS k] ++ []) := by
    simpa using settled_append.2 ⟨h.guard, hk⟩
  simp only [h.narrowed, h.zero, BitVec.or_self, if_true, checkPending_ok hp, bind, Except.bind, putPLanes]
  rfl

end

/-- Settles O13, by the shape of the word: its checks pass, and each of its parts has no lane to work on. -/
theorem noLaneNoEffect : Obligations.NoLaneNoEffect := by
  intro i s x q hq hx hn hz hg hs
  have h : NoLane s x := ⟨hx, hn, hz, by split; exacts [settled_nil _, hg ‹_›]⟩
  cases i with
  | iadd | isub | imul | imulh | iand | ior | ixor | ishl | ishr | isra | imin | imax | bfe | iaddImm | isubImm | imulImm |
    imulhImm | iandImm | iorImm | ixorImm | ishlImm | ishrImm | israImm | iminImm | imaxImm | iabs | popc | clz | brev | mov |
    imad | bfi | lit | matchAny | matchAll | scan =>
    exact runWord_noEffect h (laneWord_noLane h (settled_nil _) ..)
  | movs =>
    cases hq
    exact runWord_noEffect h (laneWord_noLane h hs ..)
  | icmp | icmpImm => exact runWord_noEffect h (predWord_noLane h ..)
  | fadd | fsub | fmul | fmin | fmax | hadd2 | hmul2 | ffma | hfma2 | fabs | fneg | fcvt | frcp | frsq | fsqrt | fex2 | flg2 |
    ftanh => exact runWord_noEffect h (floatWord_noLane h ..)
  | fcmpEq | fcmpLt | fcmpLe | fcmpGt | fcmpGe | fcmpNe | fcmpOrd | fcmpUno | fcmpEqu | fcmpLtu | fcmpLeu | fcmpGtu | fcmpGeu |
    fcmpNeu => exact floatCmp_noLane h ..
  | shfl2 | shfl4 | shfl8 | shfl16 | shfl32 => exact runWord_noEffect h (transfer_noLane h ..)
  | iaddc => exact execIaddc_noLane h ..
  | lea =>
    cases hq
    exact execLea_noLane h hs ..
  | bcast =>
    cases hq
    exact execBcast_noLane h hs ..
  | redux =>
    cases hq
    exact execRedux_noLane h hs ..
  | fredux =>
    cases hq
    exact execFredux_noLane h hs ..
  | elect =>
    cases hq
    exact execElect_noLane h hs ..
  | _ => cases hq

end Sys2Proof.Machine
end

section
/-! PROOF. Transfers by offset, register and return (O21). -/

namespace Sys2Proof.Machine

open Sys2Proof

/-! ## Parts of a transfer -/

theorem transferTo_ok {s : State} {x : Ctx} {pc : PC} {u : Bool} (h : Lands s x pc u) :
    transferTo s x pc = .ok (.jump pc u) := by
  simp only [transferTo, checkLanding_ok h, bind, Except.bind]

theorem targetOf_ok {v : DWord} (h : v.toNat < 2 ^ 57) : targetOf v = .ok (v.setWidth 57) := by
  simp only [targetOf, decide_eq_false (Nat.not_le.2 h), raiseIf_false, bind, Except.bind]

theorem mkMask_eq_zero {f : Nat → Bool} (h : ∀ l, l < 32 → f l = false) : mkMask f = 0 := by
  unfold mkMask
  rw [List.foldl_ext _ (fun m _ => m) 0#32 fun m l hl => by simp [h l (List.mem_range.1 hl)]]
  rfl

/-- The lowest selected lane. -/
theorem find?_lowestLane {m : Mask} {low : Nat} (h : m.getLsbD low = true) (hlow : ∀ l, l < low → m.getLsbD l = false) :
    lanes.find? (fun l => m.getLsbD l) = some low := by
  rw [lanes, List.find?_range_eq_some]
  exact ⟨h, List.mem_range.2 (BitVec.lt_of_getLsbD h), fun j hj => by simp [hlow j hj]⟩

/-! ## A warp that is put back as it stands -/

/-- The end of a word writes its warp in any case. -/
theorem advance_setWarp_self {t : State} {x : Ctx} {w : Warp} (hw : warpOf? t x.c x.slot = some w) (a : After) :
    advance (setWarp t x.c x.slot w) x a = advance t x a := by
  have hs (v : Warp) : setWarp (takeStamp (setWarp t x.c x.slot w)).2 x.c x.slot v = setWarp (takeStamp t).2 x.c x.slot v :=
    setWarp_setWarp (takeStamp t).2 x.c x.slot w v
  unfold advance
  simp only [warpOf?_takeStamp, warpOf?_setWarp_same, hw, hs, takeStamp_fst, setWarp_stamp]

/-- Lanes that die write their warp. -/
theorem killAt_setWarp_self {t : State} {c slot : Nat} {w : Warp} (hw : warpOf? t c slot = some w) (pc : PC) {kills : Mask}
    (hk : kills &&& ~~~w.dead ≠ 0) : killAt (setWarp t c slot w) c slot pc kills = killAt t c slot pc kills := by
  simp only [killAt, warpOf?_setWarp_same, hw, if_neg hk, setWarp_setWarp, launchOf_setWarp]

theorem killAt_noneFresh {t : State} {c slot : Nat} {w : Warp} (hw : warpOf? t c slot = some w) (pc : PC) {kills : Mask}
    (hk : kills &&& ~~~w.dead = 0) : killAt t c slot pc kills = t := by
  simp only [killAt, hw, hk, if_true]

/-- The state after a word that has gone somewhere, with the lanes that it kills. -/
def killGo (v : State) (x : Ctx) (kills : Mask) (a : After) : State :=
  let k := killLanes v x kills a
  advance k.1 x k.2

theorem killGo_modW_self (t : State) (x : Ctx) (kills : Mask) (a : After) :
    killGo (modW t x (fun w => w)) x kills a = killGo t x kills a := by
  cases hw : warpOf? t x.c x.slot with
  | none => simp only [modW, modWarp, hw]
  | some w =>
    rw [modW, modWarp_at hw]
    by_cases hk : kills &&& ~~~w.dead = 0
    · simp only [killGo, killLanes, killAt_noneFresh hw _ hk, killAt_noneFresh (warpOf?_setWarp_same t x.c x.slot w) _ hk,
        warpOf?_setWarp_same, hw, Option.isNone_some, Bool.false_eq_true, if_false, advance_setWarp_self hw]
    · simp only [killGo, killLanes, killAt_setWarp_self hw _ hk]

/-! ## Words that go to an offset or return (R112, R118) -/

section

variable {s : State} {x : Ctx} {u : Bool}

theorem execBra_jumps (h : ctxOf s = some x) (hl : LastWord x) {off : BitVec 14} (hgo : Lands s x (offTarget x off) u) :
    execBra off s = .next (advance s x (.jump (offTarget x off) u)) := by
  rw [execBra, runWord_at h]
  simp only [needLast_ok hl, transferTo_ok hgo, bind, Except.bind, finish_ok]

/-- A target that is no header (R56). -/
theorem execBra_bad (h : ctxOf s = some x) (hl : LastWord x) {off : BitVec 14}
    (hbad : landing s (partOf s x.pn) x.c (askPath x.c x.slot x.sp.sec) x.l.tenant (offTarget x off) = .bad) :
    execBra off s = .next (trapped s x cBadTarget ((offTarget x off).setWidth 64)) := by
  rw [execBra, runWord_at h]
  simp only [needLast_ok hl, transferTo, checkLanding, hbad, raise, bind, Except.bind, finish_trap]

theorem execBru_jumps (h : ctxOf s = some x) (hl : LastWord x) {k : BitVec 6} (hk : Settled x.w [iS k]) {neg : BitVec 1}
    (hn : (sReg x.w k ≠ 0) ↔ neg = 0#1) {off : BitVec 14} (hgo : Lands s x (offTarget x off) u) :
    execBru neg k off s = .next (advance s x (.jump (offTarget x off) u)) := by
  rw [execBru, runWord_at h]
  simp only [needLast_ok hl, checkPending_ok hk, if_pos hn, transferTo_ok hgo, bind, Except.bind, finish_ok]

theorem execBru_stays (h : ctxOf s = some x) (hl : LastWord x) {k : BitVec 6} (hk : Settled x.w [iS k]) {neg : BitVec 1}
    (hn : (sReg x.w k = 0) ↔ neg = 0#1) (off : BitVec 14) : execBru neg k off s = .next (advance s x .seq) := by
  have hn' : ¬ ((sReg x.w k ≠ 0) ↔ neg = 0#1) := fun e => not_iff_self (e.trans hn.symm)
  rw [execBru, runWord_at h]
  simp only [needLast_ok hl, checkPending_ok hk, if_neg hn', bind, Except.bind, finish_ok]

theorem execCall_jumps (h : ctxOf s = some x) (hl : LastWord x) {k : BitVec 6} (hk : Settled x.w [iS k]) {off : BitVec 14}
    (hgo : Lands s x (offTarget x off) u) :
    execCall k off s = .next (advance (modW s x (fun w => setS w k (contVal x))) x (.jump (offTarget x off) u)) := by
  rw [execCall, runWord_at h]
  simp only [needLast_ok hl, checkPending_ok hk, transferTo_ok hgo, bind, Except.bind, finish_ok]

theorem execRet_jumps (h : ctxOf s = some x) (hl : LastWord x) {k : BitVec 6} (hk : Settled x.w [iS k])
    (hv : (sReg x.w k).toNat < 2 ^ 57) (hgo : Lands s x ((sReg x.w k).setWidth 57) u) :
    execRet k s = .next (advance s x (.jump ((sReg x.w k).setWidth 57) u)) := by
  rw [execRet, runWord_at h]
  simp only [needLast_ok hl, checkPending_ok hk, targetOf_ok hv, transferTo_ok hgo, bind, Except.bind, finish_ok]

end

/-! ## Words that go where their lanes say (R119) -/

/-- The change of the warp by a word with a link register, if it has one (R118). -/
def linkWarp (x : Ctx) (d : Option (BitVec 6)) (w : Warp) : Warp :=
  match d with
  | some k => setS w k (contVal x)
  | none => w

theorem indirect_jumps {s t u : State} {x : Ctx} {a : BitVec 7} {d : Option (BitVec 6)} {low : Nat} {un : Bool} (hl : LastWord x)
    (h : LaneReady s x [] [winName x.w a, winName x.w (a + 1)] [] [] [] t u) (hd : Settled x.w (d.toList.map iS))
    (hlow : (narrowed x).getLsbD low = true) (hfirst : ∀ l, l < low → (narrowed x).getLsbD l = false) :
    let i := laneInOf t x [winName x.w a, winName x.w (a + 1)]
    (∀ l, l < 32 → (narrowed x).getLsbD l = true → laneTarget i l = laneTarget i low) → (laneTarget i low).toNat < 2 ^ 57 →
    Lands t x ((laneTarget i low).setWidth 57) un →
    indirect s a d = .next (killGo (modW t x (linkWarp x d)) x i.kills (.jump ((laneTarget i low).setWidth 57) un)) := by
  intro i hsame hv hgo
  have hnames : Settled x.w (iNames [winName x.w a, winName x.w (a + 1)]) := by
    have := h.settled
    simp only [settled_append] at this
    exact this.1.1.1.2
  have hp : Settled x.w ((if ctxActive x = 0 then [] else iNames [winName x.w a, winName x.w (a + 1)]) ++ d.toList.map iS) := by
    rw [if_neg (narrowed_sub h.lanes)]
    exact settled_append.2 ⟨hnames, hd⟩
  have hdiff : mkMask (fun l => (narrowed x).getLsbD l && laneTarget i l != laneTarget i low) = 0 := by
    refine mkMask_eq_zero fun l hl => ?_
    cases hn : (narrowed x).getLsbD l with
    | false => rfl
    | true => simp [hsame l hl hn]
  have hnar : i.nar = narrowed x := rfl
  rw [indirect, runWord_at h.at_]
  simp only [needLast_ok hl, checkPending_ok hp, laneCheck_ok h, bind, Except.bind]
  simp only [show laneInOf t x [winName x.w a, winName x.w (a + 1)] = i from rfl, hnar, find?_lowestLane hlow hfirst, hdiff,
    bne_self_eq_false, raiseIf_false, targetOf_ok hv, transferTo_ok hgo]
  rfl

/-- With no active lane a word of this kind goes on (R119). -/
theorem indirect_stays {s : State} {x : Ctx} {a : BitVec 7} {d : Option (BitVec 6)} (h : NoLane s x) (hl : LastWord x)
    (hd : Settled x.w (d.toList.map iS)) (hact : ctxActive x = 0) : indirect s a d = .next (advance s x .seq) := by
  have hp : Settled x.w ((if ctxActive x = 0 then [] else iNames [winName x.w a, winName x.w (a + 1)]) ++ d.toList.map iS) := by
    rw [if_pos hact]
    exact hd
  refine runWord_noEffect h ?_
  simp only [needLast_ok hl, checkPending_ok hp, h.laneCheck (settled_nil _), bind, Except.bind]
  rfl

/-- Settles O21, word by word. -/
theorem transfers : Obligations.Transfers := by
  refine ⟨fun s x neg k off u h hl => ?_, fun s t u x d a low un hl h hd => ?_, fun s x d a h hl hpfx hact hd => ?_⟩
  · exact ⟨fun hgo => ⟨execBra_jumps h hl hgo, fun hk hn => execBru_jumps h hl hk hn hgo, fun hk => execCall_jumps h hl hk hgo⟩,
      fun hk hn => execBru_stays h hl hk hn off, fun hk hv hgo => execRet_jumps h hl hk hv hgo, execBra_bad h hl⟩
  · intro i at_ pc hlow hfirst hsame hv hgo go
    refine ⟨(indirect_jumps (d := none) hl h (settled_nil _) hlow hfirst hsame hv hgo).trans (congrArg _ ?_),
      indirect_jumps (d := some d) hl h hd hlow hfirst hsame hv hgo⟩
    exact killGo_modW_self t x i.kills (.jump pc un)
  · have hn : narrowed x = 0 := by rw [narrowed, hpfx]; exact hact
    have hz : zeroLanes x = 0 := by rw [zeroLanes, hpfx]
    have hno : NoLane s x := ⟨h, hn, hz, by rw [if_pos hact]; exact settled_nil _⟩
    exact ⟨indirect_stays hno hl (settled_nil _) hact, indirect_stays (d := some d) hno hl hd hact⟩

end Sys2Proof.Machine
end

section
/-! PROOF. Prefixes stand ready for their instruction (O20). -/

namespace Sys2Proof.Machine

open Sys2Proof

/-- PFXA or PFXB before an instruction that accepts it is put by (R54, R55). -/
theorem prefixWord_holds {s : State} {x : Ctx} {op : Nat} {bad : Nat → Bool} (h : ctxOf s = some x)
    (hop : prefixTarget x.sp 32 (x.sp.idx + 1) = some op) (hb : bad op = false) (f : Span → Span) :
    prefixWord s x bad f = setWarp s x.c x.slot { x.w with
      span := some { f x.sp with idx := x.sp.idx + 1, pfxAt := some (x.sp.pfxAt.getD x.sp.idx) } } := by
  simp only [prefixWord, hop, hb, Bool.not_false, if_true, holdPrefix]
  exact modWarp_at (ctxOf_warp h) _

/-- A field of PFXA or PFXB that asks for what its instruction has is no reason for ENC_PREFIX. -/
theorem field_good {asks has : Bool} (h : asks = true → has = true) : (asks && !has) = false := by
  cases asks <;> simp_all

/-- Settles O20: none of the reasons for ENC_PREFIX holds, so that PFXA or PFXB is put by. -/
theorem prefixesWaitForTheirInstruction : Obligations.PrefixesWaitForTheirInstruction := by
  intro s x op pred neg pol c cv rm sat ty h hop
  refine ⟨fun hfree hacc hzero hthird => ?_, fun hfree hacc hrm hsat hty => ?_⟩
  · have hb : (x.sp.pfxa.isSome || !acceptsA op || (pol == 2#2 && !zeroAllowed op) || (cv == 1#1 && !hasThird op)) = false := by
      simp only [hfree, hacc, Option.isSome_none, Bool.not_true, Bool.false_or, Bool.or_eq_false_iff]
      exact ⟨field_good fun e => hzero (beq_iff_eq.1 e), field_good fun e => hthird (beq_iff_eq.1 e)⟩
    simp only [exec_pfxa, execPfxa, h]
    exact congrArg _ (prefixWord_holds h hop hb _)
  · have hb : (x.sp.pfxb.isSome || !acceptsB op || (rm != 0 && !honoursRm op) || (sat == 1#1 && !honoursSat op)
        || (ty != 0xF && !honoursType op ty.toNat)) = false := by
      simp only [hfree, hacc, Option.isSome_none, Bool.not_true, Bool.false_or, Bool.or_eq_false_iff]
      exact ⟨⟨field_good fun e => hrm (bne_iff_ne.1 e), field_good fun e => hsat (beq_iff_eq.1 e)⟩,
        field_good fun e => hty (bne_iff_ne.1 e)⟩
    simp only [exec_pfxb, execPfxb, h]
    exact congrArg _ (prefixWord_holds h hop hb _)

end Sys2Proof.Machine
end

section
/-! PROOF. The bytes of loads and stores, LDG and LDU (O26). -/

namespace Sys2Proof.Machine

open Sys2Proof

/-! ## Bytes and words (R4, R179) -/

theorem toNat_append_eq {n m : Nat} (p : BitVec n) (q : BitVec m) : (p ++ q).toNat = p.toNat * 2 ^ m + q.toNat := by
  rw [BitVec.toNat_append, Nat.shiftLeft_eq, Nat.mul_comm, ← Nat.two_pow_add_eq_or_of_lt q.isLt]

theorem ofNat_leNat_one (a : Byte) (n : Nat) : BitVec.ofNat n (leNat [a]) = a.setWidth n := by
  refine BitVec.eq_of_toNat_eq ?_
  simp [leNat]

theorem ofNat_leNat_two (a b : Byte) (n : Nat) : BitVec.ofNat n (leNat [a, b]) = (b ++ a).setWidth n := by
  refine BitVec.eq_of_toNat_eq ?_
  rw [BitVec.toNat_ofNat, BitVec.toNat_setWidth, toNat_append_eq]
  simp only [leNat]
  congr 1
  omega

theorem ofNat_leNat_four (a b c d : Byte) : BitVec.ofNat 32 (leNat [a, b, c, d]) = d ++ c ++ b ++ a := by
  refine BitVec.eq_of_toNat_eq ?_
  rw [BitVec.toNat_ofNat, toNat_append_eq, toNat_append_eq, toNat_append_eq]
  simp only [leNat]
  omega

/-- Four bytes with marks, as a load takes them for a word: poisoned where one of them is marked. -/
theorem markedWord (b : Nat → Byte) (m : Nat → Bool) (j : Nat) :
    (BitVec.ofNat 32 (markedNat [(b j, m j), (b (j + 1), m (j + 1)), (b (j + 2), m (j + 2)), (b (j + 3), m (j + 3))]),
      anyMarked [(b j, m j), (b (j + 1), m (j + 1)), (b (j + 2), m (j + 2)), (b (j + 3), m (j + 3))])
      = ((b (j + 3) ++ b (j + 2) ++ b (j + 1) ++ b j : Word), m j || m (j + 1) || m (j + 2) || m (j + 3)) := by
  refine Prod.ext (ofNat_leNat_four ..) ?_
  simp [anyMarked, Bool.or_assoc]

/-- The words that a load of four bytes or more makes of a run of bytes. -/
theorem loadWords_run (b : Nat → Byte) (m : Nat → Bool) (sz n : Nat) :
    loadWords (sz + 4) ((List.range (4 * n)).map (fun j => (b j, m j))) = (List.range n).map (fun i =>
      ((b (4 * i + 3) ++ b (4 * i + 2) ++ b (4 * i + 1) ++ b (4 * i) : Word),
        m (4 * i) || m (4 * i + 1) || m (4 * i + 2) || m (4 * i + 3))) := by
  simp only [loadWords, List.length_map, List.length_range, Nat.mul_div_cancel_left n (by decide : 0 < 4)]
  refine List.map_congr_left fun i hi => ?_
  have hrun : ((List.range (4 * n)).drop (4 * i)).take 4 = [4 * i, 4 * i + 1, 4 * i + 2, 4 * i + 3] := by
    have := List.mem_range.1 hi
    rw [List.range_eq_range', List.drop_range', List.take_range'_of_length_ge (by omega), Nat.zero_add, Nat.mul_one]
    rfl
  rw [← List.map_drop, ← List.map_take, hrun]
  exact markedWord b m (4 * i)

theorem bytesOf32_eq (w : Word) : bytesOf32 w
    = [w.extractLsb' 0 8, w.extractLsb' 8 8, w.extractLsb' 16 8, w.extractLsb' 24 8] := by
  have h (k n : Nat) (hk : w.toNat / 2 ^ n = k) : BitVec.ofNat 8 k = w.extractLsb' n 8 := by
    refine BitVec.eq_of_toNat_eq ?_
    rw [BitVec.extractLsb'_toNat, BitVec.toNat_ofNat, Nat.shiftRight_eq_div_pow, hk]
  simp only [bytesOf32, leBytes]
  rw [h _ 0 (by omega), h _ 8 (by omega), h _ 16 (by omega), h _ 24 (by omega)]

/-- What a load makes of its bytes and a store of its words (R179). -/
theorem load_and_store_values (b : Nat → Byte) (m : Nat → Bool) (v : Nat) (i : LaneIn) (k l : Nat) :
    let by_ (n : Nat) : List (Byte × Bool) := (List.range n).map (fun j => (b j, m j))
    let word (j : Nat) : Word × Bool :=
      (b (j + 3) ++ b (j + 2) ++ b (j + 1) ++ b j, m j || m (j + 1) || m (j + 2) || m (j + 3))
    loadWords 0 (by_ 1) = [((b 0).setWidth 32, m 0)]
    ∧ loadWords 1 (by_ 1) = [((b 0).signExtend 32, m 0)]
    ∧ loadWords 2 (by_ 2) = [((b 1 ++ b 0).setWidth 32, m 0 || m 1)]
    ∧ loadWords 3 (by_ 2) = [((b 1 ++ b 0).signExtend 32, m 0 || m 1)]
    ∧ loadWords 4 (by_ 4) = [word 0]
    ∧ loadWords 5 (by_ 8) = [word 0, word 4]
    ∧ loadWords 6 (by_ 16) = [word 0, word 4, word 8, word 12]
    ∧ storeBytes i k 0 l = [(i.src k l).extractLsb' 0 8]
    ∧ storeBytes i k 2 l = [(i.src k l).extractLsb' 0 8, (i.src k l).extractLsb' 8 8]
    ∧ storeBytes i k 4 l = bytesOf32 (i.src k l)
    ∧ storeBytes i k 5 l = bytesOf32 (i.src k l) ++ bytesOf32 (i.src (k + 1) l)
    ∧ lduValue 1 v = (BitVec.ofNat 8 v).signExtend 64 ∧ lduValue 3 v = (BitVec.ofNat 16 v).signExtend 64
    ∧ lduValue 4 v = BitVec.ofNat 64 v := by
  intro by_ word
  refine ⟨?_, ?_, ?_, ?_, ?_, ?_, ?_, ?_, ?_, ?_, ?_, rfl, rfl, rfl⟩
  · change [(BitVec.ofNat 32 (leNat [b 0]), m 0 || false)] = _
    rw [ofNat_leNat_one, Bool.or_false]
  · change [((BitVec.ofNat 8 (leNat [b 0])).signExtend 32, m 0 || false)] = _
    rw [ofNat_leNat_one, Bool.or_false, BitVec.setWidth_eq]
  · change [(BitVec.ofNat 32 (leNat [b 0, b 1]), m 0 || (m 1 || false))] = _
    rw [ofNat_leNat_two, Bool.or_false]
  · change [((BitVec.ofNat 16 (leNat [b 0, b 1])).signExtend 32, m 0 || (m 1 || false))] = _
    rw [ofNat_leNat_two, Bool.or_false, BitVec.setWidth_eq]
  · exact loadWords_run b m 0 1
  · exact loadWords_run b m 1 2
  · exact loadWords_run b m 2 4
  all_goals simp [storeBytes, szNames, szBytes, bytesOf32_eq, List.range_succ]

/-! ## LDG and LDU (R45, R183, R184) -/

section

variable {s t u : State} {x : Ctx}

/-- LDG whose access can be made: the values that its warp sees are bound at issue (R45, R183). -/
theorem execLdg_issues {d a : BitVec 7} {scope sz : BitVec 3} {ord : BitVec 1} (hg : groupMissing x.w scope.toNat = false) :
    let n := szBytes sz.toNat
    let srcs := winRun x.w a 2
    let names := winRun x.w d (szNames sz.toNat)
    let q := accsOf t x srcs
    let ls := accLines t x q.accs n
    let v := touchLines u x ls true
    AccessReady s x srcs names n false .read true false t u → keptBack t x true = false → LinesFree t x ls →
    execLdg d a scope ord sz s = .next (longDone v x (iNames names) .value
      (laneWrites names q.i q.addrBad (fun l => loadWords sz.toNat (viewBytes t x (pairAddr q.i l) n)))
      [] (fetchingOf v x ls) none q.addrBad) := by
  dsimp only
  intro h hkept hfree
  obtain ⟨t₀, u₀, h₀, h₁⟩ := h.walked
  have hnar : (accsOf t x (winRun x.w a 2)).i.nar ≠ 0 := h₁.lanes
  have hsplit : splitNames t x ((accsOf t x (winRun x.w a 2)).i.nar ||| (accsOf t x (winRun x.w a 2)).i.zero)
      (winRun x.w d (szNames sz.toNat)) = .ok u := h₁.split
  rw [execLdg, runMem_at h₀.at_]
  simp only [ldgLanes_ok hg h₀, ldgLanes_ok hg h₁, if_neg hnar, checkAccs_ok h.good, hkept, parkIf_false, waitLines_ok hfree,
    hsplit, bind, Except.bind]
  exact finish_done ..

/-- LDU with an empty ACTIVE makes no access (R121, R184). -/
theorem execLdu_empty {k j : BitVec 6} {scope sz : BitVec 3} {ord : BitVec 1} (h : ctxOf s = some x) (ha : ctxActive x = 0)
    (hp : Settled x.w [iS j, iS k]) : execLdu k j scope ord sz s = .next (advance (markPending s x [iS k]) x .seq) := by
  have hc : lduCheck x k j scope = .ok () := by simp [lduCheck, ha, checkPending_ok hp]
  rw [execLdu, runMem_at h]
  simp only [hc, ha, if_true, bind, Except.bind, finish_ok]

/-- LDU whose access can be made: zero, and the end of the warp, where a byte is uncorrectable (R184). -/
theorem execLdu_issues {k j : BitVec 6} {scope sz : BitVec 3} {ord : BitVec 1} (hg : groupMissing x.w scope.toNat = false) :
    let va := (sReg x.w j).toNat
    let n := szBytes sz.toNat
    let ls := accLines t x [(0, va)] n
    let v := touchLines t x ls true
    let b := viewBytes t x va n
    ScalarAccessReady s x va n .read true t → ctxActive x ≠ 0 → Settled x.w [iS j, iS k] →
    keptBack t x true = false → LinesFree t x ls →
    execLdu k j scope ord sz s = .next (advance (issueLong v x [iS k] .value []
      [(k.toNat, if anyMarked b then 0 else lduValue sz.toNat (markedNat b))] (fetchingOf v x ls)
      (if anyMarked b then some (trapAddr x.sp) else none)).2 x .seq) := by
  dsimp only
  intro h ha hp hkept hfree
  have hc : lduCheck x k j scope = .ok () := by simp [lduCheck, checkScope_ok hg, checkPending_ok hp, bind, Except.bind]
  have hacc : checkAccs t x [(0, (sReg x.w j).toNat)] (szBytes sz.toNat) false .read = .ok () := checkAccs_ok (by simpa using h.good)
  rw [execLdu, runMem_at h.at_]
  simp only [hc, if_neg ha, ← h.walked, hacc, hkept, parkIf_false, waitLines_ok hfree, bind, Except.bind, finish_ok]

end

/-- Settles O26: the values by size, then LDG and LDU. -/
theorem globalLoads : Obligations.GlobalLoads := by
  refine ⟨fun b m v i k l => load_and_store_values b m v i k l, fun s t u x d a k j scope sz ord hg => ?_⟩
  refine ⟨execLdg_issues (ord := ord) hg, fun h ha hp hkept hfree => ?_, execLdu_empty (ord := ord)⟩
  have hldu := execLdu_issues (k := k) (ord := ord) hg h ha hp hkept hfree
  exact ⟨fun hb => by rw [hb] at hldu; exact hldu, fun hb => by rw [hb] at hldu; exact hldu⟩

end Sys2Proof.Machine
end

section
/-! PROOF. A step does not run the word of a parked span whose issue slot is taken (O57). -/

namespace Sys2Proof.Machine

open Sys2Proof

/-- Warp slots 0 and 4 of core 0, which share issue slot 0, each with NOP in issue; the span of slot 0 is parked, and its turn is
next. -/
def parkedBehindBusySlot : State :=
  let s := placeWord State.reset nopWord 0
  let park (w : Warp) : Warp := { w with span := w.span.map (fun sp => { sp with parked := true }) }
  match warpOf? s 0 0 with
  | some w => setWarp (modWarp s 0 0 park) 0 4 w
  | none => s

/-- The state in which the turn is taken. -/
def parkedTurn : State := { parkedBehindBusySlot with agenda := [], cur := (0, 0) }

theorem parkedTurn_inSpan : (ctxOf parkedTurn).isSome = true := by decide +kernel

/-- The place of the parked word. -/
def parkedCtx : Ctx := (ctxOf parkedTurn).get parkedTurn_inSpan

/-- Which word of its span comes next in warp slot 0 of core 0. -/
def nextWord : Host.Outcome State Fault Refusal → Option Nat
  | .next t => (warpOf? t 0 0).bind (fun w => w.span.map (·.idx))
  | _ => none

/-- The step leaves the parked span where it stands (R309). -/
theorem nextWord_step : nextWord (step parkedBehindBusySlot) = some 1 := by decide +kernel

/-- Refutes O57: a parked span goes on only when its issue slot is free (R309, notes/assumptions/58.md), so a step whose turn is a
NOP in a parked span stays before it while another warp of the issue slot has a span in issue; `exec` goes past it. The statement
excludes a warp that BKPT has stopped, but not such a one. -/
theorem not_stepRunsTheWord : ¬ Obligations.StepRunsTheWord := by
  intro h
  obtain ⟨hword, -⟩ := h parkedBehindBusySlot 0 0 parkedCtx []
  obtain ⟨-, -, hplain⟩ := hword (by decide +kernel) (Option.some_get _).symm (by decide +kernel)
  obtain ⟨-, hrun⟩ := hplain (by decide +kernel)
  obtain ⟨-, -, hstep⟩ := hrun .nop (by decide +kernel)
  have hnext := congrArg nextWord (hstep (by decide +kernel) (by decide +kernel))
  rw [nextWord_step] at hnext
  exact absurd hnext (by decide +kernel)

end Sys2Proof.Machine
end

section
/-! PROOF. Codes and the numbers that they stand for, and rounding an exact number once (R61 to R68). -/

namespace Sys2Proof.Machine

open Sys2Proof

/-! ## Rounding to a whole number (R65) -/

section

variable {rm : Rm} {neg : Bool} {n : ℝ} {k : ℕ}

theorem wholeRound_natCast (rm : Rm) (neg : Bool) (k : ℕ) : WholeRound rm neg k k := by
  cases rm <;> cases neg <;> simp [WholeRound]
  all_goals norm_num

/-- What is rounded to a whole number stays at or above a whole number below it. -/
theorem wholeRound_ge (h : WholeRound rm neg n k) {a : ℕ} (ha : (a : ℝ) ≤ n) : a ≤ k := by
  suffices (a : ℝ) < k + 1 by exact_mod_cast Nat.lt_succ_iff.1 (by exact_mod_cast this)
  cases rm with
  | rne => linarith [(abs_le.1 h.1).2]
  | rtz => linarith [h.2]
  | rna => linarith [h.2]
  | rup => cases neg <;> simp only [WholeRound, if_true, Bool.false_eq_true, if_false] at h <;> linarith [h.1, h.2]
  | rdn => cases neg <;> simp only [WholeRound, if_true, Bool.false_eq_true, if_false] at h <;> linarith [h.1, h.2]

theorem wholeRound_le (h : WholeRound rm neg n k) {b : ℕ} (hb : n ≤ b) : k ≤ b := by
  suffices (k : ℝ) < b + 1 by exact_mod_cast Nat.lt_succ_iff.1 (by exact_mod_cast this)
  cases rm with
  | rne => linarith [(abs_le.1 h.1).1]
  | rtz => linarith [h.1]
  | rna => linarith [h.1]
  | rup => cases neg <;> simp only [WholeRound, if_true, Bool.false_eq_true, if_false] at h <;> linarith [h.1, h.2]
  | rdn => cases neg <;> simp only [WholeRound, if_true, Bool.false_eq_true, if_false] at h <;> linarith [h.1, h.2]

/-- Under RNE two numbers next to each other cannot both be the nearest even. -/
theorem wholeRound_rne_le {k' : ℕ} (h : WholeRound .rne neg n k) (h' : WholeRound .rne neg n k') : k ≤ k' := by
  by_contra hlt
  obtain ⟨hd, he⟩ := h
  obtain ⟨hd', he'⟩ := h'
  have hk : (k' : ℝ) + 1 ≤ k := by exact_mod_cast Nat.lt_of_not_le hlt
  have h1 := abs_le.1 hd
  have h2 := abs_le.1 hd'
  have e1 : k % 2 = 0 := he (by rw [abs_of_nonpos (by linarith)]; linarith)
  have e2 : k' % 2 = 0 := he' (by rw [abs_of_nonneg (by linarith)]; linarith)
  have : k = k' + 1 := by
    have : (k : ℝ) = k' + 1 := by linarith
    exact_mod_cast this
  omega

theorem wholeRound_rne_unique {k' : ℕ} (h : WholeRound .rne neg n k) (h' : WholeRound .rne neg n k') : k = k' :=
  Nat.le_antisymm (wholeRound_rne_le h h') (wholeRound_rne_le h' h)

/-- A whole number `fl` and a proper fraction of `2 * half` parts, rounded: up to the next as each mode says. -/
theorem wholeRound_fraction (rm : Rm) (neg : Bool) (fl rem half : ℕ) (hrem : rem < 2 * half) :
    WholeRound rm neg (fl + rem / (2 * half : ℕ))
      (if (match rm with
        | .rne => decide (rem > half) || (rem == half && fl % 2 == 1)
        | .rna => decide (rem ≥ half)
        | .rtz => false
        | .rup => !neg && decide (rem > 0)
        | .rdn => neg && decide (rem > 0)) then fl + 1 else fl) := by
  have hh : (0 : ℝ) < half := by exact_mod_cast (by omega : 0 < half)
  have hr : (rem : ℝ) < 2 * half := by exact_mod_cast hrem
  have hr0 : (0 : ℝ) ≤ rem := by positivity
  obtain ⟨θ, hθ⟩ : ∃ θ : ℝ, (rem : ℝ) / (2 * half : ℕ) = θ := ⟨_, rfl⟩
  have hθm : (rem : ℝ) = 2 * θ * half := by rw [← hθ]; push_cast; field_simp
  have h0 : 0 ≤ θ := by rw [← hθ]; positivity
  have h1 : θ < 1 := by nlinarith
  have hpos : 0 < rem ↔ 0 < θ := by
    rw [← Nat.cast_pos (α := ℝ), hθm]
    exact ⟨fun h => by nlinarith, fun h => by positivity⟩
  have hge : half ≤ rem ↔ 1 / 2 ≤ θ := by
    rw [← Nat.cast_le (α := ℝ), hθm]
    exact ⟨fun h => by nlinarith, fun h => by nlinarith⟩
  have hgt : half < rem ↔ 1 / 2 < θ := by
    rw [← Nat.cast_lt (α := ℝ), hθm]
    exact ⟨fun h => by nlinarith, fun h => by nlinarith⟩
  have heq : rem = half ↔ θ = 1 / 2 := by
    rw [← Nat.cast_inj (R := ℝ), hθm]
    exact ⟨fun h => by nlinarith, fun h => by rw [h]; ring⟩
  rw [hθ]
  cases rm with
  | rne =>
    by_cases hup : 1 / 2 < θ ∨ θ = 1 / 2 ∧ fl % 2 = 1
    · have : (decide (rem > half) || (rem == half && fl % 2 == 1)) = true := by
        simpa [hgt, heq] using hup
      simp only [this, if_true, WholeRound]
      have habs : |(fl : ℝ) + θ - ((fl + 1 : ℕ) : ℝ)| = 1 - θ := by
        push_cast; rw [abs_of_nonpos (by linarith)]; ring
      rw [habs]
      rcases hup with hu | ⟨hu, hodd⟩
      · exact ⟨by linarith, fun h => by exfalso; linarith⟩
      · exact ⟨by linarith, fun _ => Nat.succ_mod_two_eq_zero_iff.2 hodd⟩
    · have : (decide (rem > half) || (rem == half && fl % 2 == 1)) = false := by
        simpa [hgt, heq] using hup
      simp only [this, Bool.false_eq_true, if_false, WholeRound]
      push Not at hup
      rw [add_sub_cancel_left, abs_of_nonneg h0]
      exact ⟨hup.1, fun h => by have := hup.2 h; omega⟩
  | rtz => simp only [WholeRound, Bool.false_eq_true, if_false]; constructor <;> linarith
  | rna =>
    by_cases hup : 1 / 2 ≤ θ
    · simp only [WholeRound, ge_iff_le, hge, hup, decide_true, if_true]
      push_cast
      constructor <;> linarith
    · simp only [WholeRound, ge_iff_le, hge, hup, decide_false, Bool.false_eq_true, if_false]
      constructor <;> linarith
  | rup =>
    cases neg with
    | true => simp only [WholeRound, Bool.not_true, Bool.false_and, Bool.false_eq_true, if_true, if_false]; constructor <;> linarith
    | false =>
      by_cases hup : 0 < θ
      · simp only [WholeRound, gt_iff_lt, hpos, hup, Bool.not_false, Bool.true_and, decide_true, if_true, Bool.false_eq_true, if_false]
        push_cast
        constructor <;> linarith
      · simp only [WholeRound, gt_iff_lt, hpos, hup, Bool.not_false, Bool.true_and, decide_false, Bool.false_eq_true, if_false]
        constructor <;> linarith
  | rdn =>
    cases neg with
    | false => simp only [WholeRound, Bool.false_and, Bool.false_eq_true, if_false]; constructor <;> linarith
    | true =>
      by_cases hup : 0 < θ
      · simp only [WholeRound, gt_iff_lt, hpos, hup, Bool.true_and, decide_true, if_true]
        push_cast
        constructor <;> linarith
      · simp only [WholeRound, gt_iff_lt, hpos, hup, Bool.true_and, decide_false, Bool.false_eq_true, if_true, if_false]
        constructor <;> linarith

end

/-! ## The machine's rounding to a whole number of a power of two -/

/-- A magnitude over a power of two above its own: the whole part and the rest. -/
theorem magnitude_split (m : ℕ) (e q : ℤ) (h : e < q) :
    (m : ℝ) * 2 ^ e / 2 ^ q = (m / 2 ^ (q - e).toNat : ℕ) + ((m % 2 ^ (q - e).toNat : ℕ) : ℝ) / (2 * 2 ^ ((q - e).toNat - 1) : ℕ) := by
  obtain ⟨sh, hsh⟩ : ∃ sh : ℕ, q = e + (sh + 1 : ℕ) := ⟨(q - e).toNat - 1, by omega⟩
  have ht : (q - e).toNat = sh + 1 := by omega
  rw [ht, hsh, Nat.add_sub_cancel, zpow_add₀ two_ne_zero, zpow_natCast, ← pow_succ' 2 sh]
  have hm : (m : ℝ) = 2 ^ (sh + 1) * (m / 2 ^ (sh + 1) : ℕ) + (m % 2 ^ (sh + 1) : ℕ) := by
    exact_mod_cast (Nat.div_add_mod m (2 ^ (sh + 1))).symm
  have h2 : (2 : ℝ) ^ e ≠ 0 := by positivity
  push_cast at hm ⊢
  field_simp
  linarith

theorem magnitude_whole (m : ℕ) (e q : ℤ) (h : q ≤ e) : (m : ℝ) * 2 ^ e / 2 ^ q = (m * 2 ^ (e - q).toNat : ℕ) := by
  obtain ⟨d, rfl⟩ : ∃ d : ℕ, e = q + d := ⟨(e - q).toNat, by omega⟩
  have ht : (q + d - q).toNat = d := by omega
  rw [ht, zpow_add₀ two_ne_zero, zpow_natCast]
  push_cast
  field_simp

theorem wholeRound_roundAt (rm : Rm) (neg : Bool) (m : ℕ) (e q : ℤ) :
    WholeRound rm neg (m * 2 ^ e / 2 ^ q) (roundAt rm neg m e q) := by
  unfold roundAt
  split
  · rename_i h
    rw [magnitude_whole m e q h]
    exact wholeRound_natCast ..
  · rename_i h
    have hs : (q - e).toNat - 1 + 1 = (q - e).toNat := by omega
    rw [magnitude_split m e q (by omega)]
    exact wholeRound_fraction rm neg _ _ _ (by rw [← pow_succ', hs]; exact Nat.mod_lt _ (by positivity))

/-- Whether a magnitude is a whole number of a power of two, as the machine finds it. -/
theorem roundAt_exact_iff (rm : Rm) (neg : Bool) (m : ℕ) (e q : ℤ) :
    (roundAt rm neg m e q : ℝ) * 2 ^ q = m * 2 ^ e ↔ (decide (q ≤ e) || m % 2 ^ (q - e).toNat == 0) = true := by
  have hq : (2 : ℝ) ^ q ≠ 0 := by positivity
  rw [← eq_div_iff hq]
  by_cases h : q ≤ e
  · simp [h, magnitude_whole m e q h, roundAt]
  · have hw := wholeRound_roundAt rm neg m e q
    have hs : (q - e).toNat - 1 + 1 = (q - e).toNat := by omega
    have hr : m % 2 ^ (q - e).toNat < 2 * 2 ^ ((q - e).toNat - 1) := by
      rw [← pow_succ', hs]; exact Nat.mod_lt _ (by positivity)
    rw [magnitude_split m e q (by omega)] at hw ⊢
    generalize m % 2 ^ (q - e).toNat = rem at *
    generalize 2 * 2 ^ ((q - e).toNat - 1) = D at *
    generalize m / 2 ^ (q - e).toNat = fl at *
    generalize roundAt rm neg m e q = k at *
    have hD : (rem : ℝ) < D := by exact_mod_cast hr
    have hD0 : (0 : ℝ) < D := lt_of_le_of_lt (Nat.cast_nonneg rem) hD
    have hlt : (rem : ℝ) / D < 1 := (div_lt_one hD0).2 hD
    simp only [h, decide_false, Bool.false_or, beq_iff_eq]
    constructor
    · intro hk
      have h1 : (fl : ℝ) ≤ k := by rw [hk]; linarith [show (0 : ℝ) ≤ rem / D by positivity]
      have h2 : (k : ℝ) < fl + 1 := by rw [hk]; linarith
      have h3 : k = fl := by
        have h1' : fl ≤ k := by exact_mod_cast h1
        have h2' : k < fl + 1 := by exact_mod_cast h2
        omega
      rw [h3] at hk
      have : (rem : ℝ) / D = 0 := by linarith
      simpa [hD0.ne'] using this
    · rintro rfl
      have h1 := wholeRound_ge hw (a := fl) (by simp)
      have h2 := wholeRound_le hw (b := fl) (by simp)
      simp [Nat.le_antisymm h2 h1]

end Sys2Proof.Machine
end

section
/-! PROOF. What a code stands for, and the codes of given numbers (R61, R63). -/

namespace Sys2Proof.Machine

open Sys2Proof

/-- The number of a finite value. -/
noncomputable def FVal.num : FVal → ℝ
  | .fin neg m e => (if neg then -1 else 1) * (m * 2 ^ e)
  | _ => 0

@[simp] theorem FVal.num_fin (neg : Bool) (m : ℕ) (e : ℤ) :
    (FVal.fin neg m e).num = (if neg then -1 else 1) * (m * 2 ^ e) := rfl

theorem FVal.num_fin_eq_zero {neg : Bool} {m : ℕ} {e : ℤ} : (FVal.fin neg m e).num = 0 ↔ m = 0 := by
  cases neg <;> simp [FVal.num, zpow_ne_zero]

theorem FVal.abs_num_fin (neg : Bool) (m : ℕ) (e : ℤ) : |(FVal.fin neg m e).num| = m * 2 ^ e := by
  have h : (0 : ℝ) ≤ m * 2 ^ e := by positivity
  cases neg <;> simp [FVal.num, abs_of_nonneg h]

theorem FVal.num_fin_neg {neg : Bool} {m : ℕ} {e : ℤ} (hm : m ≠ 0) : decide ((FVal.fin neg m e).num < 0) = neg := by
  have h : (0 : ℝ) < m * 2 ^ e := by positivity
  cases neg <;> simp [FVal.num, h, h.le]

/-! ## Codes -/

/-- What a code is (R61). -/
theorem unpack_eq (f : Fmt) (c : ℕ) : unpack f c =
    if codeNan f c then .nan else if codeInf f c then .inf (codeNeg f c)
    else if codeExp f c = 0 then .fin (codeNeg f c) (codeFrac f c) (f.minExp - f.mBits)
    else .fin (codeNeg f c) (2 ^ f.mBits + codeFrac f c) ((codeExp f c : ℤ) - f.bias - f.mBits) := by
  change (if codeExp f c = 2 ^ (f.width - 1 - f.mBits) - 1 ∧ (f ≠ .e4m3 ∨ codeFrac f c = 7) then
      (if codeFrac f c = 0 then FVal.inf (codeNeg f c) else FVal.nan)
    else if codeExp f c = 0 then FVal.fin (codeNeg f c) (codeFrac f c) (f.minExp - f.mBits)
    else FVal.fin (codeNeg f c) (2 ^ f.mBits + codeFrac f c) ((codeExp f c : ℤ) - f.bias - f.mBits)) = _
  unfold codeNan codeInf
  by_cases hexp : codeExp f c = 2 ^ (f.width - 1 - f.mBits) - 1
  · by_cases he : f = .e4m3
    · subst he
      by_cases h7 : codeFrac .e4m3 c = 7 <;> simp [hexp, h7]
    · by_cases hz : codeFrac f c = 0 <;> simp [hexp, he, hz]
  · simp [hexp]

theorem unpack_nan {f : Fmt} {c : ℕ} (h : codeNan f c = true) : unpack f c = .nan := by simp [unpack_eq, h]

theorem codeInf_of_codeNan {f : Fmt} {c : ℕ} (h : codeNan f c = true) : codeInf f c = false := by
  cases f <;> simp_all [codeNan, codeInf]

theorem unpack_inf {f : Fmt} {c : ℕ} (h : codeInf f c = true) : unpack f c = .inf (codeNeg f c) := by
  have : codeNan f c = false := by
    by_contra hn
    simp [codeInf_of_codeNan (by simpa using hn)] at h
  simp [unpack_eq, h, this]

theorem codeNum_cast (f : Fmt) (c : ℕ) : (codeNum f c : ℝ) = (if codeNeg f c then -1 else 1)
    * (if codeExp f c = 0 then (codeFrac f c : ℝ) / 2 ^ f.mBits * 2 ^ f.minExp
      else (1 + (codeFrac f c : ℝ) / 2 ^ f.mBits) * 2 ^ ((codeExp f c : ℤ) - f.bias)) := by
  unfold codeNum
  split <;> split <;> push_cast <;> rfl

@[simp] theorem isNan_eq (f : Fmt) (c : ℕ) : isNan f c = codeNan f c := by
  unfold isNan
  rw [unpack_eq]
  cases codeNan f c
  · simp only [Bool.false_eq_true, if_false]
    split
    · rfl
    · split <;> rfl
  · rfl

@[simp] theorem isSignalling_eq (f : Fmt) (c : ℕ) : isSignalling f c = codeSig f c := by
  have hq (hf : 0 < f.mBits) : (!c.testBit (f.mBits - 1)) = decide (codeFrac f c < 2 ^ (f.mBits - 1)) := by
    have hk : c.testBit (f.mBits - 1) = (codeFrac f c).testBit (f.mBits - 1) := by
      rw [codeFrac, Nat.testBit_mod_two_pow]; simp [hf]
    have hlt : codeFrac f c < 2 ^ (f.mBits - 1) * 2 := by
      rw [← pow_succ, Nat.sub_add_cancel hf]; exact Nat.mod_lt _ (by positivity)
    rw [hk, Nat.testBit_eq_decide_div_mod_eq, ← decide_not, decide_eq_decide]
    rw [Nat.mod_eq_of_lt (Nat.div_lt_of_lt_mul hlt)]
    rcases Nat.lt_or_ge (codeFrac f c) (2 ^ (f.mBits - 1)) with h | h
    · simp [Nat.div_eq_of_lt h, h]
    · have : codeFrac f c / 2 ^ (f.mBits - 1) = 1 := Nat.div_eq_of_lt_le (by omega) (by omega)
      simp [this, h]
  have hn : (unpack f c == .nan) = codeNan f c := isNan_eq f c
  rw [isSignalling, codeSig, hn, hq (by cases f <;> decide)]

theorem codeNan_of_codeSig {f : Fmt} {c : ℕ} (h : codeSig f c = true) : codeNan f c = true := by
  simp only [codeSig, Bool.and_eq_true] at h
  exact h.1.2

theorem codeSig_of_not_codeNan {f : Fmt} {c : ℕ} (h : codeNan f c = false) : codeSig f c = false := by
  by_contra hs
  simp [codeNan_of_codeSig (by simpa using hs)] at h

/-! ## A sign and a magnitude -/

/-- A code of a sign and a magnitude. -/
theorem codeNeg_signBits (f : Fmt) (neg : Bool) {t : ℕ} (h : t < 2 ^ (f.width - 1)) : codeNeg f (signBits f neg + t) = neg := by
  unfold codeNeg signBits
  cases neg
  · simp [Nat.testBit_lt_two_pow h]
  · simp [Nat.testBit_two_pow_add_eq, Nat.testBit_lt_two_pow h]

theorem signBits_add_mod (f : Fmt) (neg : Bool) {t : ℕ} (h : t < 2 ^ (f.width - 1)) :
    (signBits f neg + t) % 2 ^ (f.width - 1) = t := by
  cases neg <;> simp [signBits, Nat.mod_eq_of_lt h]

/-- Every code is one of a sign and a magnitude. -/
theorem signBits_codeNeg (f : Fmt) {c : ℕ} (h : c < 2 ^ f.width) : signBits f (codeNeg f c) + c % 2 ^ (f.width - 1) = c := by
  have hw : 2 ^ f.width = 2 * 2 ^ (f.width - 1) := by cases f <;> rfl
  have hd : c / 2 ^ (f.width - 1) < 2 := Nat.div_lt_of_lt_mul (by rwa [Nat.mul_comm, ← hw])
  have hm := Nat.div_add_mod c (2 ^ (f.width - 1))
  unfold signBits codeNeg
  rw [Nat.testBit_eq_decide_div_mod_eq, Nat.mod_eq_of_lt hd]
  rcases Nat.lt_succ_iff_lt_or_eq.1 hd with h | h
  · simpa [Nat.lt_one_iff.1 h] using hm
  · simpa [h] using hm

/-- The exponent field and the fraction are those of the magnitude. -/
theorem codeExp_mod (f : Fmt) (c : ℕ) : codeExp f c = c % 2 ^ (f.width - 1) / 2 ^ f.mBits := by
  cases f <;> simp only [codeExp, Fmt.width, Fmt.mBits] <;> omega

theorem codeFrac_mod (f : Fmt) (c : ℕ) : codeFrac f c = c % 2 ^ (f.width - 1) % 2 ^ f.mBits := by
  cases f <;> simp only [codeFrac, Fmt.width, Fmt.mBits] <;> omega

theorem codeExp_signBits (f : Fmt) (neg : Bool) {t : ℕ} (h : t < 2 ^ (f.width - 1)) :
    codeExp f (signBits f neg + t) = t / 2 ^ f.mBits := by rw [codeExp_mod, signBits_add_mod f neg h]

theorem codeFrac_signBits (f : Fmt) (neg : Bool) {t : ℕ} (h : t < 2 ^ (f.width - 1)) :
    codeFrac f (signBits f neg + t) = t % 2 ^ f.mBits := by rw [codeFrac_mod, signBits_add_mod f neg h]

theorem maxBits_lt (f : Fmt) : f.maxBits < 2 ^ (f.width - 1) := by cases f <;> decide

theorem signBits_add_lt (f : Fmt) (neg : Bool) {t : ℕ} (h : t < 2 ^ (f.width - 1)) : signBits f neg + t < 2 ^ f.width := by
  have hw : 2 ^ f.width = 2 * 2 ^ (f.width - 1) := by cases f <;> rfl
  unfold signBits
  split <;> omega

/-- Magnitudes up to the largest are of finite numbers. -/
theorem codeNan_signBits {f : Fmt} (neg : Bool) {t : ℕ} (h : t ≤ f.maxBits) : codeNan f (signBits f neg + t) = false := by
  have hlt := Nat.lt_of_le_of_lt h (maxBits_lt f)
  rw [codeNan, codeExp_signBits f neg hlt, codeFrac_signBits f neg hlt]
  cases f <;> simp [Fmt.maxBits, Fmt.mBits, Fmt.width] at h ⊢ <;> omega

theorem codeInf_signBits {f : Fmt} (neg : Bool) {t : ℕ} (h : t ≤ f.maxBits) : codeInf f (signBits f neg + t) = false := by
  have hlt := Nat.lt_of_le_of_lt h (maxBits_lt f)
  rw [codeInf, codeExp_signBits f neg hlt, codeFrac_signBits f neg hlt]
  cases f <;> simp [Fmt.maxBits, Fmt.mBits, Fmt.width] at h ⊢ <;> omega

/-- A finite code's magnitude is at most the largest. -/
theorem magnitude_le_maxBits {f : Fmt} {c : ℕ} (hn : codeNan f c = false) (hi : codeInf f c = false) :
    c % 2 ^ (f.width - 1) ≤ f.maxBits := by
  rw [codeNan, codeExp_mod, codeFrac_mod] at hn
  rw [codeInf, codeExp_mod, codeFrac_mod] at hi
  cases f <;> simp [Fmt.maxBits, Fmt.mBits, Fmt.width] at hn hi ⊢ <;> omega

/-- A finite code: its sign, an integer times a power of two. -/
theorem unpack_fin {f : Fmt} {c : ℕ} (hn : codeNan f c = false) (hi : codeInf f c = false) :
    ∃ m e, unpack f c = .fin (codeNeg f c) m e ∧ (FVal.fin (codeNeg f c) m e).num = codeNum f c ∧ (m = 0 ↔ codeZero f c = true)
      ∧ m < 2 ^ (f.mBits + 1) ∧ f.minExp - f.mBits ≤ e ∧ e ≤ f.maxExp := by
  have hfrac : codeFrac f c < 2 ^ f.mBits := Nat.mod_lt _ (by positivity)
  have h2 : (2 : ℝ) ^ f.mBits ≠ 0 := by positivity
  by_cases h0 : codeExp f c = 0
  · refine ⟨codeFrac f c, f.minExp - f.mBits, by simp [unpack_eq, hn, hi, h0], ?_, by simp [codeZero, h0], by rw [pow_succ]; omega,
      le_refl _, by cases f <;> decide⟩
    rw [FVal.num_fin, codeNum_cast, if_pos h0, zpow_sub₀ two_ne_zero, zpow_natCast]
    field_simp
  · refine ⟨2 ^ f.mBits + codeFrac f c, (codeExp f c : ℤ) - f.bias - f.mBits, by simp [unpack_eq, hn, hi, h0], ?_,
      by simp [codeZero, h0], by rw [pow_succ]; omega, by rw [Fmt.minExp]; omega, ?_⟩
    · rw [FVal.num_fin, codeNum_cast, if_neg h0, zpow_sub₀ two_ne_zero ((codeExp f c : ℤ) - f.bias), zpow_natCast]
      push_cast
      field_simp
    · have hexp : codeExp f c ≤ f.maxBits / 2 ^ f.mBits := by
        rw [codeExp_mod]
        exact Nat.div_le_div_right (magnitude_le_maxBits hn hi)
      have hmax : ((f.maxBits / 2 ^ f.mBits : ℕ) : ℤ) - f.bias - f.mBits ≤ f.maxExp := by cases f <;> decide
      omega

/-- The number of a magnitude of `d` binades above the lowest and a significand `k`. -/
theorem abs_codeNum_signBits {f : Fmt} (neg : Bool) {d k : ℕ} (hk : k ≤ 2 ^ (f.mBits + 1)) (hd : d = 0 ∨ 2 ^ f.mBits ≤ k)
    (ht : d * 2 ^ f.mBits + k < 2 ^ (f.width - 1)) :
    |(codeNum f (signBits f neg + (d * 2 ^ f.mBits + k)) : ℝ)| = k * 2 ^ (f.minExp - f.mBits + d) := by
  have hM : 0 < 2 ^ f.mBits := by positivity
  have h2 : (2 : ℝ) ^ f.mBits ≠ 0 := by positivity
  have habs (x : ℝ) : |(if neg then -1 else 1 : ℝ) * x| = |x| := by cases neg <;> simp
  have hkm := Nat.div_add_mod k (2 ^ f.mBits)
  have hq2 : k / 2 ^ f.mBits ≤ 2 := Nat.div_le_of_le_mul (by rw [pow_succ] at hk; omega)
  rw [codeNum_cast, codeNeg_signBits f neg ht, codeExp_signBits f neg ht, codeFrac_signBits f neg ht, habs,
    Nat.add_comm (d * _), Nat.add_mul_div_right _ _ hM, Nat.add_mul_mod_self_right]
  generalize hq : k / 2 ^ f.mBits = q at *
  generalize hr : k % 2 ^ f.mBits = r at *
  have hkr : (k : ℝ) = 2 ^ f.mBits * q + r := by exact_mod_cast hkm.symm
  have hscale : (2 : ℝ) ^ (f.minExp - f.mBits + d) = 2 ^ f.minExp / 2 ^ f.mBits * 2 ^ d := by
    rw [zpow_add₀ two_ne_zero, zpow_sub₀ two_ne_zero, zpow_natCast, zpow_natCast]
  rw [hkr, hscale]
  by_cases hz : q + d = 0
  · obtain ⟨rfl, rfl⟩ : q = 0 ∧ d = 0 := by omega
    rw [if_pos hz, abs_of_nonneg (by positivity)]
    push_cast
    field_simp
    ring
  · rw [if_neg hz, abs_of_nonneg (by positivity), Fmt.minExp, zpow_sub₀ two_ne_zero, zpow_sub₀ two_ne_zero, zpow_natCast,
      zpow_natCast]
    have hq1 : q = 1 ∨ q = 2 ∧ r = 0 := by
      have : q ≠ 0 := by
        rintro rfl
        rcases hd with rfl | hd
        · exact hz rfl
        · exact absurd (Nat.mod_lt k hM) (by omega)
      rw [pow_succ] at hk
      rcases (by omega : q = 1 ∨ q = 2) with rfl | rfl
      · exact .inl rfl
      · exact .inr ⟨rfl, by omega⟩
    have : (2 : ℝ) ^ f.bias ≠ 0 := by positivity
    rcases hq1 with rfl | ⟨rfl, rfl⟩
    · rw [pow_add]
      push_cast
      field_simp
    · rw [pow_add]
      push_cast
      field_simp
      ring

end Sys2Proof.Machine
end

section
/-! PROOF. The machine's rounding to a format is the exact number rounded once (R65 to R68). -/

namespace Sys2Proof.Machine

open Sys2Proof

/-! ## The largest and the smallest numbers of a format -/

theorem codeNum_maxBits (f : Fmt) : (codeNum f f.maxBits : ℝ) = f.maxSig * 2 ^ f.maxExp := by
  rw [codeNum_cast]
  cases f <;> simp [codeNeg, codeExp, codeFrac, Fmt.maxBits, Fmt.mBits, Fmt.width, Fmt.bias, Fmt.maxSig, Fmt.maxExp,
    Nat.testBit_eq_decide_div_mod_eq] <;> norm_num

theorem maxBits_eq (f : Fmt) : f.maxBits = (f.maxExp - (f.minExp - f.mBits)).toNat * 2 ^ f.mBits + f.maxSig := by
  cases f <;> rfl

theorem maxSig_bounds (f : Fmt) : 2 ^ f.mBits ≤ f.maxSig ∧ f.maxSig < 2 ^ (f.mBits + 1) := by cases f <;> decide

theorem lowest_le_maxExp (f : Fmt) : f.minExp - f.mBits ≤ f.maxExp := by cases f <;> decide

theorem two_zpow_le {a b : ℤ} (h : a ≤ b) : (2 : ℝ) ^ a ≤ 2 ^ b := zpow_le_zpow_right₀ one_le_two h

theorem two_zpow_lt {a b : ℤ} (h : a < b) : (2 : ℝ) ^ a < 2 ^ b := zpow_lt_zpow_right₀ one_lt_two h

/-! ## Significands -/

/-- A significand of a binade and a power of two: between two powers. -/
theorem significand_scaled {M k : ℕ} {q : ℤ} (h : 2 ^ M ≤ k ∧ k ≤ 2 ^ (M + 1)) :
    (2 : ℝ) ^ (q + M) ≤ k * 2 ^ q ∧ (k : ℝ) * 2 ^ q ≤ 2 ^ (q + M + 1) := by
  have h1 : (2 : ℝ) ^ M ≤ k := by exact_mod_cast h.1
  have h2 : (k : ℝ) ≤ 2 ^ (M + 1) := by exact_mod_cast h.2
  have hq : (0 : ℝ) < 2 ^ q := by positivity
  have e1 : (2 : ℝ) ^ (q + M) = 2 ^ M * 2 ^ q := by rw [zpow_add₀ two_ne_zero, zpow_natCast, mul_comm]
  have e2 : (2 : ℝ) ^ (q + M + 1) = 2 ^ (M + 1) * 2 ^ q := by
    rw [zpow_add_one₀ two_ne_zero, e1, pow_succ]; ring
  rw [e1, e2]
  exact ⟨mul_le_mul_of_nonneg_right h1 hq.le, mul_le_mul_of_nonneg_right h2 hq.le⟩

/-- A magnitude over the last place of its own binade. -/
theorem significand_bounds {m : ℕ} (hm : m ≠ 0) (e : ℤ) (M : ℕ) :
    ((2 ^ M : ℕ) : ℝ) ≤ m * 2 ^ e / 2 ^ (e + Nat.log2 m - M) ∧ m * 2 ^ e / 2 ^ (e + Nat.log2 m - M) ≤ ((2 ^ (M + 1) : ℕ) : ℝ) := by
  have h1 : ((2 ^ Nat.log2 m : ℕ) : ℝ) ≤ m := by exact_mod_cast Nat.log2_self_le hm
  have h2 : (m : ℝ) ≤ ((2 ^ (Nat.log2 m + 1) : ℕ) : ℝ) := by exact_mod_cast (Nat.lt_log2_self (n := m)).le
  have e1 : (m : ℝ) * 2 ^ e / 2 ^ (e + Nat.log2 m - M) = m / 2 ^ Nat.log2 m * 2 ^ M := by
    rw [zpow_sub₀ two_ne_zero, zpow_add₀ two_ne_zero, zpow_natCast, zpow_natCast]
    field_simp
  have hp : (0 : ℝ) < 2 ^ Nat.log2 m := by positivity
  have hM : (0 : ℝ) < 2 ^ M := by positivity
  push_cast at h1 h2 ⊢
  rw [e1, pow_succ]
  rw [pow_succ] at h2
  refine ⟨le_mul_of_one_le_left hM.le ((one_le_div hp).2 h1), ?_⟩
  rw [mul_comm]
  exact mul_le_mul_of_nonneg_left ((div_le_iff₀ hp).2 (by linarith)) hM.le

theorem log_magnitude {m : ℕ} (hm : m ≠ 0) (e : ℤ) : Int.log 2 ((m : ℝ) * 2 ^ e) = e + Nat.log2 m := by
  have hpos : (0 : ℝ) < m * 2 ^ e := by positivity
  have he : (0 : ℝ) < 2 ^ e := by positivity
  have h1 : ((2 ^ Nat.log2 m : ℕ) : ℝ) ≤ m := by exact_mod_cast Nat.log2_self_le hm
  have h2 : (m : ℝ) < ((2 ^ (Nat.log2 m + 1) : ℕ) : ℝ) := by exact_mod_cast Nat.lt_log2_self
  push_cast at h1 h2
  refine le_antisymm (Int.lt_add_one_iff.1 ((Int.lt_zpow_iff_log_lt one_lt_two hpos).1 ?_))
    ((Int.zpow_le_iff_le_log one_lt_two hpos).1 ?_)
  · push_cast
    rw [add_assoc, zpow_add₀ two_ne_zero, mul_comm]
    exact mul_lt_mul_of_pos_left (by exact_mod_cast h2) he
  · push_cast
    rw [zpow_add₀ two_ne_zero, mul_comm, zpow_natCast]
    exact mul_le_mul_of_nonneg_right h1 he.le

/-! ## Overflow and tininess (R66, R67) -/

section

variable {f : Fmt} {k : ℕ} {q : ℤ}

theorem overflow_iff (h : 2 ^ f.mBits ≤ k ∧ k ≤ 2 ^ (f.mBits + 1)) :
    (codeNum f f.maxBits : ℝ) < k * 2 ^ q ↔ f.maxExp < q ∨ q = f.maxExp ∧ f.maxSig < k := by
  obtain ⟨hs1, hs2⟩ := maxSig_bounds f
  obtain ⟨hlo, hhi⟩ := significand_scaled (q := q) h
  obtain ⟨hmlo, -⟩ := significand_scaled (q := f.maxExp) ⟨hs1, hs2.le⟩
  have hp : (0 : ℝ) < 2 ^ q := by positivity
  rw [codeNum_maxBits]
  rcases lt_trichotomy q f.maxExp with hq | rfl | hq
  · have : (2 : ℝ) ^ (q + f.mBits + 1) ≤ 2 ^ (f.maxExp + f.mBits) := two_zpow_le (by omega)
    exact iff_of_false (by linarith) (by omega)
  · simp [hp]
  · refine iff_of_true (lt_of_lt_of_le ?_ hlo) (.inl hq)
    have hsig : (f.maxSig : ℝ) < 2 ^ (f.mBits + 1) := by exact_mod_cast hs2
    calc (f.maxSig : ℝ) * 2 ^ f.maxExp < 2 ^ (f.mBits + 1) * 2 ^ f.maxExp := mul_lt_mul_of_pos_right hsig (by positivity)
      _ = 2 ^ (f.maxExp + 1 + f.mBits) := by
        rw [← zpow_natCast, ← zpow_add₀ two_ne_zero]; congr 1; push_cast; ring
      _ ≤ 2 ^ (q + f.mBits) := two_zpow_le (by omega)

theorem tiny_iff (h : 2 ^ f.mBits ≤ k ∧ k ≤ 2 ^ (f.mBits + 1)) :
    (k : ℝ) * 2 ^ q < 2 ^ f.minExp ↔ q < f.minExp - f.mBits ∧ ¬ (q + 1 = f.minExp - f.mBits ∧ k = 2 ^ (f.mBits + 1)) := by
  obtain ⟨hlo, hhi⟩ := significand_scaled (q := q) h
  have hp : (0 : ℝ) < 2 ^ q := by positivity
  rcases lt_trichotomy (q + 1) (f.minExp - f.mBits) with hq | hq | hq
  · exact iff_of_true (lt_of_le_of_lt hhi (two_zpow_lt (by omega))) (by omega)
  · have : (2 : ℝ) ^ f.minExp = (2 ^ (f.mBits + 1) : ℕ) * 2 ^ q := by
      rw [show f.minExp = q + f.mBits + 1 by omega, zpow_add_one₀ two_ne_zero, zpow_add₀ two_ne_zero, zpow_natCast]
      push_cast
      ring
    rw [this, mul_lt_mul_iff_left₀ hp, Nat.cast_lt]
    omega
  · exact iff_of_false (not_lt.2 (le_trans (two_zpow_le (by omega)) hlo)) (by omega)

end

/-! ## Rounding to a format -/

section

variable (f : Fmt) (rm : Rm) (sat neg : Bool) {m : ℕ}

/-- The last place of a magnitude's own binade, and of the format. -/
def freePlace (f : Fmt) (m : ℕ) (e : ℤ) : ℤ := e + Nat.log2 m - f.mBits
def lastPlace (f : Fmt) (m : ℕ) (e : ℤ) : ℤ := max (freePlace f m e) (f.minExp - f.mBits)

/-- The code of a significand that was rounded at the format's last place. -/
def placedCode (f : Fmt) (neg : Bool) (q : ℤ) (k : ℕ) : ℕ :=
  signBits f neg + ((q - (f.minExp - f.mBits)).toNat * 2 ^ f.mBits + k)

/-- The code of a value that overflows (R66, R68). -/
def overflowCode (f : Fmt) (rm : Rm) (sat neg : Bool) : ℕ :=
  if sat ∨ rm = .rtz ∨ (rm = .rup ∧ neg = true) ∨ (rm = .rdn ∧ neg = false) then infCode f true neg
  else if f = .e4m3 then f.nanBits else infCode f false neg

/-- A significand that does not overflow gives the code of a finite number (R61). -/
theorem placedCode_finite {q : ℤ} {k : ℕ} (hq : f.minExp - f.mBits ≤ q) (hk : k ≤ 2 ^ (f.mBits + 1))
    (hd : q = f.minExp - f.mBits ∨ 2 ^ f.mBits ≤ k) (ho : ¬ (f.maxExp < q ∨ q = f.maxExp ∧ f.maxSig < k)) :
    placedCode f neg q k < 2 ^ f.width ∧ codeNan f (placedCode f neg q k) = false ∧ codeInf f (placedCode f neg q k) = false
      ∧ codeNeg f (placedCode f neg q k) = neg ∧ |(codeNum f (placedCode f neg q k) : ℝ)| = k * 2 ^ q := by
  obtain ⟨hs, -⟩ := maxSig_bounds f
  obtain ⟨d, rfl⟩ : ∃ d : ℕ, q = f.minExp - f.mBits + d := ⟨(q - (f.minExp - f.mBits)).toNat, by omega⟩
  have hdn : (f.minExp - f.mBits + (d : ℤ) - (f.minExp - f.mBits)).toNat = d := by omega
  have ht : d * 2 ^ f.mBits + k ≤ f.maxBits := by
    rw [maxBits_eq f]
    rcases Nat.lt_or_ge d (f.maxExp - (f.minExp - f.mBits)).toNat with hlt | hge
    · have := Nat.mul_le_mul_right (2 ^ f.mBits) hlt
      rw [Nat.succ_mul] at this
      rw [pow_succ] at hk
      omega
    · rw [show d = (f.maxExp - (f.minExp - f.mBits)).toNat by omega]
      have := lowest_le_maxExp f
      omega
  have hlt := Nat.lt_of_le_of_lt ht (maxBits_lt f)
  simp only [placedCode, hdn]
  exact ⟨signBits_add_lt f neg hlt, codeNan_signBits neg ht, codeInf_signBits neg ht, codeNeg_signBits f neg hlt,
    abs_codeNum_signBits neg hk (by omega) hlt⟩

/-- `roundFin` by the significands that it rounds. -/
theorem roundFin_eq (hm : m ≠ 0) (e : ℤ) :
    let q0 := freePlace f m e
    let q := lastPlace f m e
    let k0 := roundAt rm neg m e q0
    let k := roundAt rm neg m e q
    let exact := decide (q ≤ e) || m % 2 ^ (q - e).toNat == 0
    roundFin f rm sat neg m e =
      if f.maxExp < q0 ∨ q0 = f.maxExp ∧ f.maxSig < k0 then (overflowCode f rm sat neg, { of_ := true, nx := true })
      else (placedCode f neg q k,
        { uf := decide (q0 < f.minExp - f.mBits ∧ ¬ (q0 + 1 = f.minExp - f.mBits ∧ k0 = 2 ^ (f.mBits + 1))) && !exact
          nx := !exact }) := by
  intro q0 q k0 k exact
  have hov : (if (sat || !overflowsToInf rm neg) = true then signBits f neg + f.maxBits
      else if f = .e4m3 then f.nanBits else signBits f neg + f.infBits) = overflowCode f rm sat neg := by
    cases sat <;> cases rm <;> cases neg <;> simp [overflowsToInf, overflowCode, infCode]
  rw [roundFin, if_neg hm]
  simp only [hov]
  congr 1
  · simp [q0, k0, freePlace]
  · simp [q0, q, k0, k, exact, freePlace, lastPlace, placedCode, Nat.add_assoc, beq_eq_decide]

/-- The machine's rounding is the exact number rounded once, with its conditions. -/
theorem rounds_roundFin (hm : m ≠ 0) (e : ℤ) : Rounds f rm sat (FVal.fin neg m e).num (roundFin f rm sat neg m e) := by
  have hfree : Int.log 2 |(FVal.fin neg m e).num| - f.mBits = freePlace f m e := by
    rw [FVal.abs_num_fin, log_magnitude hm]; rfl
  have hulp : max ((2 : ℝ) ^ freePlace f m e) (2 ^ (f.minExp - f.mBits)) = 2 ^ lastPlace f m e :=
    ((zpow_right_mono₀ one_le_two).map_max (a := freePlace f m e)).symm
  have hk0 := wholeRound_roundAt rm neg m e (freePlace f m e)
  have hk := wholeRound_roundAt rm neg m e (lastPlace f m e)
  have hexact := roundAt_exact_iff rm neg m e (lastPlace f m e)
  obtain ⟨hb1, hb2⟩ := significand_bounds hm e f.mBits
  have hbounds : 2 ^ f.mBits ≤ roundAt rm neg m e (freePlace f m e) ∧ roundAt rm neg m e (freePlace f m e) ≤ 2 ^ (f.mBits + 1) :=
    ⟨wholeRound_ge hk0 hb1, wholeRound_le hk0 hb2⟩
  have hplaced : lastPlace f m e = f.minExp - f.mBits ∧ roundAt rm neg m e (lastPlace f m e) ≤ 2 ^ f.mBits
      ∨ lastPlace f m e = freePlace f m e := by
    rcases lt_or_ge (freePlace f m e) (f.minExp - f.mBits) with h | h
    · refine .inl ⟨max_eq_right h.le, wholeRound_le hk ?_⟩
      have hstep : (2 : ℝ) ^ (freePlace f m e + 1) ≤ 2 ^ lastPlace f m e := two_zpow_le (by rw [lastPlace, max_eq_right h.le]; omega)
      have hp : (0 : ℝ) < 2 ^ freePlace f m e := by positivity
      rw [← freePlace, div_le_iff₀ hp] at hb2
      rw [div_le_iff₀ (by positivity)]
      rw [zpow_add_one₀ two_ne_zero] at hstep
      have hM : (0 : ℝ) ≤ 2 ^ f.mBits := by positivity
      push_cast at hb2 ⊢
      rw [pow_succ] at hb2
      nlinarith
    · exact .inr (max_eq_left h)
  refine ⟨roundAt rm neg m e (freePlace f m e), roundAt rm neg m e (lastPlace f m e), ?_⟩
  rw [FVal.num_fin_neg hm, hfree, hulp, FVal.abs_num_fin, overflow_iff hbounds, roundFin_eq f rm sat neg hm e]
  refine ⟨hk0, hk, fun ho => ?_, fun hno => ?_⟩
  · rw [if_pos ho]
    exact ⟨rfl, rfl⟩
  · have ho : ¬ (f.maxExp < freePlace f m e ∨ freePlace f m e = f.maxExp ∧ f.maxSig < roundAt rm neg m e (freePlace f m e)) :=
      fun h => absurd ((overflow_iff hbounds).2 h) (not_lt.2 hno)
    rw [if_neg ho]
    refine ⟨?_, placedCode_finite f neg (le_max_right _ _) ?_ ?_ ?_⟩
    · simp only [Ne, hexact, tiny_iff hbounds]
      generalize (decide (lastPlace f m e ≤ e) || m % 2 ^ (lastPlace f m e - e).toNat == 0) = exact
      cases exact <;> simp
    · rcases hplaced with ⟨-, h⟩ | h
      · rw [pow_succ]; omega
      · rw [h]; exact hbounds.2
    · rcases hplaced with ⟨h, -⟩ | h
      · exact .inl h
      · rw [h]; exact .inr hbounds.1
    · rcases hplaced with ⟨h, hk1⟩ | h
      · have := lowest_le_maxExp f
        have := (maxSig_bounds f).1
        omega
      · rw [h]; exact ho

/-- An exact value rounded once (R65): a zero keeps its sign. -/
theorem roundsTo_roundFin (m : ℕ) (e : ℤ) : RoundsTo f rm sat (FVal.fin neg m e).num neg (roundFin f rm sat neg m e) := by
  refine ⟨fun h => ?_, fun h => rounds_roundFin f rm sat neg (fun hm => h (FVal.num_fin_eq_zero.2 hm)) e⟩
  rw [roundFin, if_pos (FVal.num_fin_eq_zero.1 h)]

end

end Sys2Proof.Machine
end

section
/-! PROOF. The exact operations and the arithmetic of R126 on codes. -/

namespace Sys2Proof.Machine

open Sys2Proof

/-! ## Exact values -/

/-- A value is a finite number, and has the given sign where it is zero. -/
def IsFin (v : FVal) (y : ℝ) (zneg : Bool) : Prop := ∃ neg m e, v = .fin neg m e ∧ v.num = y ∧ (y = 0 → neg = zneg)

theorem isFin_fin (neg : Bool) (m : ℕ) (e : ℤ) : IsFin (.fin neg m e) (FVal.fin neg m e).num neg := ⟨neg, m, e, rfl, rfl, fun _ => rfl⟩

theorem isFin_unpack {f : Fmt} {c : ℕ} (hn : codeNan f c = false) (hi : codeInf f c = false) :
    IsFin (unpack f c) (codeNum f c) (codeNeg f c) := by
  obtain ⟨m, e, hu, hnum, -⟩ := unpack_fin hn hi
  exact ⟨_, m, e, hu, by rw [hu, hnum], fun _ => rfl⟩

theorem isFin_finOf (v e : ℤ) (zneg : Bool) : IsFin (finOf v e zneg) (v * 2 ^ e) zneg := by
  unfold finOf
  split
  · rename_i h
    exact ⟨zneg, 0, e, rfl, by simp [h], fun _ => rfl⟩
  · rename_i h
    refine ⟨decide (v < 0), v.natAbs, e, rfl, ?_, fun h0 => ?_⟩
    · rw [FVal.num_fin, ← mul_assoc]
      congr 1
      rcases lt_or_gt_of_ne h with hv | hv
      · have : ((v.natAbs : ℕ) : ℝ) = -v := by
          rw [← Int.cast_natCast, Int.natCast_natAbs, abs_of_neg hv]; push_cast; rfl
        simp [hv, this]
      · have : ((v.natAbs : ℕ) : ℝ) = v := by rw [← Int.cast_natCast, Int.natCast_natAbs, abs_of_pos hv]
        simp [not_lt.2 hv.le, this]
    · exact absurd h0 (mul_ne_zero (by exact_mod_cast h) (by positivity))

/-- An exact value rounded once is the machine's rounding (R65). -/
theorem IsFin.roundsTo {v : FVal} {y : ℝ} {zneg : Bool} (h : IsFin v y zneg) (f : Fmt) (rm : Rm) (sat : Bool) :
    RoundsTo f rm sat y zneg (roundVal f rm sat v) := by
  obtain ⟨neg, m, e, rfl, rfl, hz⟩ := h
  obtain ⟨h0, h1⟩ := roundsTo_roundFin f rm sat neg m e
  exact ⟨fun hy => hz hy ▸ h0 hy, h1⟩

theorem mulVal_fin (a b : Bool) (m n : ℕ) (e g : ℤ) :
    (FVal.fin (a != b) (m * n) (e + g)).num = (FVal.fin a m e).num * (FVal.fin b n g).num := by
  simp only [FVal.num_fin, zpow_add₀ (two_ne_zero' ℝ)]
  push_cast
  cases a <;> cases b <;> simp <;> ring

/-- A signed magnitude over a lower power of two. -/
theorem signed_scaled (a : Bool) (m : ℕ) (e q : ℤ) (h : q ≤ e) :
    ((if a then -((m * 2 ^ (e - q).toNat : ℕ) : ℤ) else ((m * 2 ^ (e - q).toNat : ℕ) : ℤ) : ℤ) : ℝ) * 2 ^ q
      = (FVal.fin a m e).num := by
  have hm : ((m * 2 ^ (e - q).toNat : ℕ) : ℝ) * 2 ^ q = m * 2 ^ e := by
    rw [← magnitude_whole m e q h, div_mul_cancel₀ _ (by positivity)]
  rw [FVal.num_fin, ← hm]
  cases a <;> simp

theorem addVal_fin (rm : Rm) (a b : Bool) (m n : ℕ) (e g : ℤ) :
    (addVal rm (.fin a m e) (.fin b n g)).2 = false
      ∧ IsFin (addVal rm (.fin a m e) (.fin b n g)).1 ((FVal.fin a m e).num + (FVal.fin b n g).num)
        (if a = b then a else rm == .rdn) := by
  refine ⟨rfl, ?_⟩
  rw [← signed_scaled a m e (min e g) (min_le_left _ _), ← signed_scaled b n g (min e g) (min_le_right _ _), ← add_mul]
  have := isFin_finOf ((if a then -((m * 2 ^ (e - min e g).toNat : ℕ) : ℤ) else ((m * 2 ^ (e - min e g).toNat : ℕ) : ℤ))
    + (if b then -((n * 2 ^ (g - min e g).toNat : ℕ) : ℤ) else ((n * 2 ^ (g - min e g).toNat : ℕ) : ℤ))) (min e g)
    (if a = b then a else rm == .rdn)
  rw [Int.cast_add] at this
  exact this

theorem addVal_nan_right (rm : Rm) (v : FVal) : addVal rm v .nan = (.nan, false) := by cases v <;> rfl

theorem mulVal_nan_right (v : FVal) : mulVal v .nan = (.nan, false) := by cases v <;> rfl

/-! ## Kinds of codes -/

theorem fmt_of_codeInf {f : Fmt} {c : ℕ} (h : codeInf f c = true) : f ≠ .e4m3 := by
  rintro rfl
  simp [codeInf] at h

theorem roundVal_inf {f : Fmt} (hf : f ≠ .e4m3) (rm : Rm) (sat neg : Bool) :
    roundVal f rm sat (.inf neg) = (infCode f sat neg, Flags.none) := by simp [roundVal, hf, infCode]

theorem not_codeZero_of_codeInf {f : Fmt} {c : ℕ} (h : codeInf f c = true) : codeZero f c = false := by
  cases f <;> simp_all [codeInf, codeZero, Fmt.width, Fmt.mBits]

theorem not_codeZero_of_codeNan {f : Fmt} {c : ℕ} (h : codeNan f c = true) : codeZero f c = false := by
  cases f <;> simp_all [codeNan, codeZero, Fmt.width, Fmt.mBits]

/-- The three kinds of codes: NaNs, infinities and finite numbers. -/
theorem code_cases (f : Fmt) (c : ℕ) :
    (codeNan f c = true ∧ codeInf f c = false ∧ codeZero f c = false ∧ unpack f c = .nan)
    ∨ (codeNan f c = false ∧ codeInf f c = true ∧ f ≠ .e4m3 ∧ codeZero f c = false ∧ unpack f c = .inf (codeNeg f c))
    ∨ (codeNan f c = false ∧ codeInf f c = false
      ∧ ∃ m e, unpack f c = .fin (codeNeg f c) m e ∧ (FVal.fin (codeNeg f c) m e).num = codeNum f c ∧ codeZero f c = decide (m = 0)) := by
  cases hn : codeNan f c with
  | true => exact .inl ⟨rfl, codeInf_of_codeNan hn, not_codeZero_of_codeNan hn, unpack_nan hn⟩
  | false =>
    cases hi : codeInf f c with
    | true => exact .inr (.inl ⟨rfl, rfl, fmt_of_codeInf hi, not_codeZero_of_codeInf hi, unpack_inf hi⟩)
    | false =>
      obtain ⟨m, e, hu, hnum, hz, -⟩ := unpack_fin hn hi
      exact .inr (.inr ⟨rfl, rfl, m, e, hu, hnum, by rw [Bool.eq_iff_iff, ← hz, decide_eq_true_iff]⟩)

theorem sigFlags_pair (f : Fmt) (p q : ℕ) : sigFlags f [p, q] = { nv := codeSig f p || codeSig f q } := by simp [sigFlags]

theorem sigFlags_triple (f : Fmt) (p q c : ℕ) : sigFlags f [p, q, c] = { nv := codeSig f p || codeSig f q || codeSig f c } := by
  simp [sigFlags, Bool.or_assoc]

theorem sigFlags_one (f : Fmt) (c : ℕ) : sigFlags f [c] = { nv := codeSig f c } := by simp [sigFlags]

@[simp] theorem join_none (a : Flags) : a.join {} = a := by simp [Flags.join]

@[simp] theorem none_join (a : Flags) : Flags.none.join a = a := by simp [Flags.join, Flags.none]

/-! ## Sums, differences, products and fused sums -/

theorem sumOf_fAdd (f : Fmt) (rm : Rm) (sat : Bool) (p q : ℕ) : SumOf f rm sat false p q (fAdd f rm sat p q) := by
  rw [SumOf, fAdd, sigFlags_pair]
  rcases code_cases f p with ⟨hp, -, -, up⟩ | ⟨hp, ip, hf, -, up⟩ | ⟨hp, ip, m, e, up, np, -⟩
  · simp [hp, up, addVal, roundVal]
  · rcases code_cases f q with ⟨hq, -, -, uq⟩ | ⟨hq, iq, -, -, uq⟩ | ⟨hq, iq, n, g, uq, nq, -⟩
    · simp [hp, hq, up, uq, addVal, roundVal]
    · by_cases hs : codeNeg f p = codeNeg f q
      · simp [hp, hq, ip, iq, up, uq, hs, addVal, roundVal_inf hf, codeSig_of_not_codeNan]
      · simp [hp, hq, ip, iq, up, uq, hs, addVal, roundVal, codeSig_of_not_codeNan, Flags.join, Flags.none]
    · simp [hp, hq, ip, iq, up, uq, addVal, roundVal_inf hf, codeSig_of_not_codeNan]
  · rcases code_cases f q with ⟨hq, -, -, uq⟩ | ⟨hq, iq, hf, -, uq⟩ | ⟨hq, iq, n, g, uq, nq, -⟩
    · simp [hp, hq, up, uq, addVal, roundVal]
    · simp [hp, hq, ip, iq, up, uq, addVal, roundVal_inf hf, codeSig_of_not_codeNan]
    · obtain ⟨hv, hfin⟩ := addVal_fin rm (codeNeg f p) (codeNeg f q) m n e g
      have := hfin.roundsTo f rm sat
      rw [np, nq] at this
      simpa [hp, hq, ip, iq, up, uq, hv, codeSig_of_not_codeNan] using this

/-- The exact product of two codes: NaN, invalid, infinite or finite. -/
theorem mulVal_codes (f : Fmt) (p q : ℕ) :
    ((codeNan f p || codeNan f q) = true ∧ (codeInf f p && codeZero f q || codeZero f p && codeInf f q) = false
      ∧ mulVal (unpack f p) (unpack f q) = (.nan, false))
    ∨ (codeNan f p || codeNan f q) = false
      ∧ (((codeInf f p && codeZero f q || codeZero f p && codeInf f q) = true ∧ mulVal (unpack f p) (unpack f q) = (.nan, true))
        ∨ (codeInf f p && codeZero f q || codeZero f p && codeInf f q) = false
          ∧ (((codeInf f p || codeInf f q) = true ∧ f ≠ .e4m3
              ∧ mulVal (unpack f p) (unpack f q) = (.inf (codeNeg f p != codeNeg f q), false))
            ∨ (codeInf f p || codeInf f q) = false ∧ ∃ m e,
              mulVal (unpack f p) (unpack f q) = (.fin (codeNeg f p != codeNeg f q) m e, false)
              ∧ (FVal.fin (codeNeg f p != codeNeg f q) m e).num = codeNum f p * codeNum f q)) := by
  rcases code_cases f p with ⟨hp, ip, zp, up⟩ | ⟨hp, ip, hf, zp, up⟩ | ⟨hp, ip, m, e, up, np, zp⟩
  · simp [hp, ip, zp, up, mulVal]
  · rcases code_cases f q with ⟨hq, iq, zq, uq⟩ | ⟨hq, iq, -, zq, uq⟩ | ⟨hq, iq, n, g, uq, nq, zq⟩
    · simp [hq, iq, zq, uq, mulVal_nan_right]
    · simp [hp, hq, ip, iq, zp, zq, up, uq, hf, mulVal]
    · by_cases hz : n = 0 <;> simp [hp, hq, ip, iq, zp, zq, up, uq, hz, hf, mulVal]
  · rcases code_cases f q with ⟨hq, iq, zq, uq⟩ | ⟨hq, iq, hf, zq, uq⟩ | ⟨hq, iq, n, g, uq, nq, zq⟩
    · simp [hq, iq, zq, uq, mulVal_nan_right]
    · by_cases hz : m = 0 <;> simp [hp, hq, ip, iq, zp, zq, up, uq, hz, hf, mulVal, Bool.xor_comm]
    · refine .inr ⟨by simp [hp, hq], .inr ⟨by simp [ip, iq], .inr ⟨by simp [ip, iq], m * n, e + g, by simp [up, uq, mulVal], ?_⟩⟩⟩
      rw [mulVal_fin, np, nq]

theorem codeSig_or_eq_false {f : Fmt} {p q : ℕ} (h : (codeNan f p || codeNan f q) = false) :
    (codeSig f p || codeSig f q) = false := by
  rw [Bool.or_eq_false_iff] at h ⊢
  exact ⟨codeSig_of_not_codeNan h.1, codeSig_of_not_codeNan h.2⟩

theorem productOf_fMul (f : Fmt) (rm : Rm) (sat : Bool) (p q : ℕ) : ProductOf f rm sat p q (fMul f rm sat p q) := by
  rw [ProductOf, fMul, sigFlags_pair]
  rcases mulVal_codes f p q with ⟨hn, hz, hm⟩ | ⟨hn, ⟨hz, hm⟩ | ⟨hz, ⟨hi, hf, hm⟩ | ⟨hi, m, e, hm, hnum⟩⟩⟩
  · simp [hn, hm, roundVal]
  · simp [hn, hz, hm, roundVal, codeSig_or_eq_false hn, Flags.join, Flags.none]
  · simp [hn, hz, hi, hm, roundVal_inf hf, codeSig_or_eq_false hn]
  · have := (isFin_fin (codeNeg f p != codeNeg f q) m e).roundsTo f rm sat
    rw [hnum] at this
    simpa [hn, hz, hi, hm, codeSig_or_eq_false hn] using this

theorem fusedOf_fFma (f : Fmt) (rm : Rm) (sat : Bool) (p q c : ℕ) : FusedOf f rm sat p q c (fFma f rm sat p q c) := by
  have h := mulVal_codes f p q
  rw [FusedOf, fFma, sigFlags_triple]
  generalize (codeNeg f p != codeNeg f q) = np at h ⊢
  rcases h with ⟨hn, hz, hm⟩ | ⟨hn, ⟨hz, hm⟩ | ⟨hz, ⟨hi, hf, hm⟩ | ⟨hi, m, e, hm, hnum⟩⟩⟩
  · simp [hn, hz, hm, addVal, roundVal]
  · simp [hn, hz, hm, addVal, roundVal, codeSig_or_eq_false hn, Flags.join, Flags.none]
  · rcases code_cases f c with ⟨hc, -, -, uc⟩ | ⟨hc, ic, -, -, uc⟩ | ⟨hc, ic, n, g, uc, nc, -⟩
    · simp [hn, hz, hm, hc, uc, addVal, roundVal, codeSig_or_eq_false hn]
    · by_cases hs : np = codeNeg f c
      · simp [hn, hz, hi, hm, hc, ic, uc, hs, addVal, roundVal_inf hf, codeSig_or_eq_false hn, codeSig_of_not_codeNan hc]
      · simp [hn, hz, hi, hm, hc, ic, uc, hs, addVal, roundVal, codeSig_or_eq_false hn, codeSig_of_not_codeNan hc, Flags.join,
          Flags.none]
    · simp [hn, hz, hi, hm, hc, ic, uc, addVal, roundVal_inf hf, codeSig_or_eq_false hn, codeSig_of_not_codeNan hc]
  · rcases code_cases f c with ⟨hc, -, -, uc⟩ | ⟨hc, ic, hf, -, uc⟩ | ⟨hc, ic, n, g, uc, nc, -⟩
    · simp [hn, hz, hm, hc, uc, addVal, roundVal, codeSig_or_eq_false hn]
    · simp [hn, hz, hi, hm, hc, ic, uc, addVal, roundVal_inf hf, codeSig_or_eq_false hn, codeSig_of_not_codeNan hc]
    · obtain ⟨hv, hfin⟩ := addVal_fin rm np (codeNeg f c) m n e g
      have := hfin.roundsTo f rm sat
      rw [hnum, nc] at this
      simpa [hn, hz, hi, hm, hc, ic, uc, hv, codeSig_or_eq_false hn, codeSig_of_not_codeNan hc] using this

/-! ## A code with its sign inverted -/

section

variable {f : Fmt} {c : ℕ}

theorem flipSign_eq (h : c < 2 ^ f.width) : flipSign f c = signBits f (!codeNeg f c) + c % 2 ^ (f.width - 1) := by
  have hc := signBits_codeNeg f h
  unfold flipSign
  rw [← codeNeg]
  cases hs : codeNeg f c <;> simp [hs, signBits] at hc ⊢ <;> omega

theorem codeNeg_flipSign (h : c < 2 ^ f.width) : codeNeg f (flipSign f c) = !codeNeg f c := by
  rw [flipSign_eq h, codeNeg_signBits f _ (Nat.mod_lt _ (by positivity))]

theorem codeExp_flipSign (h : c < 2 ^ f.width) : codeExp f (flipSign f c) = codeExp f c := by
  rw [flipSign_eq h, codeExp_signBits f _ (Nat.mod_lt _ (by positivity)), codeExp_mod]

theorem codeFrac_flipSign (h : c < 2 ^ f.width) : codeFrac f (flipSign f c) = codeFrac f c := by
  rw [flipSign_eq h, codeFrac_signBits f _ (Nat.mod_lt _ (by positivity)), codeFrac_mod f c]

theorem codeNum_flipSign (h : c < 2 ^ f.width) : codeNum f (flipSign f c) = -codeNum f c := by
  rw [codeNum, codeNum, codeNeg_flipSign h, codeExp_flipSign h, codeFrac_flipSign h]
  cases codeNeg f c <;> simp only [Bool.not_true, Bool.not_false, Bool.false_eq_true, if_true, if_false] <;> ring

theorem codeNan_flipSign (h : c < 2 ^ f.width) : codeNan f (flipSign f c) = codeNan f c := by
  rw [codeNan, codeNan, codeExp_flipSign h, codeFrac_flipSign h]

theorem codeInf_flipSign (h : c < 2 ^ f.width) : codeInf f (flipSign f c) = codeInf f c := by
  rw [codeInf, codeInf, codeExp_flipSign h, codeFrac_flipSign h]

theorem codeSig_flipSign (h : c < 2 ^ f.width) : codeSig f (flipSign f c) = codeSig f c := by
  rw [codeSig, codeSig, codeNan_flipSign h, codeFrac_flipSign h]

theorem sumOf_fSub (rm : Rm) (sat : Bool) (p : ℕ) (h : c < 2 ^ f.width) : SumOf f rm sat true p c (fSub f rm sat p c) := by
  have := sumOf_fAdd f rm sat p (flipSign f c)
  rw [SumOf, codeNeg_flipSign h, codeNum_flipSign h, codeNan_flipSign h, codeInf_flipSign h, codeSig_flipSign h] at this
  simpa [SumOf, fSub] using this

end

end Sys2Proof.Machine
end

section
/-! PROOF. Conversions between formats and to and from integers (R68, R130, R131), and the floating-point words (O8). -/

namespace Sys2Proof.Machine

open Sys2Proof

/-! ## What is rounded is a code of its format -/

theorem infCode_lt (f : Fmt) (sat neg : Bool) : infCode f sat neg < 2 ^ f.width := by
  cases f <;> cases sat <;> cases neg <;> decide

theorem nanBits_lt (f : Fmt) : f.nanBits < 2 ^ f.width := by cases f <;> decide

theorem rounds_lt {f : Fmt} {rm : Rm} {sat : Bool} {y : ℝ} {r : ℕ × Flags} (h : Rounds f rm sat y r) : r.1 < 2 ^ f.width := by
  obtain ⟨j, k, -, -, hover, hfin⟩ := h
  rcases lt_or_ge (codeNum f f.maxBits : ℝ) (j * 2 ^ (Int.log 2 |y| - f.mBits)) with h | h
  · rw [(hover h).2]
    split
    · exact infCode_lt ..
    · split
      · exact nanBits_lt f
      · exact infCode_lt ..
  · exact (hfin h).2.1

theorem roundsTo_lt {f : Fmt} {rm : Rm} {sat zneg : Bool} {y : ℝ} {r : ℕ × Flags} (h : RoundsTo f rm sat y zneg r) :
    r.1 < 2 ^ f.width := by
  by_cases hy : y = 0
  · rw [h.1 hy]
    exact signBits_add_lt f zneg (t := 0) (by positivity)
  · exact rounds_lt (h.2 hy)

theorem roundVal_lt (f : Fmt) (rm : Rm) (sat : Bool) (v : FVal) : (roundVal f rm sat v).1 < 2 ^ f.width := by
  match v with
  | .nan => exact nanBits_lt f
  | .inf neg =>
    by_cases hf : f = .e4m3
    · subst hf
      simp only [roundVal, if_true]
      split
      · exact infCode_lt .e4m3 true neg
      · exact nanBits_lt .e4m3
    · rw [roundVal_inf hf]
      exact infCode_lt ..
  | .fin neg m e => exact roundsTo_lt ((isFin_fin neg m e).roundsTo f rm sat)

theorem width_le (f : Fmt) : f.width ≤ 32 := by cases f <;> decide

theorem toNat_ofNat_roundVal (f : Fmt) (rm : Rm) (sat : Bool) (v : FVal) :
    (BitVec.ofNat 32 (roundVal f rm sat v).1).toNat = (roundVal f rm sat v).1 := by
  rw [BitVec.toNat_ofNat]
  exact Nat.mod_eq_of_lt (Nat.lt_of_lt_of_le (roundVal_lt f rm sat v) (Nat.pow_le_pow_right (by decide) (width_le f)))

/-! ## Conversions -/

theorem convertsTo_roundVal (fs fd : Fmt) (rm : Rm) (sat : Bool) (c : ℕ) :
    ConvertsTo fs fd rm sat c ((roundVal fd rm sat (unpack fs c)).1, (roundVal fd rm sat (unpack fs c)).2.join (sigFlags fs [c])) := by
  rw [ConvertsTo, sigFlags_one]
  rcases code_cases fs c with ⟨hc, -, -, uc⟩ | ⟨hc, ic, -, -, uc⟩ | ⟨hc, ic, m, e, uc, nc, -⟩
  · simp [hc, uc, roundVal]
  · by_cases hd : fd = .e4m3
    · subst hd
      simp [hc, ic, uc, roundVal, codeSig_of_not_codeNan hc, infCode]
    · simp [hc, ic, uc, hd, roundVal_inf hd, codeSig_of_not_codeNan hc]
  · have := (isFin_unpack hc ic).roundsTo fd rm sat
    simpa [hc, ic, codeSig_of_not_codeNan hc] using this

theorem roundAt_zero (rm : Rm) (neg : Bool) (e q : ℤ) : roundAt rm neg 0 e q = 0 :=
  Nat.le_zero.1 (wholeRound_le (wholeRound_roundAt rm neg 0 e q) (b := 0) (by simp))

/-- A finite number converted to an integer type (R68). -/
theorem toInteger_toIntType (ty : ℕ) (rm : Rm) {neg : Bool} {m : ℕ} {e : ℤ} {y : ℚ} (hy : (FVal.fin neg m e).num = y) :
    ToInteger (intBounds ty).1 (intBounds ty).2 rm y (toIntType ty rm (.fin neg m e)) := by
  have hw := wholeRound_roundAt rm neg m e 0
  have hx := roundAt_exact_iff rm neg m e 0
  have habs : |(y : ℝ)| = m * 2 ^ e := by rw [← hy, FVal.abs_num_fin]
  rw [zpow_zero, div_one, ← habs] at hw
  rw [zpow_zero, mul_one, ← habs] at hx
  have hbounds : (intBounds ty).1 ≤ (intBounds ty).2 := by unfold intBounds; split <;> decide
  refine ⟨roundAt rm neg m e 0, ?_, ?_⟩
  · by_cases hm : m = 0
    · subst hm
      rw [habs, roundAt_zero]
      simpa using wholeRound_natCast rm _ 0
    · have hneg := FVal.num_fin_neg (neg := neg) (e := e) hm
      rw [hy] at hneg
      rwa [show decide (y < 0) = neg by rw [← hneg]; simp]
  · have hsign : (if y < 0 then -(roundAt rm neg m e 0 : ℤ) else roundAt rm neg m e 0)
        = if neg then -(roundAt rm neg m e 0 : ℤ) else roundAt rm neg m e 0 := by
      by_cases hm : m = 0
      · subst hm
        simp [roundAt_zero]
      · have hneg := FVal.num_fin_neg (neg := neg) (e := e) hm
        rw [hy] at hneg
        cases neg <;> simp_all
    have hexact : (((if y < 0 then -(roundAt rm neg m e 0 : ℤ) else roundAt rm neg m e 0 : ℤ) : ℚ) = y)
        ↔ ((roundAt rm neg m e 0 : ℕ) : ℝ) = |(y : ℝ)| := by
      rw [← Rat.cast_inj (α := ℝ)]
      by_cases hlt : y < 0
      · have : (y : ℝ) < 0 := by exact_mod_cast hlt
        rw [if_pos hlt, abs_of_neg this]
        push_cast
        exact neg_eq_iff_eq_neg
      · have : (0 : ℝ) ≤ y := by exact_mod_cast not_lt.1 hlt
        rw [if_neg hlt, abs_of_nonneg this]
        push_cast
        rfl
    simp only [Ne, hexact, hx]
    have hnx : (decide (e < 0) && m % 2 ^ (-e).toNat != 0) = !(decide (0 ≤ e) || m % 2 ^ (0 - e).toNat == 0) := by
      rw [zero_sub, Bool.not_or, show decide (e < 0) = !decide (0 ≤ e) by simp [← decide_not]]
      rfl
    rw [hsign]
    simp only [toIntType, clampInt, hnx]
    generalize (decide (0 ≤ e) || m % 2 ^ (0 - e).toNat == 0) = exact
    generalize (if neg = true then -(roundAt rm neg m e 0 : ℤ) else roundAt rm neg m e 0) = v
    generalize (intBounds ty).1 = lo, (intBounds ty).2 = hi at hbounds ⊢
    rcases lt_or_ge v lo with hlo | hlo
    · rw [max_eq_left (by omega), if_pos (by omega), if_pos hlo]
    · rcases lt_or_ge hi v with hhi | hhi
      · rw [min_eq_left hhi.le, max_eq_right hbounds, if_pos (by omega), if_neg (by omega), if_pos hhi]
      · rw [min_eq_right hhi, max_eq_right hlo, if_neg (by simp), if_neg (by omega), if_neg (by omega)]
        cases exact <;> simp

theorem fmtOfType_eq (ty : ℕ) : fmtOfType ty = if ty = 0 then some .f32 else if ty = 1 then some .f16 else if ty = 2 then some .bf16
    else if ty = 3 then some .e4m3 else if ty = 4 then some .e5m2 else none := by
  match ty with
  | 0 | 1 | 2 | 3 | 4 => rfl
  | n + 5 => simp [fmtOfType]

theorem intBounds_eq (ty : ℕ) :
    intBounds ty = if ty = 5 then (-128, 127) else if ty = 6 then (0, 255) else (-2147483648, 2147483647) := by
  match ty with
  | 0 | 1 | 2 | 3 | 4 | 5 | 6 => rfl
  | n + 7 => simp [intBounds]

theorem intOfType_eq (ty : ℕ) (w : Word) : intOfType ty w = if ty = 5 then (w.extractLsb' 0 8).toInt
    else if ty = 6 then ((w.extractLsb' 0 8).toNat : ℤ) else w.toInt := by simp [intOfType]

/-- FCVT is the conversion of R131, for every pair of types. -/
theorem convertedBy_fCvt (dst src : ℕ) (rm : Rm) (sat : Bool) (w : Word) :
    convertedBy (fmtOfType src) (fmtOfType dst) src dst rm sat w ((fCvt dst src rm sat w).1.toNat, (fCvt dst src rm sat w).2) := by
  unfold convertedBy fCvt
  simp only [← intBounds_eq, ← intOfType_eq]
  cases fmtOfType src with
  | some p =>
    cases fmtOfType dst with
    | some q =>
      simp only [toNat_ofNat_roundVal]
      exact convertsTo_roundVal ..
    | none =>
      rcases code_cases p (w.toNat % 2 ^ p.width) with ⟨hc, -, -, uc⟩ | ⟨hc, ic, -, -, uc⟩ | ⟨hc, ic, m, e, uc, nc, -⟩
      · simp [hc, uc, toIntType, placeInt]
      · simp [hc, ic, uc, toIntType, placeInt]
      · simp only [hc, ic, uc, Bool.false_eq_true, if_false]
        exact ⟨_, toInteger_toIntType dst rm nc, rfl⟩
  | none =>
    cases fmtOfType dst with
    | some q =>
      simp only [toNat_ofNat_roundVal]
      have := (isFin_finOf (intOfType src w) 0 false).roundsTo q rm sat
      simpa using this
    | none => rfl

/-! ## The words -/

/-- A floating-point word whose names are ready (R78, R123). -/
theorem floatWord_next {s t u : State} {x : Ctx} {srcs : List ℕ} {dst : ℕ} (h : LaneReady s x [] srcs [dst] [] [] t u)
    (f : LaneIn → ℕ → ℕ × Flags) :
    finish s x (floatWord x s srcs dst f) = .next (floatDone u x (laneInOf t x srcs) dst (f (laneInOf t x srcs))) := by
  unfold floatWord
  simp only [laneCheck_ok h, bind, Except.bind]
  rw [writeNames_ok h rfl]
  exact finish_done ..

section

variable {s t u : State} {x : Ctx} {d a b : BitVec 7}

theorem floatRR_next (h : LaneReady s x [] [winName x.w a, winName x.w b] [winName x.w d] [] [] t u)
    (f : Ctx → Fmt → ℕ → ℕ → ℕ × Flags) :
    let i := laneInOf t x [winName x.w a, winName x.w b]
    floatRR s d a b f = .next (floatDone u x i (winName x.w d) (fun l =>
      f x (fmtOf x .f32) (codeOf (fmtOf x .f32) (i.src 0 l)) (codeOf (fmtOf x .f32) (i.src 1 l)))) := by
  intro i
  rw [floatRR, runWord_at h.at_]
  exact floatWord_next h _

theorem packedRR_next (h : LaneReady s x [] [winName x.w a, winName x.w b] [winName x.w d] [] [] t u)
    (f : Ctx → Fmt → ℕ → ℕ → ℕ × Flags) :
    let i := laneInOf t x [winName x.w a, winName x.w b]
    packedRR s d a b f = .next (floatDone u x i (winName x.w d) (fun l =>
      packed (fun e => f x (fmtOf x .f16) (half (i.src 0 l) e) (half (i.src 1 l) e)))) := by
  intro i
  rw [packedRR, runWord_at h.at_]
  exact floatWord_next h _

theorem floatR_next (h : LaneReady s x [] [winName x.w a] [winName x.w d] [] [] t u) (f : Ctx → ℕ → ℕ × Flags) :
    let i := laneInOf t x [winName x.w a]
    floatR s d a f = .next (floatDone u x i (winName x.w d) (fun l => f x (i.src 0 l).toNat)) := by
  intro i
  rw [floatR, runWord_at h.at_]
  exact floatWord_next h _

end

/-- Settles O8: each word applies its operation lane by lane, and the operation is the exact one rounded once. -/
theorem floatArithmeticAndConversions : Obligations.FloatArithmeticAndConversions := by
  intro s t u x d a b dst src
  refine ⟨fun h => ⟨?_, ?_, ?_, fun _ => ⟨?_, ?_⟩⟩, fun h => ⟨?_, fun _ => ?_⟩, fun h _ _ => ?_⟩
  · refine ⟨fAdd (fmtOf x .f32) (rmOf x) (satOf x), fun p q _ _ => sumOf_fAdd .., ?_⟩
    rw [exec_fadd, execFadd, floatRR_next h]
    rfl
  · refine ⟨fSub (fmtOf x .f32) (rmOf x) (satOf x), fun p q _ hq => sumOf_fSub _ _ p hq, ?_⟩
    rw [exec_fsub, execFsub, floatRR_next h]
    rfl
  · refine ⟨fMul (fmtOf x .f32) (rmOf x) (satOf x), fun p q _ _ => productOf_fMul .., ?_⟩
    rw [exec_fmul, execFmul, floatRR_next h]
    rfl
  · refine ⟨fAdd (fmtOf x .f16) (rmOf x) (satOf x), fun p q _ _ => sumOf_fAdd .., ?_⟩
    rw [exec_hadd2, execHadd2, packedRR_next h]
    rfl
  · refine ⟨fMul (fmtOf x .f16) (rmOf x) (satOf x), fun p q _ _ => productOf_fMul .., ?_⟩
    rw [exec_hmul2, execHmul2, packedRR_next h]
    rfl
  · refine ⟨fFma (fmtOf x .f32) (rmOf x) (satOf x), fun p q c _ _ _ => fusedOf_fFma .., ?_⟩
    rw [exec_ffma, execFfma, runWord_at h.at_]
    exact floatWord_next h _
  · refine ⟨fFma (fmtOf x .f16) (rmOf x) (satOf x), fun p q c _ _ _ => fusedOf_fFma .., ?_⟩
    rw [exec_hfma2, execHfma2, runWord_at h.at_]
    exact floatWord_next h _
  · intro fmt i
    have hfmt (ty : ℕ) : fmt ty = fmtOfType ty := (fmtOfType_eq ty).symm
    refine ⟨fun w => ((fCvt dst.toNat src.toNat (rmOf x) (satOf x) w).1.toNat, (fCvt dst.toNat src.toNat (rmOf x) (satOf x) w).2),
      fun w => ?_, ?_⟩
    · rw [hfmt, hfmt]
      exact convertedBy_fCvt ..
    · rw [exec_fcvt, execFcvt, floatR_next h]
      simp only [BitVec.ofNat_toNat, BitVec.setWidth_eq]
      rfl

end Sys2Proof.Machine
end

section
/-! PROOF. The order of codes (R127), and values that a format holds exactly (R65). -/

namespace Sys2Proof.Machine

open Sys2Proof

/-! ## The order of magnitudes -/

/-- The number of a magnitude in units of the format's lowest place. -/
def magSig (f : Fmt) (t : ℕ) : ℕ :=
  if t / 2 ^ f.mBits = 0 then t else (2 ^ f.mBits + t % 2 ^ f.mBits) * 2 ^ (t / 2 ^ f.mBits - 1)

theorem magSig_lt_succ (f : Fmt) (t : ℕ) : magSig f t < magSig f (t + 1) := by
  have hM : 0 < 2 ^ f.mBits := by positivity
  have hr := Nat.mod_lt t hM
  have ht := Nat.div_add_mod t (2 ^ f.mBits)
  have hsucc : (t + 1) / 2 ^ f.mBits = t / 2 ^ f.mBits ∧ (t + 1) % 2 ^ f.mBits = t % 2 ^ f.mBits + 1
      ∨ (t + 1) / 2 ^ f.mBits = t / 2 ^ f.mBits + 1 ∧ (t + 1) % 2 ^ f.mBits = 0 ∧ t % 2 ^ f.mBits + 1 = 2 ^ f.mBits := by
    rcases Nat.lt_or_ge (t % 2 ^ f.mBits + 1) (2 ^ f.mBits) with h | h
    · left
      have := (Nat.div_mod_unique (a := t + 1) (b := 2 ^ f.mBits) (c := t % 2 ^ f.mBits + 1) (d := t / 2 ^ f.mBits) hM).2
        ⟨by omega, h⟩
      exact this
    · right
      have := (Nat.div_mod_unique (a := t + 1) (b := 2 ^ f.mBits) (c := 0) (d := t / 2 ^ f.mBits + 1) hM).2
        ⟨by rw [Nat.mul_add]; omega, hM⟩
      exact ⟨this.1, this.2, by omega⟩
  unfold magSig
  by_cases h0 : t / 2 ^ f.mBits = 0
  · rw [h0] at ht hsucc
    rcases hsucc with ⟨h1, h2⟩ | ⟨h1, h2, h3⟩ <;> simp [h0, h1, h2]
    omega
  · rcases hsucc with ⟨h1, h2⟩ | ⟨h1, h2, h3⟩
    · rw [h1, h2, if_neg h0, if_neg h0]
      exact Nat.mul_lt_mul_of_pos_right (by omega) (by positivity)
    · obtain ⟨k, hk⟩ := Nat.exists_eq_succ_of_ne_zero h0
      rw [h1, h2, hk, if_neg (Nat.succ_ne_zero _), if_neg (Nat.succ_ne_zero _), Nat.add_sub_cancel, Nat.succ_sub_one,
        Nat.succ_eq_add_one, pow_succ, Nat.mul_left_comm, Nat.mul_comm]
      exact Nat.mul_lt_mul_of_pos_left (by omega) (by positivity)

theorem magSig_strictMono (f : Fmt) : StrictMono (magSig f) := strictMono_nat_of_lt_succ (magSig_lt_succ f)

theorem codeNum_eq_magSig (f : Fmt) (c : ℕ) :
    (codeNum f c : ℝ) = (if codeNeg f c then -1 else 1) * (magSig f (c % 2 ^ (f.width - 1)) * 2 ^ (f.minExp - f.mBits)) := by
  have h2 : (2 : ℝ) ^ f.mBits ≠ 0 := by positivity
  rw [codeNum_cast, codeExp_mod, codeFrac_mod]
  congr 1
  generalize c % 2 ^ (f.width - 1) = t
  unfold magSig
  split
  · rename_i h0
    rw [Nat.mod_eq_of_lt (Nat.lt_of_div_eq_zero (by positivity) h0), zpow_sub₀ two_ne_zero, zpow_natCast]
    field_simp
  · rename_i h0
    obtain ⟨k, hk⟩ := Nat.exists_eq_succ_of_ne_zero h0
    have he : ((k.succ : ℕ) : ℤ) - f.bias = f.minExp - f.mBits + f.mBits + k := by rw [Fmt.minExp]; push_cast; ring
    rw [hk, Nat.succ_sub_one, he, zpow_add₀ two_ne_zero, zpow_add₀ two_ne_zero, zpow_natCast, zpow_natCast]
    push_cast
    field_simp

/-- Two finite codes of one sign and one number are one code. -/
theorem code_ext {f : Fmt} {p q : ℕ} (hp : p < 2 ^ f.width) (hq : q < 2 ^ f.width) (hs : codeNeg f p = codeNeg f q)
    (hv : (codeNum f p : ℝ) = codeNum f q) : p = q := by
  have h2 : (2 : ℝ) ^ (f.minExp - f.mBits) ≠ 0 := by positivity
  have hm : magSig f (p % 2 ^ (f.width - 1)) = magSig f (q % 2 ^ (f.width - 1)) := by
    rw [codeNum_eq_magSig, codeNum_eq_magSig, hs] at hv
    cases hq' : codeNeg f q <;> simpa [hq', h2] using hv
  rw [← signBits_codeNeg f hp, ← signBits_codeNeg f hq, hs, (magSig_strictMono f).injective hm]

/-! ## The smaller and the larger of two codes (R127) -/

theorem codeNum_le {f : Fmt} {p q : ℕ} (hp : codeNeg f p = false) (hq : codeNeg f q = false)
    (h : p % 2 ^ (f.width - 1) ≤ q % 2 ^ (f.width - 1)) : codeNum f p ≤ codeNum f q := by
  rw [← Rat.cast_le (K := ℝ), codeNum_eq_magSig, codeNum_eq_magSig, hp, hq]
  have : (magSig f (p % 2 ^ (f.width - 1)) : ℝ) ≤ magSig f (q % 2 ^ (f.width - 1)) := by
    exact_mod_cast (magSig_strictMono f).monotone h
  simpa using mul_le_mul_of_nonneg_right this (by positivity)

theorem codeNum_neg_le {f : Fmt} {p q : ℕ} (hp : codeNeg f p = true) (hq : codeNeg f q = true)
    (h : q % 2 ^ (f.width - 1) ≤ p % 2 ^ (f.width - 1)) : codeNum f p ≤ codeNum f q := by
  rw [← Rat.cast_le (K := ℝ), codeNum_eq_magSig, codeNum_eq_magSig, hp, hq]
  have : (magSig f (q % 2 ^ (f.width - 1)) : ℝ) ≤ magSig f (p % 2 ^ (f.width - 1)) := by
    exact_mod_cast (magSig_strictMono f).monotone h
  simpa using mul_le_mul_of_nonneg_right this (by positivity)

theorem codeNum_nonneg {f : Fmt} {p : ℕ} (h : codeNeg f p = false) : 0 ≤ codeNum f p := by
  rw [← Rat.cast_nonneg (K := ℝ), codeNum_eq_magSig, h]
  simp only [Bool.false_eq_true, if_false]
  positivity

theorem codeNum_nonpos {f : Fmt} {p : ℕ} (h : codeNeg f p = true) : codeNum f p ≤ 0 := by
  rw [← Rat.cast_nonpos (K := ℝ), codeNum_eq_magSig, h]
  simp only [if_true, neg_one_mul, neg_nonpos]
  positivity

/-- An infinity's magnitude is above those of the finite numbers. -/
theorem maxBits_lt_of_codeInf {f : Fmt} {c : ℕ} (h : codeInf f c = true) : f.maxBits < c % 2 ^ (f.width - 1) := by
  rw [codeInf, codeExp_mod, codeFrac_mod] at h
  cases f <;> simp [Fmt.maxBits, Fmt.mBits, Fmt.width] at h ⊢ <;> omega

theorem codeOrd_fin {f : Fmt} {c : ℕ} (h : codeInf f c = false) : codeOrd f c = ((codeNum f c : WithTop ℚ) : WithBot (WithTop ℚ)) := by
  simp [codeOrd, h]

/-- The order of R127 on codes that are no NaNs follows that of their keys. -/
theorem codeOrd_le_of_key {f : Fmt} {p q : ℕ} (hp : codeNan f p = false) (hq : codeNan f q = false)
    (h : totalKey f p ≤ totalKey f q) : codeOrd f p ≤ codeOrd f q := by
  unfold totalKey at h
  simp only [← codeNeg.eq_def] at h
  have hcast {a b : ℚ} (h : a ≤ b) : ((a : WithTop ℚ) : WithBot (WithTop ℚ)) ≤ ((b : WithTop ℚ) : WithBot (WithTop ℚ)) := by
    exact_mod_cast h
  cases hip : codeInf f p with
  | false =>
    cases hiq : codeInf f q with
    | false =>
      rw [codeOrd_fin hip, codeOrd_fin hiq]
      refine hcast ?_
      cases hnp : codeNeg f p <;> cases hnq : codeNeg f q <;> simp only [hnp, hnq, Bool.false_eq_true, if_true, if_false] at h
      · exact codeNum_le hnp hnq (by omega)
      · omega
      · exact le_trans (codeNum_nonpos hnp) (codeNum_nonneg hnq)
      · exact codeNum_neg_le hnp hnq (by omega)
    | true =>
      have hm := maxBits_lt_of_codeInf hiq
      have := magnitude_le_maxBits hp hip
      cases hnq : codeNeg f q with
      | false => simp [codeOrd, hiq, hnq]
      | true =>
        cases hnp : codeNeg f p <;> simp only [hnp, hnq, Bool.false_eq_true, if_true, if_false] at h <;> omega
  | true =>
    have hm := maxBits_lt_of_codeInf hip
    cases hnp : codeNeg f p with
    | true => simp [codeOrd, hip, hnp]
    | false =>
      cases hiq : codeInf f q with
      | false =>
        have := magnitude_le_maxBits hq hiq
        cases hnq : codeNeg f q <;> simp only [hnp, hnq, Bool.false_eq_true, if_true, if_false] at h <;> omega
      | true =>
        cases hnq : codeNeg f q with
        | false => simp [codeOrd, hiq, hnq]
        | true => simp only [hnp, hnq, Bool.false_eq_true, if_true, if_false] at h; omega

theorem codeLe_of_key {f : Fmt} {p q : ℕ} (hp : codeNan f p = false) (hq : codeNan f q = false)
    (h : totalKey f p ≤ totalKey f q) : CodeLe f p q := by
  rcases lt_or_eq_of_le (codeOrd_le_of_key hp hq h) with hlt | heq
  · exact .inl hlt
  · refine .inr ⟨heq, ?_⟩
    by_contra hs
    simp only [not_or, Bool.not_eq_true, Bool.not_eq_false] at hs
    unfold totalKey at h
    simp only [← codeNeg.eq_def, hs.1, hs.2, Bool.false_eq_true, if_true, if_false] at h
    omega

theorem codeLe_refl (f : Fmt) (p : ℕ) : CodeLe f p p := .inr ⟨rfl, by cases codeNeg f p <;> simp⟩

theorem selectsOf_fMinMax (f : Fmt) (larger : Bool) (p q : ℕ) : SelectsOf f larger p q (fMinMax f larger p q).1 := by
  unfold SelectsOf fMinMax
  simp only [isNan_eq]
  split
  · rfl
  · rename_i h
    simp only [Bool.or_eq_true, not_or, Bool.not_eq_true] at h
    by_cases hk : totalKey f p ≤ totalKey f q
    · have hle := codeLe_of_key h.1 h.2 hk
      cases larger <;> simp [hk, hle, codeLe_refl]
    · have hle := codeLe_of_key h.2 h.1 (not_le.1 hk).le
      cases larger <;> simp [hk, hle, codeLe_refl]

/-! ## Exact values -/

/-- A value that the format holds is rounded to itself, without a condition. -/
theorem roundFin_exact (f : Fmt) (rm : Rm) (sat neg : Bool) {m : ℕ} {e : ℤ} (hm : m ≠ 0) (hlog : Nat.log2 m ≤ f.mBits)
    (hlo : f.minExp - f.mBits ≤ e)
    (hno : ¬ (f.maxExp < freePlace f m e ∨ freePlace f m e = f.maxExp ∧ f.maxSig < m * 2 ^ (e - freePlace f m e).toNat)) :
    roundFin f rm sat neg m e
      = (placedCode f neg (lastPlace f m e) (m * 2 ^ (e - lastPlace f m e).toNat), Flags.none) := by
  have h0 : freePlace f m e ≤ e := by unfold freePlace; omega
  have hq : lastPlace f m e ≤ e := max_le h0 hlo
  have hk0 : roundAt rm neg m e (freePlace f m e) = m * 2 ^ (e - freePlace f m e).toNat := by rw [roundAt, if_pos h0]
  rw [roundFin_eq f rm sat neg hm e]
  simp only [hk0, if_neg hno, hq, decide_true, Bool.true_or, Bool.not_true, Bool.and_false]
  rw [roundAt, if_pos hq]
  rfl

theorem log2_of_bounds {m n : ℕ} (h1 : 2 ^ n ≤ m) (h2 : m < 2 ^ (n + 1)) : Nat.log2 m = n := by
  have hm : m ≠ 0 := by have := Nat.two_pow_pos n; omega
  have a := (Nat.log2_lt hm).2 h2
  have b := Nat.le_log2 hm |>.2 h1
  omega

/-- A finite code's value rounded to its own format is the code. -/
theorem roundVal_unpack (f : Fmt) (rm : Rm) {c : ℕ} (hc : c < 2 ^ f.width) (hn : codeNan f c = false) (hi : codeInf f c = false)
    (sat : Bool) : roundVal f rm sat (unpack f c) = (c, Flags.none) := by
  have hmax := magnitude_le_maxBits hn hi
  have hcode := signBits_codeNeg f hc
  have hM : 0 < 2 ^ f.mBits := by positivity
  rw [unpack_eq, hn, hi]
  simp only [Bool.false_eq_true, if_false]
  rw [codeExp_mod, codeFrac_mod]
  generalize c % 2 ^ (f.width - 1) = t at *
  have hdm := Nat.div_add_mod t (2 ^ f.mBits)
  have hr := Nat.mod_lt t hM
  have hsig := (maxSig_bounds f).1
  have hlomax := lowest_le_maxExp f
  split
  · rename_i h0
    rw [h0, Nat.mul_zero, Nat.zero_add] at hdm
    rw [hdm] at hr ⊢
    by_cases ht : t = 0
    · subst ht
      rw [roundVal, roundFin, if_pos rfl]
      exact congrArg (·, Flags.none) hcode
    · have hlog : Nat.log2 t < f.mBits := (Nat.log2_lt ht).2 hr
      have hfree : freePlace f t (f.minExp - f.mBits) < f.minExp - f.mBits := by unfold freePlace; omega
      have hlast : lastPlace f t (f.minExp - f.mBits) = f.minExp - f.mBits := max_eq_right hfree.le
      rw [roundVal, roundFin_exact f rm sat _ ht hlog.le (le_refl _) (by omega), hlast, placedCode]
      simp [hcode]
  · rename_i h0
    have hlog : Nat.log2 (2 ^ f.mBits + t % 2 ^ f.mBits) = f.mBits := log2_of_bounds (by omega) (by rw [pow_succ]; omega)
    obtain ⟨k, hk⟩ := Nat.exists_eq_succ_of_ne_zero h0
    have he : ((t / 2 ^ f.mBits : ℕ) : ℤ) - f.bias - f.mBits = f.minExp - f.mBits + k := by
      rw [hk, Fmt.minExp]; push_cast; ring
    rw [he]
    have hfree : freePlace f (2 ^ f.mBits + t % 2 ^ f.mBits) (f.minExp - f.mBits + k) = f.minExp - f.mBits + k := by
      unfold freePlace; rw [hlog]; omega
    have hlast : lastPlace f (2 ^ f.mBits + t % 2 ^ f.mBits) (f.minExp - f.mBits + k) = f.minExp - f.mBits + k := by
      rw [lastPlace, hfree]; omega
    have ht : k * 2 ^ f.mBits + (2 ^ f.mBits + t % 2 ^ f.mBits) = t := by
      rw [hk, Nat.mul_succ, Nat.mul_comm] at hdm; omega
    have hno : ¬ (f.maxExp < f.minExp - f.mBits + k
        ∨ f.minExp - f.mBits + k = f.maxExp ∧ f.maxSig < 2 ^ f.mBits + t % 2 ^ f.mBits) := by
      rw [maxBits_eq f] at hmax
      have hs2 := (maxSig_bounds f).2
      rw [pow_succ] at hs2
      rintro (h | ⟨h, h'⟩)
      · have := Nat.mul_le_mul_right (2 ^ f.mBits) (show (f.maxExp - (f.minExp - f.mBits)).toNat + 1 ≤ k by omega)
        rw [Nat.succ_mul] at this
        omega
      · rw [show (f.maxExp - (f.minExp - f.mBits)).toNat = k by omega] at hmax
        omega
    rw [roundVal, roundFin_exact f rm sat _ (by omega) hlog.le (by omega) (by rw [hfree]; simpa using hno), hlast, placedCode]
    simp [ht, hcode]

/-- The finite numbers of FP16 and BF16 are numbers of FP32. -/
theorem roundVal_half (f : Fmt) (hf : f = .f16 ∨ f = .bf16) (rm : Rm) (sat : Bool) {c : ℕ} (hn : codeNan f c = false)
    (hi : codeInf f c = false) : (roundVal .f32 rm sat (unpack f c)).2 = Flags.none := by
  obtain ⟨m, e, hu, -, -, hm, he1, he2⟩ := unpack_fin hn hi
  rw [hu, roundVal]
  by_cases h0 : m = 0
  · rw [roundFin, if_pos h0]
  · have hlog : Nat.log2 m ≤ f.mBits := Nat.lt_succ_iff.1 ((Nat.log2_lt h0).2 hm)
    have hfree : freePlace .f32 m e = e + Nat.log2 m - 23 := rfl
    have hb : f.mBits ≤ 10 ∧ (-149 : ℤ) ≤ f.minExp - f.mBits ∧ f.maxExp + f.mBits ≤ 127 := by rcases hf with rfl | rfl <;> decide
    have hno : ¬ ((104 : ℤ) < freePlace .f32 m e
        ∨ freePlace .f32 m e = 104 ∧ 16777215 < m * 2 ^ (e - freePlace .f32 m e).toNat) := by
      rintro (h | ⟨-, h⟩)
      · omega
      · rw [show (e - freePlace .f32 m e).toNat = 23 - Nat.log2 m by omega] at h
        have hlt : m * 2 ^ (23 - Nat.log2 m) < 2 ^ (Nat.log2 m + 1) * 2 ^ (23 - Nat.log2 m) :=
          Nat.mul_lt_mul_of_pos_right Nat.lt_log2_self (by positivity)
        rw [← pow_add, show Nat.log2 m + 1 + (23 - Nat.log2 m) = 24 by omega] at hlt
        omega
    rw [roundFin_exact .f32 rm sat _ h0 (by simp only [Fmt.mBits]; omega) (by simp only [Fmt.minExp, Fmt.bias, Fmt.mBits]; omega) hno]

end Sys2Proof.Machine
end

section
/-! PROOF. MATCH, SCAN and the reductions (O12). -/

namespace Sys2Proof.Machine

open Sys2Proof

/-! ## The combine of REDUX and SCAN (R145) -/

theorem reduxOp_eq (op : BitVec 3) (v w : Word) : reduxOp op.toNat v w =
    if op = 0 then v + w else if op = 1 then (if v.sle w then v else w) else if op = 2 then (if v.sle w then w else v)
    else if op = 3 then (if v.ule w then v else w) else if op = 4 then (if v.ule w then w else v)
    else if op = 5 then v &&& w else if op = 6 then v ||| w else v ^^^ w := by
  match op with
  | 0 | 5 | 6 | 7 => rfl
  | 1 => exact min32_eq v w
  | 2 => exact max32_eq v w
  | 3 | 4 => simp [reduxOp, BitVec.ule]

theorem reduxId_eq (op : BitVec 3) : reduxId op.toNat =
    if op = 1 then 0x7FFFFFFF#32 else if op = 2 then 0x80000000#32 else if op = 3 ∨ op = 5 then 0xFFFFFFFF#32 else 0#32 := by
  match op with
  | 0 | 1 | 2 | 3 | 4 | 5 | 6 | 7 => rfl

/-! ## FREDUX (R73, R74, R146) -/

/-- A leaf: the code in FP32, with the condition of a signalling NaN (R146). -/
def freduxLeaf (f : Fmt) (c : ℕ) : ℕ × Flags :=
  (if f = .f32 then c else (roundVal .f32 .rne false (unpack f c)).1, sigFlags f [c])

/-- F of R74 on two codes, with the conditions that it raises itself. -/
def freduxJoin (op : BitVec 2) (v w : ℕ) : ℕ × Flags := combineF op.toNat (v, Flags.none) (w, Flags.none)

theorem freduxLeaf_converts {f : Fmt} (hf : f = .f16 ∨ f = .bf16) (c : ℕ) : ConvertsTo f .f32 .rne false c (freduxLeaf f c) := by
  have hne : f ≠ .f32 := by rcases hf with rfl | rfl <;> decide
  have hfl : (roundVal .f32 .rne false (unpack f c)).2 = Flags.none := by
    rcases code_cases f c with ⟨-, -, -, uc⟩ | ⟨-, -, -, -, uc⟩ | ⟨hn, hi, -⟩
    · rw [uc]; rfl
    · rw [uc]; rfl
    · exact roundVal_half f hf .rne false hn hi
  have := convertsTo_roundVal f .f32 .rne false c
  rwa [hfl, none_join, ← if_neg (c := f = .f32) (t := c) (e := (roundVal .f32 .rne false (unpack f c)).1) hne] at this

theorem fmtOf_f32 (x : Ctx) : fmtOf x .f32 = .f32 ∨ fmtOf x .f32 = .f16 ∨ fmtOf x .f32 = .bf16 := by
  unfold fmtOf
  split <;> simp

theorem freduxJoin_nan {op : BitVec 2} {v w : ℕ} (h : (codeNan .f32 v || codeNan .f32 w) = true) :
    freduxJoin op v w = (0x7FC00000, Flags.none) := by
  unfold freduxJoin combineF
  by_cases h0 : op.toNat = 0
  · rcases code_cases .f32 v with ⟨hv, -, -, uv⟩ | ⟨hv, -, -, -, -⟩ | ⟨hv, -⟩
    · simp [h0, uv, addVal, roundVal, Flags.join, Flags.none, Fmt.nanBits]
    · rw [hv, Bool.false_or] at h
      simp [h0, unpack_nan h, addVal_nan_right, roundVal, Flags.join, Flags.none, Fmt.nanBits]
    · rw [hv, Bool.false_or] at h
      simp [h0, unpack_nan h, addVal_nan_right, roundVal, Flags.join, Flags.none, Fmt.nanBits]
  · simp only [h0, if_false, fMinMax, isNan_eq, h, if_true]
    rfl

theorem freduxJoin_sum {v w : ℕ} (h : (codeNan .f32 v || codeNan .f32 w) = false) : SumOf .f32 .rne false false v w (freduxJoin 0 v w) := by
  have := sumOf_fAdd .f32 .rne false v w
  rwa [fAdd, sigFlags_pair, codeSig_or_eq_false h, join_none] at this

theorem freduxJoin_selects {op : BitVec 2} (h0 : op ≠ 0) (h3 : op ≠ 3) (v w : ℕ) :
    SelectsOf .f32 (op == 1) v w (freduxJoin op v w).1 ∧ (freduxJoin op v w).2 = Flags.none := by
  have hop : ∀ op : BitVec 2, op ≠ 0 → op ≠ 3 → op = 1 ∨ op = 2 := by decide
  rcases hop op h0 h3 with rfl | rfl
  · exact ⟨selectsOf_fMinMax .f32 true v w, rfl⟩
  · exact ⟨selectsOf_fMinMax .f32 false v w, rfl⟩

/-- F of R74 on codes that bring conditions with them. -/
theorem combineF_eq (op : BitVec 2) : combineF op.toNat = fun p q =>
    ((freduxJoin op p.1 q.1).1, (p.2.join q.2).join (freduxJoin op p.1 q.1).2) := by
  funext p q
  rfl

theorem freduxIdent_eq {op : BitVec 2} (h3 : op ≠ 3) : (if op.toNat = 0 then 0 else if op.toNat = 1 then 0xFF800000 else 0x7F800000 : ℕ)
    = if op = 0 then 0 else if op = 1 then 0xFF800000 else 0x7F800000 := by
  have hop : ∀ op : BitVec 2, op ≠ 3 → op = 0 ∨ op = 1 ∨ op = 2 := by decide
  rcases hop op h3 with rfl | rfl | rfl <;> rfl

/-! ## The words -/

section

variable {s t u : State} {x : Ctx} {a : BitVec 7}

/-- The checks of a cross-lane word with a scalar destination pass (R46). -/
theorem crossItems_ok (h : LaneReady s x [] [winName x.w a] [] [] [] t u) {d : BitVec 6}
    (hp : Settled x.w (guardItems x ++ [.name (winName x.w a), iS d])) :
    checkPending x.w (crossItems x [.name (winName x.w a)] d) = .ok () := by
  refine checkPending_ok ?_
  rw [crossItems, if_neg (narrowed_sub h.lanes), if_neg h.lanes]
  simpa using hp

theorem execRedux_next (h : LaneReady s x [] [winName x.w a] [] [] [] t u) {d : BitVec 6}
    (hp : Settled x.w (guardItems x ++ [.name (winName x.w a), iS d])) (op : BitVec 3) :
    let i := laneInOf t x [winName x.w a]
    let v := reduce op.toNat i (i.nar &&& ~~~i.kills)
    execRedux d a op s = .next (killDone (modW t x (fun w => setS w d
      (if reduxSigned op.toNat then v.signExtend 64 else v.setWidth 64))) x i.kills) := by
  intro i v
  rw [execRedux, runWord_at h.at_]
  simp only [crossItems_ok h hp, laneCheck_ok h, bind, Except.bind]
  rw [if_neg (show (laneInOf t x [winName x.w a]).nar ≠ 0 from h.lanes)]
  exact finish_done ..

theorem execFredux_next (h : LaneReady s x [] [winName x.w a] [] [] [] t u) {d : BitVec 6}
    (hp : Settled x.w (guardItems x ++ [.name (winName x.w a), iS d])) (op : BitVec 2) :
    let i := laneInOf t x [winName x.w a]
    let r := (tree32 (combineF op.toNat) (lanes.map (fun l => if (i.nar &&& ~~~i.kills).getLsbD l then
        some (freduxLeaf (fmtOf x .f32) ((i.src 0 l).toNat % 2 ^ (fmtOf x .f32).width)) else none))).getD
      (if op.toNat = 0 then 0 else if op.toNat = 1 then 0xFF800000 else 0x7F800000, Flags.none)
    execFredux d a op s = .next (killDone (raiseFlags (modW t x (fun w => setS w d (BitVec.ofNat 64 r.1))) x.c x.slot [r.2])
      x i.kills) := by
  intro i r
  rw [execFredux, runWord_at h.at_]
  simp only [crossItems_ok h hp, laneCheck_ok h, bind, Except.bind]
  rw [if_neg (show (laneInOf t x [winName x.w a]).nar ≠ 0 from h.lanes)]
  exact finish_done ..

end

/-- Settles O12: MATCH and SCAN lane by lane; REDUX and FREDUX by what their combines are. -/
theorem matchScanAndReductions : Obligations.MatchScanAndReductions := by
  unfold Obligations.MatchScanAndReductions
  intro two ident whole
  have hwhole (op : BitVec 3) (i : LaneIn) (m : Mask) : reduce op.toNat i m = whole op i m := by
    simp only [reduce, reduxOp_eq, reduxId_eq]
    rfl
  refine ⟨fun s t u x d a ex op h => ⟨?_, ?_, ?_⟩, fun s t u x d a op fop h hp => ⟨?_, fun h3 => ?_⟩⟩
  · rw [exec_matchAny, execMatchAny, runWord_at h.at_]
    exact laneWord_next h _
  · rw [exec_matchAll, execMatchAll, runWord_at h.at_]
    exact laneWord_next h _
  · rw [exec_scan, execScan, runWord_at h.at_]
    simp only [hwhole]
    exact laneWord_next h _
  · rw [exec_redux, execRedux_next h hp]
    simp only [hwhole, reduxSigned, decide_eq_true_iff]
  · refine ⟨freduxLeaf (fmtOf x .f32), freduxJoin fop, fun c _ => ?_, fun v w _ _ => ?_, ?_⟩
    · rcases fmtOf_f32 x with hf | hf
      · rw [if_pos hf, hf, freduxLeaf, if_pos rfl, sigFlags_one]
      · rw [if_neg (by rcases hf with hf | hf <;> simp [hf])]
        exact freduxLeaf_converts hf c
    · split
      · exact freduxJoin_nan ‹_›
      · rename_i hn
        split
        · rename_i h0
          rw [h0]
          exact freduxJoin_sum (by simpa using hn)
        · exact freduxJoin_selects ‹_› h3 v w
    · rw [exec_fredux, execFredux_next h hp, freduxIdent_eq h3, combineF_eq]

end Sys2Proof.Machine
end

section
/-! PROOF. Steps of FP32 whose results are finite numbers, and what a drain makes of an element (R76, R168, R169). -/

namespace Sys2Proof.Machine

open Sys2Proof

/-! ## Rounding under RNE has one result -/

theorem codeNum_eq_of_abs {f : Fmt} {p q : ℕ} (hs : codeNeg f p = codeNeg f q) (ha : |(codeNum f p : ℝ)| = |(codeNum f q : ℝ)|) :
    (codeNum f p : ℝ) = codeNum f q := by
  cases hp : codeNeg f p with
  | false =>
    have h1 : (0 : ℝ) ≤ codeNum f p := by exact_mod_cast codeNum_nonneg hp
    have h2 : (0 : ℝ) ≤ codeNum f q := by exact_mod_cast codeNum_nonneg (hs ▸ hp)
    rwa [abs_of_nonneg h1, abs_of_nonneg h2] at ha
  | true =>
    have h1 : (codeNum f p : ℝ) ≤ 0 := by exact_mod_cast codeNum_nonpos hp
    have h2 : (codeNum f q : ℝ) ≤ 0 := by exact_mod_cast codeNum_nonpos (hs ▸ hp)
    rw [abs_of_nonpos h1, abs_of_nonpos h2] at ha
    linarith

theorem rounds_rne_unique {f : Fmt} {sat : Bool} {y : ℝ} {r r' : ℕ × Flags} (h : Rounds f .rne sat y r)
    (h' : Rounds f .rne sat y r') : r = r' := by
  obtain ⟨j, k, hj, hk, hover, hfin⟩ := h
  obtain ⟨j', k', hj', hk', hover', hfin'⟩ := h'
  obtain rfl := wholeRound_rne_unique hj hj'
  obtain rfl := wholeRound_rne_unique hk hk'
  rcases lt_or_ge (codeNum f f.maxBits : ℝ) (j * 2 ^ (Int.log 2 |y| - f.mBits)) with ho | ho
  · obtain ⟨hf, hc⟩ := hover ho
    obtain ⟨hf', hc'⟩ := hover' ho
    exact Prod.ext (hc.trans hc'.symm) (hf.trans hf'.symm)
  · obtain ⟨hf, hlt, -, -, hs, hv⟩ := hfin ho
    obtain ⟨hf', hlt', -, -, hs', hv'⟩ := hfin' ho
    exact Prod.ext (code_ext hlt hlt' (hs.trans hs'.symm) (codeNum_eq_of_abs (hs.trans hs'.symm) (hv.trans hv'.symm)))
      (hf.trans hf'.symm)

/-- Under RNE no result is a NaN. -/
theorem rounds_rne_not_nan {y : ℝ} {r : ℕ × Flags} (h : Rounds .f32 .rne false y r) :
    codeNan .f32 r.1 = false := by
  obtain ⟨j, k, -, -, hover, hfin⟩ := h
  rcases lt_or_ge (codeNum .f32 Fmt.f32.maxBits : ℝ) (j * 2 ^ (Int.log 2 |y| - Fmt.f32.mBits)) with ho | ho
  · have hc := (hover ho).2
    rw [if_neg (by simp), if_neg (by simp)] at hc
    rw [hc]
    cases decide (y < 0) <;> decide
  · exact (hfin ho).2.2.1

/-! ## Values that are finite numbers, whatever the sign of a zero -/

/-- A value is a finite number. -/
def IsReal (v : FVal) (y : ℝ) : Prop := ∃ zneg, IsFin v y zneg

theorem isReal_fin (neg : Bool) (m : ℕ) (e : ℤ) : IsReal (.fin neg m e) (FVal.fin neg m e).num := ⟨_, isFin_fin neg m e⟩

theorem IsReal.times {v w : FVal} {y z : ℝ} (hv : IsReal v y) (hw : IsReal w z) : IsReal (times v w) (y * z) := by
  obtain ⟨_, a, m, e, rfl, rfl, -⟩ := hv
  obtain ⟨_, b, n, g, rfl, rfl, -⟩ := hw
  exact ⟨_, a != b, m * n, e + g, rfl, mulVal_fin a b m n e g, fun _ => rfl⟩

theorem IsReal.plus {v w : FVal} {y z : ℝ} (hv : IsReal v y) (hw : IsReal w z) : IsReal (plus v w) (y + z) := by
  obtain ⟨_, a, m, e, rfl, rfl, -⟩ := hv
  obtain ⟨_, b, n, g, rfl, rfl, -⟩ := hw
  exact ⟨_, (addVal_fin .rne a b m n e g).2⟩

theorem IsReal.negate {v : FVal} {y : ℝ} (hv : IsReal v y) : IsReal v.negate (-y) := by
  obtain ⟨_, a, m, e, rfl, rfl, -⟩ := hv
  exact ⟨_, !a, m, e, rfl, by cases a <;> simp [FVal.negate], fun _ => rfl⟩

theorem isReal_unpack {f : Fmt} {c : ℕ} (hn : codeNan f c = false) (hi : codeInf f c = false) : IsReal (unpack f c) (codeNum f c) :=
  ⟨_, isFin_unpack hn hi⟩

theorem IsReal_of_isNum {c : ℕ} {z : ℝ} (h : IsNum c z) : IsReal (unpack .f32 c) z := by
  obtain ⟨-, hn, hi, rfl⟩ := h
  exact isReal_unpack hn hi

theorem isReal_oneVal : IsReal oneVal 1 := by
  have := isReal_fin false 1 0
  rwa [show (FVal.fin false 1 0).num = 1 by simp] at this

theorem isReal_c32 {c : ℕ} (hn : codeNan .f32 c = false) (hi : codeInf .f32 c = false) : IsReal (c32 c) (k32 c) :=
  isReal_unpack hn hi

/-- The code of a finite FP32 number, back from its value. -/
theorem code32_unpack {c : ℕ} (hc : c < 2 ^ 32) (hn : codeNan .f32 c = false) (hi : codeInf .f32 c = false) :
    code32 (unpack .f32 c) = c := congrArg Prod.fst (roundVal_unpack .f32 .rne hc hn hi false)

/-- A step that is rounded once under RNE, to a finite number (R132). -/
theorem isNum_code32 {v : FVal} {y z : ℝ} (hv : IsReal v y) (hr : Rne y z) : IsNum (code32 v) z := by
  obtain ⟨zneg, hv⟩ := hv
  obtain ⟨r, hr, hi, rfl⟩ := hr
  have hm := hv.roundsTo .f32 .rne false
  unfold code32
  by_cases hy : y = 0
  · rw [hm.1 hy, hr.1 hy]
    cases zneg
    · exact ⟨by decide, by decide, by decide, rfl⟩
    · refine ⟨by decide, by decide, by decide, ?_⟩
      rw [codeNum_eq_magSig, codeNum_eq_magSig]
      simp [signBits, magSig, Fmt.width, Fmt.mBits]
  · rw [← rounds_rne_unique (hr.2 hy) (hm.2 hy)]
    exact ⟨rounds_lt (hr.2 hy), rounds_rne_not_nan (hr.2 hy), hi, rfl⟩

theorem rne32_eq (v : FVal) : rne32 v = unpack .f32 (code32 v) := rfl

theorem isReal_rne32 {v : FVal} {y z : ℝ} (hv : IsReal v y) (hr : Rne y z) : IsReal (rne32 v) z :=
  IsReal_of_isNum (isNum_code32 hv hr)

theorem isNum_code32_rne32 {v : FVal} {y z : ℝ} (hv : IsReal v y) (hr : Rne y z) : IsNum (code32 (rne32 v)) z := by
  have h := isNum_code32 hv hr
  obtain ⟨hlt, hn, hi, hz⟩ := h
  rw [rne32_eq, code32_unpack hlt hn hi]
  exact ⟨hlt, hn, hi, hz⟩

/-! ## Functions of a code (R168) -/

theorem codeZero_iff {f : Fmt} {c : ℕ} : codeZero f c = true ↔ (codeNum f c : ℝ) = 0 := by
  have h2 : (2 : ℝ) ^ (f.minExp - f.mBits) ≠ 0 := by positivity
  have hM : 0 < 2 ^ f.mBits := by positivity
  have hz : magSig f (c % 2 ^ (f.width - 1)) = 0 ↔ c % 2 ^ (f.width - 1) = 0 :=
    (magSig_strictMono f).injective.eq_iff' (by simp [magSig])
  have hs : (if codeNeg f c then -1 else 1 : ℝ) ≠ 0 := by split <;> norm_num
  rw [codeNum_eq_magSig, mul_eq_zero_iff_left hs, mul_eq_zero_iff_right h2, Nat.cast_eq_zero, hz, codeZero, codeExp_mod, codeFrac_mod]
  generalize c % 2 ^ (f.width - 1) = t
  rw [Bool.and_eq_true, beq_iff_eq, beq_iff_eq]
  constructor
  · rintro ⟨h1, h3⟩
    have := Nat.div_add_mod t (2 ^ f.mBits)
    rw [h1, h3] at this
    simpa using this.symm
  · rintro rfl
    simp

/-- Two codes of one number are one code, or both zeros. -/
theorem isNum_codes {c c' : ℕ} {z : ℝ} (h : IsNum c z) (h' : IsNum c' z) :
    c = c' ∨ codeZero .f32 c = true ∧ codeZero .f32 c' = true := by
  obtain ⟨hc, -, -, hz⟩ := h
  obtain ⟨hc', -, -, hz'⟩ := h'
  by_cases h0 : z = 0
  · exact .inr ⟨codeZero_iff.2 (hz.trans h0), codeZero_iff.2 (hz'.trans h0)⟩
  · refine .inl (code_ext (f := .f32) hc hc' ?_ (hz.trans hz'.symm))
    have hsign {d : ℕ} (hd : (codeNum .f32 d : ℝ) = z) : codeNeg .f32 d = decide (z < 0) := by
      cases hn : codeNeg .f32 d with
      | false =>
        have : (0 : ℝ) ≤ z := by rw [← hd]; exact_mod_cast codeNum_nonneg hn
        simp [this]
      | true =>
        have : z ≤ 0 := by rw [← hd]; exact_mod_cast codeNum_nonpos hn
        simp [lt_of_le_of_ne this h0]
    rw [hsign hz, hsign hz']

theorem unpack_zero {c : ℕ} (h : codeZero .f32 c = true) : ∃ e, unpack .f32 c = .fin (codeNeg .f32 c) 0 e := by
  rcases code_cases .f32 c with ⟨-, -, hz, -⟩ | ⟨-, -, -, hz, -⟩ | ⟨-, -, m, e, hu, -, hz⟩
  · simp [hz] at h
  · simp [hz] at h
  · rw [hz, decide_eq_true_iff] at h
    exact ⟨e, by rw [hu, h]⟩

/-- A function of FP32 codes that gives one number for both zeros gives one number for each number. -/
theorem isNum_function {g : ℕ → ℕ} {c : ℕ} {z v : ℝ}
    (hzero : ∀ c c', codeZero .f32 c = true → codeZero .f32 c' = true → IsNum (g c) v → IsNum (g c') v)
    (hg : ∃ c, IsNum c z ∧ IsNum (g c) v) (hc : IsNum c z) : IsNum (g c) v := by
  obtain ⟨c', hc', hv⟩ := hg
  rcases isNum_codes hc' hc with rfl | ⟨h, h'⟩
  · exact hv
  · exact hzero c' c h h' hv

theorem sfTanh_zero {v : ℝ} (c c' : ℕ) (h : codeZero .f32 c = true) (h' : codeZero .f32 c' = true)
    (hv : IsNum (sfTanh false c).1 v) : IsNum (sfTanh false c').1 v := by
  have hval (d : ℕ) (hd : codeZero .f32 d = true) : (sfTanh false d).1 = signBits .f32 (codeNeg .f32 d) := by
    obtain ⟨e, hu⟩ := unpack_zero hd
    simp [sfTanh, hu]
  have hnum (neg : Bool) : IsNum (signBits .f32 neg) 0 := by
    refine ⟨by cases neg <;> decide, by cases neg <;> decide, by cases neg <;> decide, codeZero_iff.1 (by cases neg <;> decide)⟩
  rw [hval c h] at hv
  obtain rfl : v = 0 := hv.2.2.2.symm.trans (hnum _).2.2.2
  rw [hval c' h']
  exact hnum _

theorem sfEx2_zero {v : ℝ} (c c' : ℕ) (h : codeZero .f32 c = true) (h' : codeZero .f32 c' = true)
    (hv : IsNum (sfEx2 false c).1 v) : IsNum (sfEx2 false c').1 v := by
  obtain ⟨e, hu⟩ := unpack_zero h
  obtain ⟨e', hu'⟩ := unpack_zero h'
  simpa [sfEx2, hu, hu'] using hv

theorem sfRcp_zero {v : ℝ} (c c' : ℕ) (h : codeZero .f32 c = true) (_ : codeZero .f32 c' = true)
    (hv : IsNum (sfRcp false c).1 v) : IsNum (sfRcp false c').1 v := by
  obtain ⟨e, hu⟩ := unpack_zero h
  have hval : (sfRcp false c).1 = infCode .f32 false (codeNeg .f32 c) := by simp [sfRcp, hu, infResult, roundVal_inf]
  obtain ⟨-, -, hi, -⟩ := hv
  rw [hval] at hi
  exact absurd hi (by cases codeNeg .f32 c <;> decide)

/-! ## The activations (R168) -/

theorem activate_other {act : ℕ} (h1 : act ≠ 1) (h2 : act ≠ 2) (h3 : act ≠ 3) (v : FVal) : activate act v = v := by
  unfold activate
  split
  · exact absurd rfl h1
  · exact absurd rfl h2
  · exact absurd rfl h3
  · rfl

theorem activate_nan (act : ℕ) : activate act .nan = .nan := by
  unfold activate
  split <;> rfl

theorem activate_gelu {v : FVal} {y u u' t t' h z o o' : ℝ} (hv : IsReal v y) (hu' : Rne (y * y) u') (hu : Rne (u' * y) u)
    (ht' : Rne (u * k32 0x3D372713 + y) t') (ht : Rne (t' * k32 0x3F4C422A) t)
    (hh : ∃ c, IsNum c t ∧ IsNum (sfTanh false c).1 h) (hz : Rne (1 + h) z) (ho' : Rne (y * z) o') (ho : Rne (o' * (1 / 2)) o) :
    IsNum (code32 (activate 2 v)) o := by
  have hhalf : IsReal (c32 0x3F000000) (1 / 2) := by
    have := isReal_c32 (c := 0x3F000000) (by decide) (by decide)
    rwa [show k32 0x3F000000 = 1 / 2 by
      rw [k32, codeNum_eq_magSig, show codeNeg .f32 0x3F000000 = false by decide]
      norm_num [magSig, Fmt.width, Fmt.mBits, Fmt.minExp, Fmt.bias]] at this
  have ru := isReal_rne32 ((isReal_rne32 (hv.times hv) hu').times hv) hu
  have rt := isNum_code32_rne32 ((isReal_rne32 ((ru.times (isReal_c32 (by decide) (by decide))).plus hv) ht').times
    (isReal_c32 (by decide) (by decide))) ht
  have rh := IsReal_of_isNum (isNum_function (g := fun c => (sfTanh false c).1) sfTanh_zero hh rt)
  have rz := isReal_rne32 (isReal_oneVal.plus rh) hz
  have ro := isNum_code32_rne32 ((isReal_rne32 (hv.times rz) ho').times hhalf) ho
  obtain ⟨_, neg, m, e, rfl, -⟩ := hv
  simpa only [activate, fma32] using ro

theorem activate_silu {v : FVal} {y w e d q o : ℝ} (hv : IsReal v y) (hw : Rne (-y * k32 0x3FB8AA3B) w)
    (he : ∃ c, IsNum c w ∧ IsNum (sfEx2 false c).1 e) (hd : Rne (1 + e) d) (hq : ∃ c, IsNum c d ∧ IsNum (sfRcp false c).1 q)
    (ho : Rne (y * q) o) : IsNum (code32 (activate 3 v)) o := by
  have rneg := isNum_code32_rne32 (hv.negate.times (isReal_c32 (by decide) (by decide))) hw
  have re := IsReal_of_isNum (isNum_function (g := fun c => (sfEx2 false c).1) sfEx2_zero he rneg)
  have rd := isNum_code32_rne32 (isReal_oneVal.plus re) hd
  have rq := IsReal_of_isNum (isNum_function (g := fun c => (sfRcp false c).1) sfRcp_zero hq rd)
  have ro := isNum_code32_rne32 (hv.times rq) ho
  obtain ⟨_, neg, m, e, rfl, -⟩ := hv
  simpa only [activate] using ro

theorem code32_unpack_inf {c : ℕ} (hc : c < 2 ^ 32) (hi : codeInf .f32 c = true) : code32 (unpack .f32 c) = c := by
  rw [unpack_inf hi, code32, roundVal_inf (by decide)]
  have hcode := signBits_codeNeg .f32 hc
  have hmag : c % 2 ^ (Fmt.f32.width - 1) = 0x7F800000 := by
    rw [codeInf, codeExp_mod, codeFrac_mod] at hi
    simp [Fmt.width, Fmt.mBits] at hi ⊢
    omega
  rw [hmag] at hcode
  exact hcode

/-- A finite number is above 0 as the machine compares them (R128). -/
theorem cmpVal_zero_gt (neg : Bool) (m : ℕ) (e : ℤ) :
    cmpVal (.fin neg m e) (.fin false 0 0) = .gt ↔ 0 < (FVal.fin neg m e).num := by
  have hc : cmpVal (.fin neg m e) (.fin false 0 0) = compare (if neg then -((m * 2 ^ (e - min e 0).toNat : ℕ) : ℤ)
      else ((m * 2 ^ (e - min e 0).toNat : ℕ) : ℤ)) 0 := by simp [cmpVal]
  have hq : (0 : ℝ) < 2 ^ min e 0 := by positivity
  rw [hc, compare_gt_iff_gt, ← signed_scaled neg m e (min e 0) (min_le_left _ _), mul_pos_iff_of_pos_right hq]
  exact Int.cast_pos.symm

/-- The activations of an infinity (R168). -/
theorem activatesTo_inf (act : ℕ) {y : ℕ} (hy : y < 2 ^ 32) (hn : codeNan .f32 y = false) (hi : codeInf .f32 y = true) :
    ActivatesTo act y (code32 (activate act (unpack .f32 y))) := by
  have uy := unpack_inf hi
  unfold ActivatesTo
  have hself := code32_unpack_inf hy hi
  simp only [hn, hi, Bool.false_eq_true, if_false, if_true]
  split
  · subst act
    cases hs : codeNeg .f32 y with
    | false =>
      rw [if_pos (by simpa [codeOrd, hi, hs] using WithBot.coe_lt_coe.2 (WithTop.coe_lt_top (0 : ℚ)))]
      rwa [uy, hs] at hself ⊢
    | true =>
      rw [if_neg (by simp [codeOrd, hi, hs]), uy, hs]
      rfl
  · split
    · subst act
      cases hs : codeNeg .f32 y with
      | false => rwa [uy, hs] at hself ⊢
      | true => rw [uy, hs]; rfl
    · split
      · subst act
        cases hs : codeNeg .f32 y with
        | false => rwa [uy, hs] at hself ⊢
        | true => rw [uy, hs]; rfl
      · rw [activate_other ‹_› ‹_› ‹_›, hself]

/-- The activations of a finite number (R168). -/
theorem activatesTo_fin (act : ℕ) {y m : ℕ} {e : ℤ} (hy : y < 2 ^ 32) (hn : codeNan .f32 y = false) (hi : codeInf .f32 y = false)
    (uy : unpack .f32 y = .fin (codeNeg .f32 y) m e) (ny : (FVal.fin (codeNeg .f32 y) m e).num = codeNum .f32 y) :
    ActivatesTo act y (code32 (activate act (unpack .f32 y))) := by
  unfold ActivatesTo
  have hv := isReal_unpack hn hi
  have hself := code32_unpack hy hn hi
  simp only [hn, hi, Bool.false_eq_true, if_false]
  split
  · subst act
    have hpos : 0 < codeOrd .f32 y ↔ cmpVal (.fin (codeNeg .f32 y) m e) (.fin false 0 0) = .gt := by
      rw [cmpVal_zero_gt, ny, codeOrd_fin hi, Rat.cast_pos]
      exact_mod_cast Iff.rfl
    rw [uy] at hself ⊢
    by_cases h : 0 < codeOrd .f32 y
    · simp only [if_pos h, activate, hpos.1 h]
      exact hself
    · simp only [if_neg h, activate, if_neg (mt hpos.2 h)]
      rfl
  · split
    · subst act
      intro u u' t t' h z o o' hu' hu ht' ht hh hz ho' ho
      exact activate_gelu hv hu' hu ht' ht hh hz ho' ho
    · split
      · subst act
        intro w e' d q o hw he hd hq ho
        exact activate_silu hv hw he hd hq ho
      · rw [activate_other ‹_› ‹_› ‹_›, hself]

/-- The activation of a value is what R168 says. -/
theorem activatesTo_activate (act : ℕ) {y : ℕ} (hy : y < 2 ^ 32) : ActivatesTo act y (code32 (activate act (unpack .f32 y))) := by
  rcases code_cases .f32 y with ⟨hn, -, -, uy⟩ | ⟨hn, hi, -, -, -⟩ | ⟨hn, hi, m, e, uy, ny, -⟩
  · unfold ActivatesTo
    simp only [hn, if_true, uy, activate_nan]
    rfl
  · exact activatesTo_inf act hy hn hi
  · exact activatesTo_fin act hy hn hi uy ny

/-! ## A drained element (R169) -/

theorem fmtOfType_eq_elemFmt (ty : ℕ) : fmtOfType ty = if ty = 0 then some .f32 else elemFmt ty := by
  rw [fmtOfType_eq, elemFmt]

theorem code32_lt (v : FVal) : code32 v < 2 ^ 32 := roundVal_lt .f32 .rne false v

/-- An integer element converted to FP32 (R169). -/
theorem roundsTo_fCvt_int (x : Word) :
    RoundsTo .f32 .rne false (x.toInt : ℝ) false ((fCvt 0 7 .rne false x).1.toNat, (fCvt 0 7 .rne false x).2) := by
  have := convertedBy_fCvt 0 7 .rne false x
  simpa [convertedBy, fmtOfType] using this

/-- The steps of a drain on an element that is not taken raw (R169). -/
theorem drainElem_steps (e : Epilogue) (int : Bool) (bias : Option ℕ) (x : Word) (h : int = false ∨ e.otype ≠ 7) :
    ∃ (y z b o : ℕ × Flags) (r : ℕ),
      (int = true → RoundsTo .f32 .rne false (x.toInt : ℝ) false y) ∧ (int = false → y.1 = x.toNat)
      ∧ ProductOf .f32 .rne false y.1 e.p.1 z
      ∧ (bias = none → b.1 = z.1) ∧ (∀ v, bias = some v → SumOf .f32 .rne false false z.1 v b)
      ∧ ActivatesTo e.act b.1 r ∧ r < 2 ^ 32
      ∧ convertedBy (some .f32) (if e.otype = 0 then some .f32 else elemFmt e.otype) 0 e.otype e.rm e.sat (BitVec.ofNat 32 r) o
      ∧ (drainElem e int bias x).1.toNat = o.1 := by
  have hraw : (int && e.otype == 7) = false := by rcases h with rfl | h <;> simp [*]
  let y : ℕ × Flags := if int then ((fCvt 0 7 .rne false x).1.toNat, (fCvt 0 7 .rne false x).2) else (x.toNat, .none)
  let z := fMul .f32 .rne false y.1 e.p.1
  let b : ℕ × Flags := match bias with
    | some v => fAdd .f32 .rne false z.1 v
    | none => (z.1, .none)
  let r := code32 (activate e.act (unpack .f32 b.1))
  let o := fCvt e.otype 0 e.rm e.sat (BitVec.ofNat 32 r)
  refine ⟨y, z, b, (o.1.toNat, o.2), r, fun hi => ?_, fun hi => ?_, productOf_fMul .., ?_, ?_, activatesTo_activate _ ?_, code32_lt _,
    ?_, ?_⟩
  · simpa only [y, if_pos hi] using roundsTo_fCvt_int x
  · simp [y, hi]
  · rintro rfl
    rfl
  · rintro v rfl
    exact sumOf_fAdd ..
  · cases bias with
    | none => exact roundVal_lt .f32 .rne false _
    | some v => exact roundVal_lt .f32 .rne false _
  · rw [← fmtOfType_eq_elemFmt]
    exact convertedBy_fCvt e.otype 0 e.rm e.sat _
  · rw [drainElem, hraw]
    rfl

end Sys2Proof.Machine
end

section
/-! PROOF. Rows, columns and slots as lists (R26, R60, R70, R150, R169). -/

namespace Sys2Proof.Machine

open Sys2Proof

/-! ## Lists cut into pieces, and maps spread over lists -/

theorem take_drop_map_range {α : Type} (f : ℕ → α) {N s n : ℕ} (h : s + n ≤ N) :
    (((List.range N).map f).drop s).take n = (List.range n).map (fun i => f (s + i)) := by
  rw [← List.map_drop, ← List.map_take, List.range_eq_range', List.drop_range', List.take_range'_of_length_ge (by omega),
    List.range'_eq_map_range, List.map_map]
  simp [Function.comp_def]

theorem flatten_map_range {α : Type} (f : ℕ → α) (n m : ℕ) :
    ((List.range m).map (fun i => (List.range n).map (fun j => f (n * i + j)))).flatten = (List.range (n * m)).map f := by
  induction m with
  | zero => simp
  | succ m ih => rw [List.range_succ, List.map_append, List.flatten_append, ih, Nat.mul_succ, List.range_add]; simp

theorem flatMap_pairs {α : Type} (f : ℕ → α) (m : ℕ) :
    (List.range m).flatMap (fun i => [f (2 * i), f (2 * i + 1)]) = (List.range (2 * m)).map f := by
  rw [← flatten_map_range f 2 m, List.flatMap]
  rfl

theorem getElem?_flatten_uniform {α : Type} {L : List (List α)} {n : ℕ} (h : ∀ l ∈ L, l.length = n) (i : ℕ) {j : ℕ} (hj : j < n) :
    L.flatten[n * i + j]? = L[i]?.bind (·[j]?) := by
  induction L generalizing i with
  | nil => simp
  | cons l L ih =>
    have hl : l.length = n := h l List.mem_cons_self
    rw [List.flatten_cons]
    cases i with
    | zero => rw [List.getElem?_append_left (by omega)]; simp
    | succ i =>
      rw [List.getElem?_append_right (by rw [hl, Nat.mul_succ]; omega), hl,
        show n * (i + 1) + j - n = n * i + j by rw [Nat.mul_succ]; omega, ih (fun l hl => h l (List.mem_cons_of_mem _ hl))]
      simp

theorem take_drop_flatMap {α β : Type} {f : α → List β} {n : ℕ} (h : ∀ a, (f a).length = n) {l : List α} {i : ℕ} {a : α}
    (hi : l[i]? = some a) : ((l.flatMap f).drop (n * i)).take n = f a := by
  induction l generalizing i with
  | nil => simp at hi
  | cons b l ih =>
    rw [List.flatMap_cons]
    cases i with
    | zero =>
      obtain rfl : b = a := by simpa using hi
      rw [Nat.mul_zero, List.drop_zero, ← h b, List.take_left]
    | succ i =>
      rw [Nat.mul_succ, Nat.add_comm, ← List.drop_drop, ← h b, List.drop_left, h b]
      exact ih (by simpa using hi)

theorem fexpand_eq {α : Type} (d : α) {m : FMap α} {i : ℕ} (h : Rising i m) (n : ℕ) :
    fexpand d m i n = (List.range n).map (fun j => fget m (i + j) d) := by
  induction n generalizing m i with
  | zero => cases m <;> rfl
  | succ n ih =>
    rw [List.range_succ_eq_map, List.map_cons, List.map_map]
    have hshift (m' : FMap α) (hm : ∀ j, fget m (i + (j + 1)) d = fget m' (i + 1 + j) d) (hr : Rising (i + 1) m') :
        (List.range n).map ((fun j => fget m (i + j) d) ∘ Nat.succ) = fexpand d m' (i + 1) n := by
      rw [ih hr]
      exact List.map_congr_left fun j _ => hm j
    match m, h with
    | [], _ => rw [hshift [] (fun j => rfl) trivial]; rfl
    | (k, v) :: m', h =>
      obtain ⟨hk, hr⟩ := h
      rw [fexpand]
      split
      · rename_i he
        subst he
        rw [hshift m' (fun j => by simp [fget, fget?, Nat.add_assoc, Nat.add_comm 1]) hr]
        simp [fget, fget?]
      · rename_i hne
        have hlt : i + 1 ≤ k := by simp only at hk; omega
        rw [hshift ((k, v) :: m') (fun j => by rw [show i + 1 + j = i + (j + 1) by omega]) ⟨hlt, hr⟩]
        congr 1
        have : fget? ((k, v) :: m') i = none := fget?_below (lo := i + 1) ⟨hlt, hr⟩ (Nat.lt_succ_self i)
        simp [fget, this]

theorem fget_filter_zip {α : Type} [DecidableEq α] (d : α) (l : List α) (s k : ℕ) :
    fget (((List.range' s l.length).zip l).filter (fun e => decide (e.2 ≠ d))) k d = if k < s then d else l.getD (k - s) d := by
  induction l generalizing s with
  | nil => simp [fget]
  | cons a l ih =>
    have hrest := ih (s + 1)
    rw [List.length_cons, List.range'_succ, List.zip_cons_cons]
    by_cases ha : a = d
    · rw [List.filter_cons_of_neg (by simpa using ha), hrest, ha]
      rcases Nat.lt_trichotomy k s with h | rfl | h
      · simp [h, Nat.lt_succ_of_lt h]
      · simp
      · simp [show ¬ k < s + 1 by omega, show ¬ k < s by omega, show k - s = k - (s + 1) + 1 by omega]
    · rw [List.filter_cons_of_pos (by simpa using ha), fget, fget?]
      rcases Nat.lt_trichotomy k s with h | rfl | h
      · rw [if_neg (by omega), ← fget, hrest]
        simp [h, Nat.lt_succ_of_lt h]
      · simp
      · rw [if_neg (by omega), ← fget, hrest]
        simp [show ¬ k < s + 1 by omega, show ¬ k < s by omega, show k - s = k - (s + 1) + 1 by omega]

theorem fget_fcompact {α : Type} [DecidableEq α] (d : α) (l : List α) (k : ℕ) : fget (fcompact d l) k d = l.getD k d := by
  rw [fcompact, List.range_eq_range']
  simpa using fget_filter_zip d l 0 k

theorem chunks_expand {α : Type} (d : α) {m : FMap α} (h : Rising 0 m) (n count : ℕ) :
    chunks n count (fexpand d m 0 (n * count)) = (List.range count).map (fun i => (List.range n).map (fun j => fget m (n * i + j) d)) := by
  rw [chunks, fexpand_eq d h]
  refine List.map_congr_left fun i hi => ?_
  have : n * i + n ≤ n * count := by rw [← Nat.mul_succ]; exact Nat.mul_le_mul_left n (List.mem_range.1 hi)
  rw [take_drop_map_range _ this]
  simp

/-- The rows of a slot (R26). -/
theorem accRows_eq {a : AccSlot} (h : Rising 0 a.words) :
    accRows a = (List.range 32).map (fun i => (List.range 256).map (fun j => fget a.words (256 * i + j) 0)) := by
  rw [accRows, show 8192 = 256 * 32 from rfl, chunks_expand 0 h]

/-! ## The rows of a drain (R169, R171) -/

/-- An element of a drained slot, as bytes. -/
theorem slotRows_element (e : Epilogue) (size m0 : ℕ) (bias : Option (List (ℕ × Bool))) {a : AccSlot} (ha : Rising 0 a.words)
    {i n : ℕ} (hi : i < 32) (hn : n < 256) :
    ∃ r, (slotRows e size m0 bias a).1[i]? = some r ∧ r.m = m0 + i
      ∧ (r.bytes.drop (size * n)).take size = leBytes size
        (drainElem e (a.tag == .int) (bias.map (fun l => (l.getD n (0, false)).1)) (fget a.words (256 * i + n) 0)).1.toNat := by
  unfold slotRows
  rw [accRows_eq ha]
  simp only [List.getElem?_mapIdx, List.getElem?_map, List.getElem?_range hi, Option.map_some]
  refine ⟨_, rfl, rfl, ?_⟩
  dsimp only
  rw [take_drop_flatMap (fun v => length_leBytes ..)]
  simp only [List.getElem?_mapIdx, List.getElem?_map, List.getElem?_range hn, Option.map_some, Option.map_map, Function.comp_def]

end Sys2Proof.Machine
end

section
/-! PROOF. Rows of A and columns of B decoded, and their products (R60, R69, R70, R72, R75, R150). -/

namespace Sys2Proof.Machine

open Sys2Proof

/-! ## Elements -/

/-- Element `k` of a row or column of bytes without markers. -/
def elemOf (ty : ℕ) (y : ℕ → Byte) (k : ℕ) : MElem :=
  match elemFmt ty with
  | some f => elemF f (elemCode ty y k)
  | none => elemI (elemInt ty y k)

/-- The type codes of the matrix unit (R149). -/
theorem famOf_cases {ty : ℕ} (h : (famOf ty).isSome) : ty = 1 ∨ ty = 2 ∨ ty = 3 ∨ ty = 4 ∨ ty = 5 ∨ ty = 6 ∨ ty = 8 := by
  unfold famOf at h
  by_contra hn
  rw [if_neg (by omega), if_neg (by omega), if_neg (by omega), if_neg (by omega)] at h
  cases h

theorem q4Pairs_ints (side n : ℕ) {bs : List Byte} (h : ∀ b ∈ bs, b.toNat % 16 ≠ 8 ∧ b.toNat / 16 ≠ 8) :
    (q4Pairs side n bs).1 = bs.flatMap (fun b => [.int (q4Int (b.toNat % 16)), .int (q4Int (b.toNat / 16))]) := by
  induction bs with
  | nil => rfl
  | cons b bs ih =>
    obtain ⟨hlo, hhi⟩ := h b List.mem_cons_self
    rw [q4Pairs]
    simp only [if_neg hlo, if_neg hhi, ih fun c hc => h c (List.mem_cons_of_mem _ hc)]
    rfl

/-- The bytes of a block (R150). -/
theorem block_bytes (y : ℕ → Byte) {n b : ℕ} (h : n * b + n ≤ 128) :
    (((List.range 128).map y).drop (n * b)).take n = (List.range n).map (fun i => y (n * b + i)) := take_drop_map_range y h

theorem leNat_pair (p q : Byte) : leNat [p, q] = (q ++ p).toNat := by
  rw [toNat_append_eq]
  simp only [leNat]
  omega

/-- A 16-bit element of a block. -/
theorem blockElem_half (y : ℕ → Byte) (ty b q : ℕ) (hq : q < 32) (hty : ty = 1 ∨ ty = 2) :
    leNat ((((List.range 64).map (fun i => y (64 * b + i))).drop (2 * q)).take 2) = elemCode ty y (32 * b + q) := by
  rw [take_drop_map_range _ (by omega)]
  simp only [List.range_succ, List.range_zero, List.nil_append, List.map_cons, List.map_nil, List.cons_append,
    leNat_pair, elemCode, if_pos hty]
  rw [show 64 * b + (2 * q + 1) = 2 * (32 * b + q) + 1 by omega, show 64 * b + (2 * q + 0) = 2 * (32 * b + q) by omega]

/-- The elements of a Q4X block without markers (R69, R70). -/
theorem blockElem_nibble (y : ℕ → Byte) (hm : ∀ q, q < 128 → (y q).toNat % 16 ≠ 8 ∧ (y q).toNat / 16 ≠ 8) (side b : ℕ) (hb : b < 8) :
    (blockElems 8 side ((List.range 16).map (fun i => y (16 * b + i)))).1 = (List.range 32).map (fun q => elemOf 8 y (32 * b + q)) := by
  have hmark : ∀ c ∈ (List.range 16).map (fun i => y (16 * b + i)), c.toNat % 16 ≠ 8 ∧ c.toNat / 16 ≠ 8 := by
    intro c hc
    obtain ⟨i, hi, rfl⟩ := List.mem_map.1 hc
    rw [List.mem_range] at hi
    exact hm _ (by omega)
  change (q4Pairs side 0 _).1.map _ = _
  rw [q4Pairs_ints side 0 hmark, List.flatMap_map, List.map_flatMap, ← flatMap_pairs (fun q => elemOf 8 y (32 * b + q)) 16]
  refine List.flatMap_congr fun i _ => ?_
  have hlo : elemInt 8 y (32 * b + 2 * i) = q4Int ((y (16 * b + i)).toNat % 16) := by
    simp only [elemInt, q4Int, show (32 * b + 2 * i) / 2 = 16 * b + i by omega, show (32 * b + 2 * i) % 2 = 0 by omega]
    norm_num
  have hhi : elemInt 8 y (32 * b + (2 * i + 1)) = q4Int ((y (16 * b + i)).toNat / 16) := by
    have := (y (16 * b + i)).isLt
    simp only [elemInt, q4Int, show (32 * b + (2 * i + 1)) / 2 = 16 * b + i by omega, show (32 * b + (2 * i + 1)) % 2 = 1 by omega,
      pow_one, show (y (16 * b + i)).toNat / 16 % 16 = (y (16 * b + i)).toNat / 16 by omega]
    norm_num
  change [elemI (q4Int _), elemI (q4Int _)] = [elemI (elemInt 8 y _), elemI (elemInt 8 y _)]
  rw [hlo, hhi]

/-- A block of elements (R60, R150). -/
theorem blockElems_eq {ty : ℕ} (hty : (famOf ty).isSome) {y : ℕ → Byte} (hm : NoMarker ty y) (side : ℕ) {b : ℕ} (hb : b < kOf ty / 32) :
    (blockElems ty side ((((List.range 128).map y).drop (128 / (kOf ty / 32) * b)).take (128 / (kOf ty / 32)))).1
      = (List.range 32).map (fun q => elemOf ty y (32 * b + q)) := by
  have hbyte {F : Byte → MElem} {e : ℕ → MElem} (hb : b < 4) (h : ∀ k, F (y k) = e k) :
      ((((List.range 128).map y).drop (32 * b)).take 32).map F = (List.range 32).map (fun q => e (32 * b + q)) := by
    rw [block_bytes y (by omega), List.map_map]
    exact List.map_congr_left fun q _ => h _
  rcases famOf_cases hty with rfl | rfl | rfl | rfl | rfl | rfl | rfl
  · simp only [show kOf 1 / 32 = 2 from rfl, Nat.reduceDiv] at hb ⊢
    refine List.map_congr_left fun q hq => ?_
    rw [block_bytes y (by omega), blockElem_half y 1 b q (List.mem_range.1 hq) (.inl rfl)]
    rfl
  · simp only [show kOf 2 / 32 = 2 from rfl, Nat.reduceDiv] at hb ⊢
    refine List.map_congr_left fun q hq => ?_
    rw [block_bytes y (by omega), blockElem_half y 2 b q (List.mem_range.1 hq) (.inr rfl)]
    rfl
  · exact hbyte hb fun k => rfl
  · exact hbyte hb fun k => rfl
  · exact hbyte hb fun k => rfl
  · exact hbyte hb fun k => rfl
  · simp only [show kOf 8 / 32 = 8 from rfl, Nat.reduceDiv] at hb ⊢
    rw [block_bytes y (by omega)]
    exact blockElem_nibble y (hm rfl) side b hb

/-! ## Decoded rows -/

/-- The blocks of 32 of the elements `f 0`, `f 1`, …. -/
def elemGrid (kb : ℕ) (f : ℕ → MElem) : List (List MElem) := (List.range kb).map (fun b => (List.range 32).map (fun q => f (32 * b + q)))

theorem length_elemGrid (kb : ℕ) (f : ℕ → MElem) : (elemGrid kb f).length = kb := by simp [elemGrid]

theorem flatten_elemGrid (kb : ℕ) (f : ℕ → MElem) : (elemGrid kb f).flatten = (List.range (32 * kb)).map f := flatten_map_range f 32 kb

theorem getD_elemGrid {kb b : ℕ} (f : ℕ → MElem) (h : b < kb) :
    (elemGrid kb f).getD b [] = (List.range 32).map (fun q => f (32 * b + q)) := by
  simp [elemGrid, h]

theorem decodeRow_blocks {ty : ℕ} (hty : (famOf ty).isSome) {y : ℕ → Byte} (hm : NoMarker ty y) (scaled : Bool) (ent : ℕ → BitVec 16) :
    (decodeRow ty (kOf ty / 32) scaled ((List.range 128).map y) ent).blocks = elemGrid (kOf ty / 32) (elemOf ty y) := by
  simp only [decodeRow, List.map_map, elemGrid]
  exact List.map_congr_left fun b hb => blockElems_eq hty hm _ (List.mem_range.1 hb)

/-- A block scale, 1 where its enable is clear (R75). -/
def scaleVal (scaled : Bool) (v : BitVec 16) : FVal := if scaled then unpack .e4m3 (v.toNat % 256) else oneVal

theorem decodeRow_scales {ty kb b : ℕ} (h : b < kb) (scaled : Bool) (bs : List Byte) (ent : ℕ → BitVec 16) :
    (decodeRow ty kb scaled bs ent).scales.getD b oneVal = scaleVal scaled (ent b) := by
  simp [decodeRow, scaleVal, h]

/-- An element of an A row, taken as zero where its lane gives no words (R150; notes/assumptions/60.md). -/
def laneElem (on : ℕ → Bool) (f : ℕ → MElem) (k : ℕ) : MElem := if on k then f k else ⟨.fin false 0 0, 0, false, false, true⟩

theorem laneZeros_blocks {kb : ℕ} {keep : Mask} {r : MRow} {f : ℕ → MElem} (h : r.blocks = elemGrid kb f) :
    (laneZeros kb keep r).blocks = elemGrid kb (laneElem (fun k => keep.getLsbD (k / kb)) f) := by
  simp only [laneZeros, h, elemGrid, laneElem]
  refine List.ext_getElem (by simp) fun b hb _ => ?_
  simp only [List.getElem_mapIdx, List.getElem_map, List.getElem_range]
  refine List.ext_getElem (by simp) fun q hq _ => ?_
  simp

/-! ## Products on the integer path (R72) -/

theorem foldl_add_products (f g : ℕ → MElem) (l : List ℕ) (z : ℤ) :
    ((l.map f).zip (l.map g)).foldl (fun x e => x + e.1.int * e.2.int) z = z + (l.map (fun k => (f k).int * (g k).int)).sum := by
  induction l generalizing z with
  | nil => simp
  | cons k l ih => simp [ih, add_assoc]

theorem dotI_grid (acc : Word) {a b : MRow} {kb : ℕ} {f g : ℕ → MElem} (ha : a.blocks = elemGrid kb f) (hb : b.blocks = elemGrid kb g) :
    (dotI acc a b).1 = acc + BitVec.ofInt 32 ((List.range (32 * kb)).map (fun k => (f k).int * (g k).int)).sum := by
  simp only [dotI, ha, hb, flatten_elemGrid, foldl_add_products, zero_add]

/-! ## The tree of a block (R73 to R75) -/

/-- The value at node `i` of level `n` of the tree over the leaves `g`. -/
def treeVal {α : Type} (h : α → α → α) (g : ℕ → α) : ℕ → ℕ → α
  | 0, i => g i
  | n + 1, i => h (treeVal h g n (2 * i)) (treeVal h g n (2 * i + 1))

theorem tree32_range {α : Type} (h : α → α → α) (g : ℕ → α) :
    tree32 h ((List.range 32).map (fun i => some (g i))) = some (treeVal h g 5 0) := rfl

theorem sumRne_fst (a b : FVal × Flags) : (sumRne a b).1 = rne32 (plus a.1 b.1) := rfl

theorem plus_nan_left (v : FVal) : plus .nan v = .nan := by cases v <;> rfl
theorem plus_nan_right (v : FVal) : plus v .nan = .nan := by cases v <;> rfl
theorem times_nan_left (v : FVal) : times .nan v = .nan := by cases v <;> rfl
theorem times_nan_right (v : FVal) : times v .nan = .nan := by cases v <;> rfl

theorem rne32_nan : rne32 .nan = .nan := rfl

theorem sumRne_nan {a b : FVal × Flags} (h : a.1 = .nan ∨ b.1 = .nan) : (sumRne a b).1 = .nan := by
  rw [sumRne_fst]
  rcases h with h | h <;> simp only [h, plus_nan_left, plus_nan_right, rne32_nan]

theorem treeVal_real {g : ℕ → FVal × Flags} {p : ℕ → ℝ} {n i : ℕ} {z : ℝ} (hg : ∀ k, k < 2 ^ n * (i + 1) → IsReal (g k).1 (p k))
    (h : TreeRne p n i z) : IsReal (treeVal sumRne g n i).1 z := by
  induction n generalizing i z with
  | zero =>
    obtain rfl : z = p i := h
    exact hg i (by omega)
  | succ n ih =>
    obtain ⟨u, v, hu, hv, hz⟩ := h
    have hle (j : ℕ) (hj : j ≤ 2 * i + 1) (k : ℕ) (hk : k < 2 ^ n * (j + 1)) : IsReal (g k).1 (p k) := by
      have : 2 ^ n * (j + 1) ≤ 2 ^ n * (2 * i + 2) := Nat.mul_le_mul_left _ (by omega)
      exact hg k (by rw [pow_succ, Nat.mul_assoc, Nat.mul_add, Nat.mul_one]; omega)
    exact isReal_rne32 ((ih (hle _ (by omega)) hu).plus (ih (hle _ le_rfl) hv)) hz

theorem treeVal_nan {g : ℕ → FVal × Flags} {n i k : ℕ} (hk : (g k).1 = .nan) (hi : k / 2 ^ n = i) : (treeVal sumRne g n i).1 = .nan := by
  induction n generalizing i with
  | zero =>
    obtain rfl : k = i := by simpa using hi
    exact hk
  | succ n ih =>
    rw [pow_succ, ← Nat.div_div_eq_div_mul] at hi
    refine sumRne_nan ?_
    rcases Nat.even_or_odd' (k / 2 ^ n) with ⟨j, h | h⟩
    · exact .inl (ih (by omega))
    · exact .inr (ih (by omega))

/-! ## Products on the floating-point path (R75) -/

theorem leafOf_on {a b : MElem} (h : a.off = false) : (leafOf a b).1 = times a.val b.val := by simp [leafOf, h, times]

theorem leafOf_nan {a b : MElem} (h : a.off = false ∧ a.val = .nan ∨ b.val = .nan) : (leafOf a b).1 = .nan := by
  cases hoff : a.off with
  | false =>
    rw [leafOf_on hoff]
    rcases h with ⟨-, h⟩ | h
    · rw [h, times_nan_left]
    · rw [h, times_nan_right]
  | true =>
    have hb : b.val = .nan := by simpa [hoff] using h
    simp [leafOf, hoff, hb]

theorem isReal_zero : IsReal (.fin false 0 0) 0 := by simpa using isReal_fin false 0 0

theorem not_isReal_nan {y : ℝ} : ¬ IsReal .nan y := by
  rintro ⟨_, a, m, e, h, -⟩
  cases h

theorem leafOf_off {a b : MElem} {z : ℝ} (h : a.off = true) (hb : IsReal b.val z) : IsReal (leafOf a b).1 0 := by
  have hne : b.val ≠ .nan := fun he => not_isReal_nan (he ▸ hb)
  simpa [leafOf, h, hne] using isReal_zero

theorem blockDot_fst (f g : ℕ → MElem) (sa sb : FVal) :
    (blockDot ((List.range 32).map f) ((List.range 32).map g) sa sb).1
      = rne32 (times (treeVal sumRne (fun k => leafOf (f k) (g k)) 5 0).1 (times sa sb)) := by
  rw [blockDot, List.zip_map', List.map_map]
  change (unpack .f32 (roundVal .f32 .rne false (mulVal ((tree32 sumRne ((List.range 32).map
    (fun k => some (leafOf (f k) (g k))))).getD _).1 _).1).1) = _
  rw [tree32_range]
  rfl

/-- The accumulator before block `n` (R75). -/
def accAfter (start : FVal × Flags) (d : ℕ → FVal × Flags) (n : ℕ) : FVal × Flags := (List.range n).foldl (fun x i => sumRne x (d i)) start

theorem accAfter_succ (start : FVal × Flags) (d : ℕ → FVal × Flags) (n : ℕ) :
    accAfter start d (n + 1) = sumRne (accAfter start d n) (d n) := by
  simp [accAfter, List.range_succ]

theorem accAfter_nan {start : FVal × Flags} {d : ℕ → FVal × Flags} {n : ℕ} (h : start.1 = .nan ∨ ∃ i, i < n ∧ (d i).1 = .nan) :
    (accAfter start d n).1 = .nan := by
  induction n with
  | zero => simpa [accAfter] using h
  | succ n ih =>
    rw [accAfter_succ]
    refine sumRne_nan ?_
    rcases h with h | ⟨i, hi, hd⟩
    · exact .inl (ih (.inl h))
    · rcases Nat.lt_succ_iff_lt_or_eq.1 hi with hlt | rfl
      · exact .inl (ih (.inr ⟨i, hlt, hd⟩))
      · exact .inr hd

theorem accAfter_real {c : ℕ} {fl : Flags} {d : ℕ → FVal × Flags} {n : ℕ} {z sum : ℕ → ℝ} (hc : IsNum c (sum 0))
    (hd : ∀ i, i < n → IsReal (d i).1 (z i)) (hs : ∀ i, i < n → Rne (sum i + z i) (sum (i + 1))) :
    IsReal (accAfter (unpack .f32 c, fl) d n).1 (sum n) ∧ IsNum (code32 (accAfter (unpack .f32 c, fl) d n).1) (sum n) := by
  induction n with
  | zero =>
    have ⟨hlt, hn, hi, hz⟩ := hc
    refine ⟨IsReal_of_isNum hc, ?_⟩
    change IsNum (code32 (unpack .f32 c)) _
    rwa [code32_unpack hlt hn hi]
  | succ n ih =>
    rw [accAfter_succ, sumRne_fst]
    have hr := ((ih (fun i hi => hd i (by omega)) fun i hi => hs i (by omega)).1).plus (hd n (by omega))
    exact ⟨isReal_rne32 hr (hs n (by omega)), isNum_code32_rne32 hr (hs n (by omega))⟩

/-- The value of block `i` of a row and a column. -/
def blockVal (f g : ℕ → MElem) (sa sb : ℕ → FVal) (i : ℕ) : FVal :=
  rne32 (times (treeVal sumRne (fun k => leafOf (f (32 * i + k)) (g (32 * i + k))) 5 0).1 (times (sa i) (sb i)))

theorem dotF_grid (acc : Word) {a b : MRow} {kb : ℕ} {f g : ℕ → MElem} {sa sb : ℕ → FVal} (ha : a.blocks = elemGrid kb f)
    (hb : b.blocks = elemGrid kb g) (hsa : ∀ i, i < kb → a.scales.getD i oneVal = sa i)
    (hsb : ∀ i, i < kb → b.scales.getD i oneVal = sb i) :
    ∃ fl d, (dotF acc a b).1 = BitVec.ofNat 32 (code32 (accAfter (unpack .f32 acc.toNat, fl) d kb).1)
      ∧ ∀ i, i < kb → (d i).1 = blockVal f g sa sb i := by
  refine ⟨{ nv := isSignalling .f32 acc.toNat }, fun i => blockDot (a.blocks.getD i []) (b.blocks.getD i []) (a.scales.getD i oneVal) (b.scales.getD i oneVal), ?_, fun i hi => ?_⟩
  · rw [dotF, ha, length_elemGrid, ← ha]
    rfl
  · dsimp only
    rw [ha, hb, getD_elemGrid f hi, getD_elemGrid g hi, hsa i hi, hsb i hi, blockDot_fst, blockVal]

theorem blockVal_nan_leaf {f g : ℕ → MElem} {sa sb : ℕ → FVal} {i k : ℕ} (hk : k / 32 = i)
    (h : (f k).off = false ∧ (f k).val = .nan ∨ (g k).val = .nan) : blockVal f g sa sb i = .nan := by
  have hleaf : (treeVal sumRne (fun q => leafOf (f (32 * i + q)) (g (32 * i + q))) 5 0).1 = .nan := by
    refine treeVal_nan (k := k % 32) ?_ (by omega)
    rw [show 32 * i + k % 32 = k by omega]
    exact leafOf_nan h
  rw [blockVal, hleaf, times_nan_left, rne32_nan]

theorem blockVal_nan_scale {f g : ℕ → MElem} {sa sb : ℕ → FVal} {i : ℕ} (h : sa i = .nan ∨ sb i = .nan) :
    blockVal f g sa sb i = .nan := by
  have hs : times (sa i) (sb i) = .nan := by
    rcases h with h | h <;> simp only [h, times_nan_left, times_nan_right]
  rw [blockVal, hs, times_nan_right, rne32_nan]

theorem code32_nan : code32 .nan = 0x7FC00000 := rfl

theorem dotF_nan (acc : Word) {a b : MRow} {kb : ℕ} {f g : ℕ → MElem} {sa sb : ℕ → FVal} (ha : a.blocks = elemGrid kb f)
    (hb : b.blocks = elemGrid kb g) (hsa : ∀ i, i < kb → a.scales.getD i oneVal = sa i)
    (hsb : ∀ i, i < kb → b.scales.getD i oneVal = sb i)
    (h : unpack .f32 acc.toNat = .nan ∨ ∃ i, i < kb ∧ blockVal f g sa sb i = .nan) : (dotF acc a b).1 = 0x7FC00000#32 := by
  obtain ⟨fl, d, hd, hblock⟩ := dotF_grid acc ha hb hsa hsb
  rw [hd, accAfter_nan (h.imp id fun ⟨i, hi, hv⟩ => ⟨i, hi, (hblock i hi).trans hv⟩), code32_nan]

theorem dotF_real (acc : Word) {a b : MRow} {kb : ℕ} {f g : ℕ → MElem} {sa sb : ℕ → FVal} (ha : a.blocks = elemGrid kb f)
    (hb : b.blocks = elemGrid kb g) (hsa : ∀ i, i < kb → a.scales.getD i oneVal = sa i)
    (hsb : ∀ i, i < kb → b.scales.getD i oneVal = sb i) {p q za zb sum : ℕ → ℝ} (hacc : IsNum acc.toNat (sum 0))
    (hleaf : ∀ k, k < 32 * kb → IsReal (leafOf (f k) (g k)).1 (p k * q k)) (hza : ∀ i, i < kb → IsReal (sa i) (za i))
    (hzb : ∀ i, i < kb → IsReal (sb i) (zb i)) (h : BlocksRne p q za zb kb sum) : IsNum (dotF acc a b).1.toNat (sum kb) := by
  obtain ⟨fl, d, hd, hblock⟩ := dotF_grid acc ha hb hsa hsb
  choose! t z ht hz hsum using h
  have hval (i : ℕ) (hi : i < kb) : IsReal (d i).1 (z i) := by
    rw [hblock i hi]
    refine isReal_rne32 ((treeVal_real (fun k hk => hleaf _ ?_) (ht i hi)).times ((hza i hi).times (hzb i hi))) (hz i hi)
    omega
  have hnum := (accAfter_real (fl := fl) hacc hval hsum).2
  rwa [hd, BitVec.toNat_ofNat, Nat.mod_eq_of_lt (code32_lt _)]

/-! ## The elements of a row and a column -/

theorem elemOf_off (ty : ℕ) (y : ℕ → Byte) (k : ℕ) : (elemOf ty y k).off = false := by
  unfold elemOf
  split <;> rfl

theorem elemOf_nan {ty : ℕ} {y : ℕ → Byte} {k : ℕ} (h : elemNan ty y k) : (elemOf ty y k).val = .nan := by
  obtain ⟨f, hf, hn⟩ := h
  simp only [elemOf, hf, elemF]
  exact unpack_nan hn

theorem isReal_elemOf {ty : ℕ} {y : ℕ → Byte} {k : ℕ} (h : elemFinite ty y k) : IsReal (elemOf ty y k).val (elemNum ty y k) := by
  unfold elemOf elemNum
  cases hf : elemFmt ty with
  | some f => exact isReal_unpack (h f hf).1 (h f hf).2
  | none =>
    have := isFin_finOf (elemInt ty y k) 0 false
    rw [zpow_zero, mul_one] at this
    exact ⟨_, this⟩

theorem elemOf_int {ty : ℕ} (hf : elemFmt ty = none) (y : ℕ → Byte) (k : ℕ) : (elemOf ty y k).int = elemInt ty y k := by
  simp only [elemOf, hf, elemI]

theorem isReal_scaleVal {scaled : Bool} {v : BitVec 16} (h : scaled = true → codeNan .e4m3 (v.toNat % 256) = false) :
    IsReal (scaleVal scaled v) (if scaled then codeNum .e4m3 (v.toNat % 256) else 1) := by
  cases scaled with
  | false => exact isReal_oneVal
  | true => exact isReal_unpack (h rfl) rfl

theorem elemsOf_eq (ty : ℕ) : elemsOf ty = kOf ty := by
  unfold elemsOf kOf
  split
  · rw [if_neg (by omega)]
  · rfl

theorem blocks_mul (ty : ℕ) : 32 * (kOf ty / 32) = kOf ty := by
  unfold kOf
  split
  · rfl
  · split <;> rfl

/-- The integer types (R149). -/
theorem integer_types {ty : ℕ} (hty : (famOf ty).isSome) (hf : elemFmt ty = none) : ty = 5 ∨ ty = 6 ∨ ty = 8 := by
  rcases famOf_cases hty with rfl | rfl | rfl | rfl | h
  · cases hf
  · cases hf
  · cases hf
  · cases hf
  · exact h

/-- An integer element is zero where its lane gives no words (R150). -/
theorem elemInt_zero {ty : ℕ} (hty : (famOf ty).isSome) (hf : elemFmt ty = none) {a : ℕ → Byte} {on : ℕ → Bool}
    (ha : ∀ q, on (q / 4) = false → a q = 0) {k : ℕ} (hk : on (k / (kOf ty / 32)) = false) : elemInt ty a k = 0 := by
  rcases integer_types hty hf with rfl | rfl | rfl
  · simp [elemInt, ha k hk]
  · simp [elemInt, ha k hk]
  · have : a (k / 2) = 0 := ha _ (by rwa [Nat.div_div_eq_div_mul])
    simp [elemInt, this]

/-! ## A row of A and a column of B -/

/-- A row of A, its elements zero in the lanes outside `keep` (R150). -/
def rowOfA (ty : ℕ) (scaled : Bool) (keep : Mask) (a : ℕ → Byte) (ent : ℕ → BitVec 16) : MRow :=
  laneZeros (kOf ty / 32) keep (decodeRow ty (kOf ty / 32) scaled ((List.range 128).map a) ent)

/-- A column of B. -/
def colOfB (ty : ℕ) (scaled : Bool) (y : ℕ → Byte) (ent : ℕ → BitVec 16) : MRow :=
  decodeRow ty (kOf ty / 32) scaled ((List.range 128).map y) ent

theorem rowOfA_blocks {ty : ℕ} {a : ℕ → Byte} (hty : (famOf ty).isSome) (hm : NoMarker ty a) (ase : Bool) (keep : Mask)
    (ea : ℕ → BitVec 16) : (rowOfA ty ase keep a ea).blocks
      = elemGrid (kOf ty / 32) (laneElem (fun k => keep.getLsbD (k / (kOf ty / 32))) (elemOf ty a)) :=
  laneZeros_blocks (decodeRow_blocks hty hm ase ea)

theorem scales_rowOfA {ty i : ℕ} (hi : i < kOf ty / 32) (ase : Bool) (keep : Mask) (a : ℕ → Byte) (ea : ℕ → BitVec 16) :
    (rowOfA ty ase keep a ea).scales.getD i oneVal = scaleVal ase (ea i) := decodeRow_scales (ty := ty) hi ase ((List.range 128).map a) ea

theorem colOfB_blocks {tyA tyB : ℕ} {y : ℕ → Byte} (hty : (famOf tyB).isSome) (hk : kOf tyB = kOf tyA) (hm : NoMarker tyB y)
    (bse : Bool) (eb : ℕ → BitVec 16) : (colOfB tyB bse y eb).blocks = elemGrid (kOf tyA / 32) (elemOf tyB y) := by
  rw [← hk]
  exact decodeRow_blocks hty hm bse eb

theorem scales_colOfB {tyA tyB i : ℕ} (hk : kOf tyB = kOf tyA) (hi : i < kOf tyA / 32) {bse : Bool} (y : ℕ → Byte)
    {eb sb : ℕ → BitVec 16} (hs : bse = true → eb = sb) :
    (colOfB tyB bse y eb).scales.getD i oneVal = scaleVal bse (sb i) := by
  rw [colOfB, decodeRow_scales (hk ▸ hi)]
  cases bse with
  | false => rfl
  | true => rw [hs rfl]

section
variable {tyA tyB : ℕ} {a y : ℕ → Byte} {keep : Mask} (hA : (famOf tyA).isSome) (hB : (famOf tyB).isSome)
  (hk : kOf tyB = kOf tyA) (ma : NoMarker tyA a) (my : NoMarker tyB y) (ase : Bool) {bse : Bool} (ea : ℕ → BitVec 16) {eb sb : ℕ → BitVec 16}
  (hs : bse = true → eb = sb)
include hA hB hk ma my

/-- The integer path: exact, modulo 2^32 (R72). -/
theorem dotI_rows (fa : elemFmt tyA = none) (fb : elemFmt tyB = none) (hz : ∀ q, keep.getLsbD (q / 4) = false → a q = 0) (was : Word) :
    (dotI was (rowOfA tyA ase keep a ea) (colOfB tyB bse y eb)).1
      = was + BitVec.ofInt 32 (((List.range (elemsOf tyA)).map (fun k => elemInt tyA a k * elemInt tyB y k)).sum) := by
  rw [dotI_grid was (rowOfA_blocks hA ma ase keep ea) (colOfB_blocks hB hk my bse eb), blocks_mul, elemsOf_eq]
  congr 3
  refine List.map_congr_left fun k _ => ?_
  rw [elemOf_int fb, laneElem]
  cases hon : keep.getLsbD (k / (kOf tyA / 32)) with
  | true => rw [if_pos rfl, elemOf_int fa]
  | false =>
    rw [if_neg Bool.false_ne_true, elemInt_zero hA fa hz hon]

include hs

/-- The floating-point path where it takes a NaN (R63, R75). -/
theorem dotF_rows_nan {was : Word} (h : codeNan .f32 was.toNat = true
      ∨ (∃ k, k < elemsOf tyA ∧ (keep.getLsbD (k / (elemsOf tyA / 32)) = true ∧ elemNan tyA a k ∨ elemNan tyB y k))
      ∨ (∃ e, e < elemsOf tyA / 32 ∧ (ase = true ∧ codeNan .e4m3 ((ea e).toNat % 256) = true
          ∨ bse = true ∧ codeNan .e4m3 ((sb e).toNat % 256) = true))) :
    (dotF was (rowOfA tyA ase keep a ea) (colOfB tyB bse y eb)).1 = 0x7FC00000#32 := by
  rw [elemsOf_eq] at h
  refine dotF_nan was (rowOfA_blocks hA ma ase keep ea) (colOfB_blocks hB hk my bse eb)
    (fun i hi => scales_rowOfA hi ase keep a ea) (fun i hi => scales_colOfB hk hi y hs) ?_
  rcases h with h | ⟨k, hlt, h⟩ | ⟨e, he, h⟩
  · exact .inl (unpack_nan h)
  · refine .inr ⟨k / 32, Nat.div_lt_div_of_lt_of_dvd ⟨_, (blocks_mul tyA).symm⟩ hlt, blockVal_nan_leaf rfl ?_⟩
    rcases h with ⟨hon, h⟩ | h
    · exact .inl (by rw [laneElem, if_pos hon]; exact ⟨elemOf_off .., elemOf_nan h⟩)
    · exact .inr (elemOf_nan h)
  · refine .inr ⟨e, he, blockVal_nan_scale ?_⟩
    rcases h with ⟨rfl, h⟩ | ⟨rfl, h⟩
    · exact .inl (unpack_nan h)
    · exact .inr (unpack_nan h)

/-- The floating-point path within the finite numbers (R75). -/
theorem dotF_rows_real {was : Word} {sum : ℕ → ℝ} (hnan : ¬ (codeNan .f32 was.toNat = true
      ∨ (∃ k, k < elemsOf tyA ∧ (keep.getLsbD (k / (elemsOf tyA / 32)) = true ∧ elemNan tyA a k ∨ elemNan tyB y k))
      ∨ (∃ e, e < elemsOf tyA / 32 ∧ (ase = true ∧ codeNan .e4m3 ((ea e).toNat % 256) = true
          ∨ bse = true ∧ codeNan .e4m3 ((sb e).toNat % 256) = true))))
    (hinf : codeInf .f32 was.toNat = false)
    (hfin : ∀ k, k < elemsOf tyA → (keep.getLsbD (k / (elemsOf tyA / 32)) = true → elemFinite tyA a k) ∧ elemFinite tyB y k)
    (h0 : sum 0 = codeNum .f32 was.toNat)
    (h : BlocksRne (fun k => if keep.getLsbD (k / (elemsOf tyA / 32)) then elemNum tyA a k else 0) (elemNum tyB y)
      (fun e => if ase then codeNum .e4m3 ((ea e).toNat % 256) else 1) (fun e => if bse then codeNum .e4m3 ((sb e).toNat % 256) else 1)
      (elemsOf tyA / 32) sum) :
    IsNum (dotF was (rowOfA tyA ase keep a ea) (colOfB tyB bse y eb)).1.toNat (sum (elemsOf tyA / 32)) := by
  rw [elemsOf_eq] at hnan hfin h ⊢
  obtain ⟨hacc, hrest⟩ := not_or.1 hnan
  obtain ⟨-, hscale⟩ := not_or.1 hrest
  refine dotF_real was (rowOfA_blocks hA ma ase keep ea) (colOfB_blocks hB hk my bse eb)
    (fun i hi => scales_rowOfA hi ase keep a ea) (fun i hi => scales_colOfB hk hi y hs)
    ⟨was.isLt, Bool.eq_false_iff.2 hacc, hinf, h0.symm⟩ (fun k hlt => ?_)
    (fun i hi => isReal_scaleVal fun hs => ?_) (fun i hi => isReal_scaleVal fun hs => ?_) h
  · rw [blocks_mul] at hlt
    obtain ⟨fa, fb⟩ := hfin k hlt
    cases hon : keep.getLsbD (k / (kOf tyA / 32)) with
    | true =>
      rw [laneElem, if_pos hon, if_pos rfl, leafOf_on (elemOf_off ..)]
      exact (isReal_elemOf (fa hon)).times (isReal_elemOf fb)
    | false =>
      rw [laneElem, if_neg (by simp [hon]), if_neg Bool.false_ne_true, zero_mul]
      exact leafOf_off rfl (isReal_elemOf fb)
  · exact Bool.eq_false_iff.2 fun hn => hscale ⟨i, hi, .inl ⟨hs, hn⟩⟩
  · exact Bool.eq_false_iff.2 fun hn => hscale ⟨i, hi, .inr ⟨hs, hn⟩⟩

end

end Sys2Proof.Machine
end

section
/-! PROOF. What a released MMA takes from its members and its tile, and what it writes to their slots (R150, R151, R154, R157, R160). -/

namespace Sys2Proof.Machine

open Sys2Proof

/-! ## The words of a slot -/

/-- An element of a slot that an MMA updates: the old one, or 0 with ZF (R160). -/
def slotWord (zf : Bool) (old : AccSlot) (k : ℕ) : Word := if zf then 0 else fget old.words k 0

theorem slotRows_eq {zf : Bool} {old : AccSlot} (h : Rising 0 old.words) :
    (if zf then List.replicate 32 (List.replicate 256 0) else accRows old)
      = (List.range 32).map (fun i => (List.range 256).map (fun j => slotWord zf old (256 * i + j))) := by
  cases zf with
  | true =>
    have hrep (n : ℕ) {γ : Type} (x : γ) : List.replicate n x = (List.range n).map (fun _ => x) := by
      rw [List.map_const', List.length_range]
    rw [if_pos rfl, hrep 32, hrep 256]
    rfl
  | false =>
    rw [if_neg Bool.false_ne_true, accRows_eq h]
    rfl

theorem accUpdate_word (intp zf : Bool) (kb : ℕ) {old : AccSlot} {as bs : List MRow} (cb : MRow) (h : Rising 0 old.words)
    (hlen : bs.length = 256) {i col : ℕ} (hi : i < 32) (hcol : col < 256) {ra rb : MRow} (ha : as[i]? = some ra) (hb : bs[col]? = some rb) :
    fget (accUpdate intp zf kb old as bs cb).1.words (256 * i + col) 0
      = (dotUpdate intp (slotWord zf old (256 * i + col)) ra rb).1 := by
  simp only [accUpdate, slotRows_eq h]
  rw [fget_fcompact, List.getD_eq_getElem?_getD, List.getElem?_map, getElem?_flatten_uniform (n := 256) _ i hcol]
  · simp only [List.getElem?_map, List.zip, List.getElem?_zipWith, List.getElem?_range hi,
      List.getElem?_range hcol, ha, hb, Option.map_some, Option.bind_some, Option.getD_some]
  · intro l hl
    obtain ⟨e, he, rfl⟩ := List.mem_map.1 hl
    obtain ⟨hrow, -⟩ := List.of_mem_zip he
    obtain ⟨k, -, hk⟩ := List.mem_map.1 hrow
    simp [← hk, hlen]

/-! ## Slots written in order -/

theorem accOf_setAcc_same (h : CoreLaunch) (n : ℕ) (a : AccSlot) : accOf (setAcc h n a) n = a := by simp [accOf, setAcc]

theorem accOf_setAcc_other (h : CoreLaunch) {n k : ℕ} (a : AccSlot) (hk : k ≠ n) : accOf (setAcc h n a) k = accOf h k := by
  simp [accOf, setAcc, fget_fput_other _ _ _ hk]

section
variable {α β : Type} (F : ℕ → α → AccSlot × β)

/-- The slots from `d` on that the updates `F` of the members `L` write. -/
def slotUpdates (d : ℕ) (L : List α) : List (ℕ × AccSlot × β) := L.mapIdx (fun j x => (d + j, F j x))

theorem slotUpdates_cons (d : ℕ) (x : α) (L : List α) :
    slotUpdates F d (x :: L) = (d, F 0 x) :: slotUpdates (fun j => F (j + 1)) (d + 1) L := by
  simp [slotUpdates, List.mapIdx_cons, Nat.add_comm 1, Nat.add_assoc]

/-- A launch's holding with slots written. -/
def writeSlots (h : CoreLaunch) (ups : List (ℕ × AccSlot × β)) : CoreLaunch := ups.foldl (fun h e => setAcc h e.1 e.2.1) h

theorem accOf_writeSlots_other (h : CoreLaunch) {d k : ℕ} {L : List α} (hk : k < d ∨ d + L.length ≤ k) :
    accOf (writeSlots h (slotUpdates F d L)) k = accOf h k := by
  induction L generalizing F h d with
  | nil => rfl
  | cons x L ih =>
    rw [List.length_cons] at hk
    rw [slotUpdates_cons]
    exact (ih _ (setAcc h d (F 0 x).1) (by omega)).trans (accOf_setAcc_other h _ (by omega))

theorem accOf_writeSlots_at (h : CoreLaunch) {d j : ℕ} {L : List α} {x : α} (hj : L[j]? = some x) :
    accOf (writeSlots h (slotUpdates F d L)) (d + j) = (F j x).1 := by
  induction L generalizing F h d j with
  | nil => simp at hj
  | cons y L ih =>
    rw [slotUpdates_cons]
    cases j with
    | zero =>
      obtain rfl : y = x := by simpa using hj
      exact (accOf_writeSlots_other _ _ (.inl (Nat.lt_succ_self _))).trans (accOf_setAcc_same h d _)
    | succ j =>
      rw [show d + (j + 1) = d + 1 + j by omega]
      exact ih (fun j => F (j + 1)) _ (by simpa using hj)

end

/-! ## The columns of a tile (R151) -/

theorem sideEntry_scales {t : BTile} (h : t.scales) (i : ℕ) : sideEntry t i = fget t.side i 0 := by simp [sideEntry, h]

theorem tileCols_eq {t : BTile} (h : Rising 0 t.bytes) (ty : ℕ) (scaled : Bool) :
    tileCols t ty scaled = (List.range 256).map (fun n =>
      colOfB ty scaled (fun q => fget t.bytes (128 * n + q) 0) (fun b => sideEntry t (n * (kOf ty / 32) + b))) := by
  rw [tileCols]
  rw [show 32768 = 128 * 256 from rfl, chunks_expand 0 h]
  refine List.ext_getElem (by simp) fun n hn _ => ?_
  simp only [List.getElem_mapIdx, List.getElem_map, List.getElem_range]
  rfl

/-! ## The rows of a member (R150, R160) -/

theorem rowByte_lane (r : Row) (l j : ℕ) (hj : j < 4) : rowByte r (4 * l + j) = (lane r l).extractLsb' (8 * j) 8 := by
  rw [rowByte, show (4 * l + j) / 4 = l by omega, show (4 * l + j) % 4 = j by omega]

/-- The bytes of a row, zero in the lanes that give no words (R150). -/
def keptByte (keep : Mask) (r : Row) (q : ℕ) : Byte := if keep.getLsbD (q / 4) then rowByte r q else 0

theorem keptBytes_eq (keep : Mask) (r : Row) :
    lanes.flatMap (fun l => bytesOf32 (if keep.getLsbD l then lane r l else 0)) = (List.range 128).map (keptByte keep r) := by
  rw [show 128 = 4 * 32 from rfl, ← flatten_map_range (keptByte keep r) 4 32, List.flatMap]
  congr 1
  refine List.map_congr_left fun l _ => ?_
  simp only [bytesOf32_eq, List.range_succ, List.range_zero, List.nil_append, List.map_cons, List.map_nil, List.cons_append, keptByte,
    rowByte_lane r l _ (show 0 < 4 by decide), rowByte_lane r l _ (show 1 < 4 by decide), rowByte_lane r l _ (show 2 < 4 by decide),
    rowByte_lane r l _ (show 3 < 4 by decide), show (4 * l + 0) / 4 = l by omega, show (4 * l + 1) / 4 = l by omega,
    show (4 * l + 2) / 4 = l by omega, show (4 * l + 3) / 4 = l by omega]
  cases keep.getLsbD l with
  | true => rfl
  | false => simp

theorem gangRow_resident {s : State} {c : ℕ} {w : Warp} {n r : ℕ} (h : nameOf w n = .resident r) (hr : r < 24576) (k : ℕ) :
    gangRow s c w k n = rowOf (coreOf s c) r := by
  simp only [gangRow, h, refOfEntry, refRow]
  exact if_pos hr

theorem foldl_or_and {α : Type} (f : α → Mask) {m k : Mask} {l : List α} (hk : k &&& m = 0) (hl : ∀ x ∈ l, f x &&& m = 0) :
    l.foldl (fun k x => k ||| f x) k &&& m = 0 := by
  induction l generalizing k with
  | nil => exact hk
  | cons x l ih =>
    refine ih ?_ fun y hy => hl y (List.mem_cons_of_mem _ hy)
    have hdist : (k ||| f x) &&& m = (k &&& m) ||| (f x &&& m) :=
      BitVec.eq_of_getLsbD_eq fun i _ => by simp [Bool.and_or_distrib_right]
    rw [hdist, hk, hl x List.mem_cons_self]
    rfl

/-- The names of an arrival stand for rows of the pool, and no active lane takes poison from them (R160, R370). -/
def CleanRows (s : State) (c : ℕ) (v : Warp) (b : Arrival) : Prop :=
  ∀ k ∈ b.fName :: b.aNames, ∃ r, nameOf v k = .resident r ∧ r < 24576 ∧ (rowOf (coreOf s c) r).poison &&& b.active = 0

section
variable {s : State} {c : ℕ} {slot : ℕ} {v : Warp} {b : Arrival} (h : CleanRows s c v b) (j : ℕ)
include h

theorem gangRow_clean {n : ℕ} (hn : n ∈ b.fName :: b.aNames) (k : ℕ) : (gangRow s c v k n).poison &&& b.active = 0 := by
  obtain ⟨r, hr, hlt, hp⟩ := h n hn
  rw [gangRow_resident hr hlt, hp]

theorem aPart_kills : (aPart s c j ⟨slot, some (v, b)⟩).kills = 0 := by
  refine foldl_or_and PoolRow.poison (gangRow_clean h List.mem_cons_self _) fun x hx => ?_
  obtain ⟨i, hi, rfl⟩ := List.mem_mapIdx.1 hx
  exact gangRow_clean h (List.mem_cons_of_mem _ (List.getElem_mem hi)) _

theorem aPart_keep : (aPart s c j ⟨slot, some (v, b)⟩).keep = b.active := by
  change b.active &&& ~~~(aPart s c j ⟨slot, some (v, b)⟩).kills = b.active
  rw [aPart_kills h]
  exact BitVec.and_allOnes

theorem aPart_row {i r : ℕ} (hi : i < b.aNames.length) (hr : nameOf v (b.aNames.getD i 0) = .resident r) :
    (aPart s c j ⟨slot, some (v, b)⟩).rows[i]? = some ((List.range 128).map (keptByte b.active (rowOf (coreOf s c) r).words)) := by
  have hname : b.aNames.getD i 0 = b.aNames[i] := by simp [hi]
  have hlt : r < 24576 := by
    obtain ⟨r', hr', hlt, -⟩ := h _ (List.mem_cons_of_mem _ (List.getElem_mem hi))
    rw [← hname, hr, MapEntry.resident.injEq] at hr'
    exact hr' ▸ hlt
  have hrows : (aPart s c j ⟨slot, some (v, b)⟩).rows = (b.aNames.mapIdx (fun i n => gangRow s c v (33 * j + 1 + i) n)).map (fun r =>
      lanes.flatMap (fun l => bytesOf32 (if (aPart s c j ⟨slot, some (v, b)⟩).keep.getLsbD l then lane r.words l else 0))) := rfl
  rw [hrows, aPart_keep h, List.getElem?_map, List.getElem?_mapIdx, List.getElem?_eq_getElem hi, Option.map_some, Option.map_some,
    gangRow_resident (hname ▸ hr) hlt, keptBytes_eq]

end

/-! ## The effect of a released MMA on the state (R160) -/

theorem killAt_zero (s : State) (c slot : ℕ) (pc : PC) : killAt s c slot pc 0 = s := by
  cases hw : warpOf? s c slot with
  | none => simp only [killAt, hw]
  | some w => exact killAt_noneFresh hw pc BitVec.zero_and

theorem clOf_modWarp (s : State) (c n l : ℕ) (f : Warp → Warp) : clOf (modWarp s c n f) c l = clOf s c l := by
  unfold modWarp
  split
  · simp [clOf, setWarp]
  · rfl

theorem clOf_countFlags (s : State) (c l : ℕ) (fl : List Flags) : clOf (modCore s c (fun k => countFlags k fl)) c l = clOf s c l := by
  simp [clOf, countFlags]

theorem foldl_keeps {α γ : Type} (g : State → γ) {f : State → α → State} {l : List α} (hf : ∀ s, ∀ a ∈ l, g (f s a) = g s) (s : State) :
    g (l.foldl f s) = g s := by
  induction l generalizing s with
  | nil => rfl
  | cons a l ih => exact (ih (fun s b hb => hf s b (List.mem_cons_of_mem _ hb)) (f s a)).trans (hf s a List.mem_cons_self)

/-- The rows of A of each member, decoded (R150, R160). -/
def gangRows (s : State) (c : ℕ) (ms : List Member) (fw : Word) : List (List MRow) :=
  (ms.mapIdx (aPart s c)).mapIdx (fun j p => p.rows.mapIdx (fun i row =>
    laneZeros (kOf (fwA fw) / 32) p.keep (decodeRow (fwA fw) (kOf (fwA fw) / 32) (fwAse fw) row
      (fun b => fget (coreOf s c).scale (512 * fwAsb fw + (32 * j + i) * (kOf (fwA fw) / 32) + b) 0))))

/-- The update of member `j`'s slot (R160). -/
def gangUpdate (s : State) (c l d : ℕ) (fw : Word) (j : ℕ) (as : List MRow) : AccSlot × Flags :=
  let tile := tileOf (coreOf s c) (fwTile fw)
  accUpdate (fwInt fw) (fwZf fw) (kOf (fwA fw) / 32) (accOf (clOf s c l) (d + j)) as (tileCols tile (fwB fw) (fwBse fw))
    (sumRows (fwInt fw) (kOf (fwA fw) / 32) (tileCols tile (fwB fw) tile.scales))

section
variable {s : State} {c l d : ℕ} {ms : List Member} {fw : Word}

theorem mmaEffect_keeps {γ : Type} (g : State → γ) (hflags : ∀ s fl, g (modCore s c (fun k => countFlags k fl)) = g s)
    (hstamp : ∀ s, g (takeStamp s).2 = g s) (hwarp : ∀ s n f, g (modWarp s c n f) = g s)
    (hkill : ∀ p ∈ ms.mapIdx (aPart s c), p.kills = 0) : g (mmaEffect s c l ms d fw)
      = g (setCl s c l { writeSlots (clOf s c l) (slotUpdates (gangUpdate s c l d fw) d (gangRows s c ms fw)) with
          mburst := (clOf s c l).mburst - 1 }) := by
  unfold mmaEffect
  dsimp only
  rw [foldl_keeps g, foldl_keeps g, hstamp]
  · split
    · rfl
    · exact hflags ..
  · intro t m _
    split
    · exact hwarp ..
    · rfl
  · intro t e he
    split
    · rw [hkill _ (List.of_mem_zip he).2, killAt_zero]
    · rfl

variable (hkill : ∀ p ∈ ms.mapIdx (aPart s c), p.kills = 0)
include hkill

theorem mmaEffect_mem : (mmaEffect s c l ms d fw).mem = s.mem := by
  rw [mmaEffect_keeps State.mem (by simp) (by simp) (by simp) hkill, setCl_mem]

theorem mmaEffect_accOf (k : ℕ) : accOf (clOf (mmaEffect s c l ms d fw) c l) k
    = accOf (writeSlots (clOf s c l) (slotUpdates (gangUpdate s c l d fw) d (gangRows s c ms fw))) k := by
  rw [mmaEffect_keeps (clOf · c l) (fun s fl => clOf_countFlags s c l fl) (fun _ => rfl) (fun s n f => clOf_modWarp s c n l f) hkill,
    clOf_setCl_same]
  rfl

end

theorem clOf_takeGangFree (s : State) (ms : List Member) (c l : ℕ) : clOf (takeGangFree s ms) c l = clOf s c l := by
  unfold takeGangFree
  split <;> rfl

/-! ## The format word (R149, R153, R157) -/

/-- The elements of a row by the family of its type (R149). -/
def famElems (fam : Option ℕ) : ℕ := if fam = some 3 then 256 else if fam = some 2 then 64 else 128

theorem kOf_eq_famElems {ty : ℕ} (h : (famOf ty).isSome) : kOf ty = famElems (famOf ty) := by
  rcases famOf_cases h with rfl | rfl | rfl | rfl | rfl | rfl | rfl <;> rfl

theorem elemFmt_of_integer {ty : ℕ} (h : famOf ty = some 1 ∨ famOf ty = some 3) : elemFmt ty = none := by
  have hs : (famOf ty).isSome := by rcases h with h | h <;> rw [h] <;> rfl
  rcases famOf_cases hs with rfl | rfl | rfl | rfl | rfl | rfl | rfl
  · simp [famOf] at h
  · simp [famOf] at h
  · simp [famOf] at h
  · simp [famOf] at h
  · rfl
  · rfl
  · rfl

theorem families_of_fwBad {fw : Word} (h : fwBad fw = false) : (famOf (fwA fw)).isSome ∧ famOf (fwB fw) = famOf (fwA fw) := by
  simp only [fwBad, Bool.or_eq_false_iff, Option.isNone_eq_false_iff, bne_eq_false_iff_eq] at h
  obtain ⟨⟨⟨-, hs⟩, he⟩, -⟩ := h
  exact ⟨hs, he.symm⟩

theorem family_of_fwInt {fw : Word} (h : fwInt fw = true) : famOf (fwA fw) = some 1 ∨ famOf (fwA fw) = some 3 := by
  simp only [fwInt, Bool.or_eq_true, beq_iff_eq, Bool.and_eq_true] at h
  exact h.imp id fun h => h.1.1

/-- The types of an MMA's format: the same number of elements, and no floating-point format on the integer path (R149). -/
theorem types_of_fwBad {fw : Word} (h : fwBad fw = false) : (famOf (fwA fw)).isSome ∧ (famOf (fwB fw)).isSome
    ∧ kOf (fwB fw) = kOf (fwA fw) ∧ (fwInt fw = true → elemFmt (fwA fw) = none ∧ elemFmt (fwB fw) = none) := by
  obtain ⟨hA, hBA⟩ := families_of_fwBad h
  have hB : (famOf (fwB fw)).isSome := hBA ▸ hA
  refine ⟨hA, hB, by rw [kOf_eq_famElems hB, kOf_eq_famElems hA, hBA], fun hi => ?_⟩
  exact ⟨elemFmt_of_integer (family_of_fwInt hi), elemFmt_of_integer (hBA ▸ family_of_fwInt hi)⟩

theorem format_of_gangCheck {s : State} {c l d : ℕ} {ms : List Member} {fw : Word} (hr : referenceWord s c ms = some fw)
    (hg : gangCheck s c l ms d = none) : fwBad fw = false := by
  by_contra hbad
  rw [Bool.not_eq_false] at hbad
  simp only [gangCheck, hr, hbad, if_true] at hg
  split at hg
  · cases hg
  · split at hg <;> cases hg

theorem scales_of_tileCheck {s : State} {c l : ℕ} {fw : Word} (h : tileCheck s c l fw = none) (hb : fwBse fw = true) :
    (tileOf (coreOf s c) (fwTile fw)).scales := by
  simp only [tileCheck] at h
  split at h
  · cases h
  · split at h
    · cases h
    · rename_i hn
      by_contra hs
      exact hn (.inr ⟨hb, hs⟩)

/-! ## What a member's slot holds after the MMA -/

theorem kills_of_clean {s : State} {c : ℕ} {ms : List Member} (h : ∀ m ∈ ms, ∀ v b, m.w = some (v, b) → CleanRows s c v b) :
    ∀ p ∈ ms.mapIdx (aPart s c), p.kills = 0 := by
  intro p hp
  obtain ⟨j, hj, rfl⟩ := List.mem_mapIdx.1 hp
  cases hm : ms[j] with
  | mk slot o => cases o with
    | none => rfl
    | some e => exact aPart_kills (h _ (List.getElem_mem hj) e.1 e.2 (by rw [hm])) j

theorem gangRows_row {s : State} {c slot j i r : ℕ} {ms : List Member} {v : Warp} {b : Arrival} (fw : Word)
    (hj : ms[j]? = some ⟨slot, some (v, b)⟩) (h : CleanRows s c v b) (hi : i < b.aNames.length)
    (hr : nameOf v (b.aNames.getD i 0) = .resident r) :
    ∃ as, (gangRows s c ms fw)[j]? = some as
      ∧ as[i]? = some (rowOfA (fwA fw) (fwAse fw) b.active (keptByte b.active (rowOf (coreOf s c) r).words)
        (fun e => fget (coreOf s c).scale (512 * fwAsb fw + (32 * j + i) * (kOf (fwA fw) / 32) + e) 0)) := by
  refine ⟨_, by rw [gangRows, List.getElem?_mapIdx, List.getElem?_mapIdx, hj]; rfl, ?_⟩
  rw [List.getElem?_mapIdx, aPart_row h j hi hr, aPart_keep h]
  rfl

/-- An element of a member's slot (R160). -/
theorem gangUpdate_word {s : State} {c l d slot j i col r : ℕ} {ms : List Member} {v : Warp} {b : Arrival} {fw : Word}
    (hj : ms[j]? = some ⟨slot, some (v, b)⟩) (h : CleanRows s c v b) (hlen : b.aNames.length = 32) (hi : i < 32) (hcol : col < 256)
    (hr : nameOf v (b.aNames.getD i 0) = .resident r) (hold : Rising 0 (accOf (clOf s c l) (d + j)).words)
    (htile : Rising 0 (tileOf (coreOf s c) (fwTile fw)).bytes) (hk : kOf (fwB fw) = kOf (fwA fw)) :
    ∃ as, (gangRows s c ms fw)[j]? = some as ∧ fget (gangUpdate s c l d fw j as).1.words (256 * i + col) 0
      = (dotUpdate (fwInt fw) (slotWord (fwZf fw) (accOf (clOf s c l) (d + j)) (256 * i + col))
        (rowOfA (fwA fw) (fwAse fw) b.active (keptByte b.active (rowOf (coreOf s c) r).words)
          (fun e => fget (coreOf s c).scale (512 * fwAsb fw + (32 * j + i) * (kOf (fwA fw) / 32) + e) 0))
        (colOfB (fwB fw) (fwBse fw) (fun q => fget (tileOf (coreOf s c) (fwTile fw)).bytes (128 * col + q) 0)
          (fun e => sideEntry (tileOf (coreOf s c) (fwTile fw)) (col * (kOf (fwA fw) / 32) + e)))).1 := by
  obtain ⟨as, hj', hrow⟩ := gangRows_row fw hj h (hlen ▸ hi) hr
  refine ⟨as, hj', ?_⟩
  rw [gangUpdate]
  refine accUpdate_word _ _ _ _ hold ?_ hi hcol hrow ?_
  · rw [tileCols_eq htile, List.length_map, List.length_range]
  · rw [tileCols_eq htile, List.getElem?_map, List.getElem?_range hcol, Option.map_some, hk]

theorem gangUpdate_tag (s : State) (c l d : ℕ) (fw : Word) (j : ℕ) (as : List MRow) :
    (gangUpdate s c l d fw j as).1.tag = if fwInt fw then .int else .fp := rfl

end Sys2Proof.Machine
end

section
/-! PROOF. The products of the matrix unit (O38). -/

namespace Sys2Proof.Machine

open Sys2Proof

theorem fget_property {α : Type} {P : α → Prop} {d : α} (hd : P d) {m : FMap α} (h : ∀ e ∈ m, P e.2) (k : ℕ) : P (fget m k d) := by
  induction m with
  | nil => exact hd
  | cons e m ih =>
    have hrest := ih fun e' he => h e' (List.mem_cons_of_mem _ he)
    simp only [fget, fget?] at hrest ⊢
    split
    · exact h e List.mem_cons_self
    · exact hrest

theorem getD_mem {α : Type} {l : List α} {i : ℕ} (d : α) (h : i < l.length) : l.getD i d ∈ l := by
  rw [List.getD_eq_getElem l d h]
  exact List.getElem_mem h

theorem rising_accOf {h : CoreLaunch} (hw : ∀ e ∈ h.accs, (fkeys e.2.words).Pairwise (· < ·)) (k : ℕ) : Rising 0 (accOf h k).words :=
  (rising_iff_pairwise 0 _).2 ⟨fun _ _ => Nat.zero_le _,
    fget_property (P := fun a : AccSlot => (fkeys a.words).Pairwise (· < ·)) List.Pairwise.nil hw k⟩

/-- Settles O38: the products by lists of decoded elements, the slots as they are written in order, a drained element step by step. -/
theorem matrixProducts : Obligations.MatrixProducts := by
  unfold Obligations.MatrixProducts
  refine ⟨?_, ?_, ?_⟩
  · intro s u c n w ms fw hw harr hms hall arrived acc hu href hheld hcheck htilecheck hclean h tile _ hwords hbytes
    obtain ⟨a, ha⟩ := Option.isSome_iff_exists.1 harr
    have hkill := kills_of_clean (s := u) (c := c) hclean
    obtain ⟨hA, hB, hk, hintegers⟩ := types_of_fwBad (format_of_gangCheck href hcheck)
    have hlen : (gangRows u c arrived fw).length = arrived.length := by simp [gangRows]
    have hacc (k : ℕ) : accOf (clOf (takeGangFree (mmaEffect u c w.launch arrived acc fw) arrived) c w.launch) k
        = accOf (writeSlots h (slotUpdates (gangUpdate u c w.launch acc fw) acc (gangRows u c arrived fw))) k := by
      rw [clOf_takeGangFree, mmaEffect_accOf hkill]
    refine ⟨takeGangFree (mmaEffect u c w.launch arrived acc fw) arrived, ?_, ?_, ?_, ?_⟩
    · rw [exec_gangRelease, execGangRelease_runs hw ha hms hall, gangRun_takesEffect href hheld hcheck (hu ▸ htilecheck), ← hu]
    · rw [takeGangFree_mem, mmaEffect_mem hkill]
    · intro k hout
      rw [hacc, accOf_writeSlots_other _ _ (hlen.symm ▸ hout)]
    · intro j slot v b hj old new
      have hmem : (⟨slot, some (v, b)⟩ : Member) ∈ arrived := List.mem_of_getElem? hj
      have hrows : CleanRows u c v b := hclean _ hmem v b rfl
      have hjlt : j < (gangRows u c arrived fw).length := hlen ▸ (List.getElem?_eq_some_iff.1 hj).1
      have hnew {as : List MRow} (has : (gangRows u c arrived fw)[j]? = some as) :
          new = (gangUpdate u c w.launch acc fw j as).1 := (hacc (acc + j)).trans (accOf_writeSlots_at _ h has)
      refine ⟨by rw [hnew (List.getElem?_eq_getElem hjlt), gangUpdate_tag], ?_⟩
      intro i col hi hcol was now row a y blocks on sa sb scale hnames ma my
      obtain ⟨r, hr, -, -⟩ := hrows _ (List.mem_cons_of_mem _ (getD_mem 0 (hnames ▸ hi)))
      have hrow : row = (rowOf (coreOf u c) r).words := by simp only [row, hr]
      have hbyte : a = keptByte b.active (rowOf (coreOf u c) r).words := by rw [← hrow]; rfl
      have hz (q : ℕ) (hq : b.active.getLsbD (q / 4) = false) : a q = 0 := if_neg (by rw [hq]; exact Bool.false_ne_true)
      have hs (hb : fwBse fw = true) : (fun e => sideEntry tile (col * blocks + e)) = sb :=
        funext fun e => sideEntry_scales (scales_of_tileCheck htilecheck hb) _
      have hnow : now = (dotUpdate (fwInt fw) was (rowOfA (fwA fw) (fwAse fw) b.active a sa)
          (colOfB (fwB fw) (fwBse fw) y (fun e => sideEntry tile (col * blocks + e)))).1 := by
        obtain ⟨as, has, hword⟩ := gangUpdate_word (l := w.launch) (d := acc) hj hrows hnames hi hcol hr (rising_accOf hwords _)
          ((rising_iff_pairwise 0 _).2 ⟨fun _ _ => Nat.zero_le _, hbytes⟩) hk
        rw [← elemsOf_eq, ← hbyte] at hword
        exact (congrArg (fun x : AccSlot => fget x.words (256 * i + col) 0) (hnew has)).trans hword
      clear_value a now
      refine ⟨fun hint => ?_, fun hfloat => ⟨fun hnan => ?_, fun hnan hinf hfin sum h0 hsum => ?_⟩⟩
      · obtain ⟨fA, fB⟩ := hintegers hint
        rw [hnow, hint]
        exact dotI_rows hA hB hk ma my (fwAse fw) sa fA fB hz was
      · rw [hnow, hfloat]
        exact dotF_rows_nan hA hB hk ma my (fwAse fw) sa hs hnan
      · rw [hnow, hfloat]
        exact dotF_rows_real hA hB hk ma my (fwAse fw) sa hs hnan hinf hfin h0 hsum
  · intro e size m0 i n bias a hi hn hw
    exact slotRows_element e size m0 bias ((rising_iff_pairwise 0 _).2 ⟨fun _ _ => Nat.zero_le _, hw⟩) hi hn
  · intro e int bias x _ _ _
    refine ⟨fun hi ho => ?_, fun h => drainElem_steps e int bias x h⟩
    simp [drainElem, hi, ho]

end Sys2Proof.Machine
end

section
/-! PROOF. The map instructions: fresh rows, moves of map entries, and queries (O15, O17, O19). -/

namespace Sys2Proof.Machine

open Sys2Proof

/-! ## The checks of a map instruction -/

/-- A map instruction whose names have settled is its effect (R46, R81). -/
theorem mapWord_settled {s : State} {x : Ctx} {items : Ctx → List PendItem} (h : ctxOf s = some x) (hp : Settled x.w (items x))
    (f : Ctx → Except Stop (State × After)) : mapWord s items f = finish s x (f x) := by
  rw [mapWord, runWord_at h, checkPending_ok hp]
  rfl

section

variable {before after : State} {x : Ctx} {missing : Nat}

theorem checkRows_fits (h : overQuota after x.c x.w.launch missing ≤ overQuota before x.c x.w.launch 0) (hm : missing = 0) :
    checkRows before after x missing = .ok after := by
  simp [checkRows, hm ▸ h, hm]

theorem checkRows_beyond (h : overQuota after x.c x.w.launch missing > overQuota before x.c x.w.launch 0) :
    checkRows before after x missing = .error (.trap cNoRow (tv (overQuota after x.c x.w.launch missing))) := by
  simp [checkRows, h, raise]

theorem checkRows_short (h : overQuota after x.c x.w.launch missing ≤ overQuota before x.c x.w.launch 0) (hm : missing ≠ 0) :
    checkRows before after x missing = .error (.trap cNoRow (tv missing)) := by
  simp [checkRows, Nat.not_lt.2 h, Nat.pos_of_ne_zero hm, raise]

end

/-- The rows of a list of names that are all of the launch's tenant may be moved (R85). -/
theorem checkTags_ok {s : State} {x : Ctx} {ns : List Nat} (h : Tagged s x ns) : checkTags s x ns = .ok () := by
  unfold checkTags
  split
  · next r hr =>
    obtain ⟨n, hn, hf⟩ := List.exists_of_findSome?_eq_some hr
    split at hf
    · next q hq => simp [h n hn q hq] at hf
    · cases hf
  · rfl

theorem checkTags_foreign {s : State} {x : Ctx} {n r : Nat} (he : entryOf s x n = .resident r)
    (ht : (rowOf (coreOf s x.c) r).tag ≠ x.l.tenant) : checkTags s x [n] = .error (.trap cTenant (tv r)) := by
  simp [checkTags, he, ht, raise]

/-! ## MAP and MAPR (R90) -/

theorem winRun_one (w : Warp) (d : BitVec 7) : winRun w d 1 = [winName w d] := by simp [winRun]

/-- MAP is MAPR of one name. -/
theorem execMapr_zero (d : BitVec 7) (s : State) : execMapr d 0 s = execMap d s := by
  have hone (w : Warp) : winRun w d ((0 : BitVec 5).toNat + 1) = [winName w d] := winRun_one w d
  simp only [execMapr, execMap, hone, iNames, List.map_cons, List.map_nil]

/-- MAPR checks that the rows that it has taken can be had, with what its names held dropped (R82, R83). -/
theorem execMapr_checksRows {s t : State} {x : Ctx} {d : BitVec 7} {n : BitVec 5} {rs : List Nat} {missing : Nat}
    (h : ctxOf s = some x) (hp : Settled x.w (iNames (winRun x.w d (n.toNat + 1))))
    (ha : allocRows s x (winRun x.w d (n.toNat + 1)).length = (t, rs, missing)) :
    execMapr d n s = finish s x ((checkRows s (((winRun x.w d (n.toNat + 1)).zip rs).foldl
      (fun s e => replaceEntry s x e.1 (.resident e.2)) t) x missing).map (·, After.seq)) := by
  rw [execMapr, mapWord_settled h hp, mapRun, ha]
  rfl

/-- Settles O15: the three outcomes of the check on rows; MAP is MAPR of one name. -/
theorem mapGivesFreshRows : Obligations.MapGivesFreshRows := by
  intro s t x d n rs missing h names u beyond ha hp gives
  have hgives {z : State} (hz : execMapr d n s = .next z) : gives z := by
    refine ⟨hz, ?_⟩
    rintro rfl
    rw [exec_map, ← execMapr_zero, hz]
  have hrun := execMapr_checksRows h hp ha
  refine ⟨fun hb hm => hgives ?_, fun hb => hgives ?_, fun hb hm => hgives ?_⟩
  · rw [hrun, checkRows_fits hb hm]
    rfl
  · rw [hrun, checkRows_beyond hb]
    rfl
  · rw [hrun, checkRows_short hb hm]
    rfl

/-! ## Moves of map entries (R91 to R93) -/

theorem execUnmap_drops {s : State} {x : Ctx} {d : BitVec 7} (h : ctxOf s = some x) (hp : Settled x.w [.name (winName x.w d)]) :
    execUnmap d s = .next (advance (dropName s x.c x.slot (winName x.w d)) x .seq) := by
  rw [execUnmap, mapWord_settled h hp, finish_ok]

theorem execUnmapm_drops {s : State} {x : Ctx} {k : BitVec 6} (h : ctxOf s = some x)
    (hp : Settled x.w (iS k :: iNames (blockNames (sReg x.w k)))) :
    execUnmapm k s = .next (advance ((blockNames (sReg x.w k)).foldl (fun s m => dropName s x.c x.slot m) s) x .seq) := by
  rw [execUnmapm, mapWord_settled h]
  · exact finish_ok ..
  · exact hp

section

variable {s t : State} {x : Ctx} {d a : BitVec 7} (h : ctxOf s = some x)
  (hp : Settled x.w (iNames [winName x.w a, winName x.w d]))

include h hp

/-- MOVN to its own source moves nothing (R92). -/
theorem execMovn_same (he : winName x.w a = winName x.w d) (hl : reloadNames s x [winName x.w a] = .ok t) :
    execMovn d a s = .next (advance t x .seq) := by
  rw [execMovn, mapWord_settled h hp]
  simp only [if_pos he, hl, bind, Except.bind, finish_ok]

/-- MOVN to another name, up to its check on the tag. -/
theorem execMovn_checksTags (hne : winName x.w a ≠ winName x.w d) (hm : Mapped x.w [winName x.w a])
    (hl : reloadNames s x [winName x.w a] = .ok t) :
    execMovn d a s = finish s x ((checkTags t x [winName x.w a]).map fun _ =>
      (replaceEntry (putEntry t x (winName x.w a) .unmapped) x (winName x.w d) (entryOf t x (winName x.w a)), .seq)) := by
  rw [execMovn, mapWord_settled h hp]
  simp only [if_neg hne, checkMapped_ok hm, hl, bind, Except.bind]
  rfl

theorem execSwpn_swaps (hl : reloadNames s x [winName x.w a, winName x.w d] = .ok t)
    (ht : Tagged t x [winName x.w a, winName x.w d]) :
    execSwpn d a s = .next (advance (putEntry (putEntry t x (winName x.w a) (entryOf t x (winName x.w d))) x (winName x.w d)
      (entryOf t x (winName x.w a))) x .seq) := by
  rw [execSwpn, mapWord_settled h hp]
  simp only [hl, checkTags_ok ht, bind, Except.bind, finish_ok]

section

variable {r : Nat} (hm : Mapped x.w [winName x.w a]) (hl : reloadNames s x [winName x.w a] = .ok t)

include hm hl

theorem execAliasN_foreign (he : entryOf t x (winName x.w a) = .resident r) (ht : (rowOf (coreOf t x.c) r).tag ≠ x.l.tenant) :
    execAliasN d a s = .next (trapped s x cTenant (tv r)) := by
  rw [execAliasN, mapWord_settled h hp]
  simp only [checkMapped_ok hm, hl, he, bne_iff_ne.2 ht, raiseIf_true, bind, Except.bind]
  rfl

theorem execAliasN_shares (he : entryOf t x (winName x.w a) = .resident r) (ht : (rowOf (coreOf t x.c) r).tag = x.l.tenant)
    (hc : (rowOf (coreOf t x.c) r).count ≠ 4095) :
    execAliasN d a s = .next (advance (replaceEntry (addRef t x.c x.l.tenant r) x (winName x.w d) (.resident r)) x .seq) := by
  rw [execAliasN, mapWord_settled h hp]
  simp only [checkMapped_ok hm, hl, he, ht, bne_self_eq_false, beq_false_of_ne hc, Bool.false_and, raiseIf_false, bind,
    Except.bind, finish_ok]

theorem execCopyn_copies {u : State}
    (hr : takeRow t x.c x.w.launch (rowOfName t x (winName x.w a)).words (rowOfName t x (winName x.w a)).poison = some (r, u))
    (hq : overQuota (replaceEntry u x (winName x.w d) (.resident r)) x.c x.w.launch 0 ≤ overQuota t x.c x.w.launch 0) :
    execCopyn d a s = .next (advance (replaceEntry u x (winName x.w d) (.resident r)) x .seq) := by
  rw [execCopyn, mapWord_settled h hp]
  simp only [checkMapped_ok hm, hl, hr, checkRows_fits hq rfl, bind, Except.bind, finish_ok]

end

end

theorem execRotn_rotates {s t : State} {x : Ctx} {d : BitVec 7} {n j : BitVec 5} (h : ctxOf s = some x)
    (hp : Settled x.w (iNames (winRun x.w d (n.toNat + 1)))) (hl : reloadNames s x (winRun x.w d (n.toNat + 1)) = .ok t)
    (ht : Tagged t x (winRun x.w d (n.toNat + 1))) :
    execRotn d n j s = .next (advance ((List.range (winRun x.w d (n.toNat + 1)).length).foldl (fun s i =>
      putEntry s x ((winRun x.w d (n.toNat + 1)).getD i 0) (((winRun x.w d (n.toNat + 1)).map (entryOf t x)).getD
        ((i + j.toNat) % (winRun x.w d (n.toNat + 1)).length) .unmapped)) t) x .seq) := by
  rw [execRotn, mapWord_settled h hp]
  simp only [hl, checkTags_ok ht, bind, Except.bind, finish_ok]

/-- Settles O17, word by word. -/
theorem mapMovesEntries : Obligations.MapMovesEntries := by
  intro s t x d a k n j h
  refine ⟨execUnmap_drops h, execUnmapm_drops h, fun hp => ⟨execMovn_same h hp, fun hne hm hl => ⟨fun ht => ?_, fun r he ht => ⟨?_, ?_⟩⟩,
    execSwpn_swaps h hp, fun r hm hl he => execAliasN_shares h hp hm hl he, fun r u hm hl hr => execCopyn_copies h hp hm hl hr⟩,
    execRotn_rotates h⟩
  · rw [exec_movn, execMovn_checksTags h hp hne hm hl, checkTags_ok ht]
    rfl
  · rw [exec_movn, execMovn_checksTags h hp hne hm hl, checkTags_foreign he ht]
    rfl
  · exact execAliasN_foreign h hp hm hl he ht

/-! ## Queries and the window (R97, R98) -/

/-- What ISMAP writes to the lanes of ACTIVE (R97). -/
def mappedLanes (s : State) (x : Ctx) : MapEntry → Mask
  | .unmapped => 0
  | .resident r => ~~~(refRow s x.c x.l.tenant r).poison
  | .spilt k => ~~~(refRow s x.c x.l.tenant (poolRows + k)).poison

theorem execIsmap_writes {s : State} {x : Ctx} {d : BitVec 4} {a : BitVec 7} (h : ctxOf s = some x)
    (hp : Settled x.w [.name (winName x.w a), .pred d.toNat]) :
    execIsmap d a s
      = .next (warpDone s x (fun w => setPLanes w d (ctxActive x) (mappedLanes s x (nameOf x.w (winName x.w a))))) := by
  have hp' : Settled x.w (.name (winName x.w a) :: if ctxActive x = 0 then [] else [.pred d.toNat]) := by
    split
    · exact fun i hi => hp i (List.mem_cons.2 (.inl (List.mem_singleton.1 hi)))
    · exact hp
  rw [execIsmap, mapWord_settled h hp', finish_ok]
  cases nameOf x.w (winName x.w a) <;> rfl

theorem execMapq_writes {s : State} {x : Ctx} {k : BitVec 6} {a : BitVec 7} (h : ctxOf s = some x)
    (hp : Settled x.w [.name (winName x.w a), iS k]) :
    execMapq k a s = .next (scalarDone s x k (mapWordOf s x (nameOf x.w (winName x.w a)))) := by
  rw [execMapq, mapWord_settled h hp, finish_ok]
  rfl

theorem execWbase_moves {s : State} {x : Ctx} (b : BitVec 7) (h : ctxOf s = some x) :
    execWbase b s = .next (warpDone s x (fun w => { w with wb := BitVec.ofNat 9 (16 * b.toNat) })) := by
  rw [execWbase, runWord_at h, finish_ok]
  rfl

/-- Settles O19, by the state of the name's entry. -/
theorem mapQueries : Obligations.MapQueries := by
  intro s x d k a b h na
  refine ⟨fun hp => ⟨fun he => ?_, fun r he hr => ?_⟩, fun hp => ⟨fun he => ?_, fun r he => ?_⟩, execWbase_moves b h⟩
  · rw [exec_ismap, execIsmap_writes h hp, he, mappedLanes]
  · rw [exec_ismap, execIsmap_writes h hp, he, mappedLanes, refRow, if_pos (show r < poolRows from hr)]
  · rw [exec_mapq, execMapq_writes h hp, he, mapWordOf]
  · rw [exec_mapq, execMapq_writes h hp, he, mapWordOf, tv]

end Sys2Proof.Machine
end

section
/-! PROOF. The release of a row fails on a row list that names a row twice (O16). -/

namespace Sys2Proof.Machine

open Sys2Proof

/-- The warp of `rowListedTwice`, whose name 0 has row 0, on a core that lists row 0 twice, with one reference each time. -/
def rowHeldTwice : State := modCore rowListedTwice 0 (fun k => setRow k 0 { freeRow with count := 1 })

theorem rowHeldTwice_warp : (warpOf? rowHeldTwice 0 0).any (fun w => nameOf w 0 == .resident 0) = true := by decide +kernel

theorem rowHeldTwice_count : (rowOf (coreOf rowHeldTwice 0) 0).count = 1 := by decide +kernel

/-- Once the one reference is dropped, the second entry is what the list says of the row. -/
theorem rowHeldTwice_dropName : (rowOf (coreOf (dropName rowHeldTwice 0 0 0) 0) 0).count = 1 := by decide +kernel

/-- Refutes O16: on a core whose row list names row 0 twice, the drop of the last reference takes the first entry off the list and
leaves the second, so that the row is not free. The statement does not ask that the numbers of the list rise, as they do wherever
`setRow` has built it. -/
theorem not_rowsAreTakenAndReleased : ¬ Obligations.RowsAreTakenAndReleased := by
  rintro ⟨-, hdrop⟩
  obtain ⟨w, hw, hname⟩ := (Option.any_eq_true _ _).1 rowHeldTwice_warp
  obtain ⟨-, hfree, -⟩ := hdrop rowHeldTwice 0 0 0 0 w hw (beq_iff_eq.1 hname) (by decide)
  have hcount := rowHeldTwice_dropName
  rw [hfree rowHeldTwice_count.le] at hcount
  exact absurd hcount (by decide)

end Sys2Proof.Machine
end

section
/-! PROOF. The scalar operations (O1). -/

namespace Sys2Proof.Machine

open Sys2Proof

/-! ## Operations on values of any one width (R101, R102, R105) -/

/-- An arithmetic shift by more than the width leaves sign bits only. -/
theorem sshiftRight_min_width {n : Nat} (v : BitVec n) (k : Nat) : v.sshiftRight (min k n) = v.sshiftRight k := by
  rcases Nat.le_total k n with h | h
  · rw [Nat.min_eq_left h]
  · rw [Nat.min_eq_right h]
    ext i hi
    simp [BitVec.getElem_sshiftRight, show ¬ n + i < n by omega, show ¬ k + i < n by omega]

theorem ccHolds_eq {n : Nat} (cc : BitVec 3) (v w : BitVec n) : ccHolds cc v w =
    if cc = 0 then v == w else if cc = 1 then v != w else if cc = 2 then v.slt w else if cc = 3 then v.sle w
    else if cc = 4 then w.slt v else if cc = 5 then w.sle v else if cc = 6 then v.ult w else w.ule v := by
  match cc with
  | 0 | 1 | 2 | 3 | 4 | 5 | 6 | 7 => rfl

/-! ## The operations of R101 on two scalars -/

theorem mulHigh64_eq (u v : DWord) : mulHigh64 u v = (u.signExtend 128 * v.signExtend 128).extractLsb' 64 64 := by
  have hz : u.signExtend 128 * v.signExtend 128 = BitVec.ofInt 128 (u.toInt * v.toInt) := (BitVec.ofInt_mul ..).symm
  rw [hz]
  refine BitVec.eq_of_toNat_eq ?_
  simp only [mulHigh64, BitVec.extractLsb'_toNat, BitVec.toNat_ofInt, Nat.shiftRight_eq_div_pow]
  omega

theorem sra64_eq (u v : DWord) : sra64 u v = u.sshiftRight v.toNat := sshiftRight_min_width u v.toNat

theorem min64_eq (u v : DWord) : min64 u v = if u.sle v then u else v := by simp [min64, BitVec.sle]

theorem max64_eq (u v : DWord) : max64 u v = if u.sle v then v else u := by simp [max64, BitVec.sle]

/-- Settles O1: each word is a scalar operation on two registers or on one and its immediate, whose value is that of R101. -/
theorem scalarOperations : Obligations.ScalarOperations := by
  intro s x d a h
  constructor
  · intro b hp u v
    exact ⟨scalarRR_next h hp _ rfl, scalarRR_next h hp _ rfl, scalarRR_next h hp _ rfl, scalarRR_next h hp _ (mulHigh64_eq u v),
      scalarRR_next h hp _ rfl, scalarRR_next h hp _ rfl, scalarRR_next h hp _ rfl, scalarRR_next h hp _ rfl,
      scalarRR_next h hp _ rfl, scalarRR_next h hp _ (sra64_eq u v), scalarRR_next h hp _ (min64_eq u v),
      scalarRR_next h hp _ (max64_eq u v)⟩
  · intro imm hp u v z
    exact ⟨scalarRI_next h hp v _ rfl, scalarRI_next h hp v _ rfl, scalarRI_next h hp v _ rfl,
      scalarRI_next h hp v _ (mulHigh64_eq u v), scalarRI_next h hp z _ rfl, scalarRI_next h hp z _ rfl,
      scalarRI_next h hp z _ rfl, scalarRI_next h hp z _ rfl, scalarRI_next h hp z _ rfl, scalarRI_next h hp z _ (sra64_eq u z),
      scalarRI_next h hp v _ (min64_eq u v), scalarRI_next h hp v _ (max64_eq u v)⟩

end Sys2Proof.Machine
end

section
/-! PROOF. The scalar compares and moves, and where their statement fails (O2). -/

namespace Sys2Proof.Machine

open Sys2Proof

/-! ## SCMP, SSEL, SLDI and SLIT (R102, R103) -/

section

variable {s : State} {x : Ctx} {d a b : BitVec 6} (h : ctxOf s = some x)
include h

/-- A scalar word that writes a value of its warp to one scalar (R99). -/
theorem scalarWord_writes {items : List PendItem} (hp : Settled x.w items) (f : Warp → DWord) {v : DWord} (e : f x.w = v) :
    runWord s (fun x => scalarWord x s items (fun w => setS w d (f w))) = .next (scalarDone s x d v) := by
  subst e
  rw [scalarWord_next h hp, scalarDone]
  exact congrArg _ (warpDone_congr h rfl)

theorem execScmp_writes (hp : Settled x.w [iS a, iS b, iS d]) (cc : BitVec 3) :
    execScmp cc d a b s = .next (scalarDone s x d (if ccHolds cc (sReg x.w a) (sReg x.w b) then 1 else 0)) :=
  scalarRR_next h hp _ rfl

theorem execScmpImm_writes (hp : Settled x.w [iS a, iS d]) (cc : BitVec 3) (imm : BitVec 7) :
    execScmpImm cc d a imm s = .next (scalarDone s x d (if ccHolds cc (sReg x.w a) (imm.signExtend 64) then 1 else 0)) :=
  scalarRI_next h hp _ _ rfl

theorem execSsel_writes (hp : Settled x.w [iS a, iS b, iS d]) :
    execSsel d a b s = .next (scalarDone s x d (if sReg x.w d = 0 then sReg x.w b else sReg x.w a)) :=
  scalarWord_writes h hp _ (ite_not ..)

theorem execSldi_writes (hp : Settled x.w [iS d]) (imm : BitVec 14) :
    execSldi d imm s = .next (scalarDone s x d (imm.signExtend 64)) :=
  scalarWord_writes h hp _ rfl

theorem execSlit_writes (hp : Settled x.w [iS d]) (half : BitVec 1) (lit : Word) :
    execSlit d half lit s = .next (scalarDone s x d
      (if half = 1 then lit ++ (sReg x.w d).extractLsb' 0 32 else lit.signExtend 64)) :=
  scalarWord_writes h hp _ rfl

/-! ## SMOV (R103, R224) -/

theorem execSmov_untagged (hp : Settled x.w [iS a, iS d]) (ht : fget? x.w.tags a.toNat = none) :
    execSmov d a s = .next (scalarDone s x d (sReg x.w a)) := by
  rw [execSmov, scalarWord_next h hp, scalarDone, warpDone_congr h]
  simp only [ht]

/-- The tag goes along, and is listed once the tag that the destination had is taken off. -/
theorem execSmov_tagged (hp : Settled x.w [iS a, iS d]) {v : DWord} (ht : fget? x.w.tags a.toNat = some v) :
    execSmov d a s = .next (warpDone s x (fun w =>
      { setS w d (sReg x.w a) with tags := fput (fdel w.tags d.toNat) d.toNat v })) := by
  rw [execSmov, scalarWord_next h hp, warpDone_congr h]
  simp only [ht]
  rfl

end

theorem fdel_below {α : Type} {lo n : Nat} {m : FMap α} (h : Rising lo m) (hn : n < lo) : fdel m n = m := by
  induction m generalizing lo with
  | nil => rfl
  | cons e m ih =>
    obtain ⟨hk, hm⟩ := h
    rw [fdel, if_neg (by omega), ih hm (by omega)]

/-- In a map whose numbers rise, to take a number off first makes no difference to listing it. -/
theorem fput_fdel {α : Type} {lo : Nat} {m : FMap α} (h : Rising lo m) (n : Nat) (v : α) : fput (fdel m n) n v = fput m n v := by
  induction m generalizing lo with
  | nil => rfl
  | cons e m ih =>
    obtain ⟨k, u⟩ := e
    obtain ⟨-, hm⟩ := h
    rcases Nat.lt_trichotomy n k with hn | rfl | hn
    · rw [fdel_below (show Rising k ((k, u) :: m) from ⟨Nat.le_refl k, hm⟩) hn]
    · cases m with
      | nil => simp [fdel, fput]
      | cons e m =>
        have hlt : n < e.1 := hm.1
        simp [fdel, fput, hlt]
    · simp [fdel, fput, hn.ne', hn.not_gt, ih hm]

/-- Where the numbers of the tags rise, SMOV does what the statement says. -/
theorem execSmov_tagged_rising {s : State} {x : Ctx} {d a : BitVec 6} (h : ctxOf s = some x) (hp : Settled x.w [iS a, iS d])
    (hr : Rising 0 x.w.tags) {v : DWord} (ht : fget? x.w.tags a.toNat = some v) :
    execSmov d a s = .next (warpDone s x (fun w => { setS w d (sReg x.w a) with tags := fput w.tags d.toNat v })) := by
  rw [execSmov_tagged h hp ht, warpDone_congr h]
  rw [fput_fdel hr]

/-! ## A warp that lists a tag twice -/

/-- A warp whose tags name scalar 1 twice. -/
def tagListedTwice : State :=
  modWarp (placeWord State.reset nopWord 0) 0 0 (fun w => { w with tags := [(1, 5), (1, 7)] })

theorem tagListedTwice_inSpan : (ctxOf tagListedTwice).isSome = true := by decide +kernel

/-- The place of its word. -/
def tagListedTwiceCtx : Ctx := (ctxOf tagListedTwice).get tagListedTwice_inSpan

/-- The entries of the tag list of warp 0 of core 0 after a word. -/
def tagCount : Host.Outcome State Fault Refusal → Option Nat
  | .next t => (warpOf? t 0 0).map (fun w => w.tags.length)
  | _ => none

/-- SMOV of scalar 1 to itself takes the first entry off the list and lists the tag in front of the second, which it replaces. -/
theorem tagCount_smov : tagCount (exec (.smov 1 1) tagListedTwice) = some 1 := by decide +kernel

/-- The statement has the tag replace the first entry, and the second stay. -/
theorem tagCount_stated : tagCount (.next (warpDone tagListedTwice tagListedTwiceCtx (fun w =>
    { setS w 1 (sReg tagListedTwiceCtx.w 1) with tags := fput w.tags 1 5 }))) = some 2 := by decide +kernel

/-- Refutes O2: on a warp whose tag list names a scalar twice, SMOV to that scalar leaves one of the two entries, where the
statement has both stay. The statement does not ask that the numbers of the list rise, as they do wherever `fput` has built it;
where they do, SMOV meets it (`execSmov_tagged_rising`), and its other clauses hold of every warp. -/
theorem not_scalarComparesAndMoves : ¬ Obligations.ScalarComparesAndMoves := by
  rintro ⟨-, hmoves⟩
  obtain ⟨-, -, hsmov⟩ := hmoves tagListedTwice tagListedTwiceCtx 1 1 0 0 0 (Option.some_get _).symm
  obtain ⟨-, htagged⟩ := hsmov (by unfold Settled; decide +kernel)
  have hcount := (congrArg tagCount (htagged 5 (by decide +kernel))).trans tagCount_stated
  rw [tagCount_smov] at hcount
  exact absurd hcount (by decide)

end Sys2Proof.Machine
end

section
/-! PROOF. The vector integer operations on two names, compares and carries (O4, O6). -/

namespace Sys2Proof.Machine

open Sys2Proof

/-! ## The field of BFE (R107) -/

theorem ofNat_two_pow (k : Nat) : BitVec.ofNat 32 (2 ^ k) = BitVec.twoPow 32 k :=
  BitVec.eq_of_toNat_eq (BitVec.toNat_twoPow ..).symm

/-- The low `k` bits set. -/
theorem ofNat_two_pow_sub_one (k : Nat) : BitVec.ofNat 32 (2 ^ k - 1) = (1#32 <<< k) - 1#32 := by
  rw [eq_sub_iff_add_eq, ← BitVec.ofNat_add, Nat.sub_add_cancel Nat.one_le_two_pow, ofNat_two_pow, BitVec.twoPow_eq]

/-- The mask of a field is a run of set bits moved to its place. -/
theorem fieldMask_eq (y : Word) : fieldMask y =
    if 32 ≤ y.toNat % 256 then 0
    else (if 32 ≤ y.toNat / 256 % 256 then 0xFFFFFFFF#32 else (1#32 <<< (y.toNat / 256 % 256)) - 1#32) <<< (y.toNat % 256) := by
  unfold fieldMask
  simp only [ge_iff_le]
  split
  · rfl
  · rw [BitVec.ofNat_mul, ofNat_two_pow, BitVec.mul_twoPow_eq_shiftLeft]
    congr 1
    split
    · rfl
    · exact ofNat_two_pow_sub_one _

/-- Settles O4: each word runs its lane operation, whose value is the one of R105 to R107. -/
theorem vectorIntegerPairs : Obligations.VectorIntegerPairs := by
  intro s t u x d a b h
  refine ⟨fun hs => ?_, fun hs => ?_, ?_⟩
  · simp [execIadd, execIsub, laneRR_next h, hs, add32, sub32]
  · simp [execIadd, execIsub, laneRR_next h, hs, add32, sub32, clamp32_eq]
  · simp [execImul, execImulh, execIand, execIor, execIxor, execIshl, execIshr, execIsra, execImin, execImax, execBfe,
      laneRR_next h, mulHigh32_eq, shl32, shr32, sra32_eq, min32_eq, max32_eq, bfe32, fieldMask_eq]

/-! ## IADDC (R107) -/

/-- The sum of two words and a carry, one bit wider than they are. -/
def carrySum (p q : Word) (c : Bool) : BitVec 33 := p.setWidth 33 + q.setWidth 33 + (if c then 1 else 0)

theorem carrySum_toNat (p q : Word) (c : Bool) : (carrySum p q c).toNat = p.toNat + q.toNat + (if c then 1 else 0) := by
  cases c <;> simp [carrySum, BitVec.toNat_add] <;> omega

theorem carrySum_word (p q : Word) (c : Bool) :
    (carrySum p q c).setWidth 32 = BitVec.ofNat 32 (p.toNat + q.toNat + (if c then 1 else 0)) := by
  rw [← carrySum_toNat, BitVec.ofNat_toNat]

theorem carrySum_carry (p q : Word) (c : Bool) :
    (carrySum p q c).getLsbD 32 = decide (p.toNat + q.toNat + (if c then 1 else 0) ≥ 2 ^ 32) := by
  rw [← carrySum_toNat]
  exact BitVec.msb_eq_decide (carrySum p q c)

/-- IADDC once its names are ready: sum and carry lane by lane. -/
theorem execIaddc_next {s t u : State} {x : Ctx} {d a b : BitVec 7}
    (h : LaneReady s x [] [winName x.w a, winName x.w b] [winName x.w d] [.pred 15] [.pred 15] t u) :
    let i := laneInOf t x [winName x.w a, winName x.w b]
    let sum (l : Nat) : BitVec 33 := carrySum (i.src 0 l) (i.src 1 l) ((pReg x.w 15).getLsbD l)
    execIaddc d a b s = .next (predDone (lanePut u x i [(winName x.w d, mkRow (fun l => (sum l).setWidth 32))]) x i 15
      (fun l => (sum l).getLsbD 32)) := by
  intro i sum
  have hm : (laneInOf t x [winName x.w a, winName x.w b]).nar ||| (laneInOf t x [winName x.w a, winName x.w b]).zero ≠ 0 :=
    fun h0 => h.lanes (BitVec.or_eq_zero_iff.1 h0).1
  simp only [execIaddc, runWord_at h.at_, laneCheck_ok h, bind, Except.bind]
  rw [writeNames_ok h rfl]
  simp only [putPLanes, if_neg hm, sum, carrySum_word, carrySum_carry]
  exact finish_done ..

/-- Settles O6: ICMP is a word with a predicate destination, whose bits are the condition of R102; IADDC writes the low bits of a
33-bit sum and its top bit. -/
theorem vectorCompareAndCarry : Obligations.VectorCompareAndCarry := by
  intro s t u x cc p d a b imm holds
  have hcc (v w : Word) : ccHolds cc v w = holds v w := ccHolds_eq cc v w
  refine ⟨fun h => ?_, fun h => ?_, fun h => execIaddc_next h⟩
  · rw [exec_icmp, execIcmp, runWord_at h.at_, predWord_next h]
    simp only [hcc]
  · rw [exec_icmpImm, execIcmpImm, runWord_at h.at_, predWord_next h]
    simp only [hcc, imm32s]

end Sys2Proof.Machine
end

section
/-! PROOF. Predicate instructions, votes and ELECT (O7). -/

namespace Sys2Proof.Machine

open Sys2Proof

/-- What a vote checks is not pending where its guard, its predicate and its scalar are not (R46, R121). -/
theorem crossItems_settled_of_all {x : Ctx} (ha : ctxActive x ≠ 0) {read : List PendItem} {d : BitVec 6}
    (hp : Settled x.w (guardItems x ++ (read ++ [iS d]))) : Settled x.w (crossItems x read d) := by
  obtain ⟨hguard, hrest⟩ := settled_append.1 hp
  obtain ⟨hread, hd⟩ := settled_append.1 hrest
  rw [crossItems, if_neg ha]
  refine settled_append.2 ⟨settled_append.2 ⟨hguard, ?_⟩, hd⟩
  split
  exacts [settled_nil _, hread]

section

variable {s : State} {x : Ctx} (h : ctxOf s = some x)
include h

/-! ## Predicate instructions (R110) -/

/-- A lane-wise predicate word writes the lanes of ACTIVE. -/
theorem predLane_writes (ha : ctxActive x ≠ 0) {d : BitVec 4} {reads : List PendItem} (hp : Settled x.w (reads ++ [.pred d.toNat]))
    (f : Warp → Mask) : predLane s d reads f
      = .next (warpDone s x (fun w => setP w d ((pReg w d &&& ~~~ctxActive x) ||| (f x.w &&& ctxActive x)))) := by
  simp only [predLane, runWord_at h, if_neg ha, checkPending_ok hp, bind, Except.bind]
  exact congrArg Host.Outcome.next (warpDone_congr h rfl)

/-- A lane-wise predicate word changes nothing where ACTIVE is empty (R121). -/
theorem predLane_inactive (ha : ctxActive x = 0) (d : BitVec 4) (reads : List PendItem) (f : Warp → Mask) :
    predLane s d reads f = .next (advance s x .seq) := by
  rw [predLane, runWord_at h, if_pos ha, finish_ok]

theorem execPset_writes {d : BitVec 4} {k : BitVec 6} (hp : Settled x.w [iS k, .pred d.toNat]) :
    execPset d k s = .next (warpDone s x (fun w => setP w d ((sReg x.w k).extractLsb' 0 32))) := by
  rw [execPset, scalarWord_next h hp]
  exact congrArg _ (warpDone_congr h rfl)

/-! ## Votes (R143) -/

theorem vote_writes (ha : ctxActive x ≠ 0) {d : BitVec 6} {p : BitVec 4} (hp : Settled x.w (guardItems x ++ [.pred p.toNat, iS d]))
    (neg : BitVec 1) (f : Mask → Mask → DWord) : vote s d neg p f = .next (scalarDone s x d
      (f (narrowed x) (narrowed x &&& (if neg = 1 then ~~~pReg x.w p else pReg x.w p)))) := by
  have hc : Settled x.w (crossItems x [.pred p.toNat] d) := crossItems_settled_of_all ha hp
  simp only [vote, runWord_at h, checkPending_ok hc, xor_neg_mask, bind, Except.bind]
  exact finish_ok ..

/-! ## ELECT (R147) -/

theorem execElect_writes (ha : ctxActive x ≠ 0) {p : BitVec 4} {d : BitVec 6}
    (hp : Settled x.w (guardItems x ++ [iS d, .pred p.toNat])) {low : Nat} (hl : (narrowed x).getLsbD low = true)
    (hlow : ∀ l, l < low → (narrowed x).getLsbD l = false) : execElect p d s = .next (warpDone s x (fun w =>
      setS (setPLanes w p (narrowed x ||| zeroLanes x) (1#32 <<< low)) d (BitVec.ofNat 64 low))) := by
  have hn : narrowed x ≠ 0 := fun h0 => by simp [h0] at hl
  have hm : narrowed x ||| zeroLanes x ≠ 0 := fun h0 => hn (BitVec.or_eq_zero_iff.1 h0).1
  have hc : checkPending x.w (guardItems x ++ [iS d] ++ [.pred p.toNat]) = .ok () := checkPending_ok (by simpa using hp)
  simp only [execElect, runWord_at h, if_neg ha, if_neg hm, hc, find?_lowestLane hl hlow, bind, Except.bind]
  exact finish_ok ..

end

/-- Settles O7: each word is a lane-wise predicate word, a scalar word, a vote or ELECT, whose checks pass. -/
theorem predicateOperations : Obligations.PredicateOperations := by
  refine ⟨fun s x d a b k h => ⟨?_, ?_, ?_, execPset_writes h, ?_⟩, fun s x d neg p h ha => ⟨?_, ?_⟩⟩
  · intro ha hp
    simp only [exec_pand, exec_por, exec_pxor, execPand, execPor, execPxor]
    exact ⟨predLane_writes h ha hp _, predLane_writes h ha hp _, predLane_writes h ha hp _⟩
  · intro ha hp
    simp only [exec_pnot, execPnot]
    exact predLane_writes h ha hp _
  · exact fun ha => ⟨predLane_inactive h ha .., predLane_inactive h ha .., predLane_inactive h ha .., predLane_inactive h ha ..⟩
  · exact fun hp => scalarWord_writes h hp _ rfl
  · intro hp
    simp only [exec_voteAny, exec_voteAll, exec_voteBal, execVoteAny, execVoteAll, execVoteBal, ne_eq, ite_not]
    exact ⟨vote_writes h ha hp neg _, vote_writes h ha hp neg _, vote_writes h ha hp neg _⟩
  · exact fun low hp hl hlow => execElect_writes h ha hp hl hlow

end Sys2Proof.Machine
end

section
/-! PROOF. SHFL and BCAST (O11). -/

namespace Sys2Proof.Machine

open Sys2Proof

/-- The write of name destinations by a word that finds its kills itself (R52, R87, R139). -/
theorem writeNames_kills_ok {s t u : State} {x : Ctx} {scalars : List PendItem} {srcs dsts : List ℕ} {preds dpreds : List PendItem}
    (h : LaneReady s x scalars srcs dsts preds dpreds t u) (kills : Mask) {outs : List (ℕ × Row)} (ho : outs.map (·.1) = dsts) :
    writeNames t x { laneInOf t x srcs with kills := kills } outs
      = .ok (lanePut u x { laneInOf t x srcs with kills := kills } outs) := by
  have hm : narrowed x ||| zeroLanes x ≠ 0 := fun h0 => h.lanes (BitVec.or_eq_zero_iff.1 h0).1
  have hsplit : splitNames t x (narrowed x ||| zeroLanes x) (outs.map (·.1)) = .ok u := ho ▸ h.split
  simp only [writeNames, laneInOf, if_neg hm, hsplit, bind, Except.bind, lanePut]

theorem putPLanes_selected {x : Ctx} (h : narrowed x ≠ 0) (s : State) (d : BitVec 4) (v : Mask) :
    putPLanes s x d (narrowed x ||| zeroLanes x) v = modW s x (fun w => setPLanes w d (narrowed x ||| zeroLanes x) v) :=
  if_neg fun h0 => h (BitVec.or_eq_zero_iff.1 h0).1

/-- The state after a transfer whose lanes take the word of the lane that `pick` gives (R139): `own` says that each lane consumes its
own word of the second source too. -/
def transferDone (u : State) (x : Ctx) (i : LaneIn) (dst : ℕ) (pick : ℕ → ℕ) (own : Bool) : State :=
  let src (l : ℕ) : ℕ := if i.nar.getLsbD (pick l) then pick l else l
  let bad (j l : ℕ) : Bool := (i.srcs.getD j freeRow).poison.getLsbD l
  let kills := mkMask (fun l => i.nar.getLsbD l && ((own && bad 1 l) || bad 0 (src l)))
  killDone (modW (lanePut u x { i with kills := kills } [(dst, mkRow (fun l => i.src 0 (src l)))]) x (fun w =>
    setPLanes w 14 (i.nar ||| i.zero) (mkMask (fun l => i.nar.getLsbD (pick l)) &&& i.nar &&& ~~~kills))) x kills

/-- A transfer whose names are ready (R139, R140). -/
theorem transfer_next {s t u : State} {x : Ctx} {a dst : ℕ} {idx : Option ℕ}
    (h : LaneReady s x [] (a :: idx.toList) [dst] [] [.pred 14] t u) (from_ : LaneIn → ℕ → ℕ) :
    finish s x (transfer x s a idx dst from_)
      = .next (transferDone u x (laneInOf t x (a :: idx.toList)) dst (from_ (laneInOf t x (a :: idx.toList))) idx.isSome) := by
  unfold transfer
  simp only [laneCheck_ok h, bind, Except.bind]
  rw [writeNames_kills_ok h _ rfl]
  simp only [show (laneInOf t x (a :: idx.toList)).nar = narrowed x from rfl,
    show (laneInOf t x (a :: idx.toList)).zero = zeroLanes x from rfl, putPLanes_selected h.lanes]
  exact finish_done ..

theorem shuffle_next {s t u : State} {x : Ctx} {d a b : BitVec 7}
    (h : LaneReady s x [] [winName x.w a, winName x.w b] [winName x.w d] [] [.pred 14] t u) (w : ℕ) :
    let i := laneInOf t x [winName x.w a, winName x.w b]
    shuffle s w d a b
      = .next (transferDone u x i (winName x.w d) (fun l => l - l % w + (i.src 1 l).toNat % w) true) := by
  intro i
  rw [shuffle, runWord_at h.at_]
  exact transfer_next (idx := some (winName x.w b)) h _

theorem execBcast_next {s t u : State} {x : Ctx} {d a : BitVec 7} {k : BitVec 6}
    (h : LaneReady s x [] [winName x.w a] [winName x.w d] [] [.pred 14] t u) (hk : Settled x.w [iS k]) :
    execBcast d a k s = .next (transferDone u x (laneInOf t x [winName x.w a]) (winName x.w d)
      (fun _ => (sReg x.w k).toNat % 32) false) := by
  have hp : Settled x.w (guardItems x ++ [.name (winName x.w a)] ++ [iS k]) := by
    have hs := h.settled
    simp only [settled_append] at hs ⊢
    obtain ⟨⟨⟨⟨⟨hg, -⟩, hn⟩, -⟩, -⟩, -⟩ := hs
    exact ⟨⟨hg, hn⟩, hk⟩
  rw [execBcast, runWord_at h.at_]
  simp only [if_neg (narrowed_sub h.lanes), if_neg h.lanes, checkPending_ok hp, bind, Except.bind]
  exact transfer_next (idx := none) h _

/-- Settles O11: each word is a transfer whose names are ready. -/
theorem laneTransfers : Obligations.LaneTransfers := by
  intro s t u x d a b k
  refine ⟨fun h => ⟨?_, ?_, ?_, ?_, ?_⟩, fun h hk => execBcast_next h hk⟩
  · exact shuffle_next h 2
  · exact shuffle_next h 4
  · exact shuffle_next h 8
  · exact shuffle_next h 16
  · exact shuffle_next h 32

end Sys2Proof.Machine
end

section
/-! PROOF. The order of values as FCMP compares them, and the relations and selections on codes (O10). -/

namespace Sys2Proof.Machine

open Sys2Proof

/-! ## The comparison of values (R128) -/

theorem compare_eq_cmp_mul {a b : ℤ} {p : ℝ} (hp : 0 < p) : compare a b = cmp ((a : ℝ) * p) (b * p) := by
  rw [← cmp_eq_compare, cmp_mul_pos_right hp]
  exact ((Int.cast_strictMono (R := ℝ)).cmp_map_eq a b).symm

/-- Two finite values are compared as their numbers. -/
theorem cmpVal_fin (a b : Bool) (m n : ℕ) (e g : ℤ) :
    cmpVal (.fin a m e) (.fin b n g) = cmp (FVal.fin a m e).num (FVal.fin b n g).num := by
  rw [← signed_scaled a m e (min e g) (min_le_left _ _), ← signed_scaled b n g (min e g) (min_le_right _ _)]
  exact compare_eq_cmp_mul (by positivity)

theorem codeOrd_inf {f : Fmt} {c : ℕ} (h : codeInf f c = true) :
    codeOrd f c = if codeNeg f c then ⊥ else ((⊤ : WithTop ℚ) : WithBot (WithTop ℚ)) := by rw [codeOrd, if_pos h]

theorem cmp_extended (p q : ℚ) :
    cmp (p : ℝ) q = cmp ((p : WithTop ℚ) : WithBot (WithTop ℚ)) ((q : WithTop ℚ) : WithBot (WithTop ℚ)) := by
  rw [(Rat.cast_strictMono (K := ℝ)).cmp_map_eq p q]
  exact ((WithBot.coe_strictMono.comp WithTop.coe_strictMono).cmp_map_eq p q).symm

theorem finite_lt_top (p : ℚ) : ((p : WithTop ℚ) : WithBot (WithTop ℚ)) < ⊤ := WithBot.coe_lt_coe.2 (WithTop.coe_lt_top p)

/-- Codes that are no NaNs are compared as their extended numbers, +0 equal to −0. -/
theorem cmpVal_unpack {f : Fmt} {p q : ℕ} (hp : codeNan f p = false) (hq : codeNan f q = false) :
    cmpVal (unpack f p) (unpack f q) = cmp (codeOrd f p) (codeOrd f q) := by
  rcases code_cases f p with ⟨hp', -⟩ | ⟨-, ip, -, -, up⟩ | ⟨-, ip, m, e, up, np, -⟩
  · simp [hp] at hp'
  · rcases code_cases f q with ⟨hq', -⟩ | ⟨-, iq, -, -, uq⟩ | ⟨-, iq, n, g, uq, nq, -⟩
    · simp [hq] at hq'
    · rw [up, uq, codeOrd_inf ip, codeOrd_inf iq]
      symm
      cases codeNeg f p <;> cases codeNeg f q <;> simp [cmpVal, cmp_eq_lt_iff, cmp_eq_gt_iff]
    · rw [up, uq, codeOrd_inf ip, codeOrd_fin iq]
      symm
      cases codeNeg f p <;> simp [cmpVal, cmp_eq_lt_iff, cmp_eq_gt_iff, finite_lt_top]
  · rcases code_cases f q with ⟨hq', -⟩ | ⟨-, iq, -, -, uq⟩ | ⟨-, iq, n, g, uq, nq, -⟩
    · simp [hq] at hq'
    · rw [up, uq, codeOrd_inf iq, codeOrd_fin ip]
      symm
      cases codeNeg f q <;> simp [cmpVal, cmp_eq_lt_iff, cmp_eq_gt_iff, finite_lt_top]
    · rw [up, uq, cmpVal_fin, np, nq, codeOrd_fin ip, codeOrd_fin iq, cmp_extended]

/-! ## The relations of FCMP (R128) -/

/-- A function of two codes is a relation between their extended numbers, which may look at whether one is a NaN, with the invalid
condition of signalling NaNs and, where it is loud, of quiet ones. -/
def ComparesAs (f : Fmt) (loud : Bool) (rel : Bool → WithBot (WithTop ℚ) → WithBot (WithTop ℚ) → Prop)
    (g : ℕ → ℕ → Bool × Flags) : Prop :=
  ∀ v w, v < 2 ^ f.width → w < 2 ^ f.width →
    ((g v w).1 = true ↔ rel (codeNan f v || codeNan f w) (codeOrd f v) (codeOrd f w))
    ∧ (g v w).2 = { nv := codeSig f v || codeSig f w || (loud && (codeNan f v || codeNan f w)) }

/-- LT, LE, GT and GE are invalid for quiet NaNs too. -/
theorem fCmp_flags (f : Fmt) (cc v w : ℕ) : (fCmp f cc v w).2
    = { nv := codeSig f v || codeSig f w || ((decide (1 ≤ cc) && decide (cc ≤ 4)) && (codeNan f v || codeNan f w)) } := by
  simp only [fCmp, sigFlags_pair, isNan_eq]

/-- A test of the result of a comparison stands for a relation of an order. -/
def TestsFor (r : Ordering → Bool) (R : WithBot (WithTop ℚ) → WithBot (WithTop ℚ) → Prop) : Prop :=
  ∀ v w, r (cmp v w) = true ↔ R v w

theorem tests_eq : TestsFor (· == .eq) (fun v w => v = w) := fun v w => by rw [beq_iff_eq, cmp_eq_eq_iff]

theorem tests_lt : TestsFor (· == .lt) (fun v w => v < w) := fun v w => by rw [beq_iff_eq, cmp_eq_lt_iff]

theorem tests_gt : TestsFor (· == .gt) (fun v w => w < v) := fun v w => by rw [beq_iff_eq, cmp_eq_gt_iff]

theorem tests_ne : TestsFor (· != .eq) (fun v w => v ≠ w) := fun v w => by rw [bne_iff_ne, Ne, cmp_eq_eq_iff]

theorem tests_le : TestsFor (· != .gt) (fun v w => v ≤ w) := fun v w => by rw [bne_iff_ne, Ne, cmp_eq_gt_iff, not_lt]

theorem tests_ge : TestsFor (· != .lt) (fun v w => w ≤ v) := fun v w => by rw [bne_iff_ne, Ne, cmp_eq_lt_iff, not_lt]

section

variable {r : Ordering → Bool} {R : WithBot (WithTop ℚ) → WithBot (WithTop ℚ) → Prop} (hr : TestsFor r R) (f : Fmt) (cc : ℕ)

include hr

/-- A relation that no NaN is in. -/
theorem comparesAs_ordered
    (hc : ∀ v w, (fCmp f cc v w).1 = (!(isNan f v || isNan f w) && r (cmpVal (unpack f v) (unpack f w)))) :
    ComparesAs f (decide (1 ≤ cc) && decide (cc ≤ 4)) (fun uno v w => uno = false ∧ R v w) (fCmp f cc) := by
  intro v w _ _
  refine ⟨?_, fCmp_flags f cc v w⟩
  rw [hc, isNan_eq, isNan_eq, Bool.and_eq_true, Bool.not_eq_true']
  refine and_congr_right fun hn => ?_
  rw [Bool.or_eq_false_iff] at hn
  rw [cmpVal_unpack hn.1 hn.2, hr]

/-- A relation that every NaN is in. -/
theorem comparesAs_unordered
    (hc : ∀ v w, (fCmp f cc v w).1 = (isNan f v || isNan f w || r (cmpVal (unpack f v) (unpack f w)))) :
    ComparesAs f (decide (1 ≤ cc) && decide (cc ≤ 4)) (fun uno v w => uno = true ∨ R v w) (fCmp f cc) := by
  intro v w _ _
  refine ⟨?_, fCmp_flags f cc v w⟩
  rw [hc, isNan_eq, isNan_eq, Bool.or_eq_true]
  refine or_congr_right' fun hn => ?_
  rw [Bool.not_eq_true, Bool.or_eq_false_iff] at hn
  rw [cmpVal_unpack hn.1 hn.2, hr]

end

/-! ## The words -/

/-- The state after a compare, whose results are written to the selected lanes and zeros to the zeroed ones (R78, R128). -/
def compareDone (t : State) (x : Ctx) (i : LaneIn) (d : BitVec 4) (f : ℕ → Bool × Flags) : State :=
  let res := lanes.map (fun l => if (i.nar &&& ~~~i.kills).getLsbD l then f l else (false, Flags.none))
  killDone (raiseFlags (modW t x (fun w => setPLanes w d (i.nar ||| i.zero)
    (mkMask (fun l => (res.getD l (false, Flags.none)).1)))) x.c x.slot (res.map (·.2))) x i.kills

/-- A compare whose names are ready. -/
theorem floatCmp_next {s t u : State} {x : Ctx} {d : BitVec 4} {a b : BitVec 7}
    (h : LaneReady s x [] [winName x.w a, winName x.w b] [] [] [.pred d.toNat] t u) (cc : ℕ) :
    let i := laneInOf t x [winName x.w a, winName x.w b]
    floatCmp s cc d a b = .next (compareDone t x i d (fun l =>
      fCmp (fmtOf x .f32) cc (codeOf (fmtOf x .f32) (i.src 0 l)) (codeOf (fmtOf x .f32) (i.src 1 l)))) := by
  intro i
  rw [floatCmp, runWord_at h.at_]
  simp only [laneCheck_ok h, bind, Except.bind]
  rw [show (laneInOf t x [winName x.w a, winName x.w b]).nar = narrowed x from rfl,
    show (laneInOf t x [winName x.w a, winName x.w b]).zero = zeroLanes x from rfl, putPLanes_selected h.lanes]
  exact finish_done ..

theorem fMinMax_flags (f : Fmt) (larger : Bool) (v w : ℕ) :
    (fMinMax f larger v w).2 = { nv := codeSig f v || codeSig f w } := by
  rw [← sigFlags_pair, fMinMax]
  split
  · rfl
  · split <;> rfl

theorem floatDone_congr {u : State} {x : Ctx} {i : LaneIn} {dst : ℕ} {f g : ℕ → ℕ × Flags} (h : ∀ l, f l = g l) :
    floatDone u x i dst f = floatDone u x i dst g := by rw [funext h]

theorem fNeg_eq {f : Fmt} {c : ℕ} (h : c < 2 ^ f.width) : fNeg f c = (if codeNan f c then f.nanBits
    else if codeNeg f c then c % 2 ^ (f.width - 1) else c % 2 ^ (f.width - 1) + 2 ^ (f.width - 1), Flags.none) := by
  rw [fNeg, isNan_eq, flipSign_eq h]
  cases codeNeg f c <;> simp [signBits, Nat.add_comm]

/-- Settles O10: each relation is one of the order of the codes or its complement; the selections and signs code by code. -/
theorem floatComparesAndSelections : Obligations.FloatComparesAndSelections := by
  intro s t u x p d a b
  refine ⟨fun h => ⟨?_, ?_, ?_, ?_, ?_, ?_, ?_, ?_, ?_, ?_, ?_, ?_, ?_, ?_⟩, fun h => ⟨?_, ?_⟩, fun h => ⟨?_, ?_⟩⟩
  · exact ⟨_, comparesAs_ordered tests_eq (fmtOf x .f32) 0 fun _ _ => rfl, floatCmp_next h 0⟩
  · exact ⟨_, comparesAs_ordered tests_lt (fmtOf x .f32) 1 fun _ _ => rfl, floatCmp_next h 1⟩
  · exact ⟨_, comparesAs_ordered tests_le (fmtOf x .f32) 2 fun _ _ => rfl, floatCmp_next h 2⟩
  · exact ⟨_, comparesAs_ordered tests_gt (fmtOf x .f32) 3 fun _ _ => rfl, floatCmp_next h 3⟩
  · exact ⟨_, comparesAs_ordered tests_ge (fmtOf x .f32) 4 fun _ _ => rfl, floatCmp_next h 4⟩
  · exact ⟨_, comparesAs_ordered tests_ne (fmtOf x .f32) 5 fun _ _ => rfl, floatCmp_next h 5⟩
  · exact ⟨fCmp (fmtOf x .f32) 6, fun v w _ _ => ⟨by simp [fCmp], fCmp_flags _ 6 v w⟩, floatCmp_next h 6⟩
  · exact ⟨fCmp (fmtOf x .f32) 7, fun v w _ _ => ⟨by simp [fCmp], fCmp_flags _ 7 v w⟩, floatCmp_next h 7⟩
  · exact ⟨_, comparesAs_unordered tests_eq (fmtOf x .f32) 8 fun _ _ => rfl, floatCmp_next h 8⟩
  · exact ⟨_, comparesAs_unordered tests_lt (fmtOf x .f32) 9 fun _ _ => rfl, floatCmp_next h 9⟩
  · exact ⟨_, comparesAs_unordered tests_le (fmtOf x .f32) 10 fun _ _ => rfl, floatCmp_next h 10⟩
  · exact ⟨_, comparesAs_unordered tests_gt (fmtOf x .f32) 11 fun _ _ => rfl, floatCmp_next h 11⟩
  · exact ⟨_, comparesAs_unordered tests_ge (fmtOf x .f32) 12 fun _ _ => rfl, floatCmp_next h 12⟩
  · exact ⟨_, comparesAs_unordered tests_ne (fmtOf x .f32) 13 fun _ _ => rfl, floatCmp_next h 13⟩
  · refine ⟨fun v w => (fMinMax (fmtOf x .f32) false v w).1, fun v w _ _ => selectsOf_fMinMax _ false v w, ?_⟩
    rw [exec_fmin, execFmin, floatRR_next h]
    exact congrArg _ (floatDone_congr fun _ => Prod.ext rfl (fMinMax_flags ..))
  · refine ⟨fun v w => (fMinMax (fmtOf x .f32) true v w).1, fun v w _ _ => selectsOf_fMinMax _ true v w, ?_⟩
    rw [exec_fmax, execFmax, floatRR_next h]
    exact congrArg _ (floatDone_congr fun _ => Prod.ext rfl (fMinMax_flags ..))
  · rw [exec_fabs, execFabs, floatR_next h]
    simp only [fAbs, isNan_eq]
  · rw [exec_fneg, execFneg, floatR_next h]
    simp only [fNeg_eq (Nat.mod_lt _ (Nat.two_pow_pos _))]

end Sys2Proof.Machine
end

section
/-! PROOF. Rounding a number that is known by its whole part and whether something lies beyond (R65, R132). -/

namespace Sys2Proof.Machine

open Sys2Proof

/-! ## Numbers that lie alike among the halves of whole numbers -/

/-- Two numbers are on the same side of every half of a whole number: no rounding to a whole number tells them apart. -/
def AlikeHalves (x x' : ℝ) : Prop := ∀ n : ℤ, ((n : ℝ) ≤ 2 * x ↔ (n : ℝ) ≤ 2 * x') ∧ (2 * x ≤ n ↔ 2 * x' ≤ n)

section

variable {x x' : ℝ} (h : AlikeHalves x x')

include h

theorem alikeHalves_le (n : ℤ) {c : ℝ} (hc : 2 * c = n) : c ≤ x ↔ c ≤ x' := by
  have := (h n).1
  rw [← hc] at this
  simpa using this

theorem alikeHalves_ge (n : ℤ) {c : ℝ} (hc : 2 * c = n) : x ≤ c ↔ x' ≤ c := by
  have := (h n).2
  rw [← hc] at this
  simpa using this

theorem alikeHalves_eq (k : ℕ) : (k : ℝ) = x ↔ (k : ℝ) = x' := by
  have hc : (2 : ℝ) * k = ((2 * k : ℤ) : ℝ) := by push_cast; rfl
  rw [le_antisymm_iff, le_antisymm_iff, alikeHalves_le h _ hc, alikeHalves_ge h _ hc]

theorem wholeRound_alike {rm : Rm} {neg : Bool} {k : ℕ} (hw : WholeRound rm neg x k) : WholeRound rm neg x' k := by
  have down : (k : ℝ) ≤ x ∧ x < k + 1 → (k : ℝ) ≤ x' ∧ x' < k + 1 := fun ⟨h1, h2⟩ =>
    ⟨(alikeHalves_le h (2 * k) (by push_cast; ring)).1 h1,
      not_le.1 (mt (alikeHalves_le h (2 * k + 2) (by push_cast; ring)).2 (not_le.2 h2))⟩
  have up : x ≤ k ∧ (k : ℝ) < x + 1 → x' ≤ k ∧ (k : ℝ) < x' + 1 := fun ⟨h1, h2⟩ =>
    ⟨(alikeHalves_ge h (2 * k) (by push_cast; ring)).1 h1,
      sub_lt_iff_lt_add.1 (not_le.1 (mt (alikeHalves_ge h (2 * k - 2) (by push_cast; ring)).2 (not_le.2 (sub_lt_iff_lt_add.2 h2))))⟩
  have low : (k : ℝ) - 1 / 2 ≤ x ↔ (k : ℝ) - 1 / 2 ≤ x' := alikeHalves_le h (2 * k - 1) (by push_cast; ring)
  have low' : x ≤ (k : ℝ) - 1 / 2 ↔ x' ≤ (k : ℝ) - 1 / 2 := alikeHalves_ge h (2 * k - 1) (by push_cast; ring)
  have high : x ≤ (k : ℝ) + 1 / 2 ↔ x' ≤ (k : ℝ) + 1 / 2 := alikeHalves_ge h (2 * k + 1) (by push_cast; ring)
  have high' : (k : ℝ) + 1 / 2 ≤ x ↔ (k : ℝ) + 1 / 2 ≤ x' := alikeHalves_le h (2 * k + 1) (by push_cast; ring)
  cases rm with
  | rtz => exact down hw
  | rup => cases neg with
    | false => exact up hw
    | true => exact down hw
  | rdn => cases neg with
    | false => exact down hw
    | true => exact up hw
  | rna =>
    obtain ⟨h1, h2⟩ := hw
    have h3 := low.1 (by linarith)
    have h4 := mt high'.2 (by linarith)
    exact ⟨by linarith, by linarith⟩
  | rne =>
    obtain ⟨hd, he⟩ := hw
    obtain ⟨h1, h2⟩ := abs_le.1 hd
    have h3 := low.1 (by linarith)
    have h4 := high.1 (by linarith)
    refine ⟨abs_le.2 ⟨by linarith, by linarith⟩, fun heq => he ?_⟩
    rcases (abs_eq (by norm_num)).1 heq with h5 | h5
    · have := high'.2 (by linarith)
      rw [abs_of_nonneg (by linarith)]
      linarith
    · have := low'.2 (by linarith)
      rw [abs_of_nonpos (by linarith)]
      linarith

end

/-- Two positive numbers of one binade that lie alike at every place that a format may round at have the same rounding. -/
theorem rounds_alike {f : Fmt} {rm : Rm} {sat : Bool} {y y' : ℝ} {r : ℕ × Flags} (hy : 0 < y) (hy' : 0 < y')
    (hlog : Int.log 2 y = Int.log 2 y') (h : ∀ q : ℤ, Int.log 2 y - f.mBits ≤ q → AlikeHalves (y / 2 ^ q) (y' / 2 ^ q))
    (hr : Rounds f rm sat y r) : Rounds f rm sat y' r := by
  obtain ⟨j, k, hj, hk, hover, hfin⟩ := hr
  have hulp : max ((2 : ℝ) ^ (Int.log 2 y - f.mBits)) (2 ^ (f.minExp - f.mBits)) = 2 ^ max (Int.log 2 y - f.mBits) (f.minExp - f.mBits) :=
    ((zpow_right_mono₀ one_le_two).map_max (a := Int.log 2 y - f.mBits)).symm
  have hq := h _ (le_max_left (Int.log 2 y - f.mBits) (f.minExp - f.mBits))
  have hexact (z : ℝ) : (k : ℝ) * 2 ^ max (Int.log 2 y - f.mBits) (f.minExp - f.mBits) = z
      ↔ (k : ℝ) = z / 2 ^ max (Int.log 2 y - f.mBits) (f.minExp - f.mBits) := (eq_div_iff (by positivity)).symm
  have hpos : decide (y < 0) = false := by simp [hy.le]
  have hpos' : decide (y' < 0) = false := by simp [hy'.le]
  rw [abs_of_pos hy, hpos] at hj hk
  rw [abs_of_pos hy, hpos] at hover hfin
  rw [hulp] at hk hfin
  refine ⟨j, k, ?_, ?_, ?_, ?_⟩ <;> rw [abs_of_pos hy', hpos', ← hlog]
  · exact wholeRound_alike (h _ le_rfl) hj
  · rw [hulp]
    exact wholeRound_alike hq hk
  · exact hover
  · rw [hulp]
    simpa only [Ne, hexact, alikeHalves_eq hq] using hfin

/-! ## A whole part and a mark of what lies beyond -/

section

variable {y : ℝ} {fl : ℕ} {p : ℤ}

/-- The binade of a number is that of its whole part. -/
theorem log_of_whole (h0 : fl ≠ 0) (hlo : (fl : ℝ) * 2 ^ p ≤ y) (hhi : y < (fl + 1) * 2 ^ p) : Int.log 2 y = p + Nat.log2 fl := by
  have hp : (0 : ℝ) < 2 ^ p := by positivity
  have h1 : ((2 ^ Nat.log2 fl : ℕ) : ℝ) ≤ fl := by exact_mod_cast Nat.log2_self_le h0
  have h2 : (fl : ℝ) + 1 ≤ ((2 ^ (Nat.log2 fl + 1) : ℕ) : ℝ) := by exact_mod_cast Nat.lt_log2_self (n := fl)
  have hpos : 0 < y := lt_of_lt_of_le (by positivity) hlo
  push_cast at h1 h2
  refine le_antisymm (Int.lt_add_one_iff.1 ((Int.lt_zpow_iff_log_lt one_lt_two hpos).1 ?_))
    ((Int.zpow_le_iff_le_log one_lt_two hpos).1 ?_)
  · push_cast
    rw [add_assoc, zpow_add₀ two_ne_zero, mul_comm]
    exact lt_of_lt_of_le hhi (mul_le_mul_of_nonneg_right (by exact_mod_cast h2) hp.le)
  · push_cast
    rw [zpow_add₀ two_ne_zero, mul_comm, zpow_natCast]
    exact le_trans (mul_le_mul_of_nonneg_right h1 hp.le) hlo

/-- Numbers of one whole part, both whole or both not, lie alike at every place above it. -/
theorem alikeHalves_of_whole {y' : ℝ} (hlo : (fl : ℝ) * 2 ^ p ≤ y) (hhi : y < (fl + 1) * 2 ^ p) (hlo' : (fl : ℝ) * 2 ^ p ≤ y')
    (hhi' : y' < (fl + 1) * 2 ^ p) (hx : (fl : ℝ) * 2 ^ p = y ↔ (fl : ℝ) * 2 ^ p = y') {q : ℤ} (hq : p < q) :
    AlikeHalves (y / 2 ^ q) (y' / 2 ^ q) := by
  have hp : (0 : ℝ) < 2 ^ p := by positivity
  obtain ⟨d, rfl⟩ : ∃ d : ℕ, q = p + d + 1 := ⟨(q - p - 1).toNat, by omega⟩
  have hd : (0 : ℝ) < 2 ^ d := by positivity
  have hscale (z : ℝ) : 2 * (z / 2 ^ (p + d + 1)) = z / 2 ^ p / 2 ^ d := by
    rw [zpow_add_one₀ two_ne_zero, zpow_add₀ two_ne_zero, zpow_natCast]
    field_simp
  have hfloor {z : ℝ} (h1 : (fl : ℝ) * 2 ^ p ≤ z) (h2 : z < (fl + 1) * 2 ^ p) : ⌊z / 2 ^ p⌋ = fl :=
    Int.floor_eq_iff.2 ⟨by rw [le_div_iff₀ hp]; exact_mod_cast h1, by rw [div_lt_iff₀ hp]; exact_mod_cast h2⟩
  have hceil {z : ℝ} (h1 : (fl : ℝ) * 2 ^ p ≤ z) (h2 : z < (fl + 1) * 2 ^ p) :
      ⌈z / 2 ^ p⌉ = if (fl : ℝ) * 2 ^ p = z then (fl : ℤ) else fl + 1 := by
    split
    · rename_i h
      rw [← h, mul_div_cancel_right₀ _ hp.ne', Int.ceil_natCast]
    · rename_i h
      rw [Int.ceil_eq_iff]
      push_cast
      rw [add_sub_cancel_right, lt_div_iff₀ hp, div_le_iff₀ hp]
      exact ⟨lt_of_le_of_ne h1 h, h2.le⟩
  intro n
  have hn : (n : ℝ) * 2 ^ d = ((n * 2 ^ d : ℤ) : ℝ) := by push_cast; rfl
  rw [hscale, hscale, le_div_iff₀ hd, le_div_iff₀ hd, div_le_iff₀ hd, div_le_iff₀ hd, hn, ← Int.le_floor, ← Int.le_floor,
    ← Int.ceil_le, ← Int.ceil_le, hfloor hlo hhi, hfloor hlo' hhi', hceil hlo hhi, hceil hlo' hhi', if_congr hx rfl rfl]
  exact ⟨Iff.rfl, Iff.rfl⟩

/-- A number given by its whole part at a place below those that the format rounds at, and by one more bit that says whether
something lies beyond, is rounded as it stands. -/
theorem rounds_sticky {f : Fmt} {rm : Rm} {sat : Bool} {P : Prop} [Decidable P] (hfl : 2 ^ (f.mBits + 1) ≤ fl)
    (hlo : (fl : ℝ) * 2 ^ p ≤ y) (hhi : y < (fl + 1) * 2 ^ p) (hx : P ↔ (fl : ℝ) * 2 ^ p = y) :
    Rounds f rm sat y (roundVal f rm sat (.fin false (2 * fl + if P then 0 else 1) (p - 1))) := by
  have hp : (0 : ℝ) < 2 ^ p := by positivity
  have h0 : fl ≠ 0 := by have := Nat.two_pow_pos (f.mBits + 1); omega
  have hnum : (FVal.fin false (2 * fl + if P then 0 else 1) (p - 1)).num = (fl + if P then 0 else 1 / 2) * 2 ^ p := by
    rw [FVal.num_fin, zpow_sub_one₀ two_ne_zero]
    by_cases hP : P <;> simp only [hP, if_true, if_false, Bool.false_eq_true] <;> push_cast <;> ring
  have hlo' : (fl : ℝ) * 2 ^ p ≤ (FVal.fin false (2 * fl + if P then 0 else 1) (p - 1)).num := by
    rw [hnum]
    refine mul_le_mul_of_nonneg_right ?_ hp.le
    split <;> linarith
  have hhi' : (FVal.fin false (2 * fl + if P then 0 else 1) (p - 1)).num < (fl + 1) * 2 ^ p := by
    rw [hnum]
    refine mul_lt_mul_of_pos_right ?_ hp
    split <;> linarith
  have hx' : (fl : ℝ) * 2 ^ p = (FVal.fin false (2 * fl + if P then 0 else 1) (p - 1)).num ↔ (fl : ℝ) * 2 ^ p = y := by
    rw [hnum, ← hx, mul_left_inj' hp.ne']
    by_cases hP : P <;> simp [hP]
  have hpos : (0 : ℝ) < fl * 2 ^ p := by positivity
  have hlog' := log_of_whole h0 hlo' hhi'
  refine rounds_alike (lt_of_lt_of_le hpos hlo') (lt_of_lt_of_le hpos hlo) (hlog'.trans (log_of_whole h0 hlo hhi).symm)
    (fun q hq => alikeHalves_of_whole hlo' hhi' hlo hhi hx' ?_) (rounds_roundFin f rm sat false (by split <;> omega) _)
  have : f.mBits + 1 ≤ Nat.log2 fl := (Nat.le_log2 h0).2 hfl
  rw [hlog'] at hq
  omega

end

/-- The whole part of a quotient of whole numbers. -/
theorem natDiv_whole (a : ℕ) {b : ℕ} (hb : 0 < b) : ((a / b : ℕ) : ℝ) ≤ (a : ℝ) / b ∧ (a : ℝ) / b < (a / b : ℕ) + 1
    ∧ (a % b = 0 ↔ ((a / b : ℕ) : ℝ) = (a : ℝ) / b) := by
  have hb' : (0 : ℝ) < b := by exact_mod_cast hb
  refine ⟨Nat.cast_div_le, ?_, ?_⟩
  · rw [div_lt_iff₀ hb']
    exact_mod_cast Nat.lt_mul_of_div_lt (Nat.lt_succ_self _) hb
  · rw [eq_div_iff hb'.ne']
    norm_cast
    have := Nat.div_add_mod' a b
    omega

end Sys2Proof.Machine
end

section
/-! PROOF. Steps rounded to FP32 under RNE: their size, their error and that they stay finite (R132). -/

namespace Sys2Proof.Machine

open Sys2Proof

/-! ## A magnitude rounded at a place -/

section

variable {rm : Rm} {neg : Bool} {y : ℝ} {k : ℕ} {p n : ℤ}

theorem wholeRound_scaled_le (h : WholeRound rm neg (y / 2 ^ p) k) (hy : y ≤ 2 ^ n) (hp : p ≤ n) : (k : ℝ) * 2 ^ p ≤ 2 ^ n := by
  obtain ⟨d, rfl⟩ : ∃ d : ℕ, n = p + d := ⟨(n - p).toNat, by omega⟩
  have h2 : (2 : ℝ) ^ (p + d : ℤ) = (2 ^ d : ℕ) * 2 ^ p := by
    rw [zpow_add₀ two_ne_zero, zpow_natCast, mul_comm]; push_cast; rfl
  rw [h2] at hy ⊢
  exact mul_le_mul_of_nonneg_right (by exact_mod_cast wholeRound_le h ((div_le_iff₀ (by positivity)).2 hy)) (by positivity)

theorem wholeRound_scaled_ge (h : WholeRound rm neg (y / 2 ^ p) k) (hy : 2 ^ n ≤ y) (hp : p ≤ n) : 2 ^ n ≤ (k : ℝ) * 2 ^ p := by
  obtain ⟨d, rfl⟩ : ∃ d : ℕ, n = p + d := ⟨(n - p).toNat, by omega⟩
  have h2 : (2 : ℝ) ^ (p + d : ℤ) = (2 ^ d : ℕ) * 2 ^ p := by
    rw [zpow_add₀ two_ne_zero, zpow_natCast, mul_comm]; push_cast; rfl
  rw [h2] at hy ⊢
  exact mul_le_mul_of_nonneg_right (by exact_mod_cast wholeRound_ge h ((le_div_iff₀ (by positivity)).2 hy)) (by positivity)

theorem wholeRound_rne_error (h : WholeRound .rne neg (y / 2 ^ p) k) : |(k : ℝ) * 2 ^ p - y| ≤ 2 ^ (p - 1) := by
  have hp : (0 : ℝ) < 2 ^ p := by positivity
  have he : (k : ℝ) * 2 ^ p - y = -((y / 2 ^ p - k) * 2 ^ p) := by field_simp; ring
  rw [he, abs_neg, abs_mul, abs_of_pos hp, zpow_sub_one₀ two_ne_zero, mul_comm]
  exact mul_le_mul_of_nonneg_left (by simpa using h.1) hp.le

end

/-! ## The result of a step -/

theorem log_le_of_abs_le {y : ℝ} {n : ℤ} (h0 : y ≠ 0) (h : |y| ≤ 2 ^ n) : Int.log 2 |y| ≤ n := by
  have hl := Int.zpow_log_le_self (b := 2) one_lt_two (abs_pos.2 h0)
  push_cast at hl
  exact (zpow_le_zpow_iff_right₀ one_lt_two).1 (hl.trans h)

/-- The place at which FP32 rounds a number. -/
noncomputable def place32 (y : ℝ) : ℤ := max (Int.log 2 |y| - 23) (-149)

theorem place32_spec (y : ℝ) : max ((2 : ℝ) ^ (Int.log 2 |y| - Fmt.f32.mBits)) (2 ^ (Fmt.f32.minExp - Fmt.f32.mBits)) = 2 ^ place32 y :=
  ((zpow_right_mono₀ one_le_two).map_max (a := Int.log 2 |y| - 23) (b := -149)).symm

theorem eq_sign_mul_abs {c : ℕ} {y : ℝ} (h : codeNeg .f32 c = decide (y < 0)) :
    (codeNum .f32 c : ℝ) = (if y < 0 then -1 else 1) * |(codeNum .f32 c : ℝ)| := by
  by_cases hy : y < 0
  · have : (codeNum .f32 c : ℝ) ≤ 0 := by exact_mod_cast codeNum_nonpos (by simpa [hy] using h)
    rw [if_pos hy, abs_of_nonpos this]
    ring
  · have : (0 : ℝ) ≤ codeNum .f32 c := by exact_mod_cast codeNum_nonneg (by simpa [hy] using h)
    rw [if_neg hy, abs_of_nonneg this, one_mul]

/-- A nonzero number is rounded to its sign times a significand at its place. -/
theorem rne_eq {y z : ℝ} (h : Rne y z) (h0 : y ≠ 0) :
    ∃ k : ℕ, WholeRound .rne (decide (y < 0)) (|y| / 2 ^ place32 y) k ∧ z = (if y < 0 then -1 else 1) * (k * 2 ^ place32 y) := by
  obtain ⟨r, hr, hi, rfl⟩ := h
  obtain ⟨j, k, -, hk, hover, hfin⟩ := hr.2 h0
  rw [place32_spec] at hk hfin
  refine ⟨k, hk, ?_⟩
  rcases lt_or_ge (codeNum .f32 Fmt.f32.maxBits : ℝ) (j * 2 ^ (Int.log 2 |y| - Fmt.f32.mBits)) with ho | ho
  · have hc := (hover ho).2
    rw [if_neg (by simp), if_neg (by simp)] at hc
    rw [hc] at hi
    exact absurd hi (by cases decide (y < 0) <;> decide)
  · obtain ⟨-, -, -, -, hneg, habs⟩ := hfin ho
    rw [eq_sign_mul_abs hneg, habs]

theorem rne_zero {z : ℝ} (h : Rne 0 z) : z = 0 := by
  obtain ⟨r, hr, -, rfl⟩ := h
  rw [hr.1 rfl]
  exact codeZero_iff.1 (by decide)

section

variable {y z : ℝ} {n : ℤ}

theorem place32_le (h0 : y ≠ 0) (hy : |y| ≤ 2 ^ n) (hn : -149 ≤ n) : place32 y ≤ n := by
  have := log_le_of_abs_le h0 hy
  unfold place32
  omega

theorem rne_abs_le (h : Rne y z) (hy : |y| ≤ 2 ^ n) (hn : -149 ≤ n) : |z| ≤ 2 ^ n := by
  by_cases h0 : y = 0
  · subst h0
    rw [rne_zero h, abs_zero]
    positivity
  · obtain ⟨k, hk, rfl⟩ := rne_eq h h0
    rw [abs_mul, abs_of_nonneg (show (0 : ℝ) ≤ k * 2 ^ place32 y by positivity), show |(if y < 0 then -1 else 1 : ℝ)| = 1 by
      split <;> simp, one_mul]
    exact wholeRound_scaled_le hk hy (place32_le h0 hy hn)

theorem rne_ge (h : Rne y z) (hy : 2 ^ n ≤ y) (hn : -149 ≤ n) : 2 ^ n ≤ z := by
  have hpos : 0 < y := lt_of_lt_of_le (by positivity) hy
  obtain ⟨k, hk, rfl⟩ := rne_eq h hpos.ne'
  have hlog : (2 : ℝ) ^ Int.log 2 y ≤ y := by exact_mod_cast Int.zpow_log_le_self (b := 2) one_lt_two hpos
  have hle : n ≤ Int.log 2 y := (Int.zpow_le_iff_le_log one_lt_two hpos).1 (by exact_mod_cast hy)
  rw [abs_of_pos hpos] at hk
  rw [if_neg (not_lt.2 hpos.le), one_mul]
  refine (two_zpow_le hle).trans (wholeRound_scaled_ge hk hlog ?_)
  rw [place32, abs_of_pos hpos]
  omega

theorem rne_nonneg (h : Rne y z) (hy : 0 ≤ y) : 0 ≤ z := by
  rcases hy.eq_or_lt with rfl | hpos
  · rw [rne_zero h]
  · obtain ⟨k, -, rfl⟩ := rne_eq h hpos.ne'
    rw [if_neg (not_lt.2 hy), one_mul]
    positivity

theorem rne_error (h : Rne y z) (hy : |y| ≤ 2 ^ n) (hn : -126 ≤ n) : |z - y| ≤ 2 ^ (n - 24) := by
  by_cases h0 : y = 0
  · subst h0
    rw [rne_zero h, sub_zero, abs_zero]
    positivity
  · obtain ⟨k, hk, rfl⟩ := rne_eq h h0
    have herr := wholeRound_rne_error hk
    have hplace : place32 y - 1 ≤ n - 24 := by
      have := log_le_of_abs_le h0 hy
      unfold place32
      omega
    refine le_trans ?_ (herr.trans (two_zpow_le hplace))
    by_cases hy0 : y < 0
    · rw [if_pos hy0, abs_of_neg hy0, ← abs_neg]
      exact le_of_eq (congrArg _ (by ring))
    · rw [if_neg hy0, one_mul, abs_of_nonneg (not_lt.1 hy0)]

/-! ## Steps that the machine makes -/

theorem two_zpow_127_le_max : (2 : ℝ) ^ (127 : ℤ) ≤ codeNum .f32 Fmt.f32.maxBits := by
  rw [codeNum_maxBits]
  norm_num [Fmt.maxSig, Fmt.maxExp]

/-- A number that is not too large does not round to an infinity. -/
theorem rounds_not_inf {r : ℕ × Flags} (h : Rounds .f32 .rne false y r) (h0 : y ≠ 0) (hy : |y| ≤ 2 ^ (127 : ℤ)) :
    codeInf .f32 r.1 = false := by
  obtain ⟨j, k, hj, -, -, hfin⟩ := h
  have hp : Int.log 2 |y| - Fmt.f32.mBits ≤ 127 := by
    have := log_le_of_abs_le h0 hy
    simp only [Fmt.mBits]
    omega
  exact (hfin ((wholeRound_scaled_le hj hy hp).trans two_zpow_127_le_max)).2.2.2.1

theorem isNum_zero (neg : Bool) : IsNum (signBits .f32 neg) 0 :=
  ⟨by cases neg <;> decide, by cases neg <;> decide, by cases neg <;> decide, codeZero_iff.1 (by cases neg <;> decide)⟩

/-- What the machine rounds a value to is a step of R132, where the value's rounding is that of a number that is not too large. -/
theorem exists_rne_of_roundsTo {v : FVal} {zneg : Bool} (h : RoundsTo .f32 .rne false y zneg (roundVal .f32 .rne false v))
    (hy : |y| ≤ 2 ^ (127 : ℤ)) : ∃ z, Rne y z ∧ IsNum (code32 v) z := by
  by_cases h0 : y = 0
  · refine ⟨0, ⟨(signBits .f32 false, Flags.none), ⟨fun _ => rfl, fun h => absurd h0 h⟩, (isNum_zero false).2.2.1,
      (isNum_zero false).2.2.2.symm⟩, ?_⟩
    rw [code32, h.1 h0]
    exact isNum_zero zneg
  · have hr := h.2 h0
    have hi := rounds_not_inf hr h0 hy
    exact ⟨_, ⟨_, ⟨fun h => absurd h h0, fun _ => hr⟩, hi, rfl⟩, rounds_lt hr, rounds_rne_not_nan hr, hi, rfl⟩

theorem exists_rne {v : FVal} (hv : IsReal v y) (hy : |y| ≤ 2 ^ (127 : ℤ)) : ∃ z, Rne y z ∧ IsReal (rne32 v) z := by
  obtain ⟨zneg, hv⟩ := hv
  obtain ⟨z, hr, hz⟩ := exists_rne_of_roundsTo (hv.roundsTo .f32 .rne false) hy
  exact ⟨z, hr, IsReal_of_isNum hz⟩

/-- A positive number given by its whole part and a mark is rounded to FP32 as it stands (R133 to R135). -/
theorem exists_rne_sticky {fl k : ℕ} {exact : Bool} (hfl : 2 ^ 24 ≤ fl) (hlo : (fl : ℝ) * 2 ^ (-(k : ℤ)) ≤ y)
    (hhi : y < (fl + 1) * 2 ^ (-(k : ℤ))) (hx : exact = true ↔ (fl : ℝ) * 2 ^ (-(k : ℤ)) = y) (hy : |y| ≤ 2 ^ (127 : ℤ)) :
    ∃ z, Rne y z ∧ IsReal (rne32 (stickyVal fl exact k)) z := by
  have hr : Rounds .f32 .rne false y (roundVal .f32 .rne false (stickyVal fl exact k)) := rounds_sticky hfl hlo hhi hx
  have hpos : 0 < y := lt_of_lt_of_le (mul_pos (by exact_mod_cast (by omega : 0 < fl)) (by positivity)) hlo
  obtain ⟨z, hz, hc⟩ := exists_rne_of_roundsTo (zneg := false) ⟨fun h => absurd h hpos.ne', fun _ => hr⟩ hy
  exact ⟨z, hz, IsReal_of_isNum hc⟩

end

end Sys2Proof.Machine
end

section
/-! PROOF. Integer square roots, Decompose, and the tables of the special functions (R132 to R136). -/

namespace Sys2Proof.Machine

open Sys2Proof

/-! ## Integer square roots -/

theorem isqrtFrom_spec (n b r : ℕ) (hr : r * r ≤ n) (hn : n < (r + 2 ^ b) * (r + 2 ^ b)) :
    isqrtFrom n b r * isqrtFrom n b r ≤ n ∧ n < (isqrtFrom n b r + 1) * (isqrtFrom n b r + 1) := by
  induction b generalizing r with
  | zero => exact ⟨hr, hn⟩
  | succ b ih =>
    unfold isqrtFrom
    split
    · rename_i h
      exact ih _ h (by rw [Nat.add_assoc, ← Nat.two_mul, ← Nat.pow_succ']; exact hn)
    · rename_i h
      exact ih _ hr (not_le.1 h)

theorem isqrt_eq_sqrt (n : ℕ) : isqrt n = Nat.sqrt n := by
  refine Nat.eq_sqrt.2 (isqrtFrom_spec n _ 0 (Nat.zero_le _) ?_)
  rw [Nat.zero_add, ← Nat.pow_add]
  exact Nat.lt_of_lt_of_le Nat.lt_log2_self (Nat.pow_le_pow_right (by decide) (by omega))

/-- The whole part of a square root is the integer square root of the whole part, and is all of it where both are exact. -/
theorem sqrt_whole {y : ℝ} {n p : ℕ} (hy : 0 ≤ y) (hlo : (n : ℝ) ≤ (y * 2 ^ p) ^ 2) (hhi : (y * 2 ^ p) ^ 2 < n + 1) :
    (isqrt n : ℝ) * 2 ^ (-(p : ℤ)) ≤ y ∧ y < (isqrt n + 1) * 2 ^ (-(p : ℤ))
      ∧ (isqrt n * isqrt n = n ∧ (n : ℝ) = (y * 2 ^ p) ^ 2 ↔ (isqrt n : ℝ) * 2 ^ (-(p : ℤ)) = y) := by
  have hp : (0 : ℝ) < 2 ^ p := by positivity
  have hyp : 0 ≤ y * 2 ^ p := by positivity
  have h1 : ((isqrt n : ℕ) : ℝ) ^ 2 ≤ n := by rw [isqrt_eq_sqrt]; exact_mod_cast Nat.sqrt_le' n
  have h2 : (n : ℝ) + 1 ≤ ((isqrt n : ℕ) + 1 : ℝ) ^ 2 := by rw [isqrt_eq_sqrt]; exact_mod_cast Nat.lt_succ_sqrt' n
  rw [zpow_neg, zpow_natCast, ← div_eq_mul_inv, ← div_eq_mul_inv, div_le_iff₀ hp, lt_div_iff₀ hp, div_eq_iff hp.ne']
  refine ⟨(pow_le_pow_iff_left₀ (by positivity) hyp two_ne_zero).1 (by linarith),
    lt_of_pow_lt_pow_left₀ 2 (by positivity) (by linarith), fun ⟨hr, hn⟩ => ?_, fun hr => ?_⟩
  · refine (pow_left_inj₀ (by positivity) hyp two_ne_zero).1 ?_
    rw [← hn, ← hr, hr, pow_two]
    exact_mod_cast hr
  · rw [← hr] at hlo hhi ⊢
    have h3 : n ≤ isqrt n ^ 2 := by exact_mod_cast hlo
    have h4 : isqrt n ^ 2 < n + 1 := by exact_mod_cast hhi
    have h5 : isqrt n * isqrt n = n := by rw [← pow_two]; omega
    exact ⟨h5, by rw [pow_two]; exact_mod_cast h5.symm⟩

/-- The 2k-th root of a whole number from its k-th root. -/
theorem isqrt_root {N s k : ℕ} (h : s ^ k ≤ N ∧ N < (s + 1) ^ k) : isqrt s ^ (2 * k) ≤ N ∧ N < (isqrt s + 1) ^ (2 * k) := by
  rw [isqrt_eq_sqrt, pow_mul, pow_mul]
  exact ⟨(Nat.pow_le_pow_left (Nat.sqrt_le' s) k).trans h.1,
    h.2.trans_le (Nat.pow_le_pow_left (Nat.lt_succ_sqrt' s) k)⟩

/-! ## Decompose (R132) -/

/-- The significand of Decompose lies in its binade. -/
theorem decompose_bounds {m : ℕ} (h0 : m ≠ 0) (hm : m < 2 ^ 24) (e : ℤ) :
    2 ^ 23 ≤ (decompose m e).1 ∧ (decompose m e).1 < 2 ^ 24 := by
  have hl : Nat.log2 m ≤ 23 := Nat.lt_succ_iff.1 ((Nat.log2_lt h0).2 hm)
  have h1 := Nat.mul_le_mul_right (2 ^ (23 - Nat.log2 m)) (Nat.log2_self_le h0)
  have h2 := Nat.mul_lt_mul_of_pos_right (Nat.lt_log2_self (n := m)) (Nat.two_pow_pos (23 - Nat.log2 m))
  rw [← Nat.pow_add, show Nat.log2 m + (23 - Nat.log2 m) = 23 by omega] at h1
  rw [← Nat.pow_add, show Nat.log2 m + 1 + (23 - Nat.log2 m) = 24 by omega] at h2
  exact ⟨h1, h2⟩

/-- Decompose of a positive number, with the top bits of its fraction. -/
theorem decomposed_decompose {m : ℕ} (h0 : m ≠ 0) (hm : m < 2 ^ 24) (e : ℤ) {n : ℕ} (hn : n ≤ 23) :
    Decomposed (m * 2 ^ e) ((decompose m e).1 * 2 ^ (-23 : ℤ)) (decompose m e).2 n ((decompose m e).1 / 2 ^ (23 - n) % 2 ^ n) := by
  have hl : Nat.log2 m ≤ 23 := Nat.lt_succ_iff.1 ((Nat.log2_lt h0).2 hm)
  have hval : (m : ℝ) * 2 ^ e = (decompose m e).1 * 2 ^ (-23 : ℤ) * 2 ^ (decompose m e).2 := by
    rw [decompose, mul_assoc, ← zpow_add₀ two_ne_zero]
    push_cast
    rw [mul_assoc, ← zpow_natCast, ← zpow_add₀ two_ne_zero]
    congr 2
    omega
  obtain ⟨hlo, hhi⟩ := decompose_bounds h0 hm e
  generalize (decompose m e).1 = D at hval hlo hhi ⊢
  obtain ⟨c, hc⟩ : ∃ c, c = 23 - n := ⟨_, rfl⟩
  have h23 : 2 ^ c * 2 ^ n = 2 ^ 23 := by rw [← Nat.pow_add, hc, Nat.sub_add_cancel hn]
  obtain ⟨hq1, hq2, -⟩ := natDiv_whole D (Nat.two_pow_pos c)
  have hb1 : 2 ^ n ≤ D / 2 ^ c := (Nat.le_div_iff_mul_le (Nat.two_pow_pos c)).2 (by rw [Nat.mul_comm]; omega)
  have hb2 : D / 2 ^ c < 2 * 2 ^ n := Nat.div_lt_of_lt_mul (by rw [Nat.mul_left_comm]; omega)
  have hmod : D / 2 ^ c % 2 ^ n = D / 2 ^ c - 2 ^ n := by rw [Nat.mod_eq_sub_mod hb1, Nat.mod_eq_of_lt (by omega)]
  have hscale : ((D : ℝ) * 2 ^ (-23 : ℤ) - 1) * 2 ^ n = (D : ℝ) / (2 ^ c : ℕ) - 2 ^ n := by
    have h23' : (2 : ℝ) ^ c * 2 ^ n = 2 ^ 23 := by exact_mod_cast h23
    rw [zpow_neg, show (2 : ℝ) ^ (23 : ℤ) = 2 ^ 23 by norm_cast, ← h23']
    push_cast
    field_simp
  refine ⟨hval, ?_, ?_, ?_⟩
  · rw [zpow_neg, ← div_eq_mul_inv, one_le_div (by positivity)]
    exact_mod_cast hlo
  · rw [zpow_neg, ← div_eq_mul_inv, div_lt_iff₀ (by positivity)]
    have : (D : ℝ) < 2 ^ 24 := by exact_mod_cast hhi
    norm_num at this ⊢
    exact this
  · rw [hscale, ← hc, hmod, Nat.cast_sub hb1]
    push_cast at hq1 hq2 ⊢
    exact ⟨by linarith, by linarith⟩

/-! ## Tables (R133 to R136) -/

/-- RT holds the reciprocals, rounded. -/
theorem exists_tabRT {i : ℕ} (hi : i < 64) :
    ∃ rt : ℝ, Rne (1 / (1 + i / 64)) rt ∧ IsReal (tabRT i) rt ∧ |rt - 1 / (1 + i / 64)| ≤ 2 ^ (-24 : ℤ)
      ∧ 0 < rt ∧ rt ≤ 1 := by
  have hi' : (i : ℝ) < 64 := by exact_mod_cast hi
  have hi0 : (0 : ℝ) ≤ i := Nat.cast_nonneg i
  have hy : (1 : ℝ) / (1 + i / 64) = ((64 * 2 ^ 40 : ℕ) : ℝ) / ((64 + i : ℕ) : ℝ) * 2 ^ (-(40 : ℕ) : ℤ) := by
    rw [zpow_neg, zpow_natCast]
    push_cast
    field_simp
    norm_num
  obtain ⟨h1, h2, h3⟩ := natDiv_whole (64 * 2 ^ 40) (show 0 < 64 + i by omega)
  have hge : (1 : ℝ) / 2 ≤ 1 / (1 + i / 64) := by gcongr; linarith
  have hle : (1 : ℝ) / (1 + i / 64) ≤ 1 := (div_le_one (by positivity)).2 (by linarith [show (0 : ℝ) ≤ i / 64 by positivity])
  have habs : |(1 : ℝ) / (1 + i / 64)| ≤ 2 ^ (0 : ℤ) := by rw [abs_of_nonneg (by positivity), zpow_zero]; exact hle
  obtain ⟨rt, hr, hreal⟩ := exists_rne_sticky (y := 1 / (1 + i / 64)) (fl := 64 * 2 ^ 40 / (64 + i)) (k := 40)
    (exact := 64 * 2 ^ 40 % (64 + i) == 0) ((Nat.le_div_iff_mul_le (by omega)).2 (by omega))
    (by rw [hy]; exact mul_le_mul_of_nonneg_right h1 (by positivity)) (by rw [hy]; exact mul_lt_mul_of_pos_right h2 (by positivity))
    (by rw [hy, mul_left_inj' (by positivity), beq_iff_eq]; exact h3) (habs.trans (two_zpow_le (by norm_num)))
  have hrge := rne_ge (n := -1) hr (by norm_num at hge ⊢; exact hge) (by norm_num)
  have hrle := rne_abs_le hr habs (by norm_num)
  rw [zpow_zero] at hrle
  exact ⟨rt, hr, hreal, rne_error hr habs (by norm_num), lt_of_lt_of_le (by positivity) hrge, (abs_le.1 hrle).2⟩

/-- The reciprocals of square roots that RS holds lie between 1/2 and 1. -/
theorem rsqrt_bounds {a j : ℕ} (ha : a < 2) (hj : j < 32) :
    1 / 2 ≤ 1 / √((2 : ℝ) ^ a * (1 + j / 32)) ∧ 1 / √((2 : ℝ) ^ a * (1 + j / 32)) ≤ 1 := by
  have hj0 : (0 : ℝ) ≤ j / 32 := by positivity
  have hj1 : (j : ℝ) / 32 ≤ 1 := by
    rw [div_le_one (by norm_num)]
    exact_mod_cast hj.le
  have ha1 : (1 : ℝ) ≤ 2 ^ a := one_le_pow₀ one_le_two
  have ha2 : (2 : ℝ) ^ a ≤ 2 := by interval_cases a <;> norm_num
  constructor
  · gcongr
    rw [Real.sqrt_le_left (by norm_num)]
    nlinarith
  · rw [div_le_one (by positivity), Real.one_le_sqrt]
    nlinarith

/-- RS holds the reciprocals of square roots, rounded. -/
theorem exists_tabRS {a j : ℕ} (ha : a < 2) (hj : j < 32) :
    ∃ rs : ℝ, Rne (1 / √(2 ^ a * (1 + j / 32))) rs ∧ IsReal (tabRS (32 * a + j)) rs
      ∧ |rs - 1 / √(2 ^ a * (1 + j / 32))| ≤ 2 ^ (-24 : ℤ) ∧ 0 < rs ∧ rs ≤ 1 := by
  obtain ⟨hyge, hy1⟩ := rsqrt_bounds ha hj
  have hd : 0 < 2 ^ a * (32 + j) := by positivity
  obtain ⟨y, hy⟩ : ∃ y : ℝ, y = 1 / √(2 ^ a * (1 + j / 32)) := ⟨_, rfl⟩
  have hy0 : 0 < y := by rw [hy]; positivity
  have hsq : (y * 2 ^ 40) ^ 2 = ((32 * 2 ^ 80 : ℕ) : ℝ) / ((2 ^ a * (32 + j) : ℕ) : ℝ) := by
    rw [hy, mul_pow, div_pow, Real.sq_sqrt (by positivity)]
    push_cast
    field_simp
    norm_num
  rw [← hy] at hyge hy1 ⊢
  obtain ⟨h1, h2, h3⟩ := natDiv_whole (32 * 2 ^ 80) hd
  rw [← hsq] at h1 h2 h3
  obtain ⟨hlo, hhi, hex⟩ := sqrt_whole (p := 40) hy0.le h1 h2
  have habs : |y| ≤ 2 ^ (0 : ℤ) := by rw [abs_of_pos hy0, zpow_zero]; exact hy1
  have hfl : 2 ^ 24 ≤ isqrt (32 * 2 ^ 80 / (2 ^ a * (32 + j))) := by
    rw [isqrt_eq_sqrt, Nat.le_sqrt, Nat.le_div_iff_mul_le hd]
    have : 2 ^ a * (32 + j) ≤ 2 * 64 := Nat.mul_le_mul (by interval_cases a <;> decide) (by omega)
    omega
  obtain ⟨rs, hr, hreal⟩ := exists_rne_sticky (k := 40)
    (exact := isqrt (32 * 2 ^ 80 / (2 ^ a * (32 + j))) * isqrt (32 * 2 ^ 80 / (2 ^ a * (32 + j))) == 32 * 2 ^ 80 / (2 ^ a * (32 + j))
      && 32 * 2 ^ 80 % (2 ^ a * (32 + j)) == 0) hfl hlo hhi
    (by rw [← hex, ← h3, Bool.and_eq_true, beq_iff_eq, beq_iff_eq]) (habs.trans (two_zpow_le (by norm_num)))
  have hrge := rne_ge (n := -1) hr (by norm_num at hyge ⊢; exact hyge) (by norm_num)
  have hrle := rne_abs_le hr habs (by norm_num)
  rw [zpow_zero] at hrle
  refine ⟨rs, hr, ?_, rne_error hr habs (by norm_num), lt_of_lt_of_le (by positivity) hrge, (abs_le.1 hrle).2⟩
  rw [tabRS, show (32 * a + j) / 32 = a by omega, show (32 * a + j) % 32 = j by omega]
  exact hreal

/-- The whole part of a root. -/
theorem root_whole {y : ℝ} {r N k : ℕ} (hk : k ≠ 0) (hy : 0 ≤ y) (hpow : y ^ k = N) (h : r ^ k ≤ N ∧ N < (r + 1) ^ k) :
    (r : ℝ) ≤ y ∧ y < r + 1 := by
  have h1 : (r : ℝ) ^ k ≤ y ^ k := by rw [hpow]; exact_mod_cast h.1
  have h2 : y ^ k < (r + 1 : ℝ) ^ k := by rw [hpow]; exact_mod_cast h.2
  exact ⟨(pow_le_pow_iff_left₀ (Nat.cast_nonneg r) hy hk).1 h1, lt_of_pow_lt_pow_left₀ k (by positivity) h2⟩

/-- Six integer square roots in turn give the whole part of the 64th root of a power of two. -/
theorem tabET_root (j : ℕ) : isqrt (isqrt (isqrt (isqrt (isqrt (isqrt (2 ^ (j + 64 * 30))))))) ^ 64 ≤ 2 ^ (j + 64 * 30)
    ∧ 2 ^ (j + 64 * 30) < (isqrt (isqrt (isqrt (isqrt (isqrt (isqrt (2 ^ (j + 64 * 30))))))) + 1) ^ 64 :=
  isqrt_root (isqrt_root (isqrt_root (isqrt_root (isqrt_root (isqrt_root (k := 1) ⟨by rw [pow_one], by rw [pow_one]; omega⟩)))))

/-- A k-th power that is a power of two is one whose exponent k divides. -/
theorem dvd_of_pow_eq_two_pow {r n k : ℕ} (h : r ^ k = 2 ^ n) : k ∣ n := by
  rcases Nat.eq_zero_or_pos k with rfl | hk
  · rw [pow_zero] at h
    have : n = 0 := by
      by_contra hn
      exact absurd h.symm (Nat.one_lt_two_pow hn).ne'
    rw [this]
  · obtain ⟨c, -, rfl⟩ := (Nat.dvd_prime_pow Nat.prime_two).1 (h ▸ dvd_pow_self r hk.ne')
    rw [← pow_mul] at h
    exact ⟨c, by rw [← Nat.pow_right_injective (le_refl 2) h, Nat.mul_comm]⟩

/-- ET holds the powers of the 64th root of two, rounded. -/
theorem exists_tabET {j : ℕ} (hj : j < 64) :
    ∃ et : ℝ, Rne ((2 : ℝ) ^ ((j : ℝ) / 64)) et ∧ IsReal (tabET j) et ∧ 1 ≤ et ∧ et ≤ 2 := by
  have hj' : (j : ℝ) / 64 ≤ 1 := by
    rw [div_le_one (by norm_num)]
    exact_mod_cast hj.le
  obtain ⟨y, hy⟩ : ∃ y : ℝ, y = 2 ^ ((j : ℝ) / 64) := ⟨_, rfl⟩
  have hy1 : 1 ≤ y := hy ▸ Real.one_le_rpow one_le_two (by positivity)
  have hy2 : y ≤ 2 := by simpa [hy] using Real.rpow_le_rpow_of_exponent_le one_le_two hj'
  have hpow : (y * 2 ^ 30) ^ 64 = ((2 ^ (j + 64 * 30) : ℕ) : ℝ) := by
    rw [mul_pow, hy, ← Real.rpow_natCast, ← Real.rpow_mul zero_le_two, Nat.cast_ofNat, div_mul_cancel₀ _ (by norm_num),
      Real.rpow_natCast, ← pow_mul, ← pow_add]
    push_cast
    rfl
  have hroot := tabET_root j
  rw [← hy]
  obtain ⟨r, hr⟩ : ∃ r, r = isqrt (isqrt (isqrt (isqrt (isqrt (isqrt (2 ^ (j + 64 * 30))))))) := ⟨_, rfl⟩
  rw [← hr] at hroot
  have hp : (0 : ℝ) < 2 ^ 30 := by positivity
  obtain ⟨hlo, hhi⟩ := root_whole (by decide) (by positivity) hpow hroot
  have hex : (j == 0) = true ↔ (r : ℝ) = y * 2 ^ 30 := by
    rw [beq_iff_eq]
    constructor
    · rintro rfl
      have hyone : y = 1 := by simp [hy]
      rw [hyone, one_mul] at hlo hhi ⊢
      have hlo' : r ≤ 2 ^ 30 := by exact_mod_cast hlo
      have hhi' : 2 ^ 30 < r + 1 := by exact_mod_cast hhi
      exact_mod_cast (by omega : r = 2 ^ 30)
    · intro h
      rw [← h, ← Nat.cast_pow, Nat.cast_inj] at hpow
      have := dvd_of_pow_eq_two_pow hpow
      omega
  have hfl : 2 ^ 24 ≤ r := by
    by_contra hlt
    have : (r : ℝ) + 1 ≤ 2 ^ 24 := by exact_mod_cast Nat.succ_le_of_lt (not_le.1 hlt)
    linarith
  have habs : |y| ≤ 2 ^ (1 : ℤ) := by rw [abs_of_nonneg (by linarith), zpow_one]; exact hy2
  have hscale (z : ℝ) : z * 2 ^ (-(30 : ℕ) : ℤ) = z / 2 ^ 30 := by rw [zpow_neg, zpow_natCast, div_eq_mul_inv]
  obtain ⟨et, hret, hreal⟩ := exists_rne_sticky (k := 30) (exact := j == 0) hfl
    (by rw [hscale, div_le_iff₀ hp]; exact hlo) (by rw [hscale, lt_div_iff₀ hp]; exact hhi)
    (by rw [hscale, div_eq_iff hp.ne']; exact hex) (habs.trans (two_zpow_le (by norm_num)))
  refine ⟨et, hret, by rw [tabET, ← hr]; exact hreal, ?_, ?_⟩
  · simpa using rne_ge (n := 0) hret (by rw [zpow_zero]; exact hy1) (by norm_num)
  · simpa using (abs_le.1 (rne_abs_le hret habs (by norm_num))).2

/-- A finite value of no negative sign. -/
def FVal.isNonneg : FVal → Bool
  | .fin neg _ _ => !neg
  | _ => false

theorem tabLL_isNonneg : ∀ i : Fin 64, (tabLL i).isNonneg = true := by decide

/-- The entries of LL are finite and have no negative sign (notes/assumptions/17.md). -/
theorem exists_tabLL {i : ℕ} (hi : i < 64) : ∃ m e, tabLL i = .fin false m e := by
  have h := tabLL_isNonneg ⟨i, hi⟩
  simp only at h
  match hv : tabLL i with
  | .fin false m e => exact ⟨m, e, rfl⟩
  | .fin true m e => simp [hv, FVal.isNonneg] at h
  | .inf _ => simp [hv, FVal.isNonneg] at h
  | .nan => simp [hv, FVal.isNonneg] at h

end Sys2Proof.Machine
end

section
/-! PROOF. The steps of the special functions up to their last (R132 to R137). -/

namespace Sys2Proof.Machine

open Sys2Proof

/-! ## Constants -/

/-- The value of the FP32 constant of a code, in units of the lowest place. -/
theorem k32_eq (c : ℕ) : k32 c = (if codeNeg .f32 c then -1 else 1) * (magSig .f32 (c % 2 ^ 31) * 2 ^ (-149 : ℤ)) :=
  codeNum_eq_magSig .f32 c

theorem abs_k32 (c : ℕ) : |k32 c| = magSig .f32 (c % 2 ^ 31) * 2 ^ (-149 : ℤ) := by
  rw [k32_eq, abs_mul, abs_of_nonneg (show (0 : ℝ) ≤ magSig .f32 (c % 2 ^ 31) * 2 ^ (-149 : ℤ) by positivity)]
  split <;> simp

theorem abs_k32_mono {c d : ℕ} (h : c % 2 ^ 31 ≤ d % 2 ^ 31) : |k32 c| ≤ |k32 d| := by
  rw [abs_k32, abs_k32]
  have : (magSig .f32 (c % 2 ^ 31) : ℝ) ≤ magSig .f32 (d % 2 ^ 31) := by exact_mod_cast (magSig_strictMono .f32).monotone h
  exact mul_le_mul_of_nonneg_right this (by positivity)

theorem k32_one : k32 0x3F800000 = 1 := by
  rw [k32_eq, show codeNeg .f32 0x3F800000 = false by decide]
  norm_num [magSig, Fmt.mBits]

theorem k32_neg_one : k32 0xBF800000 = -1 := by
  rw [k32_eq, show codeNeg .f32 0xBF800000 = true by decide]
  norm_num [magSig, Fmt.mBits]

theorem k32_neg_two : k32 0xC0000000 = -2 := by
  rw [k32_eq, show codeNeg .f32 0xC0000000 = true by decide]
  norm_num [magSig, Fmt.mBits]

theorem k32_three_halves : k32 0x3FC00000 = 3 / 2 := by
  rw [k32_eq, show codeNeg .f32 0x3FC00000 = false by decide]
  norm_num [magSig, Fmt.mBits]

/-- The coefficients of the polynomials are not above 3/2 in magnitude. -/
abbrev IsCoeff (c : ℕ) : Prop := c % 2 ^ 31 ≤ 0x3FC00000

theorem abs_k32_le {c : ℕ} (h : IsCoeff c) : |k32 c| ≤ 3 / 2 := by
  refine (abs_k32_mono (d := 0x3FC00000) h).trans ?_
  rw [k32_three_halves]
  norm_num

theorem isReal_coeff {c : ℕ} (h : IsCoeff c) : IsReal (c32 c) (k32 c) := by
  unfold IsCoeff at h
  refine isReal_c32 ?_ ?_
  · rw [codeNan, codeExp_mod, codeFrac_mod]
    simp only [Fmt.width, Fmt.mBits, Nat.reduceSub, reduceCtorEq, if_false, Bool.and_eq_false_iff, beq_eq_false_iff_ne]
    omega
  · rw [codeInf, codeExp_mod]
    simp only [Fmt.width, Fmt.mBits, Nat.reduceSub, Bool.and_eq_false_iff, beq_eq_false_iff_ne]
    omega

/-! ## Polynomials -/

section

variable {u' h' : FVal} {u h : ℝ} (hu : IsReal u' u) (hu1 : |u| ≤ 1 / 8)

include hu hu1

/-- A step of a polynomial: it stays finite, and its result is at most 2. -/
theorem exists_fma (hh : IsReal h' h) (h2 : |h| ≤ 2) {c : ℕ} (hc : IsCoeff c) :
    ∃ k, Rne (u * h + k32 c) k ∧ IsReal (fma32 u' h' (c32 c)) k ∧ |k| ≤ 2 := by
  have hprod : |u * h| ≤ 1 / 4 := by
    rw [abs_mul]
    exact (mul_le_mul hu1 h2 (abs_nonneg _) (by norm_num)).trans (by norm_num)
  have hsum : |u * h + k32 c| ≤ 2 ^ (1 : ℤ) := by
    have := abs_add_le (u * h) (k32 c)
    have := abs_k32_le hc
    norm_num
    linarith
  obtain ⟨k, hr, hk⟩ := exists_rne ((hu.times hh).plus (isReal_coeff hc)) (hsum.trans (two_zpow_le (by norm_num)))
  exact ⟨k, hr, hk, by simpa using rne_abs_le hr hsum (by norm_num)⟩

/-- The machine's steps over a list of constants. -/
def hornerVal (u h : FVal) (cs : List ℕ) : FVal := cs.foldl (fun h c => fma32 u h (c32 c)) h

theorem exists_horner (cs : List ℕ) (hcs : ∀ c ∈ cs, IsCoeff c) (hh : IsReal h' h) (h2 : |h| ≤ 2) :
    ∃ z, Horner u h cs z ∧ IsReal (hornerVal u' h' cs) z ∧ |z| ≤ 2 := by
  induction cs generalizing h' h with
  | nil => exact ⟨h, rfl, hh, h2⟩
  | cons c cs ih =>
    obtain ⟨k, hr, hk, k2⟩ := exists_fma hu hu1 hh h2 (hcs c (by simp))
    obtain ⟨z, hz, hv, z2⟩ := ih (fun d hd => hcs d (by simp [hd])) hk k2
    exact ⟨z, ⟨k, hr, hz⟩, hv, z2⟩

omit hu hu1 in
theorem horner_append {cs : List ℕ} {c : ℕ} {k z : ℝ} (hk : Horner u h cs k) (hz : Rne (u * k + k32 c) z) :
    Horner u h (cs ++ [c]) z := by
  induction cs generalizing h with
  | nil =>
    obtain rfl : k = h := hk
    exact ⟨z, hz, rfl⟩
  | cons d cs ih =>
    obtain ⟨g, hg, hk⟩ := hk
    exact ⟨g, hg, ih hk⟩

/-- A polynomial whose last constant is 1 stays between 1/2 and 2. -/
theorem exists_horner_one (c0 : ℕ) (cs : List ℕ) (hc0 : IsCoeff c0) (hcs : ∀ c ∈ cs, IsCoeff c) :
    ∃ z, Horner u (k32 c0) (cs ++ [0x3F800000]) z ∧ IsReal (hornerVal u' (c32 c0) (cs ++ [0x3F800000])) z
      ∧ 1 / 2 ≤ z ∧ z ≤ 2 := by
  obtain ⟨k, hk, hv, k2⟩ := exists_horner hu hu1 cs hcs (isReal_coeff hc0) ((abs_k32_le hc0).trans (by norm_num))
  obtain ⟨z, hr, hz, z2⟩ := exists_fma hu hu1 hv k2 (c := 0x3F800000) (by decide)
  refine ⟨z, horner_append hk hr, ?_, ?_, (abs_le.1 z2).2⟩
  · rw [hornerVal, List.foldl_append]
    exact hz
  · have hprod : |u * k| ≤ 1 / 4 := by
      rw [abs_mul]
      exact (mul_le_mul hu1 k2 (abs_nonneg _) (by norm_num)).trans (by norm_num)
    have hge : (2 : ℝ) ^ (-1 : ℤ) ≤ u * k + k32 0x3F800000 := by
      rw [k32_one]
      have := (abs_le.1 hprod).1
      norm_num
      linarith
    have := rne_ge hr hge (by norm_num)
    norm_num at this ⊢
    exact this

end

theorem IsReal.scale2 {v : FVal} {y : ℝ} (h : IsReal v y) (n : ℤ) : IsReal (scale2 v n) (y * 2 ^ n) := by
  obtain ⟨_, neg, m, e, rfl, rfl, -⟩ := h
  refine ⟨_, neg, m, e + n, rfl, ?_, fun _ => rfl⟩
  change (FVal.fin neg m (e + n)).num = _
  rw [FVal.num_fin, FVal.num_fin, zpow_add₀ two_ne_zero]
  ring

/-- A small step stays small. -/
theorem exists_rne_small {v : FVal} {y : ℝ} (hv : IsReal v y) (hy : |y| ≤ 1 / 8) :
    ∃ u, Rne y u ∧ IsReal (rne32 v) u ∧ |u| ≤ 1 / 8 := by
  have h8 : (2 : ℝ) ^ (-3 : ℤ) = 1 / 8 := by norm_num
  rw [← h8] at hy ⊢
  obtain ⟨u, hu, hureal⟩ := exists_rne hv (hy.trans (two_zpow_le (by norm_num)))
  exact ⟨u, hu, hureal, rne_abs_le hu hy (by norm_num)⟩

/-! ## The reciprocal (R133) -/

/-- The significand of Decompose as a value. -/
theorem isReal_significand (d : ℕ) (a : ℤ) : IsReal (.fin false d (-23 + a)) (d * 2 ^ (-23 : ℤ) * 2 ^ a) := by
  have := isReal_fin false d (-23 + a)
  rwa [show (FVal.fin false d (-23 + a)).num = d * 2 ^ (-23 : ℤ) * 2 ^ a by
    rw [FVal.num_fin, zpow_add₀ two_ne_zero]; simp [mul_assoc]] at this

/-- The first step of R133 and R136: the significand by its table entry, less 1, is small. -/
theorem exists_rcpStep {μ y : ℝ} {e : ℤ} {i : ℕ} (hd : Decomposed y μ e 6 i) (hi : i < 64) {μ' : FVal} (hμ : IsReal μ' μ) :
    ∃ rt u, Rne (1 / (1 + i / 64)) rt ∧ IsReal (tabRT i) rt ∧ 0 < rt ∧ rt ≤ 1 ∧ Rne (μ * rt - 1) u
      ∧ IsReal (rne32 (plus (times μ' (tabRT i)) (c32 0xBF800000))) u ∧ |u| ≤ 1 / 8 := by
  obtain ⟨-, h1, h2, hlo, hhi⟩ := hd
  obtain ⟨rt, hr, hreal, herr, hpos, hle⟩ := exists_tabRT hi
  have ha : (1 : ℝ) ≤ 1 + i / 64 := by linarith [show (0 : ℝ) ≤ i / 64 by positivity]
  have hquot : |μ / (1 + i / 64) - 1| ≤ 1 / 64 := by
    rw [div_sub_one (by positivity), abs_div, abs_of_pos (by linarith : (0 : ℝ) < 1 + i / 64), div_le_iff₀ (by linarith),
      abs_of_nonneg (by linarith)]
    linarith
  have hrest : |μ * (rt - 1 / (1 + i / 64))| ≤ 1 / 64 := by
    rw [abs_mul, abs_of_nonneg (by linarith)]
    refine (mul_le_mul h2.le herr (abs_nonneg _) (by norm_num)).trans (by norm_num)
  have hy : |μ * rt - 1| ≤ 1 / 8 := by
    have he : μ * rt - 1 = μ / (1 + i / 64) - 1 + μ * (rt - 1 / (1 + i / 64)) := by ring
    rw [he]
    refine (abs_add_le _ _).trans ((add_le_add hquot hrest).trans (by norm_num))
  have hv := (hμ.times hreal).plus (isReal_coeff (c := 0xBF800000) (by decide))
  rw [k32_neg_one, ← sub_eq_add_neg] at hv
  obtain ⟨u, hu⟩ := exists_rne_small hv hy
  exact ⟨rt, u, hr, hreal, hpos, hle, hu⟩

/-- The exact result of R133 before its last rounding: positive, and at most 4 over its operand. -/
theorem exists_rcpCore {m : ℕ} (h0 : m ≠ 0) (hm : m < 2 ^ 24) (e : ℤ) :
    ∃ z, RcpCore (m * 2 ^ e) z ∧ IsReal (rcpExact m e) z ∧ 0 < z ∧ z * (m * 2 ^ e) ≤ 4 := by
  have hd := decomposed_decompose h0 hm e (n := 6) (by norm_num)
  have hμ := isReal_significand (decompose m e).1 0
  rw [zpow_zero, mul_one] at hμ
  obtain ⟨rt, u, hr, hreal, hpos, hle, hu, hureal, hu8⟩ := exists_rcpStep hd (Nat.mod_lt _ (by decide)) hμ
  obtain ⟨h, hh, hhreal, hlo, hhi⟩ := exists_horner_one hureal hu8 0x3F800000 [0xBF800000, 0x3F800000, 0xBF800000]
    (by decide) (by decide)
  obtain ⟨hval, h1, h2, -⟩ := id hd
  have hh0 : 0 < h := by linarith
  refine ⟨_, ⟨_, _, _, rt, u, h, hd, hr, hu, hh, rfl⟩, (hreal.times hhreal).scale2 (-(decompose m e).2), by positivity, ?_⟩
  rw [hval]
  generalize ((decompose m e).1 : ℝ) * 2 ^ (-23 : ℤ) = μ at h1 h2
  have hz : rt * h * 2 ^ (-(decompose m e).2) * (μ * 2 ^ (decompose m e).2) = rt * h * μ := by
    rw [zpow_neg]
    field_simp
  rw [hz]
  have h3 : rt * h ≤ 2 := by nlinarith
  have h4 : 0 ≤ rt * h := by positivity
  nlinarith

end Sys2Proof.Machine
end

section
/-! PROOF. The square root, its reciprocal, the power and the logarithm before their last rounding (R132, R134 to R136). -/

namespace Sys2Proof.Machine

open Sys2Proof

/-! ## The square root (R132) -/

/-- The square root is rounded once from its whole part and a mark of what lies beyond. -/
theorem rounds_sqrtExact (rm : Rm) (sat : Bool) {m : ℕ} (h0 : m ≠ 0) (e : ℤ) :
    Rounds .f32 rm sat √(m * 2 ^ e) (roundVal .f32 rm sat (sqrtExact m e)) := by
  obtain ⟨o, ho⟩ : ∃ o : ℕ, o = (e % 2).toNat := ⟨_, rfl⟩
  obtain ⟨p, hp⟩ : ∃ p : ℤ, p = (e - o - 60) / 2 := ⟨_, rfl⟩
  obtain ⟨v, hv⟩ : ∃ v : ℕ, v = m * 2 ^ (60 + o) := ⟨_, rfl⟩
  have he : e = p + p + (60 + o : ℕ) := by push_cast; omega
  have h2 : (0 : ℝ) < 2 ^ p := by positivity
  have hy : √(m * 2 ^ e) = √v * 2 ^ p := by
    have hm : (m : ℝ) * 2 ^ e = v * (2 ^ p * 2 ^ p) := by
      rw [hv, he, zpow_add₀ two_ne_zero, zpow_add₀ two_ne_zero, zpow_natCast]
      push_cast
      ring
    rw [hm, Real.sqrt_mul (Nat.cast_nonneg v), Real.sqrt_mul_self h2.le]
  have hfl : 2 ^ (Fmt.f32.mBits + 1) ≤ isqrt v := by
    have hv60 := Nat.mul_le_mul (Nat.one_le_iff_ne_zero.2 h0) (Nat.pow_le_pow_right two_pos (Nat.le_add_right 60 o))
    rw [isqrt_eq_sqrt, Nat.le_sqrt, hv]
    exact le_trans (by decide) hv60
  have hlo : (isqrt v : ℝ) ≤ √v := by rw [isqrt_eq_sqrt]; exact Real.nat_sqrt_le_real_sqrt
  have hhi : √v < isqrt v + 1 := by rw [isqrt_eq_sqrt]; exact Real.real_sqrt_lt_nat_sqrt_succ
  have hx : isqrt v * isqrt v = v ↔ (isqrt v : ℝ) = √v := by
    rw [eq_comm (b := √(v : ℝ)), Real.sqrt_eq_iff_mul_self_eq (Nat.cast_nonneg v) (Nat.cast_nonneg _)]
    exact_mod_cast eq_comm
  rw [sqrtExact, ← ho, ← hv, ← hp, hy]
  exact rounds_sticky hfl (mul_le_mul_of_nonneg_right hlo h2.le) (mul_lt_mul_of_pos_right hhi h2)
    (by rw [mul_left_inj' h2.ne']; exact hx)

/-! ## The reciprocal of the square root (R134) -/

/-- The first step of R134: the significand by the square of its table entry, less 1, is small. -/
theorem exists_rsqStep {μ y : ℝ} {e : ℤ} {a j : ℕ} (ha : a < 2) (hd : Decomposed y μ e 5 j) (hj : j < 32) {μ' : FVal}
    (hμ : IsReal μ' (μ * 2 ^ a)) :
    ∃ rs u, Rne (1 / √(2 ^ a * (1 + j / 32))) rs ∧ IsReal (tabRS (32 * a + j)) rs ∧ 0 < rs ∧ Rne (μ * 2 ^ a * rs * rs - 1) u
      ∧ IsReal (rne32 (plus (times (times μ' (tabRS (32 * a + j))) (tabRS (32 * a + j))) (c32 0xBF800000))) u ∧ |u| ≤ 1 / 8 := by
  obtain ⟨-, h1, h2, hlo, hhi⟩ := hd
  obtain ⟨rs, hr, hreal, herr, hpos, hle⟩ := exists_tabRS ha hj
  have hj0 : (0 : ℝ) ≤ j / 32 := by positivity
  have ha1 : (1 : ℝ) ≤ 2 ^ a := one_le_pow₀ one_le_two
  have ha2 : (2 : ℝ) ^ a ≤ 2 := by interval_cases a <;> norm_num
  have hs1 := (rsqrt_bounds ha hj).2
  obtain ⟨s, hs⟩ : ∃ s : ℝ, s = 1 / √(2 ^ a * (1 + j / 32)) := ⟨_, rfl⟩
  have hs0 : 0 < s := by rw [hs]; positivity
  have hss : s * s = 1 / (2 ^ a * (1 + j / 32)) := by
    rw [hs, div_mul_div_comm, one_mul, Real.mul_self_sqrt (by positivity)]
  rw [← hs] at hs1
  have hquot : |μ * 2 ^ a * (s * s) - 1| ≤ 1 / 32 := by
    have : μ * 2 ^ a * (s * s) = μ / (1 + j / 32) := by rw [hss]; field_simp
    rw [this, div_sub_one (by positivity), abs_div, abs_of_pos (by linarith : (0 : ℝ) < 1 + j / 32), div_le_iff₀ (by linarith),
      abs_of_nonneg (by linarith)]
    linarith
  have hdiff : |rs * rs - s * s| ≤ 2 ^ (-24 : ℤ) * 2 := by
    rw [mul_self_sub_mul_self, abs_mul, mul_comm, hs]
    refine mul_le_mul herr ?_ (abs_nonneg _) (by positivity)
    rw [← hs, abs_of_pos (by linarith)]
    linarith
  have hrest : |μ * 2 ^ a * (rs * rs - s * s)| ≤ 1 / 32 := by
    rw [abs_mul, abs_of_nonneg (by positivity)]
    have : μ * 2 ^ a ≤ 4 := by nlinarith
    exact (mul_le_mul this hdiff (abs_nonneg _) (by norm_num)).trans (by norm_num)
  have hy : |μ * 2 ^ a * rs * rs - 1| ≤ 1 / 8 := by
    have he : μ * 2 ^ a * rs * rs - 1 = μ * 2 ^ a * (s * s) - 1 + μ * 2 ^ a * (rs * rs - s * s) := by ring
    rw [he]
    exact (abs_add_le _ _).trans ((add_le_add hquot hrest).trans (by norm_num))
  have hv := ((hμ.times hreal).times hreal).plus (isReal_coeff (c := 0xBF800000) (by decide))
  rw [k32_neg_one, ← sub_eq_add_neg] at hv
  obtain ⟨u, hu⟩ := exists_rne_small hv hy
  exact ⟨rs, u, hr, hreal, hpos, hu⟩

/-- The exact result of R134 before its last rounding is positive. -/
theorem exists_rsqCore {m : ℕ} (h0 : m ≠ 0) (hm : m < 2 ^ 24) (e : ℤ) :
    ∃ z, RsqCore (m * 2 ^ e) z ∧ IsReal (rsqExact m e) z ∧ 0 < z := by
  have hd := decomposed_decompose h0 hm e (n := 5) (by norm_num)
  obtain ⟨a, ha⟩ : ∃ a : ℕ, a = ((decompose m e).2 % 2).toNat := ⟨_, rfl⟩
  have ha' : (decompose m e).2 % 2 = a := by omega
  have hμ := isReal_significand (decompose m e).1 a
  rw [zpow_natCast] at hμ
  obtain ⟨rs, u, hr, hreal, hpos, hu, hureal, hu8⟩ := exists_rsqStep (a := a) (by omega) hd (Nat.mod_lt _ (by decide)) hμ
  obtain ⟨h, hh, hhreal, hlo, -⟩ := exists_horner_one hureal hu8 0x3E8C0000 [0xBEA00000, 0x3EC00000, 0xBF000000]
    (by decide) (by decide)
  have hh0 : 0 < h := by linarith
  refine ⟨rs * h * 2 ^ (-(((decompose m e).2 - a) / 2)), ⟨_, _, _, rs, u, h, hd, ?_⟩, ?_, by positivity⟩
  · rw [ha']
    exact ⟨by rw [zpow_natCast]; exact hr, by rw [zpow_natCast]; exact hu, hh, rfl⟩
  · rw [rsqExact, ← ha]
    exact (hreal.times hhreal).scale2 _

/-! ## The power of two (R135) -/

/-- The steps of R135 from the whole number of 64ths and the rest: the result is positive, and bounded by the power that it is near. -/
theorem exists_ex2Steps {y : ℝ} {kk : ℤ} (hk : ⌊y * 64⌋ = kk) {r' : FVal} (hr' : IsReal r' ((y * 64 - kk) / 64)) :
    ∃ z, Ex2Core y z ∧ IsReal (scale2 (times (tabET (kk % 64).toNat)
        (hornerVal r' (c32 0x3D635847) [0x3E75FDF0, 0x3F317218, 0x3F800000])) ((kk - (kk % 64).toNat) / 64)) z
      ∧ 0 < z ∧ ∀ N : ℤ, y ≤ N → z ≤ 4 * 2 ^ N := by
  obtain ⟨hk1, hk2⟩ := Int.floor_eq_iff.1 hk
  have hj : ((kk % 64).toNat : ℤ) = kk % 64 := Int.toNat_of_nonneg (Int.emod_nonneg _ (by decide))
  have hjr : (((kk % 64 : ℤ)) : ℝ) = (((kk % 64).toNat : ℕ) : ℝ) := by exact_mod_cast hj.symm
  have hr8 : |(y * 64 - kk) / 64| ≤ 1 / 8 := by
    rw [abs_of_nonneg (by linarith)]
    linarith
  obtain ⟨et, het, hetreal, h1, h2⟩ := exists_tabET (j := (kk % 64).toNat) (by omega)
  obtain ⟨h, hh, hhreal, hlo, hhi⟩ := exists_horner_one hr' hr8 0x3D635847 [0x3E75FDF0, 0x3F317218]
    (by decide) (by decide)
  have hh0 : 0 < h := by linarith
  have het0 : 0 < et := by linarith
  refine ⟨et * h * 2 ^ ((kk - kk % 64) / 64), ⟨et, h, ?_⟩, ?_, by positivity, fun N hN => ?_⟩
  · simp only [hk, hjr, and_true]
    exact ⟨het, hh⟩
  · rw [hj]
    exact (hetreal.times hhreal).scale2 _
  · have hkN : kk ≤ N * 64 := by
      have : (kk : ℝ) ≤ ((N * 64 : ℤ) : ℝ) := by push_cast; linarith
      exact_mod_cast this
    exact mul_le_mul (by nlinarith) (two_zpow_le (by omega)) (by positivity) (by norm_num)

/-- Lines 03 and 05 of R135 as the machine computes them: the whole 64ths, and the rest. -/
theorem floor_64ths {y : ℝ} {t q : ℤ} (hq : q ≤ 0) (hy : (t : ℝ) * 2 ^ q = y * 64) :
    ⌊y * 64⌋ = t / ((2 ^ (-q).toNat : ℕ) : ℤ)
      ∧ ((t - t / ((2 ^ (-q).toNat : ℕ) : ℤ) * ((2 ^ (-q).toNat : ℕ) : ℤ) : ℤ) : ℝ) * 2 ^ (q - 6)
        = (y * 64 - (t / ((2 ^ (-q).toNat : ℕ) : ℤ) : ℤ)) / 64 := by
  obtain ⟨d, rfl⟩ : ∃ d : ℕ, q = -d := ⟨(-q).toNat, by omega⟩
  have hd : (- -(d : ℤ)).toNat = d := by omega
  have hp : (0 : ℝ) < 2 ^ d := by positivity
  have hpi : (0 : ℤ) < 2 ^ d := by positivity
  rw [hd, ← hy, zpow_sub₀ two_ne_zero, zpow_neg, zpow_natCast]
  refine ⟨Int.floor_eq_iff.2 ?_, ?_⟩
  · rw [← div_eq_mul_inv, le_div_iff₀ hp, div_lt_iff₀ hp]
    have h1 : t / 2 ^ d * 2 ^ d ≤ t := Int.ediv_mul_le t hpi.ne'
    have h2 : t < (t / 2 ^ d + 1) * 2 ^ d := Int.lt_ediv_add_one_mul_self t hpi
    exact ⟨by exact_mod_cast h1, by exact_mod_cast h2⟩
  · push_cast
    field_simp
    norm_num

/-- The exact result of R135 before its last rounding. -/
theorem exists_ex2Core (neg : Bool) (m : ℕ) (e : ℤ) :
    ∃ z, Ex2Core (FVal.fin neg m e).num z ∧ IsReal (ex2Exact neg m e) z ∧ 0 < z
      ∧ ∀ N : ℤ, (FVal.fin neg m e).num ≤ N → z ≤ 4 * 2 ^ N := by
  have hscaled := signed_scaled neg m (e + 6) (min (e + 6) 0) (min_le_left _ _)
  have h64 : (FVal.fin neg m (e + 6)).num = (FVal.fin neg m e).num * 64 := by
    rw [FVal.num_fin, FVal.num_fin, zpow_add₀ two_ne_zero, show (2 : ℝ) ^ (6 : ℤ) = 64 by norm_num]
    ring
  rw [h64] at hscaled
  obtain ⟨hfloor, hrest⟩ := floor_64ths (min_le_right _ _) hscaled
  refine exists_ex2Steps hfloor ?_
  rw [← hrest]
  exact ⟨_, isFin_finOf _ _ false⟩

end Sys2Proof.Machine
end

section
/-! PROOF. The logarithm and the hyperbolic tangent before their last rounding (R136, R137). -/

namespace Sys2Proof.Machine

open Sys2Proof

/-- A sum of which the first term is no negative zero is no negative zero. -/
theorem IsFin.plus {v w : FVal} {y z : ℝ} (hv : IsFin v y false) (hw : IsReal w z) : IsFin (plus v w) (y + z) false := by
  obtain ⟨a, m, e, rfl, rfl, ha⟩ := hv
  obtain ⟨_, b, n, g, rfl, rfl, -⟩ := hw
  obtain ⟨neg, k, q, hk, hnum, hz⟩ := (addVal_fin .rne a b m n e g).2
  refine ⟨neg, k, q, hk, hnum, fun h0 => ?_⟩
  rw [hz h0]
  by_cases hab : a = b
  · subst hab
    cases a with
    | false => simp
    | true =>
      have h1 : (0 : ℝ) ≤ m * 2 ^ e := by positivity
      have h2 : (0 : ℝ) ≤ n * 2 ^ g := by positivity
      simp only [FVal.num_fin, if_true] at h0 ha
      exact absurd (ha (by linarith)) (by simp)
  · rw [if_neg hab]
    rfl

/-! ## The logarithm (R136) -/

/-- The exact result of R136 before its last rounding, which is no negative zero. -/
theorem exists_lg2Core {m : ℕ} (h0 : m ≠ 0) (hm : m < 2 ^ 24) (e : ℤ) :
    ∃ z, Lg2Core (m * 2 ^ e) z ∧ IsFin (lg2Exact m e) z false := by
  have hd := decomposed_decompose h0 hm e (n := 6) (by norm_num)
  have hi : (decompose m e).1 / 2 ^ (23 - 6) % 2 ^ 6 < 64 := Nat.mod_lt _ (by decide)
  have hμ := isReal_significand (decompose m e).1 0
  rw [zpow_zero, mul_one] at hμ
  obtain ⟨rt, u, hr, -, -, -, hu, hureal, hu8⟩ := exists_rcpStep hd hi hμ
  obtain ⟨h, hh, hhreal, hh2⟩ := exists_horner hureal hu8 [0x3EF6384F, 0xBF38AA3B, 0x3FB8AA3B] (by decide)
    (isReal_coeff (c := 0xBEB8AA3B) (by decide))
    ((abs_k32_le (by decide)).trans (by norm_num))
  have hprod : |u * h| ≤ 2 ^ (127 : ℤ) := by
    rw [abs_mul]
    exact (mul_le_mul hu8 hh2 (abs_nonneg _) (by norm_num)).trans (by norm_num)
  obtain ⟨q, hq, hqreal⟩ := exists_rne (hureal.times hhreal) hprod
  obtain ⟨lm, le, hll⟩ := exists_tabLL hi
  have hsum := (isFin_finOf (decompose m e).2 0 false).plus ⟨_, isFin_fin false lm le⟩
  rw [zpow_zero, mul_one, FVal.num_fin, if_neg (by simp), one_mul, ← hll] at hsum
  exact ⟨_, ⟨_, _, _, rt, u, h, q, lm, le, hd, hr, hu, hh, hq, hll, rfl⟩, hsum.plus hqreal⟩

/-! ## The hyperbolic tangent (R137) -/

/-- A positive number is compared with 1/4 as its value is. -/
theorem cmpVal_quarter (m : ℕ) (e : ℤ) : cmpVal (.fin false m e) (.fin false 1 (-2)) = .lt ↔ (m : ℝ) * 2 ^ e < 1 / 4 := by
  rw [cmpVal_fin, cmp_eq_lt_iff, FVal.num_fin, FVal.num_fin]
  norm_num

theorem isFin_pos (m : ℕ) (e : ℤ) : IsFin (.fin false m e) (m * 2 ^ e) false := by simpa using isFin_fin false m e

/-- R137 below 1/4. -/
theorem exists_tanhSmall {m : ℕ} {e : ℤ} (hy : (m : ℝ) * 2 ^ e < 1 / 4) :
    ∃ z, TanhCore (m * 2 ^ e) z ∧ IsFin (tanhExact m e) z false := by
  have hv := isFin_pos m e
  have hvr : IsReal (.fin false m e) (m * 2 ^ e) := ⟨_, hv⟩
  simp only [tanhExact, if_pos ((cmpVal_quarter m e).2 hy), TanhCore, if_pos hy]
  have hy0 : 0 ≤ (m : ℝ) * 2 ^ e := by positivity
  generalize (m : ℝ) * 2 ^ e = y at hy hy0 hv hvr ⊢
  have hsq : |y * y| ≤ 1 / 8 := by
    rw [abs_of_nonneg (mul_nonneg hy0 hy0)]
    nlinarith
  obtain ⟨w, hw, hwreal, hw8⟩ := exists_rne_small (hvr.times hvr) hsq
  obtain ⟨h, hh, hhreal, hh2⟩ := exists_horner hwreal hw8 [0xBD5D0DB2, 0x3E088889, 0xBEAAAAAB] (by decide)
    (isReal_coeff (c := 0x3CB327A3) (by decide))
    ((abs_k32_le (by decide)).trans (by norm_num))
  have hprod : |w * h| ≤ 2 ^ (127 : ℤ) := by
    rw [abs_mul]
    exact (mul_le_mul hw8 hh2 (abs_nonneg _) (by norm_num)).trans (by norm_num)
  obtain ⟨k, hk, hkreal⟩ := exists_rne (hwreal.times hhreal) hprod
  exact ⟨y + y * k, ⟨w, h, k, hw, hh, hk, rfl⟩, hv.plus (hvr.times hkreal)⟩

/-- A rounded step that is a positive number, taken apart. -/
theorem rne32_pos {v : FVal} {y z : ℝ} (hv : IsReal v y) (hr : Rne y z) (hz : 0 < z) :
    ∃ m e, rne32 v = .fin false m e ∧ (m : ℝ) * 2 ^ e = z ∧ m ≠ 0 ∧ m < 2 ^ 24 := by
  obtain ⟨-, hn, hi, hnum⟩ := isNum_code32 hv hr
  obtain ⟨m, e, hu, hval, -, hm, -⟩ := unpack_fin hn hi
  have hneg : codeNeg .f32 (code32 v) = false := by
    by_contra h
    have : (codeNum .f32 (code32 v) : ℝ) ≤ 0 := by exact_mod_cast codeNum_nonpos (by simpa using h)
    linarith
  rw [hneg, FVal.num_fin, if_neg (by simp), one_mul, hnum] at hval
  refine ⟨m, e, by rw [rne32_eq, hu, hneg], hval, ?_, hm⟩
  rintro rfl
  simp at hval
  linarith

theorem isFin_one : IsFin (c32 0x3F800000) 1 false := by
  have := isFin_unpack (f := .f32) (c := 0x3F800000) (by decide) (by decide)
  rwa [show (codeNum .f32 0x3F800000 : ℝ) = 1 from k32_one] at this

/-- Line 10 of R137 up to the reciprocal: the power and its sum with 1 stay finite. -/
theorem exists_tanhPower {m : ℕ} {e : ℤ} {x : ℝ} (hx : (m : ℝ) * 2 ^ e = x) (hx64 : x ≤ 2 ^ (6 : ℤ)) :
    ∃ (p g n : ℝ) (gm : ℕ) (ge : ℤ), Ex2Core x p ∧ Rne p g ∧ Rne (g + 1) n ∧ 1 ≤ n
      ∧ rne32 (plus (rne32 (ex2Exact false m e)) (c32 0x3F800000)) = .fin false gm ge ∧ (gm : ℝ) * 2 ^ ge = n
      ∧ gm ≠ 0 ∧ gm < 2 ^ 24 := by
  obtain ⟨p, hp, hpreal, hp0, hphi⟩ := exists_ex2Core false m e
  rw [FVal.num_fin, if_neg (by simp), one_mul, hx] at hp hphi
  have hple : |p| ≤ 2 ^ (66 : ℤ) := by
    rw [abs_of_pos hp0]
    exact (hphi 64 (by norm_num at hx64 ⊢; exact hx64)).trans (by norm_num)
  obtain ⟨g, hg, hgreal⟩ := exists_rne hpreal (hple.trans (two_zpow_le (by norm_num)))
  have hg0 := rne_nonneg hg hp0.le
  have hgle := (abs_le.1 (rne_abs_le hg hple (by norm_num))).2
  have hsum : |g + 1| ≤ 2 ^ (127 : ℤ) := by
    rw [abs_of_nonneg (by linarith)]
    norm_num at hgle ⊢
    linarith
  have hv := hgreal.plus ⟨_, isFin_one⟩
  obtain ⟨n, hn, -⟩ := exists_rne hv hsum
  have hn1 : 1 ≤ n := by simpa using rne_ge (n := 0) hn (by rw [zpow_zero]; linarith) (by norm_num)
  obtain ⟨gm, ge, hgm⟩ := rne32_pos hv hn (by linarith)
  exact ⟨p, g, n, gm, ge, hp, hg, hn, hn1, hgm⟩

/-- Lines 10 and 11 of R137 from the reciprocal on: 1 less twice its rounding. -/
theorem exists_tanhQuotient {m : ℕ} {e : ℤ} (h0 : m ≠ 0) (hm : m < 2 ^ 24) (hn : 1 ≤ (m : ℝ) * 2 ^ e) :
    ∃ c q, RcpCore (m * 2 ^ e) c ∧ Rne c q
      ∧ IsFin (plus (c32 0x3F800000) (times (c32 0xC0000000) (rne32 (rcpExact m e)))) (1 - 2 * q) false := by
  obtain ⟨c, hc, hcreal, hc0, hc4⟩ := exists_rcpCore h0 hm e
  have hcle : |c| ≤ 2 ^ (127 : ℤ) := by
    rw [abs_of_pos hc0]
    have : c ≤ 4 := by nlinarith
    exact this.trans (by norm_num)
  obtain ⟨q, hq, hqreal⟩ := exists_rne hcreal hcle
  have htwo := isReal_c32 (c := 0xC0000000) (by decide) (by decide)
  rw [k32_neg_two] at htwo
  have hfin := isFin_one.plus (htwo.times hqreal)
  rw [neg_mul, ← sub_eq_add_neg] at hfin
  exact ⟨c, q, hc, hq, hfin⟩

/-- R137 from 1/4 on. -/
theorem exists_tanhLarge {m : ℕ} {e : ℤ} (hy : ¬ (m : ℝ) * 2 ^ e < 1 / 4) (hy10 : (m : ℝ) * 2 ^ e < 10) :
    ∃ z, TanhCore (m * 2 ^ e) z ∧ IsFin (tanhExact m e) z false := by
  have hv : IsReal (.fin false m e) (m * 2 ^ e) := ⟨_, isFin_pos m e⟩
  simp only [tanhExact, if_neg (mt (cmpVal_quarter m e).1 hy), TanhCore, if_neg hy]
  rw [not_lt] at hy
  generalize (m : ℝ) * 2 ^ e = y at hy hy10 hv ⊢
  have hcoeff : (2 : ℝ) ≤ k32 0x4038AA3B ∧ k32 0x4038AA3B ≤ 4 := by
    rw [k32_eq, show codeNeg .f32 0x4038AA3B = false by decide]
    norm_num [magSig, Fmt.mBits]
  have hlo : (2 : ℝ) ^ (-1 : ℤ) ≤ y * k32 0x4038AA3B := by norm_num; nlinarith
  have hhi : |y * k32 0x4038AA3B| ≤ 2 ^ (6 : ℤ) := by
    rw [abs_of_nonneg (by nlinarith)]
    norm_num
    nlinarith
  have hvc := hv.times (isReal_c32 (c := 0x4038AA3B) (by decide) (by decide))
  obtain ⟨x, hx, -⟩ := exists_rne hvc (hhi.trans (two_zpow_le (by norm_num)))
  obtain ⟨xm, xe, hxv, hxnum, -⟩ := rne32_pos hvc hx (lt_of_lt_of_le (by positivity) (rne_ge hx hlo (by norm_num)))
  have hx64 := (abs_le.1 (rne_abs_le hx hhi (by norm_num))).2
  obtain ⟨p, g, n, gm, ge, hp, hg, hn, hn1, hgv, rfl, hgm0, hgm⟩ := exists_tanhPower hxnum hx64
  obtain ⟨c, q, hc, hq, hfin⟩ := exists_tanhQuotient hgm0 hgm hn1
  refine ⟨1 - 2 * q, ⟨x, p, g, _, c, q, hx, hp, hg, hn, hc, hq, rfl⟩, ?_⟩
  simpa only [hxv, hgv] using hfin

/-- The exact result of R137 before its last rounding, which is no negative zero. -/
theorem exists_tanhCore {m : ℕ} {e : ℤ} (hy : (m : ℝ) * 2 ^ e < 10) :
    ∃ z, TanhCore (m * 2 ^ e) z ∧ IsFin (tanhExact m e) z false := by
  by_cases h : (m : ℝ) * 2 ^ e < 1 / 4
  · exact exists_tanhSmall h
  · exact exists_tanhLarge h hy

end Sys2Proof.Machine
end

section
/-! PROOF. The special functions (O9). -/

namespace Sys2Proof.Machine

open Sys2Proof

/-! ## The values of R138 and the last rounding -/

/-- A function of FP32 codes has the values of R138 for NaNs, infinities, zeros and, where those are invalid, numbers below 0; `core` says
what it is for the others. -/
def IsSpecial (zero : ℕ → ℕ × Flags) (pinf ninf : ℕ × Flags) (below : Bool) (core : ℕ → ℕ × Flags → Prop)
    (g : ℕ → ℕ × Flags) : Prop :=
  ∀ c, c < 2 ^ 32 →
    if codeNan .f32 c then g c = (0x7FC00000, { nv := codeSig .f32 c })
    else if codeInf .f32 c then g c = (if codeNeg .f32 c then ninf else pinf)
    else if codeZero .f32 c then g c = zero c
    else if below && codeNeg .f32 c then g c = (0x7FC00000, { nv := true })
    else core c (g c)

/-- The values by kind of operand, as the machine takes an operand apart. -/
theorem isSpecial_of_unpack {zero : ℕ → ℕ × Flags} {pinf ninf : ℕ × Flags} {below : Bool} {core : ℕ → ℕ × Flags → Prop}
    {g : ℕ → ℕ × Flags} (hnan : ∀ c, unpack .f32 c = .nan → g c = nanResult c)
    (hinf : ∀ c neg, unpack .f32 c = .inf neg → g c = if neg then ninf else pinf)
    (hzero : ∀ c e, unpack .f32 c = .fin (codeNeg .f32 c) 0 e → g c = zero c)
    (hbelow : below = true → ∀ c m e, m ≠ 0 → unpack .f32 c = .fin true m e → g c = invalidResult)
    (hcore : ∀ c m e, m ≠ 0 → m < 2 ^ 24 → (below && codeNeg .f32 c) = false → unpack .f32 c = .fin (codeNeg .f32 c) m e →
      (FVal.fin (codeNeg .f32 c) m e).num = codeNum .f32 c → core c (g c)) :
    IsSpecial zero pinf ninf below core g := by
  intro c _
  split
  · rename_i hn
    rw [hnan c (unpack_nan hn), nanResult, sigFlags_one]
    rfl
  · rename_i hn
    split
    · rename_i hi
      exact hinf c _ (unpack_inf hi)
    · rename_i hi
      obtain ⟨m, e, hu, hnum, hz, hm, -⟩ := unpack_fin (by simpa using hn) (by simpa using hi)
      split
      · rename_i h0
        rw [hz.2 h0] at hu
        exact hzero c e hu
      · rename_i h0
        have hm0 : m ≠ 0 := fun h => h0 (hz.1 h)
        split
        · rename_i hb
          rw [Bool.and_eq_true] at hb
          rw [hb.2] at hu
          exact hbelow hb.1 c m e hm0 hu
        · rename_i hb
          exact hcore c m e hm0 hm (by simpa using hb) hu hnum

/-- A value other than 0 is rounded once, whatever sign a zero would have. -/
theorem IsReal.roundsTo {v : FVal} {z : ℝ} (h : IsReal v z) (hz : z ≠ 0) (f : Fmt) (rm : Rm) (sat zneg : Bool) :
    RoundsTo f rm sat z zneg (roundVal f rm sat v) := by
  obtain ⟨_, h⟩ := h
  exact ⟨fun h0 => absurd h0 hz, (h.roundsTo f rm sat).2⟩

theorem infResult_eq (sat neg : Bool) (fl : Flags) : infResult sat neg fl = (infCode .f32 sat neg, fl) := by
  rw [infResult, roundVal_inf (by decide)]

theorem num_of_pos {c m : ℕ} {e : ℤ} (hs : codeNeg .f32 c = false) (h : (FVal.fin (codeNeg .f32 c) m e).num = codeNum .f32 c) :
    (codeNum .f32 c : ℝ) = m * 2 ^ e := by
  rw [← h, hs]
  simp

theorem abs_num {c m : ℕ} {e : ℤ} (h : (FVal.fin (codeNeg .f32 c) m e).num = codeNum .f32 c) :
    |(codeNum .f32 c : ℝ)| = m * 2 ^ e := by rw [← h, FVal.abs_num_fin]

/-! ## The functions -/

theorem isSpecial_sfRcp (sat : Bool) : IsSpecial (fun c => (infCode .f32 sat (codeNeg .f32 c), { dz := true })) (0, Flags.none)
    (0x80000000, Flags.none) false (fun c r => ∃ z, RcpCore |(codeNum .f32 c : ℝ)| z
      ∧ RoundsTo .f32 .rne sat (if codeNeg .f32 c then -z else z) (codeNeg .f32 c) r) (sfRcp sat) := by
  refine isSpecial_of_unpack (fun c h => ?_) (fun c neg h => ?_) (fun c e h => ?_) (by simp) (fun c m e h0 hm _ hu hnum => ?_)
  · simp only [sfRcp, h]
  · simp only [sfRcp, h]
    cases neg <;> rfl
  · simp only [sfRcp, h, if_true, infResult_eq]
  · obtain ⟨z, hz, hreal, hpos, -⟩ := exists_rcpCore h0 hm e
    refine ⟨z, by rwa [abs_num hnum], ?_⟩
    simp only [sfRcp, hu, if_neg h0]
    split
    · exact hreal.negate.roundsTo (neg_ne_zero.2 hpos.ne') ..
    · exact hreal.roundsTo hpos.ne' ..

theorem isSpecial_sfRsq (sat : Bool) : IsSpecial (fun c => (infCode .f32 sat (codeNeg .f32 c), { dz := true })) (0, Flags.none)
    (0x7FC00000, { nv := true }) true (fun c r => ∃ z, RsqCore (codeNum .f32 c) z ∧ RoundsTo .f32 .rne sat z false r) (sfRsq sat) := by
  refine isSpecial_of_unpack (fun c h => ?_) (fun c neg h => ?_) (fun c e h => ?_) (fun _ c m e h0 h => ?_)
    (fun c m e h0 hm hs hu hnum => ?_)
  · simp only [sfRsq, h]
  · simp only [sfRsq, h]
    rfl
  · simp only [sfRsq, h, if_true, infResult_eq]
  · simp only [sfRsq, h, if_neg h0, if_true]
  · rw [Bool.true_and] at hs
    obtain ⟨z, hz, hreal, hpos⟩ := exists_rsqCore h0 hm e
    refine ⟨z, by rwa [num_of_pos hs hnum], ?_⟩
    simp only [sfRsq, hu, if_neg h0, hs, Bool.false_eq_true, if_false]
    exact hreal.roundsTo hpos.ne' ..

theorem isSpecial_sfSqrt (rm : Rm) (sat : Bool) : IsSpecial (fun c => (signBits .f32 (codeNeg .f32 c) + 0, Flags.none))
    (infCode .f32 sat false, Flags.none) (0x7FC00000, { nv := true }) true
    (fun c r => RoundsTo .f32 rm sat √(codeNum .f32 c) false r) (sfSqrt rm sat) := by
  refine isSpecial_of_unpack (fun c h => ?_) (fun c neg h => ?_) (fun c e h => ?_) (fun _ c m e h0 h => ?_)
    (fun c m e h0 hm hs hu hnum => ?_)
  · simp only [sfSqrt, h]
  · simp only [sfSqrt, h, infResult_eq]
    rfl
  · simp only [sfSqrt, h, if_true, Nat.add_zero]
  · simp only [sfSqrt, h, if_neg h0, if_true]
  · rw [Bool.true_and] at hs
    rw [num_of_pos hs hnum]
    simp only [sfSqrt, hu, if_neg h0, hs, Bool.false_eq_true, if_false]
    have hpos : 0 < √((m : ℝ) * 2 ^ e) := by positivity
    exact ⟨fun h => absurd h hpos.ne', fun _ => rounds_sqrtExact rm sat h0 e⟩

theorem isSpecial_sfEx2 (sat : Bool) : IsSpecial (fun _ => (0x3F800000, Flags.none)) (infCode .f32 sat false, Flags.none)
    (0, Flags.none) false (fun c r => if 128 ≤ (codeNum .f32 c : ℝ) then r = (infCode .f32 sat false, { of_ := true, nx := true })
      else if (codeNum .f32 c : ℝ) < -150 then r = (0, { uf := true, nx := true })
      else ∃ z, Ex2Core (codeNum .f32 c) z ∧ RoundsTo .f32 .rne sat z false r) (sfEx2 sat) := by
  refine isSpecial_of_unpack (fun c h => ?_) (fun c neg h => ?_) (fun c e h => ?_) (by simp) (fun c m e h0 hm _ hu hnum => ?_)
  · simp only [sfEx2, h]
  · simp only [sfEx2, h, infResult_eq]
  · simp only [sfEx2, h, if_true]
  · have h128 : cmpVal (.fin (codeNeg .f32 c) m e) (.fin false 128 0) ≠ .lt ↔ 128 ≤ (codeNum .f32 c : ℝ) := by
      rw [cmpVal_fin, Ne, cmp_eq_lt_iff, hnum, not_lt]
      norm_num
    have h150 : cmpVal (.fin (codeNeg .f32 c) m e) (.fin true 150 0) = .lt ↔ (codeNum .f32 c : ℝ) < -150 := by
      rw [cmpVal_fin, cmp_eq_lt_iff, hnum]
      norm_num
    simp only [sfEx2, hu, if_neg h0, h128, h150, infResult_eq]
    split
    · rfl
    · split
      · rfl
      · obtain ⟨z, hz, hreal, hpos, -⟩ := exists_ex2Core (codeNeg .f32 c) m e
        exact ⟨z, by rwa [hnum] at hz, hreal.roundsTo hpos.ne' ..⟩

theorem isSpecial_sfLg2 (sat : Bool) : IsSpecial (fun _ => (infCode .f32 sat true, { dz := true })) (infCode .f32 sat false, Flags.none)
    (0x7FC00000, { nv := true }) true (fun c r => ∃ z, Lg2Core (codeNum .f32 c) z ∧ RoundsTo .f32 .rne sat z false r) (sfLg2 sat) := by
  refine isSpecial_of_unpack (fun c h => ?_) (fun c neg h => ?_) (fun c e h => ?_) (fun _ c m e h0 h => ?_)
    (fun c m e h0 hm hs hu hnum => ?_)
  · simp only [sfLg2, h]
  · simp only [sfLg2, h, infResult_eq]
    rfl
  · simp only [sfLg2, h, if_true, infResult_eq]
  · simp only [sfLg2, h, if_neg h0, if_true]
  · rw [Bool.true_and] at hs
    obtain ⟨z, hz, hfin⟩ := exists_lg2Core h0 hm e
    refine ⟨z, by rwa [num_of_pos hs hnum], ?_⟩
    simp only [sfLg2, hu, if_neg h0, hs, Bool.false_eq_true, if_false]
    exact hfin.roundsTo ..

theorem isSpecial_sfTanh (sat : Bool) : IsSpecial (fun c => (signBits .f32 (codeNeg .f32 c) + 0, Flags.none)) (0x3F800000, Flags.none)
    (0xBF800000, Flags.none) false (fun c r =>
      if 10 ≤ |(codeNum .f32 c : ℝ)| then r = (signBits .f32 (codeNeg .f32 c) + 0x3F800000, { nx := true })
      else ∃ z v, TanhCore |(codeNum .f32 c : ℝ)| z ∧ RoundsTo .f32 .rne sat z false v
        ∧ r = (signBits .f32 (codeNeg .f32 c) + v.1, v.2)) (sfTanh sat) := by
  refine isSpecial_of_unpack (fun c h => ?_) (fun c neg h => ?_) (fun c e h => ?_) (by simp) (fun c m e h0 hm _ hu hnum => ?_)
  · simp only [sfTanh, h]
  · simp only [sfTanh, h]
    cases neg <;> rfl
  · simp only [sfTanh, h, if_true, Nat.add_zero]
  · have h10 : cmpVal (.fin false m e) (.fin false 10 0) ≠ .lt ↔ 10 ≤ (m : ℝ) * 2 ^ e := by
      rw [cmpVal_fin, Ne, cmp_eq_lt_iff, not_lt, FVal.num_fin, FVal.num_fin]
      norm_num
    simp only [sfTanh, hu, if_neg h0, h10, abs_num hnum]
    split
    · rfl
    · rename_i hy
      obtain ⟨z, hz, hfin⟩ := exists_tanhCore (not_le.1 hy)
      exact ⟨z, _, hz, hfin.roundsTo .f32 .rne sat, by rw [Nat.add_comm]⟩

/-- Settles O9: each word applies its function lane by lane, and the function has the values of R138 and the last step of its
algorithm. -/
theorem floatSpecialFunctions : Obligations.FloatSpecialFunctions := by
  intro s t u x d a h
  refine ⟨?_, ?_, ?_, ?_, ?_, ?_⟩
  · exact ⟨sfRcp (satOf x), isSpecial_sfRcp _, floatR_next h fun x => sfRcp (satOf x)⟩
  · exact ⟨sfRsq (satOf x), isSpecial_sfRsq _, floatR_next h fun x => sfRsq (satOf x)⟩
  · exact ⟨sfSqrt (rmOf x) (satOf x), isSpecial_sfSqrt _ _, floatR_next h fun x => sfSqrt (rmOf x) (satOf x)⟩
  · exact ⟨sfEx2 (satOf x), isSpecial_sfEx2 _, floatR_next h fun x => sfEx2 (satOf x)⟩
  · exact ⟨sfLg2 (satOf x), isSpecial_sfLg2 _, floatR_next h fun x => sfLg2 (satOf x)⟩
  · exact ⟨sfTanh (satOf x), isSpecial_sfTanh _, floatR_next h fun x => sfTanh (satOf x)⟩

end Sys2Proof.Machine
end

section
/-! PROOF. Checks that pass, and words that start an operation (R46, R211, R224, R229). -/

namespace Sys2Proof.Machine

open Sys2Proof

/-! ## Checks -/

theorem raiseIf_ok {b : Bool} (h : b = false) (code : Nat) (v : DWord) : raiseIf b code v = .ok () := by
  rw [h, raiseIf_false]

theorem raiseIf_stops {b : Bool} (h : b = true) (code : Nat) (v : DWord) : raiseIf b code v = .error (.trap code v) := by
  rw [h, raiseIf_true]

theorem parkIf_ok {b : Bool} (h : b = false) : parkIf b = .ok () := by
  rw [h, parkIf_false]

theorem needFirst_ok {x : Ctx} (h : x.sp.idx = 1) : needFirst x = .ok () :=
  raiseIf_ok (by simp [h]) _ _

/-- Accumulator slots that the launch has (R26, R176). -/
theorem checkAcc_ok {l : Launch} {d n : Nat} (h : d + n ≤ recAccs l.record) : checkAcc l d n = .ok () :=
  raiseIf_ok (decide_eq_false (Nat.not_lt.2 h)) _ _

/-- Offsets inside scratchpad (R25). -/
theorem checkScratch_ok {l : Launch} {start len : Nat} (h : start + len ≤ scratchBytes l) : checkScratch l start len = .ok () :=
  raiseIf_ok (decide_eq_false (Nat.not_lt.2 h)) _ _

/-- A slot that may be moved to or from scratchpad (R163). -/
theorem checkAccMove_ok {x : Ctx} {acc : BitVec 6} {off : DWord} (ha : acc.toNat < recAccs x.l.record) (hal : off.toNat % 16 = 0)
    (hfit : off.toNat + 32768 ≤ scratchBytes x.l) : checkAccMove x acc off = .ok () := by
  simp only [checkAccMove, checkAcc_ok (n := 1) (Nat.succ_le_of_lt ha), hal, bne_self_eq_false, raiseIf_false, bind, Except.bind]
  exact checkScratch_ok hfit

/-! ## Checks in a row -/

section
variable {α β : Type} {r : Except Stop β}

theorem bind_ok {m : Except Stop α} {a : α} {k : α → Except Stop β} (hm : m = .ok a) (hk : k a = r) : (m >>= k) = r := by
  rw [hm, ← hk]
  rfl

theorem bind_stops {m : Except Stop α} {e : Stop} {k : α → Except Stop β} (hm : m = .error e) : (m >>= k) = .error e := by
  rw [hm]
  rfl

variable {k : Unit → Except Stop β} {c : Prop} [Decidable c]

/-- A check that is made only in some cases, and passes there. -/
theorem optional_bind_ok {m : Except Stop Unit} (hm : c → m = .ok ()) (hk : k () = r) : (if c then m >>= k else k ()) = r := by
  split
  · exact bind_ok (hm ‹c›) hk
  · exact hk

/-- A check of the first of some rows that breaks a rule, where none does. -/
theorem first_bind_ok {l : List Nat} {p : Nat → Bool} {m : Nat → Except Stop Unit} (hl : c → ∀ i ∈ l, p i = false)
    (hk : k () = r) : (if c then match l.find? p with
      | some i => m i >>= k
      | none => k () else k ()) = r := by
  split
  · rw [List.find?_eq_none.2 fun i hi => by simp [hl ‹c› i hi], hk]
  · exact hk

end

/-! ## The end of a word -/

section
variable {s t : State} {x : Ctx} (h : ctxOf s = some x)
include h

theorem runWord_ok {f : Ctx → Except Stop (State × After)} {a : After} (hf : f x = .ok (t, a)) :
    runWord s f = .next (advance t x a) := by
  rw [runWord_at h, hf, finish_ok]

theorem runWord_traps {f : Ctx → Except Stop (State × After)} {code : Nat} {v : DWord} (hf : f x = .error (.trap code v)) :
    runWord s f = .next (trapped s x code v) := by
  rw [runWord_at h, hf, finish_trap]

theorem runMem_ok {p : Ctx → State} {f : Ctx → State → Except Stop (State × After)} {a : After} (hf : f x (p x) = .ok (t, a)) :
    runMem s p f = .next (advance t x a) := by
  rw [runMem_at h, hf, finish_ok]

variable {items : List PendItem} {d : BitVec 6} (hp : Settled x.w (items ++ [iS d])) {f : Ctx → Except Stop (DWord × State)}
include hp

/-- A word that starts an operation leaves its handle in sD (R224, R229). -/
theorem engineWord_next {v : DWord} (hf : f x = .ok (v, t)) (hk : keptBack s x true = false) :
    engineWord s items d f = .next (engineDone t x d v) :=
  by
  unfold engineWord engineDone warpDone
  exact runWord_ok h (by simp only [checkPending_ok hp, hf, hk, parkIf_false, bind, Except.bind])

theorem engineWord_traps {code : Nat} {v : DWord} (hf : f x = .error (.trap code v)) :
    engineWord s items d f = .next (trapped s x code v) :=
  runWord_traps h (by simp only [checkPending_ok hp, hf, bind, Except.bind])

end

end Sys2Proof.Machine
end

section
/-! PROOF. The matrix instructions that act at once, and the drain (O37). -/

namespace Sys2Proof.Machine

open Sys2Proof

/-! ## The words that act at once -/

theorem narrowed_unguarded {x : Ctx} (h : x.sp.pfxa = none) : narrowed x = ctxActive x := by
  simp only [narrowed, h]

theorem zeroLanes_unguarded {x : Ctx} (h : x.sp.pfxa = none) : zeroLanes x = 0#32 := by
  simp only [zeroLanes, h]
  rfl

theorem getD_unmarked {bs : List (Byte × Bool)} (h : ∀ e ∈ bs, e.2 = false) (i : Nat) : (bs.getD i (0, false)).2 = false := by
  rcases lt_or_ge i bs.length with hi | hi
  · rw [List.getD_eq_getElem _ _ hi]
    exact h _ (List.getElem_mem hi)
  · rw [List.getD_eq_default _ _ hi]

section
variable {s t u : State} {x : Ctx} {a b : BitVec 7} {k j : BitVec 6} (h : ctxOf s = some x)

include h in
theorem execMma_arrives {acc : BitVec 6} (hi : x.sp.idx = 1) (hp : Settled x.w (iNames (winRun x.w a 32 ++ [winName x.w b])))
    (hact : ctxActive x ≠ 0) (hm : Mapped x.w (winRun x.w a 32 ++ [winName x.w b]))
    (hr : reloadNames s x (winRun x.w a 32 ++ [winName x.w b]) = .ok t) :
    execMma acc a b s = .next (afterSpan (modW t x (fun w => modPath { w with
      span := none
      arrival := some ⟨s.stamp, x.sp.sec, ctxActive x, acc.toNat, winRun x.w a 32, winName x.w b, wordAddr x.sp x.sp.idx,
        if wordE (spanWord x.sp x.sp.idx) then some (continuation x.sp, liveWord x.sp) else none⟩ } x.sp.sec
      (fun p => { p with state := .waiting }))) x.c x.slot) := by
  simp only [execMma, h, needFirst_ok hi, checkPending_ok hp, if_neg hact, checkMapped_ok hm, hr, bind, Except.bind]

include h in
/-- SCLD of entries that stand clean in scratchpad, into units that no other tenant has (R166). -/
theorem execScld_fills {first c : Nat} {bs : List (Byte × Bool)} (hfirst : first = field (sReg x.w j) 15 0)
    (hc : c = field (sReg x.w j) 32 16) (hbs : bs = scratchRead (clOf s x.c x.w.launch) (sReg x.w k).toNat (2 * c))
    (hp : Settled x.w [iS k, iS j]) (hal : (sReg x.w k).toNat % 2 = 0) (hpos : c ≠ 0) (hend : first + c ≤ 65536)
    (hfit : (sReg x.w k).toNat + 2 * c ≤ scratchBytes x.l)
    (hown : ∀ e ∈ pieces 512 first c, ∀ y, fget? (coreOf s x.c).scaleTag e = some y → y = x.l.tenant)
    (hclean : ∀ e ∈ bs, e.2 = false) : execScld k j s = .next (advance (modCore s x.c (fun q => { q with
      scale := (List.range c).foldl (fun m i => fset m (first + i)
        ((bs.getD (2 * i + 1) (0, false)).1 ++ (bs.getD (2 * i) (0, false)).1) 0) q.scale
      scaleTag := (pieces 512 first c).foldl (fun m e => fput m e x.l.tenant) q.scaleTag })) x .seq) := by
  refine runWord_ok h (bind_ok (checkPending_ok hp) ?_)
  rw [← hfirst, ← hc]
  refine bind_ok (raiseIf_ok (by simp [hal]) ..) (bind_ok (raiseIf_ok (by simp [hpos]) ..) ?_)
  refine bind_ok (raiseIf_ok (decide_eq_false (Nat.not_lt.2 hend)) ..) (bind_ok (checkScratch_ok hfit) ?_)
  have hmarks : bs.findIdx? (·.2) = none := List.findIdx?_eq_none_iff.2 hclean
  dsimp only
  rw [List.find?_eq_none.2, ← hbs, hmarks]
  · simp only [getD_unmarked hclean, Bool.or_self, Bool.false_eq_true, if_false, ofNat_leNat_two, BitVec.setWidth_eq]
  · intro e he
    cases ht : fget? (coreOf s x.c).scaleTag e with
    | none => simp
    | some y => simp [hown e he y ht]

include h in
theorem execMepi_writes (hp : Settled x.w [iS k]) (hhigh : field (sReg x.w k) 63 45 = 0) (hlow : field (sReg x.w k) 21 0 = 0)
    (ho : field (sReg x.w k) 29 26 < 8) (hr : field (sReg x.w k) 24 22 < 6) :
    execMepi k s = .next (warpDone s x (fun w => { w with epi := sReg x.w k })) :=
  runWord_ok h (bind_ok (checkPending_ok hp) (bind_ok (raiseIf_ok (by simp [hhigh, hlow, ho, hr]) ..) rfl))

/-- VPOP without a guard waits for its entry in the lanes of ACTIVE (R172). -/
theorem execVpop_waits (hr : LaneReady s x [] [] (winRun x.w a 8) [] [] t u) (hu : x.sp.pfxa = none) :
    execVpop a s = .next (advance
      (issueLong u x (iNames (winRun x.w a 8)) (.vpop (winRun x.w a 8) (ctxActive x)) [] [] [] none).2 x .seq) := by
  have hsplit : splitNames t x (laneInOf t x []).nar (winRun x.w a 8) = .ok u := by
    have h := hr.split
    rwa [zeroLanes_unguarded hu, BitVec.or_zero] at h
  rw [← narrowed_unguarded hu]
  exact runWord_ok hr.at_ (bind_ok (longCheck_ok hr) ((if_neg hr.lanes).trans (bind_ok hsplit rfl)))

end

/-! ## MDRAIN -/

/-- No row of a drain to memory that raises a cause (R170). -/
theorem raiseLowest_ok {l : List (Nat × Option (Nat × Nat))} (h : ∀ e ∈ l, e.2 = none) : raiseLowest l = .ok () := by
  induction l with
  | nil => rfl
  | cons e l ih =>
    obtain ⟨a, cause⟩ := e
    obtain rfl : cause = none := h _ (List.mem_cons_self ..)
    exact ih fun e he => h e (List.mem_cons_of_mem _ he)

/-- Settles O37: the checks of each word pass, and its effect is the one stated. -/
theorem matrixWords : Obligations.MatrixWords := by
  refine ⟨fun s t u x acc k j a b n int m h => ⟨execMma_arrives h, fun hn => ?_, fun hp ha hal hfit hw => ?_,
    execScld_fills h rfl rfl rfl, execMepi_writes h, runWord_ok h rfl,
    fun hp => runWord_ok h (bind_ok (checkPending_ok hp) rfl), execVpop_waits⟩, ?_⟩
  · exact runWord_ok h (bind_ok (checkAcc_ok hn) rfl)
  · have hc := checkAccMove_ok ha hal hfit
    exact ⟨runWord_ok h (bind_ok (checkPending_ok hp) (bind_ok hc (bind_ok hw rfl))),
      runWord_ok h (bind_ok (checkPending_ok hp) (bind_ok hc (bind_ok hw rfl)))⟩
  · intro s v x own acc a rte dest h slots base stride e size runs t lines u outs f i o maps hp _ hslots hroute hal hfit hbias
      hkept hw hacc hown
    rw [exec_mdrain, execMdrain]
    refine runMem_ok h (bind_ok (checkPending_ok hp) (bind_ok (checkAcc_ok hslots) ?_))
    refine bind_ok (raiseIf_ok ?_ ..) (bind_ok (raiseIf_ok ?_ ..) (bind_ok (raiseIf_ok ?_ ..) ?_))
    · simpa using hroute
    · simpa using fun hd => (hal hd).1
    · simpa using fun hd => (hal hd).2
    refine first_bind_ok (fun hd i hi => decide_eq_false (Nat.not_lt.2 (hfit hd i (List.mem_range.1 hi)))) ?_
    refine optional_bind_ok (fun hb => checkScratch_ok (hbias hb)) ?_
    refine bind_ok (parkIf_ok ?_) (bind_ok hw ?_)
    · exact Bool.and_eq_false_imp.2 fun hd => hkept (by simpa using hd)
    refine optional_bind_ok (fun hd => raiseLowest_ok (List.forall_mem_map.2 (hacc hd))) ?_
    exact bind_ok hown rfl

end Sys2Proof.Machine
end

section
/-! PROOF. Fills of B tiles, operand queues and FEEDGO (O41). -/

namespace Sys2Proof.Machine

open Sys2Proof

/-! ## Fills (R148, R164, R267) -/

/-- Whether a fill that is issued now has to claim its tile later (R148, R164). -/
def claimsLater (s : State) (c n tenant l : Nat) : Bool :=
  let tile := tileOf (coreOf s c) n
  claimsBefore s c n s.stamp
    || (tileForeign tile tenant l && (tile.state == .filling || ownerWaits s c tile.tenant s.stamp))

theorem claimsLater_iff {s : State} {c n tenant l : Nat} : claimsLater s c n tenant l = true ↔
    claimsBefore s c n s.stamp = true ∨ (tileForeign (tileOf (coreOf s c) n) tenant l = true
      ∧ ((tileOf (coreOf s c) n).state = .filling ∨ ownerWaits s c (tileOf (coreOf s c) n).tenant s.stamp = true)) := by
  simp only [claimsLater, Bool.or_eq_true, Bool.and_eq_true, beq_iff_eq]

/-- The two checks of a sealed fill's key, where they pass (R267). -/
theorem keyed_bind_ok {β : Type} {m n : Nat → Except Stop Unit} {k : Unit → Except Stop β} {r : Except Stop β} (hk : k () = r)
    (o : Option Nat) : (∀ j, o = some j → m j = .ok () ∧ n j = .ok ()) →
      (match o with
        | some j => m j >>= fun _ => n j >>= k
        | none => k ()) = r := by
  intro h
  cases o with
  | none => exact hk
  | some j => exact bind_ok (h j rfl).1 (bind_ok (h j rfl).2 hk)

/-- The state after the start of a fill: its operation, which has the tile at once unless it claims it later (R164). -/
def fillStarted (v : State) (pn c l i tenant n : Nat) (col side : DWord) (stride fmt : Nat) (key : Option Nat) (later : Bool) :
    State :=
  let r := startOp v pn c l (some i) (.fill n col.toNat side.toNat stride fmt key later)
  if later then r.2 else giveTile r.2 c n r.1 tenant l fmt (side != 0)

section
variable {v : State} {pn c l i tenant n stride fmt : Nat} {col side : DWord} {key : Option Nat}

theorem fillStarted_later : fillStarted v pn c l i tenant n col side stride fmt key true
    = (startOp v pn c l (some i) (.fill n col.toNat side.toNat stride fmt key true)).2 := by
  simp only [fillStarted, if_true]

theorem fillStarted_now : fillStarted v pn c l i tenant n col side stride fmt key false =
    (let r := startOp v pn c l (some i) (.fill n col.toNat side.toNat stride fmt key false)
    giveTile r.2 c n r.1 tenant l fmt (side != 0)) := by
  simp only [fillStarted, Bool.false_eq_true, if_false]

end

theorem startFill_ok {s u v : State} {pn c l i tenant n stride fmt : Nat} {col side desc h : DWord} {key : Option Nat}
    {later : Bool} (ht : tenant = (launchOf s l).tenant) (hn : n = field desc 6 0) (hst : stride = field desc 63 32)
    (hf : fmt = field desc 11 8) (hhigh : field desc 31 12 = 0) (hbit : desc.getLsbD 7 = false)
    (hfmt : fmt ∈ [1, 2, 3, 4, 5, 6, 8])
    (hcol : col.toNat % 128 = 0) (hstride : stride % 128 = 0) (hside : side.toNat % 2 = 0)
    (hkey : ∀ k, key = some k → ∃ slot, fget? (partOf s pn).keys k = some slot ∧ slot.loaded = true ∧ slot.launch = l)
    (hlater : claimsLater s c n tenant l = later)
    (hclaim : later = false → tileForeign (tileOf (coreOf s c) n) tenant l = true → tileClaimable s c n = true)
    (htake : takeFuture s c l (if key.isSome then 25 else 24) = .ok (i, h, u))
    (hown : ownLines u pn c tenant (fillLines col.toNat side.toNat stride fmt) [] = .ok v) :
    startFill s pn c l col side desc key = .ok (h, fillStarted v pn c l i tenant n col side stride fmt key later) := by
  subst ht hn hst hf hlater
  have hshape : (field desc 31 12 != 0 || desc.getLsbD 7 || !([1, 2, 3, 4, 5, 6, 8].contains (field desc 11 8))) = false := by
    simp only [hhigh, hbit, bne_self_eq_false, Bool.false_or, List.contains_iff_mem.2 hfmt, Bool.not_true]
  refine bind_ok (raiseIf_ok hshape ..) (bind_ok (raiseIf_ok (by simp [hcol]) ..) ?_)
  refine bind_ok (raiseIf_ok (by simp [hstride]) ..) (bind_ok (raiseIf_ok (by simp [hside]) ..) ?_)
  refine keyed_bind_ok ?_ key fun k hk => ?_
  · refine bind_ok (parkIf_ok (Bool.and_eq_false_imp.2 fun hfree => ?_)) (bind_ok htake (bind_ok hown rfl))
    obtain ⟨hnow, hforeign⟩ := Bool.and_eq_true_iff.1 hfree
    rw [hclaim (by rwa [Bool.not_eq_true'] at hnow) hforeign, Bool.not_true]
  · obtain ⟨slot, hslot, hloaded, hlaunch⟩ := hkey k hk
    exact ⟨raiseIf_ok (by simp [fget, hslot, hloaded]) .., raiseIf_ok (by simp [fget, hslot, hlaunch]) ..⟩

/-! ## The words (R148, R232, R235 to R237) -/

theorem ite_ge_eq_ite_lt {α : Type} (n m : Nat) (a b : α) : (if n ≥ m then a else b) = if n < m then b else a := by
  simp only [ge_iff_le, ← Nat.not_lt, ite_not]

/-- Settles O41, word by word: the checks of each pass, and what it starts is the operation stated. -/
theorem fillsAndQueues : Obligations.FillsAndQueues := by
  intro s u v x d a b key q i h hx l
  refine ⟨?_, ?_, ?_, ?_, ?_⟩
  · intro col side c n fmt stride tile later starts hp hhigh hbit hfmt hcol hstride hside
    obtain ⟨-, -, -, -, hlaunch, -⟩ := ctxOf_eq hx
    have ht : x.l.tenant = (launchOf s l).tenant := by rw [hlaunch]
    have word (key : Option Nat) (hkey : ∀ k, key = some k → ∃ slot, fget? (partOf s x.pn).keys k = some slot
        ∧ slot.loaded = true ∧ slot.launch = l) : starts key (if key.isSome then 25 else 24)
        (engineWord s (iSRun a 3) d fun x =>
          startFill s x.pn x.c x.w.launch (sRun x.w a 0) (sRun x.w a 1) (sRun x.w a 2) key) := by
      intro hk htake hown
      have iff_later : claimsLater s x.c n x.l.tenant l = true ↔ later := claimsLater_iff
      have starts_ok := fun w hw hclaim => startFill_ok (later := w) ht rfl rfl rfl hhigh hbit hfmt hcol hstride hside hkey hw
        hclaim htake hown
      refine ⟨fun hl => ?_, fun hl hclaim => ?_⟩
      · have ok := starts_ok true (iff_later.2 hl) nofun
        rw [fillStarted_later] at ok
        exact engineWord_next hx hp ok hk
      · have ok := starts_ok false (eq_false_of_ne_true (mt iff_later.1 hl)) fun _ => hclaim
        rw [fillStarted_now] at ok
        exact engineWord_next hx hp ok hk
    refine ⟨word none nofun, fun slot hslot hloaded hlaunch => word (some key.toNat) fun k hk => ?_⟩
    exact ⟨slot, Option.some.inj hk ▸ hslot, hloaded, hlaunch⟩
  · intro qd c rb size stride e desc hp hdepth hrb hrb16 hsize hstride hroom hk htake hown r
    have hrows : (rb == 0 || rb % 16 != 0 || size % rb != 0 || stride % 16 != 0) = false := by
      simp [hrb, hrb16, hsize, hstride]
    refine engineWord_next hx hp ?_ hk
    refine bind_ok (raiseIf_ok (beq_false_of_ne hdepth) ..) (bind_ok (raiseIf_ok hrows ..) ?_)
    exact bind_ok (parkIf_ok (decide_eq_false (Nat.not_le.2 hroom))) (bind_ok htake (bind_ok hown rfl))
  · intro qd e hp
    refine ⟨fun hact hdepth hpop => runWord_ok hx (bind_ok (checkPending_ok hp) ((if_neg hact).trans ?_)),
      fun hact => runWord_ok hx (bind_ok (checkPending_ok hp) (if_pos hact))⟩
    exact bind_ok (raiseIf_ok (beq_false_of_ne hdepth) ..) (bind_ok (parkIf_ok hpop) rfl)
  · intro qd e full hp
    have hfull : (decide (e ≥ qdDepth qd) || (qEntry s x.c l q.toNat e).state != .full
        || !(qEntry s x.c l q.toNat e).popped) = false ↔ full := by
      simp [full, and_assoc]
    refine ⟨fun hf => runWord_ok hx (bind_ok (checkPending_ok hp) (bind_ok (raiseIf_ok (hfull.2 hf) ..) rfl)), fun hf => ?_⟩
    have hbad := eq_true_of_ne_false (mt hfull.1 hf)
    exact runWord_traps hx (bind_ok (checkPending_ok hp) (bind_stops (raiseIf_stops hbad ..)))
  · intro r regs entry hp
    refine ⟨?_, fun hfeed => engineWord_traps hx hp (bind_stops (raiseIf_stops hfeed ..))⟩
    intro hk htake hfeed t
    refine engineWord_next hx hp (bind_ok (raiseIf_ok ?_ ..) (bind_ok htake ?_)) hk
    · exact Option.isSome_eq_false_iff.2 (Option.isNone_iff_eq_none.2 hfeed)
    · exact congrArg (fun t => Except.ok (h, t)) (ite_ge_eq_ite_lt ..)

end Sys2Proof.Machine
end

section
/-! PROOF. The launches, which walks, fills, writes of memory and events leave as they are (R292, R319, R373, R378). -/

namespace Sys2Proof.Machine

open Sys2Proof

theorem foldl_launches {α : Type} {f : State → α → State} (hf : ∀ s a, (f s a).launches = s.launches) (l : List α) (s : State) :
    (l.foldl f s).launches = s.launches := by
  induction l generalizing s with
  | nil => rfl
  | cons a l ih => exact (ih (f s a)).trans (hf s a)

theorem launchOf_congr {s t : State} (h : t.launches = s.launches) (l : Nat) : launchOf t l = launchOf s l := by
  simp only [launchOf, h]

/-! ## Writes of memory -/

@[simp] theorem unmarkZero_launches (s : State) (key line : Nat) : (unmarkZero s key line).launches = s.launches := by
  unfold unmarkZero
  split <;> rfl

@[simp] theorem rekeyUnit_launches (s : State) (p : Partition) (key u : Nat) : (rekeyUnit s p key u).launches = s.launches := by
  unfold rekeyUnit
  split <;> rfl

@[simp] theorem physWriteByte_launches (s : State) (p : Partition) (key pa : Nat) (b : Byte) :
    (physWriteByte s p key pa b).launches = s.launches := by
  simp [physWriteByte]

@[simp] theorem physWrite_launches (s : State) (p : Partition) (key pa : Nat) (bs : List (Nat × Option Byte)) :
    (physWrite s p key pa bs).launches = s.launches := by
  refine (foldl_launches (fun s u => ?_) _ _).trans (foldl_launches (fun s e => ?_) bs s)
  · split
    · rfl
    · split <;> rfl
  · split
    · exact physWriteByte_launches ..
    · rfl

@[simp] theorem invalidateOthers_launches (s : State) (pn : Nat) (writer : Option Nat) (asid line : Nat) :
    (invalidateOthers s pn writer asid line).launches = s.launches := rfl

@[simp] theorem physStore_launches (s : State) (pn pa : Nat) (bs : List (Nat × Option Byte)) :
    (physStore s pn pa bs).launches = s.launches := by
  refine (foldl_launches (fun s l => ?_) _ _).trans
    ((foldl_launches (fun s f => ?_) _ _).trans (physWrite_launches s (partOf s pn) 0 pa bs))
  · exact foldl_launches (fun s (t : Nat × Nat) => invalidateOthers_launches s pn none t.1 t.2) _ (markDirty s pn l)
  · split <;> rfl

theorem homeWriteAt_launches (s : State) (pn : Nat) (writer : Option Nat) (asid line : Nat) (t : Nat × DWord)
    (bs : List (Nat × Option Byte)) : (homeWriteAt s pn writer asid line t bs).launches = s.launches := by
  have hwrite := physWrite_launches s (partOf s pn) (leafKey t.2) (4096 * t.1 + 128 * (line % 32)) bs
  unfold homeWriteAt
  dsimp only
  rw [invalidateOthers_launches]
  split <;> exact hwrite

@[simp] theorem homeWrite_launches (s : State) (pn : Nat) (writer : Option Nat) (asid line : Nat)
    (bs : List (Nat × Option Byte)) : (homeWrite s pn writer asid line bs).launches = s.launches := by
  unfold homeWrite
  dsimp only
  split
  · rfl
  · split
    · rfl
    · exact homeWriteAt_launches ..

@[simp] theorem logViolation_launches (s : State) (p kind oct agent regNo : Nat) (addr : DWord) :
    (logViolation s p kind oct agent regNo addr).launches = s.launches := rfl

/-! ## The slices and the TLBs -/

@[simp] theorem settleLine_launches (s : State) (pn : Nat) (e : LlcLine) : (settleLine s pn e).launches = s.launches := by
  unfold settleLine
  split
  · rfl
  · refine foldl_launches (fun s k => foldl_launches (fun s i => ?_) _ s) _ s
    dsimp only
    split <;> rfl

@[simp] theorem dropLlc_launches (s : State) (pn : Nat) (f : LlcLine → Bool) : (dropLlc s pn f).launches = s.launches :=
  foldl_launches (fun s e => settleLine_launches s pn e) _ _

@[simp] theorem llcRoom_launches (s : State) (pn : Nat) (e : LlcLine) : (llcRoom s pn e).launches = s.launches := by
  unfold llcRoom
  dsimp only
  split
  · rfl
  · split
    · rfl
    · split
      · rw [dropLlc_launches]
        rfl
      · rfl

@[simp] theorem lineCame_launches (s : State) (pn : Nat) (e : LlcLine) : (lineCame s pn e).launches = s.launches := by
  simp [lineCame]

@[simp] theorem walkLine_launches (s : State) (pn slice pline : Nat) : (walkLine s pn slice pline).launches = s.launches := by
  unfold walkLine
  split
  · rfl
  · exact lineCame_launches ..

@[simp] theorem llcNow_launches (s : State) (pn asid line : Nat) : (llcNow s pn asid line).launches = s.launches := by
  unfold llcNow
  dsimp only
  split
  · exact lineCame_launches ..
  · split
    · rfl
    · exact lineCame_launches ..

@[simp] theorem overFrames_launches (s : State) (t : TlbEntry) (f : Nat → FrameEntry → FrameEntry) :
    (overFrames s t f).launches = s.launches := by
  unfold overFrames
  split
  · rfl
  · exact foldl_launches (fun s i => modFrame_launches s _ (f i)) _ s

@[simp] theorem tlbRoom_launches (s : State) (pn slice : Nat) : (tlbRoom s pn slice).launches = s.launches := by
  unfold tlbRoom
  dsimp only
  split
  · rfl
  · split
    · exact foldl_launches (fun s t => overFrames_launches s t _) _ _
    · rfl

@[simp] theorem fillTlb_launches (s : State) (pn : Nat) (who : Option Nat) (tenant asid vpn : Nat) (k : Acc) :
    (fillTlb s pn who tenant asid vpn k).launches = s.launches := by
  unfold fillTlb
  extract_lets p slice r u owner v
  have hu : u.launches = s.launches := foldl_launches (fun s pa => walkLine_launches s pn slice (pa / 128)) _ s
  have hv : v.launches = s.launches := (tlbRoom_launches u pn slice).trans hu
  clear_value u v
  repeat' split
  all_goals simp [hu, hv]

/-! ## Events and the walks of an access -/

@[simp] theorem sysTouch_launches (s : State) (pn asid va n : Nat) (k : Acc) :
    (sysTouch s pn asid va n k).1.launches = s.launches := by
  unfold sysTouch
  extract_lets tenant u p lines bad
  have hu : u.launches = s.launches := foldl_launches (fun s v => fillTlb_launches s pn none tenant asid v k) _ s
  split
  · exact hu
  · exact (foldl_launches (fun s l => llcNow_launches s pn asid l) _ u).trans hu

@[simp] theorem sysWrite_launches (s : State) (pn asid va : Nat) (bs : List Byte) :
    (sysWrite s pn asid va bs).1.launches = s.launches := by
  have ht := sysTouch_launches s pn asid va bs.length .write
  unfold sysWrite
  dsimp only
  split
  · exact (foldl_launches (fun s l => homeWrite_launches s pn none asid l _) _ _).trans ht
  · exact ht

@[simp] theorem ringPush_launches (s : State) (pn : Nat) (ring idx : RegName) (recd : List DWord) :
    (ringPush s pn ring idx recd).1.launches = s.launches := by
  unfold ringPush
  dsimp only
  split
  · rfl
  · split <;> exact sysWrite_launches ..

theorem flushHeld_launches (s : State) (pn : Nat) (ring idx : RegName) (l : List (List DWord)) :
    (flushHeld s pn ring idx l).1.launches = s.launches := by
  induction l generalizing s with
  | nil => rfl
  | cons r rs ih =>
    unfold flushHeld
    dsimp only
    split
    · exact (ih _).trans (ringPush_launches ..)
    · exact ringPush_launches ..

theorem flushEvents_launches (s : State) (pn : Nat) : (flushEvents s pn).launches = s.launches := by
  unfold flushEvents
  split
  · rfl
  · exact flushHeld_launches ..

theorem postEvent_launches (s : State) (pn code oct core : Nat) (launch : BitVec 32) (addr detail : DWord) :
    (postEvent s pn code oct core launch addr detail).launches = s.launches := by
  unfold postEvent
  dsimp only
  split
  · rfl
  · exact flushEvents_launches ..

theorem reportLost_launches (s : State) (pn : Nat) (who : Who) (va : Nat) : (reportLost s pn who va).launches = s.launches := by
  unfold reportLost
  dsimp only
  split
  · exact postEvent_launches ..
  · rfl

theorem reportWalk_launches (s : State) (pn asid vpn : Nat) : (reportWalk s pn asid vpn).launches = s.launches := by
  unfold reportWalk
  split
  · exact postEvent_launches ..
  · rfl

theorem prepPage_launches (s : State) (pn : Nat) (who : Who) (tenant asid : Nat) (k : Acc) (vpn : Nat) :
    (prepPage s pn who tenant asid k vpn).launches = s.launches :=
  (fillTlb_launches ..).trans (reportWalk_launches ..)

theorem prepRuns_launches (s : State) (pn : Nat) (who : Who) (tenant : Nat) (k : Acc) (runs : List (Nat × Nat)) :
    (prepRuns s pn who tenant k runs).launches = s.launches := by
  unfold prepRuns
  extract_lets runs u p pages
  have hu : u.launches = s.launches := by
    unfold u
    split
    · rfl
    · exact foldl_launches (fun s (e : Nat × Nat) => reportLost_launches s pn who e.2) _ s
  exact (foldl_launches (fun s (e : Nat × Nat) => prepPage_launches s pn who tenant e.1 k e.2) _ u).trans hu

end Sys2Proof.Machine
end

section
/-! PROOF. Units of engine operations, their completion, and the rows of drains (O44). -/

namespace Sys2Proof.Machine

open Sys2Proof

theorem launchOf_prepRuns (s : State) (pn : Nat) (who : Who) (tenant : Nat) (k : Acc) (runs : List (Nat × Nat)) (l : Nat) :
    launchOf (prepRuns s pn who tenant k runs) l = launchOf s l := launchOf_congr (prepRuns_launches ..) l

/-! ## The turn of an operation (R216, R218) -/

section
variable {s : State} {c k u : Nat} {op : EngineOp} (hop : fget? (coreOf s c).engines k = some op)

/-- An operation that copies rows claims no tile. -/
theorem claimTile_of_places {d : TileDesc} {src dst : Place} (hp : opPlaces c op = some (d, src, dst)) (o : Nat) :
    claimTile s c o op = s := by
  unfold claimTile
  split
  · rename_i hk
    simp [opPlaces, hk] at hp
  · rfl

theorem claimTile_of_claimed {n col side stride fmt : Nat} {key : Option Nat} (hk : op.kind = .fill n col side stride fmt key false)
    (o : Nat) : claimTile s c o op = s := by
  simp only [claimTile, hk]

variable (hu : setMem (opUnits c op) u = true) (hdone : setMem op.done u = false) (hfail : op.failed = none)
include hop hu hdone hfail

/-- The write of a unit that an operation that copies rows has still to write. -/
theorem execEngineLineWrite_copies {d : TileDesc} {src dst : Place} (hp : opPlaces c op = some (d, src, dst))
    (hoff : ∀ q i d, op.kind ≠ .queueFill q i d false) :
    execEngineLineWrite c k u s = .next (copyUnit s (partOfCore s c) c k u op d src dst) := by
  simp only [execEngineLineWrite, hop, claimTile_of_places hp, hu, hdone, hfail, hp, Bool.not_true, Option.isSome_none,
    Bool.or_self, Bool.false_eq_true, if_false]
  split
  · rename_i hk
    simp [opPlaces, hk] at hp
  · rename_i hk
    exact absurd hk (hoff _ _ _)
  · rfl

/-- The write of a unit that a fill that has claimed its tile has still to write. -/
theorem execEngineLineWrite_fills {n col side stride fmt : Nat} {key : Option Nat}
    (hk : op.kind = .fill n col side stride fmt key false) :
    execEngineLineWrite c k u s = .next (fillUnit s (partOfCore s c) c k u op n col side stride key) := by
  simp only [execEngineLineWrite, hop, claimTile_of_claimed hk, hu, hdone, hfail, hk, Bool.not_true, Option.isSome_none,
    Bool.or_self, Bool.false_eq_true, if_false]

end

/-! ## Completion (R164, R218, R235) -/

section
variable {s : State} {c k : Nat} {op : EngineOp} (hop : fget? (coreOf s c).engines k = some op) (hfail : op.failed = none)
  (hall : allWritten c op = true)
include hop hfail hall

theorem execTileTransferComplete_done {d : TileDesc} {src dst : Place} (hk : op.kind = .tile d src dst)
    (hvis : opVisible s (partOfCore s c) c op d dst = true) (hread : unreadFault s (partOfCore s c) op d src = none) :
    execTileTransferComplete c k s = .next (endOp s c k .done 0 0) := by
  simp only [execTileTransferComplete, hop, hk, hfail, hall, hvis, hread, Bool.not_true, Bool.or_self, Bool.false_eq_true,
    if_false]

theorem execBfillComplete_done {n col side stride fmt : Nat} {key : Option Nat}
    (hk : op.kind = .fill n col side stride fmt key false) :
    let t := tileOf (coreOf s c) n
    execBfillComplete c k s = .next (endOp (modCore s c (fun q => setTile q n { t with
      fills := setDel t.fills k
      state := if (setDel t.fills k).isEmpty then (if key.isSome then .sealed else .valid) else .filling
      tenant := op.tenant, launch := op.launch, fmt := fmt, scales := side != 0 })) c k .done 0 0) := by
  simp only [execBfillComplete, hop, hk, hfail, hall, Bool.not_true, Bool.or_self, Bool.false_eq_true, if_false]

theorem execQfeedFillComplete_done {q i : Nat} {d : TileDesc} (hk : op.kind = .queueFill q i d true) :
    execQfeedFillComplete c k s
      = .next (endOp (modQEntry s c op.launch q i (fun v => { v with state := .full })) c k .done 0 0) := by
  simp only [execQfeedFillComplete, hop, hk, hfail, hall, if_true]

end

/-! ## Rows of a drain (R170, R171) -/

section
variable {s t : State} {c k n lo dest base stride : Nat} {sec : Bool} {route : DWord} {op : EngineOp} {r : DrainRow}
  {rest : List DrainRow} (hop : fget? (coreOf s c).engines k = some op)
include hop

theorem execDrainRowDeliver_ends (hk : op.kind = .drain n lo sec dest base stride route [])
    (harr : drainArrived s (partOfCore s c) c k op = true) :
    execDrainRowDeliver c n k s = .next (endDrain s c n k lo) := by
  simp only [execDrainRowDeliver, hop, hk, harr, ne_eq, not_true_eq_false, if_false, if_true]

/-- A row that its destination takes is off the drain, which ends with its last row where all have arrived. -/
theorem execDrainRowDeliver_delivers {lines : List Nat} {op' : EngineOp} {t' : State}
    (hk : op.kind = .drain n lo sec dest base stride route (r :: rest))
    (hrow : deliverRow s (partOfCore s c) c k op n lo dest base stride route r = some (.ok t))
    (hlines : (if dest = 1 then pieces 128 ((base + r.m * stride) % 2 ^ 64) r.bytes.length else []) = lines)
    (hop' : op' = { op with kind := .drain n lo sec dest base stride route rest, done := lines.foldl setAdd op.done })
    (ht' : t' = modOp t c k (fun _ => op')) :
    execDrainRowDeliver c n k s
      = .next (if rest.isEmpty && drainArrived t' (partOfCore s c) c k op' then endDrain t' c n k lo else t') := by
  subst hlines hop' ht'
  simp only [execDrainRowDeliver, hop, hk, hrow, ne_eq, not_true_eq_false, if_false]

end

/-- Settles O44: a unit that nothing keeps back is written as stated, its walks having left the launch's identifier as it was; an
operation whose units are all written completes; and each destination takes its row. -/
theorem engineEventsHold : Obligations.EngineEvents := by
  refine ⟨?_, ?_⟩
  · intro s c k u op hop hfail pn
    refine ⟨fun hu hdone => ⟨?_, ?_⟩, fun hall => ⟨?_, ?_, ?_⟩⟩
    · intro d src dst hp hoff stays run parts from_ lines fresh who s₁ s₂ s₃ op' s₄ byte bs t hfresh
      have hreads : fresh.any (fun l => (runFault s₂ pn op.tenant (128 * l) 1 0 .read).isSome) = false :=
        List.any_eq_false.2 fun l hl => by simp [(hfresh l hl).1]
      have hlines : fresh.any (fun l => opLineHeld s₃ pn c op l false) = false :=
        List.any_eq_false.2 fun l hl => by simp [(hfresh l hl).2]
      rw [exec_engineLineWrite, execEngineLineWrite_copies hop hu hdone hfail hp hoff]
      refine ⟨?_, ?_⟩
      · rintro rfl hw hheld
        have hbad := Bool.or_eq_false_iff.2 ⟨hreads, Option.isSome_eq_false_iff.2 (Option.isNone_iff_eq_none.2 hw)⟩
        have hwait := Bool.or_eq_false_iff.2 ⟨hlines, hheld⟩
        refine congrArg Host.Outcome.next ?_
        unfold copyUnit
        dsimp only
        rw [launchOf_prepRuns, if_neg (ne_true_of_eq_false hbad), if_neg (ne_true_of_eq_false hwait)]
        cases src <;> rfl
      · rintro cs rfl
        have hbad := Bool.or_eq_false_iff.2 ⟨hreads, rfl⟩
        have hwait := Bool.or_eq_false_iff.2 ⟨hlines, rfl⟩
        refine congrArg Host.Outcome.next ?_
        unfold copyUnit
        dsimp only
        rw [if_neg (ne_true_of_eq_false hbad), if_neg (ne_true_of_eq_false hwait)]
        cases src <;> rfl
    · intro n col side stride fmt key hk slot va s₂ lines fresh s₃ op' s₄ all bs hhead _ hok hlines hclean
      have hheld : fresh.any (fun l => opLineHeld s₃ pn c op l false) = false :=
        List.any_eq_false.2 fun l hl => by simp [hlines l hl]
      have hpoison : bs.any (fun b => b.2) = false := List.any_eq_false.2 fun b hb => by simp [hclean b hb]
      rw [exec_engineLineWrite, execEngineLineWrite_fills hop hu hdone hfail hk]
      refine congrArg Host.Outcome.next ?_
      unfold fillUnit
      rw [if_neg (not_not_intro hhead)]
      dsimp only
      split
      · rename_i hfault
        exact absurd (hfault.symm.trans hok) nofun
      · rw [if_neg (ne_true_of_eq_false hheld), if_neg (ne_true_of_eq_false hpoison)]
    · exact fun d src dst hk => execTileTransferComplete_done hop hfail hall hk
    · exact fun n col side stride fmt key hk => execBfillComplete_done hop hfail hall hk
    · exact fun q i d hk => execQfeedFillComplete_done hop hfail hall hk
  · intro s c n k op lo sec dest base stride route rows hop hk pn
    refine ⟨?_, ?_⟩
    · rintro rfl harr
      exact execDrainRowDeliver_ends hop hk harr
    · rintro r rest rfl marked va at_ goes
      refine ⟨?_, ?_, ?_, ?_⟩
      · rintro rfl hlong hbehind hroom
        have hnone : ¬ ((launchWarp? s c op.launch n).bind (fun w => longOf w lo)).isNone = true :=
          mt Option.isNone_iff_eq_none.1 (Option.isSome_iff_ne_none.1 hlong)
        have hfull : ¬ (queueBehind (coreOf s c) op.order || decide ((coreOf s c).drainQ.length ≥ 64)) = true := by
          simp [hbehind, hroom]
        exact execDrainRowDeliver_delivers hop hk ((if_neg hnone).trans (if_neg hfull)) rfl rfl rfl
      · rintro rfl hlines
        have hheld : (pieces 128 va r.bytes.length).any (fun l => opLineHeld s pn c op l true) = false :=
          List.any_eq_false.2 fun l hl => by simp [hlines l hl]
        exact execDrainRowDeliver_delivers hop hk (if_neg (ne_true_of_eq_false hheld)) rfl rfl rfl
      · rintro rfl
        exact execDrainRowDeliver_delivers hop hk rfl rfl rfl rfl
      · rintro rfl hclean hpeer
        have hgood : (!r.poison.isEmpty || peerFenced s (partOf s pn) (routeRank (partOf s pn) route)) = false := by
          simp [hclean, hpeer]
        exact execDrainRowDeliver_delivers hop hk (if_neg (ne_true_of_eq_false hgood)) rfl rfl rfl

end Sys2Proof.Machine
end

section
/-! PROOF. Group barriers: arrivals, reports and the phases that the root completes (O31). -/

namespace Sys2Proof.Machine

open Sys2Proof

/-! ## Arrivals (R199, R200) -/

theorem groupOf_valid {x : Ctx} {g : BitVec 2} {v : DWord} (hv : x.w.g[g.toNat]? = some v) (hb : v.getLsbD 8 = true) :
    groupOf x g = .ok (field v 7 0) := by
  obtain ⟨_, rfl⟩ := Vector.getElem?_eq_some_iff.1 hv
  exact if_pos hb

/-- SYS_GROUP_NONE for a slot that holds no group (R200). -/
theorem groupOf_missing {x : Ctx} {g : BitVec 2} {v : DWord} (hv : x.w.g[g.toNat]? = some v) (hb : v.getLsbD 8 = false) :
    groupOf x g = .error (.trap cGroupNone (g.setWidth 64)) := by
  obtain ⟨_, rfl⟩ := Vector.getElem?_eq_some_iff.1 hv
  rw [← BitVec.ofNat_toNat]
  exact if_neg (ne_true_of_eq_false hb)

@[simp] theorem nodeOf_modNode_same (s : State) (c l g : Nat) (f : NodeBarrier → NodeBarrier) :
    nodeOf (modNode s c l g f) c l g = f (nodeOf s c l g) := by simp [nodeOf, modNode]

theorem mem_foldl_setAdd_iff {α : Type} (f : α → Nat) (l : List α) (us : List Nat) {k : Nat} :
    k ∈ l.foldl (fun us e => setAdd us (f e)) us ↔ (∃ e ∈ l, f e = k) ∨ k ∈ us := by
  induction l generalizing us with
  | nil => simp
  | cons e l ih =>
    rw [List.foldl_cons, ih, mem_setAdd, List.exists_mem_cons_iff, eq_comm, or_left_comm, or_assoc]

/-- What an arrival leaves of the node: its phase, and its members and the accesses that it comes behind, with the new ones. -/
theorem nodeOf_arrive (s : State) (x : Ctx) (i : Nat) :
    let n := nodeOf s x.c x.w.launch i
    let n' := nodeOf (arrive s x i) x.c x.w.launch i
    n'.completed = n.completed ∧ (∀ m, m ∈ n'.arrived ↔ m = x.w.lwarp ∨ m ∈ n.arrived)
    ∧ (∀ m, m ∈ n'.behind ↔ (∃ a ∈ pathArmed s x, a.id = m) ∨ m ∈ n.behind) := by
  intro n n'
  have hn : n' = { n with
      arrived := setAdd n.arrived x.w.lwarp, behind := (pathArmed s x).foldl (fun l a => setAdd l a.id) n.behind } :=
    nodeOf_modNode_same ..
  rw [hn]
  exact ⟨rfl, fun m => mem_setAdd, fun m => mem_foldl_setAdd_iff ..⟩

section
variable {s : State} {x : Ctx} {g : BitVec 2} {d : BitVec 6} {v : DWord} (h : ctxOf s = some x)
include h

section
variable {i : Nat} (hg : groupOf x g = .ok i)
include hg

theorem execGbar_arrives (hl : LastWord x) : execGbar g s = .next (warpDone (arrive s x i) x (fun w =>
    modPath w x.sp.sec (fun q => { q with wait := .phase i (nodeOf s x.c x.w.launch i).completed }))) :=
  runWord_ok h (bind_ok (needLast_ok hl) (bind_ok hg rfl))

theorem execGarv_arrives (hp : Settled x.w [iS d]) : execGarv d g s
    = .next (scalarDone (arrive s x i) x d ((nodeOf s x.c x.w.launch i).completed.setWidth 64)) := by
  unfold execGarv scalarDone warpDone
  exact runWord_ok h (bind_ok (checkPending_ok hp) (bind_ok hg rfl))

theorem execGwait_waits (hl : LastWord x) (hp : Settled x.w [iS d]) : execGwait g d s = .next (warpDone s x (fun w =>
    modPath w x.sp.sec (fun q => { q with wait := .phase i ((sReg x.w d).setWidth 32) }))) :=
  runWord_ok h (bind_ok (needLast_ok hl) (bind_ok (checkPending_ok hp) (bind_ok hg rfl)))

end

section
variable {code : Nat} (hg : groupOf x g = .error (.trap code v))
include hg

theorem execGbar_traps (hl : LastWord x) : execGbar g s = .next (trapped s x code v) :=
  runWord_traps h (bind_ok (needLast_ok hl) (bind_stops hg))

theorem execGarv_traps (hp : Settled x.w [iS d]) : execGarv d g s = .next (trapped s x code v) :=
  runWord_traps h (bind_ok (checkPending_ok hp) (bind_stops hg))

end

end

/-! ## The report of a node (R201, R331) -/

theorem arriveReady_iff {s : State} {c l g : Nat} : arriveReady s c l g = true ↔
    let m := membersOn (launchOf s l) c g
    let n := nodeOf s c l g
    (launchOf s l).status ≠ .ended ∧ m ≠ [] ∧ n.sent = none ∧ (∀ i ∈ m, i ∈ n.arrived ∨ i ∈ (launchOf s l).retired)
      ∧ (∀ a ∈ (clOf s c l).armed, a.id ∈ n.behind → a.retired ≠ none) ∧ storesDone s (partOfCore s c) c = true := by
  simp [arriveReady, and_assoc, setMem_iff]

/-! ## The root (R331) -/

/-- The first message of the inbox stands first of its core's (R335). -/
theorem rootHeads_cons (m : RootMsg) (rest : List RootMsg) : ∃ l, rootHeads (m :: rest) = m :: l := by
  have hkeep (rest : List RootMsg) (l : List RootMsg) : ∃ l', rest.foldl (fun h m =>
      if h.any (fun e => rootSender e == rootSender m) then h else h ++ [m]) (m :: l) = m :: l' := by
    induction rest generalizing l with
    | nil => exact ⟨l, rfl⟩
    | cons e rest ih =>
      rw [List.foldl_cons]
      split
      · exact ih l
      · exact ih (l ++ [e])
  exact hkeep rest []

/-- An ARRIVE at the head of the root's inbox is the one it counts. -/
theorem execBarrierArriveCount_head {s : State} {pn c l g : Nat} {ph : BitVec 32} {rest : List RootMsg}
    (hin : (partOf s pn).rootInbox = .arrive c l g ph :: rest) : execBarrierArriveCount pn s =
    let p := partOf s pn
    let b := rootBarrierOf p l g
    let cs := groupCores (launchOf s l) g
    let t := modPart s pn (fun p => { p with rootInbox := rest })
    if b.completed ≠ ph ∨ (launchOf s l).status = .ended ∨ rootRefuses t pn c ((nodeOf s c l g).sent.getD 0) = true then .next t
    else if cs.all (setMem (setAdd b.reported c)) && !inboxOpen t pn cs then .next (modPart t pn (fun _ => p))
    else if cs.all (setMem (setAdd b.reported c)) then .next (sendDown
      (modPart t pn (fun p => setRootBarrier p l g ⟨b.completed + 1, []⟩)) pn cs (.complete l g (b.completed + 1)))
    else .next (modPart t pn (fun p => setRootBarrier p l g ⟨b.completed, setAdd b.reported c⟩)) := by
  obtain ⟨heads, hheads⟩ := rootHeads_cons (.arrive c l g ph) rest
  have herase : modPart s pn (fun p => { p with rootInbox := p.rootInbox.erase (.arrive c l g ph) })
      = modPart s pn (fun p => { p with rootInbox := rest }) := by
    simp only [modPart, hin, List.erase_cons_head]
  rw [execBarrierArriveCount, hin, hheads, List.find?_cons_of_pos rfl]
  simp only [herase]
  rfl

/-- Settles O31: the words by whether the slot holds a group, the node by what it reports on, the root by the ARRIVE at the head of
its inbox. -/
theorem groupBarriers : Obligations.GroupBarriers := by
  simp only [Obligations.GroupBarriers, exec_gbar, exec_garv, exec_gwait, exec_barrierArriveSend, exec_barrierArriveCount,
    exec_barrierComplete]
  refine ⟨fun s x g d v h hv => ⟨fun hb => ?_, fun hb => ?_⟩, fun s c l g => ⟨fun hr => ?_, fun hr => ?_⟩,
    fun s pn c l g rest hin hrun => ⟨fun href => ?_, fun href hall hopen => ?_, fun href hall => ?_⟩,
    fun s c l g n rest hin href hl => ?_⟩
  · have hg := groupOf_valid hv hb
    obtain ⟨hph, harr, hbeh⟩ := nodeOf_arrive s x (field v 7 0)
    exact ⟨execGbar_arrives h hg, execGarv_arrives h hg, hph, harr, hbeh, execGwait_waits h hg⟩
  · have hg := groupOf_missing hv hb
    exact ⟨execGbar_traps h hg, execGarv_traps h hg⟩
  · rw [execBarrierArriveSend, if_pos (arriveReady_iff.2 hr)]
    rfl
  · rw [execBarrierArriveSend, if_neg (mt arriveReady_iff.1 hr)]
  · rw [execBarrierArriveCount_head hin]
    exact if_pos (.inr (.inr href))
  · rw [execBarrierArriveCount_head hin]
    simp only [href, hall, hopen, hrun, ne_eq, not_true_eq_false, or_self, if_false, Bool.not_true, Bool.and_false, Bool.false_eq_true,
      if_true]
  · rw [execBarrierArriveCount_head hin]
    simp only [href, hall, hrun, ne_eq, not_true_eq_false, or_self, if_false, Bool.false_and, Bool.false_eq_true]
  · have hl' : (fget? (coreOf (modCore s c (fun k => { k with inbox := rest })) c).launches l).isNone = false := by
      rw [coreOf_modCore_same, Option.isNone_eq_false_iff, hl]
    rw [execBarrierComplete, hin]
    simp only [href, hl', Bool.false_eq_true, if_false]

end Sys2Proof.Machine
end

section
/-! PROOF. Stores to global memory (O27). -/

namespace Sys2Proof.Machine

open Sys2Proof

/-! ## Waits of a store (R203, R206) -/

/-- A store that is neither kept back nor a release with stores to wait for goes on (R203, R206). -/
theorem storeWait_ok {s : State} {x : Ctx} {ord : BitVec 1} {scope : Nat} (hk : keptBack s x false = false)
    (hr : ord = 1 → releaseWaits s x scope = false) : parkIf (keptBack s x false || (ord == 1 && releaseWaits s x scope)) = .ok () := by
  rw [hk, Bool.false_or]
  exact release_ok hr

/-! ## STG and STU (R181 to R184) -/

section
variable {s t u : State} {x : Ctx} {scope sz : BitVec 3} {ord : BitVec 1} (hg : groupMissing x.w scope.toNat = false)
include hg

/-- STG whose access can be made: the data of each lane leaves in lane order, poison where its word is poisoned (R181, R182). -/
theorem execStg_queues {d a : BitVec 7} :
    let n := szBytes sz.toNat
    let srcs := winRun x.w a 2 ++ winRun x.w d (szNames sz.toNat)
    let q := accsOf t x srcs
    AccessReady s x srcs [] n false .write false false t u → keptBack t x false = false →
    (ord = 1 → releaseWaits t x scope.toNat = false) →
    execStg d a scope ord sz s = .next (killDone (queueStores t x (q.accs.map (fun e => (e.2,
      if q.dataBad.getLsbD e.1 then List.replicate n none else (storeBytes q.i 2 sz.toNat e.1).map some))))
      x (q.addrBad ||| q.dataBad)) := by
  dsimp only
  intro h hkept hrel
  obtain ⟨t₀, u₀, h₀, h₁⟩ := h.walked
  have hnar : (accsOf t x (winRun x.w a 2 ++ winRun x.w d (szNames sz.toNat))).i.nar ≠ 0 := h₁.lanes
  rw [execStg, runMem_at h₀.at_]
  simp only [stgLanes_ok hg h₀, stgLanes_ok hg h₁, if_neg hnar, checkAccs_ok h.good, storeWait_ok hkept hrel, bind, Except.bind]
  exact finish_done ..

/-- STU whose access can be made, whatever ACTIVE holds (R184). -/
theorem execStu_queues {k j : BitVec 6} :
    let va := (sReg x.w j).toNat
    let n := szBytes sz.toNat
    ScalarAccessReady s x va n .write false t → Settled x.w [iS j, iS k] → keptBack t x false = false →
    (ord = 1 → releaseWaits t x scope.toNat = false) →
    execStu k j scope ord sz s
      = .next (advance (queueStores t x [(va, ((bytesOf64 (sReg x.w k)).take n).map some)]) x .seq) := by
  dsimp only
  intro h hp hkept hrel
  have hc : stuCheck x k j scope = .ok () := bind_ok (checkScope_ok hg) (checkPending_ok hp)
  have hacc : checkAccs t x [(0, (sReg x.w j).toNat)] (szBytes sz.toNat) false .write = .ok () := checkAccs_ok (by simpa using h.good)
  rw [execStu, runMem_at h.at_]
  simp only [hc, ← h.walked, hacc, storeWait_ok hkept hrel, bind, Except.bind, finish_ok]

end

/-! ## What a store that has left changes (R208, R290) -/

/-- The entry of the store queue for one line's bytes. -/
def storeEntry (s : State) (x : Ctx) (e : Nat × List (Nat × Option Byte)) : StoreReq :=
  ⟨(asidFor (partOf s x.pn) x.l.tenant (128 * e.1)).getD 0, e.1, e.2, x.l.tenant, x.slot, x.sp.sec, x.w.launch, true⟩

theorem queueStores_eq (s : State) (x : Ctx) (l : List (Nat × List (Option Byte))) : queueStores s x l
    = modCore s x.c (fun k => { k with storeQ := k.storeQ ++ (gatherStores l).map (storeEntry s x) }) := rfl

/-- Settles O27: the two words, whose checks pass, and the queue, which alone a store that has left its core changes. -/
theorem globalStores : Obligations.GlobalStores := by
  refine ⟨fun s t u x d a k j scope sz ord hg => ⟨execStg_queues hg, execStu_queues hg⟩, fun s x l => ?_⟩
  dsimp only
  rw [queueStores_eq]
  refine ⟨fun a => rfl, rfl, rfl, rfl, fun c hc => coreOf_modCore_other s _ hc, ?_, ?_, (gatherStores l).map (storeEntry s x), ?_, ?_, ?_⟩
  · rw [coreOf_modCore_same]
  · rw [coreOf_modCore_same]
  · rw [coreOf_modCore_same]
  · rw [List.map_map]
    exact List.map_id _
  · rintro _ he
    obtain ⟨b, -, rfl⟩ := List.mem_map.1 he
    exact ⟨rfl, rfl, rfl, rfl, rfl⟩

end Sys2Proof.Machine
end

section
/-! PROOF. Atomics, prefetches and fences (O28). -/

namespace Sys2Proof.Machine

open Sys2Proof

/-! ## ATOM (R187 to R191) -/

/-- An atomic on lines that can be had, neither kept back nor a release with stores to wait for, goes on. -/
theorem atomWait_ok {s : State} {x : Ctx} {ar : BitVec 1} {scope : Nat} {ls : List (Nat × Nat)} (hk : keptBack s x false = false)
    (hl : ∀ l ∈ ls, atomHeld s x scope l = false) (hr : ar = 1 → releaseWaits s x scope = false) :
    parkIf (keptBack s x false || ls.any (atomHeld s x scope) || (ar == 1 && releaseWaits s x scope)) = .ok () := by
  rw [hk, List.any_eq_false.2 fun l h => by simp [hl l h], Bool.false_or, Bool.false_or]
  exact release_ok hr

/-- One lane of an atomic: the old bytes are read at the scope, the new ones written there, and the old words kept for the
destinations (R188, R189). -/
def atomStep (x : Ctx) (q : LaneAccs) (op ty scope : Nat) (lineOf : Nat → Nat × Nat)
    (r : State × FMap (List (Word × Bool)) × List ((Nat × Nat) × Bool)) (e : Nat × Nat) :
    State × FMap (List (Word × Bool)) × List ((Nat × Nat) × Bool) :=
  let n := 4 * atomWords ty
  let old := if scope ≤ 1 then viewBytes r.1 x e.2 n else homeBytes r.1 x e.2 n
  let o := atomLane op ty (atomOperand q.i 2 ty e.1) (atomOperand q.i (2 + atomWords ty) ty e.1) (q.dataBad.getLsbD e.1) old
  match o.1 with
  | some bs => (atomWrite r.1 x scope e.2 bs, fput r.2.1 e.1 o.2, r.2.2 ++ [(lineOf e.2, bs.any (·.isNone))])
  | none => (r.1, fput r.2.1 e.1 o.2, r.2.2)

/-- ATOM whose access can be made (R189). -/
theorem execAtom_issues {s t u : State} {x : Ctx} {op ty scope : BitVec 3} {ar : BitVec 1} {d a : BitVec 7}
    (hg : groupMissing x.w scope.toNat = false) :
    let k := atomWords ty.toNat
    let srcs := winRun x.w a (2 + k * (if op.toNat = 7 then 2 else 1))
    let names := winRun x.w d k
    let q := accsOf t x srcs
    let ls := accLines t x q.accs (4 * k)
    let base := settleStores u x.c x.slot
    let done := q.accs.foldl (atomStep x q op.toNat ty.toNat scope.toNat (fun va =>
      ((asidFor (partOf base x.pn) x.l.tenant va).getD 0, va / 128))) (base, [], [])
    let near := decide (scope.toNat ≤ 1)
    let w := touchLines (if near then done.1 else peerBack done.1 x done.2.2) x ls near
    let v := if near then w else ls.foldl (fun s l => l1Drop s x.c l.1 l.2) w
    AccessReady s x srcs names (4 * k) true .write true (decide (scope.toNat ≥ 2)) t u → keptBack t x false = false →
    (∀ l ∈ ls, atomHeld t x scope.toNat l = false) → (ar = 1 → releaseWaits t x scope.toNat = false) →
    execAtom op d a ar ty scope s = .next (longDone v x (iNames names) .value
      (laneWrites names q.i (q.addrBad ||| q.dataBad) (fun l => fget done.2.1 l [])) [] (fetchingOf v x ls) none
      (q.addrBad ||| q.dataBad)) := by
  dsimp only
  generalize hsrcs : winRun x.w a (2 + atomWords ty.toNat * (if op.toNat = 7 then 2 else 1)) = srcs
  generalize hdone : List.foldl (atomStep x _ _ _ _ _) _ _ = done
  intro h hkept hheld hrel
  obtain ⟨t₀, u₀, h₀, h₁⟩ := h.walked
  have hnar : (accsOf t x srcs).i.nar ≠ 0 := h₁.lanes
  have hsplit : splitNames t x ((accsOf t x srcs).i.nar ||| (accsOf t x srcs).i.zero) (winRun x.w d (atomWords ty.toNat)) = .ok u :=
    h₁.split
  have hlanes {s t u : State} (h : LaneReady s x [] srcs (winRun x.w d (atomWords ty.toNat)) [] [] t u) :
      atomLanes s x op.toNat ty.toNat d a scope = .ok (t, accsOf t x srcs) := by
    subst hsrcs
    exact atomLanes_ok hg h
  rw [execAtom, runMem_at h₀.at_]
  simp only [hlanes h₀, hlanes h₁, if_neg hnar, checkAccs_ok h.good, atomWait_ok hkept hheld hrel, hsplit, bind, Except.bind]
  generalize hfold : List.foldl _ (settleStores u x.c x.slot, [], []) (accsOf t x srcs).accs = fold
  obtain rfl : fold = done := hfold.symm.trans hdone
  simp only [decide_eq_true_iff]
  exact finish_done ..

/-! ## The new values of an atomic (R187, R190) -/

theorem sextNat_toNat {n : Nat} (hn : 0 < n) (u : BitVec n) : sextNat n u.toNat = u.toInt := by
  rw [BitVec.toInt_eq_toNat_cond, sextNat, Nat.mod_eq_of_lt u.isLt]
  obtain ⟨n, rfl⟩ := Nat.exists_eq_succ_of_ne_zero hn.ne'
  have : (u.toNat < 2 ^ n) = (2 * u.toNat < 2 ^ (n + 1)) := by rw [pow_succ]; exact propext (by omega)
  simp only [Nat.succ_eq_add_one, Nat.add_sub_cancel, this]

section
variable {n : Nat} (hn : 0 < n) (u v : BitVec n)
include hn

theorem signed_smaller : (if decide (sextNat n u.toNat ≤ sextNat n v.toNat) = true then u.toNat else v.toNat)
    = (if u.sle v then u else v).toNat := by
  rw [sextNat_toNat hn, sextNat_toNat hn, BitVec.sle, apply_ite BitVec.toNat]

theorem signed_larger : (if decide (sextNat n u.toNat ≤ sextNat n v.toNat) = true then v.toNat else u.toNat)
    = (if u.sle v then v else u).toNat := by
  rw [sextNat_toNat hn, sextNat_toNat hn, BitVec.sle, apply_ite BitVec.toNat]

end

theorem unsigned_smaller {n : Nat} (u v : BitVec n) : (if decide (u.toNat ≤ v.toNat) = true then u.toNat else v.toNat)
    = (if u.ule v then u else v).toNat := by
  rw [BitVec.ule, apply_ite BitVec.toNat]

theorem unsigned_larger {n : Nat} (u v : BitVec n) : (if decide (u.toNat ≤ v.toNat) = true then v.toNat else u.toNat)
    = (if u.ule v then v else u).toNat := by
  rw [BitVec.ule, apply_ite BitVec.toNat]

/-- Compare-and-swap writes its second operand where the old value equals the first (R187). -/
theorem atomNew_swap {n : Nat} (u v : BitVec n) (m ty : Nat) :
    atomNew 7 ty u.toNat v.toNat m = if u = v then some m else none := by
  simp only [atomNew, BitVec.toNat_inj]

theorem atomNew_word (u v : Word) (n : Nat) :
    let new (op ty : Nat) : Option Nat := atomNew op ty u.toNat v.toNat n
    new 0 0 = some (u + v).toNat ∧ new 0 1 = some (u + v).toNat
    ∧ new 1 0 = some (if u.sle v then u else v).toNat ∧ new 1 1 = some (if u.ule v then u else v).toNat
    ∧ new 2 0 = some (if u.sle v then v else u).toNat ∧ new 2 1 = some (if u.ule v then v else u).toNat
    ∧ new 3 0 = some (u &&& v).toNat ∧ new 4 0 = some (u ||| v).toNat ∧ new 5 0 = some (u ^^^ v).toNat
    ∧ new 6 0 = some v.toNat ∧ new 7 0 = (if u = v then some n else none) :=
  ⟨congrArg some (BitVec.toNat_add u v).symm, congrArg some (BitVec.toNat_add u v).symm,
    congrArg some (signed_smaller (by decide) u v), congrArg some (unsigned_smaller u v),
    congrArg some (signed_larger (by decide) u v), congrArg some (unsigned_larger u v),
    congrArg some (BitVec.toNat_and ..).symm, congrArg some (BitVec.toNat_or ..).symm, congrArg some (BitVec.toNat_xor ..).symm,
    rfl, atomNew_swap u v n 0⟩

/-- The sum rounded once under RNE, the smaller and the larger of two FP32 codes (R190). -/
theorem atomNew_fp32 (p q n : Nat) :
    (∃ r fl, atomNew 0 4 p q n = some r ∧ SumOf .f32 .rne false false p q (r, fl))
    ∧ (∃ r, atomNew 1 4 p q n = some r ∧ SelectsOf .f32 false p q r)
    ∧ (∃ r, atomNew 2 4 p q n = some r ∧ SelectsOf .f32 true p q r) :=
  ⟨⟨_, (fAdd .f32 .rne false p q).2, rfl, sumOf_fAdd .f32 .rne false p q⟩, ⟨_, rfl, selectsOf_fMinMax .f32 false p q⟩,
    ⟨_, rfl, selectsOf_fMinMax .f32 true p q⟩⟩

theorem atomNew_dword (u v : DWord) (n : Nat) :
    let new (op ty : Nat) : Option Nat := atomNew op ty u.toNat v.toNat n
    new 0 2 = some (u + v).toNat ∧ new 0 3 = some (u + v).toNat
    ∧ new 1 2 = some (if u.sle v then u else v).toNat ∧ new 1 3 = some (if u.ule v then u else v).toNat
    ∧ new 2 2 = some (if u.sle v then v else u).toNat ∧ new 2 3 = some (if u.ule v then v else u).toNat
    ∧ new 6 2 = some v.toNat ∧ new 7 2 = (if u = v then some n else none) :=
  ⟨congrArg some (BitVec.toNat_add u v).symm, congrArg some (BitVec.toNat_add u v).symm,
    congrArg some (signed_smaller (by decide) u v), congrArg some (unsigned_smaller u v),
    congrArg some (signed_larger (by decide) u v), congrArg some (unsigned_larger u v), rfl, atomNew_swap u v n 2⟩

/-! ## PREF and FENCE (R197, R198) -/

/-- PREF fetches the lines of its good addresses, into the L1 as well unless it asks for the last-level cache alone (R197). -/
theorem execPref_fetches {s t u t₀ u₀ : State} {x : Ctx} {a : BitVec 7} {llc : BitVec 1} :
    let srcs := winRun x.w a 2
    let p := prepRuns s x.pn (some (x.c, x.l.id)) x.l.tenant .read ((accsOf t₀ x srcs).accs.map (fun e => (e.2, 1)))
    let good := (accsOf t x srcs).accs.filter (fun e => (accCause t x e.2 1 false .read).isNone)
    LaneReady s x [] srcs [] [] [] t₀ u₀ → LaneReady p x [] srcs [] [] [] t u →
    execPref a llc s = .next (advance ((accLines t x good 1).foldl (fun s l =>
      if lineHeld s x l.1 l.2 then s
      else if llc = 1 then llcTouch s x.pn l.1 l.2
      else l1Fill (llcTouch s x.pn l.1 l.2) x.pn x.c l.1 l.2 none) t) x .seq) := by
  dsimp only
  intro h₀ h₁
  simp only [accsOf] at h₁ ⊢
  rw [execPref, runMem_at h₀.at_]
  simp only [laneCheck_ok h₀, laneCheck_ok h₁, bind, Except.bind, beq_iff_eq, finish_ok]

theorem releases_iff (kind : BitVec 2) : 2 ≤ kind.toNat ↔ kind = 2 ∨ kind = 3 := by
  revert kind
  decide

/-- What a FENCE waits for: what is set aside, and with .REL and .AR also stores that are not visible where the scope reaches
(R198, R204). -/
theorem fenceWaits_iff {s : State} {x : Ctx} {kind : BitVec 2} {scope : Nat} :
    (keptBack s x true || (decide (kind.toNat ≥ 2) && releaseWaits s x scope)) = true ↔
      keptBack s x true = true ∨ ((kind = 2 ∨ kind = 3) ∧ releaseWaits s x scope = true) := by
  rw [Bool.or_eq_true, Bool.and_eq_true, decide_eq_true_iff, ge_iff_le, releases_iff]

section
variable {s : State} {x : Ctx} {kind : BitVec 2} {scope : BitVec 3} (h : ctxOf s = some x)
  (hg : groupMissing x.w scope.toNat = false)
include h hg

theorem execFence_waits (hw : keptBack s x true = true ∨ ((kind = 2 ∨ kind = 3) ∧ releaseWaits s x scope.toNat = true)) :
    execFence kind scope s = .next (waitHere s x.c x.slot) := by
  rw [execFence, runWord_at h]
  simp only [checkScope_ok hg, fenceWaits_iff.2 hw, waitIf_true, bind, Except.bind]
  rfl

theorem execFence_goesOn (hk : keptBack s x true = false) (hr : kind = 0 ∨ kind = 1 ∨ releaseWaits s x scope.toNat = false) :
    execFence kind scope s = .next (advance (if kind = 3 then settleStores s x.c x.slot else s) x .seq) := by
  have hgo : (keptBack s x true || (decide (kind.toNat ≥ 2) && releaseWaits s x scope.toNat)) = false := by
    rw [hk, Bool.false_or]
    rcases hr with rfl | rfl | hr
    · rfl
    · rfl
    · rw [hr, Bool.and_false]
  rw [execFence, runWord_at h]
  simp only [checkScope_ok hg, hgo, waitIf_false, bind, Except.bind, finish_ok]

end

/-- Settles O28: ATOM lane by lane, the new values by operation and type, PREF, and FENCE by whether it has something to wait for. -/
theorem atomicsAndFences : Obligations.AtomicsAndFences := by
  simp only [Obligations.AtomicsAndFences, exec_atom, exec_pref, exec_fence]
  refine ⟨⟨fun s t u x op ty scope ar d a hg => execAtom_issues hg, fun u v n => ?_, atomNew_dword⟩,
    fun s t u t₀ u₀ x a llc => execPref_fetches, fun s x kind scope h hg => ⟨execFence_goesOn h hg, execFence_waits h hg⟩⟩
  simpa only [and_assoc] using And.intro (atomNew_word u v n) (atomNew_fp32 u.toNat v.toNat n)

end Sys2Proof.Machine
end

section
/-! PROOF. The row operations (O30). -/

namespace Sys2Proof.Machine

open Sys2Proof

/-! ## The checks of a row word (R46, R180, R192) -/

theorem raiseCause_none {va : Nat} {c : Option (Nat × Nat)} (h : c = none) : raiseCause [(va, c)] = .ok () := by
  rw [raiseCause, firstCause_none (by simpa using h)]

/-- The checks of ROWLD pass, and leave its names reloaded. -/
theorem rowldCheck_ok {s t : State} {x : Ctx} {r : RowArg} {a : BitVec 6} (hp : Settled x.w (iSRun a 2 ++ iNames r.names))
    (ha : ctxActive x ≠ 0) (hm : Mapped x.w r.names) (hl : reloadNames s x r.names = .ok t) : rowldCheck s x r a = .ok t := by
  simp only [rowldCheck, checkPending_ok hp, if_neg ha, checkMapped_ok hm, hl, bind, Except.bind]

theorem rowldCheck_empty {s : State} {x : Ctx} {r : RowArg} {a : BitVec 6} (hp : Settled x.w (iSRun a 2 ++ iNames r.names))
    (ha : ctxActive x = 0) : rowldCheck s x r a = .ok s := by
  simp only [rowldCheck, checkPending_ok hp, if_pos ha, bind, Except.bind]

/-- The checks of ROWST and ROWADD pass, and leave their names reloaded. -/
theorem rowstCheck_ok {s t : State} {x : Ctx} {r : RowArg} {a : BitVec 6} (hp : Settled x.w (iS a :: iNames r.names))
    (ha : ctxActive x ≠ 0) (hm : Mapped x.w r.names) (hl : reloadNames s x r.names = .ok t) : rowstCheck s x r a = .ok t := by
  obtain ⟨hs, hn⟩ := settled_append.1 (show Settled x.w ([iS a] ++ iNames r.names) from hp)
  simp only [rowstCheck, checkPending_ok hs, checkPending_ok hn, if_neg ha, checkMapped_ok hm, hl, bind, Except.bind]

theorem rowstCheck_empty {s : State} {x : Ctx} {r : RowArg} {a : BitVec 6} (hp : Settled x.w [iS a]) (ha : ctxActive x = 0) :
    rowstCheck s x r a = .ok s := by
  simp only [rowstCheck, checkPending_ok hp, if_pos ha, bind, Except.bind]

/-! ## ROWLD (R193, R194) -/

section
variable {s t u : State} {x : Ctx} {d : BitVec 7} {a : BitVec 6} {h : BitVec 1} {n : BitVec 3}
  (hp : Settled x.w (iSRun a 2 ++ iNames (rowArg x d a n).names))
include hp

/-- With no active lane a ROWLD only leaves its destinations pending (R121). -/
theorem execRowld_empty (hx : ctxOf s = some x) (ha : ctxActive x = 0) : execRowld d a h n s
    = .next (advance (markPending s x (iNames (rowArg x d a n).names ++ [iS (a + 1)])) x .seq) := by
  rw [execRowld, runMem_at hx]
  simp only [rowldCheck_empty hp ha, ha, if_true, bind, Except.bind, finish_ok]

section
variable {r : RowArg} (hr : rowArg x d a n = r) (hready : RowReady s x r .read t) (hkept : keptBack t x true = false)
  (hsplit : splitRow t x r = .ok u)
include hr hready hkept hsplit

/-- A ROWLD that the core's L1 serves: the version is the one that the row was taken with (R194). -/
theorem execRowld_fromL1 {bs : List (Byte × Bool)} {v : Word} (hh : h = 0)
    (hwaits : ∀ l ∈ rowLines t x r, storeWaits t x.c l.1 l.2 = false) (hcopy : rowCopy t x (rowLines t x r) = some (bs, v))
    (hfresh : ∀ pl, rowPhys t x r = some pl → (sideOf t pl).1 = v) :
    execRowld d a h n s = .next (advance (issueLong u x (iNames r.names ++ [iS (a + 1)]) .value (rowWrites r bs)
      [((a + 1).toNat, v.setWidth 64)] [] none).2 x .seq) := by
  subst hr hh
  obtain ⟨t₀, h₀, h₁⟩ := hready.walked
  have hserved : (if (0 : BitVec 1) == 1 || (rowLines t x (rowArg x d a n)).any (fun l => storeWaits t x.c l.1 l.2) then none
      else rowCopy t x (rowLines t x (rowArg x d a n))) = some (bs, v) := by
    rw [List.any_eq_false.2 fun l hl => by simp [hwaits l hl], hcopy]
    rfl
  rw [execRowld, runMem_at hready.at_]
  simp only [rowldCheck_ok hp hready.active hready.mapped h₀, rowldCheck_ok hp hready.active hready.mapped h₁, if_neg hready.active,
    raiseCause_none hready.good, hkept, parkIf_false, hserved, hsplit, bind, Except.bind]
  cases hphys : rowPhys t x (rowArg x d a n) with
  | none => exact finish_ok ..
  | some pl =>
    simp only [Option.map_some, hfresh pl hphys, ne_eq, not_true_eq_false, if_false]
    exact finish_ok ..

/-- A ROWLD that the home serves (R194, notes/assumptions/61.md). -/
theorem execRowld_fromHome {ver : Word} (hh : h = 1 ∨ rowCopy t x (rowLines t x r) = none)
    (hside : (∃ pl, rowPhys t x r = some pl ∧ setMem t.sidePoison pl = false ∧ (sideOf t pl).1 = ver)
      ∨ (rowPhys t x r = none ∧ ∃ k w, peerRow t x r = some k ∧ fget? (partOf t x.pn).peerSides k = some (ver, w)))
    (hfree : ∀ l ∈ rowLines t x r, lineHeld t x l.1 l.2 = false ∧ storeWaits t x.c l.1 l.2 = false) :
    let ls := rowLines t x r
    let v := touchLines u x ls false
    let z := rowTake v x ls (rowPhys v x r)
    execRowld d a h n s = .next (advance (issueLong z x (iNames r.names ++ [iS (a + 1)]) .value
      (rowWrites r (homeBytes t x r.va r.len)) [((a + 1).toNat, ver.setWidth 64)] (fetchingOf z x ls) none).2 x .seq) := by
  subst hr
  dsimp only
  obtain ⟨t₀, h₀, h₁⟩ := hready.walked
  have hheld : (rowLines t x (rowArg x d a n)).any (fun l => lineHeld t x l.1 l.2 || storeWaits t x.c l.1 l.2) = false :=
    List.any_eq_false.2 fun l hl => by simp [hfree l hl]
  have haway : (if h == 1 || (rowLines t x (rowArg x d a n)).any (fun l => storeWaits t x.c l.1 l.2) then none
      else rowCopy t x (rowLines t x (rowArg x d a n))) = none := by
    rcases hh with rfl | hh
    · rfl
    · rw [hh, ite_self]
  rw [execRowld, runMem_at hready.at_]
  simp only [rowldCheck_ok hp hready.active hready.mapped h₀, rowldCheck_ok hp hready.active hready.mapped h₁, if_neg hready.active,
    raiseCause_none hready.good, hkept, parkIf_false, haway, hheld, bind, Except.bind]
  rcases hside with ⟨pl, hphys, hclean, rfl⟩ | ⟨hphys, k, w, hpeer, hver⟩
  · simp only [hphys, Option.map_some, hclean, hsplit]
    exact finish_ok ..
  · simp only [hphys, hpeer, peerSide, hver, Option.map_none, hsplit]
    exact finish_ok ..

end

end

/-! ## ROWST and ROWADD (R195, R220) -/

section
variable {t : State} {x : Ctx} {r : RowArg}

/-- The lanes of a row operation that a poisoned word kills. -/
def rowKills (t : State) (x : Ctx) (r : RowArg) : Mask :=
  ((r.names.map (rowOfName t x)).zip r.masks).foldl (fun m e => m ||| (e.1.poison &&& e.2)) 0#32

/-- The bytes that a row operation writes, by their places in the row: those of the active row words, and poison where a word is
poisoned; a sum over an uncorrectable word is not formed (R182, R195). -/
def rowBytes (t : State) (x : Ctx) (r : RowArg) (add : Bool) : List (Nat × Option Byte) :=
  (List.range (r.len / 4)).flatMap (fun w =>
    let v := lane ((r.names.map (rowOfName t x)).getD (w / 32) freeRow).words (w % 32)
    let o := (loadWords 6 (homeBytes t x r.va r.len)).getD w (0, false)
    let put (b : List (Option Byte)) : List (Nat × Option Byte) := (List.range 4).map (fun i => (4 * w + i, b.getD i none))
    if !(ctxActive x).getLsbD (w % 32) then []
    else if (rowKills t x r).getLsbD (w % 32) then put []
    else if !add then put ((bytesOf32 v).map some)
    else if o.2 then []
    else put ((bytesOf32 (rowAddWord o.1 v)).map some))

/-- The row's home with its lines written, its version raised by one and its writer recorded (R195, R220). -/
def rowWritten (t : State) (x : Ctx) (r : RowArg) (asid pl : Nat) (bytes : List (Nat × Option Byte)) : State :=
  let v := (rowLines t x r).foldl (fun s l => atHome s x asid l.2
    ((bytes.filter (fun e => (r.va + e.1) / 128 == l.2)).map (fun e => ((r.va + e.1) % 128, e.2)))) (settleStores t x.c x.slot)
  { v with sides := fset v.sides pl ((sideOf v pl).1 + 1, x.l.tenant) (0, 0) }

theorem rowUpdate_ok {pl asid : Nat} (hgood : rowCause t x r .write = none) (hkept : keptBack t x false = false)
    (hheld : ∀ l ∈ rowLines t x r, atomHeld t x 2 l = false) (hphys : rowPhys t x r = some pl)
    (hasid : asidFor (partOf t x.pn) x.l.tenant r.va = some asid) (add : Bool) :
    rowUpdate t x r add = .ok (killLanes
      (touchLines (rowWritten t x r asid pl (rowBytes t x r add)) x (rowLines t x r) false) x (rowKills t x r) .seq) := by
  have hwait : (keptBack t x false || (rowLines t x r).any (fun l => atomHeld t x 2 l)) = false := by
    rw [hkept, Bool.false_or, List.any_eq_false.2 fun l hl => by simp [hheld l hl]]
  simp only [rowUpdate, raiseCause_none hgood, hwait, parkIf_false, hphys, hasid, Option.getD_some, bind, Except.bind]
  rfl

variable {s : State} {d : BitVec 7} {a : BitVec 6} {n : BitVec 3} {add : Bool}

/-- ROWST and ROWADD are one word but for what they write. -/
def rowWrite (add : Bool) (d : BitVec 7) (a : BitVec 6) (n : BitVec 3) (s : State) : Host.Outcome State Fault Refusal :=
  runMem s (fun x => match rowstCheck s x (rowArg x d a n) a with
    | .ok _ => if ctxActive x = 0 then s else prepRow s x (rowArg x d a n) .write
    | .error _ => s) (fun x s => do
    let s ← rowstCheck s x (rowArg x d a n) a
    if ctxActive x = 0 then .ok (s, .seq) else rowUpdate s x (rowArg x d a n) add)

theorem execRowst_eq : execRowst d a n s = rowWrite false d a n s := rfl
theorem execRowadd_eq : execRowadd d a n s = rowWrite true d a n s := rfl

/-- A row write whose row can be written (R195). -/
theorem rowWrite_writes {pl asid : Nat} (hr : rowArg x d a n = r) (hready : RowReady s x r .write t)
    (hp : Settled x.w (iS a :: iNames r.names)) (hkept : keptBack t x false = false)
    (hheld : ∀ l ∈ rowLines t x r, atomHeld t x 2 l = false) (hphys : rowPhys t x r = some pl)
    (hasid : asidFor (partOf t x.pn) x.l.tenant r.va = some asid) : rowWrite add d a n s = .next (killDone
      (touchLines (rowWritten t x r asid pl (rowBytes t x r add)) x (rowLines t x r) false) x (rowKills t x r)) := by
  subst hr
  obtain ⟨t₀, h₀, h₁⟩ := hready.walked
  rw [rowWrite, runMem_at hready.at_]
  simp only [rowstCheck_ok hp hready.active hready.mapped h₀, rowstCheck_ok hp hready.active hready.mapped h₁, if_neg hready.active,
    rowUpdate_ok hready.good hkept hheld hphys hasid, bind, Except.bind, finish_done]

/-- With no active lane a row write does nothing (R121). -/
theorem rowWrite_empty (hx : ctxOf s = some x) (ha : ctxActive x = 0) (hp : Settled x.w [iS a]) :
    rowWrite add d a n s = .next (advance s x .seq) := by
  rw [rowWrite, runMem_at hx]
  simp only [rowstCheck_empty hp ha, ha, if_true, bind, Except.bind, finish_ok]

end

/-- Settles O30: ROWLD by where its row comes from; ROWST and ROWADD by the bytes that they write, a sum of BF16 being the exact
one rounded once. -/
theorem rowOperations : Obligations.RowOperations := by
  simp only [Obligations.RowOperations, exec_rowld, exec_rowst, exec_rowadd, execRowst_eq, execRowadd_eq]
  refine ⟨fun s t u x d a h n hp => ⟨?_, ?_, execRowld_empty hp⟩, fun s t x d a n pl asid => ?_, fun s x d a n hx ha hp =>
    ⟨rowWrite_empty hx ha hp, rowWrite_empty hx ha hp⟩⟩
  · intro bs v hready hkept hh hwaits hcopy hsplit hfresh
    exact execRowld_fromL1 hp rfl hready hkept hsplit hh hwaits hcopy hfresh
  · intro ver hready hkept hh hside hfree hsplit
    exact execRowld_fromHome hp rfl hready hkept hsplit hh hside hfree
  · refine ⟨fAdd .bf16 .rne false, fun p q _ _ => sumOf_fAdd .bf16 .rne false p q, ?_⟩
    intro hready hp hkept hheld hphys hasid
    exact ⟨rowWrite_writes rfl hready hp hkept hheld hphys hasid, rowWrite_writes rfl hready hp hkept hheld hphys hasid⟩

end Sys2Proof.Machine
end

section
/-! PROOF. The tile operations (O40). -/

namespace Sys2Proof.Machine

open Sys2Proof

/-! ## Descriptors (R229, R231) -/

/-- A descriptor within its limits, as the statement of R231 has them. -/
def descShaped (c : DWord) : Prop :=
  field c 63 48 = 0 ∧ field c 47 32 ≠ 0 ∧ field c 31 0 % 16 = 0 ∧ 16 ≤ field c 31 0 ∧ field c 31 0 ≤ 65536

theorem descBad_eq_false_iff {c : DWord} : (field c 63 48 != 0 || field c 47 32 == 0 || field c 31 0 % 16 != 0
    || decide (field c 31 0 < 16) || decide (field c 31 0 > 65536)) = false ↔ descShaped c := by
  simp [descShaped, and_assoc]

section
variable {a b c d : DWord}

theorem tileDesc_ok (hs : descShaped c) (hsrc : a.toNat % 16 = 0) (hdst : b.toNat % 16 = 0) (hss : field d 31 0 % 16 = 0)
    (hds : field d 63 32 % 16 = 0) (idx : List Nat) (idxDst : Bool) : tileDesc a b c d idx idxDst
      = .ok ⟨a.toNat, b.toNat, field c 47 32, field c 31 0, field d 31 0, field d 63 32, idx, idxDst⟩ := by
  refine bind_ok (raiseIf_ok (descBad_eq_false_iff.2 hs) ..) ?_
  rw [List.find?_eq_none.2 (by simp [hsrc, hdst, hds, hss])]

theorem tileDesc_bad (hs : ¬ descShaped c) (idx : List Nat) (idxDst : Bool) :
    tileDesc a b c d idx idxDst = .error (.trap cDescBad c) :=
  bind_stops (raiseIf_stops (eq_true_of_ne_false (mt descBad_eq_false_iff.1 hs)) ..)

theorem tileDesc_misaligned (hs : descShaped c) (hsrc : a.toNat % 16 ≠ 0) (idx : List Nat) (idxDst : Bool) :
    tileDesc a b c d idx idxDst = .error (.trap cMisaligned a) := by
  refine bind_ok (raiseIf_ok (descBad_eq_false_iff.2 hs) ..) ?_
  rw [List.find?_cons_of_pos (by simp [hsrc])]
  simp only [raise, tv_toNat, BitVec.setWidth_eq]

end

/-- A tile operation starts with its future and its lines (R216, R223). -/
theorem startTile_ok {s u v : State} {pn c l kind i : Nat} {h : DWord} {q : TileDesc} {src dst : Place}
    (htake : takeFuture s c l kind = .ok (i, h, u))
    (hown : ownLines u pn c (launchOf u l).tenant (if src = .memory then tileLines q else [])
      (if dst = .memory then tileDstLines q else []) = .ok v) :
    startTile s pn c l kind q src dst = .ok (h, (startOp v pn c l (some i) (.tile q src dst)).2) :=
  bind_ok htake (bind_ok hown rfl)

/-- Settles O40, word by word: the checks of each pass, and the operation starts, or the check of the descriptor stops it. -/
theorem tileOperations : Obligations.TileOperations := by
  intro s u v x d a b g i grp h hx hp hpb c e q shaped aligned srcFits dstFits idx idxRun idxFits starts
  obtain ⟨-, -, -, -, hl, -⟩ := ctxOf_eq hx
  refine ⟨fun hs ⟨hsrc, hdst, hds, hss⟩ => ?_, fun hs => ?_, fun hs hsrc => ?_⟩
  · have hq : tileDesc (sRun x.w a 0) (sRun x.w a 1) (sRun x.w a 2) (sRun x.w a 3) [] false = .ok q :=
      tileDesc_ok hs hsrc hdst hss hds [] false
    refine ⟨fun hfit hw hk htake hown => ?_, fun hfit hw hk htake hown => ?_, fun hk htake hown => ?_,
      fun hfit hg hw hk htake hown => ?_, fun hfit ⟨hal, hidx⟩ hw hk htake hown => ?_, fun hfit ⟨hal, hidx⟩ hw hk htake hown => ?_⟩
    · have hstart : startTld s x.pn x.c x.w.launch (descRun x a 4)
          = .ok (h, (startOp v x.pn x.c x.w.launch (some i) (.tile q .memory (.scratch [x.c]))).2) :=
        bind_ok hq (bind_ok (checkScratch_ok (hl ▸ hfit)) (startTile_ok htake hown))
      exact engineWord_next hx hp (bind_ok hstart (bind_ok hq (bind_ok hw rfl))) hk
    · exact engineWord_next hx hp (bind_ok hq (bind_ok (checkScratch_ok hfit) (bind_ok hw (startTile_ok htake hown)))) hk
    · exact engineWord_next hx hp (bind_ok hq (startTile_ok htake hown)) hk
    · exact engineWord_next hx hp
        (bind_ok hg (bind_ok hq (bind_ok (checkScratch_ok hfit) (bind_ok hw (startTile_ok htake hown))))) hk
    all_goals
      refine engineWord_next hx hpb (bind_ok hq (bind_ok (raiseIf_ok (by simp [hal]) ..) ?_)) hk
      exact bind_ok (checkScratch_ok hfit) (bind_ok (checkScratch_ok hidx) (bind_ok hw (startTile_ok htake hown)))
  · have hq : tileDesc (sRun x.w a 0) (sRun x.w a 1) (sRun x.w a 2) (sRun x.w a 3) [] false = .error (.trap cDescBad c) :=
      tileDesc_bad hs [] false
    exact ⟨engineWord_traps hx hp (bind_stops (bind_stops hq)), engineWord_traps hx hp (bind_stops hq),
      engineWord_traps hx hp (bind_stops hq), engineWord_traps hx hpb (bind_stops hq), engineWord_traps hx hpb (bind_stops hq)⟩
  · exact engineWord_traps hx hp (bind_stops (tileDesc_misaligned hs hsrc [] false))

end Sys2Proof.Machine
end

section
/-! PROOF. Collective work entries, partition counters, aborts and LAUNCH (O42). -/

namespace Sys2Proof.Machine

open Sys2Proof

/-! ## What a start leaves as it is -/

theorem takeFuture_ok {s u : State} {c l kind i : Nat} {h : DWord} (ht : takeFuture s c l kind = .ok (i, h, u)) :
    ∃ m : Core → FMap Future, u = modCore s c (fun k => { k with futures := m k }) := by
  unfold takeFuture at ht
  split at ht
  · cases ht
  · cases ht
    exact ⟨fun k => fput k.futures _ _, rfl⟩

theorem partOf_takeFuture {s u : State} {c l kind i : Nat} {h : DWord} (ht : takeFuture s c l kind = .ok (i, h, u)) (n : Nat) :
    partOf u n = partOf s n := by
  obtain ⟨m, rfl⟩ := takeFuture_ok ht
  exact partOf_modCore s c n _

@[simp] theorem partOf_startOp (s : State) (pn c l n : Nat) (future : Option Nat) (kind : EngineKind) :
    partOf (startOp s pn c l future kind).2 n = partOf s n := rfl

@[simp] theorem partOf_modOp (s : State) (c o n : Nat) (f : EngineOp → EngineOp) : partOf (modOp s c o f) n = partOf s n := by
  unfold modOp
  split <;> rfl

/-! ## The words -/

/-- The counter is the tenant's (R242). -/
theorem checkCounter_ok {s : State} {pn tenant n : Nat} (h : (counterOf (partOf s pn) n).2 = tenant) :
    checkCounter s pn tenant n = .ok () :=
  raiseIf_ok (by simp [h]) ..

/-- What the checks of a posted entry ask of it (R229, R238). -/
structure PostChecked (s : State) (x : Ctx) (off : DWord) (w : List DWord) : Prop where
  entry : w = dwordsOf ((scratchRead (clOf s x.c x.w.launch) off.toNat 64).map (·.1)) 8
  inside : off.toNat + 64 ≤ scratchBytes x.l
  aligned : off.toNat % 16 = 0
  fields : postBad w = false
  tree : treeOk s (partOf s x.pn) (postTree w) x.l.tenant = true
  src : (postSrc w).toNat % 16 = 0
  roff : (postRoff w).toNat % 16 = 0
  route : rteValid (rteOf x.w (postRte w)) = true
  arm : postArmv w = true → (counterOf (partOf s x.pn) (postArmcnt w)).2 = x.l.tenant
  done : postDonev w = true → (counterOf (partOf s x.pn) (postDonecnt w)).2 = x.l.tenant
  waits : waitRuns s x [(off.toNat, 64)] = .ok ()

/-- Whether the time of a posted entry had passed when it was issued (R243, notes/assumptions/44.md). -/
def lateAtIssue (v : State) (time : Option DWord) : Bool :=
  (time.map (fun t => decide ((Config.freeDWord (takeFree v).1).toNat > t.toNat))).getD false

/-- An entry that its checks pass is posted (R238, R243). -/
theorem startPost_ok {s u v : State} {x : Ctx} {off h : DWord} {w : List DWord} {i : Nat} {time : Option DWord}
    (hw : PostChecked s x off w) (htake : takeFuture s x.c x.w.launch (if time.isSome then 15 else 14) = .ok (i, h, u))
    (hown : ownLines u x.pn x.c x.l.tenant (pieces 128 (postSrc w).toNat (postLen w)) [] = .ok v) :
    startPost s x off time = .ok (h, (startOp (takeFree v).2 x.pn x.c x.w.launch (some i)
      (.post ⟨w, rteOf x.w (postRte w), time, lateAtIssue v time, v.stamp, false, 0⟩)).2) := by
  obtain ⟨rfl, hin, hal, hfields, htree, hsrc, hroff, hroute, harm, hdone, hwaits⟩ := hw
  refine bind_ok hwaits (bind_ok (raiseIf_ok (by simp [hfields]) ..) (bind_ok (raiseIf_ok (by simp [htree]) ..) ?_))
  refine bind_ok (raiseIf_ok (by simp [hal]) ..) (bind_ok (raiseIf_ok (by simp [hsrc]) ..) ?_)
  refine bind_ok (raiseIf_ok (by simp [hroff]) ..) (bind_ok (checkScratch_ok hin) (bind_ok (raiseIf_ok (by simp [hroute]) ..) ?_))
  refine optional_bind_ok (fun ha => checkCounter_ok (harm ha)) (optional_bind_ok (fun hd => checkCounter_ok (hdone hd)) ?_)
  exact bind_ok htake (bind_ok hown rfl)

/-- Settles O42, word by word: the checks of each pass, and what it does is the effect stated. -/
theorem collectiveWords : Obligations.CollectiveWords := by
  intro s u v x d a b cnt i h hx l
  refine ⟨?_, ?_, ?_, ?_⟩
  · intro off w r checked posts ⟨hin, hal, hfields, htree, hsrc, hroff, hroute, harm, hdone, hown⟩ hwaits hk
    have hw : PostChecked s x off w := ⟨rfl, hin, hal, hfields, htree, hsrc, hroff, hroute, harm, hdone, hwaits⟩
    exact ⟨fun hp htake => engineWord_next hx hp (startPost_ok (time := none) hw htake hown) hk,
      fun hp htake => ⟨_, engineWord_next hx hp (startPost_ok (time := some (sReg x.w b)) hw htake hown) hk⟩⟩
  · intro hp
    refine ⟨fun hown => ⟨fun hk hdone => ?_, fun hlast => ?_⟩, fun hforeign => ?_⟩
    · refine runWord_ok hx (bind_ok (checkPending_ok hp) (bind_ok (checkCounter_ok hown) (bind_ok (parkIf_ok ?_) rfl)))
      rw [hk, hdone]
      rfl
    · exact runWord_ok hx (bind_ok (needLast_ok hlast) (bind_ok (checkPending_ok hp) (bind_ok (checkCounter_ok hown) rfl)))
    · exact runWord_traps hx (bind_ok (checkPending_ok hp) (bind_stops (raiseIf_stops (by simp [hforeign]) ..)))
  · intro t at_ r w hp htree hal hfit hk htake
    have htrees : treeOf (partOf w x.pn) t = treeOf (partOf s x.pn) t := by
      rw [partOf_modOp, partOf_startOp, partOf_takeFuture htake]
    have starts {o : State} (hrest : (match (treeOf (partOf w x.pn) t).bitmap with
          | some bits => .ok (h, writeBitmap w x.c r.1 bits)
          | none => .ok (h, startAbort (modTree w x.pn t (fun q => { q with issuers := q.issuers ++ [(x.c, r.1)] })) x.pn t))
          = (.ok (h, o) : Except Stop (DWord × State))) : exec (.cabort d a b) s = .next (engineDone o x d h) := by
      refine engineWord_next hx hp (bind_ok (raiseIf_ok (by simp [t, htree]) ..) (bind_ok (raiseIf_ok (by simp [at_, hal]) ..) ?_)) hk
      exact bind_ok (checkScratch_ok hfit) (bind_ok htake hrest)
    rw [htrees] at starts
    exact ⟨fun hnone => starts (by rw [hnone]), fun bits hsome => starts (by rw [hsome])⟩
  · intro va r hp hal hk htake hown
    exact engineWord_next hx hp (bind_ok (raiseIf_ok (by simp [va, hal]) ..) (bind_ok htake (bind_ok hown rfl))) hk

end Sys2Proof.Machine
end

section
/-! PROOF. The words of the tile directory and of solicitations (O48). -/

namespace Sys2Proof.Machine

open Sys2Proof

/-! ## What a taken future leaves as it is -/

section
variable {s u : State} {c l kind i : Nat} {h : DWord} (ht : takeFuture s c l kind = .ok (i, h, u))
include ht

theorem clOf_takeFuture (e n : Nat) : clOf u e n = clOf s e n := by
  obtain ⟨m, rfl⟩ := takeFuture_ok ht
  rcases eq_or_ne e c with rfl | he
  · simp only [clOf, coreOf_modCore_same]
  · simp only [clOf, coreOf_modCore_other s _ he]

theorem fenced_takeFuture (e : Nat) : (coreOf u e).fenced = (coreOf s e).fenced := by
  obtain ⟨m, rfl⟩ := takeFuture_ok ht
  rcases eq_or_ne e c with rfl | he
  · rw [coreOf_modCore_same]
  · rw [coreOf_modCore_other s _ he]

theorem scopeCores_takeFuture (x : Ctx) (scope g : Nat) : scopeCores u x scope g = scopeCores s x scope g := by
  simp only [scopeCores, partOf_takeFuture ht, fenced_takeFuture ht]

end

/-- An access that nothing keeps back is kept back as a load neither (R211). -/
theorem keptBack_load {s : State} {x : Ctx} (h : keptBack s x false = false) : keptBack s x true = false := by
  have hnone : ∀ a ∈ pathArmed s x, False := by simpa [keptBack, List.any_eq_false] using h
  exact List.any_eq_false.2 fun a ha => (hnone a ha).elim

/-- What one of two sources gives, whichever is chosen. -/
theorem chosen_bind_ok {α β : Type} {c : Prop} [Decidable c] {m n : Except Stop α} {k : α → Except Stop β} {r : Except Stop β} {a : α}
    (h : (if c then m else n) = .ok a) (hk : k a = r) : (if c then m >>= k else n >>= k) = r := by
  split at h
  · rw [if_pos ‹c›, bind_ok h hk]
  · rw [if_neg ‹¬ c›, bind_ok h hk]

/-! ## Replies (R260) -/

theorem checkReply_ok {x : Ctx} {r : Responder} {vector : Bool} (hr : x.w.resp = some r) (hy : r.reply = none)
    (hv : (r.vw != 0) = vector) : checkReply x vector = .ok r := by
  simp only [checkReply, hr]
  exact bind_ok (raiseIf_ok (by simp [hy]) ..) (bind_ok (raiseIf_ok (by simp [hv]) ..) rfl)

theorem checkReply_none {x : Ctx} (hr : x.w.resp = none) (vector : Bool) :
    checkReply x vector = .error (.trap cNotResponder 0) := by
  simp only [checkReply, hr, raise]

/-! ## The words -/

/-- REPLYV with its checks passed: the value that it gives, or the identity with REL_UE where a granule is poisoned (R260, R369). -/
theorem execReplyv_answers {s : State} {x : Ctx} {a : BitVec 6} {r : Responder} {bs : List (Byte × Bool)} (hx : ctxOf s = some x)
    (hp : Settled x.w [iS a]) (hcheck : checkReply x true = .ok r) (hkeeps : keptBack s x false = false)
    (hal : (sReg x.w a).toNat % 4 = 0) (hfit : (sReg x.w a).toNat + valueLen r.op r.vw ≤ scratchBytes x.l)
    (hbs : bs = scratchRead (clOf s x.c x.w.launch) (sReg x.w a).toNat (valueLen r.op r.vw)) :
    execReplyv a s = .next (advance (match bs.findIdx? (·.2) with
      | some i => captureReply (coreUe s x.c x.l.id ((sReg x.w a).toNat + i) 2) x r ⟨none, false⟩
      | none => captureReply s x r ⟨some (wordsOf (bs.map (·.1))), true⟩) x .seq) := by
  refine runWord_ok hx (bind_ok (checkPending_ok hp) (bind_ok hcheck (bind_ok (raiseIf_ok (bne_eq_false_iff_eq.2 hal) ..) ?_)))
  refine bind_ok (checkScratch_ok hfit) (bind_ok (parkIf_ok hkeeps) ?_)
  dsimp only
  rw [← hbs]
  cases bs.findIdx? (·.2) <;> rfl

/-- Settles O48, word by word: the checks of each pass, and what it does is the effect stated. -/
theorem censusWords : Obligations.CensusWords := by
  refine ⟨fun s t u x d a b v i f h rows hx => ⟨?_, ?_, ?_⟩, fun s u x d a b f g h r hx => ⟨?_, ?_, ?_, ?_⟩⟩
  · intro desc base space len names hp hfields hm hload hrefs hslot hscratch hfree gen
    obtain ⟨hp, hpn⟩ := settled_append.1 hp
    obtain ⟨hpa, hpd⟩ := settled_append.1 hp
    rw [exec_treg, execTreg, scalarDone, warpDone]
    refine runWord_ok hx (bind_ok (checkPending_ok hpa) ?_)
    simp only [desc, base] at hfields
    simp only [hfields]
    refine bind_ok (checkPending_ok (settled_append.2 ⟨hpn, hpd⟩)) (bind_ok (checkMapped_ok hm) (bind_ok hload (bind_ok hrefs ?_)))
    refine bind_ok (raiseIf_ok ?_ ..) (bind_ok (raiseIf_ok ?_ ..) ?_)
    · simpa using hslot
    · simpa using fun h0 => (hscratch h0).1
    · exact optional_bind_ok (fun h0 => checkScratch_ok (hscratch h0).2) (by simp only [hfree]; rfl)
  · exact fun hp htile hstill =>
      runWord_ok hx (bind_ok (checkPending_ok hp) (bind_ok (raiseIf_ok htile ..) (bind_ok (raiseIf_ok hstill ..) rfl)))
  · intro dst off dc hp htile hstill hsh hspace hhigh hcore hlaunch hscratch hal hfit hfree hw htake
    have hplace : (isMoving (dirOf (coreOf s x.c) (tileIndex (sReg x.w a)))
        || (dirOf (coreOf s x.c) (tileIndex (sReg x.w a))).state == .shadow) = false := by
      rw [hstill, Bool.false_or]
      exact beq_false_of_ne hsh
    have htarget : (field dst 63 8 != 0 || !coreIn (partOf s x.pn) dc || (fget? (coreOf s dc).launches x.w.launch).isNone
        || scratchBytes x.l == 0 || off % 16 != 0
        || decide (off + (dirOf (coreOf s x.c) (tileIndex (sReg x.w a))).len > scratchBytes x.l)) = false := by
      rw [hhigh, hcore, Option.isNone_eq_false_iff.2 hlaunch, hal, beq_false_of_ne hscratch, decide_eq_false (Nat.not_lt.2 hfit)]
      rfl
    refine runWord_ok hx (bind_ok (checkPending_ok hp) (bind_ok (raiseIf_ok htile ..) (bind_ok (raiseIf_ok hplace ..) ?_)))
    refine bind_ok (raiseIf_ok (bne_eq_false_iff_eq.2 hspace) ..) (bind_ok (raiseIf_ok htarget ..) ?_)
    simp only [dc, dst] at hfree
    simp only [hfree]
    exact bind_ok hw (bind_ok htake rfl)
  · intro v scope po ro plen hp hbad hg hpo hro hpay hres hkeeps hdone hw htake
    refine engineWord_next hx hp (bind_ok (raiseIf_ok hbad ..) (chosen_bind_ok hg ?_)) (keptBack_load hkeeps)
    refine bind_ok (raiseIf_ok (bne_eq_false_iff_eq.2 hpo) ..) (bind_ok (raiseIf_ok (bne_eq_false_iff_eq.2 hro) ..) ?_)
    refine bind_ok (checkScratch_ok hpay) (bind_ok (checkScratch_ok (by rwa [← Nat.add_assoc])) (bind_ok (parkIf_ok ?_) ?_))
    · rw [hkeeps, hdone]
      rfl
    · refine bind_ok hw (bind_ok htake ?_)
      simp only [clOf_takeFuture htake, scopeCores_takeFuture htake]
      rfl
  · intro h f hp hbad hkind
    have hgood : (handleBad s x.pn x.w.launch h || field h 44 40 != 26) = false := by
      rw [hbad, hkind]
      rfl
    rw [exec_census, execCensus, scalarDone, warpDone]
    exact runWord_ok hx (bind_ok (checkPending_ok hp) (bind_ok (raiseIf_ok hgood ..) rfl))
  · intro hp hr hy hkeeps v bs answers
    refine ⟨fun hvw => ?_, fun hvw hal hfit => ?_⟩
    · have hcheck : checkReply x false = .ok r := checkReply_ok hr hy (by simp [hvw])
      exact runWord_ok hx (bind_ok (checkPending_ok hp) (bind_ok hcheck (bind_ok (parkIf_ok hkeeps) rfl)))
    · have hcheck : checkReply x true = .ok r := checkReply_ok hr hy (by simp [hvw])
      have hword := execReplyv_answers hx hp hcheck hkeeps hal hfit rfl
      refine ⟨fun hclean => ?_, fun i hmark => ?_⟩
      · rw [exec_replyv, hword, hclean]
        rfl
      · rw [exec_replyv, hword, hmark]
        rfl
  · exact fun hp hr => ⟨runWord_traps hx (bind_ok (checkPending_ok hp) (bind_stops (checkReply_none hr false))),
      runWord_traps hx (bind_ok (checkPending_ok hp) (bind_stops (checkReply_none hr true)))⟩

end Sys2Proof.Machine
end

section
/-! PROOF. Feed spans and posted entries (O45). -/

namespace Sys2Proof.Machine

open Sys2Proof

/-! ## The launch while a block is made ready -/

theorem askLine_launches (s : State) (pn c who asid line : Nat) : (askLine s pn c who asid line).launches = s.launches := by
  unfold askLine
  dsimp only
  split
  · rfl
  · split <;> rfl

theorem prepBlock_launches (s : State) (pn c : Nat) (id : BitVec 32) (who tenant pc : Nat) :
    (prepBlock s pn c id who tenant pc).launches = s.launches := by
  unfold prepBlock
  split
  · rfl
  · dsimp only
    split
    · split
      · exact prepRuns_launches ..
      · exact (askLine_launches ..).trans (prepRuns_launches ..)
    · exact prepRuns_launches ..

theorem dropAnswers_launches (s : State) (pn who : Nat) : (dropAnswers s pn who).launches = s.launches := by
  unfold dropAnswers
  split <;> rfl

/-! ## The words of a feed span (R232, R233) -/

/-- The state in which the words of a feed program's span run: the program's registers stand in the feed engine's slot. -/
def feedStart (z : State) (c l : Nat) (f : Feed) (sp : Span) : State :=
  let w : Warp := { warpReset l 0 f.pc 0 0 (Vector.replicate 4 0) with s := f.s, tags := f.tags, span := some sp, tvec := f.pc }
  modLaunch (modOp (setWarp { z with cur := (c, feedSlot) } c feedSlot w) c f.op (fun e => { e with passed := true })) l
    (fun v => { v with term := none })

/-- The state after the words of a span: the slot is empty again, and the launch's termination stands as it was. -/
def feedBack (z : State) (c l : Nat) (t : State) : State :=
  { modLaunch (clearFeedSlot t c) l (fun v => { v with term := (launchOf z l).term }) with cur := z.cur }

section
variable {z t : State} {c l : Nat} {f : Feed} {sp : Span} {v : Warp}

theorem feedSpan_exited (h : runFeed c 32 (feedStart z c l f sp) = .exited t) :
    feedSpan z c l f sp = endOp (feedBack z c l t) c f.op .done 0 0 := by
  unfold feedStart at h
  simp only [feedSpan, h, feedBack]

theorem feedSpan_failed {cause : Nat} {pc : PC} (h : runFeed c 32 (feedStart z c l f sp) = .failed t cause pc) :
    feedSpan z c l f sp = failFeed (feedBack z c l t) c f cause pc := by
  unfold feedStart at h
  simp only [feedSpan, h, feedBack]

theorem feedSpan_waits (h : runFeed c 32 (feedStart z c l f sp) = .waits t v) :
    feedSpan z c l f sp = modCl (feedBack z c l t) c l (fun q => { q with feed := some { f with
      s := v.s, tags := v.tags, started := true, span := v.span.map (fun sp => { sp with parked := false }) } }) := by
  unfold feedStart at h
  simp only [feedSpan, h, feedBack]

/-- The future on which the next span of a feed program waits (R227, R233). -/
def feedWait : Wait → Option DWord
  | .future h => some h
  | _ => none

theorem feedSpan_goesOn (h : runFeed c 32 (feedStart z c l f sp) = .go t v) :
    feedSpan z c l f sp = modCl (feedBack z c l t) c l (fun q => { q with feed := some { f with
      pc := v.prim.pc, s := v.s, tags := v.tags, started := true, span := none, wait := feedWait v.prim.wait } }) := by
  unfold feedStart at h
  simp only [feedSpan, h, feedBack]
  rfl

end

/-! ## The issue of a feed span (R232, R294) -/

/-- Nothing keeps the next span of a feed program back: its launch runs, and the future on which it waits is complete. -/
theorem feed_startable {s : State} {l : Nat} {f : Feed} (hrun : (launchOf s l).status = .running) (hstop : (launchOf s l).stop = none)
    (hwait : ∀ h, f.wait = some h → handleComplete s h = true) : ¬ ((launchOf s l).status ≠ .running ∨ (launchOf s l).stop.isSome
    ∨ (f.wait.map (handleComplete s)).getD true = false) := by
  rintro (h | h | h)
  · exact h hrun
  · simp [hstop] at h
  · cases hw : f.wait with
    | none => simp [hw] at h
    | some v => simp [hw, hwait v hw] at h

section
variable {s s₁ : State} {c l : Nat} {f : Feed} (hfeed : (clOf s c l).feed = some f)
include hfeed

theorem execFeedSpanIssue_again {sp : Span} (hsp : f.span = some sp)
    (hv : (launchOf s l).status = .running ∨ (launchOf s l).status = .halting) :
    execFeedSpanIssue c l s = .next (feedSpan s c l f sp) := by
  simp only [execFeedSpanIssue, hfeed, hsp, if_pos hv]

variable (hsp : f.span = none) (hrun : (launchOf s l).status = .running) (hstop : (launchOf s l).stop = none)
  (hwait : ∀ h, f.wait = some h → handleComplete s h = true)
  (hs₁ : s₁ = prepBlock s (partOfCore s c) c (launchOf s l).id (askOp f.op) (launchOf s l).tenant f.pc.toNat)

include hsp hrun hstop hwait hs₁

theorem execFeedSpanIssue_unfetched {code : Nat}
    (hcause : fetchCause s₁ (partOf s₁ (partOfCore s c)) c (launchOf s l).tenant f.pc.toNat = some code) :
    execFeedSpanIssue c l s = .next (failFeed s₁ c f code f.pc) := by
  subst hs₁
  simp only [execFeedSpanIssue, hfeed, hsp, if_neg (feed_startable hrun hstop hwait), hcause]

variable (hcause : fetchCause s₁ (partOf s₁ (partOfCore s c)) c (launchOf s l).tenant f.pc.toNat = none)
  (hal : f.pc.toNat % 4 = 0)
include hcause hal

theorem execFeedSpanIssue_away
    (haway : blockAway s₁ (partOf s₁ (partOfCore s c)) c (askOp f.op) (launchOf s l).tenant f.pc.toNat = true) :
    execFeedSpanIssue c l s = .next s₁ := by
  subst hs₁
  simp only [execFeedSpanIssue, hfeed, hsp, if_neg (feed_startable hrun hstop hwait), hcause, if_neg (not_not.2 hal), haway,
    if_true]

theorem execFeedSpanIssue_starts {sp : Span} {w : Warp}
    (hw : w = { warpReset l 0 f.pc 0 0 (Vector.replicate 4 0) with s := f.s, tags := f.tags })
    (hnext : sp = nextSpan s₁ c (partOfCore s c) (launchOf s l).tenant w false)
    (haway : blockAway s₁ (partOf s₁ (partOfCore s c)) c (askOp f.op) (launchOf s l).tenant f.pc.toNat = false)
    (hwalk : walkReaches sp.words (f.pc.toNat % 128 / 4) 33 0 = true) (hhead : headerFaulty sp.hword (f.pc.toNat % 128 / 4) = false)
    (htags : tagsHold (dropAnswers s₁ (partOfCore s c) (askOp f.op)) w sp 1 = false) :
    execFeedSpanIssue c l s = .next (feedSpan (dropAnswers s₁ (partOfCore s c) (askOp f.op)) c l f sp) := by
  subst hs₁ hw hnext
  simp only [execFeedSpanIssue, hfeed, hsp, if_neg (feed_startable hrun hstop hwait), hcause, if_neg (not_not.2 hal), haway, hwalk,
    hhead, htags, Bool.false_eq_true, Bool.true_eq_false, if_false]

end

/-! ## Posted entries (R239, R243) -/

theorem execPostedEntryFire_fires {s : State} {c k : Nat} {op : EngineOp} {q : Posted} {time : DWord}
    (hop : fget? (coreOf s c).engines k = some op) (hkind : op.kind = .post q) (hq : q.fired = false)
    (hmay : mayFire s (partOfCore s c) q time = true) :
    execPostedEntryFire c k time (postTree q.w) s = .next (firePost s (partOfCore s c) c k op q time) := by
  simp [execPostedEntryFire, hop, hkind, hq, hmay]

section
variable {s : State} {pn c o : Nat} {e : EngineOp} {q : Posted} {time : DWord}

theorem firePost_aborted (h : (treeOf (partOf s pn) (postTree q.w)).aborted = true) :
    firePost s pn c o e q time = endOp s c o .aborted cAborted 0 := if_pos h

variable {dst : Nat} (hlive : (treeOf (partOf s pn) (postTree q.w)).aborted = false)
  (hdst : dst = if rteRank q.route = 0xFFFF then field (reg (partOf s pn) .netRank) 15 0 else rteRank q.route)
include hlive hdst

theorem firePost_fenced (h : peerFenced s (partOf s pn) dst = true) :
    firePost s pn c o e q time = endOp s c o .failed cAborted 0 := by
  subst hdst
  exact (if_neg (ne_true_of_eq_false hlive)).trans (if_pos h)

variable {s₁ s₂ t : State} {lines : List Nat} {bs : List (Byte × Bool)} (hpeer : peerFenced s (partOf s pn) dst = false)
  (hs₁ : s₁ = prepRange s pn (some (c, (launchOf s e.launch).id)) e.tenant .read (postSrc q.w).toNat (postLen q.w))
include hpeer hs₁

theorem firePost_faults {f : OpFault} (h : runFault s₁ pn e.tenant (postSrc q.w).toNat (postLen q.w) 0 .read = some f) :
    firePost s pn c o e q time = endOp s₁ c o .failed f.2.1 0 := by
  subst hdst hs₁
  refine (if_neg (ne_true_of_eq_false hlive)).trans ((if_neg (ne_true_of_eq_false hpeer)).trans ?_)
  simp only [h]

variable (hfault : runFault s₁ pn e.tenant (postSrc q.w).toNat (postLen q.w) 0 .read = none)
  (hlines : lines = pieces 128 (postSrc q.w).toNat (postLen q.w)) (hs₂ : s₂ = opTouch s₁ pn c e lines [])
  (hheld : ∀ l ∈ lines, opLineHeld s₂ pn c e l false = false)
  (hbs : bs = ((lines.flatMap (fun l => opLine s₂ pn e l)).drop ((postSrc q.w).toNat % 128)).take (postLen q.w))
  (ht : t = dropAnswers s₂ pn (askOp e.order))
include hfault hlines hs₂ hheld hbs ht

theorem firePost_poisoned (h : ∃ b ∈ bs, b.2 = true) : firePost s pn c o e q time = endOp t c o .failed cRelUe 0 := by
  subst hdst hs₁ hlines hs₂ hbs ht
  refine (if_neg (ne_true_of_eq_false hlive)).trans ((if_neg (ne_true_of_eq_false hpeer)).trans ?_)
  simp only [hfault]
  exact (if_neg (by simpa using hheld)).trans (if_pos (List.any_eq_true.2 h))

theorem firePost_sends (h : ∀ b ∈ bs, b.2 = false) :
    let late := q.lateAtIssue || (q.time.map (fun t => decide (time.toNat > t.toNat + postSlot q.w))).getD false
    let skew := q.time.isSome && decide (2 * (fget t.ptpOffset (octOf c) 0).toInt.natAbs > postSlot q.w)
    let v := markFuture t c e.future late skew
    let v := if skew then modPart v pn (fun p => { p with skewCount := p.skewCount + 1 }) else v
    firePost s pn c o e q time = chunkPackets (modOp v c o (fun e => { e with
      passed := true, kind := .post { q with fired := true, unacked := ceilDiv (postLen q.w) 8192 } })) pn c o q (bs.map (·.1)) := by
  subst hdst hs₁ hlines hs₂ hbs ht
  refine (if_neg (ne_true_of_eq_false hlive)).trans ((if_neg (ne_true_of_eq_false hpeer)).trans ?_)
  simp only [hfault]
  refine (if_neg (by simpa using hheld)).trans (if_neg ?_)
  exact ne_true_of_eq_false (List.any_eq_false.2 fun b hb => by simp [h b hb])

end

/-- Settles O45: the program by its span in issue or by its next block, and what the words of a span leave; the posted entry by what
ends it, and by the packets that it sends. -/
theorem feedsAndPosts : Obligations.FeedsAndPosts := by
  refine ⟨fun s c l f hfeed => ?_, fun s c k op q time hop hkind hq => ?_⟩
  · intro v pn who w s₁ sp away go runs
    have span_runs (z : State) (sp : Span) (hterm : (launchOf z l).term = v.term)
        (hgo : execFeedSpanIssue c l s = .next (feedSpan z c l f sp)) : runs z sp := by
      refine ⟨fun t ht => ?_, fun t cause pc ht => ?_, fun t r ht => ?_, fun t r ht => ?_⟩
      · rw [feedSpan_exited (l := l) ht, feedBack, hterm] at hgo
        exact hgo
      · rw [feedSpan_failed (l := l) ht, feedBack, hterm] at hgo
        exact hgo
      · rw [feedSpan_waits (l := l) ht, feedBack, hterm] at hgo
        exact hgo
      · rw [feedSpan_goesOn (l := l) ht, feedBack, hterm] at hgo
        exact hgo
    refine ⟨fun sp hsp hv => span_runs s sp rfl (execFeedSpanIssue_again hfeed hsp hv), fun hsp hrun hstop hwait => ?_⟩
    refine ⟨fun code hcause => execFeedSpanIssue_unfetched hfeed hsp hrun hstop hwait rfl hcause, fun hcause hal => ?_⟩
    refine ⟨execFeedSpanIssue_away hfeed hsp hrun hstop hwait rfl hcause hal, fun haway hwalk hhead htags => span_runs _ _ ?_ ?_⟩
    · have hlaunches := (dropAnswers_launches s₁ pn who).trans (prepBlock_launches ..)
      rw [launchOf_congr hlaunches]
    · exact execFeedSpanIssue_starts hfeed hsp hrun hstop hwait rfl hcause hal rfl rfl haway hwalk hhead htags
  · intro pn p src n dst s₁ lines s₂ bs t fires hmay
    refine ⟨execPostedEntryFire_fires hop hkind hq hmay, firePost_aborted, fun hlive hpeer => firePost_fenced hlive rfl hpeer,
      fun hlive hpeer => ⟨fun f hf => firePost_faults hlive rfl hpeer rfl hf, fun hfault hheld => ⟨?_, ?_⟩⟩⟩
    · exact firePost_poisoned hlive rfl hpeer rfl hfault rfl rfl hheld rfl rfl
    · exact firePost_sends hlive rfl hpeer rfl hfault rfl rfl hheld rfl rfl

end Sys2Proof.Machine
end

section
/-! PROOF. Writes at the home slices, accesses of general-purpose cores, invalidations and fetches (O33). -/

namespace Sys2Proof.Machine

open Sys2Proof

/-! ## What a write at a home slice leaves of the homes (R291, R378) -/

/-- A write of memory changes bytes, keys, zero marks and poison marks, and nothing that does not depend on them. -/
theorem physWrite_keeps {α : Type} {g : State → α} (hg : ∀ (s : State) m k z q,
    g { s with mem := m, unitKey := k, zeroLines := z, poison := q } = g s) (s : State) (p : Partition) (key pa : Nat)
    (bs : List (Nat × Option Byte)) : g (physWrite s p key pa bs) = g s := by
  have hzero (s : State) (line : Nat) : g (unmarkZero s key line) = g s := by
    unfold unmarkZero
    split
    · exact hg s _ _ _ s.poison
    · rfl
  have hkey (s : State) (u : Nat) : g (rekeyUnit s p key u) = g s := by
    unfold rekeyUnit
    split
    · rfl
    · exact hg s _ _ s.zeroLines s.poison
  have hbyte (s : State) (a : Nat) (b : Byte) : g (physWriteByte s p key a b) = g s := by
    let r := rekeyUnit (unmarkZero s key (a / 128)) p key (a / 16)
    exact (hg r _ r.unitKey r.zeroLines r.poison).trans ((hkey ..).trans (hzero ..))
  unfold physWrite
  refine (foldl_keeps g (fun s u _ => ?_) _).trans (foldl_keeps g (fun s e _ => ?_) s)
  · split
    · exact hg s s.mem s.unitKey s.zeroLines _
    · split
      · exact hg s s.mem s.unitKey s.zeroLines _
      · rfl
  · split
    · exact hbyte ..
    · rfl

/-- The homes of lines are the same in two states: the slices that are lost, and the registers of each partition (R291, R378). -/
def SameHomes (s t : State) : Prop := t.slicesDown = s.slicesDown ∧ ∀ n, (partOf t n).regs = (partOf s n).regs

theorem homeOf_of_regs {p q : Partition} (h : q.regs = p.regs) (va : Nat) : homeOf q va = homeOf p va := by
  have hmap : reg q .parInterleave = reg p .parInterleave := by
    rw [reg, reg, regOf, regOf, h]
  unfold homeOf
  rw [hmap]

theorem homeLost_of_sameHomes {s t : State} (h : SameHomes s t) (n va : Nat) :
    homeLost t (partOf t n) va = homeLost s (partOf s n) va := by
  obtain ⟨hdown, hregs⟩ := h
  rw [homeLost, homeLost, hdown, homeOf_of_regs (hregs n)]

theorem partOf_markDirty_regs (s : State) (pn pline n : Nat) : (partOf (markDirty s pn pline) n).regs = (partOf s n).regs := by
  unfold markDirty
  rcases eq_or_ne n pn with rfl | hn
  · rw [partOf_modPart_same]
  · rw [partOf_modPart_other s _ hn]

theorem sameHomes_homeWriteAt (s : State) (pn : Nat) (writer : Option Nat) (asid line : Nat) (t : Nat × DWord)
    (bs : List (Nat × Option Byte)) : SameHomes s (homeWriteAt s pn writer asid line t bs) := by
  have hdown := physWrite_keeps (g := State.slicesDown) (fun _ _ _ _ _ => rfl) s (partOf s pn) (leafKey t.2)
    (4096 * t.1 + 128 * (line % 32)) bs
  have hregs (n : Nat) := (partOf_markDirty_regs _ pn (32 * t.1 + line % 32) n).trans
    (physWrite_keeps (g := fun s => (partOf s n).regs) (fun _ _ _ _ _ => rfl) s (partOf s pn) (leafKey t.2)
      (4096 * t.1 + 128 * (line % 32)) bs)
  unfold homeWriteAt invalidateOthers
  dsimp only
  split <;> exact ⟨hdown, hregs⟩

theorem sameHomes_homeWrite (s : State) (pn : Nat) (writer : Option Nat) (asid line : Nat) (bs : List (Nat × Option Byte)) :
    SameHomes s (homeWrite s pn writer asid line bs) := by
  unfold homeWrite
  dsimp only
  split
  · exact ⟨rfl, fun _ => rfl⟩
  · split
    · exact ⟨rfl, fun _ => rfl⟩
    · exact sameHomes_homeWriteAt ..

/-- An access whose home is not lost raises nothing (R378). -/
theorem reportLost_kept {s : State} {pn va : Nat} (h : homeLost s (partOf s pn) va = false) (who : Who) :
    reportLost s pn who va = s := by
  simp only [reportLost, h, Bool.false_eq_true, if_false]

/-! ## Waiting stores of a core (R205, R208, R216, R291) -/

/-- The state in which a waiting store is performed: the page of a line that no slice keeps has been walked (R292, R319). -/
def storeReady (s : State) (c : Nat) (r : StoreReq) : State :=
  if (lineKept (partOf s (partOfCore s c)) r.asid r.line).isSome then s
  else prepPage s (partOfCore s c) (some (c, (launchOf s r.launch).id)) (ownerOf r.tenant r.asid) r.asid .write (r.line / 32)

section
variable {s t : State} {c n : Nat} {r : StoreReq} (hr : (coreOf s c).storeQ[n]? = some r)
include hr

theorem coreStore_waitsL1 (he : r.early = true) (hfirst : ∃ e ∈ (coreOf s c).storeQ.take n, e.early = true ∧ e.warp = r.warp) :
    coreStore s c n = s := by
  have hany : ((coreOf s c).storeQ.take n).any (fun e => e.early && e.warp == r.warp) = true := by
    simpa [List.any_eq_true] using hfirst
  simp only [coreStore, hr, he, firstEarly, hany, Bool.not_true, Bool.and_false, Bool.false_eq_true, if_true, if_false]

theorem coreStore_reachesL1 (he : r.early = true)
    (hfirst : ∀ e ∈ (coreOf s c).storeQ.take n, e.early = true → e.warp ≠ r.warp) :
    coreStore s c n = reachL1 s c (fun e => e == r) := by
  have hany : ((coreOf s c).storeQ.take n).any (fun e => e.early && e.warp == r.warp) = false := by
    simpa [List.any_eq_false] using hfirst
  simp only [coreStore, hr, he, firstEarly, hany, Bool.not_false, Bool.and_true, if_true]

variable (he : r.early = false)
include he

theorem coreStore_behind (hb : storeBehind (coreOf s c).storeQ n r = true) : coreStore s c n = s := by
  simp only [coreStore, hr, he, hb, Bool.false_eq_true, if_true, if_false]

variable (hb : storeBehind (coreOf s c).storeQ n r = false) (ht : t = storeReady s c r)
include hb ht

theorem coreStore_untranslated
    (hc : (lineCause t (partOf t (partOfCore s c)) (ownerOf r.tenant r.asid) r.asid r.line .write).isSome = true) :
    coreStore s c n = popStore t c n := by
  subst ht
  unfold storeReady at hc ⊢
  simp only [coreStore, hr, he, hb, Bool.false_eq_true, if_false, hc, if_true]

variable (hc : lineCause t (partOf t (partOfCore s c)) (ownerOf r.tenant r.asid) r.asid r.line .write = none)
include hc

theorem coreStore_peer {rank : Nat} (hpeer : peerOf t (partOf t (partOfCore s c)) r.asid (128 * r.line) = some rank) :
    coreStore s c n = if r.warp ≠ 64 ∧ lineHeldByOthers t (partOfCore s c) r.asid r.line then t
      else peerStore t (partOfCore s c) c n rank r := by
  subst ht
  unfold storeReady at hc hpeer ⊢
  simp only [coreStore, hr, he, hb, Bool.false_eq_true, if_false, hc, Option.isSome_none, hpeer]

variable (hhome : peerOf t (partOf t (partOfCore s c)) r.asid (128 * r.line) = none)
include hhome

/-- What becomes of a store whose line lies in the partition. -/
theorem coreStore_home : coreStore s c n =
    if storeHeld t (partOf t (partOfCore s c)) (partOfCore s c) r then llcTouch t (partOfCore s c) r.asid r.line
    else popStore (reportLost (homeWrite t (partOfCore s c) (some c) r.asid r.line r.bytes) (partOfCore s c)
      (some (c, (launchOf s r.launch).id)) (128 * r.line)) c n := by
  subst ht
  unfold storeReady at hc hhome ⊢
  simp only [coreStore, hr, he, hb, Bool.false_eq_true, if_false, hc, Option.isSome_none, hhome]

theorem coreStore_held (hh : storeHeld t (partOf t (partOfCore s c)) (partOfCore s c) r = true) :
    coreStore s c n = llcTouch t (partOfCore s c) r.asid r.line :=
  (coreStore_home hr he hb ht hc hhome).trans (if_pos hh)

theorem coreStore_writes (hh : storeHeld t (partOf t (partOfCore s c)) (partOfCore s c) r = false)
    (hlost : homeLost t (partOf t (partOfCore s c)) (128 * r.line) = false) :
    coreStore s c n = popStore (homeWrite t (partOfCore s c) (some c) r.asid r.line r.bytes) c n := by
  rw [coreStore_home hr he hb ht hc hhome, if_neg (ne_true_of_eq_false hh),
    reportLost_kept ((homeLost_of_sameHomes (sameHomes_homeWrite ..) _ _).trans hlost)]

end

/-! ## Accesses of general-purpose cores (R349, R375, R389, R417) -/

theorem gpcOutside_inside {p : Partition} {pa n : Nat} (h : ∀ f ∈ pieces 4096 pa n, frameIn p f = true) :
    gpcOutside p pa n = none :=
  List.find?_eq_none.2 fun f hf => by simp [h f hf]

/-- The state after a refused access of a core that the event names (R375). -/
theorem gpcRefuse_named {u : State} {oct core : Nat} (h : u.writer = some (oct, core)) (pn f : Nat) :
    gpcRefuse u pn f = modPart (logViolation (takeFree u).2 pn 2 oct core 0 (BitVec.ofNat 64 f)) pn
      (fun p => { p with gpcErr := true }) := by
  have hagent (k : Nat) : gpcAgent (takeFree u).2 pn k = (oct, core) := by
    simp only [gpcAgent, takeFree_writer, h, Option.getD_some]
  simp only [gpcRefuse, gpcViolation, hagent, tv]

section
variable {u : State} {pn pa : Nat}

theorem gpcAccess_down (h : (partOf u pn).kernelDown = true) (a : GpcAccess) : gpcAccess u pn pa a = u := if_pos h

variable (hup : (partOf u pn).kernelDown = false)
include hup

section
variable {bs : List Byte} {release : Bool}

theorem gpcAccess_store (hin : gpcOutside (partOf u pn) pa bs.length = none)
    (hheld : gpcHeld u pn pa bs.length true release = false) :
    gpcAccess u pn pa (.store bs release) = physStore (modPart u pn (fun p => { p with gpcErr := false })) pn pa (placed bs) := by
  simp only [gpcAccess, hup, hin, hheld, Bool.false_eq_true, if_false]

theorem gpcAccess_store_outside {f : Nat} (hout : gpcOutside (partOf u pn) pa bs.length = some f) :
    gpcAccess u pn pa (.store bs release) = gpcRefuse u pn f := by
  simp only [gpcAccess, hup, hout, Bool.false_eq_true, if_false]

end

section
variable {n : Nat}

theorem gpcAccess_capability {l : List Byte} (h : capRead (reg (partOf u pn) .capBase).toNat pa n = some l) :
    gpcAccess u pn pa (.load n) = gpcTakes u pn l := by
  simp only [gpcAccess, hup, h, Bool.false_eq_true, if_false]

variable (hcap : capRead (reg (partOf u pn) .capBase).toNat pa n = none)
include hcap

theorem gpcAccess_load (hin : gpcOutside (partOf u pn) pa n = none) (hheld : gpcHeld u pn pa n false false = false) :
    gpcAccess u pn pa (.load n) = gpcConsumes (gpcTakes u pn (physRead u (partOf u pn) 0 pa n)) pn pa n := by
  simp only [gpcAccess, hup, hcap, hin, hheld, Bool.false_eq_true, if_false]

theorem gpcAccess_load_outside {f : Nat} (hout : gpcOutside (partOf u pn) pa n = some f) :
    gpcAccess u pn pa (.load n) = gpcRefuse u pn f := by
  simp only [gpcAccess, hup, hcap, hout, Bool.false_eq_true, if_false]

end

section
variable {op k : Nat} {wide release : Bool} {v : BitVec 64} (hk : k = if wide then 8 else 4)
include hk

theorem gpcAccess_amo (hin : gpcOutside (partOf u pn) pa k = none) (hheld : gpcHeld u pn pa k true release = false) :
    gpcAccess u pn pa (.amo op wide v release) = gpcConsumes (physStore (gpcTakes u pn (physRead u (partOf u pn) 0 pa k)) pn pa
      (placed (leBytes k (gpcAmo op (8 * k) (leNat (physRead u (partOf u pn) 0 pa k)) (v.toNat % 2 ^ (8 * k)))))) pn pa k := by
  subst hk
  simp only [gpcAccess, hup, hin, hheld, Bool.false_eq_true, if_false]

theorem gpcAccess_amo_outside {f : Nat} (hout : gpcOutside (partOf u pn) pa k = some f) :
    gpcAccess u pn pa (.amo op wide v release) = gpcRefuse u pn f := by
  subst hk
  simp only [gpcAccess, hup, hout, Bool.false_eq_true, if_false]

end

end

/-! ## Fetched lines (R292, R294, R325) -/

/-- A frame with a counted fill is never as at reset. -/
theorem countFill_ne_reset (e : FrameEntry) (home frameOct : Nat) : countFill e home frameOct ≠ frameReset := by
  intro h
  have hfills := congrArg (fun e => fget? e.fills home) h
  simp [countFill, frameReset] at hfills

theorem frameOf_modFrame_same {s : State} {f : Nat} {g : FrameEntry → FrameEntry} (h : g (frameOf s f) ≠ frameReset) :
    frameOf (modFrame s f g) f = g (frameOf s f) := by
  rw [frameOf, modFrame, fset, if_neg h, fget_fput_same]

theorem settleLine_frames (s : State) (pn : Nat) (e : LlcLine) : (settleLine s pn e).frames = s.frames := by
  unfold settleLine
  split
  · rfl
  · refine foldl_keeps State.frames (fun s k _ => foldl_keeps State.frames (fun s i _ => ?_) s) s
    dsimp only
    split <;> rfl

theorem dropLlc_frames (s : State) (pn : Nat) (f : LlcLine → Bool) : (dropLlc s pn f).frames = s.frames :=
  foldl_keeps State.frames (fun s e _ => settleLine_frames s pn e) _

theorem llcRoom_frames (s : State) (pn : Nat) (e : LlcLine) : (llcRoom s pn e).frames = s.frames := by
  unfold llcRoom
  dsimp only
  split
  · rfl
  · split
    · rfl
    · split
      · exact dropLlc_frames ..
      · rfl

/-- A line that was decrypted under no key that has changed leaves memory as it is (R317). -/
theorem settleLine_mem {e : LlcLine} (h : e.oldKeys = []) (s : State) (pn : Nat) : (settleLine s pn e).mem = s.mem := by
  unfold settleLine
  rw [h]
  split <;> rfl

theorem dropLlc_mem {s : State} {pn : Nat} (h : ∀ l ∈ (partOf s pn).llc, l.oldKeys = []) (f : LlcLine → Bool) :
    (dropLlc s pn f).mem = s.mem :=
  foldl_keeps State.mem (fun s e he => settleLine_mem (h e (List.mem_filter.1 he).1) s pn) _

theorem llcRoom_mem {s : State} {pn : Nat} (h : ∀ l ∈ (partOf s pn).llc, l.oldKeys = []) (e : LlcLine) :
    (llcRoom s pn e).mem = s.mem := by
  unfold llcRoom
  dsimp only
  split
  · rfl
  · split
    · rfl
    · split
      · exact dropLlc_mem (s := l1Forget (takeFree s).2 pn _ _) h _
      · rfl

section
variable (s : State) (pn : Nat) (e : LlcLine)

theorem frameOf_lineCame : frameOf (lineCame s pn e) e.frame
    = countFill (frameOf s e.frame) (e.slice / 16) (e.frame / Config.framesPerOctant) := by
  have hroom := llcRoom_frames (modFrame s e.frame fun f => countFill f (e.slice / 16) (e.frame / Config.framesPerOctant)) pn e
  have hframes : (lineCame s pn e).frames = _ := hroom
  rw [frameOf, hframes]
  exact frameOf_modFrame_same (s := s) (countFill_ne_reset _ _ _)

theorem llcHas_lineCame : llcHas (partOf (lineCame s pn e) pn) e.asid e.line = true := by
  unfold lineCame
  simp [llcHas]

theorem lineCame_fetched {g : LlcLine} (hg : g ∈ (partOf (lineCame s pn e) pn).fetches) (ha : g.asid = e.asid) :
    g.line ≠ e.line := by
  unfold lineCame at hg
  simp only [partOf_modPart_same, List.mem_filter] at hg
  simpa [ha] using hg.2

end

theorem lineCame_mem {s : State} {pn : Nat} (h : ∀ l ∈ (partOf s pn).llc, l.oldKeys = []) (e : LlcLine) :
    (lineCame s pn e).mem = s.mem := llcRoom_mem (s := modFrame s e.frame _) h e

/-! ## The events -/

section
variable {s : State} {pn idx : Nat} {f : LlcLine} (hf : (partOf s pn).fetches[idx]? = some f)
include hf

theorem execLineFetchComplete_unread (h : (frameOf s f.frame).fb = true ∧ (frameOf s f.frame).rd = false) :
    execLineFetchComplete pn idx s = .next s := by
  simp only [execLineFetchComplete, hf, if_pos h]

theorem execLineFetchComplete_comes (h : (frameOf s f.frame).fb = true → (frameOf s f.frame).rd = true) :
    execLineFetchComplete pn idx s = .next (lineCame s pn f) := by
  have hread : ¬ ((frameOf s f.frame).fb = true ∧ (frameOf s f.frame).rd = false) := by
    rintro ⟨hfb, hrd⟩
    exact Bool.false_ne_true (hrd.symm.trans (h hfb))
  simp only [execLineFetchComplete, hf, if_neg hread]

end

/-- A general-purpose core's access acts in the core's name, which the state does not keep (R375). -/
theorem exec_gpcAccess (s : State) (pn oct core pa : Nat) (a : GpcAccess) : exec (.homeSliceWrite (.gpc pn oct core pa a)) s
    = .next { gpcAccess { s with writer := some (oct, core) } pn pa a with writer := none } := rfl

/-- Settles O33, event by event. -/
theorem homeEvents : Obligations.HomeEvents := by
  refine ⟨fun s c n r hr => ?_, fun s pn oct core pa n bs op wide rel v a => ?_, fun s c line => ?_, fun s pn idx f hf => ?_,
    fun s pn f data hin hfb hrd hlen => ?_⟩
  · intro pn q who tenant t p go
    have ht : t = storeReady s c r := rfl
    refine ⟨fun he hfirst => congrArg _ (coreStore_waitsL1 hr he hfirst),
      fun he hfirst => congrArg _ (coreStore_reachesL1 hr he hfirst),
      fun he => ⟨fun hb => congrArg _ (coreStore_behind hr he hb), fun hb => ⟨fun hc => congrArg _
        (coreStore_untranslated hr he hb ht hc), fun hc => ⟨fun hhome => ⟨fun hh hlost => ?_, fun hh => ?_⟩,
          fun rank hpeer => ?_⟩⟩⟩⟩
    · exact congrArg _ (coreStore_writes hr he hb ht hc hhome hh hlost)
    · exact congrArg _ (coreStore_held hr he hb ht hc hhome hh)
    · have hstore := coreStore_peer hr he hb ht hc hpeer
      refine ⟨fun hw hheld => congrArg _ (hstore.trans (if_pos ⟨hw, hheld⟩)), fun hgo => congrArg _ (hstore.trans (if_neg ?_))⟩
      rintro ⟨hw, hheld⟩
      exact hgo.elim hw fun hfree => Bool.false_ne_true (hfree.symm.trans hheld)
  · intro u p acts inside outside put see consumes refuse
    have acts_of {a : GpcAccess} {t : State} (h : gpcAccess u pn pa a = t) : acts a t := by
      rw [← h]
      exact exec_gpcAccess s pn oct core pa a
    have hrefuse (f : Nat) : gpcRefuse u pn f = refuse f := gpcRefuse_named rfl pn f
    refine ⟨fun hdown => acts_of (gpcAccess_down hdown a), fun hup => ⟨fun hin hheld => ?_, fun hcap hin hheld => ?_,
      fun l hcap => ?_, ⟨fun hin hheld => ?_, fun f hout => ?_⟩, fun f hout => ?_, fun f hcap hout => ?_⟩⟩
    · exact acts_of (gpcAccess_store hup (gpcOutside_inside hin) hheld)
    · exact acts_of (gpcAccess_load hup hcap (gpcOutside_inside hin) hheld)
    · exact acts_of (gpcAccess_capability hup hcap)
    · exact acts_of (gpcAccess_amo hup rfl (gpcOutside_inside hin) hheld)
    · exact acts_of ((gpcAccess_amo_outside hup rfl hout).trans (hrefuse f))
    · exact acts_of ((gpcAccess_store_outside hup hout).trans (hrefuse f))
    · exact acts_of ((gpcAccess_load_outside hup hcap hout).trans (hrefuse f))
  · refine ⟨_, rfl, ?_, ?_, ?_, rfl⟩
    · simp
    · simp
    · simp +contextual
  · refine ⟨fun hfb hrd => execLineFetchComplete_unread hf ⟨hfb, hrd⟩, fun hread => ?_⟩
    exact ⟨_, execLineFetchComplete_comes hf hread, llcHas_lineCame s pn f, fun g hg => lineCame_fetched s pn f hg,
      frameOf_lineCame s pn f, fun hkeys => lineCame_mem hkeys f⟩
  · simp [execFileBlockRead, hin, hfb, hrd, hlen]

end Sys2Proof.Machine
end
